-- ==== Sys2Proof/Word.lean ====
section
/-! DEFINITION. The word types of the HL-8192 and their plainest arithmetic (R87, R101). -/

namespace Sys2Proof

/-- A 32-bit word: scalar registers, control registers, caddy words (R101, R29). -/
abbrev Word := BitVec 32

/-- A byte of any memory (R158). -/
abbrev Byte := BitVec 8

/-- A register number as an instruction field names it (R75). -/
abbrev Reg := BitVec 5

/-- A vector register: 256 bits (R101, R184). -/
abbrev VReg := BitVec 256

/-- A word from a number, modulo 2^32. -/
abbrev word (n : Nat) : Word := BitVec.ofNat 32 n

end Sys2Proof
end

