-- ==== Sys2Proof/Machine/Flags.lean ====
section
/-! DEFINITION. The floating-point exception flags (R107) and the fields of FCTL (R106). -/

namespace Sys2Proof.Machine

/-- Flags in the bit order of FFLG: NX, UF, OF, DZ, NV. -/
abbrev FFlags := BitVec 5

def fNV : FFlags := 0b00001#5
def fDZ : FFlags := 0b00010#5
def fOF : FFlags := 0b00100#5
def fUF : FFlags := 0b01000#5
def fNX : FFlags := 0b10000#5

/-- A flag where a condition holds. -/
def flagIf (b : Bool) (f : FFlags) : FFlags := if b then f else 0#5

/-- The rounding modes of FCTL.RM. -/
inductive Rounding where
  | rne | rtz | rup | rdn
deriving DecidableEq, Repr

/-- FCTL.RM. -/
def rmOf (fctl : Word) : Rounding :=
  match (fctl.extractLsb' 0 2).toNat with
  | 0 => .rne | 1 => .rtz | 2 => .rup | _ => .rdn

/-- FCTL.FIN and FCTL.FOUT. -/
def finOf (fctl : Word) : Bool := fctl.getLsbD 2
def foutOf (fctl : Word) : Bool := fctl.getLsbD 3

/-- The trap enables of FCTL in the bit order of FFLG. -/
def enablesOf (fctl : Word) : FFlags := fctl.extractLsb' 4 5

/-- The bits that FCTL and FFLG keep (R106, R107). -/
def fctlMask : Word := 0x1FF#32
def fflgMask : Word := 0x1F#32

end Sys2Proof.Machine
end

