-- ==== Sys2Proof/Syntax.lean ====
section
/-! DEFINITION. The syntax of the HL-8192: one constructor of Instr for each row of spec/opcode_table.json.
The core's instructions come first; their fields are those of the encodings (R75 to R77), and a field that an encoding must
have zero is no argument. The 87 steps of the module (host writes, MBOX commands, scheduler, engine and network events)
follow; what such a step is about (which core, which master, which packet) stands in the state's input when it runs. -/

namespace Sys2Proof

/-- The modifiers of a VEC instruction (R75, R76): lane width W, predicate, hold-B, hold-A. -/
structure Vm where
  w    : BitVec 2
  pred : BitVec 2
  hb   : BitVec 1
  ha   : BitVec 1
deriving DecidableEq, Repr

/-- One constructor per row of spec/opcode_table.json. -/
inductive Instr where
  /-- R111: sD := sA + sB modulo 2^32. -/
  | add (d a b : Reg)
  /-- R111: sD := sA − sB modulo 2^32. -/
  | sub (d a b : Reg)
  /-- R111: sD := sA and sB. -/
  | and (d a b : Reg)
  /-- R111: sD := sA or sB. -/
  | or (d a b : Reg)
  /-- R111: sD := sA xor sB. -/
  | xor (d a b : Reg)
  /-- R111: sD := sA and not sB. -/
  | andn (d a b : Reg)
  /-- R111: sD := sA shifted left by sB[4:0]. -/
  | sll (d a b : Reg)
  /-- R111: sD := sA shifted right logically by sB[4:0]. -/
  | srl (d a b : Reg)
  /-- R111: sD := sA shifted right arithmetically by sB[4:0]. -/
  | sra (d a b : Reg)
  /-- R111: sD := 1 if sA < sB as signed, else 0. -/
  | slt (d a b : Reg)
  /-- R111: sD := 1 if sA < sB as unsigned, else 0. -/
  | sltu (d a b : Reg)
  /-- R111: sD := the signed lesser of sA and sB. -/
  | min (d a b : Reg)
  /-- R111: sD := the signed greater of sA and sB. -/
  | max (d a b : Reg)
  /-- R111: sD := the unsigned lesser of sA and sB. -/
  | minu (d a b : Reg)
  /-- R111: sD := the unsigned greater of sA and sB. -/
  | maxu (d a b : Reg)
  /-- R111: sD := the low 32 bits of sA × sB. -/
  | mul (d a b : Reg)
  /-- R111: sD := the high 32 bits of the signed product. -/
  | mulh (d a b : Reg)
  /-- R111: sD := the high 32 bits of the unsigned product. -/
  | mulhu (d a b : Reg)
  /-- R111: sD := the signed quotient, truncated, with the fixed results for b = 0 and overflow. -/
  | div (d a b : Reg)
  /-- R111: sD := the unsigned quotient, or 0xFFFF_FFFF for b = 0. -/
  | divu (d a b : Reg)
  /-- R111: sD := the signed remainder, with the sign of a. -/
  | rem (d a b : Reg)
  /-- R111: sD := the unsigned remainder. -/
  | remu (d a b : Reg)
  /-- R111: sD := the number of leading zero bits of sA. -/
  | clz (d a : Reg)
  /-- R111: sD := the number of trailing zero bits of sA. -/
  | ctz (d a : Reg)
  /-- R111: sD := the number of 1 bits of sA. -/
  | popc (d a : Reg)
  /-- R111: sD := sA with its bits reversed. -/
  | brev (d a : Reg)
  /-- R112: sD := sA + sign-extended imm15. -/
  | addi (d a : Reg) (i : BitVec 15)
  /-- R112: sD := sA and the sign-extended immediate. -/
  | andi (d a : Reg) (i : BitVec 15)
  /-- R112: sD := sA or the sign-extended immediate. -/
  | ori (d a : Reg) (i : BitVec 15)
  /-- R112: sD := sA xor the sign-extended immediate. -/
  | xori (d a : Reg) (i : BitVec 15)
  /-- R112: sD := 1 if sA < the immediate as signed, else 0. -/
  | slti (d a : Reg) (i : BitVec 15)
  /-- R112: sD := 1 if sA < the immediate as unsigned, else 0. -/
  | sltiu (d a : Reg) (i : BitVec 15)
  /-- R113: sD := sA shifted left by shamt. -/
  | slli (d a : Reg) (s : BitVec 5)
  /-- R113: sD := sA shifted right logically by shamt. -/
  | srli (d a : Reg) (s : BitVec 5)
  /-- R113: sD := sA shifted right arithmetically by shamt. -/
  | srai (d a : Reg) (s : BitVec 5)
  /-- R114: sD := imm20 · 4096. -/
  | lui (d : Reg) (i : BitVec 20)
  /-- R115: Branches when sA = sB. -/
  | beq (a b : Reg) (off : BitVec 12)
  /-- R115: Branches when sA ≠ sB. -/
  | bne (a b : Reg) (off : BitVec 12)
  /-- R115: Branches when sA < sB as signed. -/
  | blt (a b : Reg) (off : BitVec 12)
  /-- R115: Branches when sA ≥ sB as signed. -/
  | bge (a b : Reg) (off : BitVec 12)
  /-- R115: Branches when sA < sB as unsigned. -/
  | bltu (a b : Reg) (off : BitVec 12)
  /-- R115: Branches when sA ≥ sB as unsigned. -/
  | bgeu (a b : Reg) (off : BitVec 12)
  /-- R116: sD := next_pc, and the core jumps by a signed parcel offset. -/
  | jal (d : Reg) (o : BitVec 20)
  /-- R117: The core jumps to (sA + imm) with bit 0 cleared, and sD := next_pc. -/
  | jalr (d a : Reg) (i : BitVec 15)
  /-- R118: Waits for outstanding work, then reads a control register into sD. -/
  | crr (d : Reg) (c : BitVec 12)
  /-- R118: Waits for outstanding work, then writes sA to a control register under R110. -/
  | crw (a : Reg) (c : BitVec 12)
  /-- R118: Sets the bits of sA in a control register and returns the old value. -/
  | crs (d a : Reg) (c : BitVec 12)
  /-- R118: Clears the bits of sA in a control register and returns the old value. -/
  | crc (d a : Reg) (c : BitVec 12)
  /-- R119: Raises TRAP precisely, with EINFO := sA. -/
  | trap (a : Reg)
  /-- R121: Returns from the privileged handler to EPC, or from a user-level interrupt to IEPC. -/
  | eret
  /-- R120: Raises BREAK; under an attached debugger the core is held, and otherwise the trap is fatal. -/
  | brk
  /-- R122: Passes the current window: in DET it counts as the rest of the quantum, and in non-DET it holds until the
      window closes. -/
  | yield
  /-- R124: Waits for outstanding work and engine commands, then ends the task, raises NDONE and ends any gang. -/
  | taskEnd
  /-- R125: Reads word w of the task's released record copy into sD. -/
  | lrecRd (d : Reg) (w : BitVec 5)
  /-- R126: Waits until the record is quiet, then writes a patchable record word and the recomputed CHECK as one update. -/
  | lrecPatch (a b : Reg) (w : BitVec 5)
  /-- R127: Waits until the record is quiet, then arms it under R35 and writes the result to sD. -/
  | lrecArm (d a b : Reg)
  /-- R129: Queues a request for m items from the task queue, to be granted at the window close. -/
  | tqReq (d a : Reg)
  /-- R130: Reads a sealed group entry word or the core's index in the group. -/
  | grpRd (d a : Reg) (s : BitVec 5)
  /-- R80: Compact form of add sd, sa, s0. -/
  | cMv (d a : Reg)
  /-- R80: Compact form of add sd, sd, sa. -/
  | cAdd (d a : Reg)
  /-- R80: Compact form of sub sd, sd, sa. -/
  | cSub (d a : Reg)
  /-- R80: Compact form of and sd, sd, sa. -/
  | cAnd (d a : Reg)
  /-- R80: Compact form of or sd, sd, sa. -/
  | cOr (d a : Reg)
  /-- R80: Compact form of xor sd, sd, sa. -/
  | cXor (d a : Reg)
  /-- R80: Compact form of addi sd, sd, imm6. -/
  | cAddi (d : Reg) (i : BitVec 6)
  /-- R80: Compact form of addi sd, s0, imm6. -/
  | cLi (d : Reg) (i : BitVec 6)
  /-- R80: Compact form of slli sd, sd, imm5. -/
  | cSlli (d : Reg) (i : BitVec 5)
  /-- R80: Compact form of srli sd, sd, imm5. -/
  | cSrli (d : Reg) (i : BitVec 5)
  /-- R80: Compact form of srai sd, sd, imm5. -/
  | cSrai (d : Reg) (i : BitVec 5)
  /-- R80: Compact form of beq sd, s0, off6. -/
  | cBeqz (d : Reg) (o : BitVec 6)
  /-- R80: Compact form of bne sd, s0, off6. -/
  | cBnez (d : Reg) (o : BitVec 6)
  /-- R80: Compact form of slt sd, sd, sa. -/
  | cSlt (d a : Reg)
  /-- R80: Compact form of jalr s0, sd, 0. -/
  | cJr (d : Reg)
  /-- R80: Compact form of task.end. -/
  | cEnd
  /-- R180: Loads a layout element into sD, after the checks of R175. -/
  | ld (d a b h : Reg) (l : BitVec 4)
  /-- R180: Stores the low bits of sD into a local layout element and stamps conflict words. -/
  | st (d a b h : Reg) (l : BitVec 4)
  /-- R180: Waits for the granule to be full, then loads it and leaves it full. -/
  | ldFe (d a b h : Reg) (l : BitVec 4)
  /-- R180: Waits for the granule to be full, then loads it and sets it empty. -/
  | ldFeClr (d a b h : Reg) (l : BitVec 4)
  /-- R180: Waits for the granule to be empty, then stores and sets it full. -/
  | stFe (d a b h : Reg) (l : BitVec 4)
  /-- R180: Stores and sets the granule full without waiting. -/
  | stFeForce (d a b h : Reg) (l : BitVec 4)
  /-- R180: Waits while the granule is behind the version, then loads, or raises VPASSED. -/
  | ldV (d a b h : Reg) (l : BitVec 4)
  /-- R180: Waits for version w − 1 to be reclaimed, then stores and sets the version. -/
  | stV (d a b h : Reg) (l : BitVec 4)
  /-- R181: Loads consecutive layout elements into the lanes of vD, with tail lanes zero. -/
  | vld (d a b h : Reg) (l : BitVec 4)
  /-- R181: Stores the lanes of vD into consecutive layout elements. -/
  | vst (d a b h : Reg) (l : BitVec 4)
  /-- R181: Vector full-empty load that keeps its granules full. -/
  | vldFe (d a b h : Reg) (l : BitVec 4)
  /-- R181: Vector full-empty load that empties its granules. -/
  | vldFeClr (d a b h : Reg) (l : BitVec 4)
  /-- R181: Vector full-empty store that waits for its granules to be empty. -/
  | vstFe (d a b h : Reg) (l : BitVec 4)
  /-- R181: Vector full-empty store that sets its granules full without waiting. -/
  | vstFeForce (d a b h : Reg) (l : BitVec 4)
  /-- R181: Vector versioned load. -/
  | vldV (d a b h : Reg) (l : BitVec 4)
  /-- R181: Vector versioned store. -/
  | vstV (d a b h : Reg) (l : BitVec 4)
  /-- R182: Reads word w of the core's view of a layout entry. -/
  | layRd (d : Reg) (w : BitVec 4) (h : Reg) (l : BitVec 4)
  /-- R182: Writes word w of the core's layout overlay. -/
  | layWr (a : Reg) (w : BitVec 4) (h : Reg) (l : BitVec 4)
  /-- R169: Reclaims a version of a VER region for this declared reader, advancing RVER when all readers have reclaimed. -/
  | reclaim (a h : Reg) (l : BitVec 4)
  /-- R182: Returns the canonical index of a coordinate tuple, or 0xFFFF_FFFF if it is out of range. -/
  | laySel (d a b h : Reg) (l : BitVec 4)
  /-- R286: Bank atomic add on an INT32 element; Q = 1 is the post form. -/
  | amoAdd (d a h : Reg) (q : BitVec 1) (l : BitVec 4)
  /-- R286: Bank atomic and. -/
  | amoAnd (d a h : Reg) (q : BitVec 1) (l : BitVec 4)
  /-- R286: Bank atomic or. -/
  | amoOr (d a h : Reg) (q : BitVec 1) (l : BitVec 4)
  /-- R286: Bank atomic xor. -/
  | amoXor (d a h : Reg) (q : BitVec 1) (l : BitVec 4)
  /-- R286: Bank atomic signed minimum. -/
  | amoMin (d a h : Reg) (q : BitVec 1) (l : BitVec 4)
  /-- R286: Bank atomic signed maximum. -/
  | amoMax (d a h : Reg) (q : BitVec 1) (l : BitVec 4)
  /-- R286: Bank atomic swap. -/
  | amoSwap (d a h : Reg) (q : BitVec 1) (l : BitVec 4)
  /-- R286: Bank atomic compare-and-swap using the pair sD, sD+1. -/
  | amoCas (d a h : Reg) (l : BitVec 4)
  /-- R286: Bank atomic bounded increment. -/
  | amoIncb (d a h : Reg) (l : BitVec 4)
  /-- R286: Bank atomic wrapping increment. -/
  | amoIncw (d a h : Reg) (l : BitVec 4)
  /-- R286: Bank atomic decrement unless zero. -/
  | amoDecnz (d a h : Reg) (l : BitVec 4)
  /-- R286: Bank atomic add up to a limit, using the pair sD, sD+1. -/
  | amoAddlim (d a h : Reg) (l : BitVec 4)
  /-- R296: Ticketed FP32 add, applied in ticket order. -/
  | tamoFadd (d a h : Reg) (l : BitVec 4)
  /-- R296: Ticketed maximum. -/
  | tamoFmax (d a h : Reg) (l : BitVec 4)
  /-- R296: Ticketed minimum. -/
  | tamoFmin (d a h : Reg) (l : BitVec 4)
  /-- R296: Ticketed or. -/
  | tamoOr (d a h : Reg) (l : BitVec 4)
  /-- R296: Ticketed update that fills its ticket without changing the element. -/
  | tamoSkip (d a h : Reg) (l : BitVec 4)
  /-- R297: Waits until the task's tamos are accepted and the named round is complete at the region's granules. -/
  | tfence (a h : Reg)
  /-- R311: Announced add, applied at the window close. -/
  | annAmoAdd (d a h : Reg) (l : BitVec 4)
  /-- R311: Announced and. -/
  | annAmoAnd (d a h : Reg) (l : BitVec 4)
  /-- R311: Announced or. -/
  | annAmoOr (d a h : Reg) (l : BitVec 4)
  /-- R311: Announced xor. -/
  | annAmoXor (d a h : Reg) (l : BitVec 4)
  /-- R311: Announced signed minimum. -/
  | annAmoMin (d a h : Reg) (l : BitVec 4)
  /-- R311: Announced signed maximum. -/
  | annAmoMax (d a h : Reg) (l : BitVec 4)
  /-- R311: Announced swap. -/
  | annAmoSwap (d a h : Reg) (l : BitVec 4)
  /-- R311: Announced load, whose value is taken at its place in the total order. -/
  | annLd (d a h : Reg) (l : BitVec 4)
  /-- R312: Waits for every earlier long-latency instruction. -/
  | fenceT
  /-- R312: fence.t, plus earlier accesses within the cluster performed. -/
  | fenceC
  /-- R312: fence.t, plus earlier accesses to every home performed. -/
  | fenceG
  /-- R312: Waits for every engine command of the task. -/
  | fenceE
  /-- R265: Waits for earlier matrix instructions and drops the operand cache. -/
  | fenceSp
  /-- R309: Waits until a counter element reaches a threshold; in DET it is evaluated at window closes. -/
  | waitCnt (a b n : Reg)
  /-- R307: Waits until an event counter of the cluster reaches its target. -/
  | evWait (a : Reg)
  /-- R306: Sends an event signal to a cluster, or parks it on a local threshold. -/
  | evSig (a b : Reg) (l : BitVec 4)
  /-- R310: Acquires a mutex word, waiting in arrival order (non-DET only). -/
  | mtxLock (a n : Reg)
  /-- R310: Releases a mutex word held by the core. -/
  | mtxUnlock (a n : Reg) (l : BitVec 4)
  /-- R304: Arrives on a group's barrier and returns the new cp. -/
  | barArr (d : Reg) (g : BitVec 2) (l : BitVec 4)
  /-- R304: Waits until the group's release count reaches a target. -/
  | barWait (a : Reg) (g : BitVec 2)
  /-- R304: Arrives, then waits for the release of that phase. -/
  | barSync (d : Reg) (g : BitVec 2)
  /-- R304: Returns the core's phase cp for a group. -/
  | barPhase (d : Reg) (g : BitVec 2) (l : BitVec 4)
  /-- R189: Lane-wise integer add. -/
  | vadd (d a b : Reg) (m : Vm)
  /-- R189: Lane-wise integer subtract. -/
  | vsub (d a b : Reg) (m : Vm)
  /-- R189: Lane-wise signed saturating add. -/
  | vadds (d a b : Reg) (m : Vm)
  /-- R189: Lane-wise signed saturating subtract. -/
  | vsubs (d a b : Reg) (m : Vm)
  /-- R189: Lane-wise integer multiply, low bits. -/
  | vmul (d a b : Reg) (m : Vm)
  /-- R189: Lane-wise signed minimum. -/
  | vmin (d a b : Reg) (m : Vm)
  /-- R189: Lane-wise signed maximum. -/
  | vmax (d a b : Reg) (m : Vm)
  /-- R189: Lane-wise and. -/
  | vand (d a b : Reg) (m : Vm)
  /-- R189: Lane-wise or. -/
  | vor (d a b : Reg) (m : Vm)
  /-- R189: Lane-wise xor. -/
  | vxor (d a b : Reg) (m : Vm)
  /-- R189: Lane-wise shift left. -/
  | vsll (d a b : Reg) (m : Vm)
  /-- R189: Lane-wise logical shift right. -/
  | vsrl (d a b : Reg) (m : Vm)
  /-- R189: Lane-wise arithmetic shift right. -/
  | vsra (d a b : Reg) (m : Vm)
  /-- R189: Lane-wise unsigned minimum. -/
  | vminu (d a b : Reg) (m : Vm)
  /-- R189: Lane-wise unsigned maximum. -/
  | vmaxu (d a b : Reg) (m : Vm)
  /-- R190: Integer compare equal into a predicate. -/
  | vcmpEq (d a b : Reg) (m : Vm)
  /-- R190: Integer compare not-equal into a predicate. -/
  | vcmpNe (d a b : Reg) (m : Vm)
  /-- R190: Signed less-than compare into a predicate. -/
  | vcmpLt (d a b : Reg) (m : Vm)
  /-- R190: Signed greater-or-equal compare into a predicate. -/
  | vcmpGe (d a b : Reg) (m : Vm)
  /-- R190: Unsigned less-than compare into a predicate. -/
  | vcmpLtu (d a b : Reg) (m : Vm)
  /-- R190: Unsigned greater-or-equal compare into a predicate. -/
  | vcmpGeu (d a b : Reg) (m : Vm)
  /-- R191: Signed sum of the active lanes into sD. -/
  | vredsum (d a : Reg) (m : Vm)
  /-- R191: Signed maximum of the active lanes into sD. -/
  | vredmax (d a : Reg) (m : Vm)
  /-- R192: Lane-wise floating-point add under RM. -/
  | vfadd (d a b : Reg) (m : Vm)
  /-- R192: Lane-wise floating-point subtract. -/
  | vfsub (d a b : Reg) (m : Vm)
  /-- R192: Lane-wise floating-point multiply. -/
  | vfmul (d a b : Reg) (m : Vm)
  /-- R192: Lane-wise fused multiply-add into vD. -/
  | vfma (d a b : Reg) (m : Vm)
  /-- R192: Lane-wise fused z − x·y into vD. -/
  | vfnma (d a b : Reg) (m : Vm)
  /-- R193: Lane-wise fmin of R143. -/
  | vfmin (d a b : Reg) (m : Vm)
  /-- R193: Lane-wise fmax of R143. -/
  | vfmax (d a b : Reg) (m : Vm)
  /-- R193: Lane-wise NaN-propagating minimum. -/
  | vfminp (d a b : Reg) (m : Vm)
  /-- R193: Lane-wise NaN-propagating maximum. -/
  | vfmaxp (d a b : Reg) (m : Vm)
  /-- R194: Clears the sign bit of each active lane. -/
  | vfabs (d a : Reg) (m : Vm)
  /-- R194: Inverts the sign bit of each active lane. -/
  | vfneg (d a : Reg) (m : Vm)
  /-- R195: Floating-point compare equal into a predicate. -/
  | vfcmpEq (d a b : Reg) (m : Vm)
  /-- R195: Floating-point compare less-than into a predicate. -/
  | vfcmpLt (d a b : Reg) (m : Vm)
  /-- R195: Floating-point compare less-or-equal into a predicate. -/
  | vfcmpLe (d a b : Reg) (m : Vm)
  /-- R195: Floating-point compare unordered into a predicate. -/
  | vfcmpUn (d a b : Reg) (m : Vm)
  /-- R196: Writes a one-hot class mask for each active lane. -/
  | vfclass (d a : Reg) (m : Vm)
  /-- R197: Fixed-tree FP32 sum of the lanes into sD. -/
  | vfredsum (d a : Reg) (m : Vm)
  /-- R197: Fixed-tree maximum of the lanes into sD. -/
  | vfredmax (d a : Reg) (m : Vm)
  /-- R197: Fixed-tree minimum of the lanes into sD. -/
  | vfredmin (d a : Reg) (m : Vm)
  /-- R198: Lane-wise correctly rounded division on the VL divider. -/
  | vfdiv (d a b : Reg) (w : BitVec 2) (l : BitVec 4)
  /-- R198: Lane-wise correctly rounded square root. -/
  | vfsqrt (d a : Reg) (w : BitVec 2) (l : BitVec 4)
  /-- R146: Lane-wise reciprocal approximation by the fixed procedure. -/
  | vfrcpa (d a : Reg) (w : BitVec 2) (l : BitVec 4)
  /-- R147: Lane-wise reciprocal square root approximation. -/
  | vfrsqa (d a : Reg) (w : BitVec 2) (l : BitVec 4)
  /-- R148: Lane-wise 2^x approximation. -/
  | vexp2a (d a : Reg) (w : BitVec 2) (l : BitVec 4)
  /-- R149: Lane-wise log2 approximation. -/
  | vlog2a (d a : Reg) (w : BitVec 2) (l : BitVec 4)
  /-- R199: Writes the Gaussian ε for eight canonical indices. -/
  | vgauss (d a b : Reg) (l : BitVec 4)
  /-- R200: Selects lanes from vA where the predicate holds, and from vB elsewhere. -/
  | vsel (d a b : Reg) (m : Vm)
  /-- R200: Permutes the lanes of vA by the indices in vB. -/
  | vperm (d a b : Reg) (m : Vm)
  /-- R200: Broadcasts a scalar to every active lane. -/
  | vbcast (d a : Reg) (m : Vm)
  /-- R200: Broadcasts lane k of vA. -/
  | vbcastL (d a : Reg) (k : BitVec 5) (m : Vm)
  /-- R200: Slides the lanes up by sB. -/
  | vslideUp (d a b : Reg) (m : Vm)
  /-- R200: Slides the lanes down by sB. -/
  | vslideDn (d a b : Reg) (m : Vm)
  /-- R200: Extracts lane sB of vA into sD. -/
  | vext (d a b : Reg) (m : Vm)
  /-- R200: Inserts sA into lane sB of vD. -/
  | vins (d a b : Reg) (m : Vm)
  /-- R202: Narrows FP32 lanes to another floating-point or scale format. -/
  | vcvtFN (d a : Reg) (f : BitVec 4) (q : BitVec 2) (m : Vm)
  /-- R202: Widens a floating-point or scale format exactly to FP32. -/
  | vcvtFW (d a : Reg) (f : BitVec 4) (q : BitVec 2) (m : Vm)
  /-- R203: Converts FP32 lanes to INT32 or INT8. -/
  | vcvtIN (d a : Reg) (i : BitVec 3) (q : BitVec 2) (m : Vm)
  /-- R203: Converts INT32 or INT8 lanes to FP32. -/
  | vcvtIW (d a : Reg) (i : BitVec 3) (q : BitVec 2) (m : Vm)
  /-- R204: Changes the width of signed integer lanes, clamping when narrowing. -/
  | vcvtX (d a : Reg) (t q : BitVec 2) (m : Vm)
  /-- R204: Changes the width of unsigned integer lanes, clamping when narrowing. -/
  | vcvtXu (d a : Reg) (t q : BitVec 2) (m : Vm)
  /-- R205: Divides FP32 lanes by a scale and quantises them to E4M3, E5M2 or INT8. -/
  | vqnt (d a b : Reg) (q : BitVec 2) (m : Vm)
  /-- R206: Multiplies 8-bit codes by a scale to give FP32 lanes. -/
  | vdqnt (d a b : Reg) (q : BitVec 2) (m : Vm)
  /-- R207: pD := pA and pB. -/
  | pand (d a b : Reg)
  /-- R207: pD := pA or pB. -/
  | por (d a b : Reg)
  /-- R207: pD := not pA. -/
  | pnot (d a : Reg)
  /-- R207: pD := sA. -/
  | pset (d a : Reg)
  /-- R207: Counts the active lanes of a predicate at a lane width. -/
  | pcount (d a : Reg) (w : BitVec 5)
  /-- R240: Writes an engine shadow register. -/
  | engW (a : Reg) (g : BitVec 2) (e : BitVec 4)
  /-- R241: Reads an engine shadow register other than LAUNCH (status reads trap NONDET in DET). -/
  | engR (d : Reg) (g : BitVec 2) (e l : BitVec 4)
  /-- R241: Reading cp.launch captures the parameter block, checks it, registers locks and starts a copy. -/
  | copyLaunch (d : Reg) (l : BitVec 4)
  /-- R233: Reading ga.launch starts a gather command. -/
  | gatherLaunch (d : Reg) (l : BitVec 4)
  /-- R235: Reading xc.launch joins the cluster's exchange. -/
  | exchangeLaunch (d : Reg) (l : BitVec 4)
  /-- R242: Waits for a command, or for all commands, and returns the completion word. -/
  | engWait (d a : Reg) (l : BitVec 4)
  /-- R243: Returns a command's state without waiting (NONDET in DET). -/
  | engPoll (d a : Reg) (l : BitVec 4)
  /-- R334: Sends a vector message to a rank. -/
  | msgSend (d a : Reg) (l : BitVec 4)
  /-- R334: Waits for and takes the oldest message from a named source rank. -/
  | msgRecv (d a b : Reg) (l : BitVec 4)
  /-- R334: Takes a slot credit and pushes a vector into a remote slot buffer. -/
  | msgPush (d a b : Reg) (l : BitVec 4)
  /-- R331: Waits for a slot to be full, empties it and returns it to the pushing rank. -/
  | msgSret (d a b : Reg) (l : BitVec 4)
  /-- R335: Reads the own rank, the module id, the last source or a rank-table entry. -/
  | rankRd (d a : Reg) (s : BitVec 5) (l : BitVec 4)
  /-- R336: Moves a rank placed on this core to another core, carrying its stored messages. -/
  | rankMove (d a b : Reg) (l : BitVec 4)
  /-- R254: Joins the cluster's array and multiplies slots oA and oB into accumulator D. -/
  | gangMma (d : BitVec 3) (oa ob : BitVec 6) (l : BitVec 4)
  /-- R254: gang.mma with the A operand shared from slice SRC. -/
  | gangMmaSh (d : BitVec 3) (oa ob : BitVec 6) (src : BitVec 3) (l : BitVec 4)
  /-- R250: Fills a claimed operand slot with rows of a layout. -/
  | mxFill (slot : BitVec 6) (h a : Reg) (l : BitVec 4)
  /-- R250: Fills a claimed operand slot with columns of a layout. -/
  | mxFillCol (slot : BitVec 6) (h a : Reg) (l : BitVec 4)
  /-- R251: Loads an accumulator tile from an FP32 layout. -/
  | mxAcld (d : BitVec 3) (a h : Reg) (l : BitVec 4)
  /-- R251: Stores an accumulator tile to a layout, with conversion. -/
  | mxAcst (d : BitVec 3) (a h : Reg) (l : BitVec 4)
  /-- R251: Sets every element of an accumulator tile to +0. -/
  | mxZero (d : BitVec 3) (l : BitVec 4)
  /-- R252: Claims an operand slot. -/
  | mxClaim (slot : BitVec 6) (l : BitVec 4)
  /-- R252: Releases an operand slot. -/
  | mxRel (slot : BitVec 6) (l : BitVec 4)
  /-- R263: Regenerates perturbed BF16 weights from a pair slot. -/
  | mxRegen (od os : BitVec 6) (l : BitVec 4)
  /-- R263: Regenerates the FP32 ε of a pair slot. -/
  | mxRegenE (od os : BitVec 6) (l : BitVec 4)
  /-- R263: Regenerates perturbed weights, transposed. -/
  | mxRegenT (od os : BitVec 6) (l : BitVec 4)
  /-- R263: Regenerates ε, transposed. -/
  | mxRegenET (od os : BitVec 6) (l : BitVec 4)
  /-- R92: Joins the cluster's wave participants into a fetch gang, or raises GANG-MISMATCH. -/
  | gangForm (d : Reg)
  /-- R93: Dissolves the fetch gang. -/
  | gangSplit
  /-- R383: Opens a promise from a descriptor, locking ĝ and h and returning its handle. -/
  | prmOpen (d a n : Reg) (l : BitVec 4)
  /-- R384: Queues a redemption card with the true gradient, for correction and training. -/
  | prmRedeem (d a n : Reg) (l : BitVec 4)
  /-- R384: Queues a redemption card that applies the training only. -/
  | prmRedeemT (d a n : Reg) (l : BitVec 4)
  /-- R387: Drains, then cancels an OPEN promise and returns its word 0. -/
  | prmCancel (d a : Reg) (l : BitVec 4)
  /-- R387: Drains, then reads a promise word or CUR and WVER. -/
  | prmQuery (d a : Reg) (s : BitVec 5) (l : BitVec 4)
  /-- R385: Queues an optimiser card that runs a routine over a weight region. -/
  | optCard (d a n : Reg) (l : BitVec 4)
  /-- R385: Loads a routine into the core's routine slot and increments its RGEN. -/
  | optLdr (a n : Reg) (k : BitVec 3) (l : BitVec 4)
  /-- R386: Waits for a card and returns its completion word. -/
  | optWait (d a : Reg) (l : BitVec 4)
  /-- R399: Reads half of a task-shadow counter, or its SAT bit. -/
  | cntRd (d a : Reg) (h : BitVec 5)
  /-- R407: Queues a trace record when tracing of the context is on. -/
  | trcMark (a : Reg) (i : BitVec 5)
  /-- R406: Reads a delay accumulator or CYC (privileged banked registers only in DET). -/
  | prfRd (d a : Reg) (s : BitVec 5)
  /-- R262: The instruction gang.join (MAJ 0x2E, F 0x32) joins the cluster's array, raises ACOUNT and writes it to sD once
      earlier matrix work has completed. -/
  | gangJoinInstruction (d : Reg) (l : BitVec 4)
  /-- R9: Power good starts management core 0 in the boot ROM, and power-on runs stages 0x1 to 0x9 in order, halting
      with FAIL and BOOTERR on a failure. -/
  | powerOn
  /-- R9: A cold reset is the only way out of a boot halt and runs power-on again from the start. -/
  | coldReset
  /-- R13: A write of 1 to MCTL.WRST by the owner reruns stages 0x5 to 0x9 in their warm forms, keeping DRAM, OWNER,
      DENIED and ARMSTAT, and sets WARM. -/
  | warmReset
  /-- R5: A die sensor reading of 105 deg C sets THERM, pre-empts every running context, refuses arming and posts event
      0x76. -/
  | thermalTrip
  /-- R5: Once every sensor reads below 95 deg C, THERM is cleared, the pre-empted contexts resume and event 0x76 is
      posted. -/
  | thermalClear
  /-- R17: If the owning host function's link goes down or it undergoes a function-level reset, Phodiver sets OWNER.ID to
      0 and increments EPOCH. -/
  | hostLinkDown
  /-- R15: A write to OWNCAS claims, releases or hands over ownership when EXPECT matches OWNER.ID and the change is
      legal, and otherwise counts in DENIED. -/
  | owncas
  /-- R8: A write of any value to DENIED sets the writing master's own count of dropped writes to 0. -/
  | denied
  /-- R35: A 64-bit write to the host arm port validates the named record's state, SEQ and CRC, moves it to ARMED and
      increments ACK, or records a rejection cause. -/
  | arm
  /-- R24: A write of 1 to EVPOP bit 0 removes the oldest event of the master's queue, which lets a held event be posted. -/
  | evpop
  /-- R72: A host write through BAR2 into the caddy is dropped and counted in DENIED if it hits a live kernel's code,
      STATUS or LASTSEQ, and increments CGEN if it overlaps the code area. -/
  | bar2Write
  /-- R6: A write to a module register that has no behaviour of its own is applied, or dropped if its width or offset is
      illegal. -/
  | registerWrite
  /-- R10: The MBOX command FWMIN raises the fused minimum firmware version to that of the running image. -/
  | fwmin
  /-- R23: The MBOX command CREATE checks its arguments and creates a context with its partition, DET, SHARE class, bound
      function and caddy region. -/
  | create
  /-- R28: The MBOX command SEAL checks the caddy header and group table, keeps a copy of the group entries, and zeroes
      the group phases. -/
  | sealPart
  /-- R23: The MBOX command BIND binds a host function to a context, or unbinds it. -/
  | bind
  /-- R56: The MBOX command PREEMPT pre-empts a context under HOLD and reports once it has halted. -/
  | preempt
  /-- R361: The MBOX command RESUME releases a context held by PREEMPT. -/
  | resume
  /-- R120: The MBOX command DEBUG attaches a debug session to a context, or detaches it and releases every core held at
      brk. -/
  | debug
  /-- R120: The MBOX command DBGCONT lets a core held at brk continue at the instruction after it. -/
  | dbgcont
  /-- R227: The MBOX command MAP installs a page table entry in SPACE 2 or 3 of a context. -/
  | map
  /-- R227: The MBOX command UNMAP removes a page and clears every translation buffer, unless a range lock covers the
      page. -/
  | unmap
  /-- R228: The MBOX command PGRESP answers a page fault by number, either resuming the stopped command or aborting it
      with CODE 0x2. -/
  | pgresp
  /-- R322: The MBOX command JOBOPEN opens a multi-module job for a context, with its job id, nonce and module count. -/
  | jobopen
  /-- R322: The MBOX command JOBMAP adds pairs of module serial and job module id to an open job's map. -/
  | jobmap
  /-- R323: The MBOX command JOBSEAL runs the IDENT handshake, checks agreement between modules, builds the route table
      and writes a composition record. -/
  | jobseal
  /-- R322: The MBOX command JOBCLOSE clears the context's route table and rank tables. -/
  | jobclose
  /-- R345: The MBOX command HLOAD copies privileged handler code and its cause mask into every core of the partition. -/
  | hload
  /-- R400: The MBOX command SNAP writes a signed snapshot of a quiescent context's counters with a new SNAPSEQ. -/
  | snap
  /-- R400: The MBOX command RECREAD returns one 128-byte part of a kept signed record. -/
  | recread
  /-- R402: The MBOX command IDKEY returns one part of the module's identity-key certificate. -/
  | idkey
  /-- R404: The MBOX command RETIRE fails the context's records, expires its promises, writes a final snapshot, zeroes its
      state and frees the context. -/
  | retire
  /-- R407: The MBOX command TRACE turns tracing of a context on or off. -/
  | trace
  /-- R408: The MBOX command TFILTER loads a context's trace filter program, or refuses it. -/
  | tfilter
  /-- R40: A tile task begins with the state of R40, and its core issues the task's first instruction. -/
  | taskStart
  /-- R62: An announcement window closes once every participant has passed it and the previous window has closed, or in a
      non-DET context at its cycle count. -/
  | windowClose
  /-- R62: 24 cycles after a close, its results (grants, announced values, passes) reach every participant over the
      notification network. -/
  | windowResultDelivery
  /-- R63: A core that has stalled for QWD cycles on the window rule raises QUANTUM-DEADLOCK precisely. -/
  | quantumDeadlock
  /-- R128: A wait_until_quiet that lasts QWD cycles in a DET context raises WATCHDOG with the record index. -/
  | watchdog
  /-- R348: TMR reaching 0 delivers TIMER at the next boundary when its mask bit is set. -/
  | timer
  /-- R294: A tamo not accepted within TFWD cycles raises TICKET-GAP precisely. -/
  | ticketGap
  /-- R297: A tfence whose round wait lasts TFWD cycles raises TICKET-GAP, naming the lowest waiting granule. -/
  | tfenceGapExpiry
  /-- R295: A load through a TKT entry that waits TFWD cycles for the granule's tracker to clear raises TICKET-GAP. -/
  | tktLoadGapExpiry
  /-- R386: An opt.wait on a held card that lasts TFWD cycles raises TICKET-GAP with INDEX = CUR. -/
  | optWaitGapExpiry
  /-- R328: A msg.send not accepted within SWD cycles of refusal raises SEND-STALL precisely. -/
  | sendStall
  /-- R308: A core that has waited 16 cycles stops its pipeline clock, and restarts it 2 cycles after the condition holds. -/
  | clockGate
  /-- R79: A parcel or word that is not an instruction raises ZERO, POOL or ILL precisely. -/
  | decodeTrap
  /-- R346: Once outstanding work has completed, a trap writes EPC, ECAUSE and EINFO and enters the privileged handler, or
      is fatal if its mask bit is 0. -/
  | handlerEntry
  /-- R350: A record with a fatal trap becomes FAILED once every core has stopped and no command is in flight, and the
      least trap is reported. -/
  | fatalStop
  /-- R225: A completed command with EN = 1 delivers a user-level interrupt at a boundary (at wait points in DET), setting
      IEPC, XID and IACT. -/
  | userInterruptDelivery
  /-- R354: The scheduler accepts a pre-emption request and freezes the context's window closes. -/
  | preEmption
  /-- R354: Once accepted work has completed and the mesh is drained, the halt is complete and the context is held or
      spilled. -/
  | haltComplete
  /-- R358: The state of a halted SHARE context is written to its spill areas and its clusters pass to the pre-empting
      context. -/
  | spill
  /-- R361: Saved state, code and handlers are written back, locks and gangs are re-formed, and every core is released in
      one cycle. -/
  | restore
  /-- R67: A core fails at run time, and Phodiver pre-empts every context with a cluster in its row. -/
  | coreFailure
  /-- R358: After the halt, the failed row is copied to the lowest spare row, event 0x73 is posted and the contexts
      resume, with the failed task rerun. -/
  | rowRemap
  /-- R68: A failed DRAM or link lane is replaced from a spare lane while the contexts using it are held. -/
  | laneFailure
  /-- R320: A received flit is checked for CRC and sequence, and a bad flit is discarded and retransmission is requested. -/
  | flitReceive
  /-- R320: The sender resends flits from its retransmission buffer, with the replay mark, from the requested sequence
      number. -/
  | retransmissionRequest
  /-- R326: A message reaches its destination network interface and is written into a free receive-store entry, dropped as
      a duplicate, held, or refused. -/
  | messageArrival
  /-- R326: A refused message is retried after 8 + 2H + Q cycles. -/
  | messageRetry
  /-- R330: An arriving push is applied to its slot at the receiver as vst.fe.force, or faults and returns its credit. -/
  | pushApply
  /-- R330: An arriving slot return clears its TAKEN bit, which releases a waiting push. -/
  | slotReturn
  /-- R221: A copy command writes its last element, releases its locks and writes its completion word. -/
  | copyComplete
  /-- R233: A gather writes its last row, releases its locks and writes its completion word with NOOR and NINV. -/
  | gatherComplete
  /-- R237: After eight crossbar steps the exchange completes, releasing its locks. -/
  | exchangeComplete
  /-- R228: An engine meets an unmapped or unwritable page, stops there and event 0x75 is posted (a caddy-window write
      completes with CODE 0x2 at once). -/
  | enginePageFault
  /-- R218: An engine waiting on an FE or VER destination granule finds it ready and writes it. -/
  | engineGranuleWaitEnd
  /-- R230: A LAUNCH waiting for an overlapping lock, a table entry or a slot registers its ranges and is accepted. -/
  | lockWaitEnd
  /-- R167: A full-empty access waiting for its granule condition proceeds once the condition holds. -/
  | fullEmptyWaitEnd
  /-- R170: A versioned access waiting for a version or a reclaim proceeds once its condition holds. -/
  | versionWaitEnd
  /-- R169: A reclaim waiting for an earlier version to be reclaimed proceeds when the tracker changes. -/
  | reclaimWaitEnd
  /-- R301: When every member has arrived for phase G, G rises and the release reaches every member 48 cycles later. -/
  | barrierRelease
  /-- R302: A remote plain or ticketed read waiting until G reaches its phase makes its check. -/
  | phaseWaitEnd
  /-- R305: A signal lands 24 cycles after it was sent and adds 1 to its event counter. -/
  | eventSignalLanding
  /-- R293: A ticketed update arrives at its bank unit and is applied, held, dropped as a replay, refused, or answered
      with TICKET-DUP. -/
  | ticketArrival
  /-- R294: A refused ticketed arrival is retried after 8 + 2H + Q cycles. -/
  | ticketRetry
  /-- R96: A long-latency instruction completes, writing its destinations and releasing the instructions beyond its
      followers. -/
  | instructionCompletion
  /-- R126: The record-pool controller answers an lrec.patch or lrec.arm request 150 cycles after taking it up. -/
  | recordPoolAnswer
  /-- R261: Six cycles after its last chunk, a gang.mma writes accD and adds its counts. -/
  | gangMmaCompletion
  /-- R380: An optimiser card starts after the previous card, registers its ranges and (for a redemption) evaluates
      expiry. -/
  | cardStart
  /-- R376: A card writes its last element, publishes the weight version, releases its ranges and writes its completion
      word. -/
  | cardComplete
  /-- R373: A correction, training or revert of the promise at the cursor is applied and completes. -/
  | strainerAction
  /-- R408: Phodiver takes a trace record from a core's queue and runs the context's filter on it. -/
  | traceFilterRun
  /-- R95: An interlocked instruction (mul, div, a VEC or predicate instruction, lrec.rd, grp.rd) writes its result a
      fixed number of cycles after issue, and a vector instruction then retires and ORs its lane flags into FFLG. -/
  | interlockedResult
  /-- R285: A remote load, bank atomic, announced operation or mutex operation reaches its home bank, which applies it in
      arrival order, checks and stamps conflict words, and sends its reply. -/
  | homeBankAccess
  /-- R310: A mutex waiter that its bank unit refused, because the bank already holds eight waiters, is retried by the
      network interface after 8 + 2H + Q cycles. -/
  | mutexRetry
deriving DecidableEq, Repr

end Sys2Proof
end

