-- ==== Sys2Proof/WellFormed.lean ====
section
/-! DEFINITION. Well-formed instructions: the values that the entries exclude as encodings (R76, R79, R186, R201, R239, R286).
An instruction whose word breaks one of these raises ILL at decode (R79). -/

namespace Sys2Proof

/-- The lane count of a lane-width code W (R184): 8, 16 or 32 lanes. -/
def laneCount (w : BitVec 2) : Nat := 8 * 2 ^ w.toNat

/-- W is not the illegal 0b11 (R76). -/
def okW (w : BitVec 2) : Bool := w.toNat < 3

/-- A field that names a predicate register (R186). -/
def okP (r : Reg) : Bool := r.toNat < 4

/-- No mark on B, which is no vector register here (R186). -/
def noHoldB (m : Vm) : Bool := m.hb == 0#1

/-- No mark on either source (R186). -/
def noHold (m : Vm) : Bool := m.hb == 0#1 && m.ha == 0#1

/-- The lanes part q of a conversion between ns and nd lanes (R201). -/
def okQ (ns nd : Nat) (q : BitVec 2) : Bool := q.toNat < max ns nd / min ns nd

/-- A format code of vcvt.f and its lane count (R202): 16 lanes for FP16 and BF16, 32 for the 8-bit codes. -/
def cvtLanes (f : BitVec 4) : Option Nat :=
  if f.toNat = 1 ∨ f.toNat = 2 then some 16
  else if (3 ≤ f.toNat ∧ f.toNat ≤ 8) ∨ f.toNat = 0xB then some 32
  else none

/-- The format code and part of a vcvt.f (R201, R202). -/
def okCvtF (f : BitVec 4) (q : BitVec 2) (m : Vm) : Bool :=
  m.w == 0#2 && noHoldB m &&
  match cvtLanes f with
  | some n => okQ 8 n q
  | none => false

/-- The integer format and part of a vcvt.i (R203): 0 INT32, 1 INT8. -/
def okCvtI (i : BitVec 3) (q : BitVec 2) (m : Vm) : Bool :=
  m.w == 0#2 && noHoldB m && (i == 0#3 && okQ 8 8 q || i == 1#3 && okQ 8 32 q)

/-- The target width and part of a vcvt.x (R204). -/
def okCvtX (t q : BitVec 2) (m : Vm) : Bool :=
  okW m.w && noHoldB m && okW t && okQ (laneCount m.w) (laneCount t) q

/-- A register that names the pair sD, sD+1 (R286, R296): even, from 2 to 30. -/
def okPair (d : Reg) : Bool := d.toNat % 2 == 0 && decide (2 ≤ d.toNat)

/-- An engine register (R216, R232, R234, R239) that exists. G is 0 copy, 1 gather, 2 exchange. -/
def engineReg (g : BitVec 2) (e : BitVec 4) : Bool :=
  match g.toNat with
  | 0 => e.toNat < 15
  | 1 => e.toNat < 15
  | 2 => [0, 1, 2, 3, 5, 6, 11, 12, 13, 14].contains e.toNat
  | _ => false

/-- A of rank.rd is zero where the selector takes no operand (R335). -/
def okRankRd (a : Reg) (k : BitVec 5) : Bool := decide (2 ≤ k.toNat) || a == 0#5

/-- The instruction is a core instruction that its entry allows. A step of the module has no word and is none. -/
def wellFormed : Instr → Bool
  | .rankRd _ a k _ => okRankRd a k
  | .vadd _ _ _ m | .vsub _ _ _ m | .vadds _ _ _ m | .vsubs _ _ _ m | .vmul _ _ _ m | .vmin _ _ _ m | .vmax _ _ _ m
  | .vand _ _ _ m | .vor _ _ _ m | .vxor _ _ _ m | .vsll _ _ _ m | .vsrl _ _ _ m | .vsra _ _ _ m | .vminu _ _ _ m
  | .vmaxu _ _ _ m
  | .vfadd _ _ _ m | .vfsub _ _ _ m | .vfmul _ _ _ m | .vfma _ _ _ m | .vfnma _ _ _ m | .vfmin _ _ _ m | .vfmax _ _ _ m
  | .vfminp _ _ _ m | .vfmaxp _ _ _ m | .vsel _ _ _ m | .vperm _ _ _ m => okW m.w
  | .vcmpEq d _ _ m | .vcmpNe d _ _ m | .vcmpLt d _ _ m | .vcmpGe d _ _ m | .vcmpLtu d _ _ m | .vcmpGeu d _ _ m
  | .vfcmpEq d _ _ m | .vfcmpLt d _ _ m | .vfcmpLe d _ _ m | .vfcmpUn d _ _ m => okW m.w && okP d
  | .vredsum _ _ m | .vredmax _ _ m | .vfabs _ _ m | .vfneg _ _ m | .vfclass _ _ m | .vfredsum _ _ m | .vfredmax _ _ m
  | .vfredmin _ _ m | .vslideUp _ _ _ m | .vslideDn _ _ _ m => okW m.w && noHoldB m
  | .vbcast _ _ m | .vins _ _ _ m => okW m.w && noHold m
  | .vbcastL _ _ k m => okW m.w && noHoldB m && decide (k.toNat < laneCount m.w)
  | .vext _ _ _ m => okW m.w && noHoldB m && m.pred == 0#2
  | .vcvtFN _ _ f q m | .vcvtFW _ _ f q m => okCvtF f q m
  | .vcvtIN _ _ i q m | .vcvtIW _ _ i q m => okCvtI i q m
  | .vcvtX _ _ t q m | .vcvtXu _ _ t q m => okCvtX t q m
  | .vqnt _ _ _ _ m | .vdqnt _ _ _ _ m => okW m.w && noHoldB m
  | .vfdiv _ _ _ w _ | .vfsqrt _ _ w _ | .vfrcpa _ _ w _ | .vfrsqa _ _ w _ | .vexp2a _ _ w _ | .vlog2a _ _ w _ => okW w
  | .pand d a b | .por d a b => okP d && okP a && okP b
  | .pnot d a => okP d && okP a
  | .pset d _ => okP d
  | .pcount _ a w => okP a && decide (w.toNat < 3)
  | .engW _ g e => engineReg g e && decide (e.toNat < 13)
  | .engR _ g e _ => engineReg g e && decide (e.toNat ≠ 14)
  | .amoCas d _ _ _ | .amoAddlim d _ _ _ | .tamoFadd d _ _ _ | .tamoFmax d _ _ _ | .tamoFmin d _ _ _ | .tamoOr d _ _ _
  | .tamoSkip d _ _ _ => okPair d
  | .layWr _ w _ _ => w.toNat < 10
  | .grpRd _ _ s => s.toNat < 3
  | .cMv d a => d != 0#5 || a != 0#5
  | .add .. | .sub .. | .and .. | .or .. | .xor .. | .andn .. | .sll .. | .srl .. | .sra .. | .slt .. | .sltu ..
  | .min .. | .max .. | .minu .. | .maxu .. | .mul .. | .mulh .. | .mulhu .. | .div .. | .divu .. | .rem ..
  | .remu .. | .clz .. | .ctz .. | .popc .. | .brev .. | .addi .. | .andi .. | .ori .. | .xori .. | .slti ..
  | .sltiu .. | .slli .. | .srli .. | .srai .. | .lui .. | .beq .. | .bne .. | .blt .. | .bge .. | .bltu ..
  | .bgeu .. | .jal .. | .jalr .. | .crr .. | .crw .. | .crs .. | .crc .. | .trap .. | .eret .. | .brk .. | .yield ..
  | .taskEnd .. | .lrecRd .. | .lrecPatch .. | .lrecArm .. | .tqReq .. | .cAdd .. | .cSub .. | .cAnd .. | .cOr ..
  | .cXor .. | .cAddi .. | .cLi .. | .cSlli .. | .cSrli .. | .cSrai .. | .cBeqz .. | .cBnez .. | .cSlt .. | .cJr ..
  | .cEnd .. | .ld .. | .st .. | .ldFe .. | .ldFeClr .. | .stFe .. | .stFeForce .. | .ldV .. | .stV .. | .vld ..
  | .vst .. | .vldFe .. | .vldFeClr .. | .vstFe .. | .vstFeForce .. | .vldV .. | .vstV .. | .layRd .. | .reclaim ..
  | .laySel .. | .amoAnd .. | .amoOr .. | .amoXor .. | .amoMin .. | .amoMax .. | .amoSwap .. | .amoIncb ..
  | .amoIncw .. | .amoDecnz .. | .tfence .. | .annAmoAdd .. | .annAmoAnd .. | .annAmoOr .. | .annAmoXor ..
  | .annAmoMin .. | .annAmoMax .. | .annAmoSwap .. | .annLd .. | .fenceT .. | .fenceC .. | .fenceG .. | .fenceE ..
  | .fenceSp .. | .waitCnt .. | .evWait .. | .evSig .. | .mtxLock .. | .mtxUnlock .. | .barArr .. | .barWait ..
  | .barSync .. | .barPhase .. | .vgauss .. | .copyLaunch .. | .gatherLaunch .. | .exchangeLaunch .. | .engWait ..
  | .engPoll .. | .msgSend .. | .msgRecv .. | .msgPush .. | .msgSret .. | .rankMove .. | .gangMma ..
  | .gangMmaSh .. | .mxFill .. | .mxFillCol .. | .mxAcld .. | .mxAcst .. | .mxZero .. | .mxClaim .. | .mxRel ..
  | .mxRegen .. | .mxRegenE .. | .mxRegenT .. | .mxRegenET .. | .gangForm .. | .gangSplit .. | .prmOpen ..
  | .prmRedeem .. | .prmRedeemT .. | .prmCancel .. | .prmQuery .. | .optCard .. | .optLdr .. | .optWait ..
  | .cntRd .. | .trcMark .. | .prfRd .. | .gangJoinInstruction .. | .amoAdd .. => true
  | .powerOn | .coldReset | .warmReset | .thermalTrip | .thermalClear | .hostLinkDown | .owncas
  | .denied | .arm | .evpop | .bar2Write | .registerWrite | .fwmin | .create | .sealPart
  | .bind | .preempt | .resume | .debug | .dbgcont | .map | .unmap | .pgresp | .jobopen
  | .jobmap | .jobseal | .jobclose | .hload | .snap | .recread | .idkey | .retire | .trace
  | .tfilter | .taskStart | .windowClose | .windowResultDelivery | .quantumDeadlock | .watchdog
  | .timer | .ticketGap | .tfenceGapExpiry | .tktLoadGapExpiry | .optWaitGapExpiry | .sendStall
  | .clockGate | .decodeTrap | .handlerEntry | .fatalStop | .userInterruptDelivery | .preEmption
  | .haltComplete | .spill | .restore | .coreFailure | .rowRemap | .laneFailure | .flitReceive
  | .retransmissionRequest | .messageArrival | .messageRetry | .pushApply | .slotReturn
  | .copyComplete | .gatherComplete | .exchangeComplete | .enginePageFault | .engineGranuleWaitEnd
  | .lockWaitEnd | .fullEmptyWaitEnd | .versionWaitEnd | .reclaimWaitEnd | .barrierRelease
  | .phaseWaitEnd | .eventSignalLanding | .ticketArrival | .ticketRetry | .instructionCompletion
  | .recordPoolAnswer | .gangMmaCompletion | .cardStart | .cardComplete | .strainerAction
  | .traceFilterRun | .interlockedResult | .homeBankAccess | .mutexRetry => false

end Sys2Proof
end

