-- ==== Sys2Proof/Decode.lean ====
section
/-! DEFINITION. The decoder and the encoder (R74 to R80), from the encodings of the entries. An instruction is read from the
groups x = 31:28, f = 27:22, b = 21:17, a = 16:12, d = 11:7 and MAJ = 6:1 of its word, or from the fields of its compact
parcel. A word is accepted only where the instruction read is well formed and encodes to that word, so that a reserved
value or a field that must be zero is refused. -/

namespace Sys2Proof

/-- A 32-bit word from its groups (R75). -/
def pack (x : BitVec 4) (f : BitVec 6) (b a d : BitVec 5) (maj : BitVec 6) : Word :=
  x ++ f ++ b ++ a ++ d ++ maj ++ 1#1

/-- A compact parcel from its fields (R77). -/
def packC (e : BitVec 1) (a d : BitVec 5) (o : BitVec 4) : BitVec 16 := e ++ a ++ d ++ o ++ 0#1

/-- The length in bytes of the instruction that a parcel begins (R74). -/
def parcelLength (lo : BitVec 16) : Nat := if lo.getLsbD 0 then 4 else 2

/-- The instructions of MAJ 0x01 by their function fields. -/
def rawMaj01 (_x : BitVec 4) (f : BitVec 6) (b a d : BitVec 5) : Option Instr :=
  match f.toNat with
    | 0 => some (.add d a b)
    | 1 => some (.sub d a b)
    | 2 => some (.and d a b)
    | 3 => some (.or d a b)
    | 4 => some (.xor d a b)
    | 5 => some (.andn d a b)
    | 6 => some (.sll d a b)
    | 7 => some (.srl d a b)
    | 8 => some (.sra d a b)
    | 9 => some (.slt d a b)
    | 10 => some (.sltu d a b)
    | 11 => some (.min d a b)
    | 12 => some (.max d a b)
    | 13 => some (.minu d a b)
    | 14 => some (.maxu d a b)
    | 16 => some (.mul d a b)
    | 17 => some (.mulh d a b)
    | 18 => some (.mulhu d a b)
    | 20 => some (.div d a b)
    | 21 => some (.divu d a b)
    | 22 => some (.rem d a b)
    | 23 => some (.remu d a b)
    | 24 => some (.clz d a)
    | 25 => some (.ctz d a)
    | 26 => some (.popc d a)
    | 27 => some (.brev d a)
    | _ => none

/-- The instructions of MAJ 0x02 by their function fields. -/
def rawMaj02 (x : BitVec 4) (f : BitVec 6) (b a d : BitVec 5) : Option Instr :=
  some (.addi d a (x ++ f ++ b))

/-- The instructions of MAJ 0x03 by their function fields. -/
def rawMaj03 (x : BitVec 4) (f : BitVec 6) (b a d : BitVec 5) : Option Instr :=
  some (.andi d a (x ++ f ++ b))

/-- The instructions of MAJ 0x04 by their function fields. -/
def rawMaj04 (x : BitVec 4) (f : BitVec 6) (b a d : BitVec 5) : Option Instr :=
  some (.ori d a (x ++ f ++ b))

/-- The instructions of MAJ 0x05 by their function fields. -/
def rawMaj05 (x : BitVec 4) (f : BitVec 6) (b a d : BitVec 5) : Option Instr :=
  some (.xori d a (x ++ f ++ b))

/-- The instructions of MAJ 0x06 by their function fields. -/
def rawMaj06 (x : BitVec 4) (f : BitVec 6) (b a d : BitVec 5) : Option Instr :=
  some (.slti d a (x ++ f ++ b))

/-- The instructions of MAJ 0x07 by their function fields. -/
def rawMaj07 (x : BitVec 4) (f : BitVec 6) (b a d : BitVec 5) : Option Instr :=
  some (.sltiu d a (x ++ f ++ b))

/-- The instructions of MAJ 0x08 by their function fields. -/
def rawMaj08 (_x : BitVec 4) (f : BitVec 6) (b a d : BitVec 5) : Option Instr :=
  match f.toNat with
    | 0 => some (.slli d a b)
    | 1 => some (.srli d a b)
    | 2 => some (.srai d a b)
    | _ => none

/-- The instructions of MAJ 0x09 by their function fields. -/
def rawMaj09 (x : BitVec 4) (f : BitVec 6) (b a d : BitVec 5) : Option Instr :=
  some (.lui d (x ++ f ++ b ++ a))

/-- The instructions of MAJ 0x0A by their function fields. -/
def rawMaj0A (x : BitVec 4) (f : BitVec 6) (b a d : BitVec 5) : Option Instr :=
  match (f.extractLsb' 0 3).toNat with
    | 0 => some (.beq a b (x ++ f.extractLsb' 3 3 ++ d))
    | 1 => some (.bne a b (x ++ f.extractLsb' 3 3 ++ d))
    | 4 => some (.blt a b (x ++ f.extractLsb' 3 3 ++ d))
    | 5 => some (.bge a b (x ++ f.extractLsb' 3 3 ++ d))
    | 6 => some (.bltu a b (x ++ f.extractLsb' 3 3 ++ d))
    | 7 => some (.bgeu a b (x ++ f.extractLsb' 3 3 ++ d))
    | _ => none

/-- The instructions of MAJ 0x0B by their function fields. -/
def rawMaj0B (x : BitVec 4) (f : BitVec 6) (b a d : BitVec 5) : Option Instr :=
  some (.jal d (x ++ f ++ b ++ a))

/-- The instructions of MAJ 0x0C by their function fields. -/
def rawMaj0C (x : BitVec 4) (f : BitVec 6) (b a d : BitVec 5) : Option Instr :=
  some (.jalr d a (x ++ f ++ b))

/-- The instructions of MAJ 0x0D by their function fields. -/
def rawMaj0D (x : BitVec 4) (f : BitVec 6) (b a d : BitVec 5) : Option Instr :=
  match (x.extractLsb' 1 3).toNat with
    | 0 => some (.crr d (x.extractLsb' 0 1 ++ f ++ b))
    | 2 => some (.crw a (x.extractLsb' 0 1 ++ f ++ b))
    | 4 => some (.crs d a (x.extractLsb' 0 1 ++ f ++ b))
    | 6 => some (.crc d a (x.extractLsb' 0 1 ++ f ++ b))
    | _ => none

/-- The instructions of MAJ 0x0E by their function fields. -/
def rawMaj0E (_x : BitVec 4) (f : BitVec 6) (_b a _d : BitVec 5) : Option Instr :=
  match f.toNat with
    | 0 => some (.trap a)
    | 1 => some .eret
    | 2 => some .brk
    | 3 => some .yield
    | 4 => some .taskEnd
    | _ => none

/-- The instructions of MAJ 0x0F by their function fields. -/
def rawMaj0F (_x : BitVec 4) (f : BitVec 6) (b a d : BitVec 5) : Option Instr :=
  match f.toNat with
    | 0 => some (.lrecRd d b)
    | 1 => some (.lrecPatch a b d)
    | 2 => some (.lrecArm d a b)
    | 3 => some (.tqReq d a)
    | 4 => some (.grpRd d a b)
    | _ => none

/-- The instructions of MAJ 0x10 by their function fields. -/
def rawMaj10 (x : BitVec 4) (f : BitVec 6) (b a d : BitVec 5) : Option Instr :=
  some (.ld d a b (f.extractLsb' 0 5) x)

/-- The instructions of MAJ 0x11 by their function fields. -/
def rawMaj11 (x : BitVec 4) (f : BitVec 6) (b a d : BitVec 5) : Option Instr :=
  some (.st d a b (f.extractLsb' 0 5) x)

/-- The instructions of MAJ 0x12 by their function fields. -/
def rawMaj12 (x : BitVec 4) (f : BitVec 6) (b a d : BitVec 5) : Option Instr :=
  match (f.extractLsb' 5 1).toNat with
    | 0 => some (.ldFe d a b (f.extractLsb' 0 5) x)
    | 1 => some (.ldFeClr d a b (f.extractLsb' 0 5) x)
    | _ => none

/-- The instructions of MAJ 0x13 by their function fields. -/
def rawMaj13 (x : BitVec 4) (f : BitVec 6) (b a d : BitVec 5) : Option Instr :=
  match (f.extractLsb' 5 1).toNat with
    | 0 => some (.stFe d a b (f.extractLsb' 0 5) x)
    | 1 => some (.stFeForce d a b (f.extractLsb' 0 5) x)
    | _ => none

/-- The instructions of MAJ 0x14 by their function fields. -/
def rawMaj14 (x : BitVec 4) (f : BitVec 6) (b a d : BitVec 5) : Option Instr :=
  some (.ldV d a b (f.extractLsb' 0 5) x)

/-- The instructions of MAJ 0x15 by their function fields. -/
def rawMaj15 (x : BitVec 4) (f : BitVec 6) (b a d : BitVec 5) : Option Instr :=
  some (.stV d a b (f.extractLsb' 0 5) x)

/-- The instructions of MAJ 0x16 by their function fields. -/
def rawMaj16 (x : BitVec 4) (f : BitVec 6) (b a d : BitVec 5) : Option Instr :=
  match (f.extractLsb' 5 1).toNat with
    | 0 => match (b.extractLsb' 4 1).toNat with
        | 0 => some (.layRd d (b.extractLsb' 0 4) (f.extractLsb' 0 5) x)
        | 1 => if b.toNat = 31 then some (.reclaim a (f.extractLsb' 0 5) x) else
            some (.layWr a (b.extractLsb' 0 4) (f.extractLsb' 0 5) x)
        | _ => none
    | 1 => some (.laySel d a b (f.extractLsb' 0 5) x)
    | _ => none

/-- The instructions of MAJ 0x18 by their function fields. -/
def rawMaj18 (x : BitVec 4) (f : BitVec 6) (b a d : BitVec 5) : Option Instr :=
  some (.vld d a b (f.extractLsb' 0 5) x)

/-- The instructions of MAJ 0x19 by their function fields. -/
def rawMaj19 (x : BitVec 4) (f : BitVec 6) (b a d : BitVec 5) : Option Instr :=
  some (.vst d a b (f.extractLsb' 0 5) x)

/-- The instructions of MAJ 0x1A by their function fields. -/
def rawMaj1A (x : BitVec 4) (f : BitVec 6) (b a d : BitVec 5) : Option Instr :=
  match (f.extractLsb' 5 1).toNat with
    | 0 => some (.vldFe d a b (f.extractLsb' 0 5) x)
    | 1 => some (.vldFeClr d a b (f.extractLsb' 0 5) x)
    | _ => none

/-- The instructions of MAJ 0x1B by their function fields. -/
def rawMaj1B (x : BitVec 4) (f : BitVec 6) (b a d : BitVec 5) : Option Instr :=
  match (f.extractLsb' 5 1).toNat with
    | 0 => some (.vstFe d a b (f.extractLsb' 0 5) x)
    | 1 => some (.vstFeForce d a b (f.extractLsb' 0 5) x)
    | _ => none

/-- The instructions of MAJ 0x1C by their function fields. -/
def rawMaj1C (x : BitVec 4) (f : BitVec 6) (b a d : BitVec 5) : Option Instr :=
  some (.vldV d a b (f.extractLsb' 0 5) x)

/-- The instructions of MAJ 0x1D by their function fields. -/
def rawMaj1D (x : BitVec 4) (f : BitVec 6) (b a d : BitVec 5) : Option Instr :=
  some (.vstV d a b (f.extractLsb' 0 5) x)

/-- The instructions of MAJ 0x20 by their function fields. -/
def rawMaj20 (x : BitVec 4) (f : BitVec 6) (b a d : BitVec 5) : Option Instr :=
  match b.toNat with
    | 0 => some (.amoAdd d a (f.extractLsb' 0 5) (f.extractLsb' 5 1) x)
    | 1 => some (.amoAnd d a (f.extractLsb' 0 5) (f.extractLsb' 5 1) x)
    | 2 => some (.amoOr d a (f.extractLsb' 0 5) (f.extractLsb' 5 1) x)
    | 3 => some (.amoXor d a (f.extractLsb' 0 5) (f.extractLsb' 5 1) x)
    | 4 => some (.amoMin d a (f.extractLsb' 0 5) (f.extractLsb' 5 1) x)
    | 5 => some (.amoMax d a (f.extractLsb' 0 5) (f.extractLsb' 5 1) x)
    | 6 => some (.amoSwap d a (f.extractLsb' 0 5) (f.extractLsb' 5 1) x)
    | 7 => some (.amoCas d a (f.extractLsb' 0 5) x)
    | 8 => some (.amoIncb d a (f.extractLsb' 0 5) x)
    | 9 => some (.amoIncw d a (f.extractLsb' 0 5) x)
    | 10 => some (.amoDecnz d a (f.extractLsb' 0 5) x)
    | 11 => some (.amoAddlim d a (f.extractLsb' 0 5) x)
    | _ => none

/-- The instructions of MAJ 0x21 by their function fields. -/
def rawMaj21 (x : BitVec 4) (f : BitVec 6) (b a d : BitVec 5) : Option Instr :=
  match b.toNat with
    | 0 => some (.tamoFadd d a (f.extractLsb' 0 5) x)
    | 1 => some (.tamoFmax d a (f.extractLsb' 0 5) x)
    | 2 => some (.tamoFmin d a (f.extractLsb' 0 5) x)
    | 3 => some (.tamoOr d a (f.extractLsb' 0 5) x)
    | 4 => some (.tamoSkip d a (f.extractLsb' 0 5) x)
    | 8 => some (.tfence a (f.extractLsb' 0 5))
    | _ => none

/-- The instructions of MAJ 0x22 by their function fields. -/
def rawMaj22 (x : BitVec 4) (f : BitVec 6) (b a d : BitVec 5) : Option Instr :=
  match f.toNat with
    | 0 => some .fenceT
    | 1 => some .fenceC
    | 2 => some .fenceG
    | 3 => some .fenceE
    | 4 => some .fenceSp
    | 8 => some (.waitCnt a b d)
    | 16 => some (.evWait a)
    | 17 => some (.evSig a b x)
    | 20 => some (.mtxLock a d)
    | 21 => some (.mtxUnlock a d x)
    | 24 => some (.barArr d (b.extractLsb' 0 2) x)
    | 25 => some (.barWait a (b.extractLsb' 0 2))
    | 26 => some (.barSync d (b.extractLsb' 0 2))
    | 27 => some (.barPhase d (b.extractLsb' 0 2) x)
    | _ => none

/-- The instructions of MAJ 0x23 by their function fields. -/
def rawMaj23 (x : BitVec 4) (f : BitVec 6) (b a d : BitVec 5) : Option Instr :=
  match (f.extractLsb' 5 1).toNat with
    | 0 => match b.toNat with
        | 0 => some (.annAmoAdd d a (f.extractLsb' 0 5) x)
        | 1 => some (.annAmoAnd d a (f.extractLsb' 0 5) x)
        | 2 => some (.annAmoOr d a (f.extractLsb' 0 5) x)
        | 3 => some (.annAmoXor d a (f.extractLsb' 0 5) x)
        | 4 => some (.annAmoMin d a (f.extractLsb' 0 5) x)
        | 5 => some (.annAmoMax d a (f.extractLsb' 0 5) x)
        | 6 => some (.annAmoSwap d a (f.extractLsb' 0 5) x)
        | _ => none
    | 1 => some (.annLd d a (f.extractLsb' 0 5) x)
    | _ => none

/-- The instructions of MAJ 0x24 by their function fields. -/
def rawMaj24 (x : BitVec 4) (f : BitVec 6) (b a d : BitVec 5) : Option Instr :=
  match (f.extractLsb' 0 4).toNat with
    | 0 => some (.vadd d a b ⟨(f.extractLsb' 4 2), (x.extractLsb' 2 2), (x.extractLsb' 1 1), (x.extractLsb' 0 1)⟩)
    | 1 => some (.vsub d a b ⟨(f.extractLsb' 4 2), (x.extractLsb' 2 2), (x.extractLsb' 1 1), (x.extractLsb' 0 1)⟩)
    | 2 => some (.vadds d a b ⟨(f.extractLsb' 4 2), (x.extractLsb' 2 2), (x.extractLsb' 1 1), (x.extractLsb' 0 1)⟩)
    | 3 => some (.vsubs d a b ⟨(f.extractLsb' 4 2), (x.extractLsb' 2 2), (x.extractLsb' 1 1), (x.extractLsb' 0 1)⟩)
    | 4 => some (.vmul d a b ⟨(f.extractLsb' 4 2), (x.extractLsb' 2 2), (x.extractLsb' 1 1), (x.extractLsb' 0 1)⟩)
    | 5 => some (.vmin d a b ⟨(f.extractLsb' 4 2), (x.extractLsb' 2 2), (x.extractLsb' 1 1), (x.extractLsb' 0 1)⟩)
    | 6 => some (.vmax d a b ⟨(f.extractLsb' 4 2), (x.extractLsb' 2 2), (x.extractLsb' 1 1), (x.extractLsb' 0 1)⟩)
    | 7 => some (.vand d a b ⟨(f.extractLsb' 4 2), (x.extractLsb' 2 2), (x.extractLsb' 1 1), (x.extractLsb' 0 1)⟩)
    | 8 => some (.vor d a b ⟨(f.extractLsb' 4 2), (x.extractLsb' 2 2), (x.extractLsb' 1 1), (x.extractLsb' 0 1)⟩)
    | 9 => some (.vxor d a b ⟨(f.extractLsb' 4 2), (x.extractLsb' 2 2), (x.extractLsb' 1 1), (x.extractLsb' 0 1)⟩)
    | 10 => some (.vsll d a b ⟨(f.extractLsb' 4 2), (x.extractLsb' 2 2), (x.extractLsb' 1 1), (x.extractLsb' 0 1)⟩)
    | 11 => some (.vsrl d a b ⟨(f.extractLsb' 4 2), (x.extractLsb' 2 2), (x.extractLsb' 1 1), (x.extractLsb' 0 1)⟩)
    | 12 => some (.vsra d a b ⟨(f.extractLsb' 4 2), (x.extractLsb' 2 2), (x.extractLsb' 1 1), (x.extractLsb' 0 1)⟩)
    | 13 => some (.vminu d a b ⟨(f.extractLsb' 4 2), (x.extractLsb' 2 2), (x.extractLsb' 1 1), (x.extractLsb' 0 1)⟩)
    | 14 => some (.vmaxu d a b ⟨(f.extractLsb' 4 2), (x.extractLsb' 2 2), (x.extractLsb' 1 1), (x.extractLsb' 0 1)⟩)
    | _ => none

/-- The instructions of MAJ 0x25 by their function fields. -/
def rawMaj25 (x : BitVec 4) (f : BitVec 6) (b a d : BitVec 5) : Option Instr :=
  match (f.extractLsb' 0 4).toNat with
    | 0 => some (.vcmpEq d a b ⟨(f.extractLsb' 4 2), (x.extractLsb' 2 2), (x.extractLsb' 1 1), (x.extractLsb' 0 1)⟩)
    | 1 => some (.vcmpNe d a b ⟨(f.extractLsb' 4 2), (x.extractLsb' 2 2), (x.extractLsb' 1 1), (x.extractLsb' 0 1)⟩)
    | 2 => some (.vcmpLt d a b ⟨(f.extractLsb' 4 2), (x.extractLsb' 2 2), (x.extractLsb' 1 1), (x.extractLsb' 0 1)⟩)
    | 3 => some (.vcmpGe d a b ⟨(f.extractLsb' 4 2), (x.extractLsb' 2 2), (x.extractLsb' 1 1), (x.extractLsb' 0 1)⟩)
    | 4 => some (.vcmpLtu d a b ⟨(f.extractLsb' 4 2), (x.extractLsb' 2 2), (x.extractLsb' 1 1), (x.extractLsb' 0 1)⟩)
    | 5 => some (.vcmpGeu d a b ⟨(f.extractLsb' 4 2), (x.extractLsb' 2 2), (x.extractLsb' 1 1), (x.extractLsb' 0 1)⟩)
    | 6 => some (.vredsum d a ⟨(f.extractLsb' 4 2), (x.extractLsb' 2 2), 0#1, (x.extractLsb' 0 1)⟩)
    | 7 => some (.vredmax d a ⟨(f.extractLsb' 4 2), (x.extractLsb' 2 2), 0#1, (x.extractLsb' 0 1)⟩)
    | _ => none

/-- The instructions of MAJ 0x26 by their function fields. -/
def rawMaj26 (x : BitVec 4) (f : BitVec 6) (b a d : BitVec 5) : Option Instr :=
  match (f.extractLsb' 0 4).toNat with
    | 0 => some (.vfadd d a b ⟨(f.extractLsb' 4 2), (x.extractLsb' 2 2), (x.extractLsb' 1 1), (x.extractLsb' 0 1)⟩)
    | 1 => some (.vfsub d a b ⟨(f.extractLsb' 4 2), (x.extractLsb' 2 2), (x.extractLsb' 1 1), (x.extractLsb' 0 1)⟩)
    | 2 => some (.vfmul d a b ⟨(f.extractLsb' 4 2), (x.extractLsb' 2 2), (x.extractLsb' 1 1), (x.extractLsb' 0 1)⟩)
    | 3 => some (.vfma d a b ⟨(f.extractLsb' 4 2), (x.extractLsb' 2 2), (x.extractLsb' 1 1), (x.extractLsb' 0 1)⟩)
    | 4 => some (.vfnma d a b ⟨(f.extractLsb' 4 2), (x.extractLsb' 2 2), (x.extractLsb' 1 1), (x.extractLsb' 0 1)⟩)
    | 5 => some (.vfmin d a b ⟨(f.extractLsb' 4 2), (x.extractLsb' 2 2), (x.extractLsb' 1 1), (x.extractLsb' 0 1)⟩)
    | 6 => some (.vfmax d a b ⟨(f.extractLsb' 4 2), (x.extractLsb' 2 2), (x.extractLsb' 1 1), (x.extractLsb' 0 1)⟩)
    | 7 => some (.vfminp d a b ⟨(f.extractLsb' 4 2), (x.extractLsb' 2 2), (x.extractLsb' 1 1), (x.extractLsb' 0 1)⟩)
    | 8 => some (.vfmaxp d a b ⟨(f.extractLsb' 4 2), (x.extractLsb' 2 2), (x.extractLsb' 1 1), (x.extractLsb' 0 1)⟩)
    | 9 => some (.vfabs d a ⟨(f.extractLsb' 4 2), (x.extractLsb' 2 2), 0#1, (x.extractLsb' 0 1)⟩)
    | 10 => some (.vfneg d a ⟨(f.extractLsb' 4 2), (x.extractLsb' 2 2), 0#1, (x.extractLsb' 0 1)⟩)
    | 11 => some (.vfcmpEq d a b ⟨(f.extractLsb' 4 2), (x.extractLsb' 2 2), (x.extractLsb' 1 1), (x.extractLsb' 0 1)⟩)
    | 12 => some (.vfcmpLt d a b ⟨(f.extractLsb' 4 2), (x.extractLsb' 2 2), (x.extractLsb' 1 1), (x.extractLsb' 0 1)⟩)
    | 13 => some (.vfcmpLe d a b ⟨(f.extractLsb' 4 2), (x.extractLsb' 2 2), (x.extractLsb' 1 1), (x.extractLsb' 0 1)⟩)
    | 14 => some (.vfcmpUn d a b ⟨(f.extractLsb' 4 2), (x.extractLsb' 2 2), (x.extractLsb' 1 1), (x.extractLsb' 0 1)⟩)
    | 15 => some (.vfclass d a ⟨(f.extractLsb' 4 2), (x.extractLsb' 2 2), 0#1, (x.extractLsb' 0 1)⟩)
    | _ => none

/-- The instructions of MAJ 0x27 by their function fields. -/
def rawMaj27 (x : BitVec 4) (f : BitVec 6) (_b a d : BitVec 5) : Option Instr :=
  match (f.extractLsb' 0 4).toNat with
    | 0 => some (.vfredsum d a ⟨(f.extractLsb' 4 2), (x.extractLsb' 2 2), 0#1, (x.extractLsb' 0 1)⟩)
    | 1 => some (.vfredmax d a ⟨(f.extractLsb' 4 2), (x.extractLsb' 2 2), 0#1, (x.extractLsb' 0 1)⟩)
    | 2 => some (.vfredmin d a ⟨(f.extractLsb' 4 2), (x.extractLsb' 2 2), 0#1, (x.extractLsb' 0 1)⟩)
    | _ => none

/-- The instructions of MAJ 0x28 by their function fields. -/
def rawMaj28 (x : BitVec 4) (f : BitVec 6) (b a d : BitVec 5) : Option Instr :=
  match (f.extractLsb' 0 4).toNat with
    | 0 => some (.vsel d a b ⟨(f.extractLsb' 4 2), (x.extractLsb' 2 2), (x.extractLsb' 1 1), (x.extractLsb' 0 1)⟩)
    | 1 => some (.vperm d a b ⟨(f.extractLsb' 4 2), (x.extractLsb' 2 2), (x.extractLsb' 1 1), (x.extractLsb' 0 1)⟩)
    | 2 => some (.vbcast d a ⟨(f.extractLsb' 4 2), (x.extractLsb' 2 2), 0#1, 0#1⟩)
    | 3 => some (.vbcastL d a b ⟨(f.extractLsb' 4 2), (x.extractLsb' 2 2), 0#1, (x.extractLsb' 0 1)⟩)
    | 4 => some (.vslideUp d a b ⟨(f.extractLsb' 4 2), (x.extractLsb' 2 2), 0#1, (x.extractLsb' 0 1)⟩)
    | 5 => some (.vslideDn d a b ⟨(f.extractLsb' 4 2), (x.extractLsb' 2 2), 0#1, (x.extractLsb' 0 1)⟩)
    | 6 => some (.vext d a b ⟨(f.extractLsb' 4 2), 0#2, 0#1, (x.extractLsb' 0 1)⟩)
    | 7 => some (.vins d a b ⟨(f.extractLsb' 4 2), (x.extractLsb' 2 2), 0#1, 0#1⟩)
    | _ => none

/-- The instructions of MAJ 0x29 by their function fields. -/
def rawMaj29 (x : BitVec 4) (f : BitVec 6) (b a d : BitVec 5) : Option Instr :=
  match (f.extractLsb' 2 2).toNat with
    | 0 => match (b.extractLsb' 4 1).toNat with
        | 0 => some (.vcvtFN d a (b.extractLsb' 0 4) (f.extractLsb' 0 2) ⟨0#2, (x.extractLsb' 2 2), 0#1, (x.extractLsb' 0 1)⟩)
        | 1 => some (.vcvtFW d a (b.extractLsb' 0 4) (f.extractLsb' 0 2) ⟨0#2, (x.extractLsb' 2 2), 0#1, (x.extractLsb' 0 1)⟩)
        | _ => none
    | 1 => match (b.extractLsb' 3 2).toNat with
        | 0 => some (.vcvtIN d a (b.extractLsb' 0 3) (f.extractLsb' 0 2) ⟨0#2, (x.extractLsb' 2 2), 0#1, (x.extractLsb' 0 1)⟩)
        | 1 => some (.vcvtIW d a (b.extractLsb' 0 3) (f.extractLsb' 0 2) ⟨0#2, (x.extractLsb' 2 2), 0#1, (x.extractLsb' 0 1)⟩)
        | 2 => some (.vcvtX d a (b.extractLsb' 0 2) (f.extractLsb' 0 2) ⟨(f.extractLsb' 4 2), (x.extractLsb' 2 2), 0#1, (x.extractLsb' 0 1)⟩)
        | 3 => some (.vcvtXu d a (b.extractLsb' 0 2) (f.extractLsb' 0 2) ⟨(f.extractLsb' 4 2), (x.extractLsb' 2 2), 0#1, (x.extractLsb' 0 1)⟩)
        | _ => none
    | 2 => some (.vqnt d a b (f.extractLsb' 0 2) ⟨(f.extractLsb' 4 2), (x.extractLsb' 2 2), 0#1, (x.extractLsb' 0 1)⟩)
    | 3 => some (.vdqnt d a b (f.extractLsb' 0 2) ⟨(f.extractLsb' 4 2), (x.extractLsb' 2 2), 0#1, (x.extractLsb' 0 1)⟩)
    | _ => none

/-- The instructions of MAJ 0x2A by their function fields. -/
def rawMaj2A (x : BitVec 4) (f : BitVec 6) (b a d : BitVec 5) : Option Instr :=
  match (f.extractLsb' 0 4).toNat with
    | 0 => some (.vfdiv d a b (f.extractLsb' 4 2) x)
    | 1 => some (.vfsqrt d a (f.extractLsb' 4 2) x)
    | 2 => some (.vfrcpa d a (f.extractLsb' 4 2) x)
    | 3 => some (.vfrsqa d a (f.extractLsb' 4 2) x)
    | 4 => some (.vexp2a d a (f.extractLsb' 4 2) x)
    | 5 => some (.vlog2a d a (f.extractLsb' 4 2) x)
    | 6 => some (.vgauss d a b x)
    | _ => none

/-- The instructions of MAJ 0x2B by their function fields. -/
def rawMaj2B (_x : BitVec 4) (f : BitVec 6) (b a d : BitVec 5) : Option Instr :=
  match f.toNat with
    | 0 => some (.pand d a b)
    | 1 => some (.por d a b)
    | 2 => some (.pnot d a)
    | 3 => some (.pset d a)
    | 4 => some (.pcount d a b)
    | _ => none

/-- The instructions of MAJ 0x2C by their function fields. -/
def rawMaj2C (x : BitVec 4) (f : BitVec 6) (b a d : BitVec 5) : Option Instr :=
  match b.toNat with
    | 0 => some (.engW a (f.extractLsb' 4 2) (f.extractLsb' 0 4))
    | 1 => if f.toNat = 14 then some (.copyLaunch d x) else
        if f.toNat = 30 then some (.gatherLaunch d x) else
          if f.toNat = 46 then some (.exchangeLaunch d x) else
            some (.engR d (f.extractLsb' 4 2) (f.extractLsb' 0 4) x)
    | 2 => some (.engWait d a x)
    | 3 => some (.engPoll d a x)
    | _ => none

/-- The instructions of MAJ 0x2D by their function fields. -/
def rawMaj2D (x : BitVec 4) (f : BitVec 6) (b a d : BitVec 5) : Option Instr :=
  match f.toNat with
    | 0 => some (.msgSend d a x)
    | 1 => some (.msgRecv d a b x)
    | 2 => some (.msgPush d a b x)
    | 3 => some (.msgSret d a b x)
    | 8 => some (.rankRd d a b x)
    | 9 => some (.rankMove d a b x)
    | _ => none

/-- The instructions of MAJ 0x2E by their function fields. -/
def rawMaj2E (x : BitVec 4) (f : BitVec 6) (b a d : BitVec 5) : Option Instr :=
  match (f.extractLsb' 3 3).toNat with
    | 0 => some (.gangMma (d.extractLsb' 0 3) (d.extractLsb' 3 1 ++ a) (d.extractLsb' 4 1 ++ b) x)
    | 1 => some (.gangMmaSh (d.extractLsb' 0 3) (d.extractLsb' 3 1 ++ a) (d.extractLsb' 4 1 ++ b) (f.extractLsb' 0 3) x)
    | 2 => some (.mxFill (f.extractLsb' 0 1 ++ d) b a x)
    | 3 => some (.mxFillCol (f.extractLsb' 0 1 ++ d) b a x)
    | 4 => match (f.extractLsb' 1 5).toNat with
        | 16 => match f.toNat with
            | 32 => some (.mxAcld (d.extractLsb' 0 3) a b x)
            | 33 => some (.mxAcst (d.extractLsb' 0 3) a b x)
            | _ => none
        | 17 => some (.mxZero (d.extractLsb' 0 3) x)
        | 18 => some (.mxClaim (f.extractLsb' 0 1 ++ d) x)
        | 19 => some (.mxRel (f.extractLsb' 0 1 ++ d) x)
        | _ => none
    | 5 => match f.toNat with
        | 40 => some (.mxRegen (b.extractLsb' 0 1 ++ d) (b.extractLsb' 1 1 ++ a) x)
        | 41 => some (.mxRegenE (b.extractLsb' 0 1 ++ d) (b.extractLsb' 1 1 ++ a) x)
        | 42 => some (.mxRegenT (b.extractLsb' 0 1 ++ d) (b.extractLsb' 1 1 ++ a) x)
        | 43 => some (.mxRegenET (b.extractLsb' 0 1 ++ d) (b.extractLsb' 1 1 ++ a) x)
        | _ => none
    | 6 => match f.toNat with
        | 48 => some (.gangForm d)
        | 49 => some .gangSplit
        | 50 => some (.gangJoinInstruction d x)
        | _ => none
    | _ => none

/-- The instructions of MAJ 0x2F by their function fields. -/
def rawMaj2F (x : BitVec 4) (f : BitVec 6) (b a d : BitVec 5) : Option Instr :=
  match f.toNat with
    | 0 => some (.prmOpen d a b x)
    | 1 => some (.prmRedeem d a b x)
    | 2 => some (.prmRedeemT d a b x)
    | 3 => some (.prmCancel d a x)
    | 4 => some (.prmQuery d a b x)
    | 8 => some (.optCard d a b x)
    | 9 => some (.optLdr a b (d.extractLsb' 0 3) x)
    | 10 => some (.optWait d a x)
    | _ => none

/-- The instructions of MAJ 0x30 by their function fields. -/
def rawMaj30 (_x : BitVec 4) (f : BitVec 6) (b a d : BitVec 5) : Option Instr :=
  match f.toNat with
    | 0 => some (.cntRd d a b)
    | 1 => some (.trcMark a b)
    | 2 => some (.prfRd d a b)
    | _ => none

/-- The compact forms by op4 (R80). -/
def rawCompact (e : BitVec 1) (a d : BitVec 5) (o : BitVec 4) : Option Instr :=
  match o.toNat with
  | 0 => some (.cMv d a)
  | 1 => some (.cAdd d a)
  | 2 => some (.cSub d a)
  | 3 => some (.cAnd d a)
  | 4 => some (.cOr d a)
  | 5 => some (.cXor d a)
  | 6 => some (.cAddi d (e ++ a))
  | 7 => some (.cLi d (e ++ a))
  | 8 => some (.cSlli d a)
  | 9 => some (.cSrli d a)
  | 10 => some (.cSrai d a)
  | 11 => some (.cBeqz d (e ++ a))
  | 12 => some (.cBnez d (e ++ a))
  | 13 => some (.cSlt d a)
  | 14 => some (.cJr d)
  | 15 => some .cEnd
  | _ => none

/-- The instruction that the groups of a 32-bit word select, before its checks (R78). -/
def rawWord (x : BitVec 4) (f : BitVec 6) (b a d : BitVec 5) (maj : BitVec 6) : Option Instr :=
  match maj.toNat with
  | 1 => rawMaj01 x f b a d
  | 2 => rawMaj02 x f b a d
  | 3 => rawMaj03 x f b a d
  | 4 => rawMaj04 x f b a d
  | 5 => rawMaj05 x f b a d
  | 6 => rawMaj06 x f b a d
  | 7 => rawMaj07 x f b a d
  | 8 => rawMaj08 x f b a d
  | 9 => rawMaj09 x f b a d
  | 10 => rawMaj0A x f b a d
  | 11 => rawMaj0B x f b a d
  | 12 => rawMaj0C x f b a d
  | 13 => rawMaj0D x f b a d
  | 14 => rawMaj0E x f b a d
  | 15 => rawMaj0F x f b a d
  | 16 => rawMaj10 x f b a d
  | 17 => rawMaj11 x f b a d
  | 18 => rawMaj12 x f b a d
  | 19 => rawMaj13 x f b a d
  | 20 => rawMaj14 x f b a d
  | 21 => rawMaj15 x f b a d
  | 22 => rawMaj16 x f b a d
  | 24 => rawMaj18 x f b a d
  | 25 => rawMaj19 x f b a d
  | 26 => rawMaj1A x f b a d
  | 27 => rawMaj1B x f b a d
  | 28 => rawMaj1C x f b a d
  | 29 => rawMaj1D x f b a d
  | 32 => rawMaj20 x f b a d
  | 33 => rawMaj21 x f b a d
  | 34 => rawMaj22 x f b a d
  | 35 => rawMaj23 x f b a d
  | 36 => rawMaj24 x f b a d
  | 37 => rawMaj25 x f b a d
  | 38 => rawMaj26 x f b a d
  | 39 => rawMaj27 x f b a d
  | 40 => rawMaj28 x f b a d
  | 41 => rawMaj29 x f b a d
  | 42 => rawMaj2A x f b a d
  | 43 => rawMaj2B x f b a d
  | 44 => rawMaj2C x f b a d
  | 45 => rawMaj2D x f b a d
  | 46 => rawMaj2E x f b a d
  | 47 => rawMaj2F x f b a d
  | 48 => rawMaj30 x f b a d
  | _ => none

/-- The instruction that a word (or a parcel, zero-extended) selects, before its checks (R74). -/
def rawDecode (w : Word) : Option Instr :=
  if w.getLsbD 0 then
    rawWord (w.extractLsb' 28 4) (w.extractLsb' 22 6) (w.extractLsb' 17 5) (w.extractLsb' 12 5) (w.extractLsb' 7 5)
      (w.extractLsb' 1 6)
  else rawCompact (w.extractLsb' 15 1) (w.extractLsb' 10 5) (w.extractLsb' 5 5) (w.extractLsb' 1 4)

/-- What the decoder makes of a word (R79): an instruction, or one of the three patterns that trap. -/
inductive Decoded where
  | instr (i : Instr)
  | zero
  | pool
  | ill
deriving DecidableEq, Repr

/-- The word of an instruction, from the encoding of its entry; a compact parcel is zero-extended. A step of the module has
no word: it answers 0, which is no instruction's word. -/
def encodeWord : Instr → Word
  | .add d a b => pack 0#4 0#6 b a d 0x01#6
  | .sub d a b => pack 0#4 1#6 b a d 0x01#6
  | .and d a b => pack 0#4 2#6 b a d 0x01#6
  | .or d a b => pack 0#4 3#6 b a d 0x01#6
  | .xor d a b => pack 0#4 4#6 b a d 0x01#6
  | .andn d a b => pack 0#4 5#6 b a d 0x01#6
  | .sll d a b => pack 0#4 6#6 b a d 0x01#6
  | .srl d a b => pack 0#4 7#6 b a d 0x01#6
  | .sra d a b => pack 0#4 8#6 b a d 0x01#6
  | .slt d a b => pack 0#4 9#6 b a d 0x01#6
  | .sltu d a b => pack 0#4 10#6 b a d 0x01#6
  | .min d a b => pack 0#4 11#6 b a d 0x01#6
  | .max d a b => pack 0#4 12#6 b a d 0x01#6
  | .minu d a b => pack 0#4 13#6 b a d 0x01#6
  | .maxu d a b => pack 0#4 14#6 b a d 0x01#6
  | .mul d a b => pack 0#4 16#6 b a d 0x01#6
  | .mulh d a b => pack 0#4 17#6 b a d 0x01#6
  | .mulhu d a b => pack 0#4 18#6 b a d 0x01#6
  | .div d a b => pack 0#4 20#6 b a d 0x01#6
  | .divu d a b => pack 0#4 21#6 b a d 0x01#6
  | .rem d a b => pack 0#4 22#6 b a d 0x01#6
  | .remu d a b => pack 0#4 23#6 b a d 0x01#6
  | .clz d a => pack 0#4 24#6 0#5 a d 0x01#6
  | .ctz d a => pack 0#4 25#6 0#5 a d 0x01#6
  | .popc d a => pack 0#4 26#6 0#5 a d 0x01#6
  | .brev d a => pack 0#4 27#6 0#5 a d 0x01#6
  | .addi d a i => pack (i.extractLsb' 11 4) (i.extractLsb' 5 6) (i.extractLsb' 0 5) a d 0x02#6
  | .andi d a i => pack (i.extractLsb' 11 4) (i.extractLsb' 5 6) (i.extractLsb' 0 5) a d 0x03#6
  | .ori d a i => pack (i.extractLsb' 11 4) (i.extractLsb' 5 6) (i.extractLsb' 0 5) a d 0x04#6
  | .xori d a i => pack (i.extractLsb' 11 4) (i.extractLsb' 5 6) (i.extractLsb' 0 5) a d 0x05#6
  | .slti d a i => pack (i.extractLsb' 11 4) (i.extractLsb' 5 6) (i.extractLsb' 0 5) a d 0x06#6
  | .sltiu d a i => pack (i.extractLsb' 11 4) (i.extractLsb' 5 6) (i.extractLsb' 0 5) a d 0x07#6
  | .slli d a s => pack 0#4 0#6 s a d 0x08#6
  | .srli d a s => pack 0#4 1#6 s a d 0x08#6
  | .srai d a s => pack 0#4 2#6 s a d 0x08#6
  | .lui d i => pack (i.extractLsb' 16 4) (i.extractLsb' 10 6) (i.extractLsb' 5 5) (i.extractLsb' 0 5) d 0x09#6
  | .beq a b off => pack (off.extractLsb' 8 4) (off.extractLsb' 5 3 ++ 0#3) b a (off.extractLsb' 0 5) 0x0A#6
  | .bne a b off => pack (off.extractLsb' 8 4) (off.extractLsb' 5 3 ++ 1#3) b a (off.extractLsb' 0 5) 0x0A#6
  | .blt a b off => pack (off.extractLsb' 8 4) (off.extractLsb' 5 3 ++ 4#3) b a (off.extractLsb' 0 5) 0x0A#6
  | .bge a b off => pack (off.extractLsb' 8 4) (off.extractLsb' 5 3 ++ 5#3) b a (off.extractLsb' 0 5) 0x0A#6
  | .bltu a b off => pack (off.extractLsb' 8 4) (off.extractLsb' 5 3 ++ 6#3) b a (off.extractLsb' 0 5) 0x0A#6
  | .bgeu a b off => pack (off.extractLsb' 8 4) (off.extractLsb' 5 3 ++ 7#3) b a (off.extractLsb' 0 5) 0x0A#6
  | .jal d o => pack (o.extractLsb' 16 4) (o.extractLsb' 10 6) (o.extractLsb' 5 5) (o.extractLsb' 0 5) d 0x0B#6
  | .jalr d a i => pack (i.extractLsb' 11 4) (i.extractLsb' 5 6) (i.extractLsb' 0 5) a d 0x0C#6
  | .crr d c => pack (0#3 ++ c.extractLsb' 11 1) (c.extractLsb' 5 6) (c.extractLsb' 0 5) 0#5 d 0x0D#6
  | .crw a c => pack (2#3 ++ c.extractLsb' 11 1) (c.extractLsb' 5 6) (c.extractLsb' 0 5) a 0#5 0x0D#6
  | .crs d a c => pack (4#3 ++ c.extractLsb' 11 1) (c.extractLsb' 5 6) (c.extractLsb' 0 5) a d 0x0D#6
  | .crc d a c => pack (6#3 ++ c.extractLsb' 11 1) (c.extractLsb' 5 6) (c.extractLsb' 0 5) a d 0x0D#6
  | .trap a => pack 0#4 0#6 0#5 a 0#5 0x0E#6
  | .eret => pack 0#4 1#6 0#5 0#5 0#5 0x0E#6
  | .brk => pack 0#4 2#6 0#5 0#5 0#5 0x0E#6
  | .yield => pack 0#4 3#6 0#5 0#5 0#5 0x0E#6
  | .taskEnd => pack 0#4 4#6 0#5 0#5 0#5 0x0E#6
  | .lrecRd d w => pack 0#4 0#6 w 0#5 d 0x0F#6
  | .lrecPatch a b w => pack 0#4 1#6 b a w 0x0F#6
  | .lrecArm d a b => pack 0#4 2#6 b a d 0x0F#6
  | .tqReq d a => pack 0#4 3#6 0#5 a d 0x0F#6
  | .grpRd d a s => pack 0#4 4#6 s a d 0x0F#6
  | .cMv d a => (0#16 ++ packC 0#1 a d 0#4)
  | .cAdd d a => (0#16 ++ packC 0#1 a d 1#4)
  | .cSub d a => (0#16 ++ packC 0#1 a d 2#4)
  | .cAnd d a => (0#16 ++ packC 0#1 a d 3#4)
  | .cOr d a => (0#16 ++ packC 0#1 a d 4#4)
  | .cXor d a => (0#16 ++ packC 0#1 a d 5#4)
  | .cAddi d i => (0#16 ++ packC (i.extractLsb' 5 1) (i.extractLsb' 0 5) d 6#4)
  | .cLi d i => (0#16 ++ packC (i.extractLsb' 5 1) (i.extractLsb' 0 5) d 7#4)
  | .cSlli d i => (0#16 ++ packC 0#1 i d 8#4)
  | .cSrli d i => (0#16 ++ packC 0#1 i d 9#4)
  | .cSrai d i => (0#16 ++ packC 0#1 i d 10#4)
  | .cBeqz d o => (0#16 ++ packC (o.extractLsb' 5 1) (o.extractLsb' 0 5) d 11#4)
  | .cBnez d o => (0#16 ++ packC (o.extractLsb' 5 1) (o.extractLsb' 0 5) d 12#4)
  | .cSlt d a => (0#16 ++ packC 0#1 a d 13#4)
  | .cJr d => (0#16 ++ packC 0#1 0#5 d 14#4)
  | .cEnd => (0#16 ++ packC 0#1 0#5 0#5 15#4)
  | .ld d a b h l => pack l (0#1 ++ h) b a d 0x10#6
  | .st d a b h l => pack l (0#1 ++ h) b a d 0x11#6
  | .ldFe d a b h l => pack l (0#1 ++ h) b a d 0x12#6
  | .ldFeClr d a b h l => pack l (1#1 ++ h) b a d 0x12#6
  | .stFe d a b h l => pack l (0#1 ++ h) b a d 0x13#6
  | .stFeForce d a b h l => pack l (1#1 ++ h) b a d 0x13#6
  | .ldV d a b h l => pack l (0#1 ++ h) b a d 0x14#6
  | .stV d a b h l => pack l (0#1 ++ h) b a d 0x15#6
  | .vld d a b h l => pack l (0#1 ++ h) b a d 0x18#6
  | .vst d a b h l => pack l (0#1 ++ h) b a d 0x19#6
  | .vldFe d a b h l => pack l (0#1 ++ h) b a d 0x1A#6
  | .vldFeClr d a b h l => pack l (1#1 ++ h) b a d 0x1A#6
  | .vstFe d a b h l => pack l (0#1 ++ h) b a d 0x1B#6
  | .vstFeForce d a b h l => pack l (1#1 ++ h) b a d 0x1B#6
  | .vldV d a b h l => pack l (0#1 ++ h) b a d 0x1C#6
  | .vstV d a b h l => pack l (0#1 ++ h) b a d 0x1D#6
  | .layRd d w h l => pack l (0#1 ++ h) (0#1 ++ w) 0#5 d 0x16#6
  | .layWr a w h l => pack l (0#1 ++ h) (1#1 ++ w) a 0#5 0x16#6
  | .reclaim a h l => pack l (0#1 ++ h) 31#5 a 0#5 0x16#6
  | .laySel d a b h l => pack l (1#1 ++ h) b a d 0x16#6
  | .amoAdd d a h q l => pack l (q ++ h) 0#5 a d 0x20#6
  | .amoAnd d a h q l => pack l (q ++ h) 1#5 a d 0x20#6
  | .amoOr d a h q l => pack l (q ++ h) 2#5 a d 0x20#6
  | .amoXor d a h q l => pack l (q ++ h) 3#5 a d 0x20#6
  | .amoMin d a h q l => pack l (q ++ h) 4#5 a d 0x20#6
  | .amoMax d a h q l => pack l (q ++ h) 5#5 a d 0x20#6
  | .amoSwap d a h q l => pack l (q ++ h) 6#5 a d 0x20#6
  | .amoCas d a h l => pack l (0#1 ++ h) 7#5 a d 0x20#6
  | .amoIncb d a h l => pack l (0#1 ++ h) 8#5 a d 0x20#6
  | .amoIncw d a h l => pack l (0#1 ++ h) 9#5 a d 0x20#6
  | .amoDecnz d a h l => pack l (0#1 ++ h) 10#5 a d 0x20#6
  | .amoAddlim d a h l => pack l (0#1 ++ h) 11#5 a d 0x20#6
  | .tamoFadd d a h l => pack l (0#1 ++ h) 0#5 a d 0x21#6
  | .tamoFmax d a h l => pack l (0#1 ++ h) 1#5 a d 0x21#6
  | .tamoFmin d a h l => pack l (0#1 ++ h) 2#5 a d 0x21#6
  | .tamoOr d a h l => pack l (0#1 ++ h) 3#5 a d 0x21#6
  | .tamoSkip d a h l => pack l (0#1 ++ h) 4#5 a d 0x21#6
  | .tfence a h => pack 0#4 (0#1 ++ h) 8#5 a 0#5 0x21#6
  | .annAmoAdd d a h l => pack l (0#1 ++ h) 0#5 a d 0x23#6
  | .annAmoAnd d a h l => pack l (0#1 ++ h) 1#5 a d 0x23#6
  | .annAmoOr d a h l => pack l (0#1 ++ h) 2#5 a d 0x23#6
  | .annAmoXor d a h l => pack l (0#1 ++ h) 3#5 a d 0x23#6
  | .annAmoMin d a h l => pack l (0#1 ++ h) 4#5 a d 0x23#6
  | .annAmoMax d a h l => pack l (0#1 ++ h) 5#5 a d 0x23#6
  | .annAmoSwap d a h l => pack l (0#1 ++ h) 6#5 a d 0x23#6
  | .annLd d a h l => pack l (1#1 ++ h) 0#5 a d 0x23#6
  | .fenceT => pack 0#4 0#6 0#5 0#5 0#5 0x22#6
  | .fenceC => pack 0#4 1#6 0#5 0#5 0#5 0x22#6
  | .fenceG => pack 0#4 2#6 0#5 0#5 0#5 0x22#6
  | .fenceE => pack 0#4 3#6 0#5 0#5 0#5 0x22#6
  | .fenceSp => pack 0#4 4#6 0#5 0#5 0#5 0x22#6
  | .waitCnt a b n => pack 0#4 8#6 b a n 0x22#6
  | .evWait a => pack 0#4 16#6 0#5 a 0#5 0x22#6
  | .evSig a b l => pack l 17#6 b a 0#5 0x22#6
  | .mtxLock a n => pack 0#4 20#6 0#5 a n 0x22#6
  | .mtxUnlock a n l => pack l 21#6 0#5 a n 0x22#6
  | .barArr d g l => pack l 24#6 (0#3 ++ g) 0#5 d 0x22#6
  | .barWait a g => pack 0#4 25#6 (0#3 ++ g) a 0#5 0x22#6
  | .barSync d g => pack 0#4 26#6 (0#3 ++ g) 0#5 d 0x22#6
  | .barPhase d g l => pack l 27#6 (0#3 ++ g) 0#5 d 0x22#6
  | .vadd d a b m => pack (m.pred ++ m.hb ++ m.ha) (m.w ++ 0#4) b a d 0x24#6
  | .vsub d a b m => pack (m.pred ++ m.hb ++ m.ha) (m.w ++ 1#4) b a d 0x24#6
  | .vadds d a b m => pack (m.pred ++ m.hb ++ m.ha) (m.w ++ 2#4) b a d 0x24#6
  | .vsubs d a b m => pack (m.pred ++ m.hb ++ m.ha) (m.w ++ 3#4) b a d 0x24#6
  | .vmul d a b m => pack (m.pred ++ m.hb ++ m.ha) (m.w ++ 4#4) b a d 0x24#6
  | .vmin d a b m => pack (m.pred ++ m.hb ++ m.ha) (m.w ++ 5#4) b a d 0x24#6
  | .vmax d a b m => pack (m.pred ++ m.hb ++ m.ha) (m.w ++ 6#4) b a d 0x24#6
  | .vand d a b m => pack (m.pred ++ m.hb ++ m.ha) (m.w ++ 7#4) b a d 0x24#6
  | .vor d a b m => pack (m.pred ++ m.hb ++ m.ha) (m.w ++ 8#4) b a d 0x24#6
  | .vxor d a b m => pack (m.pred ++ m.hb ++ m.ha) (m.w ++ 9#4) b a d 0x24#6
  | .vsll d a b m => pack (m.pred ++ m.hb ++ m.ha) (m.w ++ 10#4) b a d 0x24#6
  | .vsrl d a b m => pack (m.pred ++ m.hb ++ m.ha) (m.w ++ 11#4) b a d 0x24#6
  | .vsra d a b m => pack (m.pred ++ m.hb ++ m.ha) (m.w ++ 12#4) b a d 0x24#6
  | .vminu d a b m => pack (m.pred ++ m.hb ++ m.ha) (m.w ++ 13#4) b a d 0x24#6
  | .vmaxu d a b m => pack (m.pred ++ m.hb ++ m.ha) (m.w ++ 14#4) b a d 0x24#6
  | .vcmpEq d a b m => pack (m.pred ++ m.hb ++ m.ha) (m.w ++ 0#4) b a d 0x25#6
  | .vcmpNe d a b m => pack (m.pred ++ m.hb ++ m.ha) (m.w ++ 1#4) b a d 0x25#6
  | .vcmpLt d a b m => pack (m.pred ++ m.hb ++ m.ha) (m.w ++ 2#4) b a d 0x25#6
  | .vcmpGe d a b m => pack (m.pred ++ m.hb ++ m.ha) (m.w ++ 3#4) b a d 0x25#6
  | .vcmpLtu d a b m => pack (m.pred ++ m.hb ++ m.ha) (m.w ++ 4#4) b a d 0x25#6
  | .vcmpGeu d a b m => pack (m.pred ++ m.hb ++ m.ha) (m.w ++ 5#4) b a d 0x25#6
  | .vredsum d a m => pack (m.pred ++ 0#1 ++ m.ha) (m.w ++ 6#4) 0#5 a d 0x25#6
  | .vredmax d a m => pack (m.pred ++ 0#1 ++ m.ha) (m.w ++ 7#4) 0#5 a d 0x25#6
  | .vfadd d a b m => pack (m.pred ++ m.hb ++ m.ha) (m.w ++ 0#4) b a d 0x26#6
  | .vfsub d a b m => pack (m.pred ++ m.hb ++ m.ha) (m.w ++ 1#4) b a d 0x26#6
  | .vfmul d a b m => pack (m.pred ++ m.hb ++ m.ha) (m.w ++ 2#4) b a d 0x26#6
  | .vfma d a b m => pack (m.pred ++ m.hb ++ m.ha) (m.w ++ 3#4) b a d 0x26#6
  | .vfnma d a b m => pack (m.pred ++ m.hb ++ m.ha) (m.w ++ 4#4) b a d 0x26#6
  | .vfmin d a b m => pack (m.pred ++ m.hb ++ m.ha) (m.w ++ 5#4) b a d 0x26#6
  | .vfmax d a b m => pack (m.pred ++ m.hb ++ m.ha) (m.w ++ 6#4) b a d 0x26#6
  | .vfminp d a b m => pack (m.pred ++ m.hb ++ m.ha) (m.w ++ 7#4) b a d 0x26#6
  | .vfmaxp d a b m => pack (m.pred ++ m.hb ++ m.ha) (m.w ++ 8#4) b a d 0x26#6
  | .vfabs d a m => pack (m.pred ++ 0#1 ++ m.ha) (m.w ++ 9#4) 0#5 a d 0x26#6
  | .vfneg d a m => pack (m.pred ++ 0#1 ++ m.ha) (m.w ++ 10#4) 0#5 a d 0x26#6
  | .vfcmpEq d a b m => pack (m.pred ++ m.hb ++ m.ha) (m.w ++ 11#4) b a d 0x26#6
  | .vfcmpLt d a b m => pack (m.pred ++ m.hb ++ m.ha) (m.w ++ 12#4) b a d 0x26#6
  | .vfcmpLe d a b m => pack (m.pred ++ m.hb ++ m.ha) (m.w ++ 13#4) b a d 0x26#6
  | .vfcmpUn d a b m => pack (m.pred ++ m.hb ++ m.ha) (m.w ++ 14#4) b a d 0x26#6
  | .vfclass d a m => pack (m.pred ++ 0#1 ++ m.ha) (m.w ++ 15#4) 0#5 a d 0x26#6
  | .vfredsum d a m => pack (m.pred ++ 0#1 ++ m.ha) (m.w ++ 0#4) 0#5 a d 0x27#6
  | .vfredmax d a m => pack (m.pred ++ 0#1 ++ m.ha) (m.w ++ 1#4) 0#5 a d 0x27#6
  | .vfredmin d a m => pack (m.pred ++ 0#1 ++ m.ha) (m.w ++ 2#4) 0#5 a d 0x27#6
  | .vfdiv d a b w l => pack l (w ++ 0#4) b a d 0x2A#6
  | .vfsqrt d a w l => pack l (w ++ 1#4) 0#5 a d 0x2A#6
  | .vfrcpa d a w l => pack l (w ++ 2#4) 0#5 a d 0x2A#6
  | .vfrsqa d a w l => pack l (w ++ 3#4) 0#5 a d 0x2A#6
  | .vexp2a d a w l => pack l (w ++ 4#4) 0#5 a d 0x2A#6
  | .vlog2a d a w l => pack l (w ++ 5#4) 0#5 a d 0x2A#6
  | .vgauss d a b l => pack l 6#6 b a d 0x2A#6
  | .vsel d a b m => pack (m.pred ++ m.hb ++ m.ha) (m.w ++ 0#4) b a d 0x28#6
  | .vperm d a b m => pack (m.pred ++ m.hb ++ m.ha) (m.w ++ 1#4) b a d 0x28#6
  | .vbcast d a m => pack (m.pred ++ 0#2) (m.w ++ 2#4) 0#5 a d 0x28#6
  | .vbcastL d a k m => pack (m.pred ++ 0#1 ++ m.ha) (m.w ++ 3#4) k a d 0x28#6
  | .vslideUp d a b m => pack (m.pred ++ 0#1 ++ m.ha) (m.w ++ 4#4) b a d 0x28#6
  | .vslideDn d a b m => pack (m.pred ++ 0#1 ++ m.ha) (m.w ++ 5#4) b a d 0x28#6
  | .vext d a b m => pack (0#3 ++ m.ha) (m.w ++ 6#4) b a d 0x28#6
  | .vins d a b m => pack (m.pred ++ 0#2) (m.w ++ 7#4) b a d 0x28#6
  | .vcvtFN d a f q m => pack (m.pred ++ 0#1 ++ m.ha) (0#4 ++ q) (0#1 ++ f) a d 0x29#6
  | .vcvtFW d a f q m => pack (m.pred ++ 0#1 ++ m.ha) (0#4 ++ q) (1#1 ++ f) a d 0x29#6
  | .vcvtIN d a i q m => pack (m.pred ++ 0#1 ++ m.ha) (1#4 ++ q) (0#2 ++ i) a d 0x29#6
  | .vcvtIW d a i q m => pack (m.pred ++ 0#1 ++ m.ha) (1#4 ++ q) (1#2 ++ i) a d 0x29#6
  | .vcvtX d a t q m => pack (m.pred ++ 0#1 ++ m.ha) (m.w ++ 1#2 ++ q) (4#3 ++ t) a d 0x29#6
  | .vcvtXu d a t q m => pack (m.pred ++ 0#1 ++ m.ha) (m.w ++ 1#2 ++ q) (6#3 ++ t) a d 0x29#6
  | .vqnt d a b q m => pack (m.pred ++ 0#1 ++ m.ha) (m.w ++ 2#2 ++ q) b a d 0x29#6
  | .vdqnt d a b q m => pack (m.pred ++ 0#1 ++ m.ha) (m.w ++ 3#2 ++ q) b a d 0x29#6
  | .pand d a b => pack 0#4 0#6 b a d 0x2B#6
  | .por d a b => pack 0#4 1#6 b a d 0x2B#6
  | .pnot d a => pack 0#4 2#6 0#5 a d 0x2B#6
  | .pset d a => pack 0#4 3#6 0#5 a d 0x2B#6
  | .pcount d a w => pack 0#4 4#6 w a d 0x2B#6
  | .engW a g e => pack 0#4 (g ++ e) 0#5 a 0#5 0x2C#6
  | .engR d g e l => pack l (g ++ e) 1#5 0#5 d 0x2C#6
  | .copyLaunch d l => pack l 14#6 1#5 0#5 d 0x2C#6
  | .gatherLaunch d l => pack l 30#6 1#5 0#5 d 0x2C#6
  | .exchangeLaunch d l => pack l 46#6 1#5 0#5 d 0x2C#6
  | .engWait d a l => pack l 0#6 2#5 a d 0x2C#6
  | .engPoll d a l => pack l 0#6 3#5 a d 0x2C#6
  | .msgSend d a l => pack l 0#6 0#5 a d 0x2D#6
  | .msgRecv d a b l => pack l 1#6 b a d 0x2D#6
  | .msgPush d a b l => pack l 2#6 b a d 0x2D#6
  | .msgSret d a b l => pack l 3#6 b a d 0x2D#6
  | .rankRd d a s l => pack l 8#6 s a d 0x2D#6
  | .rankMove d a b l => pack l 9#6 b a d 0x2D#6
  | .gangMma d oa ob l => pack l 0#6 (ob.extractLsb' 0 5) (oa.extractLsb' 0 5) (ob.extractLsb' 5 1 ++ oa.extractLsb' 5 1 ++ d) 0x2E#6
  | .gangMmaSh d oa ob src l => pack l (1#3 ++ src) (ob.extractLsb' 0 5) (oa.extractLsb' 0 5) (ob.extractLsb' 5 1 ++ oa.extractLsb' 5 1 ++ d) 0x2E#6
  | .mxFill slot h a l => pack l (8#5 ++ slot.extractLsb' 5 1) h a (slot.extractLsb' 0 5) 0x2E#6
  | .mxFillCol slot h a l => pack l (12#5 ++ slot.extractLsb' 5 1) h a (slot.extractLsb' 0 5) 0x2E#6
  | .mxAcld d a h l => pack l 32#6 h a (0#2 ++ d) 0x2E#6
  | .mxAcst d a h l => pack l 33#6 h a (0#2 ++ d) 0x2E#6
  | .mxZero d l => pack l 34#6 0#5 0#5 (0#2 ++ d) 0x2E#6
  | .mxClaim slot l => pack l (18#5 ++ slot.extractLsb' 5 1) 0#5 0#5 (slot.extractLsb' 0 5) 0x2E#6
  | .mxRel slot l => pack l (19#5 ++ slot.extractLsb' 5 1) 0#5 0#5 (slot.extractLsb' 0 5) 0x2E#6
  | .mxRegen od os l => pack l 40#6 (0#3 ++ os.extractLsb' 5 1 ++ od.extractLsb' 5 1) (os.extractLsb' 0 5) (od.extractLsb' 0 5) 0x2E#6
  | .mxRegenE od os l => pack l 41#6 (0#3 ++ os.extractLsb' 5 1 ++ od.extractLsb' 5 1) (os.extractLsb' 0 5) (od.extractLsb' 0 5) 0x2E#6
  | .mxRegenT od os l => pack l 42#6 (0#3 ++ os.extractLsb' 5 1 ++ od.extractLsb' 5 1) (os.extractLsb' 0 5) (od.extractLsb' 0 5) 0x2E#6
  | .mxRegenET od os l => pack l 43#6 (0#3 ++ os.extractLsb' 5 1 ++ od.extractLsb' 5 1) (os.extractLsb' 0 5) (od.extractLsb' 0 5) 0x2E#6
  | .gangForm d => pack 0#4 48#6 0#5 0#5 d 0x2E#6
  | .gangSplit => pack 0#4 49#6 0#5 0#5 0#5 0x2E#6
  | .prmOpen d a n l => pack l 0#6 n a d 0x2F#6
  | .prmRedeem d a n l => pack l 1#6 n a d 0x2F#6
  | .prmRedeemT d a n l => pack l 2#6 n a d 0x2F#6
  | .prmCancel d a l => pack l 3#6 0#5 a d 0x2F#6
  | .prmQuery d a s l => pack l 4#6 s a d 0x2F#6
  | .optCard d a n l => pack l 8#6 n a d 0x2F#6
  | .optLdr a n k l => pack l 9#6 n a (0#2 ++ k) 0x2F#6
  | .optWait d a l => pack l 10#6 0#5 a d 0x2F#6
  | .cntRd d a h => pack 0#4 0#6 h a d 0x30#6
  | .trcMark a i => pack 0#4 1#6 i a 0#5 0x30#6
  | .prfRd d a s => pack 0#4 2#6 s a d 0x30#6
  | .gangJoinInstruction d l => pack l 50#6 0#5 0#5 d 0x2E#6
  | .powerOn | .coldReset | .warmReset | .thermalTrip | .thermalClear | .hostLinkDown | .owncas | .denied
  | .arm | .evpop | .bar2Write | .registerWrite | .fwmin | .create | .sealPart | .bind | .preempt | .resume
  | .debug | .dbgcont | .map | .unmap | .pgresp | .jobopen | .jobmap | .jobseal | .jobclose | .hload | .snap
  | .recread | .idkey | .retire | .trace | .tfilter | .taskStart | .windowClose | .windowResultDelivery
  | .quantumDeadlock | .watchdog | .timer | .ticketGap | .tfenceGapExpiry | .tktLoadGapExpiry
  | .optWaitGapExpiry | .sendStall | .clockGate | .decodeTrap | .handlerEntry | .fatalStop
  | .userInterruptDelivery | .preEmption | .haltComplete | .spill | .restore | .coreFailure | .rowRemap
  | .laneFailure | .flitReceive | .retransmissionRequest | .messageArrival | .messageRetry | .pushApply
  | .slotReturn | .copyComplete | .gatherComplete | .exchangeComplete | .enginePageFault
  | .engineGranuleWaitEnd | .lockWaitEnd | .fullEmptyWaitEnd | .versionWaitEnd | .reclaimWaitEnd
  | .barrierRelease | .phaseWaitEnd | .eventSignalLanding | .ticketArrival | .ticketRetry
  | .instructionCompletion | .recordPoolAnswer | .gangMmaCompletion | .cardStart | .cardComplete
  | .strainerAction | .traceFilterRun | .interlockedResult | .homeBankAccess | .mutexRetry => 0#32

/-- The decoder: the checks of R79 in their order. A compact parcel comes zero-extended. -/
def decodeWord (w : Word) : Decoded :=
  if w.extractLsb' 0 16 = 0#16 then .zero
  else if w.extractLsb' 0 7 = 0x7F#7 then .pool
  else
    match rawDecode w with
    | some i => if wellFormed i && decide (encodeWord i = w) then .instr i else .ill
    | none => .ill

/-- The parcels of an instruction, first parcel first (R74). -/
def encodeParcels (i : Instr) : List (BitVec 16) :=
  let w := encodeWord i
  if w.getLsbD 0 then [w.extractLsb' 0 16, w.extractLsb' 16 16] else [w.extractLsb' 0 16]

/-- The bytes of a parcel, low byte first (R74). -/
def parcelBytes (p : BitVec 16) : List Byte := [p.extractLsb' 0 8, p.extractLsb' 8 8]

/-- The bytes of an instruction in the order of their addresses. -/
def encode (i : Instr) : List Byte := (encodeParcels i).flatMap parcelBytes

/-- The word that the decoder reads from the two parcels at a program counter: a compact parcel is zero-extended. -/
def joinParcels (lo hi : BitVec 16) : Word := if lo.getLsbD 0 then hi ++ lo else 0#16 ++ lo

/-- Decoding the bytes at a program counter: the instruction and its length, or none. Total on any bytes. -/
def decodeBytes : List Byte → Option (Instr × Nat)
  | b0 :: b1 :: rest =>
    let lo : BitVec 16 := b1 ++ b0
    let hi : Option (BitVec 16) :=
      if lo.getLsbD 0 then
        match rest with
        | b2 :: b3 :: _ => some (b3 ++ b2)
        | _ => none
      else some 0#16
    match hi with
    | none => none
    | some h =>
      match decodeWord (joinParcels lo h) with
      | .instr i => some (i, parcelLength lo)
      | _ => none
  | _ => none

/-- The little-endian bytes of the low n bytes of w. -/
def wordBytes : Nat → Nat → List Byte
  | 0, _ => []
  | n + 1, w => BitVec.ofNat 8 w :: wordBytes n (w / 256)

/-- The instruction read from a word whose bits are w, numbered as spec/opcode_table.json numbers them; the bits above nbits
are zero, up to the longest instruction, four bytes. -/
def decodeTableWord (nbits w : Nat) : Option Instr :=
  (decodeBytes (wordBytes 4 (w % 2 ^ nbits))).map Prod.fst

end Sys2Proof
end

