-- ==== Sys2Proof/Config.lean ====
section
/-! DEFINITION. The values that the spec leaves open. Each is a constant without a body, applied to a counter of the state,
so that no proof can know which value it is. -/

namespace Sys2Proof.Config

/-- The queueing delay Q of a path (R164, R221, R405), which the spec leaves to the traffic. Applied to State.fresh. -/
opaque queueDelay : Nat → Nat

/-- The nonce of an ECDSA signature (R402), which the standard has drawn at random. Applied to State.fresh. -/
opaque ecdsaNonce : Nat → Nat

/-- The bytes of the module's certificate and public key (R402): made by the manufacturer. -/
opaque identityByte : Nat → Byte

/-- The digest of the boot ROM, whose hash R9 does not name. Applied to the bytes of the ROM that are not zero, by address. -/
opaque romDigest : List (Nat × Byte) → BitVec 256

/-- The signing key of a module, which Phodiver derives from the fused device secret (R402). -/
opaque moduleKey : BitVec 256 → BitVec 384

/-- The row of its DRAM channel in which 2 KiB of a caddy lie (R25, R26): Phodiver places the units. Applied to the key of the first
byte, div 2,048. -/
opaque caddyRow : Nat → Nat

/-- The row of its DRAM channel in which 2 KiB of a spill area lie (R359). Applied to the key of the first byte, div 2,048. -/
opaque spillRow : Nat → Nat

/-- The row of a DRAM channel that Phodiver leaves open when it has zeroed memory of a retired context (R404, R410), or copied the channel
to a spare row (R358, R410), in an order that is not given. Applied to State.fresh and the channel. -/
opaque zeroedRow : Nat → Nat → Nat

/-- The row of a DRAM channel in which an access of Phodiver to its private area falls (R52, R410). Applied to State.fresh and the
channel. -/
opaque privateRow : Nat → Nat → Nat

/-- A record word that a filter loads with an index above 7 (R408). Applied to State.fresh. -/
opaque filterWord : Nat → Word

end Sys2Proof.Config
end

