-- ==== Sys2Proof/Machine/Crypto.lean ====
section
/-! DEFINITION. SHA-256, MGF1 and the verification of an RSASSA-PSS signature, as R10 names them for the firmware image, and SHA-384 and
ECDSA over P-384, as R402 names them for records. Bytes are numbers below 256, words are numbers below 2^32 or 2^64. -/

namespace Sys2Proof.Machine

/-- A number in n bytes, most significant first. -/
def beBytes (n x : Nat) : List Nat := (List.range n).map (fun i => x / 256 ^ (n - 1 - i) % 256)

/-- The number that bytes give, most significant first. -/
def beNat (l : List Nat) : Nat := l.foldl (fun a b => 256 * a + b) 0

/-- The round constants of SHA-256. -/
def shaK256 : List Nat :=
  [0x428a2f98, 0x71374491, 0xb5c0fbcf, 0xe9b5dba5, 0x3956c25b, 0x59f111f1, 0x923f82a4, 0xab1c5ed5] ++
  [0xd807aa98, 0x12835b01, 0x243185be, 0x550c7dc3, 0x72be5d74, 0x80deb1fe, 0x9bdc06a7, 0xc19bf174] ++
  [0xe49b69c1, 0xefbe4786, 0x0fc19dc6, 0x240ca1cc, 0x2de92c6f, 0x4a7484aa, 0x5cb0a9dc, 0x76f988da] ++
  [0x983e5152, 0xa831c66d, 0xb00327c8, 0xbf597fc7, 0xc6e00bf3, 0xd5a79147, 0x06ca6351, 0x14292967] ++
  [0x27b70a85, 0x2e1b2138, 0x4d2c6dfc, 0x53380d13, 0x650a7354, 0x766a0abb, 0x81c2c92e, 0x92722c85] ++
  [0xa2bfe8a1, 0xa81a664b, 0xc24b8b70, 0xc76c51a3, 0xd192e819, 0xd6990624, 0xf40e3585, 0x106aa070] ++
  [0x19a4c116, 0x1e376c08, 0x2748774c, 0x34b0bcb5, 0x391c0cb3, 0x4ed8aa4a, 0x5b9cca4f, 0x682e6ff3] ++
  [0x748f82ee, 0x78a5636f, 0x84c87814, 0x8cc70208, 0x90befffa, 0xa4506ceb, 0xbef9a3f7, 0xc67178f2]

/-- The initial state of SHA-256. -/
def shaInit256 : List Nat := [0x6a09e667, 0xbb67ae85, 0x3c6ef372, 0xa54ff53a, 0x510e527f, 0x9b05688c, 0x1f83d9ab, 0x5be0cd19]

/-- The round constants of SHA-384, and its initial state. -/
def shaK384 : List Nat :=
  [0x428a2f98d728ae22, 0x7137449123ef65cd, 0xb5c0fbcfec4d3b2f, 0xe9b5dba58189dbbc] ++
  [0x3956c25bf348b538, 0x59f111f1b605d019, 0x923f82a4af194f9b, 0xab1c5ed5da6d8118] ++
  [0xd807aa98a3030242, 0x12835b0145706fbe, 0x243185be4ee4b28c, 0x550c7dc3d5ffb4e2] ++
  [0x72be5d74f27b896f, 0x80deb1fe3b1696b1, 0x9bdc06a725c71235, 0xc19bf174cf692694] ++
  [0xe49b69c19ef14ad2, 0xefbe4786384f25e3, 0x0fc19dc68b8cd5b5, 0x240ca1cc77ac9c65] ++
  [0x2de92c6f592b0275, 0x4a7484aa6ea6e483, 0x5cb0a9dcbd41fbd4, 0x76f988da831153b5] ++
  [0x983e5152ee66dfab, 0xa831c66d2db43210, 0xb00327c898fb213f, 0xbf597fc7beef0ee4] ++
  [0xc6e00bf33da88fc2, 0xd5a79147930aa725, 0x06ca6351e003826f, 0x142929670a0e6e70] ++
  [0x27b70a8546d22ffc, 0x2e1b21385c26c926, 0x4d2c6dfc5ac42aed, 0x53380d139d95b3df] ++
  [0x650a73548baf63de, 0x766a0abb3c77b2a8, 0x81c2c92e47edaee6, 0x92722c851482353b] ++
  [0xa2bfe8a14cf10364, 0xa81a664bbc423001, 0xc24b8b70d0f89791, 0xc76c51a30654be30] ++
  [0xd192e819d6ef5218, 0xd69906245565a910, 0xf40e35855771202a, 0x106aa07032bbd1b8] ++
  [0x19a4c116b8d2d0c8, 0x1e376c085141ab53, 0x2748774cdf8eeb99, 0x34b0bcb5e19b48a8] ++
  [0x391c0cb3c5c95a63, 0x4ed8aa4ae3418acb, 0x5b9cca4f7763e373, 0x682e6ff3d6b2b8a3] ++
  [0x748f82ee5defb2fc, 0x78a5636f43172f60, 0x84c87814a1f0ab72, 0x8cc702081a6439ec] ++
  [0x90befffa23631e28, 0xa4506cebde82bde9, 0xbef9a3f7b2c67915, 0xc67178f2e372532b] ++
  [0xca273eceea26619c, 0xd186b8c721c0c207, 0xeada7dd6cde0eb1e, 0xf57d4f7fee6ed178] ++
  [0x06f067aa72176fba, 0x0a637dc5a2c898a6, 0x113f9804bef90dae, 0x1b710b35131c471b] ++
  [0x28db77f523047d84, 0x32caab7b40c72493, 0x3c9ebe0a15c9bebc, 0x431d67c49c100d4c] ++
  [0x4cc5d4becb3e42b6, 0x597f299cfc657e2a, 0x5fcb6fab3ad6faec, 0x6c44198c4a475817]
def shaInit384 : List Nat :=
  [0xcbbb9d5dc1059ed8, 0x629a292a367cd507, 0x9159015a3070dd17, 0x152fecd8f70e5939,
   0x67332667ffc00b31, 0x8eb44a8768581511, 0xdb0c2e0d64f98fa7, 0x47b5481dbefa4fa4]

/-- What tells a member of the SHA-2 family from another: the bits of a word, the rotations of the four sums (the last of a small sum is a
shift), the round constants and the initial state. -/
structure Sha where
  bits : Nat
  big0 : Nat × Nat × Nat
  big1 : Nat × Nat × Nat
  low0 : Nat × Nat × Nat
  low1 : Nat × Nat × Nat
  k    : List Nat
  init : List Nat
  deriving DecidableEq, Repr

def sha256Of : Sha :=
  { bits := 32, big0 := (2, 13, 22), big1 := (6, 11, 25), low0 := (7, 18, 3), low1 := (17, 19, 10), k := shaK256, init := shaInit256 }
def sha384Of : Sha :=
  { bits := 64, big0 := (28, 34, 39), big1 := (14, 18, 41), low0 := (1, 8, 7), low1 := (19, 61, 6), k := shaK384, init := shaInit384 }

/-- Rotate a word right; the big and the small sums. -/
def Sha.rotr (h : Sha) (x k : Nat) : Nat := (x >>> k ||| x <<< (h.bits - k)) % 2 ^ h.bits
def Sha.big (h : Sha) (r : Nat × Nat × Nat) (x : Nat) : Nat := h.rotr x r.1 ^^^ h.rotr x r.2.1 ^^^ h.rotr x r.2.2
def Sha.low (h : Sha) (r : Nat × Nat × Nat) (x : Nat) : Nat := h.rotr x r.1 ^^^ h.rotr x r.2.1 ^^^ x >>> r.2.2

/-- Extend a window of sixteen schedule words by n more; the words used come first. -/
def Sha.schedule (h : Sha) : Nat → List Nat → List Nat
  | 0, w => w
  | n + 1, w0 :: l =>
    w0 :: h.schedule n (l ++ [(h.low h.low0 (l.getD 0 0) + w0 + h.low h.low1 (l.getD 13 0) + l.getD 8 0) % 2 ^ h.bits])
  | _ + 1, [] => []

/-- One round on the eight working words, with the round constant and schedule word added up. -/
def Sha.round (p : Sha) (v : List Nat) (kw : Nat) : List Nat :=
  match v with
  | [a, b, c, d, e, f, g, h] =>
    let ch := e &&& f ^^^ (2 ^ p.bits - 1 - e) &&& g
    let t1 := h + p.big p.big1 e + ch + kw
    let maj := a &&& b ^^^ a &&& c ^^^ b &&& c
    [(t1 + p.big p.big0 a + maj) % 2 ^ p.bits, a, b, c, (d + t1) % 2 ^ p.bits, e, f, g]
  | v => v

/-- One block of sixteen words. -/
def Sha.block (h : Sha) (v w : List Nat) : List Nat :=
  let r := (h.k.zipWith (· + ·) (h.schedule (h.k.length - 16) w)).foldl h.round v
  v.zipWith (fun a b => (a + b) % 2 ^ h.bits) r

/-- n blocks of a list of bytes. -/
def Sha.blocks (h : Sha) : Nat → List Nat → List Nat → List Nat
  | 0, v, _ => v
  | n + 1, v, m =>
    let b := h.bits / 8
    h.blocks n (h.block v ((List.range 16).map (fun i => beNat ((m.drop (b * i)).take b)))) (m.drop (16 * b))

/-- The digest of a list of bytes, before it is cut: padded by one bit, zeros and the length in two words, to whole blocks. -/
def Sha.digest (h : Sha) (m : List Nat) : List Nat :=
  let b := h.bits / 8
  let n := m.length
  let pad := m ++ [0x80] ++ List.replicate ((30 * b - 1 - n % (16 * b)) % (16 * b)) 0 ++ beBytes (2 * b) (8 * n)
  (h.blocks (pad.length / (16 * b)) h.init pad).flatMap (beBytes b)

/-- The SHA-256 and the SHA-384 digest of a list of bytes. -/
def sha256 (m : List Nat) : List Nat := sha256Of.digest m
def sha384 (m : List Nat) : List Nat := (sha384Of.digest m).take 48

/-- MGF1-SHA-256: n blocks of 32 bytes. -/
def mgf1 (seed : List Nat) (n : Nat) : List Nat := (List.range n).flatMap (fun i => sha256 (seed ++ beBytes 4 i))

/-- Raise x to 2^k modulo n. -/
def powSquare (n : Nat) : Nat → Nat → Nat
  | 0, x => x % n
  | k + 1, x => powSquare n k (x * x % n)

/-- The RSA public operation with the exponent 2^16 + 1 (log 46). -/
def rsaPublic (n s : Nat) : Nat := powSquare n 16 s * s % n

/-- The bytes of an encoded message pass the checks of EMSA-PSS for a digest: SHA-256, MGF1-SHA-256, a salt of 32 bytes, 3,071 bits
in 384 bytes. -/
def pssCheck (em digest : List Nat) : Bool :=
  let masked := em.take 351
  let h := (em.drop 351).take 32
  let db := masked.zipWith (· ^^^ ·) (mgf1 h 11)
  decide (em.getD 383 0 = 0xBC ∧ masked.headD 0 < 128 ∧ db.headD 0 % 128 = 0) &&
    ((db.drop 1).take 317).all (fun b => b == 0) && decide (db.getD 318 0 = 1) &&
    decide (h = sha256 (List.replicate 8 0 ++ digest ++ db.drop 319))

/-- An RSASSA-PSS signature of a message under a 3,072-bit modulus (R10). -/
def pssVerify (modulus signature : Nat) (message : List Nat) : Bool :=
  decide (signature < modulus) && pssCheck (beBytes 384 (rsaPublic modulus signature)) (sha256 message)

/-! ## ECDSA over P-384 (R402) -/

/-- The prime of the field, the order of the group, and the base point of P-384. -/
def p384 : Nat := 2 ^ 384 - 2 ^ 128 - 2 ^ 96 + 2 ^ 32 - 1
def p384Order : Nat := 0xffffffffffffffffffffffffffffffffffffffffffffffffc7634d81f4372ddf581a0db248b0a77aecec196accc52973
def p384Base : Nat × Nat :=
  (0xaa87ca22be8b05378eb1c71ef320ad746e1d3b628ba79b9859f741e082542a385502f25dbf55296c3a545e3872760ab7,
    0x3617de4a96262c6f5d9e98bf9292dc29f8f41dbd289a147ce9da3113b5f0b8c00a60b1ce1d7e819d7a431d7c90ea0e5f)

/-- Raise x to e modulo n, for an e below 2^384, and the inverse of x modulo a prime. -/
def powMod (n x e : Nat) : Nat :=
  (List.range 384).foldr (fun i r => let q := r * r % n; if e.testBit i then q * x % n else q) 1
def invMod (n x : Nat) : Nat := powMod n (x % n) (n - 2)

/-- The sum of two points of the curve; none is the point at infinity. -/
def addPoint : Option (Nat × Nat) → Option (Nat × Nat) → Option (Nat × Nat)
  | none, q => q
  | q, none => q
  | some (x, y), some (u, v) =>
    if x = u ∧ (y + v) % p384 = 0 then none
    else
      let k := if x = u then (3 * x * x + (p384 - 3)) * invMod p384 (2 * y) else (v + (p384 - y)) * invMod p384 (u + (p384 - x))
      let a := (k * k + (p384 - x) + (p384 - u)) % p384
      some (a, (k * (x + (p384 - a)) + (p384 - y)) % p384)

/-- k times the base point. -/
def timesBase (k : Nat) : Option (Nat × Nat) :=
  (List.range 384).foldr (fun i q => let d := addPoint q q; if k.testBit i then addPoint d (some p384Base) else d) none

/-- The signature of a message by a key with a nonce: r, then s, each in 48 bytes, most significant first. -/
def ecdsaSign (key nonce : Nat) (message : List Nat) : List Nat :=
  let r := ((timesBase nonce).map Prod.fst).getD 0 % p384Order
  let s := invMod p384Order nonce * (beNat (sha384 message) + r * key) % p384Order
  beBytes 48 r ++ beBytes 48 s

end Sys2Proof.Machine
end

