-- ==== Sys2Proof/Machine/Table.lean ====
section
/-! DEFINITION. Sparse tables: lists of (key, value) pairs with strictly rising keys. Memories, sets of records, contexts,
clusters and cores are tables. A memory lists no byte that is 0, which is what an unlisted address reads as (R11). -/

namespace Sys2Proof.Machine

/-- A table: the values of its keys, in rising order of the keys. -/
abbrev Table (α : Type) := List (Nat × α)

/-- The value of key k, if it is listed. -/
def tget {α : Type} : Table α → Nat → Option α
  | [], _ => none
  | (k', v) :: t, k => if k' = k then some v else tget t k

/-- The value of key k, or d. -/
def tgetD {α : Type} (t : Table α) (k : Nat) (d : α) : α := (tget t k).getD d

/-- The table without key k. -/
def tdel {α : Type} (t : Table α) (k : Nat) : Table α := t.filter (fun e => e.1 != k)

/-- The table with (k, v) put before the first greater key. -/
def tins {α : Type} : Table α → Nat → α → Table α
  | [], k, v => [(k, v)]
  | (k', v') :: t, k, v => if k < k' then (k, v) :: (k', v') :: t else (k', v') :: tins t k v

/-- The table with v as the value of key k. -/
def tset {α : Type} (t : Table α) (k : Nat) (v : α) : Table α := tins (tdel t k) k v

/-- Apply f to the value of key k, or to d. -/
def tmod {α : Type} (t : Table α) (k : Nat) (d : α) (f : α → α) : Table α := tset t k (f (tgetD t k d))

/-- The keys rise strictly. -/
def risingFrom {α : Type} : Option Nat → Table α → Bool
  | _, [] => true
  | none, (k, _) :: t => risingFrom (some k) t
  | some p, (k, _) :: t => decide (p < k) && risingFrom (some k) t

/-- A table whose unlisted keys read as d lists no d. -/
def sget {α : Type} (d : α) (t : Table α) (k : Nat) : α := (tget t k).getD d

/-- Writing d removes the entry, so that equal contents are equal tables. -/
def sset {α : Type} [DecidableEq α] (d : α) (t : Table α) (k : Nat) (v : α) : Table α :=
  if v = d then tdel t k else tset t k v

/-- The canonical form: keys rise strictly and no entry is d. -/
def swf {α : Type} [DecidableEq α] (d : α) (t : Table α) : Bool :=
  risingFrom none t && t.all (fun e => decide (e.2 ≠ d))

/-- A memory: (address, byte) pairs (Host.Cell). -/
abbrev Memory := List Host.Cell

/-- What an unlisted address reads as: zero (R11, R25). -/
def Memory.blank : Byte := 0#8

/-- The byte at an address. -/
def Memory.read (m : Memory) (a : Nat) : Byte := sget Memory.blank m a

/-- The memory with byte b at an address. -/
def Memory.write (m : Memory) (a : Nat) (b : Byte) : Memory := sset Memory.blank m a b

/-- The memory's canonical form. -/
def Memory.wf (m : Memory) : Bool := swf Memory.blank m

/-- n bytes from address a, as a number with the byte at a least significant (R6, R29, R161). -/
def readLE (m : Memory) (a : Nat) : Nat → Nat
  | 0 => 0
  | n + 1 => (m.read a).toNat + 256 * readLE m (a + 1) n

/-- Write the low n bytes of x from address a upwards, least significant first. -/
def writeLE (m : Memory) (a : Nat) : Nat → Nat → Memory
  | 0, _ => m
  | n + 1, x => writeLE (m.write a (BitVec.ofNat 8 x)) (a + 1) n (x / 256)

/-- The little-endian 32-bit word at address a. -/
def readW (m : Memory) (a : Nat) : Word := BitVec.ofNat 32 (readLE m a 4)

/-- Write a little-endian 32-bit word at address a. -/
def writeW (m : Memory) (a : Nat) (w : Word) : Memory := writeLE m a 4 w.toNat

/-- Write the bytes of a list from address a upwards. -/
def writeBytes (m : Memory) : Nat → List Byte → Memory
  | _, [] => m
  | a, b :: bs => writeBytes (m.write a b) (a + 1) bs

/-- Set n bytes from address a to zero. -/
def eraseRange (m : Memory) (a n : Nat) : Memory := m.filter (fun c => !(decide (a ≤ c.1) && decide (c.1 < a + n)))

/-- Insert x into a rising list without repeats. -/
def insertNat (x : Nat) : List Nat → List Nat
  | [] => [x]
  | y :: t => if x < y then x :: y :: t else if x = y then y :: t else y :: insertNat x t

end Sys2Proof.Machine
end

