-- ==== Sys2Proof/Machine/State.lean ====
section
/-! DEFINITION. The state of the module as plain data, the state after reset, and the faults and refusals. -/

namespace Sys2Proof.Machine

/-- An event of 64 bytes (R24): its sixteen words. -/
abbrev Event := List Word

/-! ## Packets and flits (R319 to R331) -/

/-- The answer of a destination's network interface to a message (R326, R328). -/
inductive Answer where
  | accepted | refused | held
deriving DecidableEq, Repr

/-- What issued a card or a push (R334, R342, R379, R395): the core, the arming with its record and acceptance number, the task, the
transfer id and the program counter. -/
structure CardRef where
  core  : Nat
  ridx  : Nat
  accNo : Nat
  t     : Nat
  xid   : Word
  pc    : Word
deriving DecidableEq, Repr

/-- What a packet carries (R326, R330, R331): a message, a push into a slot, a slot return, the credit of a push that faulted, or
the reply to a message of another module. A push names what issued it, to which a fault of it is reported (R334). A
reply names the sequence number of its message, the answer, and the hops from the destination core to its link port. -/
inductive PacketBody where
  | msg  (payload : VReg)
  | push (entry slot : Nat) (payload : VReg) (ref : CardRef)
  | sret (entry slot : Nat)
  | nack (entry slot : Nat) (ref : CardRef)
  | reply (seq : Word) (ans : Answer) (hops : Nat)
deriving DecidableEq, Repr

/-- A packet between two ranks, with its sequence number for the pair of ranks (R320, R324), the link by which it came into this
module, if any (R321), and whether it came for a rank in transit and is held for its new place (R336). -/
structure Packet where
  src  : Word
  dst  : Word
  seq  : Word
  body : PacketBody
  port : Option Nat := none
  kept : Bool := false
deriving DecidableEq, Repr

/-- What an IDENT flit holds (R323): module serial, job id, link index and nonce. -/
structure Ident where
  serial : BitVec 64
  job    : BitVec 64
  link   : Nat
  nonce  : Word
deriving DecidableEq, Repr

/-- A flit as a link receives it (R319, R320): its link sequence number, whether its CRC-32C holds, whether it is a
retransmission, and the packet of a context that it carries, if any, or what it says as an IDENT flit (R323). -/
structure Flit where
  seq    : BitVec 16
  crcOk  : Bool
  replay : Bool
  pkt    : Option (Nat × Packet)
  ident  : Option Ident := none
deriving DecidableEq, Repr

/-- The operation of a ticketed update (R296). -/
inductive TOp where
  | fadd | fmax | fmin | or | skip
deriving DecidableEq, Repr

/-- A ticketed update on its way to, or held at, a bank unit (R292, R293): the home core, the granule (physical slice offset
div 16), the bit address of the element inside the slice with its bank permutation, the format code, the ticket (q, i), the round size N, the
operation, its operand and the replay mark (R299). -/
structure Arrival where
  home   : Nat
  gran   : Nat
  bitAdr : Nat
  bankp  : Nat
  fmt    : Nat
  q      : Nat
  i      : Nat
  n      : Nat
  op     : TOp
  x      : Word
  replay : Bool
deriving DecidableEq, Repr

/-! ## Inputs and moves -/

/-- What a step of the module is about: the agent it names (core, master, context, cluster, link), a second index, an offset
and width, a value, a flag, bytes, a flit, packet or ticketed update that arrives, and a list of granules. -/
structure Input where
  who   : Nat := 0
  sub   : Nat := 0
  off   : Nat := 0
  width : Nat := 0
  value : BitVec 64 := 0#64
  flag  : Bool := false
  bytes : List Byte := []
  flit  : Option Flit := none
  pkt   : Option Packet := none
  arr   : Option Arrival := none
  list  : List Nat := []
deriving DecidableEq, Repr

/-- A unit that ECC protects (R352): a granule of scratchpad, of DRAM or of a caddy, by its key, or a slot or accumulator tile of a
core. -/
inductive EccUnit where
  | slice (gran : Nat)
  | dram (gran : Nat)
  | caddy (gran : Nat)
  | slot (core k : Nat)
  | acc (core t : Nat)
deriving DecidableEq, Repr

/-- Which agent moves: a core issues one instruction, a step of the module takes place, n cycles pass, an engine writes up to n
further elements (rows of a gather) of a command, the optimiser engine or the strainer of a cluster writes up to n further
elements of what it does on a weight region, the management complex runs the next stage of a warm reset (R13), a single-bit error
is corrected on a read, a unit takes an uncorrectable error (R352), a master reads bytes through BAR2 (R18), or Phodiver accesses its
private area in a channel (R52). -/
inductive Move where
  | core (n : Nat)
  | event (i : Instr) (x : Input)
  | elapse (n : Nat)
  | engine (core seq n : Nat)
  | optim (ctx cluster region n : Nat)
  | stage
  | softError
  | eccError (u : EccUnit)
  | bar2Read (master off n : Nat)
  | privateAccess (core : Nat)
deriving DecidableEq, Repr

/-! ## The module and its masters (R4 to R24) -/

/-- MSTAT, BOOTERR and OWNER (R7, R9, R14), and the context whose halt the PREEMPT command that Phodiver serves waits for (R22, R23). -/
structure Mgmt where
  stage   : BitVec 4
  ready   : Bool
  fail    : Bool
  therm   : Bool
  warm    : Bool
  links   : BitVec 16
  dramdeg : Bool
  booterr : Word
  ownerId : BitVec 4
  epoch   : BitVec 16
  serving : Option Nat
deriving DecidableEq, Repr

/-- What a core of the management complex runs (R9): the boot ROM, nothing yet (it waits in ROM), Phodiver, or nothing more. -/
inductive McoreRun where
  | rom | waits | phodiver | halted
deriving DecidableEq, Repr

/-- An RV64GC core of the management complex (R4, R9): what it runs, and the registers of that architecture (log 47). -/
structure Mcore where
  run  : McoreRun
  pc   : BitVec 64
  x    : Vector (BitVec 64) 32
  f    : Vector (BitVec 64) 32
  fcsr : Word
deriving DecidableEq, Repr

/-- What power-on and the MBOX commands find in the package (R4, R9, R10, R18, R60, R402): the boot ROM; the fused digests of the ROM
and of the image's key, the fused minimum version, the device secret, whether a fuse write succeeds; the file that each root port
reads, if any; whether Phodiver starts; calibration results; the physical cores (64 for each of the 34 rows of a die, die by die)
whose defect fuse is blown and those that fail the self-test; whether zeroing succeeds; the host functions present. -/
structure Boot where
  rom         : Memory
  romFuse     : BitVec 256
  keyFuse     : BitVec 256
  fusedMin    : Nat
  secret      : BitVec 256
  fuseWriteOk : Bool
  image0      : Option (List Byte)
  image1      : Option (List Byte)
  phodiverOk  : Bool
  linkOk      : BitVec 16
  dramOk      : Bool
  dramSpare   : Bool
  defects     : List Nat
  selfFail    : List Nat
  zeroOk      : Bool
  functions   : List Nat
  zeroed      : Bool
deriving DecidableEq, Repr

/-- One master's registers and queues (R8, R21, R22, R24), and how many event interrupts it has been sent (R24): MSI-X vector 1 of
a host function, the local interrupt of the management complex. -/
structure Master where
  denied   : Word
  armCause : BitVec 4
  ack      : BitVec 24
  mbox     : Table Word
  events   : List Event
  held     : List Event
  irqs     : Nat
deriving DecidableEq, Repr

/-- A signed record kept for RECREAD (R400, R403): its number, the context it belongs to, if any, and its bytes. -/
structure Signed where
  number : Nat
  ctx    : Option Nat
  bytes  : List Byte
deriving DecidableEq, Repr

/-- A Fiven link (R319, R320, R323): in service, spare lanes left in the outgoing and in the incoming direction, next sequence
numbers, the retransmission buffer, the flits that are sent again, the sequence number from which this end has asked for
retransmission, and the last IDENT that the neighbour has sent. -/
structure Link where
  up       : Bool
  spareOut : Nat
  spareIn  : Nat
  txSeq    : BitVec 16
  rxSeq    : BitVec 16
  retrans  : List Flit
  resend   : List Flit
  asked    : Option (BitVec 16)
  heard    : Option Ident
deriving DecidableEq, Repr

/-! ## Counters (R393) -/

/-- A 64-bit saturating counter with its SAT bit. -/
structure Counter where
  v   : Nat
  sat : Bool
deriving DecidableEq, Repr

/-! ## Cores -/

/-- The control registers of R105 but for TSTAT, whose fields are Core.priv and Core.iact, and GRPA to GRPD. -/
structure CtlRegs where
  fctl   : Word
  fflg   : Word
  hbase  : Word
  coord2 : Word
  coord3 : Word
  afmt   : Word
  bfmt   : Word
  ascp   : Word
  bscp   : Word
  memb   : Word
  seedlo : Word
  seedhi : Word
  xid    : Word
  tfwd   : Word
  qwd    : Word
  swd    : Word
  quant  : Word
  grp    : Vector Word 4
  detm   : Word
  epc    : Word
  ecause : Word
  einfo  : Word
  iepc   : Word
  tmr    : Word
deriving DecidableEq, Repr

/-- A kernel header as the scheduler holds it (R37, R38). -/
structure Kernel where
  kcode  : Nat
  klen   : Nat
  kentry : Nat
  nsreg  : Nat
  nvreg  : Nat
  npred  : Nat
  ngrp   : Nat
  nroute : Nat
  nslot  : Nat
  nacc   : Nat
  nhnd   : Nat
  ksp    : Nat
deriving DecidableEq, Repr

/-- The code image that an instruction memory holds (R71). -/
structure Image where
  ctx   : Nat
  kcode : Nat
  klen  : Nat
  cgen  : Nat
deriving DecidableEq, Repr

/-- A tile task on a core (R40, R59): context, record, task number, wave, tile coordinates, whether it runs again after a core
failure (R67, R299), and the waves in which its core then goes on, each with whether that task runs again too (R267): none but where
a core runs a task again after it has gone on to later ones. -/
structure Task where
  ctx  : Nat
  ridx : Nat
  t    : Nat
  wave : Nat
  c0   : Nat
  c1   : Nat
  c2   : Nat
  c3   : Nat
  rerun : Bool := false
  after : List (Nat × Bool) := []
deriving DecidableEq, Repr

/-- The files whose registers LOOKAHEAD and RESOURCE name (R97, R100). -/
inductive RFile where
  | s | v | p | acc | slot | route | grp | handle
deriving DecidableEq, Repr

/-- A register, tile, slot, tag, group register or handle that an instruction names. -/
structure RName where
  file : RFile
  num  : Nat
deriving DecidableEq, Repr

/-- A result that an instruction writes when it completes. bank: s24 to s31 of the privileged level (R346). -/
inductive Write where
  | s (n : Nat) (v : Word) (bank : Bool)
  | v (n : Nat) (x : VReg)
  | p (n : Nat) (x : Word)
  | acc (t : Nat) (cells : List Word) (poison : Bool)
  | slot (n : Nat) (bytes : List Byte) (tag : List Word)
deriving DecidableEq, Repr

/-- How an issued instruction completes (R95, R96): interlocked; long-latency; a matrix product; a record-pool request; or a
result that arrives at a window close. -/
inductive PKind where
  | interlocked | long | mma | pool | window
deriving DecidableEq, Repr

/-- A range lock (R229): the home core (scratchpad) or the space (far), its first and last byte, the bank permutation of its
entry, whether it is a destination, and the command that holds it. It covers every line that holds one of its bytes. -/
structure Lock where
  place : Nat
  lo    : Nat
  hi    : Nat
  bankp : Nat
  dst   : Bool
  owner : Nat
  seq   : Nat
deriving DecidableEq, Repr

/-- An issued instruction that is not finished with (R95 to R97): its parcel index, lookahead, how many instructions issued
after it, the registers it writes at completion, the writes, flags and counts that its completion brings, and whether it has
completed, the range that a matrix instruction has registered until its completion (R250, R251), and the window in which it issued
(R62). -/
structure Pending where
  kind   : PKind
  pidx   : Nat
  look   : Nat
  dist   : Nat
  regs   : List RName
  writes : List Write
  flags  : BitVec 5
  counts : List (Nat × Nat)
  done   : Bool
  lock   : Option Lock := none
  win    : Nat := 0
deriving DecidableEq, Repr

/-- Why a core waits at the instruction at its program counter. -/
inductive WaitKind where
  | window | windowResult | fullEmpty | version | reclaim | lock | phase | sweep | barrier | event | count | mutex | ticketLoad
  | ticket | tfence | gangForm | arrayJoin | exchangeJoin | launch | engine | fence | send | recv | slotReturn | quiet | pool
  | taskEnd | card | heldCard | debug | yield | bank | handlers | sendHeld | rankMove | gangPeer
deriving DecidableEq, Repr

/-- A waiting instruction: why, for how many cycles, whether the clock is gated (R308), the window open when it began to wait, and
the registers with results of window closes that it waits for (R63). -/
structure Waiting where
  kind   : WaitKind
  cycles : Nat
  gated  : Bool
  mark   : Nat := 0
  need   : List RName := []
deriving DecidableEq, Repr

/-- The causes of R344. -/
inductive Cause where
  | ill | pool | zero | priv | resource | lookahead | layout | conflict | nondet | locked | vpassed | ticketGap | ticketDup
  | slot | gangMismatch | fpx | page | poison | sendStall | quantumDeadlock | selfDeadlock | promiseExpired | watchdog | trap
  | brk | timer | engine
deriving DecidableEq, Repr

/-- A trap to be taken (R98, R341, R350): its cause, EINFO, whether it is asynchronous, the EXTRA word and the lane of its
report. -/
structure TrapReq where
  cause : Cause
  info  : Word
  async : Bool := false
  extra : Word := 0#32
  lane  : Nat := 0
deriving DecidableEq, Repr

/-- An asynchronous fault to be delivered (R342): ENGINE or PROMISE-EXPIRED, its EINFO, the transfer id concerned and the
program counter of the instruction that issued the command, and the barrier group that its BAR selects (R220). -/
structure AFault where
  cause : Cause
  info  : Word
  xid   : Word
  pc    : Word
  group : Option Nat := none
deriving DecidableEq, Repr

/-- The engines (R213). -/
inductive CmdKind where
  | copy | gather | exchange
deriving DecidableEq, Repr

/-- An engine command in flight (R214, R215, R355): its context, the captured block and HBASE, the entries it names as captured (their
numbers and words), the offset of the next element to write, the gather counts, whether a poisoned source was met, the page
fault it waits on, its barrier group and handler, and for an exchange its launch count and whether it has joined. -/
structure Cmd where
  kind    : CmdKind
  ctx     : Nat
  seq     : Nat
  pc      : Word
  block   : Table Word
  hbase   : Nat
  src     : Nat × List Word
  dst     : Nat × List Word
  idx     : Nat × List Word
  next    : Nat
  ninv    : Nat
  noor    : Nat
  partly  : Bool
  fault   : Option Nat
  group   : Option Nat
  handler : Option Nat
  joined  : Bool
  count   : Nat
deriving DecidableEq, Repr

/-- A held source value (R103): the register, the value, and the number of instructions it still serves. -/
structure Hold where
  reg  : Nat
  val  : VReg
  life : Nat
deriving DecidableEq, Repr

/-- A slot's tag (R247). -/
structure SlotTag where
  words : List Word
deriving DecidableEq, Repr

/-- A core that waits at an array join or at gang.form (R88, R256): which of the two, its instruction word, and the control
registers that it sampled. -/
structure ArrayJoin where
  form   : Bool
  word   : Word
  afmt   : Word
  bfmt   : Word
  ascp   : Word
  bscp   : Word
  seedlo : Word
  seedhi : Word
  memb   : Word
deriving DecidableEq, Repr

/-- The tag of a decoded line in the operand cache (R264): the slice and slot read, GEN, the operand side, its format, the scale
slot with its GEN and WOFF, the seed and member, the line, and the bytes that it takes. -/
structure CacheLine where
  slice  : Nat
  slot   : Nat
  gen    : Nat
  sideA  : Bool
  fmt    : Nat
  scale  : Option (Nat × Nat × Nat)
  seedlo : Word
  seedhi : Word
  memb   : Word
  line   : Nat
  size   : Nat
deriving DecidableEq, Repr

/-- A granule's tracker at its bank unit (R292): its next expected index and its round size. -/
structure Tracker where
  gran  : Nat
  n     : Nat
  next  : Nat
deriving DecidableEq, Repr

/-- A message of a core between its first transmission and its acceptance (R326, R328): on its way, or as the interface of
another module has answered it; hops counts from the destination core to its link port. -/
inductive MsgReply where
  | sent
  | answered (ans : Answer) (hops : Nat)
deriving DecidableEq, Repr

/-- How a counted wait ends at a window close (R309): it passes at the close of a window, or finds no mark. -/
inductive CountEnd where
  | pass (window : Nat)
  | unmarked
deriving DecidableEq, Repr

/-- A wait.cnt of a DET context between its issue and its pass (R309): the window that holds it, the element, the threshold,
whether a close has tested the mark, the outcome of a close, and whether the outcome has reached the core. -/
structure CountWait where
  win    : Nat
  home   : Nat
  bitAdr : Nat
  bankp  : Nat
  thresh : Word
  seen   : Bool
  res    : Option CountEnd
  ready  : Bool
deriving DecidableEq, Repr

/-- A wait.cnt of a non-DET context that waits at its home bank (R309): the element, the threshold, and whether the condition has
held. -/
structure CountTest where
  home   : Nat
  bitAdr : Nat
  bankp  : Nat
  thresh : Word
  met    : Bool
deriving DecidableEq, Repr

/-- One logical core. -/
structure Core where
  image     : Option Image
  imem      : Table (BitVec 16)
  hmem      : Table (BitVec 16)
  hlen      : Nat
  task      : Option Task
  next      : Option Task
  pc        : Word
  s         : Vector Word 32
  bank      : Vector Word 8
  v         : Vector VReg 32
  p         : Vector Word 4
  cr        : CtlRegs
  priv      : Bool
  iact      : Bool
  timerHnd  : Bool
  timerDue  : Bool
  count     : Nat
  gcount    : Nat
  acount    : Nat
  seq       : Nat
  xcount    : Nat
  inflight  : List Pending
  opbuf     : List Hold
  wait      : Option Waiting
  trap      : Option TrapReq
  extra     : Word
  afaults   : List AFault
  overlay   : Table Word
  shadow    : Table Word
  cmds      : Table Cmd
  dones     : Table Word
  intr      : List (Word × Nat)
  slots     : Memory
  tags      : Table SlotTag
  acc       : Table Word
  accPoison : List Nat
  opcache   : List CacheLine
  join      : Option ArrayJoin
  arrived   : List (Bool × Word)
  cwait     : Option CountWait
  rob       : List Arrival
  trackers  : List Tracker
  mutexq    : List (Nat × Nat)
  mutexes   : List (Nat × Nat)
  recvs     : List Packet
  credits   : Table (List Nat)
  sent      : Table Nat
  lastSrc   : Word
  reply     : Option MsgReply
  counters  : Table Counter
  delaySum  : Table Nat
  delayNum  : Table Nat
  cyc       : Nat
  traceq    : List (List Word)
  traceDrop : Nat
  dbgHeld   : Bool
deriving DecidableEq, Repr

/-- The control registers before any task: zero (DESIGN CHOICE, log 1); R40 writes them at task start. -/
def CtlRegs.reset : CtlRegs :=
  { fctl := 0, fflg := 0, hbase := 0, coord2 := 0, coord3 := 0, afmt := 0, bfmt := 0, ascp := 0, bscp := 0, memb := 0
    seedlo := 0, seedhi := 0, xid := 0, tfwd := 0, qwd := 0, swd := 0, quant := 0, grp := Vector.replicate 4 0, detm := 0
    epc := 0, ecause := 0, einfo := 0, iepc := 0, tmr := 0 }

/-- A core that has run nothing: no task, empty units, registers zero (p0 reads all ones whatever stands here, R101). -/
def Core.reset : Core :=
  { image := none, imem := [], hmem := [], hlen := 0, task := none, next := none, pc := 0
    s := Vector.replicate 32 0, bank := Vector.replicate 8 0, v := Vector.replicate 32 0, p := Vector.replicate 4 0
    cr := CtlRegs.reset, priv := false, iact := false, timerHnd := false, timerDue := false
    count := 0, gcount := 0, acount := 0, seq := 0, xcount := 0
    inflight := [], opbuf := [], wait := none, trap := none, extra := 0, afaults := [], overlay := [], shadow := [], cmds := [], dones := []
    intr := [], slots := [], tags := [], acc := [], accPoison := [], opcache := [], join := none, arrived := [], cwait := none
    rob := [], trackers := [], mutexq := [], mutexes := [], recvs := [], credits := [], sent := [], lastSrc := 0xFFFFFFFF#32, reply := none
    counters := [], delaySum := [], delayNum := [], cyc := 0, traceq := [], traceDrop := 0, dbgHeld := false }

/-! ## Clusters -/

/-- A fetch gang (R88 to R90): its leader and members, as slots of the cluster, and the members on which the instruction that is
being issued has been accepted while another member's has not yet (R94, R96); while the gang is halted all stand at that instruction
(R91), and pcs holds where those members go on. -/
structure Gang where
  leader  : Nat
  members : List Nat
  ahead   : List Nat := []
  pcs     : Table Word := []
deriving DecidableEq, Repr

/-- A parked signal (R306) and a signal on its way (R305). -/
structure Signal where
  target : Nat
  event  : Nat
  source : Nat
  thresh : Nat
deriving DecidableEq, Repr

/-- One cluster's units. -/
structure Cluster where
  holder   : Option (Nat × Nat)
  events   : Table (BitVec 16)
  parked   : List Signal
  flying   : List Signal
  locks    : List Lock
  gang     : Option Gang
deriving DecidableEq, Repr

/-- A cluster whose units are empty (R11, R305). -/
def Cluster.reset : Cluster := { holder := none, events := [], parked := [], flying := [], locks := [], gang := none }

/-! ## Promises, the strainer and the optimiser engine (R366 to R388) -/

/-- STATE of a promise (R367). -/
inductive PState where
  | free | open_ | redeemed | expired | cancelled
deriving DecidableEq, Repr

/-- opt.card, prm.redeem and prm.redeem.t (R376, R384). -/
inductive CardKind where
  | card | redeem | redeemT
deriving DecidableEq, Repr

/-- A card of the optimiser engine (R376, R377): what it captured (the entries W, G, M and V with their words, k0 to k3, MMODE and
VMODE, the routine, FCTL), the promise it redeems, the next element, how many elements are written and how many are poisoned,
the granules that it has marked poisoned itself (R379), whether its granules or its code have met a fault, and, once it has written
its last element, the promises that expired then. -/
structure Card where
  ref     : CardRef
  kind    : CardKind
  ents    : List (Nat × List Word)
  params  : List Word
  mmode   : Nat
  vmode   : Nat
  routine : List (BitVec 16)
  fctl    : Word
  promise : Nat
  next    : Nat
  wrote   : Nat
  ninv    : Nat
  spoiled : List Nat
  fault   : Bool
  settled : Bool
  due     : List Nat
deriving DecidableEq, Repr

/-- An entry of the promise table (R367), with what the strainer holds for it: the captured entries W, ĝ, h, P and g, the core that
opened it, its source locks on ĝ and h and on g, the redemption (that it trains only, that it came late, its card) and the card that
made it expire. -/
structure Promise where
  state    : PState
  closed   : Bool
  pend     : Bool
  revd     : Bool
  gen      : Nat
  exp      : Nat
  late     : Nat
  deadline : Nat
  latea    : Bool
  we       : Nat
  ge       : Nat
  he       : Nat
  pe       : Nat
  eta      : Word
  alpha    : Word
  ticket   : Nat
  te       : Nat
  vopen    : Nat
  tag      : Word
  ents     : List (Nat × List Word)
  opener   : Nat
  locks    : List Lock
  glock    : List Lock
  tonly    : Bool
  lateDue  : Bool
  card     : Option Card
  redBy    : Option CardRef
  expBy    : Option CardRef
deriving DecidableEq, Repr

/-- A free entry whose fields are zero (R367). -/
def Promise.reset : Promise :=
  { state := .free, closed := false, pend := false, revd := false, gen := 0, exp := 0, late := 0, deadline := 0, latea := false
    we := 0, ge := 0, he := 0, pe := 0, eta := 0, alpha := 0, ticket := 0, te := 0, vopen := 0, tag := 0, ents := [], opener := 0
    locks := [], glock := [], tonly := false, lateDue := false, card := none, redBy := none, expBy := none }

/-- What the strainer computes (R373). -/
inductive Phase where
  | correct | train | revert
deriving DecidableEq, Repr

/-- An action in progress (R371, R373, R388): the promise, the phases to come, the next element of the first of them, the elements of
W or P and of ĝ that the phase has written, the poisoned elements so far, the granules that the phase has marked poisoned; whether it is the late action of a CLOSED promise and
whether it stands at retirement (R375). -/
structure Work where
  j      : Nat
  todo   : List Phase
  next   : Nat
  wrote  : Nat
  rows   : Nat
  ninv   : Nat
  spoiled : List Nat
  late   : Bool
  retire : Bool
deriving DecidableEq, Repr

/-- A weight region (R368): WVER, CUR, and the strainer's action on it. -/
structure Region where
  wver : Nat
  cur  : Nat
  work : Option Work
deriving DecidableEq, Repr

/-- A routine slot (R381): RGEN and its halfwords. -/
structure Routine where
  rgen  : Nat
  codes : List (BitVec 16)
deriving DecidableEq, Repr

/-- What the strainer keeps of a core's task attempt (R388): the task, the results of prm.open, prm.cancel and prm.query in order and
how many of them the attempt that runs has taken, the SEQ of the cards in the order in which they entered the queue, and their
completion words and faults. -/
structure Replay where
  ridx    : Nat
  accNo   : Nat
  t       : Nat
  results : List Word
  taken   : Nat
  seqs    : List Nat
  words   : Table Word
  faults  : List AFault
deriving DecidableEq, Repr

/-- The strainer and the optimiser engine of a cluster, as one context sees them (R366, R368, R376, R388). -/
structure OptUnit where
  promises : Table Promise
  regions  : Table Region
  queue    : List Card
  running  : Option Card
  routines : Table Routine
  replay   : Table Replay
deriving DecidableEq, Repr

/-- As a context finds them when it is created (R367, R368, R381). -/
def OptUnit.reset : OptUnit := { promises := [], regions := [], queue := [], running := none, routines := [], replay := [] }

/-! ## Contexts and records -/

/-- A fatal trap of a record (R350). -/
structure Fatal where
  window  : Nat
  core    : Nat
  epc     : Word
  lane    : Nat
  t       : Nat
  ecause  : Word
  einfo   : Word
  extra   : Word
  privlvl : Bool
deriving DecidableEq, Repr

/-- A task-queue request (R64): partition-relative core, window, items, destination register. -/
structure TqReq where
  core : Nat
  win  : Nat
  m    : Nat
  dest : Nat
  bank : Bool
deriving DecidableEq, Repr

/-- The announced operations (R311). -/
inductive AnnOp where
  | add | and | or | xor | min | max | swap | ld
deriving DecidableEq, Repr

/-- An announced operation (R282, R311): core, window, home core, bit address and bank permutation, operation, operand,
destination and its bank (R346). -/
structure Ann where
  core   : Nat
  win    : Nat
  home   : Nat
  bitAdr : Nat
  bankp  : Nat
  op     : AnnOp
  x      : Word
  dest   : Nat
  bank   : Bool
deriving DecidableEq, Repr

/-- A result on its way to a core after a window close (R62): core, destination register with its bank (R346), value. -/
structure Delivery where
  core : Nat
  dest : Nat
  bank : Bool
  val  : Word
deriving DecidableEq, Repr

/-- The run of a released record. Its accumulator (R395) stands in two parts: counters holds what engines have added, and ended, by
task number, the shadows of the tasks that have ended; a task that runs again discards its own (R397). -/
structure Run where
  copy     : List Word
  kernel   : Kernel
  layouts  : Table Word
  accNo    : Nat
  running  : Bool
  window   : Nat
  cycles   : Nat
  tqc      : Nat
  tqreqs   : List TqReq
  anns     : List Ann
  deliver  : List Delivery
  stopw    : Option Nat
  fatals   : List Fatal
  ntrap    : Nat
  counters : Table Counter
  ended    : Table (Table Counter) := []
deriving DecidableEq, Repr

/-- The outcome of an accepted arming (R52). -/
inductive Outcome3 where
  | pending | done | failed
deriving DecidableEq, Repr

/-- What the scheduler keeps of a released arming (R36, R47): the record's words, the kernel header and the layout table as the
release read them. -/
structure Kept where
  copy    : List Word
  kernel  : Kernel
  layouts : Table Word
deriving DecidableEq, Repr

/-- A journal entry (R52), with the dependences of its arming that are resolved, satisfied or failed (R54), and the scheduler's copy of
an arming that a warm reset has returned to ARMED (R36, R65). -/
structure JEntry where
  number  : Nat
  ridx    : Nat
  seq     : Word
  outcome : Outcome3
  deps    : List (Nat × Bool)
  kept    : Option Kept := none
deriving DecidableEq, Repr

/-- The counter and arrived set of a group (R300). -/
structure GroupRun where
  g       : BitVec 16
  arrived : List Nat
deriving DecidableEq, Repr

/-- A reclaim tracker (R169). -/
structure RTracker where
  rver  : Nat
  rmask : List Nat
deriving DecidableEq, Repr

/-- A page table entry (R226). -/
structure Page where
  space : Nat
  entry : BitVec 128
deriving DecidableEq, Repr

/-- A page fault that waits for PGRESP (R228). -/
structure PFault where
  number : Nat
  core   : Nat
  seq    : Nat
deriving DecidableEq, Repr

/-- Why and how far a context is held (R354, R358). -/
inductive HaltStage where
  | running | freezing | halted | held | spilled
deriving DecidableEq, Repr

/-- Who holds a context: its owner's PREEMPT, over-temperature, a remap, a pre-empting context, a row with no spare left, or the
replacement of a lane (R68). -/
inductive HoldBy where
  | preempt | thermal | remap | context | spares | lane
deriving DecidableEq, Repr

/-- What the handshake found on a link (R323, R403): the neighbour's serial and link index, and the state: 0 no link, 1 job
neighbour, 2 foreign, 3 silent. -/
structure Neighbour where
  serial : BitVec 64
  link   : Nat
  state  : Nat
deriving DecidableEq, Repr

/-- The job of a context (R321 to R323): its id, nonce and module count, the map from module id to serial, whether JOBSEAL has sent
its IDENT flits and, once it is sealed, the own module id, the neighbours by link, the pairs of modules that have reported each other
as neighbours, and the route table from module id to outgoing link. -/
structure Job where
  id      : BitVec 64
  nonce   : Word
  modules : Nat
  own     : Nat
  map     : Table (BitVec 64)
  calling : Bool := false
  sealed  : Bool
  neigh   : Table Neighbour
  edges   : List (Nat × Nat) := []
  routes  : Table Nat := []
deriving DecidableEq, Repr

/-- The spill areas of a context (R358, R359): its cores and clusters, the slice bytes and metadata of its cores' first MiB with
their poison, and the marks of announced operations on them (R283). -/
structure Saved where
  cores    : Table Core
  clusters : Table Cluster
  slice    : Memory
  gmeta    : Memory
  conf     : Table Word
  poison   : List Nat
  marks    : Table (List (Nat × Nat × Nat))
deriving DecidableEq, Repr

/-- A context. halt and froze: its pre-emption and the cycles since the scheduler accepted it (R354); holds and preq: who holds it,
and the requests that the scheduler has not accepted yet. -/
structure Ctx where
  pbase    : Nat
  pcount   : Nat
  det      : Bool
  share    : Bool
  cls      : Bool
  func     : Option Nat
  clen     : Nat
  hdr      : Option (List Word)
  groups   : Table (List Word)
  gruns    : Table GroupRun
  cps      : Table (BitVec 16)
  journal  : List JEntry
  nextAcc  : Nat
  doneseq  : Table Word
  queues   : Table (List Nat)
  runs     : Table Run
  cgen     : Nat
  rtrack   : Table RTracker
  opt      : Table OptUnit
  pages    : List Page
  faultNo  : Nat
  faults   : List PFault
  far      : List Lock
  hcode    : List (BitVec 16)
  hmask    : Word
  debug    : Bool
  halt     : HaltStage
  froze    : Nat
  holds    : List HoldBy
  preq     : List HoldBy
  active   : Bool
  saved    : Option Saved
  spills   : Nat
  counters : Table Counter
  rerun    : Nat
  job      : Option Job
  ranks    : Table Word
  pseq     : Table Word
  rseq     : Table Word
  tracing  : Bool
  filter   : Option (List Word)
  fcounts  : Table Nat
  ring     : List (List Word)
  pool     : List Nat
deriving DecidableEq, Repr

/-! ## The whole -/

/-- The state of the module. -/
structure State where
  mgmt     : Mgmt
  boot     : Boot
  mcores   : Vector Mcore 4
  sram     : Memory
  masters  : Table Master
  mboxq    : List Nat
  moduleq  : List Event
  snapSeq  : Nat
  serial   : BitVec 64
  signed   : List Signed
  softErr  : Nat
  rows     : Table Nat
  spares   : Table (List Nat)
  failed   : List Nat
  lanes    : List (Bool × Nat × Nat)
  dspare   : List Nat
  links    : Table Link
  ctxs     : Table Ctx
  clusters : Table Cluster
  cores    : Table Core
  slice    : Memory
  gmeta    : Memory
  conf     : Table Word
  poison   : List Nat
  dram     : Memory
  dpoison  : List Nat
  rowOpen  : Table Nat
  caddy    : Memory
  host     : Memory
  spill    : Memory
  marks    : Table (List (Nat × Nat × Nat))
  counting : Table CountTest
  packets  : List (Nat × Packet)
  agenda   : List Move
  cur      : Nat
  input    : Input
  fresh    : Nat
deriving DecidableEq, Repr

/-- A master at reset (R8, R21, R24); its MBOX words are zero (DESIGN CHOICE, log 1). -/
def Master.reset : Master := { denied := 0, armCause := 0, ack := 0, mbox := [], events := [], held := [], irqs := 0 }

/-- A link at reset: not in service before calibration (R7), one spare lane in each direction (R319). -/
def Link.reset : Link :=
  { up := false, spareOut := 1, spareIn := 1, txSeq := 0, rxSeq := 0, retrans := [], resend := [], asked := none, heard := none }

/-- The registers of R7, R6 and R14 at reset. -/
def Mgmt.reset : Mgmt :=
  { stage := 0, ready := false, fail := false, therm := false, warm := false, links := 0, dramdeg := false, booterr := 0
    ownerId := 0, epoch := 0, serving := none }

/-- A core of the management complex at reset: core 0 starts in the boot ROM, the others wait in it (R9); registers zero (DESIGN
CHOICE, log 47). -/
def Mcore.reset (r : McoreRun) : Mcore :=
  { run := r, pc := 0, x := Vector.replicate 32 0, f := Vector.replicate 32 0, fcsr := 0 }

/-- The modulus of the key of the image at reset (DESIGN CHOICE, log 2). -/
def resetKey : Nat :=
  0xae3f52b6b05fb770e803f5a61be583cfdd0bfffba3d1ed2049a5c7711353d40bf4c3d4788fb91aa64f8e958a7292196074d6017a480b7c4090d70e8cd92e97960beb3762519ec1107d3f15e0fbb18beb41d34a6d6c6050684ed6e78b2a833e0c8c6d55dd0a8386628ddc5b54b101d33a46862bc9c9a8dd48d8a20e7e069514b04966e5bcdf1a011502a3562d9bd627772ca7a0bc3f8aad57671af43be1f81aea0b6649075285c746d95d02dd2dd0f1f44e66b4fdf5772fd46ebb89f16c29730555e6e5a79bbc3d96ce6c944e4f1bce17bb610f0374542ac31741d12d4af07e84c807e6694466ee5432b0a8c5906233b3afd7ccff5cbc68a67c9970807d92e00fda870b6591feded94f26d62058c1674db6ce2e072b9cd74e7ba072d7191b07d6d4b80d778e0b7ed25803fc1e57affb373b9dc03d9e171909667ffecc8a931e66a3fbdd4aa10040152bb95310076c5e4335c11c80584a4cf0514900e7105900d520b846a2b6fd7042c3c4cf70b853fbf5aecc61c7a25ca55d732f1bf078154ee5

/-- The signature of that image. -/
def resetSignature : Nat :=
  0x6b37dc179870e5c25194bdf663a5267dd86f69895ca22bc800a51af22fb651763b34d00f8dd520e4827c07e4970da4a9b674200df37f1309b497e46d999e6991564443d9f668d108a1a1189c108d70031244bcf175bb1f239ac7932d08d0f99c5eaa386df17d9c5d0e0bd193b35a7209eab4244860aa2fac33b2d5c8807913efc1cd7be833c91b46af17e57aa2f5c9328bd7e3c75cc39c266780c910bb800e31c0a7357ff8d28c1f55510ff36210f3ddb5438146b6c4b185a3c2b7857d2600b881b87523d823e223843752145cf43f172bf86cade44f4e633611976628a0d8fbbf70da4714920c0908f429445422255ec9e551ed5d9c3f693a8f383618351c4bf70e60806f2c73b8fa22ad01e50a5256f1360f36ae2732755234435fe0af122b103ea58e40902b1144750c3dfce740c34bc109ba41f53e401124b6ebf5f4096cf86493f85b175850104f2a49909c049e1611e45311f624abe2a894fb9b59aa531bcb61edc5e9233f75b1ac7f051fa1c402b4cdd35fd7c8f6d64d75a1f60d361f

/-- The image that both root ports read at reset (DESIGN CHOICE, log 2): version 1 with an empty body. -/
def resetImage : List Byte :=
  ([0x44, 0x4C, 0x59, 0x48, 1, 0, 0, 0, 0, 0, 0, 0] ++ beBytes 384 resetKey ++ List.replicate 3700 0 ++
    beBytes 384 resetSignature).map (BitVec.ofNat 8)

/-- A healthy package (DESIGN CHOICE, log 2): every check passes, all links calibrate, all cores are good, four functions. -/
def Boot.healthy : Boot :=
  { rom := [], romFuse := Config.romDigest []
    keyFuse := 0x81f70df4bb6dc7b4e0c648a83448a32998de219be12456922466114ed62d21e7#256
    fusedMin := 1, secret := 0, fuseWriteOk := true, image0 := some resetImage, image1 := some resetImage, phodiverOk := true
    linkOk := 0xFFFF, dramOk := true, dramSpare := false, defects := [], selfFail := [], zeroOk := true, functions := [0, 1, 2, 3]
    zeroed := false }

/-- The module right after reset: power is good and power-on is the next step (R9). Memories list nothing. -/
def State.reset : State :=
  { mgmt := Mgmt.reset, boot := Boot.healthy
    mcores := ⟨#[Mcore.reset .rom, Mcore.reset .waits, Mcore.reset .waits, Mcore.reset .waits], rfl⟩, sram := [], masters := [], mboxq := [], moduleq := [], snapSeq := 0, serial := 1, signed := []
    softErr := 0, rows := [], spares := [], failed := [], lanes := [], dspare := [], links := [], ctxs := [], clusters := [], cores := [], slice := [], gmeta := [], conf := []
    poison := [], dram := [], dpoison := [], rowOpen := [], caddy := [], host := [], spill := [], marks := [], counting := [], packets := []
    agenda := [.event .powerOn {}], cur := 0, input := {}, fresh := 0 }

/-- What stops the model. -/
inductive Fault where
  /-- A move of the agenda names a core above 8,191, which the module does not have (R1, R2). Raised by step. Safe. -/
  | noSuchCore (n : Nat)
deriving DecidableEq, Repr

/-- What the model refuses. -/
inductive Refusal where
  /-- An instruction that the model does not give a meaning to yet; raised by exec's own arm only. Safe. -/
  | notModelled (mnemonic : String)
deriving DecidableEq, Repr

end Sys2Proof.Machine
end

