-- ==== Sys2Proof/Machine/Ops.lean ====
section
/-! DEFINITION. The named operations over registers, pending results, contexts and records; taking a trap and returning from
one; and the issue of one instruction (R94 to R100), which every meaning goes through. -/

namespace Sys2Proof.Machine

/-- The answer of a step. -/
abbrev Out := Host.Outcome State Fault Refusal

/-! ## Cores, clusters, contexts -/

/-- Logical core n (R2). -/
def coreAt (s : State) (n : Nat) : Core := tgetD s.cores n Core.reset

/-- The state with core n as given. -/
def setCore (s : State) (n : Nat) (c : Core) : State := { s with cores := tset s.cores n c }

/-- Apply f to core n. -/
def updCore (s : State) (n : Nat) (f : Core → Core) : State := setCore s n (f (coreAt s n))

/-- The core that moves. -/
def me (s : State) : Core := coreAt s s.cur

/-- Apply f to the core that moves. -/
def updMe (s : State) (f : Core → Core) : State := updCore s s.cur f

/-- The cluster of logical core n, and its slot in it (R2). -/
def clusterOf (n : Nat) : Nat := n / 8
def slotOf (n : Nat) : Nat := n % 8

/-- Logical cluster c. -/
def clusterAt (s : State) (c : Nat) : Cluster := tgetD s.clusters c Cluster.reset

/-- Apply f to cluster c. -/
def updCluster (s : State) (c : Nat) (f : Cluster → Cluster) : State :=
  { s with clusters := tset s.clusters c (f (clusterAt s c)) }

/-- Context c, if it exists (R23). -/
def ctxAt (s : State) (c : Nat) : Option Ctx := tget s.ctxs c

/-- The state with context c as given. -/
def setCtx (s : State) (c : Nat) (x : Ctx) : State := { s with ctxs := tset s.ctxs c x }

/-- Apply f to context c, if it exists. -/
def updCtx (s : State) (c : Nat) (f : Ctx → Ctx) : State :=
  match ctxAt s c with
  | some x => setCtx s c (f x)
  | none => s

/-- The run of record r of a context. -/
def runAt (x : Ctx) (r : Nat) : Option Run := tget x.runs r

/-- Apply f to the run of record r of context c. -/
def updRun (s : State) (c r : Nat) (f : Run → Run) : State :=
  updCtx s c (fun x =>
    match runAt x r with
    | some u => { x with runs := tset x.runs r (f u) }
    | none => x)

/-- The number of a logical core within a context's partition (R49). -/
def prel (x : Ctx) (n : Nat) : Nat := n - 8 * x.pbase

/-- The logical core of a partition-relative one (R49). -/
def logical (x : Ctx) (n : Nat) : Nat := 8 * x.pbase + n

/-- The number of cores of a partition. -/
def pcores (x : Ctx) : Nat := 8 * x.pcount

/-- The task of core n with its context and run. -/
def taskEnv (s : State) (n : Nat) : Option (Task × Ctx × Run) :=
  match (coreAt s n).task with
  | none => none
  | some t =>
    match ctxAt s t.ctx with
    | none => none
    | some x =>
      match runAt x t.ridx with
      | none => none
      | some u => some (t, x, u)

/-- A context that does not exist: what the accessors below read where a core has no task. -/
def Kernel.none : Kernel :=
  { kcode := 0, klen := 0, kentry := 0, nsreg := 0, nvreg := 0, npred := 0, ngrp := 0, nroute := 0, nslot := 0, nacc := 0
    nhnd := 0, ksp := 0 }

/-- The kernel header of the task of core n (R37). -/
def kernelOf (s : State) (n : Nat) : Kernel :=
  match taskEnv s n with
  | some (_, _, u) => u.kernel
  | none => Kernel.none

/-- The task of core n runs in a DET context (R49). -/
def detOf (s : State) (n : Nat) : Bool :=
  match taskEnv s n with
  | some (_, x, _) => x.det
  | none => true

/-- The partition-relative number of core n. -/
def prelOf (s : State) (n : Nat) : Nat :=
  match taskEnv s n with
  | some (_, x, _) => prel x n
  | none => n

/-- The strainer and optimiser engine of cluster k for a context. -/
def optAt (x : Ctx) (k : Nat) : OptUnit := tgetD x.opt k OptUnit.reset

/-- Apply f to the strainer and optimiser engine of cluster k of context c. -/
def updOpt (s : State) (c k : Nat) (f : OptUnit → OptUnit) : State := updCtx s c (fun x => { x with opt := tset x.opt k (f (optAt x k)) })

/-- The cards of core n that are queued or running (R374, R376). -/
def cardsOf (s : State) (n : Nat) : List Card :=
  match taskEnv s n with
  | none => []
  | some (_, x, _) =>
    let u := optAt x (clusterOf n)
    (u.queue ++ u.running.toList).filter (fun k => decide (k.ref.core = n))

/-! ## Registers (R101, R346) -/

/-- Scalar register r: s0 reads 0; at privileged level s24 to s31 are the banked ones. -/
def rdS (c : Core) (r : Nat) : Word :=
  if r = 0 then 0#32 else if c.priv && decide (24 ≤ r) then c.bank.getD (r - 24) 0#32 else c.s.getD r 0#32

/-- Write a scalar register of the task (bank = false) or of the privileged bank; a write to s0 is discarded. -/
def putS (c : Core) (r : Nat) (x : Word) (bank : Bool) : Core :=
  if r = 0 then c
  else if bank then { c with bank := c.bank.setIfInBounds (r - 24) x }
  else { c with s := c.s.setIfInBounds r x }

/-- The register that number r names at the core's level is a banked one. -/
def banked (c : Core) (r : Nat) : Bool := c.priv && decide (24 ≤ r)

/-- write_s of R87. -/
def wrS (c : Core) (r : Nat) (x : Word) : Core := putS c r x (banked c r)

/-- Vector register r. -/
def rdV (c : Core) (r : Nat) : VReg := c.v.getD r 0#256

/-- Write a vector register; an operand buffer entry of it ends (R103). -/
def wrV (c : Core) (r : Nat) (x : VReg) : Core :=
  { c with v := c.v.setIfInBounds r x, opbuf := c.opbuf.filter (fun h => h.reg != r) }

/-- Predicate register r: p0 reads all ones. -/
def rdP (c : Core) (r : Nat) : Word := if r = 0 then 0xFFFFFFFF#32 else c.p.getD r 0#32

/-- Write a predicate register; a write to p0 is discarded. -/
def wrP (c : Core) (r : Nat) (x : Word) : Core := if r = 0 then c else { c with p := c.p.setIfInBounds r x }

/-! ## Counters (R393, R395) -/

/-- Add k to a counter, which saturates at 2^64 - 1 and sets its SAT bit. -/
def addCounter (t : Table Counter) (i k : Nat) : Table Counter :=
  let c := tgetD t i { v := 0, sat := false }
  if k = 0 then t
  else if c.v + k < 2 ^ 64 then tset t i { c with v := c.v + k } else tset t i { v := 2 ^ 64 - 1, sat := true }

/-- Add a list of amounts. -/
def addCounts (t : Table Counter) (l : List (Nat × Nat)) : Table Counter :=
  l.foldl (fun t e => addCounter t e.1 e.2) t

/-- Add every counter of u to those of t, with the SAT bits (R396). -/
def mergeCounters (t u : Table Counter) : Table Counter :=
  u.foldl (fun t e =>
    let c := tgetD t e.1 { v := 0, sat := false }
    tset t e.1 { v := min (c.v + e.2.v) (2 ^ 64 - 1), sat := c.sat || e.2.sat || decide (2 ^ 64 ≤ c.v + e.2.v) }) t

/-! ## Completion of issued instructions (R95, R96, R188) -/

/-- Put a list of words into accumulator cells from index i. -/
def putCells : Table Word → Nat → List Word → Table Word
  | t, _, [] => t
  | t, i, w :: ws => putCells (sset 0#32 t i w) (i + 1) ws

/-- One result written. -/
def applyWrite (c : Core) : Write → Core
  | .s n x bank => putS c n x bank
  | .v n x => wrV c n x
  | .p n x => wrP c n x
  | .acc t cells bad =>
    { c with acc := putCells c.acc (1024 * t) cells
             accPoison := if bad then insertNat t c.accPoison else c.accPoison.filter (fun k => k != t) }
  | .slot n bytes tag =>
    { c with slots := writeBytes (eraseRange c.slots (4096 * n) 4096) (4096 * n) bytes
             tags := tset c.tags n { words := tag } }

/-- A pending instruction completes: its results are written, its flags are ORed into FFLG, its counts are added. -/
def finish (c : Core) (p : Pending) : Core :=
  let c := p.writes.foldl applyWrite c
  { c with cr := { c.cr with fflg := c.cr.fflg ||| p.flags.zeroExtend 32 }, counters := addCounts c.counters p.counts }

/-- Complete the pending instructions that f selects, oldest first. -/
def completeIf (f : Pending → Bool) (c : Core) : Core :=
  let todo := c.inflight.filter (fun p => !p.done && f p)
  let c' := todo.foldl finish c
  { c' with inflight := c.inflight.map (fun p => if f p then { p with done := true } else p) }

/-- A result that the core can wait for by itself: not one of the record-pool controller, nor of a window close. -/
def forcible (p : Pending) : Bool :=
  match p.kind with
  | .interlocked | .long | .mma => true
  | .pool | .window => false

/-- Some result of the kind is still pending. -/
def pendingKind (c : Core) (k : PKind) : Bool := c.inflight.any (fun p => !p.done && decide (p.kind = k))

/-- Forget the instructions that have completed and whose followers have all issued (R96). -/
def prune (c : Core) : Core := { c with inflight := c.inflight.filter (fun p => !p.done || decide (p.dist < p.look)) }

/-- The oldest pending instruction that f selects completes. -/
def completeFirst (f : Pending → Bool) (c : Core) : Core :=
  match c.inflight.findIdx? (fun p => f p && !p.done) with
  | none => c
  | some i =>
    match c.inflight[i]? with
    | none => c
    | some p => prune { finish c p with inflight := c.inflight.set i { p with done := true } }

/-- Count one more follower for the first k pending instructions. -/
def bump : Nat → List Pending → List Pending
  | 0, l => l
  | _, [] => []
  | k + 1, p :: l => { p with dist := p.dist + 1 } :: bump k l

/-- The parcel index of R97: counted from KCODE, or from the start of handler memory. -/
def parcelIndex (s : State) (n : Nat) : Nat :=
  let c := coreAt s n
  if c.priv then c.pc.toNat / 2 else (c.pc.toNat - (kernelOf s n).kcode) / 2

/-! ## Fetch gangs (R90) -/

/-- The gang that core n belongs to. -/
def gangOf (s : State) (n : Nat) : Option Gang :=
  match (clusterAt s (clusterOf n)).gang with
  | some g => if g.members.contains (slotOf n) then some g else none
  | none => none

/-- The members of a gang of cluster cl that a halt has put back to its boundary stand where they go on (R91). -/
def forwardGang (s : State) (cl : Nat) (g : Gang) : State :=
  g.pcs.foldl (fun s e => updCore s (8 * cl + e.1) (fun c => { c with pc := e.2 })) s

/-- The gang of core n, if it is in one, dissolves. -/
def dissolve (s : State) (n : Nat) : State :=
  match gangOf s n with
  | some _ => updCluster s (clusterOf n) (fun k => { k with gang := none })
  | none => s

/-! ## Holds (R354, R358) -/

/-- A request for pre-emption, unless one stands already. -/
def requestHold (x : Ctx) (h : HoldBy) : Ctx :=
  if x.preq.contains h || x.holds.contains h then x else { x with preq := x.preq ++ [h] }

/-- A remap, a lane's replacement and the want of a spare row hold a context in place: it is not spilled meanwhile (R358). -/
def inPlace (x : Ctx) : Bool := x.holds.any (fun h => decide (h = .remap ∨ h = .lane ∨ h = .spares))

/-- A context that has halted with the clusters is to be spilled: a pre-empting one holds it, and nothing holds it in place (R358). -/
def toSpill (x : Ctx) : Bool := x.active && x.holds.contains .context && !inPlace x

/-- A hold ends; a context that a pre-empting one holds then waits to be spilled (R358). -/
def dropHold (x : Ctx) (h : HoldBy) : Ctx :=
  let y := { x with holds := x.holds.filter (fun k => decide (k ≠ h)), preq := x.preq.filter (fun k => decide (k ≠ h)) }
  if x.holds.contains h = true ∧ y.halt = .held ∧ toSpill y = true then { y with halt := .halted } else y

/-! ## Traps (R341 to R350) -/

/-- The cause codes of R344. -/
def Cause.code : Cause → Nat
  | .ill => 0x01 | .pool => 0x02 | .zero => 0x03 | .priv => 0x04 | .resource => 0x05 | .lookahead => 0x06
  | .layout => 0x07 | .conflict => 0x08 | .nondet => 0x09 | .locked => 0x0A | .vpassed => 0x0B | .ticketGap => 0x0C
  | .ticketDup => 0x0D | .slot => 0x0E | .gangMismatch => 0x0F | .fpx => 0x10 | .page => 0x11 | .poison => 0x12
  | .sendStall => 0x13 | .quantumDeadlock => 0x14 | .selfDeadlock => 0x15 | .promiseExpired => 0x16 | .watchdog => 0x17
  | .trap => 0x18 | .brk => 0x19 | .timer => 0x1A | .engine => 0x1B

/-- ECAUSE of R343. -/
def ecauseOf (r : TrapReq) : Word :=
  (if r.async then 0x80000000#32 else 0#32) ||| BitVec.ofNat 32 r.cause.code

/-- The mask bit that sends a cause to the handler (R345). PROMISE-EXPIRED ignores its bit. -/
def masked (x : Ctx) (c : Cause) : Bool := decide (c ≠ .promiseExpired) && x.hmask.getLsbD c.code

/-- The window of an instruction that core n would issue now (R62): of its count in a DET context; otherwise the one open at this
cycle, since window w closes at cycle 64 (w + 1). -/
def windowOf (x : Ctx) (u : Run) (c : Core) : Nat :=
  if x.det then c.count / c.cr.quant.toNat else u.cycles / 64

/-- The shadow of core n's task joins the accumulator of its record (R395); what the task has issued completes first. -/
def addShadow (s : State) (n : Nat) : State :=
  match taskEnv s n with
  | none => s
  | some (t, _, _) =>
    let k := completeIf forcible (coreAt s n)
    updRun (setCore s n { k with counters := [] }) t.ctx t.ridx (fun u => { u with ended := tset u.ended t.t k.counters })

/-- The task of core n ends at once and its core starts no further wave; the trap joins the record's report (R349, R350). The words of its
mutexes stay held (log 44). -/
def fatalStop (s : State) (n : Nat) (f : Fatal) : State :=
  match taskEnv s n with
  | none => s
  | some (t, x, u) =>
    let w := windowOf x u (coreAt s n)
    let s := updRun (addShadow s n) t.ctx t.ridx (fun u =>
      { u with stopw := some (match u.stopw with | some v => min v w | none => w)
               fatals := u.fatals ++ [f]
               ntrap := min (u.ntrap + 1) 0xFFFFFFFF })
    updCore (dissolve s n) n (fun c =>
      { c with task := none, next := none, wait := none, trap := none, priv := false, iact := false, timerHnd := false, overlay := [] })

/-- The report of a trap of core n at its program counter (R350). -/
def fatalOf (s : State) (n : Nat) (r : TrapReq) : Fatal :=
  let c := coreAt s n
  match taskEnv s n with
  | some (t, x, u) =>
    { window := windowOf x u c, core := prel x n, epc := c.pc, lane := r.lane, t := t.t, ecause := ecauseOf r, einfo := r.info
      extra := r.extra, privlvl := c.priv }
  | none =>
    { window := 0, core := 0, epc := c.pc, lane := 0, t := 0, ecause := ecauseOf r, einfo := r.info, extra := r.extra
      privlvl := c.priv }

/-- What a trap writes first (R346 step 1): EPC, ECAUSE, EINFO. The EXTRA word of its report is kept with them (R350). -/
def saveTrap (c : Core) (r : TrapReq) : Core :=
  { c with cr := { c.cr with epc := c.pc, ecause := ecauseOf r, einfo := r.info }, extra := r.extra, trap := none, wait := none }

/-- The handler is entered (R346): the privileged level, at byte 0 of handler memory. -/
def enterHandler (c : Core) (r : TrapReq) : Core :=
  { saveTrap c r with priv := true, pc := 0#32, timerHnd := decide (r.cause = .timer) }

/-- The locks of command seq of core n of context c are released in every table (R229). -/
def releaseLocks (s : State) (c n seq : Nat) : State :=
  let keep := fun (l : Lock) => !(decide (l.owner = n) && decide (l.seq = seq))
  let s := { s with clusters := s.clusters.map (fun e => (e.1, { e.2 with locks := e.2.locks.filter keep })) }
  updCtx s c (fun x => { x with far := x.far.filter keep })

/-- An exchange whose launch still waits at its join is not launched (R355): it is forgotten with its locks. -/
def dropUnjoined (s : State) (n : Nat) : State :=
  match (coreAt s n).cmds.find? (fun e => !e.2.joined) with
  | some e => releaseLocks (updCore s n (fun c => { c with cmds := tdel c.cmds e.1 })) e.2.ctx n e.2.seq
  | none => s

/-- Core n is no waiter of any mutex (R310). -/
def leaveMutexes (s : State) (n : Nat) : State :=
  { s with cores := s.cores.map (fun e =>
      if e.2.mutexq.any (fun q => q.2 == n) then (e.1, { e.2 with mutexq := e.2.mutexq.filter (fun q => q.2 != n) }) else e) }

/-- A core that waits for a mutex gives up its place in the order of arrival (R310). -/
def leaveQueues (s : State) (n : Nat) : State :=
  match (coreAt s n).wait with
  | some w => if w.kind = .mutex then leaveMutexes s n else s
  | none => s

/-- A message of core n that is held on this module's mesh is given up with its msg.send (R336). -/
def dropSent (s : State) (n : Nat) : State :=
  match (coreAt s n).task with
  | none => s
  | some t =>
    let mine := fun (e : Nat × Packet) => decide (e.1 = t.ctx ∧ e.2.port = none ∧ e.2.src.toNat % 2 ^ 13 = prelOf s n) &&
      (match e.2.body with
        | .msg _ => true
        | _ => false)
    { s with packets := s.packets.filter (fun e => !mine e) }

/-- The instruction that core n waits at counts as not issued (R179, R273, R348): the places that it took are given up. -/
def withdraw (s : State) (n : Nat) : State :=
  let s := leaveQueues (dropUnjoined (dropSent s n) n) n
  let s := { s with counting := tdel s.counting n }
  match (coreAt s n).cwait, (coreAt s n).join, (coreAt s n).reply with
  | none, none, none => s
  | _, _, _ => updCore s n (fun c => { c with cwait := none, join := none, reply := none })

/-- The window to which an operation that core n issues now belongs (R62). -/
def openWindow (s : State) (n : Nat) : Nat :=
  match taskEnv s n with
  | some (_, x, u) => windowOf x u (coreAt s n)
  | none => 0

/-- The oldest window of the record of core n that has not closed. -/
def unclosedWindow (s : State) (n : Nat) : Nat :=
  match taskEnv s n with
  | some (_, _, u) => u.window
  | none => 0

/-- Entry of a trap, once nothing is outstanding: to the attached debug session (BREAK), to the handler, or fatal (R120,
R345 to R347). -/
def enterTrap (s : State) (n : Nat) (r : TrapReq) : State :=
  match taskEnv s n with
  | none => updCore s n (fun c => saveTrap c r)
  | some (_, x, _) =>
    let c := coreAt s n
    if r.cause = .brk ∧ x.debug = true ∧ c.priv = false then
      updCore s n (fun c => { saveTrap c r with dbgHeld := true, wait := some { kind := .debug, cycles := 0, gated := false } })
    else if c.priv = true ∨ masked x r.cause = false then
      fatalStop (updCore s n (fun c => saveTrap c r)) n (fatalOf s n r)
    else updCore s n (fun c => enterHandler c r)

/-- The entry of trap r waits for a result that core n cannot complete by itself (R98): an answer of the record-pool controller, or a window
close. QUANTUM-DEADLOCK, which ends the wait for a window close, waits for no close (R63; log 12). -/
def entryWaits (s : State) (n : Nat) (r : TrapReq) : Bool :=
  pendingKind (coreAt s n) .pool || (decide (r.cause ≠ .quantumDeadlock) && pendingKind (coreAt s n) .window)

/-- Core c, in a DET context, awaits the close of a window that it itself holds open while it does not go on (R62). -/
def holdsOpen (x : Ctx) (c : Core) : Bool :=
  x.det && c.inflight.any (fun p => !p.done && decide (p.kind = .window ∧ c.count < (p.win + 1) * c.cr.quant.toNat))

/-- How core n waits for the entry of a trap: for such a close it stalls under R63 (log 12). -/
def entryStall (s : State) (n : Nat) : Option Waiting :=
  let c := coreAt s n
  if c.trap.isSome ∧ c.wait.isSome then c.wait
  else if (taskEnv s n).any (fun e => holdsOpen e.2.1 c) then
    some { kind := .windowResult, cycles := 0, gated := false, mark := openWindow s n }
  else none

/-- A trap on the instruction at core n's program counter (R98): a gang of the core dissolves (R90; an asynchronous trap: log 50), every
outstanding result completes first, and the trap waits for those that the core cannot complete by itself. The handler's instructions are followers of what was issued
before (log 49). -/
def takeTrap (s : State) (n : Nat) (r : TrapReq) : State :=
  let s := updCore (withdraw (dissolve s n) n) n (completeIf forcible)
  if entryWaits s n r then updCore s n (fun c => { c with trap := some r, wait := entryStall s n })
  else enterTrap (updCore s n prune) n r

/-- A program counter is always even (R73): bit 0 of a word that becomes one falls (log 48). -/
def evenPc (w : Word) : Word := w &&& 0xFFFFFFFE#32

/-- The return from a handler (R121, R349): from the privileged level to EPC, else from a user-level handler to IEPC. -/
def returnFrom (c : Core) : Option (Core × Word) :=
  if c.priv then some ({ c with priv := false, timerHnd := false }, evenPc c.cr.epc)
  else if c.iact then some ({ c with iact := false }, evenPc c.cr.iepc)
  else none

/-! ## What an instruction names, and the checks of its issue (R99) -/

/-- What an instruction's own part answers: it takes effect and goes on to the next instruction, or to a target; it counts as
k instructions under R62; it takes effect with nothing left to do (its task is over); it traps; a fault held for it is delivered
(s without that fault); it waits. -/
inductive Body where
  | ok (s : State)
  | jump (s : State) (pc : Word)
  | counts (s : State) (k : Nat)
  | done (s : State)
  | trap (r : TrapReq)
  | fault (s : State) (r : TrapReq)
  | wait (k : WaitKind) (s : State)

/-- raise(CAUSE, info) of R87. -/
def raise (c : Cause) (info : Word) : Body := .trap { cause := c, info := info }

/-- An instruction's shape for its issue: its length, the registers and resources it names, destination first; whether it
waits for all outstanding results (R118); whether it is a wait point (R225); and what it names besides registers: the first
undeclared scratchpad byte, group or tag that it touches in a state (R100). -/
structure Shape where
  len   : Nat := 4
  names : List RName := []
  sys   : Bool := false
  wp    : Bool := false
  bytes : State → Nat → Option TrapReq := fun _ _ => none

def nS (r : Reg) : RName := ⟨.s, r.toNat⟩
def nV (r : Reg) : RName := ⟨.v, r.toNat⟩
def nP (r : Reg) : RName := ⟨.p, r.toNat⟩
def nH (r : Reg) : RName := ⟨.handle, r.toNat⟩
def nSlot (k : Nat) : RName := ⟨.slot, k⟩
def nAcc (k : Nat) : RName := ⟨.acc, k⟩
def nGrp (k : Nat) : RName := ⟨.grp, k⟩
def nTag (k : Nat) : RName := ⟨.route, k⟩

/-- s0 and p0 are no results and are always declared (R100, R101). -/
def constReg (r : RName) : Bool := decide (r.num = 0) && (decide (r.file = .s) || decide (r.file = .p))

/-- The bound of a file in the kernel header (R38). -/
def limitOf (k : Kernel) : RFile → Nat
  | .s => k.nsreg | .v => k.nvreg | .p => k.npred | .acc => k.nacc | .slot => k.nslot | .route => k.nroute | .grp => k.ngrp
  | .handle => k.nhnd

/-- KIND of R100. -/
def kindOf : RFile → Nat
  | .s => 0 | .v => 1 | .p => 2 | .route => 3 | .grp => 4 | .handle => 5 | .slot => 6 | .acc => 7

/-- EINFO of RESOURCE (R100). -/
def resourceInfo (kind index : Nat) : Word := BitVec.ofNat 32 (kind * 2 ^ 28 + index % 2 ^ 28)

/-- A name is declared (R39). -/
def declared (k : Kernel) (r : RName) : Bool := constReg r || decide (r.num < limitOf k r.file)

/-- The first undeclared name, in the order in which the instruction's shape lists its names (R100; log 49). -/
def resourceCheck (k : Kernel) (names : List RName) : Option TrapReq :=
  match names.find? (fun r => !declared k r) with
  | some r => some { cause := .resource, info := resourceInfo (kindOf r.file) r.num }
  | none => none

/-- FILE of R97. -/
def fileOf : RFile → Nat
  | .s => 0 | .v => 1 | .p => 2 | .acc => 3 | .slot => 4 | .route => 5 | .grp => 6 | .handle => 7

/-- EINFO of LOOKAHEAD (R97). -/
def lookaheadInfo (pidx : Nat) (r : RName) (dist : Nat) : Word :=
  BitVec.ofNat 32 (pidx % 2 ^ 15 * 2 ^ 17 + fileOf r.file * 2 ^ 14 + r.num % 64 * 2 ^ 8 + dist % 16)

/-- The next instruction is a follower of p that names a register which p writes. -/
def lookaheadHit (names : List RName) (p : Pending) : Option TrapReq :=
  if p.dist < p.look then
    match names.find? (fun r => p.regs.contains r) with
    | some r => some { cause := .lookahead, info := lookaheadInfo p.pidx r (p.dist + 1) }
    | none => none
  else none

/-- The lookahead check (R97): of several hits the oldest instruction's, with the first of the follower's names (log 49). -/
def lookaheadCheck (c : Core) (names : List RName) : Option TrapReq :=
  c.inflight.findSome? (lookaheadHit names)

/-- The shape with its names as the core's level has them: at privileged level s24 to s31 are the banked registers (R346), other
registers than the task's of the same number, here numbered from 88. -/
def Shape.atLevel (c : Core) (sh : Shape) : Shape :=
  if c.priv then { sh with names := sh.names.map (fun r => if r.file = .s ∧ 24 ≤ r.num then { r with num := r.num + 64 } else r) }
  else sh

/-- The result of p is one that the next instruction waits for (R95, R96, R118). -/
def neededBy (sh : Shape) (p : Pending) : Bool :=
  sh.sys || (decide (p.kind = .long ∨ p.kind = .mma) && decide (p.look ≤ p.dist)) || sh.names.any (fun r => p.regs.contains r)

/-- The next instruction waits for a matrix product of the list. -/
def needsArray (sh : Shape) (l : List Pending) : Bool := l.any (fun p => !p.done && decide (p.kind = .mma) && neededBy sh p)

/-- The matrix products that the next instruction waits for with those before them: the array takes them in order (R261). -/
def arrayDue (sh : Shape) : List Pending → List Pending
  | [] => []
  | p :: l => (if !p.done && decide (p.kind = .mma) && needsArray sh (p :: l) then [p] else []) ++ arrayDue sh l

/-- The list once those products have completed. -/
def arrayDone (sh : Shape) : List Pending → List Pending
  | [] => []
  | p :: l => (if decide (p.kind = .mma) && needsArray sh (p :: l) then { p with done := true } else p) :: arrayDone sh l

/-- The core completes what the next instruction waits for, but for what it cannot complete by itself. -/
def completeNeeded (sh : Shape) (c : Core) : Core :=
  completeIf (fun p => forcible p && neededBy sh p)
    { (arrayDue sh c.inflight).foldl finish c with inflight := arrayDone sh c.inflight }

/-- Instructions of the context issue, and its engines run: until HALT arrives, 24 cycles after the pre-emption was accepted
(R354). -/
def issuing (x : Ctx) : Bool :=
  match x.halt with
  | .running => true
  | .freezing => decide (x.froze < 24)
  | _ => false

/-- The halt of the context is not complete: what is on its way still arrives (R354). -/
def moving (x : Ctx) : Bool := decide (x.halt = .running ∨ x.halt = .freezing)

/-- The window of the core's next instruction is not above STOPW (R350). -/
def inStop (x : Ctx) (u : Run) (c : Core) : Bool :=
  match u.stopw with
  | some v => decide (windowOf x u c ≤ v)
  | none => true

/-- Core n may go on: it has a task of a running record, HALT has not reached its context, it has not failed, no debug session
holds it (R57, R67, R120, R354), and the window of its next instruction is not above STOPW (R350). -/
def mayGoOn (s : State) (n : Nat) : Bool :=
  match taskEnv s n with
  | none => false
  | some (_, x, u) =>
    let c := coreAt s n
    issuing x && u.running && !s.failed.contains n && !c.dbgHeld && (c.priv || inStop x u c)

/-- Core n may issue: it may go on, and no trap of it waits for its entry (R98). -/
def canRun (s : State) (n : Nat) : Bool := mayGoOn s n && (coreAt s n).trap.isNone

/-- R63: in a DET context an instruction of window w issues only once window w - 2 has closed; none at privileged level. -/
def windowHolds (x : Ctx) (u : Run) (c : Core) : Bool :=
  x.det && !c.priv && decide (u.window + 2 ≤ c.count / c.cr.quant.toNat)

/-- A handler that TIMER entered in a DET context may only do these (R347): write s24 to s31, read control registers, branch,
write TMR, issue MAJ 0x30, return (log 13). -/
def timerAllows : Instr → Bool
  | .add d .. | .sub d .. | .and d .. | .or d .. | .xor d .. | .andn d .. | .sll d .. | .srl d .. | .sra d .. | .slt d ..
  | .sltu d .. | .min d .. | .max d .. | .minu d .. | .maxu d .. | .mul d .. | .mulh d .. | .mulhu d .. | .div d ..
  | .divu d .. | .rem d .. | .remu d .. | .clz d .. | .ctz d .. | .popc d .. | .brev d .. | .addi d .. | .andi d ..
  | .ori d .. | .xori d .. | .slti d .. | .sltiu d .. | .slli d .. | .srli d .. | .srai d .. | .lui d .. | .jal d ..
  | .jalr d .. | .crr d _ | .cMv d .. | .cAdd d .. | .cSub d .. | .cAnd d .. | .cOr d .. | .cXor d .. | .cAddi d ..
  | .cLi d .. | .cSlli d .. | .cSrli d .. | .cSrai d .. | .cSlt d .. | .lrecRd d ..
  | .barPhase d .. | .engR d .. | .engPoll d .. | .grpRd d .. | .rankRd d .. | .layRd d .. | .laySel d .. | .vext d .. | .vredsum d .. | .vredmax d .. | .pcount d .. =>
    decide (d.toNat = 0 ∨ 24 ≤ d.toNat)
  | .crs d a c | .crc d a c => decide ((a.toNat = 0 ∨ c.toNat = 0x050) ∧ (d.toNat = 0 ∨ 24 ≤ d.toNat))
  | .crw _ c => decide (c.toNat = 0x050)
  | .beq .. | .bne .. | .blt .. | .bge .. | .bltu .. | .bgeu .. | .cBeqz .. | .cBnez .. | .cJr .. | .cntRd .. | .prfRd .. | .trcMark .. | .eret => true
  | _ => false

/-- What stands before an instruction's own part: nothing moves; a user-level handler is entered first; the core stalls; the
instruction traps; or it goes on in the state in which the results it needs are written. -/
inductive Check where
  | idle
  | deliver (s : State)
  | stall (k : WaitKind)
  | trap (r : TrapReq)
  | go (s : State)

/-- User-level interrupts are delivered to the core before its next instruction (R225). -/
def deliverable (c : Core) : Bool := !c.priv && !c.iact && !c.intr.isEmpty

/-- Delivery of the oldest held completion (R225): IEPC, XID, IACT, then the handler. -/
def deliverInt (s : State) (n : Nat) : State :=
  let k := (kernelOf s n).kcode
  let s := withdraw (dissolve s n) n
  updCore s n (fun c =>
    match c.intr with
    | [] => c
    | (xid, hp) :: rest =>
      { c with cr := { c.cr with iepc := c.pc, xid := xid }, iact := true, wait := none, intr := rest
               pc := BitVec.ofNat 32 (k + 2 * hp) })

/-- A command of the core with a handler has not completed (R225). -/
def handlerDue (c : Core) : Bool := c.cmds.any (fun e => e.2.handler.isSome)

/-- The checks of R99 and the waits of R63, R95, R96 and R225, for core n and an instruction i of shape sh. A wait point inside a user-level
handler, or at privileged level, does not wait for commands with a handler (log 57). -/
def issueCheck (i : Instr) (sh : Shape) (s : State) (n : Nat) : Check :=
  match taskEnv s n with
  | none => .idle
  | some (_, x, u) =>
    let c := coreAt s n
    let sh := sh.atLevel c
    if canRun s n = false then .idle
    else if x.det && sh.wp && !c.priv && !c.iact && handlerDue c then .stall .handlers
    else if x.det && sh.wp && deliverable c then .deliver (deliverInt s n)
    else if windowHolds x u c then .stall .window
    else
      let needed := c.inflight.filter (fun p => !p.done && neededBy sh p)
      if needed.any (fun p => decide (p.kind = .window) && sh.names.any (fun r => p.regs.contains r)) then .stall .windowResult
      else if needed.any (fun p => decide (p.kind = .pool)) then .stall .pool
      else
        let s' := updCore s n (completeNeeded sh)
        match (if c.priv then none else (resourceCheck u.kernel sh.names).or (sh.bytes s' n)) with
        | some r => .trap r
        | none =>
          match lookaheadCheck c sh.names with
          | some r => .trap r
          | none =>
            if x.det && c.priv && c.timerHnd && !timerAllows i then .trap { cause := .priv, info := 0xFFFFFFFE#32 }
            else .go s'

/-- Two waits are one: the stalls of R63, a ticketed update on its way that is refused (R294), and a message (R328). -/
def sameStall (a b : WaitKind) : Bool :=
  decide (a = b) || decide (a = .bank ∧ b = .ticket) || (decide (a = .window ∨ a = .windowResult) && decide (b = .window ∨ b = .windowResult)) ||
    (decide (a = .send ∨ a = .sendHeld) && decide (b = .send ∨ b = .sendHeld))

/-- The core waits at the instruction at its program counter; a wait that goes on keeps its cycle count, and an access that has reached its
home stays one of the window in which it issued (R62). -/
def waitAs (s : State) (n : Nat) (k : WaitKind) : State :=
  updCore s n (fun c =>
    match c.wait with
    | some w => if sameStall w.kind k then { c with wait := some { w with kind := k } }
                else { c with wait := some { kind := k, cycles := 0, gated := false, mark := if w.kind = .bank then w.mark else openWindow s n } }
    | none => { c with wait := some { kind := k, cycles := 0, gated := false, mark := openWindow s n } })

/-- The registers of an instruction of shape sh whose results await a window close (R63). -/
def windowNeeds (c : Core) (sh : Shape) : List RName :=
  sh.names.filter (fun r => c.inflight.any (fun p => !p.done && decide (p.kind = .window) && p.regs.contains r))

/-- The core stalls at its next instruction, of shape sh. -/
def stallAs (s : State) (n : Nat) (sh : Shape) (k : WaitKind) : State :=
  updCore (waitAs s n k) n (fun c => { c with wait := c.wait.map (fun w => { w with need := windowNeeds c (sh.atLevel c) }) })

/-- An instruction has issued (R94, R96): the program counter moves on, k0 earlier instructions have one more follower, held
operands serve one instruction less (R103), and at user level the count of R62 rises by k. -/
def retire (s : State) (n : Nat) (k0 : Nat) (priv0 : Bool) (pc : Word) (k : Nat) : State :=
  updCore s n (fun c => prune
    { c with pc := pc, wait := none, inflight := bump k0 c.inflight
             opbuf := (c.opbuf.map (fun h => { h with life := h.life - 1 })).filter (fun h => decide (0 < h.life))
             count := if priv0 then c.count else c.count + k })

/-- The state after an instruction's own part. -/
def settleBody (s : State) (n len : Nat) (b : Body) : State :=
  let c := coreAt s n
  let k0 := c.inflight.length
  match b with
  | .ok s' => retire s' n k0 c.priv (c.pc + BitVec.ofNat 32 len) 1
  | .jump s' pc => retire s' n k0 c.priv pc 1
  | .counts s' k => retire s' n k0 c.priv (c.pc + BitVec.ofNat 32 len) k
  | .done s' => s'
  | .trap r => takeTrap s n r
  | .fault s' r => takeTrap s' n r
  | .wait k s' => waitAs s' n k

/-- The issue of instruction i by the core that moves. -/
def issue (i : Instr) (sh : Shape) (body : State → Body) (s : State) : Out :=
  match issueCheck i sh s s.cur with
  | .idle => .next s
  | .deliver s' => .next s'
  | .stall k => .next (stallAs s s.cur sh k)
  | .trap r => .next (takeTrap s s.cur r)
  | .go s' => .next (settleBody s' s.cur sh.len (body s'))

/-! ## Results -/

/-- An instruction of the single class: its result is written at once (R95). -/
def okCore (s : State) (c : Core) : Body := .ok (setCore s s.cur c)

/-- The registers of a list of writes, for LOOKAHEAD and the interlock; a banked register as Shape.atLevel names it. -/
def regsOf : List Write → List RName
  | [] => []
  | .s n _ b :: l => (if n = 0 then [] else [⟨.s, if b then n + 64 else n⟩]) ++ regsOf l
  | .v n _ :: l => ⟨.v, n⟩ :: regsOf l
  | .p n _ :: l => (if n = 0 then [] else [⟨.p, n⟩]) ++ regsOf l
  | .acc t _ _ :: l => ⟨.acc, t⟩ :: regsOf l
  | .slot n _ _ :: l => ⟨.slot, n⟩ :: regsOf l

/-- Put an issued instruction, with the range that it registers, among those that are not finished with. -/
def pendLock (s : State) (n : Nat) (k : PKind) (l : BitVec 4) (ws : List Write) (flags : BitVec 5) (counts : List (Nat × Nat))
    (lock : Option Lock) : State :=
  let p : Pending :=
    { kind := k, pidx := parcelIndex s n, look := l.toNat, dist := 0, regs := regsOf ws, writes := ws, flags := flags
      counts := counts, done := false, lock := lock, win := openWindow s n }
  updCore s n (fun c => { c with inflight := c.inflight ++ [p] })

/-- Put an issued instruction among those that are not finished with. -/
def pend (s : State) (n : Nat) (k : PKind) (l : BitVec 4) (ws : List Write) (flags : BitVec 5) (counts : List (Nat × Nat)) :
    State :=
  pendLock s n k l ws flags counts none

/-- A scalar result as a write, to the bank that the core's level names. -/
def sres (c : Core) (r : Reg) (x : Word) : Write := .s r.toNat x (banked c r.toNat)

/-- An interlocked result (R95). -/
def interlock (s : State) (ws : List Write) : Body := .ok (pend s s.cur .interlocked 0#4 ws 0#5 [])

/-- A long-latency result (R96). -/
def longRes (s : State) (l : BitVec 4) (ws : List Write) : Body := .ok (pend s s.cur .long l ws 0#5 [])

end Sys2Proof.Machine
end

