-- ==== Sys2Proof/Machine/Host.lean ====
section
/-! DEFINITION. The module registers, ownership, event queues and power-on (01). Masters are named by their IDs: 1 to 4 for
host functions 0 to 3, 8 for the management complex (R14). -/

namespace Sys2Proof.Machine

/-- Master m. -/
def masterAt (s : State) (m : Nat) : Master := tgetD s.masters m Master.reset

/-- Apply f to master m. -/
def updMaster (s : State) (m : Nat) (f : Master → Master) : State := { s with masters := tset s.masters m (f (masterAt s m)) }

/-- sat_inc32 of R87. -/
def satInc (x : Word) : Word := if x = 0xFFFFFFFF#32 then x else x + 1#32

/-- Count a dropped write of master m (R8). -/
def countDenied (s : State) (m : Nat) : State := updMaster s m (fun x => { x with denied := satInc x.denied })

/-- m owns the module (R14). -/
def isOwner (s : State) (m : Nat) : Bool := decide (m ≠ 0) && decide (s.mgmt.ownerId.toNat = m)

/-- The ID of a host function (R14). -/
def masterOf (fn : Nat) : Nat := fn + 1

/-- Master m is the host function bound to context x (R23). -/
def boundTo (x : Ctx) (m : Nat) : Bool := decide (x.func.map masterOf = some m)

/-- Phodiver runs on the management cores: from stage 0x4 on, unless a boot failure has halted them (R9). -/
def phodiverRuns (s : State) : Bool := s.mcores.toList.all (fun k => decide (k.run = .phodiver))

/-- All management cores go on to r. -/
def setMcores (s : State) (r : McoreRun) : State := { s with mcores := s.mcores.map (fun k => { k with run := r }) }

/-! ## Events (R24) -/

/-- Sixteen words of an event: the given ones, then zeros. -/
def mkEvent (ws : List Word) : Event := (ws ++ List.replicate 16 0#32).take 16

/-- Post an event to the queue of master m; a full queue holds it. An empty queue sends the master's interrupt. -/
def postTo (s : State) (m : Nat) (e : Event) : State :=
  updMaster s m (fun x =>
    if x.events.length < 256 ∧ x.held = [] then
      { x with events := x.events ++ [e], irqs := if x.events.isEmpty then x.irqs + 1 else x.irqs }
    else { x with held := x.held ++ [e] })

/-- Post a module event: to the owner, or to the module queue while there is none. -/
def postModule (s : State) (e : Event) : State :=
  if s.mgmt.ownerId = 0#4 then { s with moduleq := s.moduleq ++ [e] } else postTo s s.mgmt.ownerId.toNat e

/-- Post an event of context c: to the owner and, when it is another master, to the function bound to the context. With no
owner the owner's copy waits in the module queue (log 20). -/
def postCtx (s : State) (c : Nat) (e : Event) : State :=
  let s' := postModule s e
  match ctxAt s c with
  | some x =>
    match x.func with
    | some fn => if masterOf fn = s.mgmt.ownerId.toNat then s' else postTo s' (masterOf fn) e
    | none => s'
  | none => s'

/-- Pass the waiting module events to a new owner. -/
def handOver (s : State) : State :=
  if s.mgmt.ownerId = 0#4 then s
  else s.moduleq.foldl (fun s e => postTo s s.mgmt.ownerId.toNat e) { s with moduleq := [] }

/-- A write to EVPOP (R24): before READY it is dropped, as every write is then (log 40). -/
def evpopWrite (s : State) (m : Nat) (v : Word) : State :=
  if s.mgmt.ready && v.getLsbD 0 then
    updMaster s m (fun x =>
      match x.events with
      | [] => x
      | _ :: rest =>
        match x.held with
        | [] => { x with events := rest }
        | h :: hs => { x with events := rest ++ [h], held := hs })
  else s

/-- The EVPOP step: the write of the master that the input names. -/
def execEvpop (s : State) : Out := .next (evpopWrite s s.input.who (s.input.value.truncate 32))

/-! ## Ownership (R14 to R17) -/

/-- A valid ID other than none (R15). -/
def validId (s : State) (n : Nat) : Bool := decide (n = 8) || s.boot.functions.any (fun f => decide (masterOf f = n))

/-- legal_cas of R15: claim, release, handover. -/
def legalCas (s : State) (m e n : Nat) : Bool :=
  (decide (e = 0) && decide (n = m)) || (decide (e = m) && decide (n = 0)) ||
  (decide (e = m) && validId s n && decide (n ≠ m))

/-- OWNER takes a new ID: EPOCH rises by one (R14), and a new owner takes over the module events (R24). -/
def setOwner (s : State) (n : Nat) : State :=
  handOver { s with mgmt := { s.mgmt with ownerId := BitVec.ofNat 4 n, epoch := s.mgmt.epoch + 1#16 } }

/-- A write to OWNCAS (R12, R15). -/
def owncasWrite (s : State) (m : Nat) (w : Word) : State :=
  let e := (w.extractLsb' 0 4).toNat
  let n := (w.extractLsb' 4 4).toNat
  if s.mgmt.ready = false ∨ w.extractLsb' 8 24 ≠ 0#24 then countDenied s m
  else if e = s.mgmt.ownerId.toNat ∧ legalCas s m e n = true then setOwner s n
  else countDenied s m

/-- The OWNCAS step. -/
def execOwncas (s : State) : Out := .next (owncasWrite s s.input.who (s.input.value.truncate 32))

/-- The HOST_LINK_DOWN step (R17): the link of host function input.who, 0 to 3, goes down, or it undergoes a function-level reset.
Phodiver writes OWNER. -/
def execHostLinkDown (s : State) : Out :=
  if phodiverRuns s = true ∧ s.input.who < 4 ∧ s.mgmt.ownerId.toNat = masterOf s.input.who then .next (setOwner s 0) else .next s

/-- A write to DENIED (R8): any value clears the writer's own count. -/
def deniedWrite (s : State) (m : Nat) : State := updMaster s m (fun x => { x with denied := 0#32 })

/-- The DENIED step. -/
def execDenied (s : State) : Out := .next (deniedWrite s s.input.who)

/-! ## MBOX registers (R22) -/

/-- MBOX word i of master m: 0 the doorbell, 1 the status, 2 the command, 3 onwards arguments and results. -/
def mboxWord (s : State) (m i : Nat) : Word := sget 0#32 (masterAt s m).mbox i

/-- Write an MBOX word. -/
def setMbox (s : State) (m i : Nat) (w : Word) : State := updMaster s m (fun x => { x with mbox := sset 0#32 x.mbox i w })

/-- The listed command words (R23). -/
def mboxListed (w : Word) : Bool :=
  [0x01, 0x10, 0x11, 0x12, 0x20, 0x21, 0x30, 0x31, 0x40, 0x41, 0x42, 0x50, 0x51, 0x52, 0x53, 0x60, 0x80, 0x81, 0x82, 0x83,
   0x84, 0x85].contains w.toNat

/-- A command ends: status and results are written and the doorbell falls to 0 (R22). -/
def answerMbox (s : State) (m : Nat) (status : Nat) (results : List Word) : State :=
  let s := setMbox s m 1 (BitVec.ofNat 32 status)
  let s := (List.range results.length).foldl (fun s j => setMbox s m (3 + j) (results.getD j 0#32)) s
  setMbox { s with mboxq := s.mboxq.filter (fun k => k != m) } m 0 0#32

/-- Unlisted commands at the head of the queue are answered with status 0x02 (R23), when it comes to be the head (log 56). -/
def settleMbox : Nat → State → State
  | 0, s => s
  | k + 1, s =>
    match s.mboxq with
    | [] => s
    | m :: _ =>
      if s.mgmt.ready && s.mgmt.serving.isNone && !mboxListed (mboxWord s m 2) then settleMbox k (answerMbox s m 0x02 []) else s

/-- Who may issue a command (R23). -/
inductive Who where
  | owner | ownerOrBound | any
deriving DecidableEq, Repr

/-- Serve the command at the head of the queue if its word is code. The context is argument 0 where withCtx holds: 0x03 for a
master that may not issue it, counted in DENIED; 0x82 for a context that does not exist; then 0x01 and what else f answers, status and
results, or nothing while the command is not finished. Of 0x03, 0x82 and 0x01 the first in this order is given (log 49). A command that is
being served is not served again, and holds the queue (R22). -/
def serveOr (s : State) (code : Nat) (who : Who) (withCtx : Bool)
    (f : State → Nat → (Nat → Word) → State × Option (Nat × List Word)) : Out :=
  match s.mboxq with
  | [] => .next s
  | m :: _ =>
    if s.mgmt.ready = false ∨ s.mgmt.serving.isSome = true ∨ (mboxWord s m 2).toNat ≠ code then .next s
    else
      let arg := fun i => mboxWord s m (3 + i)
      let x := if withCtx then ctxAt s (arg 0).toNat else none
      let may := match who with
        | .owner => isOwner s m
        | .ownerOrBound => isOwner s m || (match x with
            | some x => boundTo x m
            | none => false)
        | .any => true
      if may = false then .next (settleMbox s.mboxq.length (answerMbox (countDenied s m) m 0x03 []))
      else if withCtx = true ∧ x = none then .next (settleMbox s.mboxq.length (answerMbox s m 0x82 []))
      else
        match f s m arg with
        | (s', some (st, res)) => .next (settleMbox s.mboxq.length (answerMbox s' m st res))
        | (s', none) => .next s'

/-- A command that finishes at once. -/
def serve (s : State) (code : Nat) (who : Who) (withCtx : Bool)
    (f : State → Nat → (Nat → Word) → State × Nat × List Word) : Out :=
  serveOr s code who withCtx (fun s m arg =>
    let (s', st, res) := f s m arg
    (s', some (st, res)))

/-- A doorbell write (R22): accepted when the doorbell is 0, else dropped and counted. A value other than 1 while the doorbell is 0
does nothing (log 49). -/
def doorbell (s : State) (m : Nat) (w : Word) : State :=
  if mboxWord s m 0 ≠ 0#32 then countDenied s m
  else if w = 1#32 then settleMbox (s.mboxq.length + 1) (setMbox { s with mboxq := s.mboxq ++ [m] } m 0 1#32)
  else s

/-! ## Reading the window (R6, R7, R14, R21, R24) -/

/-- MSTAT. -/
def mstatOf (g : Mgmt) : Word :=
  0#7 ++ BitVec.ofBool g.dramdeg ++ g.links ++ BitVec.ofBool g.warm ++ BitVec.ofBool g.therm ++ BitVec.ofBool g.fail ++ g.stage ++
    BitVec.ofBool g.ready

/-- OWNER. -/
def ownerOf (g : Mgmt) : Word := g.epoch ++ 0#12 ++ g.ownerId

/-- ARMSTAT of a master. -/
def armstatOf (x : Master) : Word := x.armCause ++ 0#4 ++ x.ack

/-- What master m reads from the window at an offset with a width in bytes (R6). Before READY all but MSTAT and BOOTERR read zero
(R12). Another width than 32 bits, an offset that is not one of a listed word, and ARM, which is write-only, read zero. -/
def readRegister (s : State) (m off width : Nat) : Word :=
  if width ≠ 4 ∨ off % 4 ≠ 0 then 0#32
  else if off = 0x0000 then mstatOf s.mgmt
  else if off = 0x0004 then s.mgmt.booterr
  else if s.mgmt.ready = false then 0#32
  else if off = 0x0008 then ownerOf s.mgmt
  else if off = 0x0010 then (masterAt s m).denied
  else if off = 0x0108 then armstatOf (masterAt s m)
  else if 0x0200 ≤ off ∧ off < 0x0300 then mboxWord s m ((off - 0x0200) / 4)
  else if off = 0x0300 then BitVec.ofNat 32 (masterAt s m).events.length
  else if 0x0340 ≤ off ∧ off < 0x0380 then
    match (masterAt s m).events with
    | e :: _ => e.getD ((off - 0x0340) / 4) 0#32
    | [] => 0#32
  else 0#32

/-! ## Power-on (R9 to R12) -/

/-- Halt with FAIL and BOOTERR in a stage: the management complex runs no more. -/
def bootFail (s : State) (stage code : Nat) : State :=
  setMcores { s with mgmt := { s.mgmt with stage := BitVec.ofNat 4 stage, fail := true, booterr := BitVec.ofNat 32 code } } .halted

/-- The number that bytes give, least significant first. -/
def leNat (l : List Byte) : Nat := l.foldr (fun b a => b.toNat + 256 * a) 0

/-- The fields of an image (R10): the header's words in the order in which R10 lists them, from byte 0 (log 46), and the signature,
which are its last 384 bytes. -/
def imageMagic (l : List Byte) : Nat := leNat (l.take 4)
def imageVersion (l : List Byte) : Nat := leNat ((l.drop 4).take 4)
def imageBody (l : List Byte) : Nat := leNat ((l.drop 8).take 4)
def imageKey (l : List Byte) : List Nat := ((l.drop 12).take 384).map BitVec.toNat
def imageSigned (l : List Byte) : List Nat := (l.take (4096 + imageBody l)).map BitVec.toNat
def imageSignature (l : List Byte) : Nat := beNat ((l.drop (4096 + imageBody l)).map BitVec.toNat)

/-- A file is a readable image: its magic value and its length are those of R10 (log 46). -/
def readableImage (l : List Byte) : Bool :=
  decide (imageMagic l = 0x48594C44 ∧ l.length = 4096 + imageBody l + 384)

/-- The image that stage 0x2 loads: from root port 0, else from root port 1. -/
def Boot.image (b : Boot) : Option (List Byte) :=
  match b.image0.filter readableImage with
  | some l => some l
  | none => b.image1.filter readableImage

/-- The version of the image that is loaded (R10). -/
def Boot.version (b : Boot) : Nat := (b.image.map imageVersion).getD 0

/-- The image checks of stage 0x3 in the order of R10 (log 41). -/
def imageError (b : Boot) (l : List Byte) : Option Nat :=
  if beNat (sha256 (imageKey l)) ≠ b.keyFuse.toNat then some 0x04
  else if pssVerify (beNat (imageKey l)) (imageSignature l) (imageSigned l) = false then some 0x03
  else if imageVersion l < b.fusedMin then some 0x05 else none

/-- The FWMIN command (R10, R23). -/
def execFwmin (s : State) : Out :=
  serve s 0x01 .owner false (fun s _ _ =>
    if s.boot.fusedMin = s.boot.version then (s, 0x11, [])
    else if s.boot.fuseWriteOk then ({ s with boot := { s.boot with fusedMin := s.boot.version } }, 0x00, [])
    else (s, 0x12, []))

/-- The boot ROM passes its self-check: its digest is the fused one (R9). -/
def Boot.romOk (b : Boot) : Bool := decide (Config.romDigest b.rom = b.romFuse)

/-- Physical row p of die d is good (R60): all 64 of its cores pass the fuse check and the self-test. -/
def Boot.goodRow (b : Boot) (d p : Nat) : Bool := !(b.defects ++ b.selfFail).any (fun n => decide (n / 64 = 34 * d + p))

/-- The good rows of each die in ascending order. -/
def Boot.goodRows (b : Boot) : List (List Nat) := (List.range 4).map (fun d => (List.range 34).filter (b.goodRow d))

/-- The logical map of R60: logical rows 32d to 32d + 31 are the first 32 good rows of die d. Physical row p of die d is
number 34d + p. -/
def rowMap (good : List (List Nat)) : Table Nat :=
  (List.range good.length).flatMap (fun d =>
    (List.range 32).map (fun i => (32 * d + i, 34 * d + (good.getD d []).getD i 0)))

/-- The spares of each die (R60). -/
def spareMap (good : List (List Nat)) : Table (List Nat) :=
  (List.range good.length).map (fun d => (d, ((good.getD d []).drop 32).map (fun p => 34 * d + p)))

/-- Where the management SRAM holds the module's signing key, which is derived at every boot (R22, R402; log 47). -/
def holdKey (s : State) : State :=
  { s with sram := writeBytes [] 0 ((List.range 48).map (fun i => BitVec.ofNat 8 ((Config.moduleKey s.boot.secret).toNat / 256 ^ i))) }

/-- A link as calibration leaves it (R9 stage 0x5): it is in service where it passes, unless it has already lost more lanes of a direction
than it has spare (R320). -/
def calibratedLink (s : State) (l : Nat) : Link :=
  let k := tgetD s.links l Link.reset
  let out := (tget s.links l).isSome && !k.up && decide (k.spareOut = 0 ∨ k.spareIn = 0)
  { Link.reset with up := s.boot.linkOk.getLsbD l && !out, spareOut := k.spareOut, spareIn := k.spareIn }

/-- Fiven link calibration: LINKS tells which links are in service (R7, R319). -/
def calibrate (s : State) : State :=
  let ls := (List.range 16).map (fun l => (l, calibratedLink s l))
  { s with mgmt := { s.mgmt with links := BitVec.ofNat 16 (ls.foldl (fun a e => a + if e.2.up then 2 ^ e.1 else 0) 0) }, links := ls }

/-- MSTAT.DRAMDEG (R7, R9, R68): some channel runs on spare lanes, as calibration found it or since a failure at run time. -/
def degraded (s : State) : Bool := s.boot.dramSpare || !s.dspare.isEmpty

/-- The stages of power-on in order. -/
def powerOn (s : State) : State :=
  let b := s.boot
  if b.romOk = false then bootFail s 1 0x01
  else
    match b.image with
    | none => bootFail s 2 0x02
    | some l =>
      match imageError b l with
      | some e => bootFail s 3 e
      | none =>
        if b.phodiverOk = false then bootFail s 4 0x06
        else
          let s := calibrate (holdKey (setMcores s .phodiver))
          if b.dramOk = false then bootFail s 6 0x07
          else
            let s := { s with mgmt := { s.mgmt with dramdeg := degraded s } }
            if b.goodRows.any (fun r => decide (r.length < 32)) then bootFail s 7 0x08
            else
              let s := { s with rows := rowMap b.goodRows, spares := spareMap b.goodRows }
              if b.zeroOk = false then bootFail s 8 0x09
              else
                { s with
                  slice := [], gmeta := [], conf := [], poison := [], dram := [], dpoison := [], caddy := [], spill := [], ctxs := []
                  clusters := [], cores := [], marks := [], counting := [], packets := [], rowOpen := []
                  boot := { b with zeroed := true }
                  mgmt := { s.mgmt with stage := 9#4, ready := true } }

/-- The POWER_ON step: from reset, when power is good. -/
def execPowerOn (s : State) : Out :=
  if s.mgmt.stage = 0#4 ∧ s.mgmt.fail = false then .next (powerOn s) else .next s

/-- The COLD_RESET step (R9): everything but the fuses, the NVMe device (R402) and the environment starts again. A row that was
remapped and a DRAM lane that failed at run time are judged anew by the self-test and the calibration, as Boot says (log 49). -/
def execColdReset (s : State) : Out :=
  .next (powerOn { State.reset with
    boot := { s.boot with zeroed := false }, serial := s.serial, snapSeq := s.snapSeq, agenda := s.agenda, input := s.input
    host := s.host, fresh := s.fresh })

end Sys2Proof.Machine
end

