-- ==== Sys2Proof/Machine/Caddy.lean ====
section
/-! DEFINITION. The caddy: its words, checksums, kernel headers, groups and sealing (02, R25 to R48), and host writes through
BAR2 (R18, R29, R72). Byte x of context c's region has key c * 2^30 + x. -/

namespace Sys2Proof.Machine

/-- The key of byte x of context c's caddy. -/
def caddyKey (c x : Nat) : Nat := c * 2 ^ 30 + x

/-- The key of a granule of a caddy among those of DRAM, whose channels have the keys below 2^34. -/
def caddyGran (c x : Nat) : Nat := 2 ^ 34 + caddyKey c x / 16

/-- The word at byte x of context c's caddy. -/
def caddyW (s : State) (c x : Nat) : Word := readW s.caddy (caddyKey c x)

/-- Write the word at byte x of context c's caddy. -/
def setCaddyW (s : State) (c x : Nat) (w : Word) : State := { s with caddy := writeW s.caddy (caddyKey c x) w }

/-- Accesses to the n bytes from byte b of context c's caddy, from whatever unit, in ascending order: each leaves the row of its
channel open (R26, R410). -/
def openCaddy (s : State) (c : Nat) (x : Ctx) (b n : Nat) : State :=
  (List.range (if n = 0 then 0 else (b + n - 1) / 2048 + 1 - b / 2048)).foldl (fun s i =>
    let r := b / 2048 + i
    { s with rowOpen := tset s.rowOpen (logical x (r / 2 % pcores x)) (Config.caddyRow (caddyKey c 0 / 2048 + r)) }) s

/-- CADDYVA (R26). -/
def caddyVA : Nat := 0x800000000000

/-- Header word k as the last seal found it (R27, R28). -/
def hdrWord (x : Ctx) (k : Nat) : Nat :=
  match x.hdr with
  | some h => (h.getD k 0#32).toNat
  | none => 0

def nrec (x : Ctx) : Nat := hdrWord x 1
def recoff (x : Ctx) : Nat := hdrWord x 2
def nkh (x : Ctx) : Nat := hdrWord x 3
def khoff (x : Ctx) : Nat := hdrWord x 4
def layoff (x : Ctx) : Nat := hdrWord x 5
def grpoff (x : Ctx) : Nat := hdrWord x 6
def codeoff (x : Ctx) : Nat := hdrWord x 7
def codelen (x : Ctx) : Nat := hdrWord x 8

/-- Word w of record i (R29). -/
def recWord (s : State) (c : Nat) (x : Ctx) (i w : Nat) : Word := caddyW s c (recoff x + 128 * i + 4 * w)

/-- Write word w of record i. -/
def setRecWord (s : State) (c : Nat) (x : Ctx) (i w : Nat) (v : Word) : State :=
  setCaddyW (openCaddy s c x (recoff x + 128 * i + 4 * w) 4) c (recoff x + 128 * i + 4 * w) v

/-- The scheduler or the record-pool controller reads record i (R410). -/
def openRec (s : State) (c : Nat) (x : Ctx) (i : Nat) : State := openCaddy s c x (recoff x + 128 * i) 128

/-- Words 0 to 28 of record i: the covered words (R31). -/
def recWords (s : State) (c : Nat) (x : Ctx) (i : Nat) : List Word := (List.range 29).map (recWord s c x i)

/-! ## CRC-32C (R31) -/

/-- Eight steps of the reflected CRC-32C. -/
def crcBits : Nat → Word → Word
  | 0, r => r
  | k + 1, r => crcBits k (if r.getLsbD 0 then (r >>> 1) ^^^ 0x82F63B78#32 else r >>> 1)

/-- One byte. -/
def crcByte (r : Word) (b : Byte) : Word := crcBits 8 (r ^^^ b.zeroExtend 32)

/-- The CRC-32C of a list of bytes. -/
def crc32c (bs : List Byte) : Word := (bs.foldl crcByte 0xFFFFFFFF#32) ^^^ 0xFFFFFFFF#32

/-- The bytes of a list of words in ascending address order. -/
def wordsBytes (ws : List Word) : List Byte :=
  ws.flatMap (fun w => [w.extractLsb' 0 8, w.extractLsb' 8 8, w.extractLsb' 16 8, w.extractLsb' 24 8])

/-! ## Record status (R34) -/

/-- STATE, CAUSE and NDONE of record i. -/
def recState (s : State) (c : Nat) (x : Ctx) (i : Nat) : Nat := (recWord s c x i 29).toNat % 16
def recNdone (s : State) (c : Nat) (x : Ctx) (i : Nat) : Nat := (recWord s c x i 29).toNat / 256

/-- Write STATUS. -/
def setStatus (s : State) (c : Nat) (x : Ctx) (i ndone cause st : Nat) : State :=
  setRecWord s c x i 29 (BitVec.ofNat 32 (ndone * 256 + cause * 16 + st))

/-- ARMED, RELEASED or RUNNING. -/
def liveState (st : Nat) : Bool := decide (1 ≤ st ∧ st ≤ 3)

/-- Some record of the context is live: exactly those whose journal entry is PENDING (R52). -/
def anyLive (x : Ctx) : Bool := x.journal.any (fun j => decide (j.outcome = .pending))

/-! ## Kernel headers (R37, R38) -/

/-- Field hi:lo of a word. -/
def field (w : Word) (hi lo : Nat) : Nat := w.toNat / 2 ^ lo % 2 ^ (hi - lo + 1)

/-- The four grid extents of a record. -/
def gridOf (ws : Nat → Word) : List Nat := [field (ws 2) 15 0, field (ws 2) 31 16, field (ws 3) 15 0, field (ws 3) 31 16]

/-- The number of tile tasks (R59). -/
def tileCount (ws : Nat → Word) : Nat := (gridOf ws).foldl (· * ·) 1

/-- Kernel header k of context c as the caddy holds it now, if it obeys R37, R38, R70 and R359. -/
def kernelHeader (s : State) (c : Nat) (x : Ctx) (k : Nat) : Option Kernel :=
  let w := fun i => caddyW s c (khoff x + 64 * k + 4 * i)
  let kcode := (w 0).toNat
  let klen := (w 1).toNat
  let kentry := (w 2).toNat
  let kreg := w 3
  let kmem := w 4
  let ksp := (w 5).toNat
  let ok :=
    decide (k < nkh x) && decide (kcode % 2 = 0 ∧ 1 ≤ klen ∧ klen ≤ 32768 ∧ kcode + 2 * klen ≤ codelen x ∧ kentry < klen) &&
    (List.range 10).all (fun i => decide (w (6 + i) = 0#32)) &&
    decide (field kreg 31 26 = 0 ∧ field kreg 25 22 ≤ 8 ∧ field kreg 21 19 ≤ 4 ∧ 1 ≤ field kreg 18 16 ∧ field kreg 18 16 ≤ 4) &&
    decide (field kreg 15 14 = 0 ∧ field kreg 13 8 ≤ 32 ∧ field kreg 7 6 = 0 ∧ 1 ≤ field kreg 5 0 ∧ field kreg 5 0 ≤ 32) &&
    decide (field kmem 31 24 = 0 ∧ field kmem 23 18 ≤ 32 ∧ field kmem 17 14 ≤ 8 ∧ field kmem 13 7 = 0 ∧ field kmem 6 0 ≤ 64) &&
    decide (ksp ≤ 2097152 ∧ ksp % 64 = 0) && (!x.share || decide (ksp ≤ 1048576))
  if ok then
    some { kcode := kcode, klen := klen, kentry := kentry, nsreg := field kreg 5 0, nvreg := field kreg 13 8
           npred := field kreg 18 16, ngrp := field kreg 21 19, nroute := field kreg 25 22, nslot := field kmem 6 0
           nacc := field kmem 17 14, nhnd := field kmem 23 18, ksp := ksp }
  else none

/-! ## Groups (R41 to R43) -/

/-- Words 0 and 1 of group g as the last seal copied them (R28). -/
def groupWord (x : Ctx) (g k : Nat) : Word := (tgetD x.groups g []).getD k 0#32

/-- A group of given words: FIRST, STRIDE, COUNT, TAG, VALID. -/
def gFirst (w0 : Word) : Nat := field w0 15 0
def gStride (w0 : Word) : Nat := field w0 31 16
def gCount (w1 : Word) : Nat := field w1 15 0
def gTag (w1 : Word) : Nat := field w1 18 16
def gValid (w1 : Word) : Bool := w1.getLsbD 31

/-- The index of core n in a group of words w0, w1 (R41). -/
def memberIndex (w0 w1 : Word) (n : Nat) : Option Nat :=
  if gValid w1 = true ∧ gFirst w0 ≤ n ∧ (n - gFirst w0) % gStride w0 = 0 ∧ (n - gFirst w0) / gStride w0 < gCount w1
  then some ((n - gFirst w0) / gStride w0) else none

/-- The index of partition-relative core n in group g of a sealed context. -/
def groupIndex (x : Ctx) (g n : Nat) : Option Nat := memberIndex (groupWord x g 0) (groupWord x g 1) n

/-- The members of group g in ascending order. -/
def groupMembers (x : Ctx) (g : Nat) : List Nat := (List.range (pcores x)).filter (fun n => (groupIndex x g n).isSome)

/-- The groups of core n in ascending group id. -/
def membershipsOf (x : Ctx) (n : Nat) : List (Nat × Nat) :=
  (List.range 256).filterMap (fun g => (groupIndex x g n).map (fun i => (g, i)))

/-- GRPA to GRPD of core n (R43). -/
def groupRegs (x : Ctx) (n : Nat) : List Word :=
  let l := (membershipsOf x n).map (fun e => BitVec.ofNat 32 (2 ^ 31 + e.2 * 256 + e.1))
  (l ++ List.replicate 4 0#32).take 4

/-- The member-set rule (R41) for an entry's four words. -/
def groupOk (cores : Nat) (w0 w1 w2 w3 : Word) : Bool :=
  decide (1 ≤ gStride w0 ∧ gStride w0 ≤ 8191 ∧ 1 ≤ gCount w1 ∧ gCount w1 ≤ 8192) &&
  decide (field w1 30 19 = 0 ∧ w2 = 0#32 ∧ w3 = 0#32 ∧ gFirst w0 + (gCount w1 - 1) * gStride w0 < cores)

/-! ## Sealing (R27, R28) -/

/-- Two areas (start, length) of the region have a byte in common. -/
def overlapArea (a b : Nat × Nat) : Bool := decide (0 < a.2 ∧ 0 < b.2 ∧ a.1 < b.1 + b.2 ∧ b.1 < a.1 + a.2)

/-- Some two areas of a list overlap. -/
def anyOverlap : List (Nat × Nat) → Bool
  | [] => false
  | a :: l => l.any (overlapArea a) || anyOverlap l

/-- The status of the seal command over header words h and the words of the group table (R28). An odd CODELEN gives 0x22, and 0x25 names
the lowest group at which some core passes four (log 49). -/
def sealStatus (x : Ctx) (h : Nat → Word) (grp : Nat → Nat → Word) : Nat :=
  let v := fun k => (h k).toNat
  if v 0 ≠ 0x43414459 ∨ v 1 = 0 ∨ 16777216 < v 1 ∨ v 3 = 0 ∨ 65536 < v 3 ∨ (List.range 7).any (fun i => v (9 + i) != 0) then 0x21
  else
    let areas := [(0, 64), (v 2, 128 * v 1), (v 4, 64 * v 3), (v 5, 16384), (v 6, 4096), (v 7, v 8)]
    if v 2 % 128 ≠ 0 ∨ v 4 % 64 ≠ 0 ∨ v 5 % 64 ≠ 0 ∨ v 6 % 64 ≠ 0 ∨ v 7 % 64 ≠ 0 ∨ v 8 % 2 ≠ 0
        ∨ areas.any (fun a => decide (x.clen < a.1 + a.2)) ∨ anyOverlap areas = true then 0x22
    else
      let valid := (List.range 256).filter (fun g => gValid (grp g 1))
      match valid.find? (fun g => !groupOk (pcores x) (grp g 0) (grp g 1) (grp g 2) (grp g 3)) with
      | some g => 0x23 + g * 256
      | none =>
        let cores := List.range (pcores x)
        let isIn := fun g n => (memberIndex (grp g 0) (grp g 1) n).isSome
        match valid.find? (fun g => valid.any (fun g' =>
            decide (g' < g) && decide (gTag (grp g' 1) = gTag (grp g 1)) && cores.any (fun n => isIn g n && isIn g' n))) with
        | some g => 0x24 + g * 256
        | none =>
          match valid.find? (fun g => cores.any (fun n =>
              isIn g n && decide (4 < (valid.filter (fun g' => decide (g' ≤ g) && isIn g' n)).length))) with
          | some g => 0x25 + g * 256
          | none => 0x00

/-- Seal context c: check, copy the header and the group entries, and set the phases of valid groups to 0 (R28, R43). -/
def sealCtx (s : State) (c : Nat) (x : Ctx) : State × Nat :=
  if anyLive x then (s, 0x26)
  else
    let h := fun k => caddyW s c (4 * k)
    let grp := fun g k => caddyW s c ((h 6).toNat + 16 * g + 4 * k)
    let st := sealStatus x h grp
    let s := openCaddy (openCaddy s c x 0 64) c x (h 6).toNat 4096
    if st = 0 then
      let valid := (List.range 256).filter (fun g => gValid (grp g 1))
      (setCtx s c { x with
        hdr := some ((List.range 16).map h)
        groups := (List.range 256).map (fun g => (g, [grp g 0, grp g 1]))
        gruns := valid.map (fun g => (g, { g := 0#16, arrived := [] })), cps := [] }, 0)
    else (s, st)

/-- The SEAL command. -/
def execSealPart (s : State) : Out :=
  serve s 0x11 .ownerOrBound true (fun s _ arg =>
    let c := (arg 0).toNat
    match ctxAt s c with
    | none => (s, 0x82, [])
    | some x =>
      let (s', st) := sealCtx s c x
      (s', st, []))

/-! ## Host writes through BAR2 (R18, R29, R72) -/

/-- Byte x of the region is a byte of STATUS or LASTSEQ of some record (R29). Before the first seal no record has a place, and no byte is
one (log 49). -/
def statusByte (x : Ctx) (b : Nat) : Bool :=
  x.hdr.isSome && decide (recoff x ≤ b ∧ b < recoff x + 128 * nrec x ∧ 0x74 ≤ (b - recoff x) % 128 ∧ (b - recoff x) % 128 < 0x7C)

/-- The code of a released or running record, as a byte range of the region (R72). -/
def liveCode (x : Ctx) (b : Nat) : Bool :=
  x.runs.any (fun e =>
    decide (codeoff x + e.2.kernel.kcode ≤ b ∧ b < codeoff x + e.2.kernel.kcode + 2 * e.2.kernel.klen))

/-- Write bytes from key k (byte b of the region) upwards, but for those of STATUS and LASTSEQ, which are dropped (R29). -/
def writeOpen (x : Ctx) (mem : Memory) : Nat → Nat → List Byte → Memory
  | _, _, [] => mem
  | k, b, v :: vs => writeOpen x (if statusByte x b then mem else mem.write k v) (k + 1) (b + 1) vs

/-- A write of n bytes from byte b of a caddy clears the poison of the granules that it replaces whole (R352). -/
def cleanCaddy (s : State) (c : Nat) (x : Ctx) (b n : Nat) : State :=
  { s with dpoison := s.dpoison.filter (fun g => !((List.range 16).all (fun i =>
      let k := 16 * (g - 2 ^ 34) + i
      decide (2 ^ 34 ≤ g ∧ caddyKey c b ≤ k ∧ k < caddyKey c b + n) && !statusByte x (k - caddyKey c 0)))) }

/-- A write of bytes at BAR2 offset off by master m. One that runs beyond the region is dropped whole; of one that meets STATUS or LASTSEQ
the other bytes are written; both are counted once (log 49). -/
def bar2Write (s : State) (m off : Nat) (bs : List Byte) : State :=
  let c := off / 2 ^ 30
  let b := off % 2 ^ 30
  match ctxAt s c with
  | none => countDenied s m
  | some x =>
    let offs := (List.range bs.length).map (fun i => b + i)
    if boundTo x m = false ∨ offs.any (fun o => decide (x.clen ≤ o)) = true then countDenied s m
    else if offs.any (liveCode x) = true then countDenied s m
    else
      let s := cleanCaddy (openCaddy { s with caddy := writeOpen x s.caddy off b bs } c x b bs.length) c x b bs.length
      let s := if offs.any (statusByte x) then countDenied s m else s
      if x.hdr.isSome = true ∧
          offs.any (fun o => !statusByte x o && decide (codeoff x ≤ o ∧ o < codeoff x + codelen x)) = true then
        updCtx s c (fun x => { x with cgen := x.cgen + 1 })
      else s

/-- What master m reads at BAR2 offset off (R18): the caddy's byte where the context is bound to that function, zero elsewhere. -/
def bar2Read (s : State) (m off : Nat) : Byte :=
  match ctxAt s (off / 2 ^ 30) with
  | some x => if boundTo x m = true ∧ off % 2 ^ 30 < x.clen then s.caddy.read off else 0#8
  | none => 0#8

/-- Master m reads n bytes from BAR2 offset off (R18): the rows of those that are the caddy's are left open (R410). -/
def bar2Access (s : State) (m off n : Nat) : State :=
  match ctxAt s (off / 2 ^ 30) with
  | some x =>
    let b := off % 2 ^ 30
    if boundTo x m = true ∧ b < x.clen then openCaddy s (off / 2 ^ 30) x b (min n (x.clen - b)) else s
  | none => s

/-- The BAR2_WRITE step: master input.who writes input.bytes at offset input.off. -/
def execBar2Write (s : State) : Out := .next (bar2Write s s.input.who s.input.off s.input.bytes)

end Sys2Proof.Machine
end

