-- ==== Sys2Proof/Machine/Slice.lean ====
section
/-! DEFINITION. The bits of an element in a slice (R158 to R161), and the counted waits of non-DET contexts, which test their element
after every update (R309). -/

namespace Sys2Proof.Machine

/-- Physical bank of logical bank b under BANKP (R159). -/
def bankOf (bankp b : Nat) : Nat := bankp / 2 ^ (3 * b) % 8

/-- The physical offset of slice offset b under BANKP (R159). -/
def physOff (bankp b : Nat) : Nat := b / 128 * 128 + bankOf bankp (b / 16 % 8) * 16 + b % 16

/-- Keys of the tables by logical core: a byte of a slice, a granule's metadata, a physical line's conflict word, a byte of a
channel. -/
def sliceKey (core off : Nat) : Nat := 2 ^ 21 * core + off
def granKey (core off : Nat) : Nat := 2 ^ 17 * core + off / 16
def lineKey (core off : Nat) : Nat := 2 ^ 15 * core + off / 64
def dramKey (core off : Nat) : Nat := 2 ^ 25 * core + off

/-- The first and the last byte of the w bits at bit address a, and all of them. -/
def firstByte (a : Nat) : Nat := a / 8
def lastByte (a w : Nat) : Nat := (a + w - 1) / 8
def elemBytes (a w : Nat) : List Nat := (List.range (lastByte a w - firstByte a + 1)).map (fun i => firstByte a + i)

/-- The w bits at bit address a of a space given byte by byte. -/
def readBits (f : Nat → Byte) (a w : Nat) : Nat :=
  (elemBytes a w).foldr (fun b acc => (f b).toNat + 256 * acc) 0 / 2 ^ (a % 8) % 2 ^ w

/-- Byte b of the space with the w bits at bit address a replaced by those of v. -/
def mixByte (old : Byte) (a w v b : Nat) : Byte :=
  BitVec.ofNat 8 ((List.range 8).foldl (fun acc k =>
    let bit := 8 * b + k
    let on := if a ≤ bit ∧ bit < a + w then v.testBit (bit - a) else old.getLsbD k
    acc + if on then 2 ^ k else 0) 0)

/-- The element of w bits at bit address a of a slice under a bank permutation. -/
def readAt (s : State) (home bankp a w : Nat) : Nat := readBits (fun b => s.slice.read (sliceKey home (physOff bankp b))) a w

/-- The condition of wait.cnt on a counter value (R309). -/
def countMet (v n : Word) : Bool := decide ((v - n).toNat < 2 ^ 31)

/-- After an update, the waiting wait.cnt of non-DET contexts test their elements (R309). -/
def testCounts (s : State) : State :=
  { s with counting := s.counting.map (fun e =>
      (e.1, { e.2 with met := e.2.met || countMet (word (readAt s e.2.home e.2.bankp e.2.bitAdr 32)) e.2.thresh })) }

/-- Write the element of w bits at bit address a of a slice. -/
def writeAt (s : State) (home bankp a w v : Nat) : State :=
  testCounts ((elemBytes a w).foldl (fun s b =>
    let k := sliceKey home (physOff bankp b)
    { s with slice := s.slice.write k (mixByte (s.slice.read k) a w v b) }) s)

end Sys2Proof.Machine
end

