-- ==== Sys2Proof/Machine/Sched.lean ====
section
/-! DEFINITION. The scheduler: arming, dependences, release, the start scan, placement, the end of tasks and records, and
windows (02, 03, R34 to R36, R51 to R64). -/

namespace Sys2Proof.Machine

/-! ## Arming (R35, R51, R52) -/

/-- The result of an arm procedure: 0 accepted, or a rejection cause. -/
def armCheck (s : State) (c : Nat) (x : Ctx) (i : Nat) (seq : Word) : Nat :=
  if nrec x ≤ i then 0x6
  else if liveState (recState s c x i) then (if seq = recWord s c x i 30 then 0x6 else 0x3)
  else if seq ≠ recWord s c x i 0 then 0x6
  else if crc32c (wordsBytes (recWords s c x i)) ≠ recWord s c x i 31 then 0x5
  else 0

/-- An accepted arming (R35, R52): LASTSEQ, STATUS, and a PENDING journal entry with the next acceptance number. -/
def acceptArm (s : State) (c : Nat) (x : Ctx) (i : Nat) (seq : Word) : State :=
  let s := setStatus (setRecWord s c x i 30 seq) c x i 0 0 1
  setCtx s c { x with
    journal := x.journal ++ [{ number := x.nextAcc, ridx := i, seq := seq, outcome := .pending, deps := [] }]
    nextAcc := x.nextAcc + 1 }

/-! ## Dependences (R32, R54) -/

/-- How a dependence stands. -/
inductive DepState where
  | absent | bad | satisfied | failed | waits
deriving DecidableEq, Repr

/-- The most recent journal entry of record i with SEQ q decides (R54). -/
def judge (x : Ctx) (i : Nat) (q : Word) : DepState :=
  match x.journal.reverse.find? (fun j => decide (j.ridx = i) && decide (j.seq = q)) with
  | none => .waits
  | some j =>
    match j.outcome with
    | .done => .satisfied
    | .failed => .failed
    | .pending => .waits

/-- Dependence k of an arming whose resolved dependences are known. -/
def depState (x : Ctx) (own : Nat) (ws : Nat → Word) (known : List (Nat × Bool)) (k : Nat) : DepState :=
  let d := ws (12 + 2 * k)
  if d.getLsbD 31 = false then .absent
  else if nrec x ≤ field d 23 0 ∨ field d 23 0 = own then .bad
  else
    match known.find? (fun e => e.1 == k) with
    | some (_, true) => .satisfied
    | some (_, false) => .failed
    | none => judge x (field d 23 0) (ws (13 + 2 * k))

/-! ## Release (R34, R36, R37) -/

def clBase (ws : Nat → Word) : Nat := field (ws 4) 15 0
def clCount (ws : Nat → Word) : Nat := field (ws 4) 31 16
def prioOf (ws : Nat → Word) : Nat := field (ws 1) 7 4

/-- The must-be-zero bits of a record (R29, R30, R32, R33). -/
def recordZeros (ws : Nat → Word) : Bool :=
  decide (field (ws 1) 15 8 = 0 ∧ field (ws 1) 3 1 = 0 ∧ field (ws 5) 15 8 = 0) &&
  decide (field (ws 28) 1 0 = 0 ∧ field (ws 28) 31 28 = 0) &&
  (List.range 4).all (fun k =>
    let d := ws (12 + 2 * k)
    if d.getLsbD 31 then decide (field d 30 24 = 0) else decide (d = 0#32 ∧ ws (13 + 2 * k) = 0#32))

/-- The release checks in the order of R34's table; 0 when all pass. bad and failed tell of the dependences. -/
def releaseCause (s : State) (c : Nat) (x : Ctx) (i : Nat) (bad failed : Bool) : Nat :=
  let ws := recWord s c x i
  if (kernelHeader s c x (field (ws 1) 31 16)).isNone then 0x1
  else if (gridOf ws).contains 0 = true ∨ 16777215 < tileCount ws then 0x2
  else if clCount ws = 0 ∨ x.pcount < clBase ws + clCount ws then 0x3
  else if (ws 1).getLsbD 0 = x.det then 0x4
  else if (ws 8).toNat < 256 ∨ 65536 < (ws 8).toNat ∨ recordZeros ws = false then 0x5
  else if crc32c (wordsBytes (recWords s c x i)) ≠ ws 31 then 0x6
  else if bad then 0x7
  else if failed then 0x8
  else if x.share = true ∧ decide (8 ≤ prioOf ws) ≠ x.cls then 0xB
  else 0

/-- The 256 layout entries as the caddy holds them (R47). -/
def layoutCopy (s : State) (c : Nat) (x : Ctx) : Table Word :=
  (List.range 4096).filterMap (fun k =>
    let w := caddyW s c (layoff x + 4 * k)
    if w = 0#32 then none else some (k, w))

/-- The copy that a release makes of record i (R36, R47), whose kernel header is k. -/
def copyNow (s : State) (c : Nat) (x : Ctx) (i : Nat) (k : Kernel) : Kept :=
  { copy := recWords s c x i, kernel := k, layouts := layoutCopy s c x }

/-- The run of a record that is released now with a copy (R36). -/
def newRun (k : Kept) (accNo : Nat) : Run :=
  { copy := k.copy, kernel := k.kernel, layouts := k.layouts, accNo := accNo, running := false, window := 0, cycles := 0
    tqc := 0, tqreqs := [], anns := [], deliver := [], stopw := none, fatals := [], ntrap := 0, counters := [] }

/-- The outcome of the live arming of record i is entered in the journal. -/
def journalEnd (x : Ctx) (i : Nat) (o : Outcome3) : Ctx :=
  { x with journal := x.journal.map (fun j => if j.ridx = i ∧ j.outcome = .pending then { j with outcome := o } else j) }

/-- The clusters of a record's run, as logical clusters. -/
def runClusters (x : Ctx) (u : Run) : List Nat :=
  let ws := fun k => u.copy.getD k 0#32
  (List.range (clCount ws)).map (fun j => x.pbase + clBase ws + j)

/-- The logical cores that a record's run holds. -/
def runCores (x : Ctx) (u : Run) : List Nat := (runClusters x u).flatMap (fun k => (List.range 8).map (fun j => 8 * k + j))

/-- One granule's marks without those of record r of context c; the full bit falls with the last mark (R283). -/
def unmark (s : State) (c r : Nat) : State :=
  s.marks.foldl (fun s e =>
    let rest := e.2.filter (fun k => !(decide (k.1 = c) && decide (k.2.1 = r)))
    if rest.length = e.2.length then s
    else if rest = [] then
      { s with marks := tdel s.marks e.1, gmeta := s.gmeta.write e.1 (s.gmeta.read e.1 &&& 0x7F#8) }
    else { s with marks := tset s.marks e.1 rest }) s

/-- Core k holds a task of record r of context c, or is to start one. -/
def servesRun (k : Core) (c r : Nat) : Bool := (k.task.toList ++ k.next.toList).any (fun t => decide (t.ctx = c ∧ t.ridx = r))

/-- The tasks of a record that ends add their shadows (R53, R395). -/
def addShadows (s : State) (c r : Nat) (x : Ctx) (u : Run) : State :=
  (runCores x u).foldl (fun s n => if servesRun (coreAt s n) c r then addShadow s n else s) s

/-- The whole accumulator of a record (R395). -/
def Run.total (u : Run) : Table Counter := u.ended.foldl (fun a e => mergeCounters a e.2) u.counters

/-- The clusters of a record fall free; its cores hold no task, its marks are removed (R57, R283), and its signals are dropped, parked
(R305) or on their way (log 44). -/
def freeRun (s : State) (c : Nat) (x : Ctx) (r : Nat) (u : Run) : State :=
  let s := unmark s c r
  let s := (runClusters x u).foldl (fun s k =>
    if (clusterAt s k).holder = some (c, r) then
      updCluster s k (fun y => { y with holder := none, gang := none, parked := [], flying := [] })
    else s) s
  (runCores x u).foldl (fun s n =>
    if servesRun (coreAt s n) c r then
      updCore (withdraw s n) n (fun k => { k with task := none, next := none, wait := none, trap := none, inflight := [], overlay := [] })
    else s) s

/-- Record i of context c becomes FAILED with a cause (R34, R53). The record accumulator joins the context counters (R395). -/
def failRecord (s : State) (c i cause : Nat) : State :=
  match ctxAt s c with
  | none => s
  | some x =>
    let nd := recNdone s c x i
    let s := setStatus s c x i nd cause 5
    match runAt x i with
    | none => setCtx s c (journalEnd x i .failed)
    | some u =>
      let s := freeRun (addShadows s c i x u) c x i u
      updCtx s c (fun x =>
        let x := journalEnd x i .failed
        { x with
          runs := tdel x.runs i
          counters := mergeCounters x.counters (((runAt x i).map Run.total).getD [])
          queues := x.queues.map (fun e => (e.1, e.2.filter (fun r => r != i))) })

/-- Resolved dependences of the live arming of record i are remembered (R54). -/
def rememberDeps (x : Ctx) (i : Nat) (ws : Nat → Word) : Ctx :=
  { x with journal := x.journal.map (fun j =>
      if j.ridx = i ∧ j.outcome = .pending then
        { j with deps := (List.range 4).filterMap (fun k =>
            match depState x i ws j.deps k with
            | .satisfied => some (k, true)
            | .failed => some (k, false)
            | _ => none) }
      else j) }

/-- Record i is released with a copy onto the queue of its level (R36, R55). -/
def releaseRecord (s : State) (c : Nat) (x : Ctx) (i accNo : Nat) (k : Kept) : State :=
  setCtx (setStatus s c x i 0 0 2) c { x with
    runs := tset x.runs i (newRun k accNo)
    queues := tmod x.queues (prioOf (fun w => k.copy.getD w 0#32)) [] (fun q => q ++ [i])
    journal := x.journal.map (fun j => if j.number = accNo then { j with kept := none } else j) }

/-- The release of record i reads its words, its kernel header and the layout table (R410). -/
def openRelease (s : State) (c : Nat) (x : Ctx) (i : Nat) : State :=
  openCaddy (openCaddy (openRec s c x i) c x (khoff x + 64 * field (recWord s c x i 1) 31 16) 64) c x (layoff x) 16384

/-- Judge the ARMED record i (DEPENDENCE_EVALUATION, RECORD_RELEASE): it waits, fails, or is released onto the queue of its
level. While the owner's PREEMPT holds the context none is released (R66; log 21). An arming that a warm reset has returned to ARMED is
released with the copy of its release (R36, R65). -/
def evalRecord (s : State) (c : Nat) (j : JEntry) : State :=
  match ctxAt s c with
  | none => s
  | some x =>
    let i := j.ridx
    let held := x.holds.contains .preempt
    if recState s c x i ≠ 1 then s
    else
      match j.kept with
      | some k => if held then s else releaseRecord s c x i j.number k
      | none =>
        let ws := recWord s c x i
        let ds := (List.range 4).map (depState x i ws j.deps)
        let x := rememberDeps x i ws
        let bad := ds.contains .bad
        let failed := ds.contains .failed
        let s := openRec s c x i
        if (ds.contains .waits || held) = true ∧ bad = false ∧ failed = false then setCtx s c x
        else
          let s := openRelease s c x i
          match releaseCause s c x i bad failed, kernelHeader s c x (field (ws 1) 31 16) with
          | 0, some k => releaseRecord s c x i j.number (copyNow s c x i k)
          | _, _ => failRecord (setCtx s c x) c i (releaseCause s c x i bad failed)

/-- One evaluation pass over the live armings in ascending acceptance number (R54, R55). -/
def evalPass (s : State) (c : Nat) : State :=
  match ctxAt s c with
  | none => s
  | some x => (x.journal.filter (fun j => decide (j.outcome = .pending))).foldl (fun s j => evalRecord s c j) s

/-- Passes until no further record can change (a record that fails lets others be judged): at most one per live arming. -/
def evalPasses : Nat → State → Nat → State
  | 0, s, _ => s
  | k + 1, s, c => evalPasses k (evalPass s c) c

/-! ## The start scan and placement (R55 to R59) -/

/-- The effective level of a context (R55). -/
def levelOf (x : Ctx) : Option Nat :=
  let l := x.runs.map (fun e => prioOf (fun k => e.2.copy.getD k 0#32))
  if l = [] then none else some (l.foldl max 0)

/-- Two partitions have a cluster in common. -/
def overlapCtx (x y : Ctx) : Bool := decide (x.pbase < y.pbase + y.pcount ∧ y.pbase < x.pbase + x.pcount)

/-- The contexts that share clusters with context c (R50). -/
def rivals (s : State) (c : Nat) (x : Ctx) : List (Nat × Ctx) := s.ctxs.filter (fun e => e.1 != c && overlapCtx x e.2)

/-- Level order: no level is below every level. -/
def levelKey (x : Ctx) : Nat :=
  match levelOf x with
  | some l => l + 1
  | none => 0

/-- Context c may start records: it is not halted, and no rival has the shared clusters (R56). -/
def mayRun (s : State) (c : Nat) (x : Ctx) : Bool :=
  decide (x.halt = .running) && !(rivals s c x).any (fun e => e.2.active)

/-- Among waiting rivals the highest effective level runs first, and a tie goes to the lower number (R56). A rival that is held waits as
well (log 31). -/
def firstTurn (s : State) (c : Nat) (x : Ctx) : Bool :=
  !(rivals s c x).any (fun e => decide (levelKey x < levelKey e.2) || (decide (levelKey x = levelKey e.2) && decide (e.1 < c)))

/-- Load the code of a run into the instruction memory of a core, unless it is resident (R71). -/
def loadCode (s : State) (c : Nat) (x : Ctx) (u : Run) (n : Nat) : State :=
  let im : Image := { ctx := c, kcode := u.kernel.kcode, klen := u.kernel.klen, cgen := x.cgen }
  let k := coreAt s n
  if k.image = some im then s
  else
    let parcels := (List.range u.kernel.klen).filterMap (fun j =>
      let p := BitVec.ofNat 16 (readLE s.caddy (caddyKey c (codeoff x + u.kernel.kcode + 2 * j)) 2)
      if p = 0#16 then none else some (j, p))
    setCore (openCaddy s c x (codeoff x + u.kernel.kcode) (2 * u.kernel.klen)) n { k with image := some im, imem := parcels }

/-- The handler memory of a core holds what HLOAD gave the context (R345). -/
def loadHandler (s : State) (x : Ctx) (n : Nat) : State :=
  updCore s n (fun k => { k with hmem := x.hcode.zipIdx.map (fun e => (e.2, e.1)), hlen := x.hcode.length })

/-- Task t of a run, on a core of wave w. -/
def mkTask (c r : Nat) (ws : Nat → Word) (t w : Nat) : Task :=
  let e := gridOf ws
  let e0 := e.getD 0 1
  let e1 := e.getD 1 1
  let e2 := e.getD 2 1
  { ctx := c, ridx := r, t := t, wave := w, c0 := t % e0, c1 := t / e0 % e1, c2 := t / (e0 * e1) % e2, c3 := t / (e0 * e1 * e2) }

/-- The task that core j of a run (counted from its first core) gets in wave w, if there is one (R59). -/
def taskAt (c r : Nat) (ws : Nat → Word) (j w : Nat) : Option Task :=
  let t := w * (8 * clCount ws) + j
  if t < tileCount ws then some (mkTask c r ws t w) else none

/-- RECORD_START (R57, R71): the record runs, takes its clusters, code is loaded, wave 0 is placed. -/
def startRecord (s : State) (c : Nat) (x : Ctx) (r : Nat) (u : Run) : State :=
  let ws := fun k => u.copy.getD k 0#32
  let s := setStatus s c x r 0 0 3
  let s := setCtx s c { x with
    runs := tset x.runs r { u with running := true }, active := true
    queues := x.queues.map (fun e => (e.1, e.2.filter (fun k => k != r))) }
  let s := (runClusters x u).foldl (fun s k => updCluster s k (fun y =>
    { y with holder := some (c, r), events := [], parked := [], flying := [] })) s
  ((runCores x u).zipIdx).foldl (fun s e =>
    let s := loadHandler (loadCode s c x u e.1) x e.1
    updCore s e.1 (fun k => { k with task := none, next := taskAt c r ws e.2 0, count := 0, sent := [], wait := none, trap := none, cr := { k.cr with quant := ws 8 } })) s

/-- One pass over the queued records of a context in scan order; held is the list of clusters reserved so far (R57). -/
def scanList : List Nat → List Nat → State → Nat → State
  | [], _, s, _ => s
  | r :: rest, held, s, c =>
    match ctxAt s c with
    | none => s
    | some x =>
      match runAt x r with
      | none => scanList rest held s c
      | some u =>
        let ks := runClusters x u
        if ks.all (fun k => (clusterAt s k).holder.isNone && !held.contains k) then
          scanList rest held (startRecord s c x r u) c
        else scanList rest (held ++ ks) s c

/-- The records of a context in scan order: levels 15 down to 0, each from head to tail. -/
def scanOrder (x : Ctx) : List Nat := ((List.range 16).reverse).flatMap (fun l => tgetD x.queues l [])

/-- The context waits for clusters that rivals have: it has not started, or it is spilled, and nobody else holds it. -/
def awaitsTurn (x : Ctx) : Bool :=
  (decide (x.halt = .running ∧ scanOrder x ≠ []) && !x.active && x.holds.isEmpty) ||
    (decide (x.halt = .spilled) && x.holds.all (fun h => decide (h = .context)))

/-- Context x pre-empts a running context y (R56): its level is in the pre-empting class and strictly higher. -/
def preempts (x y : Ctx) : Bool := decide (9 ≤ levelKey x ∧ levelKey y < levelKey x)

/-- The start scan (START_SCAN): for every context that may run; a context that may not has the pre-emption of each rival requested that
runs and that it pre-empts (R56). -/
def scanCtx (s : State) (c : Nat) : State :=
  match ctxAt s c with
  | none => s
  | some x =>
    let lower := (rivals s c x).filter (fun e => e.2.active && decide (e.2.halt = .running) && preempts x e.2)
    if x.holds.contains .preempt then s
    else if x.halt = .running ∧ (x.active = true ∨ (mayRun s c x = true ∧ firstTurn s c x = true)) then
      scanList (scanOrder x) [] s c
    else if awaitsTurn x then
      lower.foldl (fun s e => updCtx s e.1 (fun y =>
        if y.preq.contains .context ∨ y.holds.contains .context then y else { y with preq := y.preq ++ [.context] })) s
    else s

/-- A context without a released or running record gives up its clusters, and no other context pre-empts it (R56, R69). -/
def dropIdle (s : State) : State :=
  { s with ctxs := s.ctxs.map (fun e =>
      if e.2.runs = [] then
        (e.1, { e.2 with active := false, preq := e.2.preq.filter (fun h => decide (h ≠ .context)), holds := e.2.holds.filter (fun h => decide (h ≠ .context)) })
      else e) }

/-- A rival that waits pre-empts context c, which runs (R56). -/
def outranked (s : State) (c : Nat) (x : Ctx) : Bool := x.active && (rivals s c x).any (fun e => awaitsTurn e.2 && preempts e.2 x)

/-- The scan over all contexts. -/
def scanAll (s : State) : State := ((dropIdle s).ctxs.map Prod.fst).foldl scanCtx (dropIdle s)

/-- Dependence evaluation of context c, then the start scan (R69). -/
def reschedule (s : State) (c : Nat) : State :=
  match ctxAt s c with
  | none => scanAll s
  | some x => scanAll (evalPasses (x.journal.filter (fun j => decide (j.outcome = .pending))).length s c)

/-- Arm record i of context c with SEQ seq (R35, R51): the result and the state. THERM does not refuse a task's arming, since R51 has no
result for it (log 56). -/
def armRecord (s : State) (c i : Nat) (seq : Word) : State × Nat :=
  match ctxAt s c with
  | none => (s, 0x4)
  | some x =>
    let r := armCheck s c x i seq
    let s := if i < nrec x then openRec s c x i else s
    if r = 0 then (reschedule (acceptArm s c x i seq) c, 0) else (s, r)

/-- Record a rejection in ARMSTAT (R21). -/
def armReject (s : State) (m cause : Nat) : State := updMaster s m (fun x => { x with armCause := BitVec.ofNat 4 cause })

/-- A write to ARM by master m (R12, R16, R20, R21, R35). A malformed write is judged before the permission, the permission before
THERM, and THERM before the context and its seal (logs 40, 49). -/
def armWrite (s : State) (m : Nat) (v : BitVec 64) (aligned : Bool) : State :=
  let c := (v.extractLsb' 0 6).toNat
  let i := (v.extractLsb' 8 24).toNat
  if s.mgmt.ready = false then armReject (countDenied s m) m 0x2
  else if aligned = false ∨ v.extractLsb' 6 2 ≠ 0#2 then armReject s m 0x1
  else
    let x := ctxAt s c
    let may := isOwner s m || (match x with
      | some x => boundTo x m
      | none => false)
    if may = false then armReject (countDenied s m) m 0x3
    else if s.mgmt.therm then armReject s m 0x2
    else
      match x with
      | none => armReject s m 0x4
      | some x =>
        if x.hdr.isNone then armReject s m 0x4
        else
          let (s', r) := armRecord s c i (v.extractLsb' 32 32)
          if r = 0 then updMaster s' m (fun y => { y with ack := y.ack + 1#24 }) else armReject s' m r

/-- The ARM step: input.value is the word, input.flag that it came as one aligned 64-bit write. -/
def execArm (s : State) : Out := .next (armWrite s s.input.who s.input.value s.input.flag)

/-! ## The end of tasks and records (R53, R59, R124, R395) -/

/-- A record is DONE (RECORD_DONE): STATUS, DONESEQ, journal, counters, clusters; then dependences and the scan. -/
def doneRecord (s : State) (c r : Nat) : State :=
  match ctxAt s c with
  | none => s
  | some x =>
    match runAt x r with
    | none => s
    | some u =>
      let s := setStatus s c x r (recNdone s c x r) 0 4
      let s := freeRun s c x r u
      let x := journalEnd x r .done
      let s := setCtx s c { x with
        runs := tdel x.runs r, doneseq := tset x.doneseq r (u.copy.getD 0 0#32)
        counters := mergeCounters x.counters u.total }
      reschedule s c

/-- The state of a core's units that a task leaves behind: what R40 gives the next task anew. -/
def clearTask (k : Core) : Core :=
  { k with
    task := none, wait := none, trap := none, inflight := [], opbuf := [], priv := false, iact := false, timerHnd := false
    timerDue := false, gcount := 0, intr := [], arrived := [], cwait := none, join := none, mutexes := [], counters := []
    overlay := [], tags := k.tags.map (fun e => (e.1, { words := match e.2.words with
      | w :: l => (w &&& 0x3FFFFFFF#32) :: l
      | [] => [] })) }

/-- Insert the place of a HELD bit, its byte and its bit, in ascending address. -/
def insertHeld (m : Nat × Nat) : List (Nat × Nat) → List (Nat × Nat)
  | [] => [m]
  | p :: l => if 8 * m.1 + m.2 ≤ 8 * p.1 + p.2 then m :: p :: l else p :: insertHeld m l

/-- Every mutex that core n holds is released, in ascending word address (R310): its HELD bit falls. -/
def releaseMutexes (s : State) (n : Nat) : State :=
  let s := ((coreAt s n).mutexes.foldr insertHeld []).foldl (fun s m =>
    testCounts { s with slice := s.slice.write m.1 (s.slice.read m.1 &&& ~~~(1#8 <<< m.2)) }) s
  updCore s n (fun c => { c with mutexes := [] })

/-- The key of what a core has sent for a pair of ranks in a wave (R332). -/
def sentKey (wave pair : Nat) : Nat := 2 ^ 64 * wave + pair

/-- What core n of context c has sent in the waves that f selects is taken back from the sequence numbers of its pairs, or counted in
them again. -/
def countSent (s : State) (c n : Nat) (f : Nat → Bool) (change : Word → Word → Word) : State :=
  updCtx s c (fun x =>
    { x with pseq := ((coreAt s n).sent.filter (fun e => f (e.1 / 2 ^ 64))).foldl (fun t e =>
        tset t (e.1 % 2 ^ 64) (change (tgetD t (e.1 % 2 ^ 64) 0#32) (word e.2))) x.pseq })

/-- The task that follows task t on its core, core j of the run (R59): that of the next wave or, after a task that ran again, that in
which the core stood (R267). -/
def nextTask (t : Task) (ws : Nat → Word) (j : Nat) : Option Task :=
  match t.after with
  | [] => taskAt t.ctx t.ridx ws j (t.wave + 1)
  | (w, b) :: l => (taskAt t.ctx t.ridx ws j w).map (fun v => { v with rerun := b, after := l })

/-- What the core has sent in the waves that it does not run again counts again (R332). -/
def passWaves (s : State) (t : Task) (n : Nat) : State :=
  match t.after with
  | [] => s
  | (w, _) :: _ => countSent s t.ctx n (fun k => decide (t.wave < k ∧ k < w)) (· + ·)

/-- A task of core n has retired task.end (R124): the shadow joins the record accumulator (R395), the gang ends, the next task
is placed, and NDONE rises by one. -/
def endTask (s : State) (n : Nat) : State :=
  match taskEnv s n with
  | none => s
  | some (t, x, u) =>
    let s := passWaves (addShadow (releaseMutexes (dissolve s n) n) n) t n
    let k := coreAt s n
    let ws := fun i => u.copy.getD i 0#32
    let j := prel x n - 8 * clBase ws
    let s := setCore s n { clearTask k with count := k.count + 1, next := nextTask t ws j }
    match ctxAt s t.ctx with
    | none => s
    | some x =>
      let nd := recNdone s t.ctx x t.ridx + 1
      let s := setStatus s t.ctx x t.ridx nd 0 3
      if nd = tileCount ws ∧ u.fatals = [] then doneRecord s t.ctx t.ridx else s

/-- Defaults of the watchdog budgets (R357). -/
def tfwdDefault : Word := 0x00100000#32
def qwdDefault : Word := 0x00400000#32
def swdDefault : Word := 0x01000000#32

/-- A budget word: zero selects the default (R29, R110, R357). -/
def budget (w d : Word) : Word := if w = 0#32 then d else w

/-- The state of R40 for a task that starts on core n. -/
def startState (k : Core) (x : Ctx) (u : Run) (t : Task) (n : Nat) : Core :=
  let ws := fun i => u.copy.getD i 0#32
  { k with
    task := some t, next := none
    pc := BitVec.ofNat 32 (u.kernel.kcode + 2 * u.kernel.kentry)
    s := ((Vector.replicate 32 0#32).setIfInBounds 1 (word t.c0)).setIfInBounds 2 (word t.c1)
    bank := Vector.replicate 8 0#32, v := Vector.replicate 32 0#256, p := Vector.replicate 4 0#32
    cr := { CtlRegs.reset with
      hbase := (ws 5) &&& 0xFF#32, memb := (ws 5) >>> 16, coord2 := word t.c2, coord3 := word t.c3
      seedlo := ws 6, seedhi := ws 7, quant := ws 8, tfwd := budget (ws 9) tfwdDefault, qwd := budget (ws 10) qwdDefault
      swd := budget (ws 11) swdDefault
      grp := ⟨#[(groupRegs x (prel x n)).getD 0 0#32, (groupRegs x (prel x n)).getD 1 0#32,
                (groupRegs x (prel x n)).getD 2 0#32, (groupRegs x (prel x n)).getD 3 0#32], rfl⟩
      detm := if x.det then 1#32 else 0#32 }
    priv := false, iact := false, timerHnd := false, timerDue := false, gcount := 0, acount := 0, seq := 0, xcount := 0
    inflight := [], opbuf := [], wait := none, trap := none, afaults := [], overlay := [], shadow := [], cmds := [], dones := []
    intr := [], slots := [], tags := [], acc := [], accPoison := [], opcache := [], join := none, arrived := [], cwait := none, mutexes := [], lastSrc := 0xFFFFFFFF#32
    counters := [], delaySum := [], delayNum := [], cyc := 0, dbgHeld := false, reply := none }

/-- The strainer's results of a task attempt on core n (R388): kept where the task runs again, else empty. -/
def freshReplay (s : State) (n : Nat) (t : Task) (u : Run) : State :=
  updOpt s t.ctx (clusterOf n) (fun o =>
    { o with replay :=
        match tget o.replay n with
        | some r =>
          if t.rerun = true ∧ r.ridx = t.ridx ∧ r.accNo = u.accNo ∧ r.t = t.t then tset o.replay n { r with taken := 0 }
          else tdel o.replay n
        | none => o.replay })

/-- TASK_START: the core begins the task placed on it. In a record with a fatal trap it does so only in a window up to STOPW
(R350; log 44). -/
def startTask (s : State) (n : Nat) : State :=
  let k := coreAt s n
  match k.task, k.next with
  | none, some t =>
    match ctxAt s t.ctx with
    | none => s
    | some x =>
      match runAt x t.ridx with
      | none => s
      | some u => if issuing x = true ∧ s.failed.contains n = false ∧ u.running = true ∧ inStop x u k = true then setCore (freshReplay s n t u) n (startState k x u t n) else s
  | _, _ => s

/-- The TASK_START step of core input.who. -/
def execTaskStart (s : State) : Out := .next (startTask s s.input.who)

/-! ## Stop of a record with a fatal trap (R350) -/

/-- The order of fatal traps: window, core, EPC, lane. -/
def fatalLe (a b : Fatal) : Bool :=
  decide (a.window < b.window ∨ (a.window = b.window ∧ (a.core < b.core ∨ (a.core = b.core ∧
    (a.epc.toNat < b.epc.toNat ∨ (a.epc = b.epc ∧ a.lane ≤ b.lane))))))

/-- The least of a list of fatal traps. -/
def leastFatal : List Fatal → Option Fatal
  | [] => none
  | f :: l =>
    match leastFatal l with
    | none => some f
    | some g => if fatalLe f g then some f else some g

/-- A card of core n that the run issued is queued or running. -/
def recordCards (x : Ctx) (r : Nat) (u : Run) (n : Nat) : Bool :=
  let k := optAt x (clusterOf n)
  (k.queue ++ k.running.toList).any (fun c => decide (c.ref.core = n ∧ c.ref.ridx = r ∧ c.ref.accNo = u.accNo))

/-- The words of event 0x70 (R350). -/
def fatalEvent (c r : Nat) (u : Run) (f : Fatal) : Event :=
  let ws : List Word :=
    [0x70#32, word (c % 64 * 2 ^ 24 + r), u.copy.getD 0 0#32, word f.t, word ((if f.privlvl then 2 ^ 31 else 0) + f.core % 2 ^ 16),
     word f.window, f.epc, f.ecause, f.einfo, f.extra, word u.ntrap]
  mkEvent (ws ++ [crc32c (wordsBytes ws)])

/-! ## Windows (R62, R63) -/

/-- Core n of a run has passed window w: it has retired (w + 1) QUANT instructions, or has no further task (R62), or waits in
wait.cnt (R309). -/
def passed (s : State) (w n : Nat) : Bool :=
  let k := coreAt s n
  (match k.cwait with
    | some q => q.res.isNone
    | none => false) ||
  (k.task.isNone && k.next.isNone) || (k.task.isSome && decide ((w + 1) * k.cr.quant.toNat ≤ k.count)) ||
    (k.task.isNone && k.next.isSome && decide ((w + 1) * k.cr.quant.toNat ≤ k.count))

/-- A wait of an access on its way to its home or at it (R164, R167 to R170, R172, R295). -/
def accessWait (k : WaitKind) : Bool := [WaitKind.bank, .fullEmpty, .version, .reclaim, .phase, .ticketLoad].contains k

/-- An operation of core n of window w or an earlier one is not performed (R282): it is on its way to its home, or waits there. -/
def unperformed (s : State) (w n : Nat) : Bool :=
  match (coreAt s n).wait with
  | some q => accessWait q.kind && decide (q.mark ≤ w)
  | none => false

/-- What the participants have issued up to window w is performed. -/
def settledTo (s : State) (x : Ctx) (u : Run) (w : Nat) : Bool := !(runCores x u).any (unperformed s w)

/-- The open window of a run may close (R62): in a non-DET context window w at cycle 64 (w + 1). -/
def windowReady (s : State) (x : Ctx) (u : Run) : Bool :=
  decide (x.halt = .running) && u.running &&
  (if x.det then (runCores x u).all (passed s u.window) else decide (64 * (u.window + 1) ≤ u.cycles))

/-- The close of the open window performs operation a: it is of that window or of an earlier one, and what the participants have issued up
to its own window is performed (R282; log 54). -/
def annDue (s : State) (x : Ctx) (u : Run) (a : Ann) : Bool := decide (a.win ≤ u.window) && settledTo s x u a.win

/-- A result of a window close reaches its core (R62): the pending result of that register, in its bank (R346), takes its value and
completes. -/
def deliverOne (s : State) (n : Nat) (d : Delivery) : State :=
  updCore s n (fun k =>
    match k.inflight.findIdx? (fun p => decide (p.kind = .window) && !p.done && p.writes.any (fun w =>
        match w with
        | .s r _ b => decide (r = d.dest ∧ b = d.bank)
        | _ => false)) with
    | none => k
    | some i =>
      let p := k.inflight.getD i { kind := .window, pidx := 0, look := 0, dist := 0, regs := [], writes := [], flags := 0
                                   counts := [], done := true }
      let ws := p.writes.map (fun w =>
        match w with
        | .s r _ b => .s r d.val b
        | w => w)
      prune { finish k { p with writes := ws } with inflight := k.inflight.set i { p with done := true } })

/-- WINDOW_RESULT_DELIVERY: the results of a closed window reach every core. -/
def deliverAll (s : State) (c r : Nat) : State :=
  match ctxAt s c with
  | none => s
  | some x =>
    match runAt x r with
    | none => s
    | some u =>
      if moving x = false then s
      else
      let s := u.deliver.foldl (fun s d => deliverOne s (logical x d.core) d) s
      let s := (runCores x u).foldl (fun s n =>
        match (coreAt s n).cwait with
        | some q => if q.res.isSome then updCore s n (fun c => { c with cwait := some { q with ready := true } }) else s
        | none => s) s
      updRun s c r (fun u => { u with deliver := [] })

/-- The WINDOW_RESULT_DELIVERY step: context input.who, record input.sub. -/
def execWindowResultDelivery (s : State) : Out := .next (deliverAll s s.input.who s.input.sub)

/-- The grants of the requests of a window, in core order and program order (R64). -/
def grantAll : List TqReq → Nat → List Delivery × Nat
  | [], tqc => ([], tqc)
  | q :: l, tqc =>
    let (v, tqc') := if 0xFFFFFFFF < tqc + q.m then (0xFFFFFFFF#32, tqc) else (word tqc, tqc + q.m)
    let (ds, t) := grantAll l tqc'
    ({ core := q.core, dest := q.dest, bank := q.bank, val := v } :: ds, t)

/-- Insert a request in grant order: requests of one core keep the order of its program. -/
def insertReq (q : TqReq) : List TqReq → List TqReq
  | [] => [q]
  | p :: l => if q.core ≤ p.core then q :: p :: l else p :: insertReq q l

/-- Requests in grant order. -/
def sortReqs (l : List TqReq) : List TqReq := l.foldr insertReq []

/-- TQ_GRANT at the close of the open window. -/
def grantWindow (u : Run) : Run :=
  let now := sortReqs (u.tqreqs.filter (fun q => decide (q.win ≤ u.window)))
  let (ds, t) := grantAll now u.tqc
  { u with tqreqs := u.tqreqs.filter (fun q => decide (u.window < q.win)), tqc := t, deliver := u.deliver ++ ds }

end Sys2Proof.Machine
end

