-- ==== Sys2Proof/Machine/Operands.lean ====
section
/-! DEFINITION. Operand forms: immediates (R76), program counters, and the control registers of R105 with their access and
level. -/

namespace Sys2Proof.Machine

/-- sext of R87. -/
def sext {n : Nat} (x : BitVec n) : Word := x.signExtend 32

/-- A target in parcels from the program counter (R76): pc + 2 sext(off). -/
def target {n : Nat} (pc : Word) (off : BitVec n) : Word := pc + sext off * 2#32

/-- The instruction's program counter and the one after it (R87). -/
def nextPc (c : Core) (len : Nat) : Word := c.pc + BitVec.ofNat 32 len

/-! ## Control registers (R105) -/

/-- The access of a control register: read-only or read and write, user or privileged. -/
structure CrInfo where
  ro   : Bool
  priv : Bool
deriving DecidableEq, Repr

/-- The listed control registers. -/
def crInfo (n : Nat) : Option CrInfo :=
  if [0x000, 0x001, 0x008, 0x009, 0x00A, 0x010, 0x011, 0x012, 0x013, 0x018, 0x019, 0x01A, 0x028, 0x029, 0x02A, 0x044].contains n
  then some { ro := false, priv := false }
  else if [0x020, 0x030, 0x031, 0x032, 0x033, 0x038, 0x048].contains n then some { ro := true, priv := false }
  else if [0x02B, 0x040, 0x041, 0x042, 0x050].contains n then some { ro := false, priv := true }
  else none

/-- TSTAT (R108). -/
def tstatOf (c : Core) : Word := BitVec.ofNat 32 ((if c.iact then 2 else 0) + (if c.priv then 1 else 0))

/-- The value of a control register. -/
def readCr (c : Core) (n : Nat) : Word :=
  let r := c.cr
  if n = 0x000 then r.fctl else if n = 0x001 then r.fflg else if n = 0x008 then r.hbase else if n = 0x009 then r.coord2
  else if n = 0x00A then r.coord3 else if n = 0x010 then r.afmt else if n = 0x011 then r.bfmt else if n = 0x012 then r.ascp
  else if n = 0x013 then r.bscp else if n = 0x018 then r.memb else if n = 0x019 then r.seedlo else if n = 0x01A then r.seedhi
  else if n = 0x020 then r.xid else if n = 0x028 then r.tfwd else if n = 0x029 then r.qwd else if n = 0x02A then r.swd
  else if n = 0x02B then r.quant else if 0x030 ≤ n ∧ n < 0x034 then r.grp.getD (n - 0x030) 0#32
  else if n = 0x038 then r.detm else if n = 0x040 then r.epc else if n = 0x041 then r.ecause else if n = 0x042 then r.einfo
  else if n = 0x044 then r.iepc else if n = 0x048 then tstatOf c else if n = 0x050 then r.tmr else 0#32

/-- QUANT as R110 clamps it. -/
def clampQuant (x : Word) : Word := if x.toNat < 256 then 256#32 else if 65536 < x.toNat then 65536#32 else x

/-- Write a control register under R110: reserved bits are ignored, budgets take their default for zero, QUANT is clamped. -/
def writeCr (c : Core) (n : Nat) (x : Word) : Core :=
  let r := c.cr
  let r' : CtlRegs :=
    if n = 0x000 then { r with fctl := x &&& fctlMask } else if n = 0x001 then { r with fflg := x &&& fflgMask }
    else if n = 0x008 then { r with hbase := x &&& 0xFF#32 } else if n = 0x009 then { r with coord2 := x }
    else if n = 0x00A then { r with coord3 := x } else if n = 0x010 then { r with afmt := x }
    else if n = 0x011 then { r with bfmt := x } else if n = 0x012 then { r with ascp := x }
    else if n = 0x013 then { r with bscp := x } else if n = 0x018 then { r with memb := x &&& 0xFFFF#32 }
    else if n = 0x019 then { r with seedlo := x } else if n = 0x01A then { r with seedhi := x }
    else if n = 0x028 then { r with tfwd := budget x tfwdDefault } else if n = 0x029 then { r with qwd := budget x qwdDefault }
    else if n = 0x02A then { r with swd := budget x swdDefault } else if n = 0x02B then { r with quant := clampQuant x }
    else if n = 0x040 then { r with epc := x } else if n = 0x041 then { r with ecause := x }
    else if n = 0x042 then { r with einfo := x } else if n = 0x044 then { r with iepc := x }
    else if n = 0x050 then { r with tmr := x } else r
  { c with cr := r' }

/-- The group register that a control-register number names, for R100. -/
def crNames (n : Nat) : List RName := if 0x030 ≤ n ∧ n < 0x034 then [nGrp (n - 0x030)] else []

end Sys2Proof.Machine
end

