-- ==== Sys2Proof/Machine/System.lean ====
section
/-! DEFINITION. Control-register access (R118) and the system instructions (R119 to R124, R349). -/

namespace Sys2Proof.Machine

/-- ILL with the instruction word as EINFO (R79). -/
def illegal (i : Instr) : Body := raise .ill (encodeWord i)

/-- The four control-register instructions (R118): old and new value, checks in their order. new is none where nothing is
written. -/
def crBody (i : Instr) (n : Nat) (d : Reg) (new : Core → Word → Option Word) (s : State) : Body :=
  let c := me s
  match crInfo n with
  | none => illegal i
  | some info =>
    if info.priv = true ∧ c.priv = false then raise .priv (word n)
    else
      let old := readCr c n
      match new c old with
      | none => okCore s (wrS c d.toNat old)
      | some x =>
        if info.ro then illegal i
        else if n = 0x02B ∧ detOf s s.cur = true then raise .priv 0x02B#32
        else okCore s (wrS (writeCr c n x) d.toNat old)

def execCrr (d : Reg) (k : BitVec 12) (s : State) : Out :=
  issue (.crr d k) { names := nS d :: crNames k.toNat, sys := true } (crBody (.crr d k) k.toNat d (fun _ _ => none)) s
def execCrw (a : Reg) (k : BitVec 12) (s : State) : Out :=
  issue (.crw a k) { names := nS a :: crNames k.toNat, sys := true }
    (crBody (.crw a k) k.toNat 0#5 (fun c _ => some (rdS c a.toNat))) s
def execCrs (d a : Reg) (k : BitVec 12) (s : State) : Out :=
  issue (.crs d a k) { names := [nS d, nS a] ++ crNames k.toNat, sys := true }
    (crBody (.crs d a k) k.toNat d (fun c old => if a = 0#5 then none else some (old ||| rdS c a.toNat))) s
def execCrc (d a : Reg) (k : BitVec 12) (s : State) : Out :=
  issue (.crc d a k) { names := [nS d, nS a] ++ crNames k.toNat, sys := true }
    (crBody (.crc d a k) k.toNat d (fun c old => if a = 0#5 then none else some (old &&& ~~~(rdS c a.toNat)))) s

/-- trap (R119). -/
def execTrap (a : Reg) (s : State) : Out :=
  issue (.trap a) { names := [nS a], sys := true } (fun s => raise .trap (rdS (me s) a.toNat)) s

/-- brk (R120): the trap entry gives it to an attached debug session first. -/
def execBrk (s : State) : Out := issue .brk { sys := true } (fun _ => raise .brk 0#32) s

/-- eret (R121, R349). -/
def eretBody (s : State) : Body :=
  match returnFrom (me s) with
  | some (c, pc) => .jump (setCore s s.cur c) pc
  | none => raise .priv 0#32

def execEret (s : State) : Out := issue .eret { sys := true } eretBody s

/-- yield (R122): in a DET context it counts to the end of the core's window; otherwise it waits for the open window to
close. -/
def yieldBody (s : State) : Body :=
  let c := me s
  if detOf s s.cur then
    let q := c.cr.quant.toNat
    .counts s (q - c.count % q)
  else
    match c.wait with
    | some w =>
      if w.kind = .yield ∧ w.mark < unclosedWindow s s.cur then .ok s else .wait .yield s
    | none => .wait .yield s

def execYield (s : State) : Out := issue .yield { sys := true, wp := true } yieldBody s

/-- The report of task.end at privileged level: the cause and detail that ECAUSE and EINFO then hold (R349). For the causes that give
EXTRA a value (R350) it is that of the trap that the handler serves; the lane of FPX is that of its EINFO (R351). -/
def endFatal (s : State) (n : Nat) : Fatal :=
  let c := coreAt s n
  let code := field c.cr.ecause 7 0
  let extra := if code = Cause.ticketGap.code ∨ code = Cause.ticketDup.code ∨ code = Cause.engine.code then c.extra else 0#32
  let lane := if code = Cause.fpx.code then field c.cr.einfo 12 8 else 0
  match taskEnv s n with
  | some (t, x, u) =>
    { window := windowOf x u c, core := prel x n, epc := c.cr.epc, lane := lane, t := t.t, ecause := c.cr.ecause, einfo := c.cr.einfo
      extra := extra, privlvl := false }
  | none => { window := 0, core := 0, epc := 0#32, lane := 0, t := 0, ecause := 0#32, einfo := 0#32, extra := 0#32, privlvl := false }

/-- The trap that delivers an asynchronous fault (R342): EXTRA is the program counter of an engine command's LAUNCH (R350). -/
def asyncTrap (f : AFault) : TrapReq :=
  { cause := f.cause, info := f.info, async := true, extra := if f.cause = .engine then f.pc else 0#32 }

/-- The undelivered fault of lowest transfer id that f selects (R342). -/
def nextFault (c : Core) (f : AFault → Bool) : Option AFault :=
  (c.afaults.filter f).foldl (fun b g =>
    match b with
    | some h => if g.xid.toNat < h.xid.toNat then some g else b
    | none => some g) none

/-- The core without an undelivered fault. -/
def dropFault (s : State) (n : Nat) (f : AFault) : State :=
  updCore s n (fun c => { c with afaults := c.afaults.filter (fun g => decide (g ≠ f)) })

end Sys2Proof.Machine
end

