-- ==== Sys2Proof/Machine/Layout.lean ====
section
/-! DEFINITION. Layout entries (R44 to R47, R183), the bits of an element (R158 to R161), the places of bytes and their
translation (R26, R159, R226, R227), and the LAYOUT checks of an access (R163, R165, R175). -/

namespace Sys2Proof.Machine

/-! ## The task at work -/

/-- The core that moves, its task, context, run and state. -/
structure Env where
  n : Nat
  t : Task
  x : Ctx
  u : Run
  c : Core

/-- Go on with the task of the core that moves. -/
def withEnv (s : State) (f : Env → Body) : Body :=
  match taskEnv s s.cur with
  | some (t, x, u) => f { n := s.cur, t := t, x := x, u := u, c := me s }
  | none => .ok s

/-- The partition-relative number of the core. -/
def Env.prel (E : Env) : Nat := Sys2Proof.Machine.prel E.x E.n

/-! ## Entries -/

/-- A layout entry as a core sees it: its number and its sixteen words (R44). -/
structure Entry where
  num   : Nat
  words : List Word
deriving DecidableEq, Repr

def Entry.w (e : Entry) (k : Nat) : Word := e.words.getD k 0#32
def Entry.base (e : Entry) : Nat := (e.w 0).toNat + 2 ^ 32 * (e.w 1).toNat
def Entry.ext (e : Entry) (d : Nat) : Nat := (e.w (2 + d)).toNat
def Entry.str (e : Entry) (d : Nat) : Nat := (e.w (6 + d)).toNat
def Entry.scaleh (e : Entry) : Nat := field (e.w 10) 31 24
def Entry.group (e : Entry) : Nat := field (e.w 10) 23 16
def Entry.scv (e : Entry) : Bool := (e.w 10).getLsbD 12
def Entry.chk (e : Entry) : Bool := (e.w 10).getLsbD 11
def Entry.tkt (e : Entry) : Bool := (e.w 10).getLsbD 10
def Entry.ver (e : Entry) : Bool := (e.w 10).getLsbD 9
def Entry.fe (e : Entry) : Bool := (e.w 10).getLsbD 8
def Entry.fmt (e : Entry) : Nat := field (e.w 10) 7 4
def Entry.space (e : Entry) : Nat := field (e.w 10) 3 2
def Entry.rank (e : Entry) : Nat := field (e.w 10) 1 0 + 1
def Entry.readers (e : Entry) : Nat := field (e.w 11) 31 24
def Entry.bankp (e : Entry) : Nat := field (e.w 11) 23 0
def Entry.cons (e : Entry) : Nat := field (e.w 12) 31 16
def Entry.prod (e : Entry) : Nat := field (e.w 12) 15 0
def Entry.round (e : Entry) : Nat := field (e.w 13) 31 16
def Entry.stream (e : Entry) : Nat := field (e.w 13) 15 0
def Entry.home (e : Entry) : Nat := field (e.w 14) 15 0

/-- A plain entry: none of FE, VER and TKT. -/
def Entry.plain (e : Entry) : Bool := !e.fe && !e.ver && !e.tkt

/-- Formats by their code (R45). -/
def fmtFP32 : Nat := 0
def fmtFP16 : Nat := 1
def fmtBF16 : Nat := 2
def fmtE4M3 : Nat := 3
def fmtE5M2 : Nat := 4
def fmtE3M2 : Nat := 5
def fmtE2M3 : Nat := 6
def fmtE2M1 : Nat := 7
def fmtDS8 : Nat := 8
def fmtINT8 : Nat := 9
def fmtINT32 : Nat := 10
def fmtE8M0 : Nat := 11
def fmtPair : Nat := 12

/-- The width of a format in bits (R45). -/
def fmtWidth (f : Nat) : Nat :=
  if f = fmtFP32 ∨ f = fmtINT32 ∨ f = fmtPair then 32
  else if f = fmtFP16 ∨ f = fmtBF16 then 16
  else if f = fmtE3M2 ∨ f = fmtE2M3 then 6
  else if f = fmtE2M1 then 4
  else 8

/-- A block format (R136). -/
def blockFmt (f : Nat) : Bool := decide (fmtE3M2 ≤ f ∧ f ≤ fmtDS8)

/-- The width of an entry's elements. -/
def Entry.width (e : Entry) : Nat := fmtWidth e.fmt

/-- The view of entry k (R183): the release copy with the overlay's words in place. -/
def viewOf (c : Core) (u : Run) (k : Nat) : Entry :=
  { num := k, words := (List.range 16).map (fun w => (tget c.overlay (16 * k + w)).getD (sget 0#32 u.layouts (16 * k + w))) }

/-- The entry number that direct handle h names (R44). -/
def entryNum (c : Core) (h : Nat) : Nat := (c.cr.hbase.toNat + h) % 256

/-- The entry that direct handle h names. -/
def handleEntry (E : Env) (h : Nat) : Entry := viewOf E.c E.u (entryNum E.c h)

/-- The bank permutation is one (R46). -/
def bankpOk (bankp : Nat) : Bool := (List.range 8).all (fun p => (List.range 8).any (fun b => decide (bankOf bankp b = p)))

/-- R46 for a partition of that many cores; compFmt is the format of the entry that SCALEH names. -/
def wellFormedEntry (e : Entry) (cores compFmt : Nat) : Bool :=
  !(e.fe && e.ver) && !(e.fe && e.tkt) && !(e.ver && e.tkt) &&
  (!e.fe || (decide (e.cons < cores) && (decide (e.prod < cores) || decide (e.prod = 0xFFFF)))) &&
  (!e.ver || (decide (e.prod < cores) && decide (1 ≤ e.readers))) &&
  (!e.tkt || (decide (1 ≤ e.round) && [fmtFP32, fmtINT32, fmtE8M0].contains e.fmt)) &&
  (!e.scv || decide (compFmt = fmtE8M0)) &&
  bankpOk e.bankp && decide (e.fmt ≤ 12) &&
  decide (field (e.w 10) 15 13 = 0 ∧ field (e.w 14) 31 16 = 0 ∧ e.w 15 = 0#32) &&
  (List.range 4).all (fun d => decide (1 ≤ e.ext d) && (decide (d < e.rank) || decide (e.ext d = 1)))

/-- The companion that SCALEH names, in a core's view. -/
def companion (c : Core) (u : Run) (e : Entry) : Entry := viewOf c u e.scaleh

/-- The entry is well formed in the core's view. -/
def entryOk (E : Env) (e : Entry) : Bool := wellFormedEntry e (pcores E.x) (companion E.c E.u e).fmt

/-! ## Homes and places -/

/-- Where the data of an entry lie for a core (R44, R163). -/
inductive Home where
  | slice (core : Nat)
  | dram
  | pool
  | bad
deriving DecidableEq, Repr

/-- The home of an entry: the logical core of its slice, DRAM, the CXL pool, or a HOME that the partition does not have. -/
def homeOf (x : Ctx) (n : Nat) (e : Entry) : Home :=
  match e.space with
  | 0 => .slice n
  | 1 => if e.home < pcores x then .slice (logical x e.home) else .bad
  | 2 => .dram
  | _ => .pool

/-- Where a byte lies: a physical offset of a slice, an offset of a DRAM channel, a byte of the caddy, whose unit lies in a
core's channel, a host physical address, or no mapped page. -/
inductive Place where
  | slice (core off : Nat)
  | dram (core off : Nat)
  | caddy (b core : Nat)
  | host (a : Nat)
  | none
deriving DecidableEq, Repr

/-- A page table entry's fields (R226). -/
def pageCh (p : Page) : Nat := (p.entry.extractLsb' 112 16).toNat
def pageN (p : Page) : Nat := (p.entry.extractLsb' 99 13).toNat + 1
def pageOff (p : Page) : Nat := (p.entry.extractLsb' 64 32).toNat
def pageWr (p : Page) : Bool := p.entry.getLsbD 62
def pageBase (p : Page) : Nat := (p.entry.extractLsb' 16 32).toNat * 2 ^ 16
def pageLen (p : Page) : Nat :=
  match (p.entry.extractLsb' 60 2).toNat with
  | 0 => 2 ^ 16
  | 1 => 2 ^ 21
  | _ => 2 ^ 31

/-- The mapped page of a space that holds virtual address a. -/
def pageAt (x : Ctx) (space a : Nat) : Option Page :=
  x.pages.find? (fun p => decide (p.space = space) && decide (pageBase p ≤ a ∧ a < pageBase p + pageLen p))

/-- Address a lies in the caddy window (R26). -/
def inCaddy (x : Ctx) (a : Nat) : Bool := decide (caddyVA ≤ a ∧ a < caddyVA + x.clen)

/-- The place of a byte of SPACE 2 (R26, R227). -/
def dramPlace (x : Ctx) (a : Nat) : Place :=
  if inCaddy x a then
    let b := a - caddyVA
    .caddy b (logical x (b / 4096 % pcores x))
  else
    match pageAt x 2 a with
    | some p =>
      let u := (a - pageBase p) / 4096
      .dram (logical x (pageCh p + u % pageN p)) (4096 * (pageOff p % 2 ^ 13 + u / pageN p) + a % 4096)
    | none => .none

/-- The place of a byte of SPACE 3 (R226): OFF holds the host physical address bits 43:12. -/
def poolPlace (x : Ctx) (a : Nat) : Place :=
  match pageAt x 3 a with
  | some p => .host (4096 * pageOff p + (a - pageBase p))
  | none => .none

/-- The place of byte b of an entry's space. -/
def placeOf (x : Ctx) (e : Entry) (h : Home) (b : Nat) : Place :=
  match h with
  | .slice k => .slice k (physOff e.bankp b)
  | .dram => dramPlace x b
  | .pool => poolPlace x b
  | .bad => .none

/-- The byte at a place; none reads 0. -/
def readPlace (s : State) (c : Nat) : Place → Byte
  | .slice k o => s.slice.read (sliceKey k o)
  | .dram k o => s.dram.read (dramKey k o)
  | .caddy b _ => s.caddy.read (caddyKey c b)
  | .host a => s.host.read a
  | .none => 0#8

/-- Write the byte at a place. The caddy window is not written through SPACE 2 (R26). -/
def writePlace (s : State) (p : Place) (b : Byte) : State :=
  match p with
  | .slice k o => { s with slice := s.slice.write (sliceKey k o) b }
  | .dram k o => { s with dram := s.dram.write (dramKey k o) b }
  | .host a => { s with host := s.host.write a b }
  | .caddy _ _ | .none => s

/-! ## Elements (R160, R161) -/

/-- The coordinates of an access; those at or above the rank are taken as 0. -/
def coordsOf (e : Entry) (c0 c1 c2 c3 : Nat) : List Nat :=
  [c0, if 1 < e.rank then c1 else 0, if 2 < e.rank then c2 else 0, if 3 < e.rank then c3 else 0]

/-- The bit address of an element. -/
def bitAddr (e : Entry) (cs : List Nat) : Nat :=
  8 * e.base + (List.range 4).foldl (fun a d => a + cs.getD d 0 * e.str d) 0

/-- The canonical index (R136). -/
def canonical (e : Entry) (cs : List Nat) : Word :=
  word (cs.getD 0 0 + e.ext 0 * (cs.getD 1 0 + e.ext 1 * (cs.getD 2 0 + e.ext 2 * cs.getD 3 0)))

/-- Element at bit address a of an entry. -/
def readElem (s : State) (c : Nat) (x : Ctx) (e : Entry) (h : Home) (a : Nat) : Nat :=
  readBits (fun b => readPlace s c (placeOf x e h b)) a e.width

/-- Write the code v to the element at bit address a. -/
def writeElem (s : State) (c : Nat) (x : Ctx) (e : Entry) (h : Home) (a v : Nat) : State :=
  testCounts ((elemBytes a e.width).foldl (fun s b =>
    let p := placeOf x e h b
    writePlace s p (mixByte (readPlace s c p) a e.width v b)) s)

/-- The physical granules and lines of a slice that elements touch, each once, as keys. -/
def granulesOf (e : Entry) (core : Nat) (locs : List Nat) : List Nat :=
  (locs.flatMap (fun a => (elemBytes a e.width).map (fun b => granKey core (physOff e.bankp b)))).eraseDups
def linesOf (e : Entry) (core : Nat) (locs : List Nat) : List Nat :=
  (locs.flatMap (fun a => (elemBytes a e.width).map (fun b => lineKey core (physOff e.bankp b)))).eraseDups

/-! ## LAYOUT checks (R165, R175 step 3) -/

/-- LAYOUT with its cause, entry and dimension (R165). -/
def layoutTrap (cause : Nat) (e : Entry) (dim : Nat) : TrapReq :=
  { cause := .layout, info := word (cause * 2 ^ 24 + e.num % 256 * 2 ^ 16 + dim % 4) }

/-- What a form asks of its entry: the cause for flags that do not fit, the homes it reaches with the cause otherwise, the
formats it takes, and whether an element may not span two granules. -/
structure Form where
  flags : Entry → Option Nat
  reach : Home → Option Nat
  fmts  : Option (List Nat) := none
  oneGr : Bool := false

/-- The LAYOUT cause of an entry for a form: 0x01, then 0x02 or 0x09, then 0x04, then 0x08. -/
def entryCause (E : Env) (f : Form) (e : Entry) : Option Nat :=
  if entryOk E e = false then some 0x01
  else
    match f.flags e with
    | some k => some k
    | none =>
      let h := homeOf E.x E.n e
      match (if h = .bad then some 0x04 else f.reach h) with
      | some k => some k
      | none =>
        match f.fmts with
        | some l => if l.contains e.fmt then none else some 0x08
        | none => none

/-- The first dimension below the rank whose coordinate is at or beyond its extent. -/
def outOfRange (e : Entry) (cs : List Nat) : Option Nat :=
  (List.range e.rank).find? (fun d => decide (e.ext d ≤ cs.getD d 0))

/-- The first dimension in which the scale companion's coordinate is beyond its extents (R136). -/
def companionOut (E : Env) (e : Entry) (cs : List Nat) : Option Nat :=
  if e.scv && blockFmt e.fmt then
    let k := companion E.c E.u e
    (List.range 4).find? (fun d => decide (k.ext d ≤ (if d = 0 then cs.getD 0 0 / 24 else cs.getD d 0)))
  else none

/-- The last byte of an element is one that the space has: below 2 MiB in a slice, below 2^48 in a virtual space. -/
def byteOk (h : Home) (a w : Nat) : Bool :=
  match h with
  | .slice _ => decide (lastByte a w < 2 ^ 21)
  | _ => decide (lastByte a w < 2 ^ 48)

/-- The trap of one element: 0x03, 0x06, 0x07. -/
def elemTrap (E : Env) (e : Entry) (cs : List Nat) : Option TrapReq :=
  match outOfRange e cs with
  | some d => some (layoutTrap 0x03 e d)
  | none =>
    match companionOut E e cs with
    | some d => some (layoutTrap 0x06 e d)
    | none => if byteOk (homeOf E.x E.n e) (bitAddr e cs) e.width then none else some (layoutTrap 0x07 e 0)

/-- A byte of a SPACE 2 element lies in another core's channel (R163). An unmapped byte passes. -/
def otherChannel (x : Ctx) (n a w : Nat) : Bool :=
  (elemBytes a w).any (fun b =>
    match dramPlace x b with
    | .dram k _ | .caddy _ k => decide (k ≠ n)
    | _ => false)

/-- An element lies in more than one granule. -/
def spansGranules (e : Entry) (a : Nat) : Bool := (granulesOf e 0 [a]).length != 1

/-- LAYOUT for the elements with coordinates css of one access by form f. -/
def layoutCheck (E : Env) (f : Form) (e : Entry) (css : List (List Nat)) : Option TrapReq :=
  match entryCause E f e with
  | some k => some (layoutTrap k e 0)
  | none =>
    match css.findSome? (elemTrap E e) with
    | some r => some r
    | none =>
      let h := homeOf E.x E.n e
      if h = .dram ∧ css.any (fun cs => otherChannel E.x E.n (bitAddr e cs) e.width) = true then some (layoutTrap 0x04 e 0)
      else if f.oneGr = true ∧ css.any (fun cs => spansGranules e (bitAddr e cs)) = true then some (layoutTrap 0x05 e 0)
      else none

/-- The lowest byte at or above KSP of the core's own slice that elements touch (R100): elements that can be located, of a
well-formed entry. -/
def undeclaredByte (E : Env) (e : Entry) (css : List (List Nat)) : Option TrapReq :=
  if entryOk E e = true ∧ homeOf E.x E.n e = .slice E.n then
    let bs := css.flatMap (fun cs =>
      if outOfRange e cs = none then
        (elemBytes (bitAddr e cs) e.width).filter (fun b => decide (E.u.kernel.ksp ≤ b ∧ b < 2 ^ 21))
      else [])
    match bs with
    | [] => none
    | b :: l => some { cause := .resource, info := resourceInfo 8 (l.foldl min b) }
  else none

end Sys2Proof.Machine
end

