-- ==== Sys2Proof/Machine/Units.lean ====
section
/-! DEFINITION. The units of a partition as SPILL writes them out and a restore writes them back (R358, R359, R361). -/

namespace Sys2Proof.Machine

/-- Logical core n is one of the partition. -/
def inPart (x : Ctx) (n : Nat) : Bool := decide (8 * x.pbase ≤ n ∧ n < 8 * (x.pbase + x.pcount))

/-- Logical cluster k is one of the partition. -/
def partHas (x : Ctx) (k : Nat) : Bool := decide (x.pbase ≤ k ∧ k < x.pbase + x.pcount)

/-- The key of a slice byte, granule or line (with p keys for each slice) is one of the first q of a slice of the partition. -/
def keyIn (x : Ctx) (p q k : Nat) : Bool := inPart x (k / p) && decide (k % p < q)

/-- What SPILL writes out (R359): the cores, the clusters and the first MiB of every slice of the partition. -/
def takeUnits (s : State) (x : Ctx) : Saved :=
  { cores := s.cores.filter (fun e => inPart x e.1)
    clusters := s.clusters.filter (fun e => partHas x e.1)
    slice := s.slice.filter (fun e => keyIn x (2 ^ 21) (2 ^ 20) e.1)
    gmeta := s.gmeta.filter (fun e => keyIn x (2 ^ 17) (2 ^ 16) e.1)
    conf := s.conf.filter (fun e => keyIn x (2 ^ 15) (2 ^ 14) e.1)
    poison := s.poison.filter (keyIn x (2 ^ 17) (2 ^ 16))
    marks := s.marks.filter (fun e => keyIn x (2 ^ 17) (2 ^ 16) e.1) }

/-- Slot k of a core is claimed: CLM of its tag (R247). -/
def claimedSlot (c : Core) (k : Nat) : Bool := ((tgetD c.tags k { words := [] }).words.headD 0#32).getLsbD 31

/-- What is saved of a core: of its operand slots the contents and tags of the claimed ones only (R273, R359). -/
def savedCore (c : Core) : Core :=
  { c with slots := c.slots.filter (fun e => claimedSlot c (e.1 / 4096)), tags := c.tags.filter (fun e => claimedSlot c e.1)
           traceq := [], traceDrop := 0 }

/-- The trace records that Phodiver has not taken, and the count of those dropped, stay at the core (R407). -/
def traceOf (old c : Core) : Core := { c with traceq := old.traceq, traceDrop := old.traceDrop }

/-- What SPILL keeps of the units of a partition. -/
def spillUnits (s : State) (x : Ctx) : Saved :=
  let v := takeUnits s x
  { v with cores := v.cores.map (fun e => (e.1, savedCore e.2)) }

/-- Put the entries of u in the places of t that f selects. -/
def putPart {α : Type} (f : Nat → Bool) (t u : Table α) : Table α :=
  u.foldl (fun t e => tset t e.1 e.2) (t.filter (fun e => !f e.1))

/-- The saved units written back (R361). -/
def putUnits (s : State) (x : Ctx) (v : Saved) : State :=
  { s with
    cores := (s.cores.filter (fun e => inPart x e.1 && (!e.2.traceq.isEmpty || e.2.traceDrop != 0))).foldl
      (fun t e => tset t e.1 (traceOf e.2 (tgetD t e.1 Core.reset)))
      (putPart (inPart x) s.cores (v.cores.map (fun e => (e.1, traceOf (tgetD s.cores e.1 Core.reset) e.2))))
    clusters := putPart (partHas x) s.clusters v.clusters
    slice := v.slice.foldl (fun m e => m.write e.1 e.2) (s.slice.filter (fun e => !keyIn x (2 ^ 21) (2 ^ 20) e.1))
    gmeta := v.gmeta.foldl (fun m e => m.write e.1 e.2) (s.gmeta.filter (fun e => !keyIn x (2 ^ 17) (2 ^ 16) e.1))
    conf := putPart (keyIn x (2 ^ 15) (2 ^ 14)) s.conf v.conf
    poison := v.poison.foldl (fun l k => insertNat k l) (s.poison.filter (fun k => !keyIn x (2 ^ 17) (2 ^ 16) k))
    marks := putPart (keyIn x (2 ^ 17) (2 ^ 16)) s.marks v.marks }

/-- A core that holds no task of any context: what is loaded into it stays, and the trace records that Phodiver has not taken. -/
def idleCore (k : Core) : Core :=
  { Core.reset with image := k.image, imem := k.imem, hmem := k.hmem, hlen := k.hlen, traceq := k.traceq, traceDrop := k.traceDrop }

/-- The units of the clusters that f selects without the state of a context; the slices keep what they hold. -/
def clearClusters (s : State) (f : Nat → Bool) : State :=
  { s with
    cores := s.cores.map (fun e => if f (clusterOf e.1) then (e.1, idleCore e.2) else e)
    clusters := s.clusters.filter (fun e => !f e.1)
    marks := s.marks.filter (fun e => !(f (clusterOf (e.1 / 2 ^ 17)) && decide (e.1 % 2 ^ 17 < 2 ^ 16)))
    counting := s.counting.filter (fun e => !f (clusterOf e.1)) }

/-- The units of a partition without the state of a context. -/
def clearUnits (s : State) (x : Ctx) : State := clearClusters s (partHas x)

/-- Apply f where the units of context c are: in place, or in its spill areas (R358). -/
def withUnits (s : State) (c : Nat) (f : State → State) : State :=
  match ctxAt s c with
  | none => s
  | some x =>
    match x.saved with
    | none => f s
    | some v =>
      let rival := takeUnits s x
      let s := f (putUnits s x v)
      let v := takeUnits s x
      updCtx (putUnits s x rival) c (fun x => { x with saved := some v })

end Sys2Proof.Machine
end

