-- ==== Sys2Proof/Machine/Account.lean ====
section
/-! DEFINITION. Accounting, attestation and observation (21, R393 to R408): cnt.rd, prf.rd, trc.mark, signed records, the trace
filter, and their MBOX commands. -/

namespace Sys2Proof.Machine

/-! ## cnt.rd, prf.rd, trc.mark (R399, R406, R407) -/

/-- cnt.rd. -/
def cntRdBody (d a : Reg) (h : BitVec 5) (s : State) : Body :=
  let c := me s
  let i := (rdS c a.toNat).toNat % 64
  let k := tgetD c.counters i { v := 0, sat := false }
  if 59 ≤ i then raise .priv (word (0x0B010000 + i))
  else if h = 0#5 then interlock s [sres c d (word k.v)]
  else if h = 1#5 then interlock s [sres c d (word (k.v / 2 ^ 32))]
  else if h = 2#5 then interlock s [sres c d (if k.sat then 1#32 else 0#32)]
  else illegal (.cntRd d a h)

def execCntRd (d a : Reg) (h : BitVec 5) (s : State) : Out :=
  issue (.cntRd d a h) { names := [nS d, nS a], sys := true } (cntRdBody d a h) s

/-- prf.rd. -/
def prfRdBody (d a : Reg) (b : BitVec 5) (s : State) : Body :=
  let c := me s
  let j := (rdS c a.toNat).toNat % 64
  if c.cr.detm.getLsbD 0 && !(c.priv && decide (24 ≤ d.toNat)) then raise .priv (word (0x0B000000 + b.toNat))
  else if b = 0#5 then interlock s [sres c d (word (tgetD c.delaySum j 0))]
  else if b = 1#5 then interlock s [sres c d (word (tgetD c.delayNum j 0))]
  else if b = 2#5 then interlock s [sres c d (word c.cyc)]
  else if b = 3#5 then interlock s [sres c d (word (c.cyc / 2 ^ 32))]
  else illegal (.prfRd d a b)

def execPrfRd (d a : Reg) (b : BitVec 5) (s : State) : Out :=
  issue (.prfRd d a b) { names := [nS d, nS a] } (prfRdBody d a b) s

/-- The trace record of a trc.mark (R407). -/
def traceRecord (E : Env) (v : Word) (id : Nat) : List Word :=
  [word (E.prel % 2 ^ 16 * 2 ^ 16 + id % 256 * 2 ^ 8 + 1), v, word E.c.cyc, word (E.c.cyc / 2 ^ 32), word E.c.count, E.c.pc,
   word (E.t.ctx % 64 * 2 ^ 24 + E.t.ridx % 2 ^ 24), word E.t.t]

/-- trc.mark: a full queue drops the record and counts it. -/
def trcMarkBody (a : Reg) (i : BitVec 5) (s : State) : Body :=
  withEnv s (fun E =>
    if E.x.tracing = false then .ok s
    else if E.c.traceq.length < 16 then
      .ok (updMe s (fun c => { c with traceq := c.traceq ++ [traceRecord E (rdS E.c a.toNat) i.toNat] }))
    else .ok (updMe s (fun c => { c with traceDrop := min (c.traceDrop + 1) 0xFFFFFFFF })))

def execTrcMark (a : Reg) (i : BitVec 5) (s : State) : Out := issue (.trcMark a i) { names := [nS a] } (trcMarkBody a i) s

/-! ## Signed records (R400 to R403) -/

/-- n bytes of a number, little-endian. -/
def leBytes (n x : Nat) : List Byte := (List.range n).map (fun i => BitVec.ofNat 8 (x / 2 ^ (8 * i)))

/-- The context belongs to a sealed job. -/
def sealedJob (x : Ctx) : Option Job :=
  match x.job with
  | some j => if j.sealed then some j else none
  | none => none

/-- The job module id and M: a context in no sealed job is a job of one module (R322; log 34). -/
def moduleId (x : Ctx) : Nat := ((sealedJob x).map (·.own)).getD 0
def moduleCount (x : Ctx) : Nat := ((sealedJob x).map (·.modules)).getD 1

/-- The signature of a record's bytes (R402): by the key that the management SRAM holds, with a nonce between 1 and the group's order less
one that is a free value (log 4). -/
def recordSignature (s : State) (l : List Byte) : List Byte :=
  (ecdsaSign (readLE s.sram 0 48) (1 + Config.ecdsaNonce s.fresh % (p384Order - 1)) (l.map BitVec.toNat)).map (BitVec.ofNat 8)

/-- Keep a signed record under the next sequence number: the bytes, then the signature. The last 256 are kept. -/
def signRecord (s : State) (c : Nat) (body : Nat → List Byte) : State :=
  let k := s.snapSeq + 1
  let l := body k
  let r : Signed := { number := k, ctx := some c, bytes := l ++ recordSignature s l }
  { s with snapSeq := k, fresh := s.fresh + 1, signed := (s.signed ++ [r]).drop (s.signed.length + 1 - 256) }

/-- SATMASK. -/
def satMask (t : Table Counter) : Nat :=
  (List.range 59).foldl (fun a i => a + if (tgetD t i { v := 0, sat := false }).sat then 2 ^ i else 0) 0

/-- The snapshot of a context (R401) but for its signature. JOBID is that of a job that is opened and not yet sealed too (R322). -/
def snapshotBytes (s : State) (c : Nat) (x : Ctx) (nonce : Nat) (final : Bool) (k : Nat) : List Byte :=
  leBytes 4 0x534E4150 ++ leBytes 4 1 ++ leBytes 8 s.serial.toNat ++ leBytes 8 k ++ leBytes 8 nonce ++
    leBytes 8 ((x.job.map (fun j => j.id.toNat)).getD 0) ++
    leBytes 4 (c % 64 + (if x.det then 2 ^ 8 else 0) + (if final then 2 ^ 9 else 0)) ++
    leBytes 4 (moduleCount x * 2 ^ 16 + moduleId x) ++ leBytes 4 (x.pcount * 2 ^ 16 + x.pbase) ++
    leBytes 4 (min x.rerun 0xFFFFFFFF) ++ leBytes 8 (satMask x.counters) ++
    (List.range 59).flatMap (fun i => leBytes 8 (tgetD x.counters i { v := 0, sat := false }).v) ++ leBytes 8 0

/-- Some record of the context is RELEASED or RUNNING. -/
def anyReleased (x : Ctx) : Bool := !x.runs.isEmpty

/-- The clusters of a partition. -/
def partClusters (x : Ctx) : List Nat := (List.range x.pcount).map (fun j => x.pbase + j)

/-- An optimiser engine has cards in its queue or runs one. -/
def cardsGoing (o : OptUnit) : Bool := !o.queue.isEmpty || o.running.isSome

/-- An optimiser engine holds a card: queued, running or held. -/
def holdsCard (o : OptUnit) : Bool := cardsGoing o || o.promises.any (fun p => p.2.card.isSome)

/-- An optimiser engine of the partition of x holds a card, of x or of another context whose units are in place (R400). -/
def cardsHeld (s : State) (x : Ctx) : Bool :=
  x.opt.any (fun e => holdsCard e.2) ||
    s.ctxs.any (fun y => y.2.saved.isNone && y.2.opt.any (fun e => partHas x e.1 && holdsCard e.2))

/-- The two words of a number. -/
def twoWords (n : Nat) : List Word := [word n, word (n / 2 ^ 32)]

/-- The number of two argument words, low word first. -/
def ofWords (lo hi : Word) : Nat := lo.toNat + 2 ^ 32 * hi.toNat

/-- The SNAP command: context, nonce; the result is SNAPSEQ. -/
def execSnap (s : State) : Out :=
  serve s 0x80 .ownerOrBound true (fun s _ arg =>
    let c := (arg 0).toNat
    match ctxAt s c with
    | none => (s, 0x82, [])
    | some x =>
      if anyReleased x || cardsHeld s x then (s, 0x81, [])
      else
        let s' := signRecord s c (snapshotBytes s c x (ofWords (arg 1) (arg 2)) false)
        (s', 0x00, twoWords s'.snapSeq))

/-- The words of 128 bytes. -/
def bytesWords (l : List Byte) : List Word :=
  (List.range 32).map (fun i => word ((List.range 4).foldl (fun a j => a + (l.getD (4 * i + j) 0#8).toNat * 2 ^ (8 * j)) 0))

/-- Part p of a signed record, padded with zeros. -/
def recordPart (r : Signed) (p : Nat) : List Byte := (List.range 128).map (fun i => r.bytes.getD (128 * p + i) 0#8)

/-- The RECREAD command: SNAPSEQ in two words, part (log 35). A master that may not read it counts as denied. -/
def execRecread (s : State) : Out :=
  serve s 0x81 .any false (fun s m arg =>
    let r := s.signed.find? (fun r => decide (r.number = ofWords (arg 0) (arg 1)))
    let bound := match r.bind (fun r => r.ctx.bind (ctxAt s)) with
      | some x => boundTo x m
      | none => false
    if !isOwner s m && !bound then (countDenied s m, 0x03, [])
    else
      match r with
      | none => (s, 0x83, [])
      | some r =>
        if (r.bytes.length + 127) / 128 ≤ (arg 2).toNat then (s, 0x83, [])
        else (s, 0x00, bytesWords (recordPart r (arg 2).toNat)))

/-- The IDKEY command: part 0 to 7 of the certificate, whose bytes are the manufacturer's. -/
def execIdkey (s : State) : Out :=
  serve s 0x82 .any false (fun s _ arg =>
    let p := (arg 0).toNat
    if 8 ≤ p then (s, 0x83, [])
    else (s, 0x00, bytesWords ((List.range 128).map (fun i => Config.identityByte (128 * p + i)))))

/-! ## Tracing (R407, R408) -/

/-- The TRACE command: context, 1 on or 0 off. -/
def execTrace (s : State) : Out :=
  serve s 0x84 .owner true (fun s _ arg =>
    let c := (arg 0).toNat
    if 2 ≤ (arg 1).toNat then (s, 0x01, [])
    else (updCtx s c (fun x => { x with tracing := decide (arg 1 = 1#32) }), 0x00, []))

/-- Fields of a filter word. -/
def fOp (w : Word) : Nat := field w 31 24
def fD (w : Word) : Nat := field w 23 20
def fA (w : Word) : Nat := field w 19 16
def fImm (w : Word) : Nat := field w 15 0

/-- TFILTER refuses a program. -/
def filterRefused (p : List Word) : Bool :=
  decide (128 < p.length) || p.zipIdx.any (fun e =>
    let w := e.1
    decide (fOp w = 0 ∨ 0x0C < fOp w) || decide (8 ≤ fD w ∨ 8 ≤ fA w) ||
      (decide (fOp w = 7 ∨ fOp w = 8) && decide (p.length < e.2 + 1 + fImm w)))

/-- The program of a TFILTER command: argument 1 is its length, argument words 2 to 60 its first words; what does not fit there
stands in the input (log 36). -/
def filterProgram (arg : Nat → Word) (more : List Byte) : List Word :=
  (List.range (min (arg 1).toNat 129)).map (fun i =>
    if i < 59 then arg (2 + i)
    else word ((List.range 4).foldl (fun a j => a + (more.getD (4 * (i - 59) + j) 0#8).toNat * 2 ^ (8 * j)) 0))

/-- The TFILTER command. -/
def execTfilter (s : State) : Out :=
  serve s 0x85 .owner true (fun s _ arg =>
    let p := filterProgram arg s.input.bytes
    if filterRefused p then (s, 0x85, [])
    else (updCtx s (arg 0).toNat (fun x => { x with filter := some p, fcounts := [] }), 0x00, []))

/-- What a filter decides. -/
inductive Verdict where
  | keep | drop | count (k : Nat) | trigger
deriving DecidableEq, Repr

/-- The filter from word pc on: at most 128 steps. free is a value that no rule gives. -/
def runFilter (p rec : List Word) (free : Word) : Nat → Nat → List Word → Verdict
  | 0, _, _ => .keep
  | k + 1, pc, regs =>
    match p[pc]? with
    | none => .keep
    | some w =>
      let d := fD w
      let x := regs.getD d 0#32
      let y := regs.getD (fA w) 0#32
      let put := fun v => runFilter p rec free k (pc + 1) (regs.set d v)
      match fOp w with
      | 1 => put (if fImm w < 8 then rec.getD (fImm w) 0#32 else free)
      | 2 => put (word (fImm w))
      | 3 => put (x + y)
      | 4 => put (x - y)
      | 5 => put (x &&& y)
      | 6 => put (x >>> (y.toNat % 32))
      | 7 => runFilter p rec free k (if x = y then pc + 1 + fImm w else pc + 1) regs
      | 8 => runFilter p rec free k (if x.ult y then pc + 1 + fImm w else pc + 1) regs
      | 9 => .keep
      | 10 => .drop
      | 11 => .count (fImm w)
      | _ => .trigger

/-- TRACE_FILTER_RUN: Phodiver takes the oldest record of core n's queue and runs the filter of its context on it. -/
def traceRun (s : State) (n : Nat) : State :=
  match (coreAt s n).traceq with
  | [] => s
  | r :: rest =>
    let s := updCore s n (fun c => { c with traceq := rest })
    let c := field (r.getD 6 0#32) 29 24
    match ctxAt s c with
    | none => s
    | some x =>
      let v := match x.filter with
        | none => Verdict.keep
        | some p => runFilter p r (Config.filterWord s.fresh) 128 0 (List.replicate 8 0#32)
      let s := { s with fresh := s.fresh + 1 }
      match v with
      | .keep => setCtx s c { x with ring := x.ring ++ [r] }
      | .drop => s
      | .count k =>
        if k < 16 then setCtx s c { x with fcounts := tset x.fcounts k (min (tgetD x.fcounts k 0 + 1) 0xFFFFFFFF) } else s
      | .trigger =>
        postCtx (setCtx s c { x with ring := x.ring ++ [r], tracing := false }) c (mkEvent ([0x72#32, word (c % 64)] ++ r))

/-- The TRACE_FILTER_RUN step: core input.who. -/
def execTraceFilterRun (s : State) : Out := .next (if phodiverRuns s then traceRun s s.input.who else s)

end Sys2Proof.Machine
end

