-- ==== Sys2Proof/Machine/Fetch.lean ====
section
/-! DEFINITION. Fetching an instruction's parcels (R70, R73, R346), decode traps (R79), fused gangs (R89, R90), and one move of
a core. The meaning of a decoded instruction comes as a parameter, run. -/

namespace Sys2Proof.Machine

/-- The parcel at byte offset a of the code, or none where a fetch there is outside the kernel (R73) or the handler (R346). -/
def parcelAt (s : State) (n : Nat) (a : Nat) : Option (BitVec 16) :=
  let c := coreAt s n
  let k := kernelOf s n
  if c.priv then
    if a < 2 * c.hlen then some (tgetD c.hmem (a / 2) 0#16) else none
  else if k.kcode ≤ a ∧ a < k.kcode + 2 * k.klen then some (tgetD c.imem ((a - k.kcode) / 2) 0#16) else none

/-- The word that core n fetches (R74): a compact parcel zero-extended, or two parcels; none where a parcel lies outside. -/
def fetchWord (s : State) (n : Nat) : Option Word :=
  let a := (coreAt s n).pc.toNat
  match parcelAt s n a with
  | none => none
  | some lo =>
    if lo.getLsbD 0 then
      match parcelAt s n (a + 2) with
      | none => none
      | some hi => some (joinParcels lo hi)
    else some (joinParcels lo 0#16)

/-- The trap of a word that is no instruction (R79). -/
def decodeTrap (w : Word) (d : Decoded) : TrapReq :=
  match d with
  | .zero => { cause := .zero, info := 0#32 }
  | .pool => { cause := .pool, info := w }
  | _ => { cause := .ill, info := w }

/-- What core n does with what it fetches: the instruction's meaning, or the trap of R73 or R79. A core that may not issue
takes no trap either. -/
def runFetched (run : Instr → State → Out) (s : State) (n : Nat) : Out :=
  let s := { s with cur := n }
  if canRun s n = false then .next s
  else
    match fetchWord s n with
    | none => .next (takeTrap s n { cause := .ill, info := 0xFFFFFFFF#32 })
    | some w =>
      match decodeWord w with
      | .instr i => run i s
      | d => .next (takeTrap s n (decodeTrap w d))

/-! ## Fused gangs (R89, R90) -/

/-- The members of a gang as logical cores. -/
def membersOf (g : Gang) (n : Nat) : List Nat := g.members.map (fun k => 8 * clusterOf n + k)

/-- The fused instruction has been accepted on member n, which goes on to the next one only with the others (R94, R96). -/
def isAhead (s : State) (n : Nat) : Bool :=
  match gangOf s n with
  | some g => g.ahead.contains (slotOf n)
  | none => false

/-- Member n is past the fused instruction, unless it still waits at it. -/
def noteAhead (s : State) (n : Nat) : State :=
  if (coreAt s n).wait.isSome || (coreAt s n).trap.isSome || isAhead s n then s
  else
    match gangOf s n with
    | some g => updCluster s (clusterOf n) (fun k => { k with gang := some { g with ahead := insertNat (slotOf n) g.ahead } })
    | none => s

/-- The member waits at a join that the other members may complete (R235, R266). -/
def atJoin (s : State) (n : Nat) : Bool :=
  match (coreAt s n).wait with
  | some w => decide (w.kind = .exchangeJoin ∨ w.kind = .arrayJoin)
  | none => false

/-- Member n has tried the fused instruction, which led from s to t: it and the members whose joins it completed (R256) are past it,
unless they wait. -/
def noteTried (s t : State) (n : Nat) : State :=
  match gangOf s n with
  | some g => ((membersOf g n).filter (fun m => m == n || (atJoin s m && !atJoin t m))).foldl noteAhead t
  | none => t

/-- Run the fetched instruction on those of the cores that are not past it, in the order given. -/
def runMembers (run : Instr → State → Out) : List Nat → State → Out
  | [], s => .next s
  | n :: rest, s =>
    if isAhead s n then runMembers run rest s
    else
      match runFetched run s n with
      | .next s' => runMembers run rest (noteTried s s' n)
      | o => o

/-- The program counters of the members are equal (R90). -/
def samePcs (s : State) (ns : List Nat) : Bool :=
  match ns with
  | [] => true
  | n :: rest => rest.all (fun m => decide ((coreAt s m).pc = (coreAt s n).pc))

/-- Once every member of core n's gang is past the fused instruction they go on together, or each by itself where their program
counters differ: after a branch or a jump (R90), and after an eret (log 50). -/
def closeFused (s : State) (n : Nat) : State :=
  match gangOf s n with
  | none => s
  | some g =>
    if g.members.all (fun k => g.ahead.contains k) then
      if samePcs s (membersOf g n) then updCluster s (clusterOf n) (fun k => { k with gang := some { g with ahead := [] } })
      else dissolve s n
    else s

/-- A stall of issue (R63, R95, R225): the instruction has not issued on core n. -/
def stalls (s : State) (n : Nat) : Bool :=
  match (coreAt s n).wait with
  | some w => decide (w.kind = .window ∨ w.kind = .windowResult ∨ w.kind = .pool ∨ w.kind = .handlers)
  | none => false

/-- What core n's wait is after a trial of its instruction. -/
def trialWait (run : Instr → State → Out) (s : State) (n : Nat) : Option Waiting :=
  match runFetched run s n with
  | .next s' => if stalls s' n then (coreAt s' n).wait else none
  | _ => none

/-- The members that a stall of another one holds wait for it. -/
def holdPeers (run : Instr → State → Out) (s : State) (ns : List Nat) : State :=
  ns.foldl (fun t n =>
    match trialWait run s n with
    | some w => updCore t n (fun c => { c with wait := some w })
    | none => if (coreAt s n).wait.isSome && !stalls s n then t else waitAs t n .gangPeer) s

/-- The fused instruction is tried again on the members ms of core n's gang; one that completes a join lets the others go on. -/
def runJoined (run : Instr → State → Out) (s : State) (n : Nat) (ms : List Nat) : Out :=
  match runMembers run ms s with
  | .next s1 =>
    match runMembers run ((match gangOf s1 n with
        | some g => membersOf g n
        | none => ms).filter (atJoin s1)) s1 with
    | .next s2 => .next (closeFused s2 n)
    | o => o
  | o => o

/-- A fused instruction (R89): it issues on all members at once, in a move in which every member can issue it, and each member accepts
it by itself (R94, R96). What a member has accepted stands; the others go on waiting. -/
def runGang (run : Instr → State → Out) (s : State) (n : Nat) (g : Gang) : Out :=
  let ns := membersOf g n
  if g.ahead = [] ∧ (ns.any (fun m => !canRun s m) || ns.any (fun m => (trialWait run s m).isSome)) = true then
    .next (holdPeers run s (ns.filter (canRun s)))
  else runJoined run s n ns

/-- A trap that waited for outstanding results is entered once they are written (HANDLER_ENTRY, R98, R346). -/
def handlerEntry (s : State) (n : Nat) : State :=
  match (coreAt s n).trap with
  | none => s
  | some r => takeTrap s n r

/-- The HANDLER_ENTRY step of core input.who. -/
def execHandlerEntry (s : State) : Out := .next (handlerEntry s s.input.who)

/-- The exchange at whose launch the core stands has joined, so that the launch is accepted (R235, R241). -/
def hasJoined (c : Core) : Bool :=
  c.cmds.any (fun e => decide (e.2.kind = .exchange) && e.2.joined && decide (e.1 = (c.seq + 1) % 2 ^ 30))

/-- The message of the core has been accepted (R326). -/
def wasAccepted (c : Core) : Bool :=
  match c.reply with
  | some (.answered .accepted _) => true
  | _ => false

/-- The instruction at which core n waits has been decided: a counted wait (R309), the launch of an exchange that has joined, or a
message that its destination has accepted. It is accepted, or traps, before anything else happens at its boundary. -/
def countDecided (s : State) (n : Nat) : Bool :=
  hasJoined (coreAt s n) || wasAccepted (coreAt s n) || (match (coreAt s n).cwait with
    | some q => q.res.isSome
    | none => false) ||
  (match tget s.counting n with
    | some q => q.met
    | none => false)

/-- Core n stands at task.end, which delivers nothing (R225). -/
def endsTask (s : State) (n : Nat) : Bool :=
  match (fetchWord s n).map decodeWord with
  | some (.instr .taskEnd) | some (.instr .cEnd) => true
  | _ => false

/-- What is delivered at an instruction boundary before the instruction there issues (R225, R342, R348): TIMER at user level; in a
non-DET context a fault of an engine command, at either level, and at user level a held completion. -/
def boundary (s : State) (n : Nat) : Option State :=
  let c := coreAt s n
  if countDecided s n then none
  else if c.timerDue && !c.priv then
    some (takeTrap (updCore s n (fun c => { c with timerDue := false })) n { cause := .timer, info := 0#32, async := true })
  else if detOf s n then none
  else
    match c.afaults.find? (fun f => decide (f.cause = .engine)) with
    | some f => some (takeTrap (dropFault s n f) n (asyncTrap f))
    | none => if deliverable c && !endsTask s n then some (deliverInt s n) else none

/-- One move of core n: what is to be delivered at its boundary, or at that of a member of its gang, comes first (R90). -/
def coreMove (run : Instr → State → Out) (s : State) (n : Nat) : Out :=
  let c := coreAt s n
  let s := { s with cur := n }
  if c.trap.isSome then .next (handlerEntry s n)
  else if c.task.isNone then .next (startTask s n)
  else if canRun s n = false then .next s
  else
    match boundary s n with
    | some s' => .next s'
    | none =>
      match gangOf s n with
      | some g =>
        match (membersOf g n).find? (fun m => (coreAt s m).trap.isSome) with
        | some m => .next (handlerEntry s m)
        | none =>
          match (membersOf g n).findSome? (fun m => if canRun s m then boundary s m else none) with
          | some s' => .next s'
          | none => runGang run s n g
      | none => runFetched run s n

/-- Core n tries the instruction that it waits at again; of a gang it alone does. -/
def coreAgain (run : Instr → State → Out) (s : State) (n : Nat) : Out :=
  let c := coreAt s n
  let s := { s with cur := n }
  if c.trap.isSome then .next (handlerEntry s n)
  else if canRun s n = false then .next s
  else
    match boundary s n with
    | some s' => .next s'
    | none =>
      match gangOf s n with
      | some _ => runJoined run s n [n]
      | none => runFetched run s n

end Sys2Proof.Machine
end

