-- ==== Sys2Proof/Machine/Launch.lean ====
section
/-! DEFINITION. The task and launch instructions (R125 to R130) and the record-pool controller (R126). -/

namespace Sys2Proof.Machine

/-- lrec.rd (R125): word w of the task's own arming. -/
def lrecRdBody (d : Reg) (w : BitVec 5) (s : State) : Body :=
  if 28 < w.toNat then illegal (.lrecRd d w)
  else
    match taskEnv s s.cur with
    | some (_, _, u) => interlock s [sres (me s) d (u.copy.getD w.toNat 0#32)]
    | none => .ok s

def execLrecRd (d : Reg) (w : BitVec 5) (s : State) : Out :=
  issue (.lrecRd d w) { names := [nS d] } (lrecRdBody d w) s

/-- The request of core n joins the record-pool controller's queue (R126); its result is pending until the answer. -/
def poolRequest (s : State) (c n : Nat) (ws : List Write) : State :=
  updCtx (pend s n .pool 0#4 ws 0#5 []) c (fun x => { x with pool := x.pool ++ [n] })

/-- A patched record: the new word and the recomputed CHECK (R33). -/
def patchRecord (s : State) (c : Nat) (x : Ctx) (i w : Nat) (v : Word) : State :=
  let s := setRecWord s c x i w v
  setRecWord s c x i 31 (crc32c (wordsBytes (recWords s c x i)))

/-- PATCH allows word w (R33, R126). -/
def patchable (s : State) (c : Nat) (x : Ctx) (i w : Nat) : Bool :=
  (recWord s c x i 28).getLsbD w && !([0, 1, 28, 29, 30, 31].contains w)

/-- lrec.patch (R126, R128). Of a record of the context it reads PATCH and STATUS, whose row it leaves open (R410). -/
def lrecPatchBody (a b : Reg) (w : BitVec 5) (s : State) : Body :=
  let k := me s
  let i := (rdS k a.toNat).toNat
  match taskEnv s s.cur with
  | none => .ok s
  | some (t, x, _) =>
    let read := openRec s t.ctx x i
    let refuse := fun (k : Nat) => Body.fault read { cause := .priv, info := word (k * 2 ^ 24 + i) }
    if nrec x ≤ i then raise .priv (word (0x01000000 + i % 2 ^ 24))
    else if patchable s t.ctx x i w.toNat = false then refuse 2
    else if i = t.ridx then refuse 3
    else if liveState (recState s t.ctx x i) then
      if x.det then .wait .quiet read else refuse 4
    else .ok (poolRequest (patchRecord s t.ctx x i w.toNat (rdS k b.toNat)) t.ctx s.cur [])

def execLrecPatch (a b : Reg) (w : BitVec 5) (s : State) : Out :=
  issue (.lrecPatch a b w) { names := [nS a, nS b] } (lrecPatchBody a b w) s

/-- lrec.arm (R127, R128, R51). A wait reads STATUS, whose row it leaves open (R410). -/
def lrecArmBody (d a b : Reg) (s : State) : Body :=
  let k := me s
  let i := (rdS k a.toNat).toNat
  match taskEnv s s.cur with
  | none => .ok s
  | some (t, x, _) =>
    if i = t.ridx then .ok (poolRequest s t.ctx s.cur [sres k d 3#32])
    else if i < nrec x ∧ x.det = true ∧ liveState (recState s t.ctx x i) = true then .wait .quiet (openRec s t.ctx x i)
    else
      let (s', r) := armRecord s t.ctx i (rdS k b.toNat)
      .ok (poolRequest s' t.ctx s.cur [sres k d (word r)])

def execLrecArm (d a b : Reg) (s : State) : Out :=
  issue (.lrecArm d a b) { names := [nS d, nS a, nS b] } (lrecArmBody d a b) s

/-- The oldest record-pool result of a core is written. -/
def answerCore (k : Core) : Core := completeFirst (fun p => decide (p.kind = .pool)) k

/-- RECORD_POOL_ANSWER: the controller of context input.who answers its oldest request. -/
def poolAnswer (s : State) (c : Nat) : State :=
  match ctxAt s c with
  | none => s
  | some x =>
    match x.pool with
    | [] => s
    | n :: rest => updCore (setCtx s c { x with pool := rest }) n answerCore

def execRecordPoolAnswer (s : State) : Out := .next (poolAnswer s s.input.who)

/-- tq.req (R129): m items of the window of this instruction. -/
def tqReqBody (d a : Reg) (s : State) : Body :=
  let k := me s
  let m := (rdS k a.toNat).toNat
  if m = 0 ∨ 255 < m then illegal (.tqReq d a)
  else
    match taskEnv s s.cur with
    | none => .ok s
    | some (t, x, u) =>
      let q : TqReq := { core := prel x s.cur, win := windowOf x u k, m := m, dest := d.toNat, bank := banked k d.toNat }
      .ok (updRun (pend s s.cur .window 0#4 [sres k d 0#32] 0#5 []) t.ctx t.ridx (fun u => { u with tqreqs := u.tqreqs ++ [q] }))

def execTqReq (d a : Reg) (s : State) : Out := issue (.tqReq d a) { names := [nS d, nS a] } (tqReqBody d a) s

/-- grp.rd (R130) from the copy of the last seal. -/
def grpRdBody (d a : Reg) (sel : BitVec 5) (s : State) : Body :=
  let k := me s
  let g := (rdS k a.toNat).toNat % 256
  match taskEnv s s.cur with
  | none => .ok s
  | some (_, x, _) =>
    let r :=
      match sel.toNat with
      | 0 => groupWord x g 0
      | 1 => groupWord x g 1
      | _ =>
        match groupIndex x g (prel x s.cur) with
        | some i => word i
        | none => 0xFFFFFFFF#32
    if 3 ≤ sel.toNat then illegal (.grpRd d a sel) else interlock s [sres k d r]

def execGrpRd (d a : Reg) (sel : BitVec 5) (s : State) : Out :=
  issue (.grpRd d a sel) { names := [nS d, nS a] } (grpRdBody d a sel) s

end Sys2Proof.Machine
end

