-- ==== Sys2Proof/Machine/Access.lean ====
section
/-! DEFINITION. What guards an access to a located element: NONDET, range locks, announced marks, phases and conflict words,
trackers, poison (R166 to R178, R229, R231, R283, R295, R302, R352, R353). -/

namespace Sys2Proof.Machine

/-- The answer of a guard: go on, trap, or wait. -/
inductive Guard where
  | pass
  | trap (r : TrapReq)
  | wait (k : WaitKind)

/-- The first guard of a list that does not let the access pass. -/
def firstGuard : List Guard → Guard
  | [] => .pass
  | .pass :: l => firstGuard l
  | g :: _ => g

/-- A guard from a check. -/
def Guard.ofTrap : Option TrapReq → Guard
  | some r => .trap r
  | none => .pass

/-- Go on with an access that all guards pass. -/
def guarded (s : State) (g : Guard) (go : Body) : Body :=
  match g with
  | .pass => go
  | .trap r => .trap r
  | .wait k => .wait k s

/-- NONDET with its entry, reason and core (R177). -/
def nondetTrap (entry reason core : Nat) : TrapReq :=
  { cause := .nondet, info := word (entry % 256 * 2 ^ 24 + reason * 2 ^ 20 + core % 2 ^ 16) }

/-- The partition-relative core of a home (R177). -/
def homeCore (E : Env) (h : Home) : Nat :=
  match h with
  | .slice k => prel E.x k
  | _ => E.prel

/-- The access is to another core's slice. -/
def remoteHome (n : Nat) (h : Home) : Bool :=
  match h with
  | .slice k => decide (k ≠ n)
  | _ => false

/-- A core and a home are both members of the entry's GROUP. -/
def bothMembers (E : Env) (e : Entry) (h : Home) : Bool :=
  (groupIndex E.x e.group E.prel).isSome && (groupIndex E.x e.group (homeCore E h)).isSome

/-! ## Range locks (R176, R229, R231) -/

/-- The physical line of slice offset b, and its bank row (R158, R159). -/
def physLine (bankp b : Nat) : Nat := physOff bankp b / 64

/-- The lock covers physical line k of its slice: the line holds a granule of the range. -/
def coversLine (l : Lock) (k : Nat) : Bool :=
  (List.range 8).any (fun b =>
    let g := k / 2 * 8 + b
    decide (bankOf l.bankp b / 4 = k % 2 ∧ l.lo / 16 ≤ g ∧ g ≤ l.hi / 16))

/-- Two ranges of one slice have a physical line in common. Of rows that lie inside both ranges every line is covered. -/
def sliceOverlap (l m : Lock) : Bool :=
  let a := max (l.lo / 128) (m.lo / 128)
  let b := min (l.hi / 128) (m.hi / 128)
  decide (a ≤ b) && (decide (a + 1 < b) ||
    [2 * a, 2 * a + 1, 2 * b, 2 * b + 1].any (fun k => coversLine l k && coversLine m k))

/-- Two ranges of a virtual space have a 64-byte line in common. -/
def farOverlap (l m : Lock) : Bool := decide (l.lo / 64 ≤ m.hi / 64 ∧ m.lo / 64 ≤ l.hi / 64)

/-- The bytes that elements touch. -/
def elemsBytes (locs : List Nat) (w : Nat) : List Nat := locs.flatMap (fun a => elemBytes a w)

/-- The ranges that the matrix instructions of core k have registered: in its own slice, until they complete (R250, R251). -/
def matrixLocks (s : State) (k : Nat) : List Lock :=
  (coreAt s k).inflight.filterMap (fun p => if p.done then none else p.lock)

/-- The source locks of the promises of a cluster (R370, R384). -/
def promiseLocks (x : Ctx) (k : Nat) : List Lock := (optAt x k).promises.flatMap (fun e => e.2.locks ++ e.2.glock)

/-- The locks that stand over a home: those of its cluster's tables, or of the context's far-range table. -/
def locksAt (s : State) (x : Ctx) (h : Home) : List Lock :=
  match h with
  | .slice k =>
    (clusterAt s (clusterOf k)).locks.filter (fun l => decide (l.place = k)) ++ matrixLocks s k ++
      (promiseLocks x (clusterOf k)).filter (fun l => decide (l.place = k))
  | .dram => x.far.filter (fun l => decide (l.place = 2))
  | .pool => x.far.filter (fun l => decide (l.place = 3))
  | .bad => []

/-- LOCKED (R231). -/
def lockedTrap (E : Env) (entry : Nat) (h : Home) (l : Lock) : TrapReq :=
  let far := match h with
    | .slice _ => 0
    | _ => 1
  { cause := .locked
    info := word (entry % 256 * 2 ^ 24 + (if l.dst then 0 else 1) * 2 ^ 23 + far * 2 ^ 22 + prel E.x l.owner % 2 ^ 16) }

/-- A lock covers the line of byte b of an entry with the bank permutation. -/
def lockCovers (l : Lock) (h : Home) (bankp b : Nat) : Bool :=
  match h with
  | .slice _ => coversLine l (physLine bankp b)
  | _ => decide (l.lo / 64 ≤ b / 64 ∧ b / 64 ≤ l.hi / 64)

/-- The first lock over some line of the elements that the access meets: destinations only, or sources as well. -/
def lockGuard (s : State) (E : Env) (e : Entry) (h : Home) (locs : List Nat) (stores : Bool) : Option TrapReq :=
  let bs := elemsBytes locs e.width
  match (locksAt s E.x h).find? (fun l => (stores || l.dst) && bs.any (lockCovers l h e.bankp)) with
  | some l => some (lockedTrap E e.num h l)
  | none => none

/-! ## Announced marks (R283) -/

/-- The first mark on a granule of the elements, by its key. -/
def markOn (s : State) (x : Ctx) (grans : List Nat) : Option Nat :=
  grans.findSome? (fun g => (tgetD s.marks g []).head?.map (fun m => prel x m.2.2))

/-- In a DET context an access to a marked granule is NONDET with reason 0xD. -/
def markGuard (s : State) (E : Env) (e : Entry) (h : Home) (locs : List Nat) : Option TrapReq :=
  match h with
  | .slice k => if E.x.det then (markOn s E.x (granulesOf e k locs)).map (nondetTrap e.num 0xD) else none
  | _ => none

/-! ## Phases and conflict words (R166, R171, R172, R302) -/

/-- The stamp of a phase. -/
def stampOf (p : BitVec 16) : BitVec 16 := p ^^^ 0x8000#16

/-- The phase of a core in a group, and the group's release count (R300). -/
def phaseOf (x : Ctx) (g n : Nat) : BitVec 16 := tgetD x.cps (8192 * g + n) 0#16
def releaseOf (x : Ctx) (g : Nat) : BitVec 16 := ((tget x.gruns g).map (·.g)).getD 0#16

/-- The release count has reached a phase: (G - p) mod 2^16 < 2^15. -/
def reached (g p : BitVec 16) : Bool := decide ((g - p).toNat < 2 ^ 15)

/-- The phase that an access carries: none where it neither checks nor stamps; the flag tells a member. -/
def carried (E : Env) (e : Entry) (remote : Bool) : Option (BitVec 16 × Bool) :=
  if E.x.det || e.chk then
    if (groupIndex E.x e.group E.prel).isSome then some (phaseOf E.x e.group E.prel, true)
    else if remote && !E.x.det then some (releaseOf E.x e.group, false)
    else none
  else none

/-- WST and RST of a line. -/
def wstOf (w : Word) : BitVec 16 := w.extractLsb' 16 16
def rstOf (w : Word) : BitVec 16 := w.extractLsb' 0 16

/-- CONFLICT (R178): KIND and the line of the first conflicting byte. -/
def conflictTrap (entry kind b : Nat) : TrapReq :=
  { cause := .conflict, info := word (entry % 256 * 2 ^ 24 + kind * 2 ^ 23 + b / 64 % 2 ^ 15) }

/-- The first byte of the elements whose line bears the stamp that forbids the access. -/
def conflictByte (s : State) (e : Entry) (core : Nat) (locs : List Nat) (write : Bool) (st : BitVec 16) : Option Nat :=
  (elemsBytes locs e.width).find? (fun b =>
    let w := sget 0#32 s.conf (lineKey core (physOff e.bankp b))
    decide ((if write then rstOf w else wstOf w) = st))

/-- Stamp the lines of the elements. -/
def stampLines (s : State) (lines : List Nat) (write : Bool) (st : BitVec 16) : State :=
  lines.foldl (fun s k =>
    let w := sget 0#32 s.conf k
    { s with conf := sset 0#32 s.conf k (if write then st ++ rstOf w else wstOf w ++ st) }) s

/-- The check of R171 and R295 for an access that carries a phase. -/
def conflictGuard (s : State) (E : Env) (e : Entry) (h : Home) (locs : List Nat) (write : Bool) : Option TrapReq :=
  match h with
  | .slice k =>
    match carried E e (remoteHome E.n h) with
    | some (p, _) => (conflictByte s e k locs write (stampOf p)).map (conflictTrap e.num (if write then 1 else 0))
    | none => none
  | _ => none

/-- The stamps of R171 and R295. -/
def stampAccess (s : State) (E : Env) (e : Entry) (h : Home) (locs : List Nat) (write : Bool) : State :=
  match h with
  | .slice k =>
    match carried E e (remoteHome E.n h) with
    | some (p, _) => stampLines s (linesOf e k locs) write (stampOf p)
    | none => s
  | _ => s

/-- R302: a member's read waits until its group has reached the phase it carries. -/
def phaseGuard (E : Env) (e : Entry) (h : Home) : Guard :=
  match h with
  | .slice _ =>
    match carried E e (remoteHome E.n h) with
    | some (p, true) => if reached (releaseOf E.x e.group) p then .pass else .wait .phase
    | _ => .pass
  | _ => .pass

/-! ## Trackers (R292, R295) -/

/-- The granule (key) has a tracker or a held entry at its bank unit. -/
def trackedGran (s : State) (g : Nat) : Bool :=
  let k := coreAt s (g / 2 ^ 17)
  k.trackers.any (fun t => decide (t.gran = g % 2 ^ 17)) || k.rob.any (fun a => decide (a.gran = g % 2 ^ 17))

/-- The next expected index of a granule (R292). -/
def expectedIdx (s : State) (g : Nat) : Nat :=
  match (coreAt s (g / 2 ^ 17)).trackers.find? (fun t => decide (t.gran = g % 2 ^ 17)) with
  | some t => t.next
  | none => 0

/-- The round of a granule: its metadata byte (R291). -/
def roundOf (s : State) (g : Nat) : Nat := (s.gmeta.read g).toNat

/-- Physical granule g lies at this granule of slice offsets. -/
def logGran (bankp g : Nat) : Nat := g / 8 * 8 + ((List.range 8).find? (fun b => decide (bankOf bankp b = g % 8))).getD 0

/-- The least i from lo on, of n candidates, for which f answers. -/
def firstOf {α : Type} (f : Nat → Option α) : Nat → Nat → Option α
  | 0, _ => none
  | n + 1, lo =>
    match f lo with
    | some r => some r
    | none => firstOf f n (lo + 1)

/-- The least c0 whose element, with its first coordinate at bit address a, has a bit in the 128 bits from bit lo. -/
def firstC0 (e : Entry) (lo a : Nat) : Option Nat :=
  let c := if lo < a + e.width then 0 else if e.str 0 = 0 then e.ext 0 else (lo + 1 - e.width - a + e.str 0 - 1) / e.str 0
  if c < e.ext 0 ∧ a + c * e.str 0 < lo + 128 ∧ lo < a + c * e.str 0 + e.width then some c else none

/-- The coordinates of the element with the lowest canonical index that has a bit in logical granule g. -/
def firstElem (e : Entry) (g : Nat) : Option (List Nat) :=
  let lo := 128 * g
  firstOf (fun c3 => firstOf (fun c2 => firstOf (fun c1 =>
    (firstC0 e lo (8 * e.base + c1 * e.str 1 + c2 * e.str 2 + c3 * e.str 3)).map (fun c0 => [c0, c1, c2, c3])) (e.ext 1) 0)
    (e.ext 2) 0) (e.ext 3) 0

/-- The EXTRA word of TICKET-GAP and TICKET-DUP (R298): the canonical index of that element of physical granule g. -/
def ticketExtra (e : Entry) (g : Nat) : Word :=
  match firstElem e (logGran e.bankp (g % 2 ^ 17)) with
  | some cs => canonical e cs
  | none => 0xFFFFFFFF#32

/-- TICKET-GAP and TICKET-DUP (R298). g is the granule's key. -/
def ticketTrap (cause : Cause) (e : Entry) (g round index : Nat) : TrapReq :=
  { cause := cause, info := word (e.num % 256 * 2 ^ 24 + round % 256 * 2 ^ 16 + index % 2 ^ 16), extra := ticketExtra e g }

/-- TICKET-GAP of a waiting granule. -/
def gapTrap (s : State) (e : Entry) (g : Nat) : TrapReq := ticketTrap .ticketGap e g (roundOf s g) (expectedIdx s g)

/-- The core has waited in this way for the budget of its TFWD register (R357). -/
def gapDue (c : Core) (k : WaitKind) : Bool :=
  match c.wait with
  | some w => decide (w.kind = k) && decide (c.cr.tfwd.toNat ≤ w.cycles)
  | none => false

/-- R295: a load through a TKT entry waits until its granules have neither, for TFWD cycles at most. -/
def ticketGuard (s : State) (E : Env) (e : Entry) (h : Home) (locs : List Nat) : Guard :=
  match h with
  | .slice k =>
    if e.tkt && (E.x.det || e.chk) then
      match (granulesOf e k locs).find? (trackedGran s) with
      | some g => if gapDue E.c .ticketLoad then .trap (gapTrap s e g) else .wait .ticketLoad
      | none => .pass
    else .pass
  | _ => .pass

/-! ## Metadata bytes (R166 to R170) -/

/-- The full bit, the version, and the whole byte as a round (R291). -/
def fullBit (s : State) (g : Nat) : Bool := (s.gmeta.read g).getLsbD 7
def versionOf (s : State) (g : Nat) : Nat := (s.gmeta.read g).toNat % 128

/-- Set the full bit, or the version, of granules. -/
def setFull (s : State) (grans : List Nat) (b : Bool) : State :=
  grans.foldl (fun s g =>
    { s with gmeta := s.gmeta.write g (if b then s.gmeta.read g ||| 0x80#8 else s.gmeta.read g &&& 0x7F#8) }) s
def setVersion (s : State) (grans : List Nat) (v : Nat) : State :=
  grans.foldl (fun s g => { s with gmeta := s.gmeta.write g ((s.gmeta.read g &&& 0x80#8) ||| BitVec.ofNat 8 (v % 128)) }) s

/-- d of R168. -/
def verDist (s : State) (g v : Nat) : Nat := (versionOf s g + 128 - v % 128) % 128
def isPast (s : State) (v g : Nat) : Bool := decide (1 ≤ verDist s g v ∧ verDist s g v ≤ 63)
def isBehind (s : State) (v g : Nat) : Bool := decide (64 ≤ verDist s g v)

/-- VPASSED (R178). -/
def vpassedTrap (entry have_ want : Nat) : TrapReq :=
  { cause := .vpassed, info := word (entry % 256 * 2 ^ 24 + have_ % 128 * 2 ^ 17 + want % 128 * 2 ^ 10) }

/-- The tracker of a VER entry (R169). -/
def rtrackOf (x : Ctx) (entry : Nat) : RTracker := tgetD x.rtrack entry { rver := 0, rmask := [] }

/-- Version v of an entry is reclaimed (R170). -/
def reclaimed (x : Ctx) (entry v : Nat) : Bool := decide (((rtrackOf x entry).rver + 128 - v % 128) % 128 ≤ 63)

/-! ## Poison (R352, R353) -/

/-- POISON (R353). -/
def poisonTrap (entry src where_ : Nat) : TrapReq :=
  { cause := .poison, info := word (entry % 256 * 2 ^ 24 + src * 2 ^ 22 + where_ % 2 ^ 21) }

/-- The key of a DRAM granule. -/
def dramGran (core off : Nat) : Nat := 2 ^ 21 * core + off / 16

/-- The unit number of a poisoned byte: slice offset div 16, or channel offset div 16. Where a unit of a caddy lies in its channel is a
free value (log 4). -/
def poisonedByte (s : State) (c : Nat) (x : Ctx) (e : Entry) (h : Home) (b : Nat) : Option Nat :=
  match placeOf x e h b with
  | .slice k o => if s.poison.contains (granKey k o) then some (b / 16) else none
  | .dram k o => if s.dpoison.contains (dramGran k o) then some (o / 16) else none
  | .caddy o _ =>
    if s.dpoison.contains (caddyGran c o) then some (128 * Config.caddyRow (caddyKey c o / 2048) + o % 2048 / 16) else none
  | _ => none

/-- POISON of the lowest poisoned granule that the elements touch. -/
def poisonGuard (s : State) (E : Env) (e : Entry) (h : Home) (locs : List Nat) : Option TrapReq :=
  if s.poison = [] ∧ s.dpoison = [] then none
  else
    match (elemsBytes locs e.width).filterMap (poisonedByte s E.t.ctx E.x e h) with
    | [] => none
    | w :: l =>
      some (poisonTrap e.num (match h with
        | .slice _ => 0
        | _ => 1) (l.foldl min w))

/-- Bit k of a slice offset is one of the elements' bits. -/
def coversBit (locs : List Nat) (w k : Nat) : Bool := locs.any (fun a => decide (a ≤ k ∧ k < a + w))

/-- A store that replaces a whole granule clears its poison. -/
def clearPoison (s : State) (e : Entry) (h : Home) (locs : List Nat) : State :=
  match h with
  | .slice k =>
    if s.poison = [] then s
    else
      let whole := ((elemsBytes locs e.width).map (· / 16)).eraseDups.filter (fun g =>
        (List.range 128).all (fun j => coversBit locs e.width (128 * g + j)))
      let keys := whole.map (fun g => granKey k (physOff e.bankp (16 * g)))
      { s with poison := s.poison.filter (fun p => !keys.contains p) }
  | _ => s

/-! ## DRAM rows (R410) -/

/-- Every access of context c to a channel leaves its row open. -/
def openRow (s : State) (c : Nat) (p : Place) : State :=
  match p with
  | .dram k o => { s with rowOpen := tset s.rowOpen k (o / 2048) }
  | .caddy b k => { s with rowOpen := tset s.rowOpen k (Config.caddyRow (caddyKey c b / 2048)) }
  | _ => s

/-- Accesses of context c to places, in order. -/
def openRows (s : State) (c : Nat) (ps : List Place) : State := ps.foldl (fun s p => openRow s c p) s

/-- Phodiver has gone through channels: some row of each is left open (R404, R358). -/
def sweepRows (s : State) (ks : List Nat) : State :=
  ks.foldl (fun s k => { s with rowOpen := tset s.rowOpen k (Config.zeroedRow s.fresh k) }) { s with fresh := s.fresh + 1 }

/-- The places that an access to the element at bit address a touches: those of its first and its last byte. Where both rows are of one
channel, that of the last byte is left open (log 52). -/
def elemPlaces (x : Ctx) (e : Entry) (h : Home) (a : Nat) : List Place :=
  [placeOf x e h (firstByte a), placeOf x e h (lastByte a e.width)]

/-- The first unmapped byte of SPACE 2 elements: PAGE (R227). -/
def pageGuard (x : Ctx) (h : Home) (locs : List Nat) (w : Nat) : Option TrapReq :=
  match h with
  | .dram =>
    ((elemsBytes locs w).find? (fun b => decide (dramPlace x b = .none))).map (fun b =>
      { cause := .page, info := word (b / 2 ^ 16) })
  | _ => none

/-! ## Waits on a home (R164) -/

/-- The core already waits on the memory system at this instruction: its request has reached the home. -/
def atHome (c : Core) : Bool :=
  match c.wait with
  | some w => [WaitKind.bank, .fullEmpty, .version, .phase, .ticketLoad, .ticket, .mutex, .reclaim, .count].contains w.kind
  | none => false

/-- A remote access goes to its home first. -/
def homeGuard (E : Env) (h : Home) : Guard := if remoteHome E.n h && !atHome E.c then .wait .bank else .pass

/-! ## Delays (R2, R164, R405) -/

/-- The hop count of two logical cores on the logical mesh. -/
def hops (a b : Nat) : Nat :=
  let x := fun n => 8 * (n / 8 % 8) + n % 8
  let y := fun n => n / 64
  (x a - x b) + (x b - x a) + (y a - y b) + (y b - y a)

/-- The path of a home core for core n: the same cluster, or another. -/
def slicePath (n k : Nat) : Nat := if clusterOf n = clusterOf k then 0 else 1

/-- A reply to core n over a path with h hops: DELAY = 2H + Q joins the accumulator of its class. Q is a free value (log 4). -/
def noteReply (s : State) (n path h : Nat) : State :=
  let q := Config.queueDelay s.fresh
  let d := min (2 * h + q) 0xFFFF
  let j := 16 * path + min h 15
  updCore { s with fresh := s.fresh + 1 } n (fun c =>
    { c with delaySum := tset c.delaySum j (min (tgetD c.delaySum j 0 + d) 0xFFFFFFFF)
             delayNum := tset c.delayNum j (min (tgetD c.delayNum j 0 + 1) 0xFFFFFFFF) })

/-- The reply of a home to core n. -/
def noteHome (s : State) (n : Nat) (h : Home) : State :=
  match h with
  | .slice k => if k = n then s else noteReply s n (slicePath n k) (hops n k)
  | _ => s

end Sys2Proof.Machine
end

