-- ==== Sys2Proof/Machine/Engines.lean ====
section
/-! DEFINITION. The copy, gather and exchange engines (10, R213 to R243): shadow registers, LAUNCH, range locks, the walk over
elements, completion, translation faults, and the MBOX commands of R227. -/

namespace Sys2Proof.Machine

/-! ## Shadow registers and captured blocks (R214 to R217, R232, R234) -/

/-- G of an engine (R213). -/
def CmdKind.g : CmdKind → Nat
  | .copy => 0
  | .gather => 1
  | .exchange => 2

/-- Shadow register E of engine G. -/
def shadowOf (c : Core) (g e : Nat) : Word := sget 0#32 c.shadow (16 * g + e)

/-- Register E of a captured block. -/
def Cmd.reg (k : Cmd) (e : Nat) : Word := sget 0#32 k.block e

/-- The halves of a register that holds two coordinates: c2 below, c3 above. -/
def loHalf (w : Word) : Nat := w.toNat % 65536
def hiHalf (w : Word) : Nat := w.toNat / 65536

/-- The control, handler and BAR fields of a copy or gather block (R217, R224). -/
def Cmd.ctl (k : Cmd) : Word := k.reg 0xB
def Cmd.vers (k : Cmd) : Nat := field k.ctl 7 1
def Cmd.bar (k : Cmd) : Bool := decide (k.kind ≠ .exchange) && k.ctl.getLsbD 8
def Cmd.gsel (k : Cmd) : Nat := field k.ctl 10 9
def Cmd.tr (k : Cmd) : Bool := k.ctl.getLsbD 0

/-- The entries of a command as it captured them. -/
def Cmd.srcE (k : Cmd) : Entry := { num := k.src.1, words := k.src.2 }
def Cmd.dstE (k : Cmd) : Entry := { num := k.dst.1, words := k.dst.2 }
def Cmd.idxE (k : Cmd) : Entry := { num := k.idx.1, words := k.idx.2 }

/-- The transfer id of a command (R215). -/
def xidOf (kind : CmdKind) (seq : Nat) : Word := word (seq * 4 + kind.g)

/-- What a LAUNCH of core E.n captures now: the block, HBASE, and the view of every entry that the block names. -/
def capture (E : Env) (kind : CmdKind) : Cmd :=
  let c := E.c
  let ent := fun e => let h := viewOf c E.u (entryNum c ((shadowOf c kind.g e).toNat % 32)); (h.num, h.words)
  let hnd := shadowOf c kind.g 0xC
  let ctl := shadowOf c kind.g 0xB
  let grp := c.cr.grp.getD (field ctl 10 9) 0#32
  { kind := kind, ctx := E.t.ctx, seq := (c.seq + 1) % 2 ^ 30, pc := c.pc
    block := (List.range 16).filterMap (fun e =>
      if shadowOf c kind.g e = 0#32 then none else some (e, shadowOf c kind.g e))
    hbase := c.cr.hbase.toNat
    src := ent 0, dst := ent 1, idx := if kind = .gather then ent 9 else (0, [])
    next := 0, ninv := 0, noor := 0, partly := false, fault := none
    group := if kind ≠ .exchange ∧ ctl.getLsbD 8 = true ∧ grp.getLsbD 31 = true then some (grp.toNat % 256) else none
    handler := if hnd.getLsbD 31 then some (hnd.toNat % 2 ^ 15) else none
    joined := decide (kind ≠ .exchange), count := 0 }

/-! ## Ranges (R229, R230) -/

/-- A range of a command: its entry, home, origin and far corner, and whether it is the destination. -/
structure Side where
  entry : Entry
  home  : Home
  o     : List Nat
  f     : List Nat
  dst   : Bool

/-- Coordinates of an entry from a list. -/
def coordsL (e : Entry) (l : List Nat) : List Nat := coordsOf e (l.getD 0 0) (l.getD 1 0) (l.getD 2 0) (l.getD 3 0)

/-- The range from origin o over the extents box; an extent of 0 counts as 1. -/
def sideOf (x : Ctx) (n : Nat) (e : Entry) (o box : List Nat) (dst : Bool) : Side :=
  { entry := e, home := homeOf x n e, o := coordsL e o
    f := coordsL e ((List.range 4).map (fun d => o.getD d 0 + max (box.getD d 1) 1 - 1)), dst := dst }

/-- The origins and the box of a command. -/
def Cmd.srcO (k : Cmd) : List Nat :=
  match k.kind with
  | .copy => [(k.reg 2).toNat, (k.reg 3).toNat, loHalf (k.reg 4), hiHalf (k.reg 4)]
  | .gather => [(k.reg 2).toNat, 0, loHalf (k.reg 4), hiHalf (k.reg 4)]
  | .exchange => [(k.reg 2).toNat, (k.reg 3).toNat, 0, 0]
def Cmd.dstO (k : Cmd) : List Nat :=
  match k.kind with
  | .exchange => [(k.reg 5).toNat, (k.reg 6).toNat, 0, 0]
  | _ => [(k.reg 5).toNat, (k.reg 6).toNat, loHalf (k.reg 7), hiHalf (k.reg 7)]
def Cmd.rowlen (k : Cmd) : Nat := (k.reg 8).toNat
def Cmd.rows (k : Cmd) : Nat := (k.reg 3).toNat
def Cmd.box (k : Cmd) : List Nat :=
  match k.kind with
  | .copy => [(k.reg 8).toNat, (k.reg 9).toNat, loHalf (k.reg 0xA), hiHalf (k.reg 0xA)]
  | .gather => [k.rowlen, k.rows, 1, 1]
  | .exchange => [256, 32, 1, 1]

/-- The ranges of a command of core n: source, destination, index list. -/
def sidesOf (x : Ctx) (n : Nat) (k : Cmd) : List Side :=
  let sbox := match k.kind with
    | .gather => [k.rowlen, k.srcE.ext 1, 1, 1]
    | _ => k.box
  [sideOf x n k.srcE k.srcO sbox false, sideOf x n k.dstE k.dstO k.box true] ++
    (if k.kind = .gather then [sideOf x n k.idxE [(k.reg 0xA).toNat, 0, 0, 0] [k.rows, 1, 1, 1] false] else [])

/-- The first and the last byte of a range's hull. -/
def Side.lo (r : Side) : Nat := firstByte (bitAddr r.entry r.o)
def Side.hi (r : Side) : Nat := lastByte (bitAddr r.entry r.f) r.entry.width

/-- The lock of a range. -/
def Side.lock (r : Side) (n seq : Nat) : Lock :=
  { place := (match r.home with
      | .slice k => k
      | .dram => 2
      | .pool => 3
      | .bad => 0)
    lo := r.lo, hi := r.hi, bankp := r.entry.bankp, dst := r.dst, owner := n, seq := seq }

/-- Two locks over one home share a line. -/
def locksMeet (h : Home) (l m : Lock) : Bool :=
  match h with
  | .slice _ => sliceOverlap l m
  | _ => farOverlap l m

/-- Two ranges of one command share a line. -/
def sidesMeet (a b : Side) : Bool := decide (a.home = b.home) && locksMeet a.home (a.lock 0 0) (b.lock 0 0)

/-- The first registered lock that a new range overlaps, one of the two being a destination. -/
def clashAt (s : State) (x : Ctx) (n : Nat) (r : Side) : Option (Side × Lock) :=
  ((locksAt s x r.home).find? (fun m => (r.dst || m.dst) && locksMeet r.home (r.lock n 0) m)).map (fun m => (r, m))

/-- The cores of a cluster, by slot. -/
def clusterCores (c : Nat) : List Nat := (List.range 8).map (fun j => 8 * c + j)

/-- Every table has room for the ranges: 64 entries of a cluster, 256 of the far-range table (R229). -/
def tableRoom (s : State) (x : Ctx) (rs : List Side) : Bool :=
  let inSlice := fun (r : Side) => match r.home with
    | .slice k => some (clusterOf k)
    | _ => none
  rs.all (fun r =>
    match inSlice r with
    | some c => decide ((clusterAt s c).locks.length + (clusterCores c).foldl (fun a k => a + (matrixLocks s k).length) 0 + (rs.filter (fun q => decide (inSlice q = some c))).length ≤ 64)
    | none => decide (x.far.length + (rs.filter (fun q => decide (inSlice q = none))).length ≤ 256))

/-- Register a range. -/
def addLock (s : State) (c n seq : Nat) (r : Side) : State :=
  match r.home with
  | .slice k => updCluster s (clusterOf k) (fun y => { y with locks := y.locks ++ [r.lock n seq] })
  | _ => updCtx s c (fun x => { x with far := x.far ++ [r.lock n seq] })

/-- A command has a CXL pool range. -/
def Cmd.pool (k : Cmd) : Bool :=
  decide (k.srcE.space = 3 ∨ k.dstE.space = 3) || (decide (k.kind = .gather) && decide (k.idxE.space = 3))

/-- A slot is free for a command (R213). -/
def slotFree (c : Core) (k : Cmd) : Bool :=
  if k.kind = .exchange then !c.cmds.any (fun e => decide (e.2.kind = .exchange))
  else
    let l := c.cmds.filter (fun e => decide (e.2.kind ≠ .exchange))
    decide (l.length < 4) && (!k.pool || decide ((l.filter (fun e => e.2.pool)).length < 2))

/-! ## The checks of a LAUNCH (R223, R230, R231) -/

/-- Any entry, in any space that the partition has. -/
def anyForm : Form := { flags := fun _ => none, reach := fun _ => none }

/-- LAYOUT of a range, for its origin and its far corner (R230): 0x05 for a full-empty or versioned destination in a slice. -/
def sideTrap (E : Env) (r : Side) : Option TrapReq :=
  match entryCause E anyForm r.entry with
  | some k => some (layoutTrap k r.entry 0)
  | none =>
    let e := r.entry
    let split := r.dst && (e.fe || e.ver) && decide (e.space < 2) &&
      (spansGranules e (bitAddr e r.o) || spansGranules e (bitAddr e r.f))
    ((elemTrap E e r.o).or (elemTrap E e r.f)).or (if split then some (layoutTrap 0x05 e 0) else none)

/-- The lowest undeclared byte of a range's hull (R100, R230). -/
def undeclaredHull (E : Env) (r : Side) : Option Nat :=
  match r.home with
  | .slice _ =>
    let b := max r.lo E.u.kernel.ksp
    if entryOk E r.entry = true ∧ outOfRange r.entry r.o = none ∧ outOfRange r.entry r.f = none ∧ b ≤ r.hi ∧ b < 2 ^ 21
    then some b else none
  | _ => none

/-- RESOURCE of a LAUNCH (R230): a handle at or above NHND, then the lowest undeclared byte (R314: log 53). -/
def launchBytes (kind : CmdKind) (s : State) (n : Nat) : Option TrapReq :=
  match taskEnv s n with
  | none => none
  | some (t, x, u) =>
    let E : Env := { n := n, t := t, x := x, u := u, c := coreAt s n }
    let regs := if kind = .gather then [0, 1, 9] else [0, 1]
    match (regs.map (fun e => (shadowOf E.c kind.g e).toNat % 32)).find? (fun h => decide (u.kernel.nhnd ≤ h)) with
    | some h => some { cause := .resource, info := resourceInfo 5 h }
    | none =>
      match (sidesOf x n (capture E kind)).filterMap (undeclaredHull E) with
      | [] => none
      | b :: l => some { cause := .resource, info := resourceInfo 8 (l.foldl min b) }

/-- An extent of 0, or not 1 at or above the rank (R216, R223). An exchange has no extents of its own: through an entry of rank 1 all its
rows fold onto the first (log 57). -/
def badBox (k : Cmd) : Bool :=
  match k.kind with
  | .copy =>
    (List.range 4).any (fun d => decide (k.box.getD d 0 = 0) ||
      (decide (k.box.getD d 0 ≠ 1) && (decide (k.srcE.rank ≤ d) || decide (k.dstE.rank ≤ d))))
  | .gather =>
    decide (k.rows = 0 ∨ 8192 < k.rows ∨ k.rowlen = 0 ∨ 65536 < k.rowlen) || (decide (k.dstE.rank < 2) && decide (k.rows ≠ 1))
  | .exchange => false

/-- A must-be-zero field of the block is not zero. -/
def badZeros (k : Cmd) : Bool :=
  let regs := if k.kind = .gather then [0, 1, 9] else [0, 1]
  regs.any (fun e => decide (32 ≤ (k.reg e).toNat)) || decide (field (k.reg 0xC) 30 15 ≠ 0) ||
    (if k.kind = .exchange then decide (2 ≤ k.ctl.toNat) else decide (field k.ctl 31 11 ≠ 0 ∨ k.ctl.getLsbD 0 = true))

/-- The refusal reason of R223, in table order. rs are the ranges. -/
def refusalOf (k : Cmd) (rs : List Side) : Option Nat :=
  let srcs := if k.kind = .gather then [k.srcE, k.idxE] else [k.srcE]
  let d := k.dstE
  if k.srcE.fmt ≠ d.fmt ∨ (k.kind = .gather ∧ k.idxE.fmt ≠ fmtINT32) then some 0x01
  else if badBox k then some 0x02
  else if rs.any (fun r => !r.dst && rs.any (fun q => q.dst && sidesMeet r q)) then some 0x03
  else if srcs.any (fun e => !e.plain) || d.tkt || ((d.fe || d.ver) && decide (2 ≤ d.space)) then some 0x04
  else if badZeros k then some 0x05
  else if k.kind = .exchange ∧ (k.srcE.space ≠ 0 ∨ d.space ≠ 0 ∨ k.srcE.width < 8) then some 0x06
  else none

/-- The first announced mark in a range (R283): the logical core that set it. -/
def markInSide (s : State) (n : Nat) (r : Side) : Option Nat :=
  match r.home with
  | .slice k =>
    match s.marks.find? (fun e => decide (e.1 / 2 ^ 17 = k) && coversLine (r.lock n 0) (e.1 % 2 ^ 17 / 4)) with
    | some e => e.2.head?.map (fun m => m.2.2)
    | none => none
  | _ => none

/-- NONDET of a LAUNCH in a DET context: 0xA, 0xB, 0xD. -/
def launchNondet (s : State) (E : Env) (k : Cmd) (rs : List Side) : Option TrapReq :=
  if E.x.det = false then none
  else
    let d := k.dstE
    if d.fe || d.ver then
      if d.prod ≠ E.prel then some (nondetTrap d.num 0xA d.prod)
      else rs.findSome? (fun r => (markInSide s E.n r).map (fun m => nondetTrap r.entry.num 0xD (prel E.x m)))
    else if remoteHome E.n (homeOf E.x E.n d) = true ∧ k.bar = false then
      some (nondetTrap d.num 0xB (homeCore E (homeOf E.x E.n d)))
    else rs.findSome? (fun r => (markInSide s E.n r).map (fun m => nondetTrap r.entry.num 0xD (prel E.x m)))

/-! ## Completion (R222, R225, R242) -/

/-- Insert a completion that has a handler into the held ones, in ascending SEQ. -/
def insertIntr (e : Word × Nat) : List (Word × Nat) → List (Word × Nat)
  | [] => [e]
  | d :: l => if e.1.toNat ≤ d.1.toNat then e :: d :: l else d :: insertIntr e l

/-- The completion words that a core remembers: of its last 64 commands. -/
def keepDones (seq : Nat) (t : Table Word) : Table Word := t.filter (fun e => decide (seq - e.1 / 4 < 64))

/-- A command of core n ends with a completion word: its locks are released, its slot is free, a handler is held for delivery,
and a FAULT is reported (R342). -/
def finishCmd (s : State) (n : Nat) (k : Cmd) (w : Word) : State :=
  let xid := xidOf k.kind k.seq
  let s := releaseLocks s k.ctx n k.seq
  updCore s n (fun c =>
    { c with
      cmds := tdel c.cmds k.seq
      dones := keepDones (max c.seq k.seq) (tset c.dones xid.toNat w)
      intr := match k.handler with
        | some h => insertIntr (xid, h) c.intr
        | none => c.intr
      afaults := if w.toNat / 2 ^ 28 = 2 then
          c.afaults ++ [{ cause := .engine, info := xid, xid := xid, pc := k.pc, group := k.group }]
        else c.afaults })

/-- Completion words by code (R222). A gather's counts stand in its word under FAULT too. -/
def wordFault (k : Cmd) : Word := word (0x20000000 + k.noor * 2 ^ 14 + k.ninv)
def wordMismatch : Word := 0x40000000#32
def wordRefused (reason : Nat) : Word := word (0x30000000 + reason)
def wordDone (k : Cmd) : Word := word ((if k.partly then 2 ^ 28 else 0) + k.noor * 2 ^ 14 + k.ninv)

/-! ## The exchange join (R235, R238) -/

/-- Task q of the record of t exists. -/
def placed (s : State) (t : Task) (q : Nat) : Bool :=
  match (ctxAt s t.ctx).bind (fun x => runAt x t.ridx) with
  | some u => decide (q < tileCount (fun k => u.copy.getD k 0#32))
  | none => false

/-- A fatal trap has ended a task of core m, of the record of t, whose number has the property f (R349). -/
def trappedIn (s : State) (t : Task) (m : Nat) (f : Nat → Bool) : Bool :=
  match ctxAt s t.ctx with
  | some x => (runAt x t.ridx).any (fun u => u.fatals.any (fun e => decide (e.core = prel x m) && f e.t))
  | none => false

/-- Core m of the cluster is a participant of t's wave (R88, R235, R256): R59 places a task of the record and wave of t on it, and it
has not retired that task's task.end. A task that a fatal trap ended has not retired it (log 45). -/
def mayHold (s : State) (t : Task) (m : Nat) : Bool :=
  let q := t.t / 8 * 8 + m % 8
  let still := fun (v : Task) => decide (v.ctx = t.ctx ∧ v.ridx = t.ridx) &&
    (decide (v.wave = t.wave) || (decide (v.wave < t.wave) && placed s t q))
  match (coreAt s m).task, (coreAt s m).next with
  | some v, _ => still v
  | none, some v => still v
  | none, none => trappedIn s t m (· ≤ q) && placed s t q

/-- Core m holds a task of the record and wave of t. -/
def holdsWave (s : State) (t : Task) (m : Nat) : Bool :=
  match (coreAt s m).task with
  | some v => decide (v.ctx = t.ctx ∧ v.ridx = t.ridx ∧ v.wave = t.wave)
  | none => false

/-- The waiting exchange of a core. -/
def unjoined (c : Core) : Option Cmd := (c.cmds.find? (fun e => decide (e.2.kind = .exchange) && !e.2.joined)).map Prod.snd

/-- The exchange of core c has joined, and its launch has not retired. -/
def joinedNow (c : Core) : Option Cmd :=
  (c.cmds.find? (fun e => decide (e.2.kind = .exchange) && e.2.joined && decide (e.1 = (c.seq + 1) % 2 ^ 30))).map Prod.snd

/-- Every core of the cluster waits with an equal count. -/
def allWaiting (s : State) (t : Task) (cl count : Nat) : Bool :=
  (clusterCores cl).all (fun m => holdsWave s t m && (match unjoined (coreAt s m) with
    | some k => decide (k.count = count)
    | none => false))

/-- All exchanges of the cluster have joined. -/
def joinAll (s : State) (cl : Nat) : State :=
  (clusterCores cl).foldl (fun s m => updCore s m (fun c =>
    { c with cmds := c.cmds.map (fun e => if e.2.kind = .exchange then (e.1, { e.2 with joined := true }) else e) })) s

/-- A launch is retired: SEQ rises, sD takes the transfer id. -/
def launched (s : State) (E : Env) (kind : CmdKind) (d : Reg) (l : BitVec 4) : Body :=
  let seq := (E.c.seq + 1) % 2 ^ 30
  .ok (pend (updCore s E.n (fun c => { c with seq := seq, xcount := if kind = .exchange then c.xcount + 1 else c.xcount })) E.n .long l
    [sres E.c d (xidOf kind seq)] 0#5 [])

/-- The wait of a registered exchange: the last participant joins all eight; a set that cannot be eight completes with
MISMATCH. -/
def exchangeWait (s : State) (E : Env) (d : Reg) (l : BitVec 4) : Body :=
  let cl := clusterOf E.n
  match unjoined (coreAt s E.n) with
  | none => .wait .exchangeJoin s
  | some k =>
    if (clusterCores cl).all (mayHold s E.t) = false then
      launched (finishCmd (updCore s E.n (fun c => { c with seq := k.seq })) E.n k wordMismatch) E .exchange d l
    else if allWaiting s E.t cl k.count then launched (joinAll s cl) E .exchange d l
    else .wait .exchangeJoin s

/-! ## LAUNCH (R241) -/

/-- An accepted command is registered: its ranges and the command itself. -/
def register (s : State) (E : Env) (k : Cmd) (rs : List Side) : State :=
  updCore (rs.foldl (fun s r => addLock s E.t.ctx E.n k.seq r) s) E.n (fun c => { c with cmds := tset c.cmds k.seq k })

/-- Reading a LAUNCH register. RESOURCE has been checked with the shape. -/
def launchBody (kind : CmdKind) (d : Reg) (l : BitVec 4) (s : State) : Body :=
  withEnv s (fun E =>
    if (joinedNow E.c).isSome = true ∧ kind = .exchange then launched s E kind d l
    else if (unjoined E.c).isSome = true ∧ kind = .exchange then exchangeWait s E d l
    else
      let k := { capture E kind with count := E.c.xcount + 1 }
      let rs := sidesOf E.x E.n k
      match rs.findSome? (sideTrap E) with
      | some r => .trap r
      | none =>
        match refusalOf k rs with
        | some reason =>
          if slotFree E.c k then
            launched (finishCmd (updCore s E.n (fun c => { c with seq := k.seq })) E.n k (wordRefused reason)) E kind d l
          else .wait .launch s
        | none =>
          match launchNondet s E k rs with
          | some r => .trap r
          | none =>
            match rs.findSome? (clashAt s E.x E.n) with
            | some (r, m) => if E.x.det then .trap (lockedTrap E r.entry.num r.home m) else .wait .lock s
            | none =>
              if tableRoom s E.x rs && slotFree E.c k then
                let s := register s E k rs
                if kind = .exchange then exchangeWait s E d l else launched s E kind d l
              else .wait .launch s)

def execCopyLaunch (d : Reg) (l : BitVec 4) (s : State) : Out :=
  issue (.copyLaunch d l) { names := [nS d], bytes := launchBytes .copy } (launchBody .copy d l) s
def execGatherLaunch (d : Reg) (l : BitVec 4) (s : State) : Out :=
  issue (.gatherLaunch d l) { names := [nS d], bytes := launchBytes .gather } (launchBody .gather d l) s
def execExchangeLaunch (d : Reg) (l : BitVec 4) (s : State) : Out :=
  issue (.exchangeLaunch d l) { names := [nS d], bytes := launchBytes .exchange } (launchBody .exchange d l) s

/-! ## Engine access (R240 to R243) -/

/-- eng.w. -/
def engWBody (a : Reg) (g : BitVec 2) (e : BitVec 4) (s : State) : Body :=
  longRes (updMe s (fun c => { c with shadow := sset 0#32 c.shadow (16 * g.toNat + e.toNat) (rdS c a.toNat) })) 0#4 []

def execEngW (a : Reg) (g : BitVec 2) (e : BitVec 4) (s : State) : Out :=
  issue (.engW a g e) { names := [nS a] } (engWBody a g e) s

/-- The status registers: commands in flight. -/
def engStat (c : Core) (g : Nat) : Word :=
  if g = 2 then (if c.cmds.any (fun e => decide (e.2.kind = .exchange)) then 1#32 else 0#32)
  else word (c.cmds.filter (fun e => decide (e.2.kind ≠ .exchange))).length

/-- NONDET of an answer that depends on timing (R241, R243). -/
def timingTrap (n : Nat) : TrapReq := nondetTrap 0 0xC n

/-- eng.r of a register that is not LAUNCH. -/
def engRBody (d : Reg) (g : BitVec 2) (e l : BitVec 4) (s : State) : Body :=
  withEnv s (fun E =>
    if e = 0xD#4 then
      if E.x.det then .trap (timingTrap E.prel) else longRes s l [sres E.c d (engStat E.c g.toNat)]
    else longRes s l [sres E.c d (shadowOf E.c g.toNat e.toNat)])

def execEngR (d : Reg) (g : BitVec 2) (e l : BitVec 4) (s : State) : Out :=
  issue (.engR d g e l) { names := [nS d] } (engRBody d g e l) s

/-- Transfer id t names no command that is remembered (R242). -/
def unknownId (c : Core) (t : Word) : Bool :=
  let q := t.toNat / 4
  decide (t.toNat % 4 = 3 ∨ q = 0 ∨ c.seq < q ∨ 64 ≤ c.seq - q)

/-- Command t is in flight. -/
def inFlight (c : Core) (t : Word) : Bool :=
  match tget c.cmds (t.toNat / 4) with
  | some k => decide (xidOf k.kind k.seq = t)
  | none => false

/-- eng.wait. An id of no command, its engine bits included, is not remembered. -/
def engWaitBody (d a : Reg) (l : BitVec 4) (s : State) : Body :=
  let c := me s
  let t := rdS c a.toNat
  if t = 0#32 then
    if c.cmds.isEmpty && (cardsOf s s.cur).isEmpty then
      match nextFault c (fun _ => true) with
      | some f => .fault (dropFault s s.cur f) (asyncTrap f)
      | none => longRes s l [sres c d 0#32]
    else .wait .engine s
  else if unknownId c t then longRes s l [sres c d 0xFFFFFFFF#32]
  else if inFlight c t then .wait .engine s
  else
    match nextFault c (fun f => decide (f.cause = .engine ∧ f.xid = t)) with
    | some f => .fault (dropFault s s.cur f) (asyncTrap f)
    | none => longRes s l [sres c d (tgetD c.dones t.toNat 0xFFFFFFFF#32)]

def execEngWait (d a : Reg) (l : BitVec 4) (s : State) : Out :=
  issue (.engWait d a l) { names := [nS d, nS a], wp := true } (engWaitBody d a l) s

/-- eng.poll. -/
def engPollBody (d a : Reg) (l : BitVec 4) (s : State) : Body :=
  withEnv s (fun E =>
    let t := rdS E.c a.toNat
    if E.x.det then .trap (timingTrap E.prel)
    else if unknownId E.c t then longRes s l [sres E.c d 0xFFFFFFFF#32]
    else if inFlight E.c t then longRes s l [sres E.c d 0xF0000000#32]
    else longRes s l [sres E.c d (tgetD E.c.dones t.toNat 0xFFFFFFFF#32)])

def execEngPoll (d a : Reg) (l : BitVec 4) (s : State) : Out :=
  issue (.engPoll d a l) { names := [nS d, nS a], wp := true } (engPollBody d a l) s

/-! ## The walk (R218, R228, R233, R355) -/

/-- A translation fault: the space, the address, KIND, and whether it is a write into the caddy window (R26). -/
structure WalkFault where
  space : Nat
  va    : Nat
  kind  : Nat
  caddy : Bool

/-- The fault of reading an element. -/
def readFault (x : Ctx) (e : Entry) (h : Home) (a : Nat) : Option WalkFault :=
  ((elemBytes a e.width).find? (fun b => decide (h = .dram ∨ h = .pool) && decide (placeOf x e h b = .none))).map (fun b =>
    { space := e.space, va := b, kind := 0, caddy := false })

/-- The fault of writing byte b. -/
def writeFaultAt (x : Ctx) (e : Entry) (h : Home) (b : Nat) : Option WalkFault :=
  match placeOf x e h b with
  | .none => if h = .dram ∨ h = .pool then some { space := e.space, va := b, kind := 0, caddy := false } else none
  | .caddy _ _ => some { space := e.space, va := b, kind := 1, caddy := true }
  | .slice _ _ => none
  | _ =>
    match pageAt x e.space b with
    | some p => if pageWr p then none else some { space := e.space, va := b, kind := 1, caddy := false }
    | none => none

/-- The fault of writing an element. -/
def writeFault (x : Ctx) (e : Entry) (h : Home) (a : Nat) : Option WalkFault := (elemBytes a e.width).findSome? (writeFaultAt x e h)

/-- A byte is in a poisoned granule. -/
def placePoisoned (s : State) (c : Nat) : Place → Bool
  | .slice k o => s.poison.contains (granKey k o)
  | .dram k o => s.dpoison.contains (dramGran k o)
  | .caddy o _ => s.dpoison.contains (caddyGran c o)
  | _ => false

/-- Some byte of an element is poisoned. -/
def elemPoisoned (s : State) (c : Nat) (x : Ctx) (e : Entry) (h : Home) (a : Nat) : Bool :=
  !(s.poison.isEmpty && s.dpoison.isEmpty) && (elemBytes a e.width).any (fun b => placePoisoned s c (placeOf x e h b))

/-- Poison the granule of a byte. -/
def poisonPlace (s : State) : Place → State
  | .slice k o => { s with poison := insertNat (granKey k o) s.poison }
  | .dram k o => { s with dpoison := insertNat (dramGran k o) s.dpoison }
  | _ => s

/-- The number of elements that a command writes. -/
def Cmd.total (k : Cmd) : Nat :=
  match k.kind with
  | .copy => k.box.foldl (· * ·) 1
  | .gather => k.rows * k.rowlen
  | .exchange => 0

/-- The offsets of element i of the box in canonical order. -/
def boxAt (box : List Nat) (i : Nat) : List Nat :=
  let b := fun d => box.getD d 1
  [i % b 0, i / b 0 % b 1, i / (b 0 * b 1) % b 2, i / (b 0 * b 1 * b 2)]

/-- The bit address of destination element i, and of source element i of a copy. -/
def Cmd.dstAt (k : Cmd) (i : Nat) : Nat :=
  bitAddr k.dstE (coordsL k.dstE (List.zipWith (· + ·) k.dstO (boxAt k.box i)))
def Cmd.srcAt (k : Cmd) (i : Nat) : Nat :=
  bitAddr k.srcE (coordsL k.srcE (List.zipWith (· + ·) k.srcO (boxAt k.box i)))

/-- What element i of a command takes: a code with its poison, from the places that its read touches, or a translation fault. -/
inductive Taken where
  | code (v : Nat) (bad : Bool) (places : List Place)
  | fault (f : WalkFault)

/-- Index i of a gather's list, and whether it is poisoned. -/
def idxRead (s : State) (x : Ctx) (n : Nat) (k : Cmd) (r : Nat) : Taken :=
  let e := k.idxE
  let h := homeOf x n e
  let a := bitAddr e (coordsL e [(k.reg 0xA).toNat + r, 0, 0, 0])
  match readFault x e h a with
  | some f => .fault f
  | none => .code (readElem s k.ctx x e h a) (elemPoisoned s k.ctx x e h a) (elemPlaces x e h a)

/-- The element at bit address a of a source entry. -/
def srcRead (s : State) (x : Ctx) (n : Nat) (k : Cmd) (a : Nat) : Taken :=
  let e := k.srcE
  let h := homeOf x n e
  match readFault x e h a with
  | some f => .fault f
  | none => .code (readElem s k.ctx x e h a) (elemPoisoned s k.ctx x e h a) (elemPlaces x e h a)

/-- What is written as element i. -/
def takeElem (s : State) (x : Ctx) (n : Nat) (k : Cmd) (i : Nat) : Taken :=
  match k.kind with
  | .gather =>
    match idxRead s x n k (i / k.rowlen) with
    | .fault f => .fault f
    | .code r bad _ =>
      if k.srcE.ext 1 ≤ r then .code 0 bad []
      else
        let o := k.srcO
        match srcRead s x n k (bitAddr k.srcE (coordsL k.srcE [o.getD 0 0 + i % k.rowlen, r, o.getD 2 0, o.getD 3 0])) with
        | .fault f => .fault f
        | .code v b p => .code v (b || bad) p
  | _ => srcRead s x n k (k.srcAt i)

/-- The first granule of destination element i (R218), for FE and VER destinations. -/
def Cmd.granAt (k : Cmd) (core i : Nat) : Nat := (granulesOf k.dstE core [k.dstAt i]).headD 0

/-- The elements written in one bank access with element i: all those of its granule for an FE or VER destination; none when an
earlier element has brought it. -/
def groupAt (k : Cmd) (core i : Nat) : List Nat :=
  if k.dstE.fe || k.dstE.ver then
    let g := k.granAt core i
    if (List.range i).any (fun j => k.granAt core j == g) then []
    else (List.range k.total).filter (fun j => k.granAt core j == g)
  else [i]

/-- The granules of a group that no earlier bank access of the command has written. -/
def newGrans (k : Cmd) (core i : Nat) (grp : List Nat) : List Nat :=
  let before := ((List.range k.total).filter (fun j => (List.range i).any (fun m => k.granAt core m == k.granAt core j)))
  let old := granulesOf k.dstE core (before.map k.dstAt)
  (granulesOf k.dstE core (grp.map k.dstAt)).filter (fun g => !old.contains g)

/-- A reply to an engine's read of an element (R405). -/
def noteRead (s : State) (n : Nat) : Option Place → State
  | some (.slice k _) => if k = n then s else noteReply s n (slicePath n k) (hops n k)
  | some (.dram k _) | some (.caddy _ k) => if k = n then s else noteReply s n 2 (hops n k)
  | some (.host _) => noteReply s n 3 0
  | _ => s

/-- The read of the index of row i div ROWLEN as the row's first element is passed: its reply, and the row of its channel (R405, R410). -/
def noteIdx (s : State) (x : Ctx) (n : Nat) (k : Cmd) (i : Nat) : State :=
  if k.kind = .gather ∧ i % k.rowlen = 0 then
    match idxRead s x n k (i / k.rowlen) with
    | .code _ _ ps => openRows (noteRead s n ps.head?) k.ctx ps
    | _ => s
  else s

/-- The granule of a place: of a slice, or of a channel. -/
def granTag : Place → Option (Nat × Nat)
  | .slice c o => some (0, granKey c o)
  | .dram c o => some (1, dramGran c o)
  | _ => none

/-- The destination granules that element i touches, each with the first bit of its sixteen bytes. -/
def tagsAt (k : Cmd) (x : Ctx) (h : Home) (i : Nat) : List (Option (Nat × Nat) × Nat) :=
  ((elemBytes (k.dstAt i) k.dstE.width).map (fun b => (granTag (placeOf x k.dstE h b), b / 16 * 128))).eraseDups

/-- The elements that touch a granule. -/
def touching (k : Cmd) (x : Ctx) (h : Home) (g : Option (Nat × Nat)) : List Nat :=
  (List.range k.total).filter (fun j => (tagsAt k x h j).any (fun t => t.1 == g))

/-- The granules that the command writes whole, with element i the last of each (R352). -/
def wholeTags (k : Cmd) (x : Ctx) (h : Home) (i : Nat) : List (Option (Nat × Nat)) :=
  ((tagsAt k x h i).filter (fun t =>
    let js := touching k x h t.1
    js.all (fun j => decide (j ≤ i)) &&
      (List.range 128).all (fun m => coversBit (js.map k.dstAt) k.dstE.width (t.2 + m)))).map Prod.fst

/-- The poison of a granule falls. -/
def cleanTag (s : State) : Option (Nat × Nat) → State
  | some (0, g) => { s with poison := s.poison.filter (fun q => q != g) }
  | some (_, g) => { s with dpoison := s.dpoison.filter (fun q => q != g) }
  | none => s

/-- Write element i of a command: its code, poison, rows (of two, the last stays open, log 52), and the reply of the read. -/
def putElem (s : State) (x : Ctx) (n : Nat) (k : Cmd) (i : Nat) : State :=
  match takeElem s x n k i with
  | .fault _ => s
  | .code v bad ps =>
    let e := k.dstE
    let h := homeOf x n e
    let a := k.dstAt i
    let s := openRows (noteRead s n ps.head?) k.ctx ps
    let s := openRows (writeElem s k.ctx x e h a v) k.ctx (elemPlaces x e h a)
    if bad then (elemBytes a e.width).foldl (fun s b => poisonPlace s (placeOf x e h b)) s
    else if s.poison = [] ∧ s.dpoison = [] then s
    else
      let clean := fun j => match takeElem s x n k j with
        | .code _ b _ => !b
        | .fault _ => false
      ((wholeTags k x h i).filter (fun g => (touching k x h g).all clean)).foldl cleanTag s

/-- The element is poisoned at its source. -/
def badElem (s : State) (x : Ctx) (n : Nat) (k : Cmd) (i : Nat) : Bool :=
  match takeElem s x n k i with
  | .code _ b _ => b
  | .fault _ => false

/-- The counts of a gather row as its first element is passed (R233). -/
def countRow (s : State) (x : Ctx) (n : Nat) (k : Cmd) (i : Nat) : Cmd :=
  if k.kind = .gather ∧ i % k.rowlen = 0 then
    match idxRead s x n k (i / k.rowlen) with
    | .code r _ _ =>
      if r = 0xFFFFFFFF then { k with ninv := k.ninv + 1 }
      else if k.srcE.ext 1 ≤ r then { k with noor := k.noor + 1 } else k
    | .fault _ => k
  else k

/-- The engine's next move on a command. -/
inductive Walk where
  | over
  | blocked
  | fault (f : WalkFault)
  | go (s : State)

/-- The next element, with its granule for an FE or VER destination. -/
def walkStep (s : State) (n : Nat) (k : Cmd) : Walk :=
  match ctxAt s k.ctx with
  | none => .blocked
  | some x =>
    if issuing x = false ∨ k.fault.isSome = true ∨ k.kind = .exchange then .blocked
    else if k.total ≤ k.next then .over
    else
      let i := k.next
      let e := k.dstE
      let h := homeOf x n e
      let core := match h with
        | .slice c => c
        | _ => 0
      let grp := groupAt k core i
      let after := fun (s : State) (k : Cmd) =>
        updCore s n (fun c => { c with cmds := tset c.cmds k.seq { k with next := i + 1 } })
      let fault := grp.findSome? (fun j =>
        match takeElem s x n k j with
        | .fault f => some f
        | .code _ _ _ => writeFault x e h (k.dstAt j))
      match fault with
      | some f => .fault f
      | none =>
        let news := if e.fe || e.ver then newGrans k core i grp else []
        if e.fe && news.any (fullBit s) then .blocked
        else if e.ver && !news.isEmpty && !reclaimed x e.num (k.vers + 127) then .blocked
        else
          let k' := { countRow s x n k i with partly := k.partly || grp.any (badElem s x n k) }
          let s := grp.foldl (fun s j => putElem s x n k j) (noteIdx s x n k i)
          let s := if e.fe then setFull s news true else if e.ver then setVersion s news k.vers else s
          .go (after s k')

/-- Up to m further elements of command q of core n. -/
def walkRun : Nat → State → Nat → Nat → State
  | 0, s, _, _ => s
  | m + 1, s, n, q =>
    match tget (coreAt s n).cmds q with
    | none => s
    | some k =>
      match walkStep s n k with
      | .go s' => walkRun m s' n q
      | _ => s

/-- An engine writes up to m further elements of command q of core n. -/
def engineMove (s : State) (n q m : Nat) : State := walkRun m s n q

/-- A copy or gather that has written its last element completes. -/
def tryFinish (s : State) (n q : Nat) : State :=
  match tget (coreAt s n).cmds q with
  | none => s
  | some k =>
    match walkStep s n k with
    | .over => finishCmd s n k (wordDone k)
    | _ => s

/-- COPY_COMPLETE and GATHER_COMPLETE: the rest of the command, as far as it can go. -/
def completeCmd (kind : CmdKind) (s : State) (n q : Nat) : State :=
  match tget (coreAt s n).cmds q with
  | none => s
  | some k => if k.kind = kind then tryFinish (walkRun (k.total - k.next) s n q) n q else s

/-- The COPY_COMPLETE and GATHER_COMPLETE steps: core input.who, SEQ input.sub. -/
def execCopyComplete (s : State) : Out := .next (completeCmd .copy s s.input.who s.input.sub)
def execGatherComplete (s : State) : Out := .next (completeCmd .gather s s.input.who s.input.sub)

/-- The ENGINE_GRANULE_WAIT_END step: the granule that command input.sub of core input.who waits for is ready. -/
def execEngineGranuleWaitEnd (s : State) : Out := .next (engineMove s s.input.who s.input.sub 1)

/-- ENGINE_PAGE_FAULT (R228): event 0x75 is posted; the command stops, but for a write into the caddy window, which ends it. -/
def pageFault (s : State) (n q : Nat) : State :=
  match tget (coreAt s n).cmds q with
  | none => s
  | some k =>
    match walkStep s n k, ctxAt s k.ctx with
    | .fault f, some x =>
      let no := x.faultNo + 1
      let e := mkEvent [0x75#32, word (k.ctx % 64 + f.space % 4 * 256), word no, word f.va, word (f.va / 2 ^ 32 % 65536),
        xidOf k.kind k.seq, k.pc, word f.kind]
      let s := postCtx (setCtx s k.ctx { x with faultNo := no }) k.ctx e
      if f.caddy then finishCmd s n k (wordFault k)
      else
        updCtx (updCore s n (fun c => { c with cmds := tset c.cmds q { k with fault := some no } })) k.ctx (fun x =>
          { x with faults := x.faults ++ [{ number := no, core := n, seq := q }] })
    | _, _ => s

/-- The ENGINE_PAGE_FAULT step. -/
def execEnginePageFault (s : State) : Out := .next (pageFault s s.input.who s.input.sub)

/-! ## The exchange (R236 to R238) -/

/-- Element (r, c) of block b of a side with origin o, as a bit address. -/
def blockAt (e : Entry) (o : List Nat) (b r c : Nat) : Nat :=
  bitAddr e (coordsL e [o.getD 0 0 + 32 * b + c, o.getD 1 0 + r, 0, 0])

/-- What slot k sends to slot m: its block m goes to block position k of m. -/
def sendBlock (t : State) (x : Ctx) (s : State) (nk nm : Nat) (kk km : Cmd) : State :=
  (List.range 1024).foldl (fun s i =>
    let r := i / 32
    let c := i % 32
    let a := blockAt kk.srcE kk.srcO (slotOf nm) r c
    let d := if kk.tr then blockAt km.dstE km.dstO (slotOf nk) c r else blockAt km.dstE km.dstO (slotOf nk) r c
    let v := readElem t kk.ctx x kk.srcE (.slice nk) a
    let s := writeElem s kk.ctx x km.dstE (.slice nm) d v
    if elemPoisoned t kk.ctx x kk.srcE (.slice nk) a then
      (elemBytes d km.dstE.width).foldl (fun s b => poisonPlace s (placeOf x km.dstE (.slice nm) b)) s
    else s) s

/-- The elements that a core receives. -/
def receivedAt (k : Cmd) : List Nat :=
  (List.range 8).flatMap (fun b => (List.range 1024).map (fun i => blockAt k.dstE k.dstO b (i / 32) (i % 32)))

/-- Some granule that slot m receives is poisoned at its source. -/
def poisonedFor (s : State) (x : Ctx) (ks : List (Nat × Cmd)) (m : Nat) : Bool :=
  !s.poison.isEmpty && ks.any (fun e => (List.range 1024).any (fun i =>
    elemPoisoned s e.2.ctx x e.2.srcE (.slice e.1) (blockAt e.2.srcE e.2.srcO m (i / 32) (i % 32))))

/-- EXCHANGE_COMPLETE (R236): the eight steps of the cluster's exchange, once every launch has retired. -/
def exchangeComplete (s : State) (cl : Nat) : State :=
  let ks := (clusterCores cl).filterMap (fun n =>
    ((coreAt s n).cmds.find? (fun e => decide (e.2.kind = .exchange) && e.2.joined && decide (e.1 ≤ (coreAt s n).seq))).map
      (fun e => (n, e.2)))
  match ks with
  | (_, k0) :: _ =>
    match ctxAt s k0.ctx with
    | none => s
    | some x =>
      if ks.length ≠ 8 then s
      else if ks.any (fun e => decide (e.2.srcE.width ≠ k0.srcE.width) || decide (e.2.tr ≠ k0.tr)) then
        ks.foldl (fun s e => finishCmd s e.1 e.2 wordMismatch) s
      else
        let t := s
        let s := ks.foldl (fun s e => clearPoison s e.2.dstE (.slice e.1) (receivedAt e.2)) s
        let s := ks.foldl (fun s a => ks.foldl (fun s b => sendBlock t x s a.1 b.1 a.2 b.2) s) s
        ks.foldl (fun s e => finishCmd s e.1 e.2 (wordDone { e.2 with partly := poisonedFor t x ks (slotOf e.1) })) s
  | [] => s

/-- The EXCHANGE_COMPLETE step: cluster input.who. -/
def execExchangeComplete (s : State) : Out := .next (exchangeComplete s s.input.who)

/-! ## MAP, UNMAP and PGRESP (R226 to R228) -/

/-- The 4 KiB units of a channel that caddies and spill areas take, from its top downwards (R25, R359; the place is the
model's, log 22). -/
def reservedUnits (s : State) (core : Nat) : Nat :=
  s.ctxs.foldl (fun a e =>
    let x := e.2
    if 8 * x.pbase ≤ core ∧ core < 8 * (x.pbase + x.pcount) then
      let units := x.clen / 4096
      a + (units + pcores x - 1 - prel x core) / pcores x + (if x.share then 512 else 0)
    else a) 0

/-- The entry is not laid out as R226 gives. -/
def malformedPage (space : Nat) (p : Page) : Bool :=
  let e := p.entry
  (decide (space ≠ 2) && decide (space ≠ 3)) || !e.getLsbD 63 || decide ((e.extractLsb' 96 3).toNat ≠ 0) ||
    decide ((e.extractLsb' 60 2).toNat = 3) || decide ((e.extractLsb' 48 12).toNat ≠ 0) || decide ((e.extractLsb' 0 16).toNat ≠ 0) ||
    decide (pageBase p % pageLen p ≠ 0) || (decide (space = 2) && decide (2 ^ 13 ≤ pageOff p))

/-- Two pages of one space overlap. -/
def pagesMeet (p q : Page) : Bool :=
  decide (p.space = q.space ∧ pageBase p < pageBase q + pageLen q ∧ pageBase q < pageBase p + pageLen p)

/-- MAP refuses a page with 0x41. -/
def pageRefused (s : State) (x : Ctx) (p : Page) : Bool :=
  x.pages.any (pagesMeet p) ||
  (decide (p.space = 2) &&
    (decide (pcores x < pageCh p + pageN p) ||
      decide (pageBase p < caddyVA + x.clen ∧ caddyVA < pageBase p + pageLen p) ||
      (List.range (pageN p)).any (fun j =>
        let units := (pageLen p / 4096 + pageN p - 1 - j) / pageN p
        decide (8192 < pageOff p + units + reservedUnits s (logical x (pageCh p + j))))))

/-- The MAP command: context, space, and the entry in four words, low word first. -/
def execMap (s : State) : Out :=
  serve s 0x40 .ownerOrBound true (fun s _ arg =>
    let c := (arg 0).toNat
    let p : Page := { space := (arg 1).toNat, entry := arg 5 ++ arg 4 ++ arg 3 ++ arg 2 }
    match ctxAt s c with
    | none => (s, 0x82, [])
    | some x =>
      if malformedPage p.space p then (s, 0x42, [])
      else if pageRefused s x p then (s, 0x41, [])
      else (setCtx s c { x with pages := x.pages ++ [p] }, 0, []))

/-- The UNMAP command: context, space, VPN. -/
def execUnmap (s : State) : Out :=
  serve s 0x41 .ownerOrBound true (fun s _ arg =>
    let c := (arg 0).toNat
    let sp := (arg 1).toNat
    match ctxAt s c with
    | none => (s, 0x82, [])
    | some x =>
      if sp ≠ 2 ∧ sp ≠ 3 then (s, 0x01, [])
      else
        match x.pages.find? (fun p => decide (p.space = sp ∧ pageBase p = (arg 2).toNat * 2 ^ 16)) with
        | none => (s, 0, [])
        | some p =>
          if x.far.any (fun l => decide (l.place = sp ∧ l.lo / 64 * 64 < pageBase p + pageLen p ∧ pageBase p ≤ l.hi)) then
            (s, 0x43, [])
          else (setCtx s c { x with pages := x.pages.filter (fun q => decide (q ≠ p)) }, 0, []))

/-- The PGRESP command: context, fault number, 0 retry or 1 abort. -/
def execPgresp (s : State) : Out :=
  serve s 0x42 .ownerOrBound true (fun s _ arg =>
    let c := (arg 0).toNat
    match ctxAt s c with
    | none => (s, 0x82, [])
    | some x =>
      if 2 ≤ (arg 2).toNat then (s, 0x01, [])
      else
        match x.faults.find? (fun f => decide (f.number = (arg 1).toNat)) with
        | none => (s, 0x44, [])
        | some f =>
          let s := setCtx s c { x with faults := x.faults.filter (fun g => decide (g.number ≠ f.number)) }
          (withUnits s c (fun s =>
            match tget (coreAt s f.core).cmds f.seq with
            | none => s
            | some k =>
              if arg 2 = 0#32 then updCore s f.core (fun c => { c with cmds := tset c.cmds f.seq { k with fault := none } })
              else finishCmd s f.core k (wordFault k)), 0, []))

end Sys2Proof.Machine
end

