-- ==== Sys2Proof/Machine/LoadStore.lean ====
section
/-! DEFINITION. Scalar and vector layout accesses (R180, R181) and layout control (R169, R182, R183). -/

namespace Sys2Proof.Machine

/-- The kinds of layout access, with the clear and force forms. -/
inductive AccKind where
  | ld | st
  | ldFe (clr : Bool) | stFe (force : Bool)
  | ldV | stV
deriving DecidableEq, Repr

/-- The access is a load. -/
def AccKind.load : AccKind → Bool
  | .ld | .ldFe _ | .ldV => true
  | .st | .stFe _ | .stV => false

/-- The access names a version. -/
def AccKind.versioned : AccKind → Bool
  | .ldV | .stV => true
  | _ => false

/-- The plain accesses, which conflict words and marks concern. -/
def AccKind.isPlain : AccKind → Bool
  | .ld | .st => true
  | _ => false

/-- The table of R163, with the flags of R165. -/
def AccKind.form (k : AccKind) : Form :=
  match k with
  | .ld =>
    { flags := fun _ => none
      reach := fun h => match h with
        | .pool => some 0x04
        | _ => none }
  | .st =>
    { flags := fun _ => none
      reach := fun h => match h with
        | .slice _ => none
        | _ => some 0x04 }
  | .ldFe _ | .stFe _ =>
    { flags := fun e => if e.fe then none else some 0x02
      reach := fun h => match h with
        | .slice _ => none
        | _ => some 0x04
      oneGr := true }
  | .ldV | .stV =>
    { flags := fun e => if e.ver then none else some 0x02
      reach := fun h => match h with
        | .slice _ => none
        | _ => some 0x04
      oneGr := true }

/-- LAYOUT for an access of kind k, with st refused through a SPACE 1 entry of another core (R163). -/
def accLayout (E : Env) (k : AccKind) (e : Entry) (css : List (List Nat)) : Option TrapReq :=
  let f := k.form
  let f := if k = .st then { f with reach := fun h => if h = .slice E.n then none else some 0x04 } else f
  layoutCheck E f e css

/-- The NONDET reasons 0x1 to 0x7 and 0xE in a DET context (R172, R177, R290), in the order of their numbers, but that 0xE of a load through
a ticketed entry stands for 0x7 too (log 14). -/
def accNondet (E : Env) (k : AccKind) (e : Entry) (h : Home) : Option TrapReq :=
  if E.x.det = false then none
  else
    let me := E.prel
    match k with
    | .ld =>
      if e.fe || e.ver then some (nondetTrap e.num 0x1 e.prod)
      else if e.tkt then if bothMembers E e h then none else some (nondetTrap e.num 0xE (homeCore E h))
      else if remoteHome E.n h && !bothMembers E e h then some (nondetTrap e.num 0x7 e.home)
      else none
    | .st =>
      if e.fe || e.ver then some (nondetTrap e.num 0x1 e.prod)
      else if e.tkt then some (nondetTrap e.num 0x2 (homeCore E h))
      else none
    | .stFe force =>
      if e.prod ≠ me then some (nondetTrap e.num 0x3 e.prod)
      else if force then some (nondetTrap e.num 0x5 e.prod)
      else none
    | .ldFe _ => if e.cons ≠ me then some (nondetTrap e.num 0x4 e.cons) else none
    | .ldV => none
    | .stV => if e.prod ≠ me then some (nondetTrap e.num 0x6 e.prod) else none

/-- The range locks an access meets (R176). -/
def accLock (s : State) (E : Env) (k : AccKind) (e : Entry) (h : Home) (locs : List Nat) : Option TrapReq :=
  match k with
  | .ld => lockGuard s E e h locs false
  | .st | .stFe _ | .stV => lockGuard s E e h locs true
  | .ldFe _ | .ldV => none

/-- The waits and traps of the granules' metadata (R167, R168, R170). -/
def metaGuard (s : State) (E : Env) (k : AccKind) (e : Entry) (grans : List Nat) (v : Nat) : Guard :=
  match k with
  | .ld | .st => .pass
  | .ldFe _ => if grans.all (fullBit s) then .pass else .wait .fullEmpty
  | .stFe force => if force || grans.all (fun g => !fullBit s g) then .pass else .wait .fullEmpty
  | .ldV =>
    if grans.any (isBehind s v) then .wait .version
    else
      match grans.find? (isPast s v) with
      | some g => .trap (vpassedTrap e.num (versionOf s g) v)
      | none => .pass
  | .stV =>
    match grans.find? (isPast s v) with
    | some g => .trap (vpassedTrap e.num (versionOf s g) v)
    | none => if grans.any (isBehind s v) && !reclaimed E.x e.num (v + 127) then .wait .version else .pass

/-- What the access does to the metadata of its granules. -/
def metaEffect (s : State) (k : AccKind) (grans : List Nat) (v : Nat) : State :=
  match k with
  | .ld | .st | .ldFe false | .ldV => s
  | .ldFe true => setFull s grans false
  | .stFe _ => setFull s grans true
  | .stV => setVersion s grans v

/-- The lane width of an element width (R181). -/
def laneWidth (w : Nat) : Nat := if w = 32 then 32 else if w = 16 then 16 else 8

/-- Lane i of a vector register at lane width w. -/
def laneOf (v : VReg) (w i : Nat) : Nat := v.toNat / 2 ^ (w * i) % 2 ^ w

/-- A vector register of the given lanes, the first least significant; missing lanes are zero. -/
def packLanes (w : Nat) (l : List Nat) : VReg := BitVec.ofNat 256 (l.foldr (fun x acc => x % 2 ^ w + 2 ^ w * acc) 0)

/-- A code widened to a scalar register (R161). -/
def widen (fmt code : Nat) : Word := if fmt = fmtINT8 then (BitVec.ofNat 8 code).signExtend 32 else word code

/-- The coordinates of an access: of its one element, or of its lanes inside EXT0 (R160, R180, R181). -/
def accCoords (E : Env) (k : AccKind) (vec : Bool) (e : Entry) (a b : Reg) : List (List Nat) :=
  let c0 := (rdS E.c a.toNat).toNat
  let sb := (rdS E.c b.toNat).toNat
  let c1 := if k.versioned then sb % 2 ^ 25 else sb
  let at_ := fun i => coordsOf e (c0 + i) c1 E.c.cr.coord2.toNat E.c.cr.coord3.toNat
  if vec then
    at_ 0 :: ((List.range (256 / laneWidth e.width)).filter (fun i => decide (1 ≤ i ∧ c0 + i < e.ext 0))).map at_
  else [at_ 0]

/-- The version that an access names. -/
def accVersion (E : Env) (k : AccKind) (b : Reg) : Nat := if k.versioned then (rdS E.c b.toNat).toNat / 2 ^ 25 else 0

/-- The codes that a store writes, one for each element. -/
def storeCodes (E : Env) (vec : Bool) (e : Entry) (d : Reg) (n : Nat) : List Nat :=
  if vec then (List.range n).map (laneOf (rdV E.c d.toNat) (laneWidth e.width)) else [(rdS E.c d.toNat).toNat]

/-- Plain stores, remote plain loads and plain loads of ticketed regions check and stamp conflict words (R171, R295). -/
def AccKind.checks (k : AccKind) (remote tkt : Bool) : Bool :=
  match k with
  | .st => true
  | .ld => remote || tkt
  | _ => false

/-- The granules with metadata that elements touch: those of a slice. -/
def gransAt (e : Entry) (h : Home) (locs : List Nat) : List Nat :=
  match h with
  | .slice core => granulesOf e core locs
  | _ => []

/-- The effect of an access that has passed every check. Where it touches two rows of a channel the last stays open (log 52). -/
def accEffect (s : State) (E : Env) (k : AccKind) (vec : Bool) (e : Entry) (h : Home) (d : Reg) (locs : List Nat) (v : Nat)
    (l : BitVec 4) : Body :=
  let grans := gransAt e h locs
  let s := noteHome s E.n h
  let s1 := if k.checks (remoteHome E.n h) e.tkt then stampAccess s E e h locs (!k.load) else s
  let s1 := metaEffect s1 k grans v
  if k.load then
    let codes := locs.map (readElem s E.t.ctx E.x e h)
    let s1 := openRows s1 E.t.ctx (locs.flatMap (elemPlaces E.x e h))
    let w := if vec then Write.v d.toNat (packLanes (laneWidth e.width) codes)
             else sres E.c d (widen e.fmt (codes.getD 0 0))
    longRes s1 l [w]
  else
    let s1 := (locs.zip (storeCodes E vec e d locs.length)).foldl (fun s p => writeElem s E.t.ctx E.x e h p.1 p.2) s1
    longRes (clearPoison s1 e h locs) l []

/-- The whole of an access (R175): LAYOUT, NONDET, LOCKED, PAGE, phase and tracker waits, CONFLICT, VPASSED and the metadata
waits, POISON, then the effect. -/
def accBody (k : AccKind) (vec : Bool) (d a b h : Reg) (l : BitVec 4) (s : State) : Body :=
  withEnv s (fun E =>
    let e := handleEntry E h.toNat
    let css := accCoords E k vec e a b
    match accLayout E k e css with
    | some r => .trap r
    | none =>
      let home := homeOf E.x E.n e
      let locs := css.map (bitAddr e)
      let v := accVersion E k b
      let grans := gransAt e home locs
      let g := firstGuard
        [Guard.ofTrap (accNondet E k e home),
         homeGuard E home,
         Guard.ofTrap (if k.isPlain then markGuard s E e home locs else none),
         Guard.ofTrap (accLock s E k e home locs),
         Guard.ofTrap (pageGuard E.x home locs e.width),
         if k.load && k.checks (remoteHome E.n home) e.tkt then phaseGuard E e home else .pass,
         if k = .ld then ticketGuard s E e home locs else .pass,
         Guard.ofTrap (if k.checks (remoteHome E.n home) e.tkt then conflictGuard s E e home locs (!k.load) else none),
         metaGuard s E k e grans v,
         Guard.ofTrap (if k.load then poisonGuard s E e home locs else none)]
      guarded s g (accEffect s E k vec e home d locs v l))

/-- The bytes of the core's own slice that an access touches at or above KSP (R100). -/
def accBytes (k : AccKind) (vec : Bool) (a b h : Reg) (s : State) (n : Nat) : Option TrapReq :=
  match taskEnv s n with
  | some (t, x, u) =>
    let E : Env := { n := n, t := t, x := x, u := u, c := coreAt s n }
    let e := handleEntry E h.toNat
    undeclaredByte E e (accCoords E k vec e a b)
  | none => none

/-- The shape of an access. -/
def accShape (k : AccKind) (vec : Bool) (d a b h : Reg) : Shape :=
  { names := [nH h, if vec then nV d else nS d, nS a, nS b], bytes := accBytes k vec a b h }

/-! ## R180 -/

def execLd (d a b h : Reg) (l : BitVec 4) (s : State) : Out :=
  issue (.ld d a b h l) (accShape .ld false d a b h) (accBody .ld false d a b h l) s
def execSt (d a b h : Reg) (l : BitVec 4) (s : State) : Out :=
  issue (.st d a b h l) (accShape .st false d a b h) (accBody .st false d a b h l) s
def execLdFe (d a b h : Reg) (l : BitVec 4) (s : State) : Out :=
  issue (.ldFe d a b h l) (accShape (.ldFe false) false d a b h) (accBody (.ldFe false) false d a b h l) s
def execLdFeClr (d a b h : Reg) (l : BitVec 4) (s : State) : Out :=
  issue (.ldFeClr d a b h l) (accShape (.ldFe true) false d a b h) (accBody (.ldFe true) false d a b h l) s
def execStFe (d a b h : Reg) (l : BitVec 4) (s : State) : Out :=
  issue (.stFe d a b h l) (accShape (.stFe false) false d a b h) (accBody (.stFe false) false d a b h l) s
def execStFeForce (d a b h : Reg) (l : BitVec 4) (s : State) : Out :=
  issue (.stFeForce d a b h l) (accShape (.stFe true) false d a b h) (accBody (.stFe true) false d a b h l) s
def execLdV (d a b h : Reg) (l : BitVec 4) (s : State) : Out :=
  issue (.ldV d a b h l) (accShape .ldV false d a b h) (accBody .ldV false d a b h l) s
def execStV (d a b h : Reg) (l : BitVec 4) (s : State) : Out :=
  issue (.stV d a b h l) (accShape .stV false d a b h) (accBody .stV false d a b h l) s

/-! ## R181 -/

def execVld (d a b h : Reg) (l : BitVec 4) (s : State) : Out :=
  issue (.vld d a b h l) (accShape .ld true d a b h) (accBody .ld true d a b h l) s
def execVst (d a b h : Reg) (l : BitVec 4) (s : State) : Out :=
  issue (.vst d a b h l) (accShape .st true d a b h) (accBody .st true d a b h l) s
def execVldFe (d a b h : Reg) (l : BitVec 4) (s : State) : Out :=
  issue (.vldFe d a b h l) (accShape (.ldFe false) true d a b h) (accBody (.ldFe false) true d a b h l) s
def execVldFeClr (d a b h : Reg) (l : BitVec 4) (s : State) : Out :=
  issue (.vldFeClr d a b h l) (accShape (.ldFe true) true d a b h) (accBody (.ldFe true) true d a b h l) s
def execVstFe (d a b h : Reg) (l : BitVec 4) (s : State) : Out :=
  issue (.vstFe d a b h l) (accShape (.stFe false) true d a b h) (accBody (.stFe false) true d a b h l) s
def execVstFeForce (d a b h : Reg) (l : BitVec 4) (s : State) : Out :=
  issue (.vstFeForce d a b h l) (accShape (.stFe true) true d a b h) (accBody (.stFe true) true d a b h l) s
def execVldV (d a b h : Reg) (l : BitVec 4) (s : State) : Out :=
  issue (.vldV d a b h l) (accShape .ldV true d a b h) (accBody .ldV true d a b h l) s
def execVstV (d a b h : Reg) (l : BitVec 4) (s : State) : Out :=
  issue (.vstV d a b h l) (accShape .stV true d a b h) (accBody .stV true d a b h l) s

/-! ## Layout control (R182) -/

/-- lay.rd: word w of the view. -/
def layRdBody (d : Reg) (w : BitVec 4) (h : Reg) (l : BitVec 4) (s : State) : Body :=
  withEnv s (fun E => longRes s l [sres E.c d ((handleEntry E h.toNat).w w.toNat)])

def execLayRd (d : Reg) (w : BitVec 4) (h : Reg) (l : BitVec 4) (s : State) : Out :=
  issue (.layRd d w h l) { names := [nH h, nS d] } (layRdBody d w h l) s

/-- lay.wr: word w of the overlay (R183). Its effect stands in program order before every later instruction. -/
def layWrBody (a : Reg) (w : BitVec 4) (h : Reg) (l : BitVec 4) (s : State) : Body :=
  let c := me s
  let k := 16 * entryNum c h.toNat + w.toNat
  longRes (updMe s (fun c => { c with overlay := tset c.overlay k (rdS c a.toNat) })) l []

def execLayWr (a : Reg) (w : BitVec 4) (h : Reg) (l : BitVec 4) (s : State) : Out :=
  issue (.layWr a w h l) { names := [nH h, nS a] } (layWrBody a w h l) s

/-- lay.sel: the canonical index, or all ones out of range. -/
def laySelBody (d a b h : Reg) (l : BitVec 4) (s : State) : Body :=
  withEnv s (fun E =>
    let e := handleEntry E h.toNat
    if entryOk E e = false then .trap (layoutTrap 0x01 e 0)
    else
      let cs := coordsOf e (rdS E.c a.toNat).toNat (rdS E.c b.toNat).toNat E.c.cr.coord2.toNat E.c.cr.coord3.toNat
      let r := if outOfRange e cs = none then canonical e cs else 0xFFFFFFFF#32
      longRes s l [sres E.c d r])

def execLaySel (d a b h : Reg) (l : BitVec 4) (s : State) : Out :=
  issue (.laySel d a b h l) { names := [nH h, nS d, nS a, nS b] } (laySelBody d a b h l) s

/-- The step of a reclaim at the tracker (R169): it traps, waits, or reclaims. -/
inductive Reclaim where
  | bad
  | waits
  | goes (t : RTracker)
deriving DecidableEq, Repr

/-- The loop of R169 for member index i of a region with that many readers. -/
def reclaimStep (t : RTracker) (i v readers : Nat) : Reclaim :=
  let d := (v + 128 - t.rver % 128) % 128
  if d = 1 then
    if t.rmask.contains i then .bad
    else
      let m := insertNat i t.rmask
      .goes (if m.length = readers then { rver := (t.rver + 1) % 128, rmask := [] } else { t with rmask := m })
  else if d = 0 ∨ 64 ≤ d ∨ t.rmask.contains i = true then .bad
  else .waits

/-- reclaim: the producer's tracker is reached first (R164), unless it lies in the core's own cluster. -/
def reclaimBody (a h : Reg) (l : BitVec 4) (s : State) : Body :=
  withEnv s (fun E =>
    let e := handleEntry E h.toNat
    let f : Form := { flags := fun e => if e.ver then none else some 0x02, reach := fun _ => none }
    match entryCause E f e with
    | some k => .trap (layoutTrap k e 0)
    | none =>
      match groupIndex E.x e.group E.prel with
      | none => .trap (nondetTrap e.num 0x8 E.prel)
      | some i =>
        if e.readers ≤ i then .trap (nondetTrap e.num 0x8 E.prel)
        else if clusterOf (logical E.x e.prod) ≠ clusterOf E.n ∧ atHome E.c = false then .wait .bank s
        else
          match reclaimStep (rtrackOf E.x e.num) i ((rdS E.c a.toNat).toNat % 128) e.readers with
          | .bad => .trap (nondetTrap e.num 0x9 E.prel)
          | .waits => .wait .reclaim s
          | .goes t => longRes (updCtx s E.t.ctx (fun x => { x with rtrack := tset x.rtrack e.num t })) l [])

def execReclaim (a h : Reg) (l : BitVec 4) (s : State) : Out :=
  issue (.reclaim a h l) { names := [nH h, nS a] } (reclaimBody a h l) s

end Sys2Proof.Machine
end

