-- ==== Sys2Proof/Machine/Messages.lean ====
section
/-! DEFINITION. Other modules (15, R319 to R336): Fiven links, jobs, ranks, messages, slot buffers and their credits. -/

namespace Sys2Proof.Machine

/-! ## Ranks (R324, R325) -/

/-- MOD and CORE of a rank word. -/
def rankMod (r : Word) : Nat := field r 31 16
def rankCore (r : Word) : Nat := field r 12 0

/-- A rank word is valid. -/
def validRank (x : Ctx) (r : Word) : Bool :=
  decide (rankMod r < moduleCount x ∧ rankCore r < pcores x ∧ field r 15 13 = 0)

/-- The own rank of a partition-relative core. -/
def ownRank (x : Ctx) (n : Nat) : Word := word (moduleId x * 2 ^ 16 + n % 2 ^ 13)

/-- The rank-table entry of local rank n: VALID and, at first, PLACE = n. -/
def rankEntry (x : Ctx) (n : Nat) : Word := tgetD x.ranks n (word (2 ^ 31 + n % 2 ^ 13))

/-- A rank of this module that is valid. -/
def localRank (x : Ctx) (r : Word) : Bool := validRank x r && decide (rankMod r = moduleId x)

/-- TRANSIT and the logical core that holds a local rank. -/
def inTransit (x : Ctx) (r : Word) : Bool := (rankEntry x (rankCore r)).getLsbD 30
def placeCore (x : Ctx) (r : Word) : Nat := logical x (field (rankEntry x (rankCore r)) 12 0)

/-- The key of a pair of ranks, source and destination. -/
def pairKey (src dst : Word) : Nat := 2 ^ 32 * src.toNat + dst.toNat

/-- The next sequence number that a pair sends (R320). -/
def sendSeq (x : Ctx) (src dst : Word) : Word := tgetD x.pseq (pairKey src dst) 0#32

/-- The series that a packet is numbered in: its pair's. The credits that faulting pushes return are a series of their own, since the
network interface sends them and no instruction does (log 39). -/
def seriesOf (p : Packet) : Nat :=
  match p.body with
  | .nack .. => 2 ^ 64 + pairKey p.src p.dst
  | _ => pairKey p.src p.dst

/-- The next sequence number that the destination of a packet accepts. -/
def wantSeq (x : Ctx) (p : Packet) : Word := tgetD x.rseq (seriesOf p) 0#32

/-- A packet has been accepted already. -/
def duplicate (x : Ctx) (p : Packet) : Bool :=
  let d := (wantSeq x p - p.seq).toNat
  decide (1 ≤ d ∧ d < 2 ^ 31)

/-- The destination has accepted a packet. -/
def noteAccepted (s : State) (c : Nat) (p : Packet) : State :=
  updCtx s c (fun x => if duplicate x p then x else { x with rseq := tset x.rseq (seriesOf p) (p.seq + 1#32) })

/-- Core n has sent a packet to a rank: its pair's sequence number rises. The core counts the packets of each wave and pair, since a task
that runs again sends the same numbers (R332). -/
def noteSent (s : State) (c n : Nat) (src dst : Word) : State :=
  let s := updCtx s c (fun x => { x with pseq := tset x.pseq (pairKey src dst) (sendSeq x src dst + 1#32) })
  updCore s n (fun k =>
    let key := sentKey ((k.task.map (·.wave)).getD 0) (pairKey src dst)
    { k with sent := tset k.sent key (tgetD k.sent key 0 + 1) })

/-! ## Links (R319 to R321) -/

/-- Link l. -/
def linkAt (s : State) (l : Nat) : Link := tgetD s.links l Link.reset

/-- Apply f to link l. -/
def updLink (s : State) (l : Nat) (f : Link → Link) : State := { s with links := tset s.links l (f (linkAt s l)) }

/-- One more hop along links: the modules of l and their neighbours. -/
def spread (edges : List (Nat × Nat)) (l : List Nat) : List Nat :=
  (l ++ edges.flatMap (fun e =>
    (if l.contains e.1 then [e.2] else []) ++ (if l.contains e.2 then [e.1] else []))).eraseDups

/-- How many hops module k is from those of l, if it is fewer than the fuel. -/
def hopsTo (edges : List (Nat × Nat)) : Nat → List Nat → Nat → Option Nat
  | 0, _, _ => none
  | f + 1, l, k => if l.contains k then some 0 else (hopsTo edges f (spread edges l) k).map (· + 1)

/-- The job module at the other end of link l, while the link is in service. -/
def neighbourOf (s : State) (j : Job) (l : Nat) : Option Nat :=
  match tget j.neigh l with
  | some n =>
    if (linkAt s l).up = true ∧ n.state = 1 then (j.map.find? (fun e => decide (e.2 = n.serial))).map Prod.fst else none
  | none => none

/-- The outgoing link for module m: the lowest of those whose neighbour is nearest to m (R321; log 37). -/
def bestLink (s : State) (j : Job) (m : Nat) : Option Nat :=
  let far := fun l => (neighbourOf s j l).bind (hopsTo j.edges (j.edges.length + 2) [m])
  let ls := (List.range 16).filterMap (fun l => (far l).map (fun d => (d, l)))
  (ls.foldl (fun b e =>
    match b with
    | some g => if e.1 < g.1 then some e else b
    | none => some e) (none : Option (Nat × Nat))).map Prod.snd

/-- The route table (R321): one outgoing link for every other module of the job that links reach. -/
def routeTable (s : State) (j : Job) : Table Nat :=
  j.map.filterMap (fun e => if e.1 = j.own then none else (bestLink s j e.1).map (fun l => (e.1, l)))

/-- Send a flit over a link: with the next sequence number, and kept for retransmission among the last 512. -/
def putFlit (s : State) (l : Nat) (pkt : Option (Nat × Packet)) (ident : Option Ident) : State :=
  updLink s l (fun k =>
    let f : Flit := { seq := k.txSeq, crcOk := true, replay := false, pkt := pkt, ident := ident }
    { k with txSeq := k.txSeq + 1#16, retrans := (k.retrans ++ [f]).drop (k.retrans.length + 1 - 512) })

/-- Send a packet of context c over a link. -/
def sendFlit (s : State) (l c : Nat) (p : Packet) : State := putFlit s l (some (c, { p with port := none, kept := false })) none

/-- Send a packet: into the module's own mesh, where it is held if its rank is in transit (R336), or over the route's link. -/
def transmit (s : State) (c : Nat) (p : Packet) : State :=
  match ctxAt s c with
  | none => s
  | some x =>
    if rankMod p.dst = moduleId x then { s with packets := s.packets ++ [(c, { p with kept := inTransit x p.dst })] }
    else
      match (sealedJob x).bind (fun j => tget j.routes (rankMod p.dst)) with
      | some l => sendFlit s l c p
      | none => s

/-- Link l carries traffic of the job of context c (R323). -/
def carries (s : State) (c l : Nat) : Bool :=
  match (ctxAt s c).bind sealedJob with
  | some j => decide (((tget j.neigh l).map (·.state)) = some 1)
  | none => false

/-! ## Lanes (R68, R319, R320) -/

/-- Context c uses the channel that lane e belongs to: the DRAM channel of a core of its partition, or a link of its job. -/
def usesLane (s : State) (e : Bool × Nat × Nat) (c : Nat) (x : Ctx) : Bool := if e.1 then inPart x e.2.1 else carries s c e.2.1

/-- The spare lanes of a direction of a link, 0 outgoing and 1 incoming, and one of them taken. -/
def spareLanes (s : State) (l dir : Nat) : Nat := if dir = 0 then (linkAt s l).spareOut else (linkAt s l).spareIn
def takeSpare (s : State) (l dir : Nat) : State :=
  updLink s l (fun k => if dir = 0 then { k with spareOut := k.spareOut - 1 } else { k with spareIn := k.spareIn - 1 })

/-- Every sealed job has its route table for the links that are in service (R321). -/
def reroute (s : State) : State :=
  { s with ctxs := s.ctxs.map (fun e => (e.1, { e.2 with job := e.2.job.map (fun j =>
      if j.sealed then { j with routes := routeTable s j } else j) })) }

/-- Link l goes out of service: Phodiver routes around it, and the packets of its retransmission buffer are sent again (R320). -/
def linkOut (s : State) (l : Nat) : State :=
  let kept := (linkAt s l).retrans
  let s := updLink { s with mgmt := { s.mgmt with links := s.mgmt.links &&& ~~~(1#16 <<< l) } } l
    (fun k => { k with up := false, retrans := [], resend := [] })
  kept.foldl (fun s f =>
    match f.pkt with
    | some (c, p) => transmit s c p
    | none => s) (reroute s)

/-- A lane is replaced: a DRAM channel then runs on spare lanes (R7). -/
def replaceLane (s : State) (e : Bool × Nat × Nat) : State :=
  if e.1 then { s with dspare := insertNat e.2.1 s.dspare, mgmt := { s.mgmt with dramdeg := true } } else s

/-- Every failed lane whose users have halted is replaced; then the hold of those users ends whom no other failed lane concerns. -/
def replaceLanes (s : State) : State :=
  let ready := fun e => s.ctxs.all (fun k => !usesLane s e k.1 k.2 || !moving k.2)
  let s := (s.lanes.filter ready).foldl replaceLane { s with lanes := s.lanes.filter (fun e => !ready e) }
  { s with ctxs := s.ctxs.map (fun k => if s.lanes.any (fun e => usesLane s e k.1 k.2) then k else (k.1, dropHold k.2 .lane)) }

/-! ## Flits (R319, R320) -/

/-- FLIT_RECEIVE: a flit whose CRC and sequence number hold is taken, and its packet enters the mesh or goes on to its module;
any other is discarded and asked for again. An IDENT is kept for the handshake; a link carries no traffic of a job whose neighbour is
foreign (R323). -/
def receiveFlit (s : State) (l : Nat) (f : Flit) : State :=
  let k := linkAt s l
  if k.up = false then s
  else if f.crcOk = false ∨ f.seq ≠ k.rxSeq then updLink s l (fun k => { k with asked := some k.rxSeq })
  else
    let s := updLink s l (fun k =>
      { k with rxSeq := k.rxSeq + 1#16, asked := none, heard := match f.ident with
          | some i => some i
          | none => k.heard })
    match f.pkt with
    | some (c, p) => if carries s c l then transmit s c { p with port := some l } else s
    | none => s

/-- The FLIT_RECEIVE step: link input.who. -/
def execFlitReceive (s : State) : Out :=
  match s.input.flit with
  | some f => .next (receiveFlit s (s.input.who % 16) f)
  | none => .next s

/-- RETRANSMISSION_REQUEST from sequence number q: the flits from there on are sent again, with the replay mark. -/
def resendFrom (s : State) (l : Nat) (q : BitVec 16) : State :=
  updLink s l (fun k =>
    { k with resend := k.resend ++ (k.retrans.filter (fun f => decide ((f.seq - q).toNat < 2 ^ 15))).map (fun f => { f with replay := true }) })

/-- The RETRANSMISSION_REQUEST step: link input.who, sequence number input.value. -/
def execRetransmissionRequest (s : State) : Out :=
  .next (resendFrom s (s.input.who % 16) (s.input.value.truncate 16))

/-! ## Jobs (R322, R323, R403) -/

/-- A JOB command: owner only; argument 0 holds the context in bits 5:0. It answers a status, or nothing yet. -/
def jobCommandOr (s : State) (code : Nat) (f : State → Nat → Ctx → (Nat → Word) → State × Option Nat) : Out :=
  serveOr s code .owner false (fun s _ arg =>
    let c := (arg 0).toNat
    if 64 ≤ c then (s, some (0x01, []))
    else
      match ctxAt s c with
      | none => (s, some (0x82, []))
      | some x =>
        let (s', st) := f s c x arg
        (s', st.map (fun k => (k, []))))

/-- A JOB command that answers at once. -/
def jobCommand (s : State) (code : Nat) (f : State → Nat → Ctx → (Nat → Word) → State × Nat) : Out :=
  jobCommandOr s code (fun s c x arg =>
    let (s', st) := f s c x arg
    (s', some st))

/-- The JOBOPEN command. -/
def execJobopen (s : State) : Out :=
  jobCommand s 0x50 (fun s c x arg =>
    let m := (arg 4).toNat
    if m < 2 ∨ 65535 < m then (s, 0x01)
    else if x.job.isSome || anyLive x then (s, 0x51)
    else
      let j : Job := { id := arg 2 ++ arg 1, nonce := arg 3, modules := m, own := 0, map := [], sealed := false, neigh := [] }
      (setCtx s c { x with job := some j }, 0x00))

/-- The pairs of a JOBMAP command: module id and serial. -/
def mapPairs (arg : Nat → Word) : List (Word × BitVec 64) :=
  (List.range (arg 1).toNat).map (fun i => (arg (4 + 3 * i), arg (3 + 3 * i) ++ arg (2 + 3 * i)))

/-- Add pairs to a map, unless an id or serial repeats or an id is not below M. -/
def addPairs (m : Nat) : List (Word × BitVec 64) → Table (BitVec 64) → Option (Table (BitVec 64))
  | [], t => some t
  | (i, q) :: l, t =>
    if m ≤ i.toNat ∨ t.any (fun e => decide (e.1 = i.toNat ∨ e.2 = q)) = true then none else addPairs m l (tset t i.toNat q)

/-- The JOBMAP command. -/
def execJobmap (s : State) : Out :=
  jobCommand s 0x51 (fun s c x arg =>
    let n := (arg 1).toNat
    if n < 1 ∨ 19 < n then (s, 0x01)
    else if (mapPairs arg).any (fun e => decide (65536 ≤ e.1.toNat)) then (s, 0x01)
    else
      match x.job with
      | none => (s, 0x57)
      | some j =>
        if j.sealed then (s, 0x57)
        else
          match addPairs j.modules (mapPairs arg) j.map with
          | none => (s, 0x52)
          | some t => (setCtx s c { x with job := some { j with map := t } }, 0x00))

/-- What the handshake finds on the links (R323): 0 not in service, 1 a neighbour of the job, 2 a foreign one, 3 silent. -/
def foundNeighbours (s : State) (j : Job) : Table Neighbour :=
  (List.range 16).map (fun l =>
    if s.mgmt.links.getLsbD l then
      match (linkAt s l).heard with
      | some i => (l, { serial := i.serial, link := i.link, state := if i.job = j.id then 1 else 2 })
      | none => (l, { serial := 0#64, link := 0, state := 3 })
    else (l, { serial := 0#64, link := 0, state := 0 }))

/-- Step 1 of the handshake: an IDENT flit on every link in service. -/
def sendIdents (s : State) (j : Job) : State :=
  (List.range 16).foldl (fun s l =>
    if s.mgmt.links.getLsbD l then
      putFlit s l none (some { serial := s.serial, job := j.id, link := l, nonce := j.nonce })
    else s) s

/-- The pairs of a flat list. -/
def pairsOf : List Nat → List (Nat × Nat)
  | a :: b :: l => (a, b) :: pairsOf l
  | _ => []

/-- The composition record (R403) but for its signature. -/
def compositionBytes (s : State) (c : Nat) (x : Ctx) (j : Job) (k : Nat) : List Byte :=
  leBytes 4 0x434F4D50 ++ leBytes 4 1 ++ leBytes 8 s.serial.toNat ++ leBytes 8 k ++ leBytes 8 j.id.toNat ++
    leBytes 4 j.nonce.toNat ++ leBytes 4 (j.modules * 2 ^ 16 + j.own) ++
    leBytes 4 (x.pcount * 2 ^ 16 + (if x.det then 2 ^ 8 else 0) + c % 64) ++ leBytes 4 s.boot.version ++
    leBytes 4 s.mgmt.links.toNat ++ leBytes 12 0 ++
    (List.range 16).flatMap (fun l =>
      match tget j.neigh l with
      | some n => leBytes 8 n.serial.toNat ++ leBytes 1 n.link ++ leBytes 1 n.state ++ leBytes 6 0
      | none => leBytes 16 0)

/-- The JOBSEAL command (R323). At first it sends the IDENT flits. The step that finishes it brings what the other modules answer in step
3: input value bit 0 that PCOUNT or DET differs, bit 1 that a module did not answer, bit 2 that a neighbour disagrees; list the pairs
of module ids that have reported each other as neighbours (log 38). -/
def execJobseal (s : State) : Out :=
  jobCommandOr s 0x52 (fun s c x _ =>
    match x.job with
    | none => (s, some 0x57)
    | some j =>
      if j.sealed then (s, some 0x57)
      else
        match j.map.find? (fun e => decide (e.2 = s.serial)) with
        | none => (s, some 0x52)
        | some (own, _) =>
          if j.calling = false then (setCtx (sendIdents s j) c { x with job := some { j with calling := true } }, none)
          else
            let ended := setCtx s c { x with job := some { j with calling := false } }
            if s.input.value.getLsbD 0 then (ended, some 0x55)
            else if s.input.value.getLsbD 1 then (ended, some 0x54)
            else if s.input.value.getLsbD 2 then (ended, some 0x53)
            else
              let edges := (pairsOf s.input.list).filter (fun e => decide (e.1 ≠ own ∧ e.2 ≠ own))
              let j := { j with own := own, calling := false, sealed := true, neigh := foundNeighbours s j, edges := edges }
              let j := { j with routes := routeTable s j }
              let s := setCtx s c { x with job := some j, pseq := [], rseq := [] }
              let s := updCtx s c (fun x => if s.lanes.any (fun e => usesLane s e c x) then requestHold x .lane else x)
              (signRecord s c (compositionBytes s c x j), some 0x00))

/-- The JOBCLOSE command. -/
def execJobclose (s : State) : Out :=
  jobCommand s 0x53 (fun s c x _ =>
    if x.job.isNone then (s, 0x57)
    else if anyLive x then (s, 0x56)
    else (replaceLanes (setCtx s c { x with job := none, ranks := [] }), 0x00))

/-! ## Messages (R326 to R328, R334) -/

/-- PRIV of a rank word (R333). -/
def rankPriv (r : Word) : Body := raise .priv r

/-- A packet of the same pair is still on its way before position i of the list. -/
def behind (s : State) (c : Nat) (src dst : Word) (i : Nat) : Bool :=
  (s.packets.take i).any (fun e => decide (e.1 = c ∧ e.2.src = src ∧ e.2.dst = dst))

/-- A packet that reaches its place is held there (R328, R336): it came for a rank in transit, or its context is halted. -/
def isHeld (x : Ctx) (p : Packet) : Bool := (p.kept && inTransit x p.dst) || !moving x

/-- The interfaces hold 64 packets for rank r of context c, among the first i on the mesh (R336). -/
def heldFull (s : State) (c : Nat) (r : Word) (i : Nat) : Bool :=
  decide (64 ≤ ((s.packets.take i).filter (fun e => decide (e.1 = c ∧ e.2.dst = r) && e.2.kept)).length)

/-- The message with the pair and the sequence number of p is on the mesh. -/
def onMesh (s : State) (c : Nat) (p : Packet) : Bool :=
  s.packets.any (fun e => decide (e.1 = c ∧ e.2.src = p.src ∧ e.2.dst = p.dst ∧ e.2.seq = p.seq ∧ e.2.body = p.body))

/-- The destination's answer to a message (R326, R328). -/
inductive Arrived where
  | taken (s : State)
  | refused
  | held

/-- A message of context c reaches its place on this module: held while its rank is in transit, if it came after the move began (R336),
or while the context is halted; a duplicate is dropped and accepted; a full store refuses it. -/
def storeMessage (s : State) (c : Nat) (p : Packet) : Arrived :=
  match ctxAt s c with
  | none => .held
  | some x =>
    if isHeld x p then .held
    else if duplicate x p then .taken s
    else
      let n := placeCore x p.dst
      if (coreAt s n).recvs.length < 16 then
        .taken (noteAccepted (updCore s n (fun k => { k with recvs := k.recvs ++ [{ p with port := none, kept := false }] })) c p)
      else .refused

/-- The hops from a core to the port of a link (R321). -/
def portHops (n l : Nat) : Nat :=
  let x := 8 * (n / 8 % 8) + n % 8
  let y := n / 64
  let px := 16 * (l % 4)
  let py := 32 * (l / 4)
  (x - px) + (px - x) + (y - py) + (py - y)

/-- The reply to a message: h is its destination's part of the way in another module, whose larger part is H (R326). -/
def noteMessage (s : State) (E : Env) (r : Word) (h : Nat) : State :=
  if rankMod r = moduleId E.x then
    let k := placeCore E.x r
    noteReply s E.n (slicePath E.n k) (hops E.n k)
  else
    let l := ((sealedJob E.x).bind (fun j => tget j.routes (rankMod r))).getD 0
    noteReply s E.n 3 (max (portHops E.n l) h)

/-- A refused message: SEND-STALL after SWD cycles (R328). -/
def refusedSend (s : State) (E : Env) (r : Word) : Body :=
  match E.c.wait with
  | some w =>
    if (w.kind = .send ∨ w.kind = .sendHeld) ∧ E.c.cr.swd.toNat ≤ w.cycles then .trap { cause := .sendStall, info := r } else .wait .send s
  | none => .wait .send s

/-- The message is accepted. -/
def acceptedSend (s : State) (E : Env) (r : Word) (h : Nat) (l : BitVec 4) : Body :=
  let s := noteSent (noteMessage s E r h) E.t.ctx E.n (ownRank E.x E.prel) r
  longRes (updCore s E.n (fun k => { k with reply := none })) l []

/-- The wait of a message that has not been answered: its count stays paused after an answer of HELD (R328). -/
def sendWait (c : Core) : WaitKind :=
  match c.wait with
  | some w => if w.kind = .sendHeld then .sendHeld else .send
  | none => .send

/-- The interface holds a message of core n for a rank of this module that is in transit (R336), up to 64 packets. -/
def holdMessage (s : State) (c n : Nat) (p : Packet) : State :=
  let s := if onMesh s c p || heldFull s c p.dst s.packets.length then s else { s with packets := s.packets ++ [(c, p)] }
  updCore s n (fun k => { k with reply := some (.answered .held 0) })

/-- Message p reaches its place on this module, or is tried again there. -/
def localSend (s : State) (E : Env) (p : Packet) (l : BitVec 4) : Body :=
  if behind s E.t.ctx p.src p.dst s.packets.length = true ∧ isHeld E.x p = false then .wait (sendWait E.c) s
  else
    match storeMessage s E.t.ctx p with
    | .taken s' => acceptedSend s' E p.dst 0 l
    | .refused => refusedSend s E p.dst
    | .held => .wait .sendHeld (holdMessage s E.t.ctx E.n p)

/-- msg.send: it is sent, and waits until its destination has accepted it. -/
def msgSendBody (d a : Reg) (l : BitVec 4) (s : State) : Body :=
  withEnv s (fun E =>
    let r := rdS E.c a.toNat
    let src := ownRank E.x E.prel
    let p : Packet := { src := src, dst := r, seq := sendSeq E.x src r, body := .msg (rdV E.c d.toNat) }
    if validRank E.x r = false then rankPriv r
    else
      let here := decide (rankMod r = moduleId E.x)
      match E.c.reply with
      | none =>
        let s := updMe s (fun k => { k with reply := some .sent })
        .wait .send (if here then s else transmit s E.t.ctx p)
      | some (.answered .accepted h) => acceptedSend s E r h l
      | some (.answered .held _) =>
        if here = true ∧ onMesh s E.t.ctx p = false then localSend s E { p with kept := true } l else .wait .sendHeld s
      | some (.answered .refused _) => if here then localSend s E { p with kept := true } l else refusedSend s E r
      | some .sent => if here then localSend s E { p with kept := true } l else .wait (sendWait E.c) s)

def execMsgSend (d a : Reg) (l : BitVec 4) (s : State) : Out :=
  issue (.msgSend d a l) { names := [nV d, nS a] } (msgSendBody d a l) s

/-- msg.recv: the oldest entry from the named source, or from any, to the named rank. -/
def msgRecvBody (d a b : Reg) (l : BitVec 4) (s : State) : Body :=
  withEnv s (fun E =>
    let src := rdS E.c a.toNat
    let dst := rdS E.c b.toNat
    let any := decide (src = 0xFFFFFFFF#32)
    if any && E.c.cr.detm.getLsbD 0 then .trap (nondetTrap 0 0x0 E.prel)
    else if (!any && !validRank E.x src) || !localRank E.x dst || decide (placeCore E.x dst ≠ E.n) then rankPriv dst
    else
      match E.c.recvs.findIdx? (fun p => decide (p.dst = dst) && (any || decide (p.src = src))) with
      | none => .wait .recv s
      | some i =>
        match E.c.recvs[i]? with
        | none => .wait .recv s
        | some p =>
          let v := match p.body with
            | .msg x => x
            | _ => 0#256
          longRes (updMe s (fun k => { k with recvs := k.recvs.eraseIdx i, lastSrc := p.src })) l [.v d.toNat v])

def execMsgRecv (d a b : Reg) (l : BitVec 4) (s : State) : Out :=
  issue (.msgRecv d a b l) { names := [nV d, nS a, nS b] } (msgRecvBody d a b l) s

/-- Packet i leaves the mesh. -/
def dropPacket (s : State) (i : Nat) : State := { s with packets := s.packets.eraseIdx i }

/-- The message that the msg.send at core n's program counter sends, with its context. -/
def ownMessage (s : State) (n : Nat) : Option (Nat × Packet) :=
  match taskEnv s n, (fetchWord s n).map decodeWord with
  | some (t, x, _), some (.instr (.msgSend d a _)) =>
    let src := ownRank x (prel x n)
    let r := rdS (coreAt s n) a.toNat
    some (t.ctx, { src := src, dst := r, seq := sendSeq x src r, body := .msg (rdV (coreAt s n) d.toNat) })
  | _, _ => none

/-- Core n waits with the message of context c whose pair and sequence number are those of packet p and q (R326). -/
def awaitsReply (s : State) (n c : Nat) (p : Packet) (q : Word) : Bool :=
  (coreAt s n).reply.isSome && (ownMessage s n).any (fun e => decide (e.1 = c ∧ e.2.src = p.dst ∧ e.2.dst = p.src ∧ e.2.seq = q))

/-- The reply of another module's interface reaches the core that waits with that message (R326): an answer of HELD pauses its count
at once (R328). -/
def replyArrival (s : State) (c : Nat) (p : Packet) (q : Word) (a : Answer) (h : Nat) : State :=
  match ctxAt s c with
  | none => s
  | some x =>
    let n := logical x (rankCore p.dst)
    if awaitsReply s n c p q then
      updCore s n (fun k =>
        { k with reply := some (.answered a h)
                 wait := k.wait.map (fun w =>
                   if w.kind = .send ∨ w.kind = .sendHeld then { w with kind := if a = .held then .sendHeld else .send } else w) })
    else s

/-- The interface of this module answers a message (R326, R328): the reply to another module goes back over the links. -/
def answerMessage (s : State) (c : Nat) (p : Packet) (a : Answer) : State :=
  match ctxAt s c with
  | none => s
  | some x =>
    let back : Packet := { src := p.dst, dst := p.src, seq := p.seq, body := .msg 0#256 }
    match p.port with
    | some l => transmit s c { back with body := .reply p.seq a (portHops (placeCore x p.dst) l) }
    | none => replyArrival s c back p.seq a 0

/-- Packet i arrives: a message from another module, which a free entry takes, a full store refuses, and which is held, up to 64 of them,
while its rank is in transit or its context halted (R326, R328, R336); or the reply of another module. -/
def messageArrival (s : State) (i : Nat) : State :=
  match s.packets[i]? with
  | none => s
  | some (c, p) =>
    match p.body with
    | .msg _ =>
      if behind s c p.src p.dst i = true ∧ ((ctxAt s c).any (isHeld · p)) = false then s
      else
        match storeMessage s c p with
        | .taken s' => answerMessage (dropPacket s' i) c p .accepted
        | .refused => answerMessage (dropPacket s i) c p .refused
        | .held => answerMessage (if heldFull s c p.dst i then dropPacket s i else s) c p .held
    | .reply q a h => replyArrival (dropPacket s i) c p q a h
    | _ => s

/-! ## Slot buffers (R329 to R331, R334, R335) -/

/-- The bit addresses of the first n elements of row i of an entry of rank 2. -/
def rowElems (e : Entry) (i n : Nat) : List Nat := (List.range (min (e.ext 0) n)).map (fun k => bitAddr e (coordsOf e k i 0 0))

/-- The bit addresses of row i. In a row that fits in 32 bytes elements beyond the first 257 lie where the first one lies. -/
def slotRow (e : Entry) (i : Nat) : List Nat := rowElems e i 257

/-- Row i fits in 32 bytes of the slice and lies within two granules. -/
def rowFits (e : Entry) (i : Nat) : Bool :=
  let l := slotRow e i
  let lo := firstByte (l.foldl min (l.headD 0))
  let hi := lastByte (l.foldl max 0) e.width
  decide (hi < lo + 32 ∧ hi < 2 ^ 21) && decide ((granulesOf e 0 l).length ≤ 2)

/-- A well-formed entry is a slot buffer (R329). -/
def slotBuffer (e : Entry) : Bool :=
  e.fe && decide (e.space = 0 ∧ e.rank = 2 ∧ e.ext 1 ≤ 64 ∧ e.prod = 0xFFFF) &&
    (List.range (e.ext 1)).all (rowFits e)

/-- The credit entry of a rank and an entry number: its number and TAKEN. Each is [rank, entry, TAKEN]. -/
def creditOf (c : Core) (r : Word) (e : Nat) : Option (Nat × Nat) :=
  (c.credits.find? (fun q => decide (q.2.getD 0 0 = r.toNat ∧ q.2.getD 1 0 = e))).map (fun q => (q.1, q.2.getD 2 0))

/-- The credit entry that a push may take: its pair's, a free one, or the lowest with TAKEN = 0. -/
def creditFor (c : Core) (r : Word) (e : Nat) : Option (Nat × Nat) :=
  match creditOf c r e with
  | some q => some q
  | none =>
    match (List.range 16).find? (fun k => (tget c.credits k).isNone) with
    | some k => some (k, 0)
    | none => (c.credits.find? (fun q => decide (q.2.getD 2 0 = 0))).map (fun q => (q.1, 0))

/-- msg.push: it waits for its credit, then travels. It counts as an engine command for SEQ (R334), which is done at its
acceptance (log 39). -/
def msgPushBody (d a b : Reg) (l : BitVec 4) (s : State) : Body :=
  withEnv s (fun E =>
    let r := rdS E.c a.toNat
    let w := rdS E.c b.toNat
    let e := field w 23 16
    let i := field w 5 0
    if validRank E.x r = false ∨ field w 31 24 ≠ 0 ∨ field w 15 6 ≠ 0 then rankPriv r
    else
      match creditFor E.c r e with
      | none => .wait .slotReturn s
      | some (k, taken) =>
        if taken.testBit i then .wait .slotReturn s
        else
          let src := ownRank E.x E.prel
          let seq := (E.c.seq + 1) % 2 ^ 30
          let xid := word (4 * seq)
          let ref : CardRef := { core := E.n, ridx := E.t.ridx, accNo := E.u.accNo, t := E.t.t, xid := xid, pc := E.c.pc }
          let p : Packet := { src := src, dst := r, seq := sendSeq E.x src r, body := .push e i (rdV E.c d.toNat) ref }
          let s := noteSent (transmit s E.t.ctx p) E.t.ctx E.n src r
          longRes (updCore s E.n (fun c =>
            { c with credits := tset c.credits k [r.toNat, e, taken + 2 ^ i], seq := seq
                     dones := keepDones seq (tset c.dones xid.toNat 0#32) })) l [])

def execMsgPush (d a b : Reg) (l : BitVec 4) (s : State) : Out :=
  issue (.msgPush d a b l) { names := [nV d, nS a, nS b] } (msgPushBody d a b l) s

/-- The elements of a slot for the checks of R175. -/
def slotCoords (E : Env) (e : Entry) (b : Reg) : List (List Nat) :=
  let i := (rdS E.c b.toNat).toNat
  (List.range (max 1 (min (e.ext 0) 257)) ++ [e.ext 0 - 1]).map (fun k => coordsOf e k i E.c.cr.coord2.toNat E.c.cr.coord3.toNat)

/-- RESOURCE for the bytes of a slot. -/
def slotBytes (h b : Reg) (s : State) (n : Nat) : Option TrapReq :=
  match taskEnv s n with
  | some (t, x, u) =>
    let E : Env := { n := n, t := t, x := x, u := u, c := coreAt s n }
    let e := handleEntry E h.toNat
    undeclaredByte E e (slotCoords E e b)
  | none => none

/-- The form of msg.sret. -/
def sretForm : Form :=
  { flags := fun e => if slotBuffer e then none else some 0x02, reach := fun _ => none, oneGr := true }

/-- msg.sret: it waits until the slot is full, empties it, and returns it. -/
def msgSretBody (d a b : Reg) (l : BitVec 4) (s : State) : Body :=
  withEnv s (fun E =>
    let e := handleEntry E d.toNat
    match layoutCheck E sretForm e (slotCoords E e b) with
    | some r => .trap r
    | none =>
      let r := rdS E.c a.toNat
      if validRank E.x r = false then rankPriv r
      else
        let i := (rdS E.c b.toNat).toNat
        let grans := granulesOf e E.n (slotRow e i)
        if grans.all (fullBit s) = false then .wait .fullEmpty s
        else
          let src := ownRank E.x E.prel
          let p : Packet := { src := src, dst := r, seq := sendSeq E.x src r, body := .sret e.num i }
          longRes (noteSent (transmit (setFull s grans false) E.t.ctx p) E.t.ctx E.n src r) l [])

def execMsgSret (d a b : Reg) (l : BitVec 4) (s : State) : Out :=
  issue (.msgSret d a b l) { names := [nH d, nS a, nS b], bytes := slotBytes d b } (msgSretBody d a b l) s

/-- The entry of a run's release copy (R47). -/
def releaseEntry (u : Run) (k : Nat) : Entry :=
  { num := k, words := (List.range 16).map (fun w => sget 0#32 u.layouts (16 * k + w)) }

/-- The push writes slot i of a buffer of core n, as vst.fe.force does, in one bank step. -/
def writePush (s : State) (c n : Nat) (x : Ctx) (e : Entry) (i : Nat) (v : VReg) : State :=
  let locs := rowElems e i (256 / laneWidth e.width)
  let s := locs.zipIdx.foldl (fun s q => writeElem s c x e (.slice n) q.1 (laneOf v (laneWidth e.width) q.2)) s
  clearPoison (setFull s (granulesOf e n locs) true) e (.slice n) locs

/-- The run of the record of context c that holds the cluster of core n, whose layout unit has its release copy (R47, R57). -/
def holderRun (s : State) (c : Nat) (x : Ctx) (n : Nat) : Option Run :=
  match (clusterAt s (clusterOf n)).holder with
  | some (k, r) => if k = c then runAt x r else none
  | none => none

/-- PUSH_APPLY of packet i: applied at the place of its rank while a record holds that core's cluster; one that came after the rank's
move began is held (R336); one that faults returns its credit. -/
def pushApply (s : State) (i : Nat) : State :=
  match s.packets[i]? with
  | none => s
  | some (c, p) =>
    match p.body, ctxAt s c with
    | .push en slot v ref, some x =>
      let n := placeCore x p.dst
      if behind s c p.src p.dst i || isHeld x p then s
      else if duplicate x p then dropPacket s i
      else
        match holderRun s c x n with
        | none => s
        | some u =>
          let e := releaseEntry u en
          let s := dropPacket (noteAccepted s c p) i
          if wellFormedEntry e (pcores x) (releaseEntry u e.scaleh).fmt && slotBuffer e && decide (slot < e.ext 1) then
            writePush s c n x e slot v
          else
            let key := 2 ^ 64 + pairKey p.dst p.src
            let q := tgetD x.pseq key 0#32
            let back : Packet := { src := p.dst, dst := p.src, seq := q, body := .nack en slot ref }
            updCtx (transmit s c back) c (fun x => { x with pseq := tset x.pseq key (q + 1#32) })
    | _, _ => s

/-- The PUSH_APPLY step: packet input.who of those on the mesh. -/
def execPushApply (s : State) : Out := .next (pushApply s s.input.who)

/-- The credit entry that a return from rank r concerns: of that rank or, after rank.move, of another rank placed where the
returning core is (R336). -/
def returnCredit (x : Ctx) (c : Core) (r : Word) (e i : Nat) : Option (Nat × List Nat) :=
  let on := fun (q : List Nat) => decide (q.getD 1 0 = e) && (q.getD 2 0).testBit i
  let same := fun (q : List Nat) =>
    let t := word (q.getD 0 0)
    decide (rankMod t = rankMod r) && (decide (rankMod r ≠ moduleId x) || decide (placeCore x t = logical x (rankCore r)))
  match c.credits.find? (fun q => decide (q.2.getD 0 0 = r.toNat) && on q.2) with
  | some q => some q
  | none => c.credits.find? (fun q => same q.2 && on q.2)

/-- A TAKEN bit falls. -/
def clearTaken (s : State) (x : Ctx) (n : Nat) (r : Word) (e i : Nat) : State :=
  updCore s n (fun c =>
    match returnCredit x c r e i with
    | some q => { c with credits := tset c.credits q.1 [q.2.getD 0 0, q.2.getD 1 0, q.2.getD 2 0 - 2 ^ i] }
    | none => c)

/-- The task that issued ref is the one that core n runs. -/
def stillRuns (s : State) (c n : Nat) (ref : CardRef) : Bool :=
  match taskEnv s n with
  | some (t, _, u) => decide (t.ctx = c ∧ t.ridx = ref.ridx ∧ u.accNo = ref.accNo ∧ t.t = ref.t)
  | none => false

/-- SLOT_RETURN of packet i: the TAKEN bit falls; the fault of a push is held for the task that issued it, unless that has ended (R334). -/
def slotReturn (s : State) (i : Nat) : State :=
  match s.packets[i]? with
  | none => s
  | some (c, p) =>
    match ctxAt s c with
    | none => s
    | some x =>
      let n := logical x (rankCore p.dst)
      if behind s c p.src p.dst i || isHeld x p then s
      else
        match p.body with
        | .sret e k =>
          if duplicate x p then dropPacket s i
          else clearTaken (dropPacket (noteAccepted s c p) i) x n p.src e k
        | .nack e k ref =>
          if duplicate x p then dropPacket s i
          else
            let s := clearTaken (dropPacket (noteAccepted s c p) i) x n p.src e k
            if stillRuns s c n ref then
              updCore s n (fun c =>
                { c with dones := tset c.dones ref.xid.toNat 0x20000000#32
                         afaults := c.afaults ++ [{ cause := .engine, info := ref.xid, xid := ref.xid, pc := ref.pc }] })
            else s
        | _ => s

/-- The SLOT_RETURN step: packet input.who of those on the mesh. -/
def execSlotReturn (s : State) : Out := .next (slotReturn s s.input.who)

/-- Packet i of the mesh is applied, accepted, refused or held (R332, R354). -/
def settlePacket (s : State) (i : Nat) : State :=
  match s.packets[i]? with
  | none => s
  | some (_, p) =>
    match p.body with
    | .msg _ | .reply .. => messageArrival s i
    | .push .. => pushApply s i
    | .sret .. | .nack .. => slotReturn s i

/-- Those packets of the mesh that f selects, from position i on, in the order in which they stand. -/
def settlePackets (f : Nat × Packet → Bool) : Nat → State → Nat → State
  | 0, s, _ => s
  | k + 1, s, i =>
    match s.packets[i]? with
    | none => s
    | some e =>
      let s' := if f e then settlePacket s i else s
      settlePackets f k s' (if s'.packets = s.packets then i + 1 else i)

/-! ## rank.rd and rank.move (R335, R336) -/

/-- rank.rd. -/
def rankRdBody (d a : Reg) (k : BitVec 5) (l : BitVec 4) (s : State) : Body :=
  withEnv s (fun E =>
    let r := rdS E.c a.toNat
    let put := fun w => longRes s l [sres E.c d w]
    if 4 ≤ k.toNat ∨ (k.toNat < 2 ∧ a ≠ 0#5) then illegal (.rankRd d a k l)
    else if k = 0#5 then put (ownRank E.x E.prel)
    else if k = 1#5 then put (word (moduleId E.x * 2 ^ 16 + moduleCount E.x % 2 ^ 16))
    else if k = 2#5 then put E.c.lastSrc
    else if localRank E.x r then put (rankEntry E.x (rankCore r))
    else rankPriv r)

def execRankRd (d a : Reg) (k : BitVec 5) (l : BitVec 4) (s : State) : Out :=
  issue (.rankRd d a k l) { names := [nS d, nS a] } (rankRdBody d a k l) s

/-- Put the rank-table entry of a local rank. -/
def setRank (s : State) (c n : Nat) (w : Word) : State := updCtx s c (fun x => { x with ranks := tset x.ranks n w })

/-- Move the store entries of rank r from core n to core m, oldest first, while there is room. -/
def moveEntries (s : State) (n m : Nat) (r : Word) : State :=
  let mine := (coreAt s n).recvs.filter (fun p => decide (p.dst = r))
  let room := if n = m then mine.length else 16 - (coreAt s m).recvs.length
  let go := mine.take room
  if n = m then s
  else
    let stay := mine.drop room
    let s := updCore s n (fun k => { k with recvs := k.recvs.filter (fun p => decide (p.dst ≠ r)) ++ stay })
    updCore s m (fun k => { k with recvs := k.recvs ++ go })

/-- The packets for rank r of context c that are held on the mesh, up to k of them, stay so; further ones are on their way. -/
def keepHeld (c : Nat) (r : Word) : Nat → List (Nat × Packet) → List (Nat × Packet)
  | _, [] => []
  | k, e :: l =>
    if e.1 = c ∧ e.2.dst = r ∧ e.2.kept = true then
      match k with
      | 0 => (e.1, { e.2 with kept := false }) :: keepHeld c r 0 l
      | k + 1 => e :: keepHeld c r k l
    else e :: keepHeld c r k l

/-- The packets that were held for rank r while it moved are delivered in the order in which they were held (R336). Those beyond the 64
that the interfaces hold, pushes and slot returns that were answered HELD, are on their way again. -/
def deliverHeld (s : State) (c : Nat) (r : Word) : State :=
  let held := fun (e : Nat × Packet) => decide (e.1 = c ∧ e.2.dst = r) && e.2.kept
  let s := { s with packets := keepHeld c r 64 s.packets }
  let s := settlePackets held (2 * s.packets.length) s 0
  { s with packets := keepHeld c r 0 s.packets }

/-- rank.move: TRANSIT, until no push that was sent before is on its way and the target's store has taken the rank's entries; then PLACE,
and the packets that were held. -/
def rankMoveBody (d a b : Reg) (l : BitVec 4) (s : State) : Body :=
  withEnv s (fun E =>
    let r := rdS E.c a.toNat
    let m := (rdS E.c b.toNat).toNat
    if localRank E.x r = false then rankPriv r
    else if placeCore E.x r ≠ E.n ∨ pcores E.x ≤ m then rankPriv r
    else
      let n := rankCore r
      let s := setRank s E.t.ctx n (rankEntry E.x n ||| 0x40000000#32)
      let pushes := s.packets.any (fun e => decide (e.1 = E.t.ctx ∧ e.2.dst = r ∧ e.2.kept = false) && (match e.2.body with
        | .push .. => true
        | _ => false))
      if pushes then .wait .rankMove s
      else
        let s := moveEntries s E.n (logical E.x m) r
        if logical E.x m ≠ E.n ∧ (coreAt s E.n).recvs.any (fun p => decide (p.dst = r)) = true then .wait .rankMove s
        else longRes (deliverHeld (setRank s E.t.ctx n (word (2 ^ 31 + m % 2 ^ 13))) E.t.ctx r) l [sres E.c d 0#32])

def execRankMove (d a b : Reg) (l : BitVec 4) (s : State) : Out :=
  issue (.rankMove d a b l) { names := [nS d, nS a, nS b] } (rankMoveBody d a b l) s

end Sys2Proof.Machine
end

