-- ==== Sys2Proof/Machine/Float.lean ====
section
/-! DEFINITION. Number formats and exact arithmetic (R131 to R144): values, rounding, conversions, and the operations on them.
A finite value is (-1)^neg * m * 2^e, exactly. -/

namespace Sys2Proof.Machine

/-! ## Formats and values -/

/-- A floating-point format (R131, R132): exponent and mantissa widths, bias, whether it has infinities and NaNs, the largest
finite code and the canonical NaN, without sign. -/
structure FFmt where
  eb     : Nat
  mb     : Nat
  bias   : Nat
  hasInf : Bool
  hasNan : Bool
  maxMag : Nat
  canon  : Nat
deriving DecidableEq, Repr

/-- The formats by code; codes that are no floating-point format are read as FP32 by no caller. -/
def ffmt (f : Nat) : FFmt :=
  if f = fmtFP16 then { eb := 5, mb := 10, bias := 15, hasInf := true, hasNan := true, maxMag := 0x7BFF, canon := 0x7E00 }
  else if f = fmtBF16 then { eb := 8, mb := 7, bias := 127, hasInf := true, hasNan := true, maxMag := 0x7F7F, canon := 0x7FC0 }
  else if f = fmtE4M3 then { eb := 4, mb := 3, bias := 7, hasInf := false, hasNan := true, maxMag := 0x7E, canon := 0x7F }
  else if f = fmtE5M2 then { eb := 5, mb := 2, bias := 15, hasInf := true, hasNan := true, maxMag := 0x7B, canon := 0x7E }
  else if f = fmtE3M2 then { eb := 3, mb := 2, bias := 3, hasInf := false, hasNan := false, maxMag := 0x1F, canon := 0 }
  else if f = fmtE2M3 then { eb := 2, mb := 3, bias := 1, hasInf := false, hasNan := false, maxMag := 0x1F, canon := 0 }
  else if f = fmtE2M1 then { eb := 2, mb := 1, bias := 1, hasInf := false, hasNan := false, maxMag := 0x7, canon := 0 }
  else { eb := 8, mb := 23, bias := 127, hasInf := true, hasNan := true, maxMag := 0x7F7FFFFF, canon := 0x7FC00000 }

/-- A value: a NaN, quiet or signalling; an infinity; a finite number, zeros with their sign. -/
inductive FVal where
  | nan (sig : Bool)
  | inf (neg : Bool)
  | fin (neg : Bool) (m : Nat) (e : Int)
deriving DecidableEq, Repr

/-- Sign and magnitude parts of a code. -/
def signOf (F : FFmt) (code : Nat) : Bool := code.testBit (F.eb + F.mb)
def magOf (F : FFmt) (code : Nat) : Nat := code % 2 ^ (F.eb + F.mb)

/-- A code with the sign put before its magnitude. -/
def withSign (F : FFmt) (neg : Bool) (mag : Nat) : Nat := if neg then 2 ^ (F.eb + F.mb) + mag else mag

/-- A subnormal code: exponent field zero, mantissa not. -/
def isSubnormal (F : FFmt) (code : Nat) : Bool := decide (0 < magOf F code ∧ magOf F code < 2 ^ F.mb)

/-- FIN on a code (R137). -/
def finCode (F : FFmt) (on : Bool) (code : Nat) : Nat := if on && isSubnormal F code then withSign F (signOf F code) 0 else code

/-- The value of a code (R131, R132). -/
def valOf (F : FFmt) (code : Nat) : FVal :=
  let neg := signOf F code
  let mag := magOf F code
  if F.maxMag < mag then
    if F.hasInf = true ∧ mag = F.maxMag + 1 then .inf neg
    else .nan (F.hasInf && !mag.testBit (F.mb - 1))
  else if mag < 2 ^ F.mb then .fin neg mag (1 - F.bias - F.mb)
  else .fin neg (2 ^ F.mb + mag % 2 ^ F.mb) ((mag / 2 ^ F.mb : Nat) - F.bias - F.mb)

/-- The value of a two's complement code of w bits (R133). -/
def intVal (w code : Nat) : Int := if code % 2 ^ w < 2 ^ (w - 1) then (code % 2 ^ w : Nat) else (code % 2 ^ w : Nat) - 2 ^ w

/-- An integer as a value. -/
def ofInt (v : Int) : FVal := .fin (decide (v < 0)) v.natAbs 0

/-- A DS8 code in units of 2^-7 (R134). -/
def ds8Units (code : Nat) : Int :=
  let t := fun (sg : Bool) (k : Nat) => if sg then -(2 ^ (7 - k) : Int) else 2 ^ (7 - k)
  t (code.testBit 7) (code / 16 % 8) + t (code.testBit 3) (code % 8)

/-- The value of a code of any format with values (R131 to R134); floating-point codes are read through FIN where fin holds. -/
def readVal (fmt : Nat) (fin : Bool) (code : Nat) : FVal :=
  if fmt = fmtINT8 then ofInt (intVal 8 code)
  else if fmt = fmtINT32 then ofInt (intVal 32 code)
  else if fmt = fmtE8M0 then if code % 256 = 255 then .nan false else .fin false 1 ((code % 256 : Nat) - 127)
  else if fmt = fmtDS8 then
    let u := ds8Units code
    .fin (decide (u < 0)) u.natAbs (-7)
  else valOf (ffmt fmt) (finCode (ffmt fmt) fin code)

def FVal.isNan : FVal → Bool
  | .nan _ => true
  | _ => false

def FVal.isSnan : FVal → Bool
  | .nan b => b
  | _ => false

def FVal.isZero : FVal → Bool
  | .fin _ m _ => m == 0
  | _ => false

def FVal.isInf : FVal → Bool
  | .inf _ => true
  | _ => false

def FVal.neg : FVal → Bool
  | .nan _ => false
  | .inf b => b
  | .fin b _ _ => b

/-- The value with its sign inverted. -/
def FVal.negate : FVal → FVal
  | .nan b => .nan b
  | .inf b => .inf (!b)
  | .fin b m e => .fin (!b) m e

/-! ## Rounding (R137) -/

/-- The number of bits of a number. -/
def bitLen (m : Nat) : Nat := if m = 0 then 0 else m.log2 + 1

/-- 2^k for an integer k ≥ 0. -/
def pow2 (k : Int) : Nat := 2 ^ k.toNat

/-- m * 2^e rounded to a multiple of 2^q: the multiple, and whether it is inexact. -/
def roundAt (neg : Bool) (m : Nat) (e q : Int) (rm : Rounding) : Nat × Bool :=
  if q ≤ e then (m * pow2 (e - q), false)
  else
    let d := pow2 (q - e)
    let r := m / d
    let rem := m % d
    let up := match rm with
      | .rne => decide (d < 2 * rem ∨ (2 * rem = d ∧ r % 2 = 1))
      | .rtz => false
      | .rup => !neg
      | .rdn => neg
    if rem = 0 then (r, false) else (if up then r + 1 else r, true)

/-- The exponent of the least significant bit of a result of m * 2^e in format F: p bits, but not below the subnormal
spacing. -/
def quantum (F : FFmt) (m : Nat) (e : Int) : Int := max ((bitLen m : Nat) + e - F.mb - 1) (1 - F.bias - F.mb)

/-- Round m * 2^e into F with an unbounded exponent range: the code's magnitude as if the exponent field had no bound, and
whether it is inexact. -/
def roundMag (F : FFmt) (neg : Bool) (m : Nat) (e : Int) (rm : Rounding) : Nat × Bool :=
  let q := quantum F m e
  let (r, inexact) := roundAt neg m e q rm
  ((q - (1 - F.bias - F.mb)).toNat * 2 ^ F.mb + r, inexact)

/-! ## Conversions (R141, R142, R144) -/

/-- overflow_value of R141 is the infinity, not the largest finite number. -/
def overflowInf (neg : Bool) (rm : Rounding) : Bool :=
  match rm with
  | .rne => true
  | .rtz => false
  | .rup => !neg
  | .rdn => neg

/-- cvt_fp of R141: the code and the flags. -/
def cvtFp (F : FFmt) (rm : Rounding) (sat fout : Bool) (x : FVal) : Nat × FFlags :=
  match x with
  | .nan sig => (F.canon, flagIf (sig || !F.hasNan) fNV)
  | .inf neg => if F.hasInf then (withSign F neg (F.maxMag + 1), 0#5) else (withSign F neg F.maxMag, fNV)
  | .fin neg m e =>
    if m = 0 then (withSign F neg 0, 0#5)
    else
      let (mag, inexact) := roundMag F neg m e rm
      if F.maxMag < mag then
        (withSign F neg (if F.hasInf && !sat && overflowInf neg rm then F.maxMag + 1 else F.maxMag), fOF ||| fNX)
      else if fout = true ∧ 0 < mag ∧ mag < 2 ^ F.mb then (withSign F neg 0, fUF ||| fNX)
      else (withSign F neg mag, flagIf inexact fNX ||| flagIf (inexact && decide (mag < 2 ^ F.mb)) fUF)

/-- Conversion into a two's complement integer of w bits (R142). -/
def cvtInt (w : Nat) (rm : Rounding) (x : FVal) : Nat × FFlags :=
  let hi : Nat := 2 ^ (w - 1) - 1
  let lo : Nat := 2 ^ (w - 1)
  match x with
  | .nan _ => (0, fNV)
  | .inf neg => (if neg then lo else hi, fNV)
  | .fin neg m e =>
    let (r, inexact) := roundAt neg m e 0 rm
    if neg then if lo < r then (lo, fNV) else ((2 ^ w - r) % 2 ^ w, flagIf inexact fNX)
    else if hi < r then (hi, fNV) else (r, flagIf inexact fNX)

/-- The DS8 code nearest to v in units of 2^-7 * 2^(-k): least distance, then least magnitude, then least code (R144). -/
def nearestDs8 (v : Int) (k : Nat) : Nat :=
  let key := fun c => ((ds8Units c * 2 ^ k - v).natAbs, (ds8Units c).natAbs)
  (List.range 256).foldl (fun best c =>
    let a := key c
    let b := key best
    if a.1 < b.1 ∨ (a.1 = b.1 ∧ a.2 < b.2) then c else best) 0

/-- Conversion into DS8 of a value divided by its block scale (R144). -/
def cvtDs8 (x : FVal) : Nat × FFlags :=
  match x with
  | .nan _ => (0x08, fNV)
  | .inf neg => (if neg then 0x88 else 0x00, fNV)
  | .fin neg m e =>
    if m = 0 then (0x08, 0#5)
    else
      -- in units of 2^-7 divided by 2^k
      let k := (-7 - e).toNat
      let v : Nat := m * pow2 (e + 7)
      if 256 * 2 ^ k < v then (if neg then 0x88 else 0x00, fOF ||| fNX)
      else
        let sv : Int := if neg then -(v : Int) else v
        let c := nearestDs8 sv k
        if ds8Units c * 2 ^ k = sv then (c, 0#5) else (c, if ds8Units c = 0 then fUF ||| fNX else fNX)

/-- Conversion into E8M0 (R144). -/
def cvtE8m0 (x : FVal) : Nat × FFlags :=
  match x with
  | .nan _ => (0xFF, fNV)
  | .inf _ => (0xFE, fNV)
  | .fin _ m e =>
    if m = 0 then (0x00, fNX)
    else
      let c : Int := (m.log2 : Nat) + e + 127
      if c < 0 then (0x00, fUF ||| fNX) else (c.toNat, flagIf (decide (m ≠ 2 ^ m.log2)) fNX)

/-- Conversion of a value into a format of R202. -/
def cvtTo (fmt : Nat) (rm : Rounding) (sat fout : Bool) (x : FVal) : Nat × FFlags :=
  if fmt = fmtDS8 then cvtDs8 x else if fmt = fmtE8M0 then cvtE8m0 x else cvtFp (ffmt fmt) rm sat fout x

/-! ## Exact operations (R139, R192, R198). Each gives a value and NV or DZ. -/

/-- NV for a signalling operand. -/
def snanFlag (xs : List FVal) : FFlags := flagIf (xs.any FVal.isSnan) fNV

/-- The sign of an exact sum of zero from operands that are not both zero of one sign. -/
def zeroSumNeg (rm : Rounding) : Bool := decide (rm = .rdn)

/-- x + y. -/
def addVal (rm : Rounding) (x y : FVal) : FVal × FFlags :=
  match x, y with
  | .nan _, _ | _, .nan _ => (.nan false, snanFlag [x, y])
  | .inf a, .inf b => if a = b then (.inf a, 0#5) else (.nan false, fNV)
  | .inf a, .fin .. => (.inf a, 0#5)
  | .fin .., .inf b => (.inf b, 0#5)
  | .fin a m e, .fin b k f =>
    if m = 0 ∧ k = 0 then (.fin (if a = b then a else zeroSumNeg rm) 0 0, 0#5)
    else
      let q := min e f
      let u : Int := (m * pow2 (e - q) : Nat)
      let v : Int := (k * pow2 (f - q) : Nat)
      let t := (if a then -u else u) + (if b then -v else v)
      if t = 0 then (.fin (zeroSumNeg rm) 0 0, 0#5) else (.fin (decide (t < 0)) t.natAbs q, 0#5)

/-- x * y. -/
def mulVal (x y : FVal) : FVal × FFlags :=
  match x, y with
  | .nan _, _ | _, .nan _ => (.nan false, snanFlag [x, y])
  | .inf a, .inf b => (.inf (a != b), 0#5)
  | .inf a, .fin b m _ | .fin b m _, .inf a => if m = 0 then (.nan false, fNV) else (.inf (a != b), 0#5)
  | .fin a m e, .fin b k f => (.fin (a != b) (m * k) (e + f), 0#5)

/-- x * y + z with the flags of R139: 0 times an infinity sets NV whatever z is. -/
def fmaVal (rm : Rounding) (x y z : FVal) : FVal × FFlags :=
  let (p, f) := mulVal x y
  let (r, g) := addVal rm p z
  (r, f ||| g)

/-- x / y (R198). The quotient carries a bit below every rounding position that tells whether it is inexact. -/
def divVal (x y : FVal) : FVal × FFlags :=
  match x, y with
  | .nan _, _ | _, .nan _ => (.nan false, snanFlag [x, y])
  | .inf _, .inf _ => (.nan false, fNV)
  | .inf a, .fin b _ _ => (.inf (a != b), 0#5)
  | .fin a _ _, .inf b => (.fin (a != b) 0 0, 0#5)
  | .fin a m e, .fin b k f =>
    if k = 0 then if m = 0 then (.nan false, fNV) else (.inf (a != b), fDZ)
    else if m = 0 then (.fin (a != b) 0 0, 0#5)
    else
      let n := m * 2 ^ 64
      (.fin (a != b) (2 * (n / k) + (if n % k = 0 then 0 else 1)) (e - f - 65), 0#5)

/-- The integer square root by bits: k halvings of the step. -/
def sqrtBits (n : Nat) : Nat → Nat → Nat
  | 0, r => r
  | k + 1, r => if (r + 2 ^ k) * (r + 2 ^ k) ≤ n then sqrtBits n k (r + 2 ^ k) else sqrtBits n k r

/-- The square root (R198), with a sticky bit as in divVal. -/
def sqrtVal (x : FVal) : FVal × FFlags :=
  match x with
  | .nan _ => (.nan false, snanFlag [x])
  | .inf neg => if neg then (.nan false, fNV) else (.inf false, 0#5)
  | .fin neg m e =>
    if m = 0 then (x, 0#5)
    else if neg then (.nan false, fNV)
    else
      let odd := e % 2
      let n := m * pow2 odd * 2 ^ 64
      let r := sqrtBits n 48 0
      (.fin false (2 * r + (if r * r = n then 0 else 1)) ((e - odd) / 2 - 33), 0#5)

/-- x < y for values that are no NaNs. -/
def ltVal (x y : FVal) : Bool :=
  match x, y with
  | .nan _, _ | _, .nan _ => false
  | .inf a, .inf b => a && !b
  | .inf a, .fin .. => a
  | .fin .., .inf b => !b
  | .fin a m e, .fin b k f =>
    let q := min e f
    let u : Int := (m * pow2 (e - q) : Nat)
    let v : Int := (k * pow2 (f - q) : Nat)
    decide ((if a then -u else u) < (if b then -v else v))

/-- x = y as numbers: zeros of either sign are equal. -/
def eqVal (x y : FVal) : Bool := !x.isNan && !y.isNan && !ltVal x y && !ltVal y x

/-! ## Minimum and maximum (R143) -/

/-- fmin (big = false) or fmax of two codes of a format. -/
def fminmax (F : FFmt) (big : Bool) (a b : Nat) : Nat × FFlags :=
  let x := valOf F a
  let y := valOf F b
  let nv := snanFlag [x, y]
  if x.isNan && y.isNan then (F.canon, nv)
  else if x.isNan then (b, nv)
  else if y.isNan then (a, nv)
  else if x.isZero && y.isZero then
    (withSign F (if big then signOf F a && signOf F b else signOf F a || signOf F b) 0, nv)
  else if big then (if ltVal x y then b else a, nv) else (if ltVal y x then b else a, nv)

/-- fminp or fmaxp. -/
def fminmaxp (F : FFmt) (big : Bool) (a b : Nat) : Nat × FFlags :=
  if (valOf F a).isNan || (valOf F b).isNan then (F.canon, snanFlag [valOf F a, valOf F b]) else fminmax F big a b

/-! ## Fixed rounding to nearest even (R138) -/

/-- An exact value as FP32 under RNE without FIN or FOUT. -/
def rneFp32 (x : FVal) : Nat × FFlags := cvtFp (ffmt fmtFP32) .rne false false x

/-- round_rne_fp32(a + b) of FP32 codes. -/
def addFp32 (a b : Nat) : Nat × FFlags :=
  let (r, f) := addVal .rne (valOf (ffmt fmtFP32) a) (valOf (ffmt fmtFP32) b)
  let (c, g) := rneFp32 r
  (c, f ||| g)

/-- round_rne_fp32(a * b) of FP32 codes. -/
def mulFp32 (a b : Nat) : Nat × FFlags :=
  let (r, f) := mulVal (valOf (ffmt fmtFP32) a) (valOf (ffmt fmtFP32) b)
  let (c, g) := rneFp32 r
  (c, f ||| g)

end Sys2Proof.Machine
end

