-- ==== Sys2Proof/Machine/Approx.lean ====
section
/-! DEFINITION. The approximations (R145 to R149), the reduction tree (R150), and the Gaussian generator with the perturbed
weights (R153 to R157). -/

namespace Sys2Proof.Machine

/-! ## R145 -/

/-- fin_round: the exact value (-1)^neg * v * 2^e rounded once to 24 bits, with the range rules of R145. -/
def finRound (neg : Bool) (v : Nat) (e : Int) : Nat × FFlags :=
  let F := ffmt fmtFP32
  if v = 0 then (withSign F neg 0, fUF ||| fNX)
  else
    let q : Int := (bitLen v : Nat) + e - 24
    let (r, _) := roundAt neg v e q .rne
    -- r has 24 or 25 bits; its leading bit stands for 2^(top)
    let top : Int := (bitLen r : Nat) - 1 + q
    if 128 ≤ top then (withSign F neg (F.maxMag + 1), fOF ||| fNX)
    else if top < -126 then (withSign F neg 0, fUF ||| fNX)
    else (withSign F neg ((top + 126).toNat * 2 ^ 23 + r * 2 ^ 24 / 2 ^ bitLen r), 0#5)

/-- unpack: M with 24 bits and e with |x| = M * 2^(e - 23), for finite nonzero x. -/
def unpackM (m : Nat) (e : Int) : Nat × Int :=
  let k := 24 - bitLen m
  (m * 2 ^ k, e - k + 23)

/-- RC of R146 and RS of R147. -/
def rcTable : List Nat :=
  [63550, 59919, 56680, 53773, 51150, 48771, 46603, 44620, 42799, 41121, 39569, 38130, 36792, 35545, 34380, 33288]
def rsTable : List Nat :=
  [63579, 60140, 57205, 54661, 52429, 50450, 48679, 47082, 44957, 42525, 40450, 38651, 37073, 35673, 34421, 33292]

/-- The procedure of R146. -/
def rcpProc (neg : Bool) (M : Nat) (e : Int) : Nat × FFlags :=
  let step := fun y => y * (2 ^ 31 - M * y / 2 ^ 23) / 2 ^ 30
  let y := rcTable.getD (M / 2 ^ 19 % 16) 0 * 2 ^ 14
  finRound neg (step (step y)) (-30 - e)

/-- The procedure of R147. -/
def rsqProc (M : Nat) (e : Int) : Nat × FFlags :=
  let odd := e % 2
  let M2 := if odd = 1 then 2 * M else M
  let step := fun y =>
    let t := y * y / 2 ^ 30
    let u := M2 * t / 2 ^ 23
    y * (3 * 2 ^ 30 - u) / 2 ^ 31
  let y := rsTable.getD (8 * odd.toNat + M / 2 ^ 20 % 8) 0 * 2 ^ 14
  finRound false (step (step y)) (-30 - (e - odd) / 2)

/-- T2 of R148. -/
def t2Table : List Nat :=
  [1073741824, 1170923762, 1276901417, 1392470869, 1518500250, 1655936265, 1805811301, 1969251188]

/-- The procedure of R148 for -128 < x < 128. -/
def exp2Proc (neg : Bool) (m : Nat) (e : Int) : Nat × FFlags :=
  let sm : Int := if neg then -(m : Int) else m
  let X : Int := if 0 ≤ e + 24 then sm * pow2 (e + 24) else sm / (pow2 (-(e + 24)) : Int)
  let n := X / 2 ^ 24
  let f := (X % 2 ^ 24).toNat
  let q := f % 2 ^ 21 * 2 ^ 6
  let p := 59597083
  let p := 257941248 + p * q / 2 ^ 30
  let p := 744261118 + p * q / 2 ^ 30
  let p := 2 ^ 30 + p * q / 2 ^ 30
  finRound false (t2Table.getD (f / 2 ^ 21 % 8) 0 * p / 2 ^ 30) (n - 30)

/-- IB and LG of R149. -/
def ibTable : List Nat := [1073741824, 954437177, 858993459, 780903145, 715827883, 660764199]
def lgTable : List Nat := [0, 182455581, 345667660, 493310944, 628098702, 752091421]

/-- The procedure of R149 for x > 0. -/
def log2Proc (M : Nat) (e : Int) : Nat × FFlags :=
  let j := M / 2 ^ 20 % 8
  let Z : Int := if 6 ≤ j then (M * 2 ^ 22 : Nat) - 2 ^ 46 else (M * ibTable.getD j 0 / 2 ^ 7 : Nat) - 2 ^ 46
  let E : Int := if 6 ≤ j then e + 1 else e
  let L : Int := if 6 ≤ j then 0 else (lgTable.getD j 0 : Nat)
  let t : Int := -1549082005
  let t := 2065442673 + t * Z / 2 ^ 46
  let t := -3098164009 + t * Z / 2 ^ 46
  let t := 6196328019 + t * Z / 2 ^ 46
  let S := E * 2 ^ 46 + L * 2 ^ 16 + t * Z / 2 ^ 32
  if S = 0 then (0, 0#5) else finRound (decide (S < 0)) S.natAbs (-46)

/-- The four approximations. -/
inductive Approx where
  | rcp | rsq | exp2 | log2
deriving DecidableEq, Repr

/-- An approximation of a value, with the special inputs of R145's table. -/
def approx (k : Approx) (x : FVal) : Nat × FFlags :=
  let F := ffmt fmtFP32
  let canon := F.canon
  let infC := fun neg => withSign F neg (F.maxMag + 1)
  match x with
  | .nan sig => (canon, flagIf sig fNV)
  | .inf neg =>
    match k with
    | .rcp => (withSign F neg 0, 0#5)
    | .rsq => if neg then (canon, fNV) else (0, 0#5)
    | .exp2 => if neg then (0, 0#5) else (infC false, 0#5)
    | .log2 => if neg then (canon, fNV) else (infC false, 0#5)
  | .fin neg m e =>
    if m = 0 then
      match k with
      | .rcp | .rsq => (infC neg, fDZ)
      | .exp2 => (0x3F800000, 0#5)
      | .log2 => (infC true, fDZ)
    else
      let (M, u) := unpackM m e
      match k with
      | .rcp => rcpProc neg M u
      | .rsq => if neg then (canon, fNV) else rsqProc M u
      | .exp2 =>
        if 7 ≤ u then if neg then (0, fUF ||| fNX) else (infC false, fOF ||| fNX) else exp2Proc neg m e
      | .log2 => if neg then (canon, fNV) else log2Proc M u

/-! ## The reduction tree (R150) -/

/-- One level of the tree. -/
def treeLevel (f : Nat → Nat → Nat × FFlags) : List Nat → List Nat × FFlags
  | a :: b :: l =>
    let (c, g) := f a b
    let (cs, h) := treeLevel f l
    (c :: cs, g ||| h)
  | l => (l, 0#5)

/-- The tree over at most 2^k lanes. -/
def tree (f : Nat → Nat → Nat × FFlags) : Nat → List Nat → Nat × FFlags
  | 0, l => (l.getD 0 0, 0#5)
  | k + 1, l =>
    let (l', g) := treeLevel f l
    let (r, h) := tree f k l'
    (r, g ||| h)

/-! ## The Gaussian generator (R153, R154) -/

/-- The state of mix. -/
structure Mix where
  a : Word
  b : Word
  c : Word
  d : Word
deriving DecidableEq, Repr

/-- One round of mix; r counts from 0. -/
def mixRound (r : Nat) (x : Mix) : Mix :=
  let a := x.a + x.b + word ((r + 1) * 0x9E3779B9)
  let d := (x.d ^^^ a).rotateLeft 16
  let c := x.c + d
  let b := (x.b ^^^ c).rotateLeft 12
  let a := a + b
  let d := (d ^^^ a).rotateLeft 8
  let c := c + d
  let b := (b ^^^ c).rotateLeft 7
  { a := a, b := b, c := c, d := d }

/-- mix of R153. -/
def mix (lo hi : Word) (memb stream : BitVec 16) (idx : Word) : Mix :=
  let x : Mix := { a := idx, b := stream ++ memb, c := lo, d := hi }
  let x := (List.range 8).foldl (fun x r => mixRound r x) x
  { a := x.a + idx, b := x.b, c := x.c + lo, d := x.d + hi }

/-- The sum of the four bytes of a word. -/
def byteSum (w : Word) : Nat := w.toNat % 256 + w.toNat / 256 % 256 + w.toNat / 65536 % 256 + w.toNat / 16777216

/-- ε of R154: FP32. -/
def gauss (lo hi : Word) (memb stream : BitVec 16) (idx : Word) : Nat :=
  let x := mix lo hi memb stream idx
  let b : Int := (byteSum x.a + byteSum x.b + byteSum x.c + byteSum x.d : Nat)
  (rneFp32 (mulVal (ofInt (b - 2040)) (valOf (ffmt fmtFP32) 0x3B5DB446)).1).1

/-! ## Pairs (R135, R155, R156) -/

/-- T of R155. -/
def sigmaTable : List Nat :=
  [0x3F800000, 0x3F8B95C2, 0x3F9837F0, 0x3FA5FED7, 0x3FB504F3, 0x3FC5672A, 0x3FD744FD, 0x3FEAC0C7]

/-- σ of a λ (R155). -/
def sigmaOf (lam : Int) : FVal :=
  if lam = -128 then .fin false 0 0
  else
    match valOf (ffmt fmtFP32) (sigmaTable.getD (lam % 8).toNat 0) with
    | .fin n m e => .fin n m (e + lam / 8)
    | v => v

/-- The perturbed weight of a pair word (R135, R156): a BF16 code. -/
def perturbed (pair : Word) (eps : Nat) : Nat :=
  let mu := pair.toNat % 65536
  let lam := intVal 8 (pair.toNat / 65536 % 256)
  let F := ffmt fmtBF16
  let G := ffmt fmtFP32
  if 2 ^ 24 ≤ pair.toNat then 0x7FC0
  else if lam = -128 then mu
  else if (valOf F mu).isNan then 0x7FC0
  else
    let p := (rneFp32 (mulVal (sigmaOf lam) (valOf G eps)).1).1
    let t := (rneFp32 (addVal .rne (valOf F mu) (valOf G p)).1).1
    (cvtFp F .rne false false (valOf G t)).1

end Sys2Proof.Machine
end

