-- ==== Sys2Proof/Machine/Vector.lean ====
section
/-! DEFINITION. The vector instructions: lanes, predicates and flags (R184 to R188, R351), integer arithmetic, compares and
reductions (R189 to R191), floating point (R192 to R197), and the long operations (R198, R199). -/

namespace Sys2Proof.Machine

/-! ## Lanes and predicates (R184, R185) -/

/-- The lane width of a W code for the integer and data-movement majors. -/
def intWidth (w : BitVec 2) : Nat := 32 / 2 ^ w.toNat

/-- The format that W selects in the floating-point majors (R192), and its lane width. -/
def fpFmt (w : BitVec 2) : Nat := if w = 0#2 then fmtFP32 else if w = 1#2 then fmtFP16 else fmtBF16
def fpWidth (w : BitVec 2) : Nat := fmtWidth (fpFmt w)

/-- Lane i of width w is active under a predicate. -/
def activeLane (p : Word) (w i : Nat) : Bool := p.getLsbD (w / 8 * i)

/-- The number of active lanes of width w. -/
def activeCount (p : Word) (w : Nat) : Nat := ((List.range (256 / w)).filter (activeLane p w)).length

/-- A vector in which each active lane i takes f i and the others keep their value. -/
def mapLanes (w : Nat) (p : Word) (old : VReg) (f : Nat → Nat) : VReg :=
  packLanes w ((List.range (256 / w)).map (fun i => if activeLane p w i then f i else laneOf old w i))

/-- The flags of the active lanes, by lane. -/
def laneFlags (w : Nat) (p : Word) (f : Nat → FFlags) : List (Nat × FFlags) :=
  ((List.range (256 / w)).filter (activeLane p w)).map (fun i => (i, f i))

/-- A predicate in which every bit of a lane is the lane's truth (R190). -/
def packPred (w : Nat) (t : Nat → Bool) : Word :=
  word ((List.range (256 / w)).foldl (fun acc i => if t i then acc + (2 ^ (w / 8) - 1) * 2 ^ (w / 8 * i) else acc) 0)

/-- A code of w bits as signed. -/
def sgn (w x : Nat) : Int := intVal w x

/-- An integer as a code of w bits. -/
def toCode (w : Nat) (x : Int) : Nat := (x % 2 ^ w).toNat

/-- Clamp to the signed range of w bits. -/
def clampS (w : Nat) (x : Int) : Int := max (-(2 ^ (w - 1) : Int)) (min x (2 ^ (w - 1) - 1))

/-! ## Retirement (R140, R187, R188, R351, R394) -/

/-- Counter of a class and format (R393). E8M0 counts under INT8 and pair words under BF16. -/
def counterOf (cls fmt : Nat) : Nat := 11 * cls + (if fmt = fmtE8M0 then fmtINT8 else if fmt = fmtPair then fmtBF16 else fmt)

/-- The result of a vector instruction: what it writes, the flags of each lane, W as FPX reports it, the counts. -/
structure VRes where
  writes : List Write
  flags  : List (Nat × FFlags) := []
  w      : Nat := 0
  counts : List (Nat × Nat) := []

/-- All flags of the lanes. -/
def orFlags (l : List (Nat × FFlags)) : FFlags := l.foldl (fun acc e => acc ||| e.2) 0#5

/-- FPX of the lowest lane that raises an enabled flag (R351). -/
def fpxOf (fctl : Word) (r : VRes) : Option TrapReq :=
  match r.flags.find? (fun e => decide (e.2 &&& enablesOf fctl ≠ 0#5)) with
  | some e => some { cause := .fpx, info := word (r.w * 2 ^ 14 + e.1 * 2 ^ 8 + e.2.toNat), lane := e.1 }
  | none => none

/-- A hold places a source in the operand buffer for the next two instructions (R103). This instruction's own retirement takes
one off the life. -/
def holdReg (c : Core) (on : BitVec 1) (r : Reg) : Core :=
  if on = 0#1 then c
  else
    let h : Hold := { reg := r.toNat, val := rdV c r.toNat, life := 3 }
    match c.opbuf with
    | [] => { c with opbuf := [h] }
    | [x] => { c with opbuf := [x, h] }
    | x :: y :: _ => if y.life < x.life then { c with opbuf := [x, h] } else { c with opbuf := [y, h] }

/-- What a vector instruction leaves: FPX, or its result pending with its flags and counts. With any trap enabled it retires
before the next instruction issues (R351). -/
def vecDone (kind : PKind) (l : BitVec 4) (r : VRes) (s : State) : Body :=
  let c := me s
  match fpxOf c.cr.fctl r with
  | some t => .trap t
  | none =>
    let s' := pend s s.cur kind l r.writes (orFlags r.flags) (if c.priv then [] else r.counts)
    if enablesOf c.cr.fctl ≠ 0#5 ∧ r.flags ≠ [] then
      .ok (updMe s' (fun k => completeIf (fun p => forcible p && decide (some p = k.inflight.getLast?)) k))
    else .ok s'

/-- A VEC instruction: holds, then its result. -/
def vecBody (m : Vm) (a b : Reg) (f : Core → VRes) (s : State) : Body :=
  let r := f (me s)
  vecDone .interlocked 0#4 r (updMe s (fun c => holdReg (holdReg c m.ha a) m.hb b))

/-- The predicate that a VEC instruction names. -/
def predOf (c : Core) (m : Vm) : Word := rdP c m.pred.toNat

/-- Shapes of VEC instructions: the predicate is named too. -/
def shVVV (d a b : Reg) (m : Vm) : Shape := { names := [nV d, nV a, nV b, ⟨.p, m.pred.toNat⟩] }
def shVV (d a : Reg) (m : Vm) : Shape := { names := [nV d, nV a, ⟨.p, m.pred.toNat⟩] }
def shPVV (d a b : Reg) (m : Vm) : Shape := { names := [nP d, nV a, nV b, ⟨.p, m.pred.toNat⟩] }
def shSV (d a : Reg) (m : Vm) : Shape := { names := [nS d, nV a, ⟨.p, m.pred.toNat⟩] }

/-! ## Integer arithmetic (R189) -/

/-- The counter format of an integer lane width: none for 16-bit lanes (R394). -/
def intCount (w : BitVec 2) (n : Nat) : List (Nat × Nat) :=
  if w = 0#2 then [(counterOf 1 fmtINT32, n)] else if w = 2#2 then [(counterOf 1 fmtINT8, n)] else []

/-- A lane-wise integer instruction; counted tells whether R394 lists it. -/
def vintRes (f : Nat → Nat → Nat → Nat) (counted : Bool) (d a b : Reg) (m : Vm) (c : Core) : VRes :=
  let w := intWidth m.w
  let p := predOf c m
  let x := rdV c a.toNat
  let y := rdV c b.toNat
  { writes := [.v d.toNat (mapLanes w p (rdV c d.toNat) (fun i => f w (laneOf x w i) (laneOf y w i)))]
    counts := if counted then intCount m.w (activeCount p w) else [] }

def lAdd (w x y : Nat) : Nat := (x + y) % 2 ^ w
def lSub (w x y : Nat) : Nat := (x + 2 ^ w - y) % 2 ^ w
def lAdds (w x y : Nat) : Nat := toCode w (clampS w (sgn w x + sgn w y))
def lSubs (w x y : Nat) : Nat := toCode w (clampS w (sgn w x - sgn w y))
def lMul (w x y : Nat) : Nat := x * y % 2 ^ w
def lMin (w x y : Nat) : Nat := if sgn w x ≤ sgn w y then x else y
def lMax (w x y : Nat) : Nat := if sgn w y ≤ sgn w x then x else y
def lSll (w x y : Nat) : Nat := x * 2 ^ (y % w) % 2 ^ w
def lSrl (w x y : Nat) : Nat := x / 2 ^ (y % w)
def lSra (w x y : Nat) : Nat := toCode w (sgn w x / 2 ^ (y % w))

def execVadd (d a b : Reg) (m : Vm) (s : State) : Out :=
  issue (.vadd d a b m) (shVVV d a b m) (vecBody m a b (vintRes lAdd true d a b m)) s
def execVsub (d a b : Reg) (m : Vm) (s : State) : Out :=
  issue (.vsub d a b m) (shVVV d a b m) (vecBody m a b (vintRes lSub true d a b m)) s
def execVadds (d a b : Reg) (m : Vm) (s : State) : Out :=
  issue (.vadds d a b m) (shVVV d a b m) (vecBody m a b (vintRes lAdds true d a b m)) s
def execVsubs (d a b : Reg) (m : Vm) (s : State) : Out :=
  issue (.vsubs d a b m) (shVVV d a b m) (vecBody m a b (vintRes lSubs true d a b m)) s
def execVmul (d a b : Reg) (m : Vm) (s : State) : Out :=
  issue (.vmul d a b m) (shVVV d a b m) (vecBody m a b (vintRes lMul true d a b m)) s
def execVmin (d a b : Reg) (m : Vm) (s : State) : Out :=
  issue (.vmin d a b m) (shVVV d a b m) (vecBody m a b (vintRes lMin true d a b m)) s
def execVmax (d a b : Reg) (m : Vm) (s : State) : Out :=
  issue (.vmax d a b m) (shVVV d a b m) (vecBody m a b (vintRes lMax true d a b m)) s
def execVand (d a b : Reg) (m : Vm) (s : State) : Out :=
  issue (.vand d a b m) (shVVV d a b m) (vecBody m a b (vintRes (fun _ x y => x &&& y) false d a b m)) s
def execVor (d a b : Reg) (m : Vm) (s : State) : Out :=
  issue (.vor d a b m) (shVVV d a b m) (vecBody m a b (vintRes (fun _ x y => x ||| y) false d a b m)) s
def execVxor (d a b : Reg) (m : Vm) (s : State) : Out :=
  issue (.vxor d a b m) (shVVV d a b m) (vecBody m a b (vintRes (fun _ x y => x ^^^ y) false d a b m)) s
def execVsll (d a b : Reg) (m : Vm) (s : State) : Out :=
  issue (.vsll d a b m) (shVVV d a b m) (vecBody m a b (vintRes lSll false d a b m)) s
def execVsrl (d a b : Reg) (m : Vm) (s : State) : Out :=
  issue (.vsrl d a b m) (shVVV d a b m) (vecBody m a b (vintRes lSrl false d a b m)) s
def execVsra (d a b : Reg) (m : Vm) (s : State) : Out :=
  issue (.vsra d a b m) (shVVV d a b m) (vecBody m a b (vintRes lSra false d a b m)) s
def execVminu (d a b : Reg) (m : Vm) (s : State) : Out :=
  issue (.vminu d a b m) (shVVV d a b m) (vecBody m a b (vintRes (fun _ x y => min x y) true d a b m)) s
def execVmaxu (d a b : Reg) (m : Vm) (s : State) : Out :=
  issue (.vmaxu d a b m) (shVVV d a b m) (vecBody m a b (vintRes (fun _ x y => max x y) true d a b m)) s

/-! ## Integer compares and reductions (R190, R191) -/

/-- A lane-wise compare into a predicate: an inactive lane's bits become 0. -/
def vcmpRes (f : Nat → Nat → Nat → Bool) (d a b : Reg) (m : Vm) (c : Core) : VRes :=
  let w := intWidth m.w
  let p := predOf c m
  let x := rdV c a.toNat
  let y := rdV c b.toNat
  { writes := [.p d.toNat (packPred w (fun i => activeLane p w i && f w (laneOf x w i) (laneOf y w i)))] }

def execVcmpEq (d a b : Reg) (m : Vm) (s : State) : Out :=
  issue (.vcmpEq d a b m) (shPVV d a b m) (vecBody m a b (vcmpRes (fun _ x y => decide (x = y)) d a b m)) s
def execVcmpNe (d a b : Reg) (m : Vm) (s : State) : Out :=
  issue (.vcmpNe d a b m) (shPVV d a b m) (vecBody m a b (vcmpRes (fun _ x y => decide (x ≠ y)) d a b m)) s
def execVcmpLt (d a b : Reg) (m : Vm) (s : State) : Out :=
  issue (.vcmpLt d a b m) (shPVV d a b m) (vecBody m a b (vcmpRes (fun w x y => decide (sgn w x < sgn w y)) d a b m)) s
def execVcmpGe (d a b : Reg) (m : Vm) (s : State) : Out :=
  issue (.vcmpGe d a b m) (shPVV d a b m) (vecBody m a b (vcmpRes (fun w x y => decide (sgn w y ≤ sgn w x)) d a b m)) s
def execVcmpLtu (d a b : Reg) (m : Vm) (s : State) : Out :=
  issue (.vcmpLtu d a b m) (shPVV d a b m) (vecBody m a b (vcmpRes (fun _ x y => decide (x < y)) d a b m)) s
def execVcmpGeu (d a b : Reg) (m : Vm) (s : State) : Out :=
  issue (.vcmpGeu d a b m) (shPVV d a b m) (vecBody m a b (vcmpRes (fun _ x y => decide (y ≤ x)) d a b m)) s

/-- The active lanes of a vector, as codes. -/
def activeLanes (w : Nat) (p : Word) (v : VReg) : List Nat :=
  ((List.range (256 / w)).filter (activeLane p w)).map (laneOf v w)

/-- A reduction of the active lanes as signed numbers into sD. -/
def vredRes (f : Nat → List Int → Int) (d a : Reg) (m : Vm) (c : Core) : VRes :=
  let w := intWidth m.w
  let p := predOf c m
  { writes := [sres c d (BitVec.ofInt 32 (f w ((activeLanes w p (rdV c a.toNat)).map (sgn w))))]
    counts := intCount m.w (activeCount p w - 1) }

def redSum (_w : Nat) (l : List Int) : Int := l.foldl (· + ·) 0
def redMax (w : Nat) (l : List Int) : Int := l.foldl max (-(2 ^ (w - 1) : Int))

def execVredsum (d a : Reg) (m : Vm) (s : State) : Out :=
  issue (.vredsum d a m) (shSV d a m) (vecBody m a 0#5 (vredRes redSum d a m)) s
def execVredmax (d a : Reg) (m : Vm) (s : State) : Out :=
  issue (.vredmax d a m) (shSV d a m) (vecBody m a 0#5 (vredRes redMax d a m)) s

/-! ## Floating-point arithmetic (R192 to R196) -/

/-- A lane-wise floating-point instruction: op takes FCTL and the codes of x, y and the old destination lane. -/
def vfpRes (op : FFmt → Word → Nat → Nat → Nat → Nat × FFlags) (per : Nat) (d a b : Reg) (m : Vm) (c : Core) : VRes :=
  let w := fpWidth m.w
  let F := ffmt (fpFmt m.w)
  let p := predOf c m
  let x := rdV c a.toNat
  let y := rdV c b.toNat
  let z := rdV c d.toNat
  let r := fun i => op F c.cr.fctl (laneOf x w i) (laneOf y w i) (laneOf z w i)
  { writes := [.v d.toNat (mapLanes w p z (fun i => (r i).1))], flags := laneFlags w p (fun i => (r i).2), w := m.w.toNat
    counts := [(counterOf 1 (fpFmt m.w), per * activeCount p w)] }

/-- Round an exact result with its flags to the lane format under FCTL (R192). -/
def deliver (F : FFmt) (fctl : Word) (r : FVal × FFlags) : Nat × FFlags :=
  let (c, g) := cvtFp F (rmOf fctl) false (foutOf fctl) r.1
  (c, r.2 ||| g)

/-- An operand read through FIN. -/
def inVal (F : FFmt) (fctl : Word) (code : Nat) : FVal := valOf F (finCode F (finOf fctl) code)

def opFadd (F : FFmt) (k : Word) (x y _z : Nat) : Nat × FFlags := deliver F k (addVal (rmOf k) (inVal F k x) (inVal F k y))
def opFsub (F : FFmt) (k : Word) (x y _z : Nat) : Nat × FFlags :=
  deliver F k (addVal (rmOf k) (inVal F k x) (inVal F k y).negate)
/-- vfmul: an inexact product sets NX (R137, R192), in the zero row of R211 too (log 53). -/
def opFmul (F : FFmt) (k : Word) (x y _z : Nat) : Nat × FFlags := deliver F k (mulVal (inVal F k x) (inVal F k y))
def opFma (F : FFmt) (k : Word) (x y z : Nat) : Nat × FFlags :=
  deliver F k (fmaVal (rmOf k) (inVal F k x) (inVal F k y) (inVal F k z))
def opFnma (F : FFmt) (k : Word) (x y z : Nat) : Nat × FFlags :=
  deliver F k (fmaVal (rmOf k) (inVal F k x).negate (inVal F k y) (inVal F k z))

/-- Minimum and maximum on operands read through FIN (R193). -/
def opMinMax (f : FFmt → Bool → Nat → Nat → Nat × FFlags) (big : Bool) (F : FFmt) (k : Word) (x y _z : Nat) : Nat × FFlags :=
  f F big (finCode F (finOf k) x) (finCode F (finOf k) y)

def execVfadd (d a b : Reg) (m : Vm) (s : State) : Out :=
  issue (.vfadd d a b m) (shVVV d a b m) (vecBody m a b (vfpRes opFadd 1 d a b m)) s
def execVfsub (d a b : Reg) (m : Vm) (s : State) : Out :=
  issue (.vfsub d a b m) (shVVV d a b m) (vecBody m a b (vfpRes opFsub 1 d a b m)) s
def execVfmul (d a b : Reg) (m : Vm) (s : State) : Out :=
  issue (.vfmul d a b m) (shVVV d a b m) (vecBody m a b (vfpRes opFmul 1 d a b m)) s
def execVfma (d a b : Reg) (m : Vm) (s : State) : Out :=
  issue (.vfma d a b m) (shVVV d a b m) (vecBody m a b (vfpRes opFma 2 d a b m)) s
def execVfnma (d a b : Reg) (m : Vm) (s : State) : Out :=
  issue (.vfnma d a b m) (shVVV d a b m) (vecBody m a b (vfpRes opFnma 2 d a b m)) s
def execVfmin (d a b : Reg) (m : Vm) (s : State) : Out :=
  issue (.vfmin d a b m) (shVVV d a b m) (vecBody m a b (vfpRes (opMinMax fminmax false) 1 d a b m)) s
def execVfmax (d a b : Reg) (m : Vm) (s : State) : Out :=
  issue (.vfmax d a b m) (shVVV d a b m) (vecBody m a b (vfpRes (opMinMax fminmax true) 1 d a b m)) s
def execVfminp (d a b : Reg) (m : Vm) (s : State) : Out :=
  issue (.vfminp d a b m) (shVVV d a b m) (vecBody m a b (vfpRes (opMinMax fminmaxp false) 1 d a b m)) s
def execVfmaxp (d a b : Reg) (m : Vm) (s : State) : Out :=
  issue (.vfmaxp d a b m) (shVVV d a b m) (vecBody m a b (vfpRes (opMinMax fminmaxp true) 1 d a b m)) s

/-- A lane-wise instruction that copies or classifies codes and sets no flag. -/
def vfcopyRes (f : FFmt → Nat → Nat) (d a : Reg) (m : Vm) (c : Core) : VRes :=
  let w := fpWidth m.w
  let F := ffmt (fpFmt m.w)
  let x := rdV c a.toNat
  { writes := [.v d.toNat (mapLanes w (predOf c m) (rdV c d.toNat) (fun i => f F (laneOf x w i)))] }

/-- The one-hot class of a code (R196). -/
def classOf (F : FFmt) (code : Nat) : Nat :=
  let neg := signOf F code
  match valOf F code with
  | .nan sig => if sig then 256 else 512
  | .inf _ => if neg then 1 else 128
  | .fin _ m _ =>
    if m = 0 then if neg then 8 else 16
    else if isSubnormal F code then if neg then 4 else 32
    else if neg then 2 else 64

def execVfabs (d a : Reg) (m : Vm) (s : State) : Out :=
  issue (.vfabs d a m) (shVV d a m) (vecBody m a 0#5 (vfcopyRes (fun F x => magOf F x) d a m)) s
def execVfneg (d a : Reg) (m : Vm) (s : State) : Out :=
  issue (.vfneg d a m) (shVV d a m) (vecBody m a 0#5 (vfcopyRes (fun F x => withSign F (!signOf F x) (magOf F x)) d a m)) s
def execVfclass (d a : Reg) (m : Vm) (s : State) : Out :=
  issue (.vfclass d a m) (shVV d a m) (vecBody m a 0#5 (vfcopyRes classOf d a m)) s

/-- A floating-point compare (R195): t and the operands that set NV. -/
def vfcmpRes (t : FVal → FVal → Bool) (anyNan : Bool) (d a b : Reg) (m : Vm) (c : Core) : VRes :=
  let w := fpWidth m.w
  let F := ffmt (fpFmt m.w)
  let p := predOf c m
  let x := fun i => inVal F c.cr.fctl (laneOf (rdV c a.toNat) w i)
  let y := fun i => inVal F c.cr.fctl (laneOf (rdV c b.toNat) w i)
  { writes := [.p d.toNat (packPred w (fun i => activeLane p w i && t (x i) (y i)))]
    flags := laneFlags w p (fun i =>
      flagIf (if anyNan then (x i).isNan || (y i).isNan else (x i).isSnan || (y i).isSnan) fNV)
    w := m.w.toNat }

def execVfcmpEq (d a b : Reg) (m : Vm) (s : State) : Out :=
  issue (.vfcmpEq d a b m) (shPVV d a b m) (vecBody m a b (vfcmpRes eqVal false d a b m)) s
def execVfcmpLt (d a b : Reg) (m : Vm) (s : State) : Out :=
  issue (.vfcmpLt d a b m) (shPVV d a b m) (vecBody m a b (vfcmpRes ltVal true d a b m)) s
def execVfcmpLe (d a b : Reg) (m : Vm) (s : State) : Out :=
  issue (.vfcmpLe d a b m) (shPVV d a b m) (vecBody m a b (vfcmpRes (fun x y => ltVal x y || eqVal x y) true d a b m)) s
def execVfcmpUn (d a b : Reg) (m : Vm) (s : State) : Out :=
  issue (.vfcmpUn d a b m) (shPVV d a b m) (vecBody m a b (vfcmpRes (fun x y => x.isNan || y.isNan) false d a b m)) s

/-! ## Floating-point reductions (R150, R197) -/

/-- A lane widened exactly to FP32; an FP32 lane is taken bit for bit. -/
def widenLane (fmt code : Nat) : Nat × FFlags := if fmt = fmtFP32 then (code, 0#5) else rneFp32 (valOf (ffmt fmt) code)

/-- A tree reduction; gap stands for an inactive lane. The report of FPX has W and LANE 0. -/
def vfredRes (f : Nat → Nat → Nat × FFlags) (gap : Nat) (d a : Reg) (m : Vm) (c : Core) : VRes :=
  let fmt := fpFmt m.w
  let w := fpWidth m.w
  let p := predOf c m
  let lanes := (List.range (256 / w)).map (fun i =>
    if activeLane p w i then widenLane fmt (laneOf (rdV c a.toNat) w i) else (gap, 0#5))
  let (r, g) := tree f 4 (lanes.map (·.1))
  let r := if activeCount p w = 0 then gap else r
  { writes := [sres c d (word r)]
    flags := [(0, lanes.foldl (fun acc e => acc ||| e.2) g)]
    counts := [(counterOf 1 fmt, activeCount p w - 1)] }

def execVfredsum (d a : Reg) (m : Vm) (s : State) : Out :=
  issue (.vfredsum d a m) (shSV d a m) (vecBody m a 0#5 (vfredRes addFp32 0x80000000 d a m)) s
def execVfredmax (d a : Reg) (m : Vm) (s : State) : Out :=
  issue (.vfredmax d a m) (shSV d a m) (vecBody m a 0#5 (vfredRes (fminmax (ffmt fmtFP32) true) 0x7FC00000 d a m)) s
def execVfredmin (d a : Reg) (m : Vm) (s : State) : Out :=
  issue (.vfredmin d a m) (shSV d a m) (vecBody m a 0#5 (vfredRes (fminmax (ffmt fmtFP32) false) 0x7FC00000 d a m)) s

/-! ## Long operations (R198, R199) -/

/-- A VL instruction on all lanes: op takes FCTL and the codes of a and b. -/
def vlRes (op : FFmt → Word → Nat → Nat → Nat × FFlags) (d a b : Reg) (w : BitVec 2) (c : Core) : VRes :=
  let n := fpWidth w
  let F := ffmt (fpFmt w)
  let x := rdV c a.toNat
  let y := rdV c b.toNat
  let rs := (List.range (256 / n)).map (fun i => op F c.cr.fctl (laneOf x n i) (laneOf y n i))
  { writes := [.v d.toNat (packLanes n (rs.map (·.1)))], flags := rs.zipIdx.map (fun e => (e.2, e.1.2)), w := w.toNat
    counts := [(counterOf 2 (fpFmt w), 256 / n)] }

/-- The body of a VL instruction. -/
def vlBody (l : BitVec 4) (f : Core → VRes) (s : State) : Body := vecDone .long l (f (me s)) s

def opDiv (F : FFmt) (k : Word) (x y : Nat) : Nat × FFlags := deliver F k (divVal (inVal F k x) (inVal F k y))
def opSqrt (F : FFmt) (k : Word) (x _y : Nat) : Nat × FFlags := deliver F k (sqrtVal (inVal F k x))

/-- An approximation on a lane: FIN in the lane's format, the FP32 procedure, and for 16-bit lanes one more rounding (R198). -/
def opApprox (t : Approx) (fmt : Nat) (F : FFmt) (k : Word) (x _y : Nat) : Nat × FFlags :=
  let (r, f) := approx t (inVal F k x)
  if fmt = fmtFP32 then (r, f)
  else
    let (r', g) := cvtFp F .rne false false (valOf (ffmt fmtFP32) r)
    (r', f ||| g)

def execVfdiv (d a b : Reg) (w : BitVec 2) (l : BitVec 4) (s : State) : Out :=
  issue (.vfdiv d a b w l) { names := [nV d, nV a, nV b] } (vlBody l (vlRes opDiv d a b w)) s
def execVfsqrt (d a : Reg) (w : BitVec 2) (l : BitVec 4) (s : State) : Out :=
  issue (.vfsqrt d a w l) { names := [nV d, nV a] } (vlBody l (vlRes opSqrt d a a w)) s
def execVfrcpa (d a : Reg) (w : BitVec 2) (l : BitVec 4) (s : State) : Out :=
  issue (.vfrcpa d a w l) { names := [nV d, nV a] } (vlBody l (vlRes (opApprox .rcp (fpFmt w)) d a a w)) s
def execVfrsqa (d a : Reg) (w : BitVec 2) (l : BitVec 4) (s : State) : Out :=
  issue (.vfrsqa d a w l) { names := [nV d, nV a] } (vlBody l (vlRes (opApprox .rsq (fpFmt w)) d a a w)) s
def execVexp2a (d a : Reg) (w : BitVec 2) (l : BitVec 4) (s : State) : Out :=
  issue (.vexp2a d a w l) { names := [nV d, nV a] } (vlBody l (vlRes (opApprox .exp2 (fpFmt w)) d a a w)) s
def execVlog2a (d a : Reg) (w : BitVec 2) (l : BitVec 4) (s : State) : Out :=
  issue (.vlog2a d a w l) { names := [nV d, nV a] } (vlBody l (vlRes (opApprox .log2 (fpFmt w)) d a a w)) s

/-- vgauss (R199). -/
def vgaussRes (d a b : Reg) (c : Core) : VRes :=
  let x := rdV c a.toNat
  let stream := (rdS c b.toNat).extractLsb' 0 16
  let memb := c.cr.memb.extractLsb' 0 16
  { writes := [.v d.toNat (packLanes 32 ((List.range 8).map (fun i =>
      gauss c.cr.seedlo c.cr.seedhi memb stream (word (laneOf x 32 i)))))]
    counts := [(counterOf 2 fmtFP32, 8)] }

def execVgauss (d a b : Reg) (l : BitVec 4) (s : State) : Out :=
  issue (.vgauss d a b l) { names := [nV d, nV a, nS b] } (vlBody l (vgaussRes d a b)) s

end Sys2Proof.Machine
end

