-- ==== Sys2Proof/Machine/Sync.lean ====
section
/-! DEFINITION. Synchronisation (13, R285 to R313): bank atomics, ticketed atomics, barriers and phases, events, counted waits,
mutexes, announced operations, fences, and the closing of windows (R62). -/

namespace Sys2Proof.Machine

/-! ## Elements named by packed coordinates -/

/-- The coordinates that a register packs (R286). -/
def packedCoords (E : Env) (e : Entry) (a : Reg) : List Nat :=
  let x := rdS E.c a.toNat
  coordsOf e (loHalf x) (hiHalf x) E.c.cr.coord2.toNat E.c.cr.coord3.toNat

/-- The 32-bit formats (R286). -/
def fmts32 : List Nat := [fmtFP32, fmtINT32, fmtPair]

/-- The form of bank atomics, announced operations, mutexes and wait.cnt (R290): a plain entry of SPACE 0 or 1. -/
def plainForm (fmts : List Nat) : Form :=
  { flags := fun e => if e.plain && decide (e.space < 2) then none else some 0x09, reach := fun _ => none, fmts := some fmts }

/-- RESOURCE for the element that a packed register names. -/
def packedBytes (h a : Reg) (s : State) (n : Nat) : Option TrapReq :=
  match taskEnv s n with
  | some (t, x, u) =>
    let E : Env := { n := n, t := t, x := x, u := u, c := coreAt s n }
    let e := handleEntry E h.toNat
    undeclaredByte E e [packedCoords E e a]
  | none => none

/-- The located element of an instruction whose coordinates a register packs. -/
structure Spot where
  e    : Entry
  cs   : List Nat
  home : Home
  core : Nat
  a    : Nat

/-- The element, or LAYOUT. -/
def spotOf (E : Env) (f : Form) (h a : Reg) : TrapReq ⊕ Spot :=
  let e := handleEntry E h.toNat
  let cs := packedCoords E e a
  match layoutCheck E f e [cs] with
  | some r => .inl r
  | none =>
    let home := homeOf E.x E.n e
    .inr { e := e, cs := cs, home := home, a := bitAddr e cs
           core := (match home with
             | .slice k => k
             | _ => E.n) }

/-- The granule keys of the element, and its first granule. -/
def Spot.grans (p : Spot) : List Nat := granulesOf p.e p.core [p.a]
def Spot.gran (p : Spot) : Nat := granKey p.core (physOff p.e.bankp (firstByte p.a))

/-- Go on with a located element, or trap. -/
def withSpot (E : Env) (f : Form) (h a : Reg) (go : Spot → Body) : Body :=
  match spotOf E f h a with
  | .inl r => .trap r
  | .inr p => go p

/-! ## Bank atomics (R285 to R289) -/

/-- The new value from the old value m, the operand x and the second operand y. -/
def nvAdd (m x _ : Word) : Word := m + x
def nvAnd (m x _ : Word) : Word := m &&& x
def nvOr (m x _ : Word) : Word := m ||| x
def nvXor (m x _ : Word) : Word := m ^^^ x
def nvMin (m x _ : Word) : Word := if m.sle x then m else x
def nvMax (m x _ : Word) : Word := if x.sle m then m else x
def nvSwap (_ x _ : Word) : Word := x
def nvCas (m x y : Word) : Word := if m = x then y else m
def nvIncb (m x _ : Word) : Word := if m.ult x then m + 1#32 else m
def nvIncw (m x _ : Word) : Word := if x = 0#32 then m + 1#32 else if m.toNat + 1 < x.toNat then m + 1#32 else 0#32
def nvDecnz (m _ _ : Word) : Word := if m = 0#32 then 0#32 else m - 1#32
def nvAddlim (m x y : Word) : Word := if m.toNat + x.toNat ≤ y.toNat then m + x else m

/-- A bank atomic (R287, R288). post: Q = 1, no result, the form that a DET context allows at its own slice. NONDET 0xE is reported before
0xD (log 14). -/
def amoBody (f : Word → Word → Word → Word) (fmts : List Nat) (post : Bool) (d a h : Reg) (l : BitVec 4) (s : State) : Body :=
  withEnv s (fun E =>
    withSpot E (plainForm fmts) h a (fun p =>
      let g := firstGuard
        [Guard.ofTrap (if E.x.det && (!post || remoteHome E.n p.home) then some (nondetTrap p.e.num 0xE (homeCore E p.home))
           else none),
         homeGuard E p.home,
         Guard.ofTrap (markGuard s E p.e p.home [p.a]),
         Guard.ofTrap (lockGuard s E p.e p.home [p.a] true),
         Guard.ofTrap (if E.x.det then conflictGuard s E p.e p.home [p.a] true else none),
         Guard.ofTrap (poisonGuard s E p.e p.home [p.a])]
      let m := word (readAt s p.core p.e.bankp p.a 32)
      let v := f m (rdS E.c d.toNat) (rdS E.c (d.toNat + 1))
      let s1 := noteHome s E.n p.home
      let s1 := if E.x.det then stampAccess s1 E p.e p.home [p.a] true else s1
      let s1 := writeAt s1 p.core p.e.bankp p.a 32 v.toNat
      guarded s g (longRes s1 l (if post then [] else [sres E.c d m]))))

/-- The shape of a bank atomic, and of one with the register pair. -/
def amoShape (d a h : Reg) : Shape := { names := [nH h, nS d, nS a], bytes := packedBytes h a }
def amoPair (d a h : Reg) : Shape := { names := [nH h, nS d, ⟨.s, d.toNat + 1⟩, nS a], bytes := packedBytes h a }

def execAmoAdd (d a h : Reg) (q : BitVec 1) (l : BitVec 4) (s : State) : Out :=
  issue (.amoAdd d a h q l) (amoShape d a h) (amoBody nvAdd [fmtINT32] (decide (q = 1#1)) d a h l) s
def execAmoAnd (d a h : Reg) (q : BitVec 1) (l : BitVec 4) (s : State) : Out :=
  issue (.amoAnd d a h q l) (amoShape d a h) (amoBody nvAnd fmts32 (decide (q = 1#1)) d a h l) s
def execAmoOr (d a h : Reg) (q : BitVec 1) (l : BitVec 4) (s : State) : Out :=
  issue (.amoOr d a h q l) (amoShape d a h) (amoBody nvOr fmts32 (decide (q = 1#1)) d a h l) s
def execAmoXor (d a h : Reg) (q : BitVec 1) (l : BitVec 4) (s : State) : Out :=
  issue (.amoXor d a h q l) (amoShape d a h) (amoBody nvXor fmts32 (decide (q = 1#1)) d a h l) s
def execAmoMin (d a h : Reg) (q : BitVec 1) (l : BitVec 4) (s : State) : Out :=
  issue (.amoMin d a h q l) (amoShape d a h) (amoBody nvMin [fmtINT32] (decide (q = 1#1)) d a h l) s
def execAmoMax (d a h : Reg) (q : BitVec 1) (l : BitVec 4) (s : State) : Out :=
  issue (.amoMax d a h q l) (amoShape d a h) (amoBody nvMax [fmtINT32] (decide (q = 1#1)) d a h l) s
def execAmoSwap (d a h : Reg) (q : BitVec 1) (l : BitVec 4) (s : State) : Out :=
  issue (.amoSwap d a h q l) (amoShape d a h) (amoBody nvSwap fmts32 (decide (q = 1#1)) d a h l) s
def execAmoCas (d a h : Reg) (l : BitVec 4) (s : State) : Out :=
  issue (.amoCas d a h l) (amoPair d a h) (amoBody nvCas fmts32 false d a h l) s
def execAmoIncb (d a h : Reg) (l : BitVec 4) (s : State) : Out :=
  issue (.amoIncb d a h l) (amoShape d a h) (amoBody nvIncb [fmtINT32] false d a h l) s
def execAmoIncw (d a h : Reg) (l : BitVec 4) (s : State) : Out :=
  issue (.amoIncw d a h l) (amoShape d a h) (amoBody nvIncw [fmtINT32] false d a h l) s
def execAmoDecnz (d a h : Reg) (l : BitVec 4) (s : State) : Out :=
  issue (.amoDecnz d a h l) (amoShape d a h) (amoBody nvDecnz [fmtINT32] false d a h l) s
def execAmoAddlim (d a h : Reg) (l : BitVec 4) (s : State) : Out :=
  issue (.amoAddlim d a h l) (amoPair d a h) (amoBody nvAddlim [fmtINT32] false d a h l) s

/-! ## Ticketed atomics (R291 to R299) -/

/-- The value that an update leaves (R296). m and x are codes; x is the whole register. -/
def ticketVal (op : TOp) (fmt m : Nat) (x : Word) : Nat :=
  let F := ffmt fmtFP32
  let e8 := fun (big : Bool) =>
    let y := x.toNat % 256
    if m = 255 then y else if y = 255 then m else if big then max m y else min m y
  match op with
  | .fadd => (addFp32 m x.toNat).1
  | .fmax => if fmt = fmtE8M0 then e8 true else (fminmax F true m x.toNat).1
  | .fmin => if fmt = fmtE8M0 then e8 false else (fminmax F false m x.toNat).1
  | .or => (m ||| x.toNat) % 2 ^ fmtWidth fmt
  | .skip => m

/-- Apply an update to its element. -/
def applyTicket (s : State) (a : Arrival) : State :=
  let w := fmtWidth a.fmt
  writeAt s a.home a.bankp a.bitAdr w (ticketVal a.op a.fmt (readAt s a.home a.bankp a.bitAdr w) a.x)

/-- The key of an arrival's granule. -/
def Arrival.key (a : Arrival) : Nat := 2 ^ 17 * a.home + a.gran

/-- An update of ticket (q, i) is held for a granule. -/
def heldAt (s : State) (home gran q i : Nat) : Option Arrival :=
  (coreAt s home).rob.find? (fun a => decide (a.gran = gran ∧ a.q = q ∧ a.i = i))

/-- Some update is held for a granule. -/
def anyHeld (s : State) (home gran : Nat) : Bool := (coreAt s home).rob.any (fun a => decide (a.gran = gran))

/-- The tracker of a granule. -/
def trackerOf (s : State) (home gran : Nat) : Option Tracker := (coreAt s home).trackers.find? (fun t => decide (t.gran = gran))

/-- Put, or free, the tracker of a granule. -/
def putTracker (s : State) (home gran : Nat) (t : Option Tracker) : State :=
  updCore s home (fun c =>
    let l := c.trackers.filter (fun u => decide (u.gran ≠ gran))
    { c with trackers := match t with
        | some t => l ++ [t]
        | none => l })

/-- advance of R293 for a granule whose index e has just been applied; n is the round size. -/
def advance : Nat → State → Nat → Nat → Nat → Nat → State
  | 0, s, _, _, _, _ => s
  | k + 1, s, home, gran, n, e =>
    let key := 2 ^ 17 * home + gran
    let e1 := e + 1
    let full := decide (e1 = n)
    let e2 := if full then 0 else e1
    let s := if full then { s with gmeta := s.gmeta.write key (s.gmeta.read key + 1#8) } else s
    let s := match trackerOf s home gran with
      | some t => putTracker s home gran (some { t with next := e2 })
      | none => s
    match heldAt s home gran (roundOf s key) e2 with
    | some a =>
      let s := updCore s home (fun c => { c with rob := c.rob.filter (fun b => decide (b ≠ a)) })
      advance k (applyTicket s a) home gran n e2
    | none => if e2 = 0 ∧ anyHeld s home gran = false then putTracker s home gran none else s

/-- What the bank unit answers (R293). -/
inductive BankAnswer where
  | dup
  | refused
  | dropped
  | taken (s : State)

/-- The entries of one bank unit: 16 trackers, 48 shared entries (R292). -/
def bankTrackers (s : State) (home gran : Nat) : Nat := ((coreAt s home).trackers.filter (fun t => decide (t.gran % 8 = gran % 8))).length
def bankHeld (s : State) (home gran : Nat) : Nat := ((coreAt s home).rob.filter (fun a => decide (a.gran % 8 = gran % 8))).length

/-- An arrival at the bank unit of its granule (TICKET_ARRIVAL). -/
def arrive (s : State) (a : Arrival) : BankAnswer :=
  let g := roundOf s a.key
  let tr := trackerOf s a.home a.gran
  let e := match tr with
    | some t => t.next
    | none => 0
  let n := match tr with
    | some t => t.n
    | none => a.n
  let d := (a.q + 256 - g) % 256
  if 128 ≤ d ∨ (d = 0 ∧ a.i < e) ∨ (heldAt s a.home a.gran a.q a.i).isSome = true then
    if a.replay then .dropped else .dup
  else if d = 0 ∧ a.i = e then
    let alone := decide (n = 1) && !anyHeld s a.home a.gran
    if tr.isSome || alone || decide (bankTrackers s a.home a.gran < 16) then
      let s := if tr.isSome || alone then s else putTracker s a.home a.gran (some { gran := a.gran, n := a.n, next := 0 })
      .taken (advance ((coreAt s a.home).rob.length + 1) (applyTicket s a) a.home a.gran n e)
    else .refused
  else if bankHeld s a.home a.gran < 48 then
    .taken (updCore s a.home (fun c => { c with rob := c.rob ++ [a] }))
  else .refused

/-- The phase that a ticketed update carries: its core's, where it is checked (R295). An access of a core that is no member of GROUP, to
another core's slice in a non-DET context, carries none (log 57). -/
def ticketPhase (E : Env) (p : Spot) : Option (BitVec 16) :=
  match carried E p.e (remoteHome E.n p.home) with
  | some (k, true) => some k
  | _ => none

/-- The form of a ticketed update (R296). -/
def ticketForm (fmts : Option (List Nat)) : Form :=
  { flags := fun e => if e.tkt then none else some 0x02
    reach := fun h => match h with
      | .slice _ => none
      | _ => some 0x04
    fmts := fmts }

/-- tamo. Cause 0x0A comes after the other LAYOUT causes, and poison does not stop the update (log 57). -/
def tamoBody (op : TOp) (fmts : Option (List Nat)) (d a h : Reg) (l : BitVec 4) (s : State) : Body :=
  withEnv s (fun E =>
    withSpot E (ticketForm fmts) h a (fun p =>
      let tick := rdS E.c (d.toNat + 1)
      let q := field tick 23 16
      let i := field tick 15 0
      let arr : Arrival :=
        { home := p.core, gran := p.gran % 2 ^ 17, bitAdr := p.a, bankp := p.e.bankp, fmt := p.e.fmt, q := q, i := i, n := p.e.round
          op := op, x := rdS E.c d.toNat, replay := E.t.rerun }
      if p.e.round ≤ i then .trap (layoutTrap 0x0A p.e 0)
      else
        let g := firstGuard
          [Guard.ofTrap (if E.x.det && !bothMembers E p.e p.home then some (nondetTrap p.e.num 0xE (homeCore E p.home)) else none),
           homeGuard E p.home,
           Guard.ofTrap (lockGuard s E p.e p.home [p.a] true),
           Guard.ofTrap (match ticketPhase E p with
             | some k => (conflictByte s p.e p.core [p.a] true (stampOf k)).map (conflictTrap p.e.num 1)
             | none => none)]
        let counts := if E.c.priv then [] else [(counterOf 4 p.e.fmt, 1)]
        let accept := fun (s1 : State) =>
          let s1 := noteHome s1 E.n p.home
          let s1 := match ticketPhase E p with
            | some k => stampLines s1 (linesOf p.e p.core [p.a]) true (stampOf k)
            | none => s1
          Body.ok (pend s1 s1.cur .long l [] 0#5 counts)
        guarded s g (match arrive s arr with
          | .dup => .trap (ticketTrap .ticketDup p.e p.gran q i)
          | .refused => if gapDue E.c .ticket then .trap (gapTrap s p.e p.gran) else .wait .ticket s
          | .dropped => accept s
          | .taken s1 => accept s1)))

/-- The shape of a tamo: the pair sD, sD+1. -/
def tamoShape (d a h : Reg) : Shape := amoPair d a h

def execTamoFadd (d a h : Reg) (l : BitVec 4) (s : State) : Out :=
  issue (.tamoFadd d a h l) (tamoShape d a h) (tamoBody .fadd (some [fmtFP32]) d a h l) s
def execTamoFmax (d a h : Reg) (l : BitVec 4) (s : State) : Out :=
  issue (.tamoFmax d a h l) (tamoShape d a h) (tamoBody .fmax (some [fmtFP32, fmtE8M0]) d a h l) s
def execTamoFmin (d a h : Reg) (l : BitVec 4) (s : State) : Out :=
  issue (.tamoFmin d a h l) (tamoShape d a h) (tamoBody .fmin (some [fmtFP32, fmtE8M0]) d a h l) s
def execTamoOr (d a h : Reg) (l : BitVec 4) (s : State) : Out :=
  issue (.tamoOr d a h l) (tamoShape d a h) (tamoBody .or (some [fmtINT32, fmtE8M0]) d a h l) s
def execTamoSkip (d a h : Reg) (l : BitVec 4) (s : State) : Out :=
  issue (.tamoSkip d a h l) (tamoShape d a h) (tamoBody .skip none d a h l) s

/-- TICKET_ARRIVAL of a retransmitted update (R299): input.arr bears the replay mark. -/
def replayArrival (s : State) (a : Arrival) : State :=
  if a.replay then
    match arrive s a with
    | .taken s' => s'
    | _ => s
  else s

/-- The granules of a home slice that hold a tfence of round q back: with a tracker or a held entry, in the entry's region, by
key. -/
def fenceHolds (s : State) (e : Entry) (core q : Nat) : List Nat :=
  let k := coreAt s core
  ((k.trackers.map (·.gran) ++ k.rob.map (·.gran)).eraseDups.filter (fun g =>
    (firstElem e (logGran e.bankp g)).isSome &&
      !decide (1 ≤ (roundOf s (2 ^ 17 * core + g) + 256 - q) % 256 ∧ (roundOf s (2 ^ 17 * core + g) + 256 - q) % 256 ≤ 128))).map
    (fun g => 2 ^ 17 * core + g)

/-- The lowest-addressed granule of a list of keys. -/
def lowestGran (e : Entry) : List Nat → Option Nat
  | [] => none
  | g :: l =>
    match lowestGran e l with
    | some h => if logGran e.bankp (h % 2 ^ 17) < logGran e.bankp (g % 2 ^ 17) then some h else some g
    | none => some g

/-- tfence (R297). Earlier tamos of the task have been accepted. -/
def tfenceBody (h a : Reg) (s : State) : Body :=
  withEnv s (fun E =>
    let e := handleEntry E h.toNat
    match entryCause E (ticketForm none) e with
    | some k => .trap (layoutTrap k e 0)
    | none =>
      let core := match homeOf E.x E.n e with
        | .slice k => k
        | _ => E.n
      match lowestGran e (fenceHolds s e core ((rdS E.c a.toNat).toNat % 256)) with
      | none => longRes s 0#4 []
      | some g => if gapDue E.c .tfence then .trap (gapTrap s e g) else .wait .tfence s)

def execTfence (a h : Reg) (s : State) : Out := issue (.tfence a h) { names := [nH h, nS a] } (tfenceBody h a) s

/-! ## Barriers (R300 to R304) -/

/-- RESOURCE of a group register (R304): not valid, or a tag at or above NROUTE. -/
def groupBytes (g : BitVec 2) (s : State) (n : Nat) : Option TrapReq :=
  match taskEnv s n with
  | none => none
  | some (_, x, u) =>
    let v := (coreAt s n).cr.grp.getD g.toNat 0#32
    if v.getLsbD 31 = false then some { cause := .resource, info := resourceInfo 4 g.toNat }
    else
      let tag := gTag (groupWord x (v.toNat % 256) 1)
      if u.kernel.nroute ≤ tag then some { cause := .resource, info := resourceInfo 3 tag } else none

/-- Go on with the group that a group register names. -/
def withGroup (s : State) (g : BitVec 2) (f : Env → Nat → Body) : Body :=
  withEnv s (fun E =>
    let v := E.c.cr.grp.getD g.toNat 0#32
    if v.getLsbD 31 then f E (v.toNat % 256) else .trap { cause := .resource, info := resourceInfo 4 g.toNat })

/-- The run of a group. -/
def grunOf (x : Ctx) (g : Nat) : GroupRun := tgetD x.gruns g { g := 0#16, arrived := [] }

/-- An arrive is counted (R300): cp rises and the core is among the arrived. -/
def countArrive (s : State) (E : Env) (g : Nat) : State :=
  updCtx s E.t.ctx (fun x =>
    let r := grunOf x g
    { x with cps := tset x.cps (8192 * g + E.prel) (phaseOf x g E.prel + 1#16)
             gruns := tset x.gruns g { r with arrived := insertNat E.prel r.arrived } })

/-- The stores of earlier mx.acst are done before an arrive (R172, R251). -/
def finishStores (s : State) (n : Nat) : State :=
  updCore s n (completeIf (fun p => (p.lock.map (·.dst)).getD false))

/-- An arrive on group g (R220, R300, R301): it waits for BAR-selected commands and for its phase, a fault of such a command is
delivered, or it is counted and go continues. -/
def arriveOn (s : State) (E : Env) (g : Nat) (go : State → Body) : Body :=
  if E.c.cmds.any (fun e => decide (e.2.group = some g)) then .wait .barrier s
  else
    match nextFault E.c (fun f => decide (f.group = some g)) with
    | some f => .fault (dropFault s E.n f) (asyncTrap f)
    | none => if phaseOf E.x g E.prel = (grunOf E.x g).g then go (countArrive (finishStores s E.n) E g) else .wait .barrier s

/-- bar.arr. -/
def barArrBody (d : Reg) (g : BitVec 2) (l : BitVec 4) (s : State) : Body :=
  withGroup s g (fun E k =>
    arriveOn s E k (fun s' => longRes s' l [sres E.c d (BitVec.zeroExtend 32 (phaseOf E.x k E.prel + 1#16))]))

/-- bar.wait. -/
def barWaitBody (a : Reg) (g : BitVec 2) (s : State) : Body :=
  withGroup s g (fun E k =>
    if reached (releaseOf E.x k) ((rdS E.c a.toNat).extractLsb' 0 16) then longRes s 0#4 [] else .wait .barrier s)

/-- The wait of bar.sync for the target cp. -/
def syncWait (s : State) (E : Env) (d : Reg) (k : Nat) (x : Ctx) : Body :=
  let here := (E.c.priv, E.c.pc)
  if reached (releaseOf x k) (phaseOf x k E.prel) then
    longRes (updCore s E.n (fun c => { c with arrived := c.arrived.filter (fun q => decide (q ≠ here)) })) 0#4
      [sres E.c d (BitVec.zeroExtend 32 (phaseOf x k E.prel))]
  else .wait .barrier s

/-- bar.sync: an arrive that has been counted is not made again (R313). -/
def barSyncBody (d : Reg) (g : BitVec 2) (s : State) : Body :=
  withGroup s g (fun E k =>
    if E.c.arrived.contains (E.c.priv, E.c.pc) then syncWait s E d k E.x
    else
      arriveOn s E k (fun s' =>
        let s' := updCore s' E.n (fun c => { c with arrived := c.arrived ++ [(E.c.priv, E.c.pc)] })
        match ctxAt s' E.t.ctx with
        | some x => syncWait s' E d k x
        | none => .wait .barrier s'))

/-- bar.phase. -/
def barPhaseBody (d : Reg) (g : BitVec 2) (l : BitVec 4) (s : State) : Body :=
  withGroup s g (fun E k => longRes s l [sres E.c d (BitVec.zeroExtend 32 (phaseOf E.x k E.prel))])

def execBarArr (d : Reg) (g : BitVec 2) (l : BitVec 4) (s : State) : Out :=
  issue (.barArr d g l) { names := [nS d, nGrp g.toNat], bytes := groupBytes g } (barArrBody d g l) s
def execBarWait (a : Reg) (g : BitVec 2) (s : State) : Out :=
  issue (.barWait a g) { names := [nS a, nGrp g.toNat], wp := true, bytes := groupBytes g } (barWaitBody a g) s
def execBarSync (d : Reg) (g : BitVec 2) (s : State) : Out :=
  issue (.barSync d g) { names := [nS d, nGrp g.toNat], wp := true, bytes := groupBytes g } (barSyncBody d g) s
def execBarPhase (d : Reg) (g : BitVec 2) (l : BitVec 4) (s : State) : Out :=
  issue (.barPhase d g l) { names := [nS d, nGrp g.toNat], bytes := groupBytes g } (barPhaseBody d g l) s

/-- An entry is a region bound to group g that is checked (R171, R173, R295): in a DET context all but full-empty and versioned ones, to
which plain access is NONDET; in a non-DET context those with CHK. -/
def boundRegion (E : Env) (g : Nat) (e : Entry) : Bool :=
  decide (e.space < 2 ∧ e.group = g) && (if E.x.det then !e.fe && !e.ver else e.chk) && entryOk E e

/-- The granules of slice offsets, from the first to the last of an entry's hull. -/
def hullGrans (e : Entry) : List Nat :=
  let last := lastByte (bitAddr e ((List.range 4).map (fun d => e.ext d - 1))) e.width
  (List.range (min last (2 ^ 21 - 1) / 16 + 1 - e.base / 16)).map (fun i => e.base / 16 + i)

/-- Sweep one region: every line that holds a bit of an element takes the stamp in both halves. -/
def sweepRegion (s : State) (e : Entry) (core : Nat) (st : BitVec 16) : State :=
  ((hullGrans e).filter (fun g => (firstElem e g).isSome)).foldl (fun s g =>
    { s with conf := sset 0#32 s.conf (lineKey core (physOff e.bankp (16 * g))) (st ++ st) }) s

/-- Sweep the regions bound to a group as one core sees them. -/
def sweepCore (s : State) (E : Env) (g : Nat) (st : BitVec 16) : State :=
  (List.range 256).foldl (fun s k =>
    let e := viewOf E.c E.u k
    if boundRegion E g e then
      match homeOf E.x E.n e with
      | .slice h => sweepRegion s e h st
      | _ => s
    else s) s

/-- Sweep the regions bound to group g of context c as every core of its running records sees them, overlays included (R173, R183). -/
def sweep (s : State) (c : Nat) (x : Ctx) (g : Nat) (st : BitVec 16) : State :=
  (x.runs.filter (fun r => r.2.running)).foldl (fun s r =>
    (runCores x r.2).foldl (fun s n =>
      let ws := fun k => r.2.copy.getD k 0#32
      sweepCore s { n := n, t := mkTask c r.1 ws 0 0, x := x, u := r.2, c := coreAt s n } g st) s) s

/-- BARRIER_RELEASE of group g of context c: when every member has arrived for phase G, G rises, after a sweep where one is
due (R300). -/
def releaseBarrier (s : State) (c g : Nat) : State :=
  match ctxAt s c with
  | none => s
  | some x =>
    match tget x.gruns g with
    | none => s
    | some r =>
      if decide (r.arrived.length = gCount (groupWord x g 1)) && moving x then
        let g1 := r.g + 1#16
        let s := if g1 = 0x8000#16 ∨ g1 = 0#16 then sweep s c x g g1 else s
        updCtx s c (fun x => { x with gruns := tset x.gruns g { g := g1, arrived := [] } })
      else s

/-- The BARRIER_RELEASE step: context input.who, group input.sub. -/
def execBarrierRelease (s : State) : Out := .next (releaseBarrier s s.input.who s.input.sub)

/-! ## Events (R305 to R307) -/

/-- Event counter e of a cluster. -/
def eventOf (k : Cluster) (e : Nat) : BitVec 16 := tgetD k.events e 0#16

/-- A signal is sent to logical cluster j. -/
def sendSignal (s : State) (g : Signal) : State := updCluster s g.target (fun k => { k with flying := k.flying ++ [g] })

/-- ev.sig: a barrier arrive, accepted once every earlier plain access is performed (R270). -/
def evSigBody (a b : Reg) (l : BitVec 4) (s : State) : Body :=
  withEnv s (fun E =>
    let v := rdS E.c a.toNat
    let j := field v 9 0
    let ws := fun k => E.u.copy.getD k 0#32
    if j < clBase ws ∨ clBase ws + clCount ws ≤ j then .trap { cause := .priv, info := word (0x06000000 + j) }
    else
      let t := rdS E.c b.toNat
      let k := clusterAt s (clusterOf E.n)
      let g : Signal := { target := E.x.pbase + j, event := field v 19 16, source := field t 3 0, thresh := field t 31 16 }
      if b = 0#5 ∨ reached (eventOf k g.source) (BitVec.ofNat 16 g.thresh) = true then longRes (sendSignal (finishStores s E.n) g) l []
      else if k.parked.length < 8 then
        longRes (updCluster (finishStores s E.n) (clusterOf E.n) (fun k => { k with parked := k.parked ++ [g] })) l []
      else .wait .event s)

def execEvSig (a b : Reg) (l : BitVec 4) (s : State) : Out := issue (.evSig a b l) { names := [nS a, nS b] } (evSigBody a b l) s

/-- ev.wait. -/
def evWaitBody (a : Reg) (s : State) : Body :=
  withEnv s (fun E =>
    let v := rdS E.c a.toNat
    let k := clusterAt s (clusterOf E.n)
    if reached (eventOf k (field v 3 0)) (BitVec.ofNat 16 (field v 31 16)) then longRes s 0#4 [] else .wait .event s)

def execEvWait (a : Reg) (s : State) : Out := issue (.evWait a) { names := [nS a], wp := true } (evWaitBody a) s

/-- EVENT_SIGNAL_LANDING: signal number i on its way to cluster j lands, and parked signals whose counter meets its threshold
are sent (R305, R306). -/
def landSignal (s : State) (j i : Nat) : State :=
  let k := clusterAt s j
  let halted := match k.holder.bind (fun h => ctxAt s h.1) with
    | some x => !moving x
    | none => false
  match k.flying[i]? with
  | none => s
  | some g =>
    if halted then s
    else
    let n := eventOf k g.event + 1#16
    let due := fun (p : Signal) => decide (p.source = g.event) && reached n (BitVec.ofNat 16 p.thresh)
    let s := updCluster s j (fun k =>
      { k with flying := k.flying.eraseIdx i, events := tset k.events g.event n, parked := k.parked.filter (fun p => !due p) })
    (k.parked.filter due).foldl sendSignal s

/-- The EVENT_SIGNAL_LANDING step: cluster input.who, signal input.sub. -/
def execEventSignalLanding (s : State) : Out := .next (landSignal s s.input.who s.input.sub)

/-! ## Counted waits (R309) -/

/-- wait.cnt. In a non-DET context its home bank tests the element as it stands and after every update. -/
def waitCntBody (a b h : Reg) (s : State) : Body :=
  withEnv s (fun E =>
    withSpot E (plainForm [fmtINT32]) h a (fun p =>
      let n := rdS E.c b.toNat
      match E.c.cwait with
      | some q =>
        match q.res, q.ready with
        | some (.pass _), true => .counts (pend (updCore s E.n (fun c => { c with cwait := none })) E.n .long 0#4 [] 0#5 []) 0
        | some .unmarked, true => .trap (nondetTrap p.e.num 0xE (homeCore E p.home))
        | _, _ => .wait .count s
      | none =>
        let pass := longRes { s with counting := tdel s.counting E.n } 0#4 []
        let test : CountTest := { home := p.core, bitAdr := p.a, bankp := p.e.bankp, thresh := n, met := false }
        let g := firstGuard
          [homeGuard E p.home,
           Guard.ofTrap (lockGuard s E p.e p.home [p.a] false),
           Guard.ofTrap (poisonGuard s E p.e p.home [p.a])]
        if ((tget s.counting E.n).map (·.met)).getD false then pass
        else guarded s g (
          if E.x.det then
            let q : CountWait :=
              { win := windowOf E.x E.u E.c, home := p.core, bitAdr := p.a, bankp := p.e.bankp, thresh := n, seen := false
                res := none, ready := false }
            .wait .count (updCore s E.n (fun c => { c with cwait := some q }))
          else if countMet (word (readAt s p.core p.e.bankp p.a 32)) n then pass
          else .wait .count { s with counting := tset s.counting E.n test })))

def execWaitCnt (a b n : Reg) (s : State) : Out :=
  issue (.waitCnt a b n) { names := [nH n, nS a, nS b], wp := true, bytes := packedBytes n a } (waitCntBody a b n) s

/-- The evaluation of a counted wait at the close of window w (R309). -/
def countClose (s : State) (w : Nat) (q : CountWait) : CountWait :=
  if q.res.isSome = true ∨ w < q.win then q
  else
    let marked := (elemBytes q.bitAdr 32).all (fun b => !(tgetD s.marks (granKey q.home (physOff q.bankp b)) []).isEmpty)
    if q.seen = false ∧ marked = false then { q with seen := true, res := some .unmarked }
    else if countMet (word (readAt s q.home q.bankp q.bitAdr 32)) q.thresh then { q with seen := true, res := some (.pass w) }
    else { q with seen := true }

/-- All counted waits of a run at the close of window w: a pass sets the core's count to the end of the window. -/
def countAll (s : State) (x : Ctx) (u : Run) (w : Nat) : State :=
  (runCores x u).foldl (fun s n =>
    match (coreAt s n).cwait with
    | none => s
    | some q =>
      let q' := countClose s w q
      updCore s n (fun c =>
        { c with cwait := some q'
                 count := if q.res.isNone = true ∧ q'.res = some (.pass w) then (w + 1) * c.cr.quant.toNat else c.count })) s

/-! ## Mutexes (R310) -/

/-- The waiters of the bank of a word. Keys are physical bit offsets. -/
def mutexKey (p : Spot) : Nat := 8 * physOff p.e.bankp (firstByte p.a) + p.a % 8
def bankWaiters (c : Core) (key : Nat) : Nat := (c.mutexq.filter (fun q => decide (q.1 / 128 % 8 = key / 128 % 8))).length

/-- The byte and bit of the word's HELD bit. -/
def heldBit (p : Spot) : Nat × Nat := (sliceKey p.core (physOff p.e.bankp ((p.a + 31) / 8)), (p.a + 31) % 8)

/-- What both forms check before the word is looked at. -/
def mutexGuard (s : State) (E : Env) (p : Spot) : Guard :=
  firstGuard
    [Guard.ofTrap (if E.x.det then some (nondetTrap p.e.num 0xF E.prel) else none),
     homeGuard E p.home,
     Guard.ofTrap (lockGuard s E p.e p.home [p.a] true),
     Guard.ofTrap (poisonGuard s E p.e p.home [p.a])]

/-- mtx.lock: PRIV, SELF-DEADLOCK, the wait in arrival order, or the grant. -/
def mtxLockBody (a h : Reg) (s : State) : Body :=
  withEnv s (fun E =>
    withSpot E (plainForm [fmtINT32]) h a (fun p =>
      let w := word (readAt s p.core p.e.bankp p.a 32)
      let key := mutexKey p
      let home := coreAt s p.core
      let mine := home.mutexq.any (fun q => decide (q = (key, E.n)))
      let first := (home.mutexq.find? (fun q => decide (q.1 = key))).map Prod.snd
      guarded s (mutexGuard s E p) (
        if w ≠ 0#32 ∧ field w 29 24 ≠ E.t.ctx then .trap { cause := .priv, info := w }
        else if w.getLsbD 31 = true ∧ field w 15 0 = E.prel then
          .trap { cause := .selfDeadlock, info := word (p.e.num % 256 * 2 ^ 24 + E.prel % 2 ^ 16) }
        else if w.getLsbD 31 = false ∧ (first = none ∨ first = some E.n) then
          let s1 := writeAt s p.core p.e.bankp p.a 32 (2 ^ 31 + E.t.ctx % 64 * 2 ^ 24 + E.prel)
          let s1 := updCore s1 p.core (fun c => { c with mutexq := c.mutexq.filter (fun q => decide (q ≠ (key, E.n))) })
          longRes (updCore s1 E.n (fun c => { c with mutexes := c.mutexes ++ [heldBit p] })) 0#4 []
        else if mine = true ∨ 8 ≤ bankWaiters home key then .wait .mutex s
        else .wait .mutex (updCore s p.core (fun c => { c with mutexq := c.mutexq ++ [(key, E.n)] })))))

/-- mtx.unlock: a barrier arrive, accepted once every earlier plain access is performed (R270, R310). -/
def mtxUnlockBody (a h : Reg) (l : BitVec 4) (s : State) : Body :=
  withEnv s (fun E =>
    withSpot E (plainForm [fmtINT32]) h a (fun p =>
      let w := word (readAt s p.core p.e.bankp p.a 32)
      guarded s (mutexGuard s E p) (
        if w ≠ 0#32 ∧ field w 29 24 ≠ E.t.ctx then .trap { cause := .priv, info := w }
        else if w.getLsbD 31 = false ∨ field w 15 0 ≠ E.prel then .trap { cause := .priv, info := w }
        else
          let s1 := writeAt (finishStores s E.n) p.core p.e.bankp p.a 32 (w &&& 0x7FFFFFFF#32).toNat
          longRes (updCore s1 E.n (fun c => { c with mutexes := c.mutexes.filter (fun q => decide (q ≠ heldBit p)) })) l [])))

def execMtxLock (a n : Reg) (s : State) : Out :=
  issue (.mtxLock a n) { names := [nH n, nS a], bytes := packedBytes n a } (mtxLockBody a n) s
def execMtxUnlock (a n : Reg) (l : BitVec 4) (s : State) : Out :=
  issue (.mtxUnlock a n l) { names := [nH n, nS a], bytes := packedBytes n a } (mtxUnlockBody a n l) s

/-! ## Announced operations (R282, R283, R311) -/

/-- The announced mark of a record on granules (R283). -/
def setMark (s : State) (E : Env) (grans : List Nat) : State :=
  grans.foldl (fun s g =>
    let l := tgetD s.marks g []
    let s := { s with gmeta := s.gmeta.write g (s.gmeta.read g ||| 0x80#8) }
    if l.any (fun m => decide (m.1 = E.t.ctx ∧ m.2.1 = E.t.ridx)) then s
    else { s with marks := tset s.marks g (l ++ [(E.t.ctx, E.t.ridx, E.n)]) }) s

/-- The window of the instruction at which core n waits for its home, or which it issues now (R62). At privileged level it is that of the
core's count as well (log 57). -/
def issueWindow (E : Env) : Nat :=
  match E.c.wait with
  | some w => if w.kind = .bank then w.mark else windowOf E.x E.u E.c
  | none => windowOf E.x E.u E.c

/-- An announced operation: accepted at its home bank, its result pending until a window close. It belongs to the window open at its
issue (R62). -/
def annBody (op : AnnOp) (fmts : List Nat) (d a h : Reg) (_l : BitVec 4) (s : State) : Body :=
  withEnv s (fun E =>
    withSpot E (plainForm fmts) h a (fun p =>
      let g := firstGuard
        [homeGuard E p.home,
         Guard.ofTrap (lockGuard s E p.e p.home [p.a] true),
         Guard.ofTrap (poisonGuard s E p.e p.home [p.a])]
      let ann : Ann :=
        { core := E.prel, win := issueWindow E, home := p.core, bitAdr := p.a, bankp := p.e.bankp, op := op
          x := rdS E.c d.toNat, dest := d.toNat, bank := banked E.c d.toNat }
      let s1 := setMark (noteHome s E.n p.home) E p.grans
      let s1 := updRun s1 E.t.ctx E.t.ridx (fun u => { u with anns := u.anns ++ [ann] })
      guarded s g (.ok (pend s1 E.n .window 0#4 [sres E.c d 0#32] 0#5 []))))

/-- The shape of an announced operation. -/
def annShape (d a h : Reg) : Shape := amoShape d a h

def execAnnAmoAdd (d a h : Reg) (l : BitVec 4) (s : State) : Out :=
  issue (.annAmoAdd d a h l) (annShape d a h) (annBody .add [fmtINT32] d a h l) s
def execAnnAmoAnd (d a h : Reg) (l : BitVec 4) (s : State) : Out :=
  issue (.annAmoAnd d a h l) (annShape d a h) (annBody .and fmts32 d a h l) s
def execAnnAmoOr (d a h : Reg) (l : BitVec 4) (s : State) : Out :=
  issue (.annAmoOr d a h l) (annShape d a h) (annBody .or fmts32 d a h l) s
def execAnnAmoXor (d a h : Reg) (l : BitVec 4) (s : State) : Out :=
  issue (.annAmoXor d a h l) (annShape d a h) (annBody .xor fmts32 d a h l) s
def execAnnAmoMin (d a h : Reg) (l : BitVec 4) (s : State) : Out :=
  issue (.annAmoMin d a h l) (annShape d a h) (annBody .min [fmtINT32] d a h l) s
def execAnnAmoMax (d a h : Reg) (l : BitVec 4) (s : State) : Out :=
  issue (.annAmoMax d a h l) (annShape d a h) (annBody .max [fmtINT32] d a h l) s
def execAnnAmoSwap (d a h : Reg) (l : BitVec 4) (s : State) : Out :=
  issue (.annAmoSwap d a h l) (annShape d a h) (annBody .swap fmts32 d a h l) s
def execAnnLd (d a h : Reg) (l : BitVec 4) (s : State) : Out :=
  issue (.annLd d a h l) (annShape d a h) (annBody .ld fmts32 d a h l) s

/-- The new value of an announced operation. -/
def annVal (op : AnnOp) (m x : Word) : Word :=
  match op with
  | .add => nvAdd m x 0#32
  | .and => nvAnd m x 0#32
  | .or => nvOr m x 0#32
  | .xor => nvXor m x 0#32
  | .min => nvMin m x 0#32
  | .max => nvMax m x 0#32
  | .swap => x
  | .ld => m

/-- Insert an operation before the first of a later window, or of the same window and no lesser core (R282). -/
def insertAnn (q : Ann) : List Ann → List Ann
  | [] => [q]
  | p :: l => if q.win < p.win ∨ (q.win = p.win ∧ q.core ≤ p.core) then q :: p :: l else p :: insertAnn q l

/-- The operations in their total order within a window. -/
def sortAnns (l : List Ann) : List Ann := l.foldr insertAnn []

/-- Apply operations in order; each result goes to its core. -/
def applyAnns : List Ann → State → State × List Delivery
  | [], s => (s, [])
  | q :: l, s =>
    let m := word (readAt s q.home q.bankp q.bitAdr 32)
    let s := if q.op = .ld then s else writeAt s q.home q.bankp q.bitAdr 32 (annVal q.op m q.x).toNat
    let (s, ds) := applyAnns l s
    (s, { core := q.core, dest := q.dest, bank := q.bank, val := m } :: ds)

/-- WINDOW_CLOSE of record r of context c (R62, R64, R282, R309). -/
def closeWindow (s : State) (c r : Nat) : State :=
  match ctxAt s c with
  | none => s
  | some x =>
    match runAt x r with
    | none => s
    | some u =>
      if windowReady s x u then
        let w := u.window
        let left := u.anns.filter (fun a => !annDue s x u a)
        let (s, ds) := applyAnns (sortAnns (u.anns.filter (annDue s x u))) s
        let s := updRun s c r (fun u => { grantWindow { u with anns := left, deliver := u.deliver ++ ds } with window := w + 1 })
        if x.det then countAll s x u w else s
      else s

/-- The WINDOW_CLOSE step: context input.who, record input.sub. -/
def execWindowClose (s : State) : Out := .next (closeWindow s s.input.who s.input.sub)

/-! ## Fences (R279, R312) -/

/-- fence.t, fence.c and fence.g wait for every long-latency result; accesses are performed, and tamos accepted, when they
issue (log 5). -/
def fenceBody (s : State) : Body := longRes s 0#4 []

def execFenceT (s : State) : Out := issue .fenceT { sys := true } fenceBody s
def execFenceC (s : State) : Out := issue .fenceC { sys := true } fenceBody s
def execFenceG (s : State) : Out := issue .fenceG { sys := true } fenceBody s

/-! ## Watchdogs of the windows (R63, R128) -/

/-- The lowest participant that has not passed the open window. -/
def lowestBehind (s : State) (x : Ctx) (u : Run) : Nat :=
  match (runCores x u).find? (fun n => !passed s u.window n) with
  | some n => prel x n
  | none => 0

/-- Core n still stalls under R63: the window that its next instruction waits for has not closed, or a result of a window close that
the instruction, or the entry of its trap (R98), needs has not come. -/
def stillStalls (x : Ctx) (u : Run) (c : Core) (w : Waiting) : Bool :=
  decide (w.kind = .window ∨ w.kind = .windowResult) &&
    (if c.trap.isSome then holdsOpen x c
     else windowHolds x u c || w.need.any (fun r => c.inflight.any (fun p => !p.done && decide (p.kind = .window) && p.regs.contains r)))

/-- QUANTUM_DEADLOCK of core n: at user level, while it may go on, it has stalled for QWD cycles (R63, R346, R354). -/
def quantumDeadlock (s : State) (n : Nat) : State :=
  match taskEnv s n, (coreAt s n).wait with
  | some (_, x, u), some w =>
    let c := coreAt s n
    if mayGoOn s n && x.det && !c.priv && stillStalls x u c w && decide (c.cr.qwd.toNat ≤ w.cycles) then
      takeTrap s n { cause := .quantumDeadlock, info := word (u.window % 2 ^ 16 * 2 ^ 16 + lowestBehind s x u % 2 ^ 16) }
    else s
  | _, _ => s

/-- The QUANTUM_DEADLOCK step: core input.who. -/
def execQuantumDeadlock (s : State) : Out := .next (quantumDeadlock s s.input.who)

end Sys2Proof.Machine
end

