-- ==== Sys2Proof/Machine/Promise.lean ====
section
/-! DEFINITION. Promises, the strainer and the optimiser engine (19, R366 to R388), and fence.e (R279). -/

namespace Sys2Proof.Machine

/-! ## Regions of a promise or card -/

/-- A captured entry. -/
def capEntry (l : List (Nat × List Word)) (k : Nat) : Entry := { num := (l.getD k (0, [])).1, words := (l.getD k (0, [])).2 }

/-- The extents of an entry, and the number of its elements. -/
def Entry.exts (e : Entry) : List Nat := (List.range 4).map e.ext
def Entry.count (e : Entry) : Nat := e.exts.foldl (· * ·) 1

/-- A region: its entry and the core of its slice. -/
structure Area where
  e    : Entry
  core : Nat

/-- The region of captured entry k, captured by core n. -/
def areaOf (x : Ctx) (n : Nat) (l : List (Nat × List Word)) (k : Nat) : Area :=
  let e := capEntry l k
  { e := e
    core := match homeOf x n e with
      | .slice h => h
      | _ => n }

/-- The bit address of the element with canonical index i (R136, R370). -/
def Area.addr (r : Area) (i : Nat) : Nat := bitAddr r.e (coordsL r.e (boxAt r.e.exts i))

/-- Its code, and the state with another code. -/
def Area.code (r : Area) (s : State) (i : Nat) : Nat := readAt s r.core r.e.bankp (r.addr i) 32
def Area.put (r : Area) (s : State) (i v : Nat) : State := writeAt s r.core r.e.bankp (r.addr i) 32 v

/-- Its granules, as keys. -/
def Area.grans (r : Area) (i : Nat) : List Nat := granulesOf r.e r.core [r.addr i]

/-- It lies in a poisoned granule; its granules are marked poisoned (R379). -/
def Area.bad (r : Area) (s : State) (i : Nat) : Bool := (r.grans i).any (fun g => s.poison.contains g)
def Area.spoil (r : Area) (s : State) (i : Nat) : State := { s with poison := (r.grans i).foldl (fun l g => insertNat g l) s.poison }

/-- It lies in a poisoned granule that the card or phase has not marked itself (l): its other elements are written as usual (R379). -/
def Area.badBut (r : Area) (l : List Nat) (s : State) (i : Nat) : Bool := (r.grans i).any (fun g => s.poison.contains g && !l.contains g)

/-- Its granules that are not poisoned yet. -/
def Area.sound (r : Area) (s : State) (i : Nat) : List Nat := (r.grans i).filter (fun g => !s.poison.contains g)

/-- The granules that no element after i touches. -/
def Area.lastGrans (r : Area) (i : Nat) : List Nat :=
  (r.grans i).filter (fun g => (List.range (r.e.count - (i + 1))).all (fun j => !(r.grans (i + 1 + j)).contains g))

/-- An FP32 entry of the issuing core's cluster: a weight region (ver), or plain (R368, R370). -/
def regionOk (E : Env) (e : Entry) (ver : Bool) : Bool :=
  entryOk E e && decide (e.fmt = fmtFP32) && !e.fe && !e.tkt && decide (e.ver = ver) && decide (e.space < 2) &&
    (match homeOf E.x E.n e with
      | .slice k => decide (clusterOf k = clusterOf E.n)
      | _ => false) &&
    byteOk (.slice E.n) (bitAddr e (coordsL e (e.exts.map (· - 1)))) e.width

/-- The first entry of W, ĝ, h, P that disagrees (R370). -/
def disagrees (E : Env) (w g h p : Entry) : Option Entry :=
  if !regionOk E w true || decide (2 ^ 20 < w.count) then some w
  else if !regionOk E g false || decide (g.count ≠ w.count) then some g
  else if !regionOk E h false then some h
  else if !regionOk E p false || decide (p.rank ≠ 2 ∨ p.ext 0 ≠ h.count ∨ p.ext 1 ≠ w.count ∨ 2 ^ 24 < w.count * h.count) then some p
  else none

/-- The first region of an instruction whose entry is not well formed: LAYOUT with cause 0x01 at that use, before every other cause
(R46, R175, R382). -/
def malformed (E : Env) (l : List Entry) : Option TrapReq := (l.find? (fun e => !entryOk E e)).map (fun e => layoutTrap 0x01 e 0)

/-- The whole of a region as a range (R229). -/
def wholeSide (x : Ctx) (n : Nat) (e : Entry) (dst : Bool) : Side := sideOf x n e [0, 0, 0, 0] e.exts dst

/-! ## The tables of a cluster -/

/-- Entry j of a promise table, and region k of the strainer (R367, R368). -/
def promiseAt (o : OptUnit) (j : Nat) : Promise := tgetD o.promises j Promise.reset
def regionAt (o : OptUnit) (k : Nat) : Region := tgetD o.regions k { wver := 0, cur := 0, work := none }

/-- Apply f to entry j, or to region we, of cluster k of context c. -/
def updPromise (s : State) (c k j : Nat) (f : Promise → Promise) : State :=
  updOpt s c k (fun o => { o with promises := tset o.promises j (f (promiseAt o j)) })
def updRegion (s : State) (c k we : Nat) (f : Region → Region) : State :=
  updOpt s c k (fun o => { o with regions := tset o.regions we (f (regionAt o we)) })

/-- The unit of cluster k of context c. -/
def unitOf (s : State) (c k : Nat) : OptUnit :=
  match ctxAt s c with
  | some x => optAt x k
  | none => OptUnit.reset

/-- STATE as a number. -/
def PState.code : PState → Nat
  | .free => 0 | .open_ => 1 | .redeemed => 2 | .expired => 3 | .cancelled => 4

/-- Words 0 and 4 (R367). -/
def Promise.word0 (p : Promise) : Word :=
  let b := fun (f : Bool) (k : Nat) => if f then 2 ^ k else 0
  word (p.state.code * 2 ^ 29 + b p.closed 28 + b p.pend 27 + b p.revd 26 + p.gen % 2 ^ 10 * 2 ^ 16 + p.exp % 4 * 2 ^ 14 +
    p.late % 4 * 2 ^ 12 + p.deadline % 2 ^ 6 * 2 ^ 6 + b p.latea 5)
def Promise.word4 (p : Promise) : Word := word (p.ticket % 2 ^ 16 * 2 ^ 16 + p.te % 2 ^ 8 * 2 ^ 8 + p.vopen % 2 ^ 7)

/-- The handle of entry j (R366). -/
def handleOf (p : Promise) (j : Nat) : Word := word (p.gen % 2 ^ 10 * 2 ^ 6 + j % 2 ^ 6)

/-- The entry that a live handle of core n names (R366). -/
def liveEntry (o : OptUnit) (n : Nat) (h : Word) : Option Nat :=
  let j := h.toNat % 64
  let p := promiseAt o j
  if j / 8 = slotOf n ∧ p.gen = h.toNat / 64 % 1024 ∧ p.state ≠ .free then some j else none

/-- Add counts to the record accumulator of the arming that a card came from, or to the context counters (R395). -/
def credit (s : State) (c : Nat) (who : Option CardRef) (l : List (Nat × Nat)) : State :=
  updCtx s c (fun x =>
    match who with
    | none => { x with counters := addCounts x.counters l }
    | some r =>
      match runAt x r.ridx with
      | some u =>
        if u.accNo = r.accNo then { x with runs := tset x.runs r.ridx { u with counters := addCounts u.counters l } }
        else { x with counters := addCounts x.counters l }
      | none => { x with counters := addCounts x.counters l })

/-! ## Completion words and faults of cards (R342, R376, R388) -/

/-- The task that issued a card still runs. -/
def sameTask (s : State) (c : Nat) (r : CardRef) : Bool :=
  match taskEnv s r.core with
  | some (t, _, u) => decide (t.ctx = c ∧ t.ridx = r.ridx ∧ u.accNo = r.accNo ∧ t.t = r.t)
  | none => false

/-- Apply f to what the strainer keeps of the task attempt that a card came from. -/
def updReplay (s : State) (c k : Nat) (r : CardRef) (f : Replay → Replay) : State :=
  updOpt s c k (fun o =>
    match tget o.replay r.core with
    | some p => if p.ridx = r.ridx ∧ p.accNo = r.accNo ∧ p.t = r.t then { o with replay := tset o.replay r.core (f p) } else o
    | none => o)

/-- A fault of a card for its core: ENGINE or PROMISE-EXPIRED. -/
def faultCard (s : State) (c k : Nat) (r : CardRef) (cause : Cause) (info : Word) : State :=
  let f : AFault := { cause := cause, info := info, xid := r.xid, pc := r.pc }
  let s := updReplay s c k r (fun p => { p with faults := p.faults ++ [f] })
  if sameTask s c r then updCore s r.core (fun q => { q with afaults := q.afaults ++ [f] }) else s

/-- A card ends with a completion word; its range locks are released. -/
def finishCard (s : State) (c k : Nat) (r : CardRef) (w : Word) : State :=
  let s := releaseLocks s c r.core (r.xid.toNat / 4)
  let s := updReplay s c k r (fun p => { p with words := tset p.words (r.xid.toNat / 4) w })
  if sameTask s c r then
    updCore s r.core (fun q => { q with dones := keepDones (max q.seq (r.xid.toNat / 4)) (tset q.dones r.xid.toNat w) })
  else s

/-- The completion word of a card that faults: CODE 0x2, with no counts (R222). -/
def cardFault : Word := 0x20000000#32

/-- The completion word of a card: FAULT, with its ENGINE fault, PARTIAL with NINV, or DONE. -/
def endCard (s : State) (c k : Nat) (r : CardRef) (fault : Bool) (ninv : Nat) : State :=
  if fault then faultCard (finishCard s c k r cardFault) c k r .engine r.xid
  else finishCard s c k r (if ninv = 0 then 0#32 else word (2 ^ 28 + min ninv 16383))

/-- Event 0x71 (R24, R379). A revert at retirement has no card: XID and PC are zero. -/
def poisonEvent (s : State) (c : Nat) (r : Option CardRef) (i : Nat) : State :=
  let xid := (r.map (·.xid)).getD 0#32
  let pc := (r.map (·.pc)).getD 0#32
  postCtx s c (mkEvent [0x71#32, word (c % 64), xid, pc, word i])

/-! ## Expiry (R372) -/

/-- A promise is past its deadline at a version. -/
def overdue (p : Promise) (wver : Nat) : Bool := decide (p.deadline < (wver + 128 - p.vopen % 128) % 128)

/-- Promise j expires; r is the card that made it expire, none at retirement. -/
def expireOne (s : State) (c k j : Nat) (r : Option CardRef) : State :=
  let p := promiseAt (unitOf s c k) j
  let s := updPromise s c k j (fun p => { p with state := .expired, revd := decide (p.exp = 1), expBy := r })
  let s := credit s c r [(57, 1)]
  match r with
  | some q => if p.exp = 2 then faultCard s c k q .promiseExpired (handleOf p j) else s
  | none => s

/-- Insert by distance of the ticket from CUR. -/
def insertBy (key : Nat → Nat) (j : Nat) : List Nat → List Nat
  | [] => [j]
  | i :: l => if key j ≤ key i then j :: i :: l else i :: insertBy key j l

/-- The OPEN promises of region we that are overdue, in ascending TICKET from CUR. -/
def overdueOf (o : OptUnit) (we : Nat) : List Nat :=
  let r := regionAt o we
  let js := (o.promises.filter (fun e => decide (e.2.state = .open_ ∧ e.2.we = we) && overdue e.2 r.wver)).map Prod.fst
  js.foldr (insertBy (fun j => ((promiseAt o j).ticket + 65536 - r.cur) % 65536)) []

/-! ## The cursor (R371) -/

/-- What the strainer does with a promise at the cursor. -/
def redeemPhases (p : Promise) : List Phase := if p.tonly then [.train] else [.correct, .train]
def cursorPhases (p : Promise) : List Phase :=
  match p.state with
  | .redeemed => redeemPhases p
  | .expired => (if p.revd then [.revert] else []) ++ (if p.lateDue then redeemPhases p else [])
  | _ => []

/-- The promise of a region whose TICKET is CUR. -/
def atCursor (o : OptUnit) (we : Nat) : Option (Nat × Promise) :=
  o.promises.find? (fun e => decide (e.2.state ≠ .free ∧ e.2.we = we ∧ e.2.ticket = (regionAt o we).cur) && !e.2.closed)

/-- The cursor passes promise j: CLOSED, its locks on ĝ and h released, CUR + 1. -/
def closeOne (s : State) (c k we j : Nat) : State :=
  updRegion (updPromise s c k j (fun p => { p with closed := true, locks := [] })) c k we
    (fun r => { r with cur := (r.cur + 1) % 65536 })

/-- An action that begins. -/
def newWork (j : Nat) (ph : List Phase) (late retire : Bool) : Work :=
  { j := j, todo := ph, next := 0, wrote := 0, rows := 0, ninv := 0, spoiled := [], late := late, retire := retire }

/-- The strainer's loop: it passes promises without an action, and begins the action of the next. -/
def strainLoop (retire : Bool) : Nat → State → Nat → Nat → Nat → State
  | 0, s, _, _, _ => s
  | f + 1, s, c, k, we =>
    let o := unitOf s c k
    if (regionAt o we).work.isSome then s
    else
      match atCursor o we with
      | none => s
      | some (j, p) =>
        if p.state = .open_ then s
        else
          match cursorPhases p with
          | [] => strainLoop retire f (closeOne s c k we j) c k we
          | ph =>
            updRegion s c k we (fun r => { r with work := some (newWork j ph false retire) })

/-- The loop over at most 64 promises. -/
def strain (s : State) (c k we : Nat) : State := strainLoop false 65 s c k we

/-! ## The strainer's actions (R373, R379) -/

/-- FP32 arithmetic of R373. -/
def negFp32 (a : Nat) : Nat := if a < 2 ^ 31 then a + 2 ^ 31 else a - 2 ^ 31
def subFp32 (a b : Nat) : Nat :=
  (rneFp32 (addVal .rne (valOf (ffmt fmtFP32) a) (valOf (ffmt fmtFP32) b).negate).1).1

/-- w after a correction, and after a revert. -/
def corrected (p : Promise) (w gh g : Nat) : Nat :=
  let d := if p.revd then g else subFp32 g gh
  subFp32 w (mulFp32 p.eta.toNat d).1
def reverted (p : Promise) (w gh : Nat) : Nat := (addFp32 w (mulFp32 p.eta.toNat gh).1).1

/-- P[i][c] after a training step. -/
def trained (p : Promise) (q gh g h : Nat) : Nat :=
  subFp32 q (mulFp32 p.alpha.toNat (mulFp32 (subFp32 gh g) h).1).1

/-- How an engine or the strainer gets on: all is written; it waits; a granule is past its version; it has written an element. -/
inductive Pace where
  | over
  | blocked
  | past
  | go (s : State)

/-- The next version of a region. -/
def nextVer (r : Region) : Nat := (r.wver + 1) % 128

/-- Element i of W may not be written yet: a granule is behind the next version, and the one before is not reclaimed (R170, R368). -/
def versionHeld (s : State) (x : Ctx) (we : Nat) (r : Region) (W : Area) (i : Nat) : Bool :=
  (W.grans i).any (isBehind s (nextVer r)) && !reclaimed x we r.wver

/-- An element of the action, written, or poisoned. -/
def putWork (s : State) (c k we : Nat) (w : Work) (who : Option CardRef) (bad : Bool) (out : Area) (i v : Nat) (row : Bool) : State :=
  let more := if bad then out.sound s i else []
  let s := if bad then out.spoil s i else out.put s i v
  let s := if bad = true ∧ w.ninv = 0 then poisonEvent s c who i else s
  updRegion s c k we (fun r =>
    { r with work := some { w with
        next := w.next + 1, wrote := if bad then w.wrote else w.wrote + 1, ninv := if bad then w.ninv + 1 else w.ninv
        rows := if row then w.rows + 1 else w.rows, spoiled := w.spoiled ++ more } })

/-- The card that an action's events name: the redemption's, or the one that made the promise expire. -/
def workCard (p : Promise) (ph : Phase) : Option CardRef :=
  match ph with
  | .revert => p.expBy
  | _ => p.redBy

/-- The next element of the action in progress on region we. -/
def workStep (s : State) (c k we : Nat) : Pace :=
  match ctxAt s c with
  | none => .blocked
  | some x =>
    let o := optAt x k
    let r := regionAt o we
    match r.work with
    | none => .blocked
    | some w =>
      let p := promiseAt o w.j
      let at_ := areaOf x p.opener p.ents
      let W := at_ 0
      let G := at_ 1
      let H := at_ 2
      let P := at_ 3
      let T := at_ 4
      let i := w.next
      if issuing x = false ∧ w.retire = false then .blocked
      else
        match w.todo with
        | [] => .over
        | .train :: _ =>
          let m := H.e.count
          if W.e.count * m ≤ i then .over
          else
            let bad := P.badBut w.spoiled s i || G.bad s (i / m) || T.bad s (i / m) || H.bad s (i % m)
            let v := trained p (P.code s i) (G.code s (i / m)) (T.code s (i / m)) (H.code s (i % m))
            -- a row counts when its first element is written
            let first := (List.range (i % m)).all (fun c => P.badBut w.spoiled s (i - i % m + c) || H.bad s c)
            .go (putWork s c k we w (workCard p .train) bad P i v (!bad && first))
        | ph :: _ =>
          if W.e.count ≤ i then .over
          else if i = 0 ∧ (List.range W.e.count).any (fun j => (W.grans j).any (isPast s (nextVer r))) = true then .past
          else if versionHeld s x we r W i = true ∧ w.retire = false then .blocked
          else
            let bad := W.badBut w.spoiled s i || G.bad s i || (decide (ph = .correct) && T.bad s i)
            let v := if ph = .correct then corrected p (W.code s i) (G.code s i) (T.code s i) else reverted p (W.code s i) (G.code s i)
            let s1 := putWork s c k we w (workCard p ph) bad W i v false
            .go (setVersion s1 (W.lastGrans i) (nextVer r))

/-- The counts of a phase (R394). -/
def phaseCounts (p : Promise) (w : Work) : Phase → List (Nat × Nat)
  | .correct => [(counterOf 1 fmtFP32, (if p.revd then 2 else 3) * w.wrote)]
  | .train => [(counterOf 1 fmtFP32, w.rows + 3 * w.wrote)]
  | .revert => [(counterOf 1 fmtFP32, 2 * w.wrote), (58, 1)]

/-- A card that runs is the one given. -/
def isRunning (o : OptUnit) (r : CardRef) : Bool :=
  match o.running with
  | some q => decide (q.ref.core = r.core ∧ q.ref.xid = r.xid)
  | none => false

/-- The action ends: the promise is passed, its redemption's card completes, and the opt.card that made it due takes its fault or its
poisoned elements (R368, R371, R374, R379). -/
def endWork (s : State) (c k we : Nat) (w : Work) (past : Bool) : State :=
  let p := promiseAt (unitOf s c k) w.j
  let s := updRegion s c k we (fun r => { r with work := none })
  let s := if w.late then s else closeOne s c k we w.j
  let s := if !past && (decide (p.state = .redeemed) || p.lateDue) then credit s c p.redBy [(56, 1)] else s
  let s := updOpt s c k (fun o => { o with running := o.running.map (fun q =>
    if q.kind = .card ∧ q.due.contains w.j = true then { q with fault := q.fault || past, ninv := q.ninv + w.ninv } else q) })
  let s := match p.card with
    | some q =>
      let s := updPromise s c k w.j (fun p => { p with pend := false, glock := [], card := none, lateDue := false })
      let s := updOpt s c k (fun o => if isRunning o q.ref then { o with running := none } else o)
      endCard s c k q.ref past w.ninv
    | none => s
  strainLoop w.retire 65 s c k we

/-- A phase is over: its version is published, its counts are added, and the next phase or the end follows. -/
def endPhase (s : State) (c k we : Nat) (w : Work) : State :=
  let p := promiseAt (unitOf s c k) w.j
  match w.todo with
  | [] => endWork s c k we w false
  | ph :: rest =>
    let s := credit s c (workCard p ph) (phaseCounts p w ph)
    let w' := { w with todo := rest, next := 0, wrote := 0, rows := 0, spoiled := [] }
    let s := updRegion s c k we (fun r => { r with wver := if ph = .train then r.wver else nextVer r, work := some w' })
    if rest = [] then endWork s c k we w' false else s

/-- Up to f further elements or phase ends of the action on promise j of region we. -/
def workRun : Nat → State → Nat → Nat → Nat → Nat → State
  | 0, s, _, _, _, _ => s
  | f + 1, s, c, k, we, j =>
    match (regionAt (unitOf s c k) we).work with
    | none => s
    | some w =>
      if w.j ≠ j then s
      else
        match workStep s c k we with
        | .go s' => workRun f s' c k we j
        | .over => workRun f (endPhase s c k we w) c k we j
        | .past => endWork s c k we w true
        | .blocked => s

/-- Up to n further elements of the action in progress on region we. -/
def workMove (s : State) (c k we n : Nat) : State :=
  match (regionAt (unitOf s c k) we).work with
  | none => s
  | some w => workRun n s c k we w.j

/-- The steps that an action has at most. -/
def workLen (o : OptUnit) (we : Nat) : Nat :=
  match (regionAt o we).work with
  | none => 0
  | some w =>
    let p := promiseAt o w.j
    let n := (capEntry p.ents 0).count
    2 * n + n * (capEntry p.ents 2).count + 4

/-- STRAINER_ACTION: the action on region we, as far as it can go. -/
def strainerAction (s : State) (c k we : Nat) : State := workMove s c k we (workLen (unitOf s c k) we)

/-- The STRAINER_ACTION step: context input.who, cluster input.sub, region input.off. -/
def execStrainerAction (s : State) : Out := .next (strainerAction s s.input.who s.input.sub s.input.off)

/-! ## Routines (R378) -/

/-- Fields of a routine instruction. -/
def rOp (w : BitVec 16) : Nat := (w.extractLsb' 12 4).toNat
def rD (w : BitVec 16) : Nat := (w.extractLsb' 9 3).toNat
def rA (w : BitVec 16) : Nat := (w.extractLsb' 6 3).toNat
def rB (w : BitVec 16) : Nat := (w.extractLsb' 3 3).toNat
def rC (w : BitVec 16) : Nat := (w.extractLsb' 0 3).toNat

/-- A reserved op, or a field that must be zero and is not. -/
def badCode (w : BitVec 16) : Bool :=
  match rOp w with
  | 3 | 4 => false
  | 0 | 1 | 2 | 5 | 8 | 9 => decide (rC w ≠ 0)
  | 6 | 7 | 10 | 11 | 12 => decide (rB w ≠ 0 ∨ rC w ≠ 0)
  | 13 => decide (w.toNat % 4096 ≠ 0)
  | _ => true

/-- The value that an instruction gives; none at END. -/
def codeVal (fctl : Word) (q : List Nat) (w : BitVec 16) : Option Nat :=
  let F := ffmt fmtFP32
  let a := q.getD (rA w) 0
  let b := q.getD (rB w) 0
  let c := q.getD (rC w) 0
  match rOp w with
  | 0 => some (opFadd F fctl a b 0).1
  | 1 => some (opFsub F fctl a b 0).1
  | 2 => some (opFmul F fctl a b 0).1
  | 3 => some (opFma F fctl a b c).1
  | 4 => some (opFnma F fctl a b c).1
  | 5 => some (opDiv F fctl a b).1
  | 6 => some (opSqrt F fctl a 0).1
  | 7 => some (opApprox .rsq fmtFP32 F fctl a 0).1
  | 8 => some (opMinMax fminmax false F fctl a b 0).1
  | 9 => some (opMinMax fminmax true F fctl a b 0).1
  | 10 => some (a % 2 ^ 31)
  | 11 => some (negFp32 a)
  | 12 => some a
  | _ => none

/-- The instructions that run: until END, or sixteen. -/
def executed (l : List (BitVec 16)) : List (BitVec 16) := (l.take 16).takeWhile (fun w => rOp w != 13)

/-- Run a routine on q0 to q7. -/
def runRoutine (fctl : Word) (l : List (BitVec 16)) (q : List Nat) : List Nat :=
  (executed l).foldl (fun q w =>
    match codeVal fctl q w with
    | some v => q.set (rD w) v
    | none => q) q

/-- The counts of a routine for n written elements (R394). -/
def routineCounts (l : List (BitVec 16)) (n : Nat) : List (Nat × Nat) :=
  (executed l).flatMap (fun w =>
    match rOp w with
    | 0 | 1 | 2 | 8 | 9 => [(counterOf 1 fmtFP32, n)]
    | 3 | 4 => [(counterOf 1 fmtFP32, 2 * n)]
    | 5 | 6 | 7 => [(counterOf 2 fmtFP32, n)]
    | _ => [])

/-! ## Cards (R376 to R379) -/

/-- The ranges of an opt.card. -/
def cardSides (x : Ctx) (q : Card) : List Side :=
  let side := fun k dst => wholeSide x q.ref.core (capEntry q.ents k) dst
  [side 0 true, side 1 false] ++ (if q.mmode = 0 then [] else [side 2 (decide (q.mmode = 2))]) ++
    (if q.vmode = 0 then [] else [side 3 (decide (q.vmode = 2))])

/-- The ranges of a redemption of promise p, which its opener issued: W as a destination, the others as sources (R376). -/
def redeemSides (x : Ctx) (p : Promise) : List Side :=
  let side := fun k dst => wholeSide x p.opener (capEntry p.ents k) dst
  [side 0 true, side 1 false, side 2 false, side 3 false, side 4 false]

/-- The ranges that a card registers at its start. -/
def startSides (x : Ctx) (k : Nat) (q : Card) : List Side :=
  if q.kind = .card then cardSides x q else redeemSides x (promiseAt (optAt x k) q.promise)

/-- The locks on ĝ and h of the open promises of a cluster (R370). -/
def sourceLocks (x : Ctx) (k : Nat) : List Lock := (optAt x k).promises.flatMap (fun e => e.2.locks)

/-- What stands besides a redemption's own promise: its locks on ĝ, h and g do not meet its own ranges. -/
def besides (s : State) (c k : Nat) (q : Card) : State :=
  if q.kind = .card then s else updPromise s c k q.promise (fun p => { p with locks := [], glock := [] })

/-- The region of a card's weights. -/
def cardRegion (o : OptUnit) (q : Card) : Nat := if q.kind = .card then (capEntry q.ents 0).num else (promiseAt o q.promise).we

/-- The next element of the opt.card that runs. -/
def cardStep (s : State) (c k : Nat) (q : Card) : Pace :=
  match ctxAt s c with
  | none => .blocked
  | some x =>
    let at_ := areaOf x q.ref.core q.ents
    let W := at_ 0
    let G := at_ 1
    let M := at_ 2
    let V := at_ 3
    let we := W.e.num
    let r := regionAt (optAt x k) we
    let i := q.next
    if issuing x = false then .blocked
    else if W.e.count ≤ i then .over
    else if (W.grans i).any (isPast s (nextVer r)) then .past
    else if versionHeld s x we r W i then .blocked
    else
      let bad := W.badBut q.spoiled s i || G.bad s i || (decide (q.mmode ≠ 0) && M.badBut q.spoiled s i) ||
        (decide (q.vmode ≠ 0) && V.badBut q.spoiled s i)
      let more := if bad then
          W.sound s i ++ (if q.mmode = 2 then M.sound s i else []) ++ (if q.vmode = 2 then V.sound s i else [])
        else []
      let m := if q.mmode = 0 then 0 else M.code s i
      let v := if q.vmode = 0 then 0 else V.code s i
      let out := runRoutine q.fctl q.routine ([W.code s i, G.code s i, m, v] ++ q.params.map (·.toNat))
      let each := fun (s : State) (f : Area → Nat → State → State) =>
        let s := f W (out.getD 0 0) s
        let s := if q.mmode = 2 then f M (out.getD 2 0) s else s
        if q.vmode = 2 then f V (out.getD 3 0) s else s
      let s1 := if bad then each s (fun a _ s => a.spoil s i) else each s (fun a v s => a.put s i v)
      let s1 := if bad = true ∧ q.ninv = 0 then poisonEvent s1 c (some q.ref) i else s1
      let s1 := setVersion s1 (W.lastGrans i) (nextVer r)
      let q1 := { q with next := i + 1, wrote := if bad then q.wrote else q.wrote + 1, ninv := if bad then q.ninv + 1 else q.ninv
                         spoiled := q.spoiled ++ more }
      .go (updOpt s1 c k (fun o => { o with running := some q1 }))

/-- An opt.card has written its last element, or met a fault: it publishes its version, adds its counts, and the promises of W are
evaluated (R368, R372, R395). -/
def settleCard (s : State) (c k : Nat) (q : Card) (past : Bool) : State :=
  let we := (capEntry q.ents 0).num
  let s := credit s c (some q.ref) (routineCounts q.routine q.wrote)
  let s := if past then s else updRegion s c k we (fun r => { r with wver := nextVer r })
  let due := overdueOf (unitOf s c k) we
  let s := due.foldl (fun s j => expireOne s c k j (some q.ref)) s
  let s := updOpt s c k (fun o => { o with running := some { q with settled := true, fault := q.fault || past, due := due } })
  strain s c k we

/-- Up to f further elements of the opt.card that runs; with last, its end as well. -/
def cardRun (last : Bool) : Nat → State → Nat → Nat → State
  | 0, s, _, _ => s
  | f + 1, s, c, k =>
    match (unitOf s c k).running with
    | none => s
    | some q =>
      if q.kind ≠ .card ∨ q.settled = true then s
      else
        match cardStep s c k q with
        | .go s' => cardRun last f s' c k
        | .over => if last then settleCard s c k q false else s
        | .past => if last then settleCard s c k q true else s
        | .blocked => s

/-- The reverts that fell due at the card's completion are applied, as far as the cursor can go (R368). -/
def reverted_ (o : OptUnit) (q : Card) : Bool :=
  q.due.all (fun j => (promiseAt o j).closed) || (regionAt o (cardRegion o q)).work.isNone

/-- CARD_COMPLETE of cluster k: the rest of the opt.card that runs, as far as it can go. -/
def cardComplete (s : State) (c k : Nat) : State :=
  match (unitOf s c k).running with
  | none => s
  | some q =>
    let s := cardRun true ((capEntry q.ents 0).count + 1) s c k
    match (unitOf s c k).running with
    | none => s
    | some q =>
      if q.kind = .card ∧ q.settled = true ∧ reverted_ (unitOf s c k) q = true then
        endCard (updOpt s c k (fun o => { o with running := none })) c k q.ref q.fault q.ninv
      else s

/-- The CARD_COMPLETE step: context input.who, cluster input.sub. -/
def execCardComplete (s : State) : Out := .next (cardComplete s s.input.who s.input.sub)

/-- The start of a redemption card (R372, R374). -/
def redeemStart (s : State) (c k : Nat) (q : Card) : State :=
  let j := q.promise
  let p := promiseAt (unitOf s c k) j
  let we := p.we
  let s := if p.state = .open_ ∧ overdue p (regionAt (unitOf s c k) we).wver = true then expireOne s c k j (some q.ref) else s
  let p := promiseAt (unitOf s c k) j
  let drop := fun (s : State) => updPromise s c k j (fun p => { p with latea := true, pend := false, glock := [] })
  -- a held card has left the queue, and its own ranges with it
  let leftQueue := fun (s : State) => releaseLocks s c q.ref.core (q.ref.xid.toNat / 4)
  let run := fun (s : State) =>
    let s := strain s c k we
    match (regionAt (unitOf s c k) we).work with
    | some w => if w.j = j then updOpt s c k (fun o => { o with running := some q }) else leftQueue s
    | none => leftQueue s
  if p.state = .open_ then run (updPromise s c k j (fun p => { p with state := .redeemed, card := some q }))
  else if p.state = .expired then
    match p.late with
    | 0 =>
      let s := updPromise s c k j (fun p => { p with latea := true, lateDue := true, card := some q })
      if p.closed then
        run (updRegion s c k we (fun r => { r with work := some (newWork j (redeemPhases p) true false) }))
      else run s
    | 1 => strain (finishCard (drop s) c k q.ref 0#32) c k we
    | _ => strain (finishCard (faultCard (drop s) c k q.ref .promiseExpired (handleOf p j)) c k q.ref cardFault) c k we
  else s

/-- A card is refused at its start with reason 0x03; a redemption leaves its promise as it was before it was issued (R376). -/
def refuseCard (s : State) (c k : Nat) (q : Card) : State :=
  let s := if q.kind = .card then s else updPromise s c k q.promise (fun p => { p with pend := false, glock := [] })
  finishCard s c k q.ref (wordRefused 3)

/-- CARD_START of cluster k (R376, R380): the card at the head of the queue starts once none runs and the strainer rests on its
region, and registers its ranges; it waits for overlapping locks, and is refused where one on ĝ or h of an open promise meets a
destination. -/
def cardStart (s : State) (c k : Nat) : State :=
  match ctxAt s c with
  | none => s
  | some x =>
    let o := optAt x k
    match o.running, o.queue with
    | none, q :: rest =>
      if issuing x = false ∨ (regionAt o (cardRegion o q)).work.isSome = true then s
      else
        let taken := updOpt s c k (fun o => { o with queue := rest })
        let sides := startSides x k q
        let rivals := besides s c k q
        let y := (ctxAt rivals c).getD x
        if sides.any (fun r => r.dst && (sourceLocks y k).any (fun m => decide (r.home = .slice m.place) && locksMeet r.home (r.lock q.ref.core 0) m)) then
          refuseCard taken c k q
        else if sides.any (fun r => (clashAt rivals y q.ref.core r).isSome) = true ∨ tableRoom s x sides = false then s
        else
          let started := sides.foldl (fun s r => addLock s c q.ref.core (q.ref.xid.toNat / 4) r) taken
          match q.kind with
          | .redeem | .redeemT => redeemStart started c k q
          | .card => updOpt started c k (fun o => { o with running := some q })
    | _, _ => s

/-- The CARD_START step: context input.who, cluster input.sub. -/
def execCardStart (s : State) : Out := .next (cardStart s s.input.who s.input.sub)

/-- Up to n further elements of what is done on region we of cluster k: the strainer's action, or the opt.card that runs (R388). -/
def optimMove (s : State) (c k we n : Nat) : State :=
  let o := unitOf s c k
  if (regionAt o we).work.isSome then workMove s c k we n
  else
    match o.running with
    | some q => if cardRegion o q = we then cardRun false n s c k else s
    | none => s

/-! ## What a task attempt runs again (R388) -/

/-- The record kept for the task of core E.n. -/
def replayOf (E : Env) : Replay :=
  let fresh : Replay := { ridx := E.t.ridx, accNo := E.u.accNo, t := E.t.t, results := [], taken := 0, seqs := [], words := [], faults := [] }
  match tget (optAt E.x (clusterOf E.n)).replay E.n with
  | some r => if r.ridx = E.t.ridx ∧ r.accNo = E.u.accNo ∧ r.t = E.t.t then r else fresh
  | none => fresh

def setReplay (s : State) (E : Env) (r : Replay) : State :=
  updOpt s E.t.ctx (clusterOf E.n) (fun o => { o with replay := tset o.replay E.n r })

/-- The result that the failed attempt got at this point. -/
def earlier (E : Env) : Option Word := if E.t.rerun then (replayOf E).results[(replayOf E).taken]? else none

/-- A result is taken from the record, or is entered in it. -/
def tookResult (s : State) (E : Env) : State := setReplay s E { replayOf E with taken := (replayOf E).taken + 1 }
def noteResult (s : State) (E : Env) (w : Word) : State :=
  setReplay s E { replayOf E with taken := (replayOf E).taken + 1, results := (replayOf E).results ++ [w] }

/-- The next SEQ and the transfer id of a card (R376). -/
def nextSeq (c : Core) : Nat := (c.seq + 1) % 2 ^ 30
def cardXid (seq : Nat) : Word := word (4 * seq + 3)

/-- The failed attempt had put the card of this SEQ in the queue: it is dropped, with its original completion word. -/
def droppedCard (s : State) (E : Env) : Option State :=
  let r := replayOf E
  let q := nextSeq E.c
  if E.t.rerun = true ∧ r.seqs.contains q = true then
    some (updCore s E.n (fun c =>
      { c with seq := q
               dones := match tget r.words q with
                 | some w => keepDones q (tset c.dones (cardXid q).toNat w)
                 | none => c.dones
               afaults := c.afaults ++ r.faults.filter (fun f => decide (f.xid = cardXid q) && !c.afaults.contains f) }))
  else none

/-! ## Descriptors (R369, R377, R382) -/

/-- A plain INT32 entry of the issuing core's slice. -/
def descForm (n : Nat) : Form :=
  { flags := fun e => if e.plain then none else some 0x09, reach := fun h => if h = .slice n then none else some 0x04
    fmts := some [fmtINT32] }

/-- The eight elements from the packed coordinates on. -/
def descCoords (E : Env) (e : Entry) (a : Reg) : List (List Nat) :=
  let cs := packedCoords E e a
  (List.range 8).map (fun i => (cs.getD 0 0 + i) :: cs.drop 1)

/-- The words of a descriptor. -/
def descWords (s : State) (E : Env) (e : Entry) (css : List (List Nat)) : List Word :=
  css.map (fun cs => word (readElem s E.t.ctx E.x e (.slice E.n) (bitAddr e cs)))

/-- The handles that a descriptor holds: of prm.open, or of opt.card, whose absent regions name nothing. -/
def descHandles (card : Bool) (x : List Word) : List Nat :=
  let h := fun k => (x.getD 0 0#32).toNat / 2 ^ k % 32
  if card then
    [h 0, h 8] ++ (if field (x.getD 5 0#32) 17 16 = 0 then [] else [h 16]) ++ (if field (x.getD 5 0#32) 19 18 = 0 then [] else [h 24])
  else [h 0, h 8, h 16, h 24]

/-- The lowest byte at or above KSP of the core's own slice in the hulls of whole regions (R39, R100, R230; log 57). -/
def undeclaredRegion (E : Env) (l : List Entry) : Option TrapReq :=
  let own := l.filter (fun e => decide (homeOf E.x E.n e = .slice E.n))
  match own.filterMap (fun e => undeclaredHull E (wholeSide E.x E.n e false)) with
  | [] => none
  | b :: bs => some { cause := .resource, info := resourceInfo 8 (bs.foldl min b) }

/-- RESOURCE: a handle of the descriptor at or above NHND, then an undeclared byte of the descriptor, then one of the regions that it
names. kind: none for opt.ldr. -/
def descBytes (kind : Option Bool) (a h : Reg) (s : State) (n : Nat) : Option TrapReq :=
  match taskEnv s n with
  | none => none
  | some (t, x, u) =>
    let E : Env := { n := n, t := t, x := x, u := u, c := coreAt s n }
    let e := handleEntry E h.toNat
    let css := descCoords E e a
    let named := match kind with
      | some card => if (layoutCheck E (descForm n) e css).isNone then descHandles card (descWords s E e css) else []
      | none => []
    match named.find? (fun k => decide (u.kernel.nhnd ≤ k)) with
    | some k => some { cause := .resource, info := resourceInfo 5 k }
    | none => (undeclaredByte E e css).or (undeclaredRegion E (named.map (handleEntry E)))

/-- The shape of an instruction that reads a descriptor. -/
def descShape (kind : Option Bool) (d : List RName) (a n : Reg) : Shape :=
  { names := nH n :: d ++ [nS a], bytes := descBytes kind a n }

/-- Go on with the descriptor's words, its entry and its bit addresses, or LAYOUT. -/
def withDesc (s : State) (E : Env) (a h : Reg) (go : Entry → List Nat → List Word → Body) : Body :=
  let e := handleEntry E h.toNat
  let css := descCoords E e a
  match layoutCheck E (descForm E.n) e css with
  | some r => .trap r
  | none => go e (css.map (bitAddr e)) (descWords s E e css)

/-- The range locks, and the poison, that reading a descriptor meets; the mark of an announced operation. -/
def descMark (s : State) (E : Env) (e : Entry) (locs : List Nat) : Guard := Guard.ofTrap (markGuard s E e (.slice E.n) locs)
def descLock (s : State) (E : Env) (e : Entry) (locs : List Nat) : Guard := Guard.ofTrap (lockGuard s E e (.slice E.n) locs false)
def descPoison (s : State) (E : Env) (e : Entry) (locs : List Nat) : Guard := Guard.ofTrap (poisonGuard s E e (.slice E.n) locs)

/-- The view that a descriptor's handle names, with its number. -/
def capView (E : Env) (h : Nat) : Nat × List Word :=
  let e := handleEntry E h
  (e.num, e.words)

/-- An overlap of a new range with a registered lock: LOCKED in a DET context, else a wait (R230, R383). -/
def newRangeGuard (s : State) (E : Env) (r : Side) : Guard :=
  match clashAt s E.x E.n r with
  | some (r, m) => if E.x.det then .trap (lockedTrap E r.entry.num r.home m) else .wait .lock
  | none => .pass

/-- NONDET 0xA: the issuing core is not PROD of W (R377). -/
def prodGuard (E : Env) (w : Entry) : Guard :=
  if E.x.det = true ∧ w.prod ≠ E.prel then .trap (nondetTrap w.num 0xA w.prod) else .pass

/-! ## prm.open (R369, R383) -/

/-- The first word of a prm.open descriptor that R369 does not allow. -/
def badOpenWord (x : List Word) : Option Nat :=
  let w := fun k => x.getD k 0#32
  if w 0 &&& 0xE0E0E0E0#32 ≠ 0#32 then some 0
  else if w 3 &&& 0xFFFFCCC0#32 ≠ 0#32 ∨ field (w 3) 5 0 = 0 ∨ field (w 3) 9 8 = 3 ∨ field (w 3) 13 12 = 3 then some 3
  else if field (w 4) 31 16 ≠ 0 then some 4
  else if w 6 ≠ 0#32 then some 6
  else if w 7 ≠ 0#32 then some 7
  else none

/-- TICKET-DUP of prm.open: behind CUR, or the ticket of another entry that is not CLOSED (R371). -/
def ticketTaken (o : OptUnit) (we ticket : Nat) : Bool :=
  decide (2 ^ 15 ≤ (ticket + 65536 - (regionAt o we).cur) % 65536) ||
    o.promises.any (fun e => decide (e.2.state ≠ .free ∧ e.2.we = we ∧ e.2.ticket = ticket) && !e.2.closed)

/-- TICKET-DUP and TICKET-GAP of a promise: ROUND 0 (R371, R386). -/
def promiseTicket (cause : Cause) (we index : Nat) : TrapReq :=
  { cause := cause, info := word (we % 256 * 2 ^ 24 + index % 2 ^ 16) }

/-- The lowest entry of a slot that may be opened. -/
def freeEntry (o : OptUnit) (slot : Nat) : Option Nat :=
  ((List.range 8).map (fun i => 8 * slot + i)).find? (fun j => decide ((promiseAt o j).state = .free) || (promiseAt o j).closed)

/-- No earlier card of the core is queued or running (R382). -/
def drained (s : State) (n : Nat) : Bool := (cardsOf s n).isEmpty

/-- No action of the strainer is in progress on a promise that the core opened. prm.open, prm.cancel and prm.query wait for this too, so
that what they read of CUR, of WVER and of CLOSED depends only on the order of the core's instructions (R371, R377). -/
def strained (s : State) (c n : Nat) : Bool :=
  (unitOf s c (clusterOf n)).regions.all (fun e =>
    match e.2.work with
    | some w => decide (w.j / 8 ≠ slotOf n)
    | none => true)

/-- The core's cards are drained and the strainer rests on its promises (R377, R382). -/
def settledCards (s : State) (E : Env) : Bool := drained s E.n && strained s E.t.ctx E.n

/-- The entry that prm.open writes. -/
def openedPromise (E : Env) (o : OptUnit) (j : Nat) (x : List Word) (ents : List (Nat × List Word)) (locks : List Lock) : Promise :=
  let w := fun k => x.getD k 0#32
  let num := fun k => (capEntry ents k).num
  { Promise.reset with
    state := .open_, gen := ((promiseAt o j).gen + 1) % 1024, exp := field (w 3) 9 8, late := field (w 3) 13 12
    deadline := field (w 3) 5 0, we := num 0, ge := num 1, he := num 2, pe := num 3, eta := w 1, alpha := w 2
    ticket := field (w 4) 15 0, vopen := (regionAt o (num 0)).wver, tag := w 5, ents := ents, opener := E.n, locks := locks }

/-- prm.open counts one promise opened at the level of the task shadow (R375, R395). -/
def openCounts (c : Core) : List (Nat × Nat) := if c.priv then [] else [(55, 1)]

/-- prm.open. -/
def prmOpenBody (d a n : Reg) (l : BitVec 4) (s : State) : Body :=
  withEnv s (fun E =>
    match earlier E with
    | some v => .ok (pend (tookResult s E) E.n .long l [sres E.c d v] 0#5 (openCounts E.c))
    | none =>
      withDesc s E a n (fun e locs x =>
        if settledCards s E = false then .wait .card s
        else
          let k := clusterOf E.n
          let o := optAt E.x k
          let h := fun b => (x.getD 0 0#32).toNat / 2 ^ b % 32
          let ents := [capView E (h 0), capView E (h 8), capView E (h 16), capView E (h 24)]
          let W := capEntry ents 0
          let G := wholeSide E.x E.n (capEntry ents 1) false
          let H := wholeSide E.x E.n (capEntry ents 2) false
          match malformed E (ents.map (fun c => { num := c.1, words := c.2 })), disagrees E W (capEntry ents 1) (capEntry ents 2) (capEntry ents 3),
              badOpenWord x with
          | some r, _, _ => .trap r
          | none, some b, _ => .trap (layoutTrap 0x0B b 0)
          | none, none, some i => raise .priv (word (0x09000000 + i))
          | none, none, none =>
            let ticket := field (x.getD 4 0#32) 15 0
            guarded s (firstGuard [prodGuard E W, descMark s E e locs]) (
              if ticketTaken o W.num ticket then .trap (promiseTicket .ticketDup W.num ticket)
              else
                match freeEntry o (slotOf E.n) with
                | none => raise .priv 0x08000000#32
                | some j =>
                  let p := openedPromise E o j x ents [G.lock E.n 0, H.lock E.n 0]
                  let s1 := updPromise s E.t.ctx k j (fun _ => p)
                  let r := handleOf p j
                  let s1 := match taskEnv s1 E.n with
                    | some (t, y, u) => noteResult s1 { E with t := t, x := y, u := u } r
                    | none => s1
                  guarded s (firstGuard [descLock s E e locs, newRangeGuard s E G, newRangeGuard s E H, descPoison s E e locs])
                    (.ok (pend s1 E.n .long l [sres E.c d r] 0#5 (openCounts E.c))))))

def execPrmOpen (d a n : Reg) (l : BitVec 4) (s : State) : Out :=
  issue (.prmOpen d a n l) (descShape (some false) [nS d] a n) (prmOpenBody d a n l) s

/-! ## Putting a card in the queue (R376, R385) -/

/-- The queue has a free entry: sixteen cards, the one that runs included. -/
def queueRoom (o : OptUnit) : Bool := decide (o.queue.length + o.running.toList.length < 16)

/-- What issues a card now. -/
def cardRef (E : Env) : CardRef :=
  { core := E.n, ridx := E.t.ridx, accNo := E.u.accNo, t := E.t.t, xid := cardXid (nextSeq E.c), pc := E.c.pc }

/-- The card joins the queue. -/
def enqueue (s : State) (E : Env) (q : Card) : State :=
  let s := setReplay s E { replayOf E with seqs := (replayOf E).seqs ++ [nextSeq E.c] }
  let s := updOpt s E.t.ctx (clusterOf E.n) (fun o => { o with queue := o.queue ++ [q] })
  updCore s E.n (fun c => { c with seq := nextSeq E.c })

/-- sD takes the transfer id. -/
def cardIssued (s : State) (E : Env) (d : Reg) (l : BitVec 4) : Body := longRes s l [sres E.c d (cardXid (nextSeq E.c))]

/-- An empty card of a kind. -/
def newCard (E : Env) (kind : CardKind) : Card :=
  { ref := cardRef E, kind := kind, ents := [], params := [], mmode := 0, vmode := 0, routine := [], fctl := E.c.cr.fctl, promise := 0
    next := 0, wrote := 0, ninv := 0, spoiled := [], fault := false, settled := false, due := [] }

/-! ## prm.redeem (R384) -/

/-- RESOURCE of a redemption: an undeclared byte of g or of the regions of its promise. -/
def redeemBytes (a h : Reg) (s : State) (n : Nat) : Option TrapReq :=
  match taskEnv s n with
  | none => none
  | some (t, x, u) =>
    let E : Env := { n := n, t := t, x := x, u := u, c := coreAt s n }
    let o := optAt x (clusterOf n)
    let held := match liveEntry o n (rdS E.c a.toNat) with
      | some j => (List.range 4).map (capEntry (promiseAt o j).ents)
      | none => []
    undeclaredRegion E (handleEntry E h.toNat :: held)

/-- The shape of a redemption. -/
def redeemShape (d a n : Reg) : Shape := { names := [nH n, nS d, nS a], bytes := redeemBytes a n }

/-- prm.redeem and prm.redeem.t. -/
def redeemBody (kind : CardKind) (d a n : Reg) (l : BitVec 4) (s : State) : Body :=
  withEnv s (fun E =>
    match droppedCard s E with
    | some s1 => cardIssued s1 E d l
    | none =>
      let k := clusterOf E.n
      let o := optAt E.x k
      let h := rdS E.c a.toNat
      let priv := raise .priv (word (0x07000000 + h.toNat % 65536))
      match liveEntry o E.n h with
      | none => priv
      | some j =>
        let p := promiseAt o j
        if p.pend = true ∨ p.state = .redeemed ∨ p.state = .cancelled then priv
        else
          let g := handleEntry E n.toNat
          let W := capEntry p.ents 0
          let G := wholeSide E.x E.n g false
          if entryOk E g = false then .trap (layoutTrap 0x01 g 0)
          else if !regionOk E g false || decide (g.count ≠ W.count) then .trap (layoutTrap 0x0B g 0)
          else
            guarded s (firstGuard [prodGuard E W, newRangeGuard s E G]) (
              if queueRoom o then
                let s1 := updPromise s E.t.ctx k j (fun p =>
                  { p with pend := true, te := g.num, ents := p.ents.take 4 ++ [(g.num, g.words)], glock := [G.lock E.n 0]
                           tonly := decide (kind = .redeemT), redBy := some (cardRef E) })
                cardIssued (enqueue s1 E { newCard E kind with promise := j }) E d l
              else .wait .launch s))

def execPrmRedeem (d a n : Reg) (l : BitVec 4) (s : State) : Out :=
  issue (.prmRedeem d a n l) (redeemShape d a n) (redeemBody .redeem d a n l) s
def execPrmRedeemT (d a n : Reg) (l : BitVec 4) (s : State) : Out :=
  issue (.prmRedeemT d a n l) (redeemShape d a n) (redeemBody .redeemT d a n l) s

/-! ## prm.cancel and prm.query (R387) -/

/-- Both return a word once the core's cards are drained and its promises rest; f gives the word and the state. -/
def drainedResult (d : Reg) (l : BitVec 4) (s : State) (f : Env → Word × State) : Body :=
  withEnv s (fun E =>
    match earlier E with
    | some v => longRes (tookResult s E) l [sres E.c d v]
    | none =>
      if settledCards s E = false then .wait .card s
      else
        let (v, s1) := f E
        match taskEnv s1 E.n with
        | some (t, x, u) => longRes (noteResult s1 { E with t := t, x := x, u := u } v) l [sres E.c d v]
        | none => longRes s1 l [sres E.c d v])

/-- prm.cancel: R375 first, so that the cursor passes a promise that stands at it, then word 0 as it stands (R387). -/
def prmCancelBody (d a : Reg) (l : BitVec 4) (s : State) : Body :=
  drainedResult d l s (fun E =>
    let k := clusterOf E.n
    let o := optAt E.x k
    match liveEntry o E.n (rdS E.c a.toNat) with
    | none => (0xFFFFFFFF#32, s)
    | some j =>
      let p := promiseAt o j
      if p.state = .open_ then
        let s1 := updPromise s E.t.ctx k j (fun p => { p with state := .cancelled })
        let s1 := strain s1 E.t.ctx k p.we
        ((promiseAt (unitOf s1 E.t.ctx k) j).word0, s1)
      else (p.word0, s))

/-- prm.query. -/
def prmQueryBody (d a : Reg) (sel : BitVec 5) (l : BitVec 4) (s : State) : Body :=
  if 4 ≤ sel.toNat then illegal (.prmQuery d a sel l)
  else
    drainedResult d l s (fun E =>
      let o := optAt E.x (clusterOf E.n)
      match liveEntry o E.n (rdS E.c a.toNat) with
      | none => (0xFFFFFFFF#32, s)
      | some j =>
        let p := promiseAt o j
        let r := regionAt o p.we
        (match sel.toNat with
          | 0 => p.word0
          | 1 => p.word4
          | 2 => p.tag
          | _ => word (r.cur % 2 ^ 16 * 2 ^ 16 + r.wver % 2 ^ 7), s))

def execPrmCancel (d a : Reg) (l : BitVec 4) (s : State) : Out :=
  issue (.prmCancel d a l) { names := [nS d, nS a] } (prmCancelBody d a l) s
def execPrmQuery (d a : Reg) (sel : BitVec 5) (l : BitVec 4) (s : State) : Out :=
  issue (.prmQuery d a sel l) { names := [nS d, nS a] } (prmQueryBody d a sel l) s

/-! ## opt.card and opt.ldr (R377, R381, R385) -/

/-- The refusal reason of a card, in the order of R223; rs are its ranges. -/
def cardRefusal (E : Env) (x : List Word) (W : Entry) (others : List Entry) (rs : List Side) : Option Nat :=
  let w := fun k => x.getD k 0#32
  let mm := field (w 5) 17 16
  let vm := field (w 5) 19 18
  let meets := (List.range rs.length).any (fun i => (List.range rs.length).any (fun j =>
    match rs[i]?, rs[j]? with
    | some r, some q => decide (i ≠ j) && q.dst && decide (r.entry.space < 2) && sidesMeet r q
    | _, _ => false))
  if (W :: others).any (fun e => decide (e.fmt ≠ fmtFP32)) then some 0x01
  else if others.any (fun e => decide (e.count ≠ W.count)) then some 0x02
  else if meets then some 0x03
  else if !regionOk E W true || others.any (fun e => !regionOk E e false) then some 0x04
  else if w 0 &&& 0xE0E0E0E0#32 ≠ 0#32 ∨ w 5 &&& 0xFFF080F8#32 ≠ 0#32 ∨ mm = 3 ∨ vm = 3 ∨ w 6 ≠ 0#32 ∨ w 7 ≠ 0#32 ∨
      (mm = 0 ∧ field (w 0) 20 16 ≠ 0) ∨ (vm = 0 ∧ field (w 0) 28 24 ≠ 0) then some 0x05
  else none

/-- NONDET 0xB: a moment or variance that is written lies in another slice. -/
def ownGuard (E : Env) (mode : Nat) (e : Entry) : Guard :=
  if E.x.det = true ∧ mode = 2 ∧ homeOf E.x E.n e ≠ .slice E.n then .trap (nondetTrap e.num 0xB (homeCore E (homeOf E.x E.n e))) else .pass

/-- A routine slot (R381). -/
def routineAt (o : OptUnit) (k : Nat) : Routine := tgetD o.routines k { rgen := 0, codes := [] }

/-- The wait for a routine's load count (R381). -/
def routineGuard (r : Routine) (slot want : Nat) : Guard :=
  let d := (r.rgen + 128 - want) % 128
  if d = 0 then .pass else if d ≤ 63 then .trap (vpassedTrap slot r.rgen want) else .wait .card

/-- opt.card. -/
def optCardBody (d a n : Reg) (l : BitVec 4) (s : State) : Body :=
  withEnv s (fun E =>
    match droppedCard s E with
    | some s1 => cardIssued s1 E d l
    | none =>
      withDesc s E a n (fun e locs x =>
        let o := optAt E.x (clusterOf E.n)
        let w := fun k => x.getD k 0#32
        let mm := field (w 5) 17 16
        let vm := field (w 5) 19 18
        let cap := fun on b => if on then capView E ((w 0).toNat / 2 ^ b % 32) else (0, [])
        let ents := [cap true 0, cap true 8, cap (decide (mm ≠ 0)) 16, cap (decide (vm ≠ 0)) 24]
        let q := { newCard E .card with
          ents := ents, params := [w 1, w 2, w 3, w 4], mmode := mm, vmode := vm, routine := (routineAt o (field (w 5) 2 0)).codes }
        let W := capEntry ents 0
        let others := [capEntry ents 1] ++ (if mm = 0 then [] else [capEntry ents 2]) ++ (if vm = 0 then [] else [capEntry ents 3])
        let no := cardRefusal E x W others (cardSides E.x q)
        let nondet := if no.isSome then .pass else firstGuard [prodGuard E W, ownGuard E mm (capEntry ents 2), ownGuard E vm (capEntry ents 3)]
        let layout := Guard.ofTrap (malformed E (W :: others))
        guarded s (firstGuard [layout, nondet, descMark s E e locs, descLock s E e locs, descPoison s E e locs]) (
          match no with
          | some reason =>
            if queueRoom o then
              let s1 := updCore s E.n (fun c => { c with seq := nextSeq E.c })
              cardIssued (finishCard s1 E.t.ctx (clusterOf E.n) q.ref (wordRefused reason)) E d l
            else .wait .launch s
          | none =>
            guarded s (routineGuard (routineAt o (field (w 5) 2 0)) (field (w 5) 2 0) (field (w 5) 14 8)) (
              if queueRoom o then cardIssued (enqueue s E q) E d l else .wait .launch s))))

def execOptCard (d a n : Reg) (l : BitVec 4) (s : State) : Out :=
  issue (.optCard d a n l) (descShape (some true) [nS d] a n) (optCardBody d a n l) s

/-- The sixteen halfwords of a routine's words, low halfword first. -/
def halfwords (x : List Word) : List (BitVec 16) := x.flatMap (fun w => [w.extractLsb' 0 16, w.extractLsb' 16 16])

/-- The first halfword before END that may not stand in a routine. -/
def badHalfword (l : List (BitVec 16)) : Option Nat :=
  ((l.takeWhile (fun w => w.toNat / 4096 != 13 || badCode w)).zipIdx.find? (fun e => badCode e.1)).map Prod.snd

/-- opt.ldr. -/
def optLdrBody (a n : Reg) (k : BitVec 3) (l : BitVec 4) (s : State) : Body :=
  withEnv s (fun E =>
    withDesc s E a n (fun e locs x =>
      let codes := halfwords x
      if k.toNat ≠ slotOf E.n then raise .priv (word (0x0A000000 + k.toNat))
      else
        match badHalfword codes with
        | some i => raise .priv (word (0x0A010000 + i))
        | none =>
          guarded s (firstGuard [descMark s E e locs, descLock s E e locs, descPoison s E e locs])
            (longRes (updOpt s E.t.ctx (clusterOf E.n) (fun o =>
              { o with routines := tset o.routines k.toNat { rgen := ((routineAt o k.toNat).rgen + 1) % 128, codes := codes } })) l [])))

def execOptLdr (a n : Reg) (k : BitVec 3) (l : BitVec 4) (s : State) : Out :=
  issue (.optLdr a n k l) (descShape none [] a n) (optLdrBody a n k l) s

/-! ## opt.wait and fence.e (R386, R279, R342) -/

/-- The promise whose held card has transfer id t of core n. -/
def heldCard (o : OptUnit) (n : Nat) (t : Word) : Option Promise :=
  (o.promises.find? (fun e => match e.2.card with
    | some q => decide (q.ref.core = n ∧ q.ref.xid = t) && !isRunning o q.ref
    | none => false)).map Prod.snd

/-- opt.wait. -/
def optWaitBody (d a : Reg) (l : BitVec 4) (s : State) : Body :=
  withEnv s (fun E =>
    let t := rdS E.c a.toNat
    let o := optAt E.x (clusterOf E.n)
    let q := t.toNat / 4
    let done := fun (f : AFault → Bool) (w : Word) =>
      match nextFault E.c f with
      | some g => .fault (dropFault s E.n g) (asyncTrap g)
      | none => longRes s l [sres E.c d w]
    if t = 0#32 then
      if drained s E.n then done (fun f => decide (f.xid.toNat % 4 = 3)) 0#32 else .wait .card s
    else if t.toNat % 4 ≠ 3 ∨ q = 0 ∨ E.c.seq < q ∨ 64 ≤ E.c.seq - q then longRes s l [sres E.c d 0xFFFFFFFF#32]
    else if (cardsOf s E.n).any (fun k => decide (k.ref.xid = t)) then .wait .card s
    else
      match heldCard o E.n t with
      | some p =>
        if gapDue E.c .heldCard then .trap (promiseTicket .ticketGap p.we (regionAt o p.we).cur) else .wait .heldCard s
      | none => done (fun f => decide (f.xid = t)) (tgetD E.c.dones t.toNat 0xFFFFFFFF#32))

def execOptWait (d a : Reg) (l : BitVec 4) (s : State) : Out :=
  issue (.optWait d a l) { names := [nS d, nS a] } (optWaitBody d a l) s

/-- fence.e: every engine command, and every card that is not held, has completed; an undelivered fault traps here. -/
def fenceEBody (s : State) : Body :=
  let c := me s
  if !c.cmds.isEmpty || !drained s s.cur then .wait .fence s
  else
    match nextFault c (fun _ => true) with
    | some f => .fault (dropFault s s.cur f) (asyncTrap f)
    | none => longRes s 0#4 []

def execFenceE (s : State) : Out := issue .fenceE {} fenceEBody s

end Sys2Proof.Machine
end

