-- ==== Sys2Proof/Machine/Spill.lean ====
section
/-! DEFINITION. The bytes of the spill areas (R359). Byte b of the area of context c in the channel of logical core n has key
(8192 c + n) 2^21 + b. A restore reads the saved units themselves: these bytes are what stands in DRAM meanwhile (log 51). -/

namespace Sys2Proof.Machine

/-- The first key of a spill area. -/
def spillBase (c n : Nat) : Nat := (8192 * c + n) * 2 ^ 21

/-! ## The items of an area as words

R359 says which items stand at an offset and R299, R247 and R367 what some of them are made of. How the others are coded and how the items
of one offset are packed, one after the other and without gaps, is the model's choice (log 51). -/

/-- The bytes of a list of numbers as words, at most n words. -/
def packed (n : Nat) (l : List Nat) : List Byte := wordsBytes ((l.take n).map word)

/-- A flag, and a value that may be absent, as numbers. -/
def flagNum (b : Bool) : Nat := if b then 1 else 0
def optNum (o : Option Nat) : Nat := o.getD 0xFFFFFFFF

/-- A captured entry. -/
def entNums (e : Nat × List Word) : List Nat := e.1 :: e.2.length :: e.2.map (·.toNat)

/-- A range lock (R229). -/
def lockNums (l : Lock) : List Nat := [l.place, l.lo, l.hi, l.bankp, flagNum l.dst, l.owner, l.seq]

/-- A stopped command (R355): its captured block, SEQ, entries and the offset of its next element. -/
def cmdNums (k : Cmd) : List Nat :=
  [match k.kind with | .copy => 0 | .gather => 1 | .exchange => 2, k.seq, k.pc.toNat, k.hbase, k.next, k.ninv, k.noor, flagNum k.partly,
    optNum k.fault, optNum k.group, optNum k.handler, flagNum k.joined, k.count] ++
  (List.range 16).map (fun i => (tgetD k.block i 0#32).toNat) ++ entNums k.src ++ entNums k.dst ++ entNums k.idx

/-- The resume flags (R91, R313): whether the arrive of the bar.sync at pc is counted; then bit 31 that the core stands in a gang, its
leader in bits 10:8 and its members in bits 7:0. -/
def resumeNums (s : State) (n : Nat) : List Nat :=
  let k := coreAt s n
  let g := match (clusterAt s (clusterOf n)).gang with
    | some g =>
      if g.members.contains (slotOf n) then 2 ^ 31 + 256 * g.leader + g.members.foldl (fun a i => a + 2 ^ i) 0 else 0
    | none => 0
  [flagNum (k.arrived.contains (k.priv, k.pc)), g]

/-- The counts at 0x300: the retired count in two words, GCOUNT, SEQ, ACOUNT, STOPW in two words with all ones for none, then the number
of held interrupts and each with its transfer id and handler. -/
def countNums (s : State) (n : Nat) : List Nat :=
  let k := coreAt s n
  let stop := match taskEnv s n with
    | some (_, _, u) => u.stopw.getD (2 ^ 64 - 1)
    | none => 2 ^ 64 - 1
  [k.count, k.count / 2 ^ 32, k.gcount, k.seq, k.acount, stop, stop / 2 ^ 32, k.intr.length] ++ k.intr.flatMap (fun e => [e.1.toNat, e.2])

/-- A held update of a bank unit (R299) in three words: its operand; its granule in bits 16:0, operation in 19:17, mark in 20, first bit
within the granule in 27:21 and format in 31:28; round and index. -/
def arrivalNums (a : Arrival) : List Nat :=
  let op := match a.op with | .fadd => 0 | .fmax => 1 | .fmin => 2 | .or => 3 | .skip => 4
  [a.x.toNat, a.gran % 2 ^ 17 + op * 2 ^ 17 + flagNum a.replay * 2 ^ 20 + a.bitAdr % 2 ^ 7 * 2 ^ 21 + a.fmt % 2 ^ 4 * 2 ^ 28, a.q * 2 ^ 16 + a.i]

/-- The state of a context at bank unit b (R299): one word with the number of held updates and, in its upper half, of trackers; the updates
in ascending (granule, round, index); the trackers with granule, e and N in two words. 48 held updates and 16 trackers (R292) take 177 of
the bank's 192 words. -/
def bankNums (k : Core) (b : Nat) : List Nat :=
  let key := fun (a : Arrival) => (a.gran * 2 ^ 16 + a.q) * 2 ^ 16 + a.i
  let held := k.rob.filter (fun a => decide (a.gran % 8 = b))
  let order := (held.map key).foldl (fun l x => insertNat x l) []
  let kept := order.filterMap (fun x => held.find? (fun a => decide (key a = x)))
  let live := k.trackers.filter (fun t => decide (t.gran % 8 = b))
  (kept.length + 2 ^ 16 * live.length) :: (kept.flatMap arrivalNums ++ live.flatMap (fun t => [t.gran % 2 ^ 17, t.next * 2 ^ 16 + t.n]))

/-- A signal (R306). -/
def signalNums (g : Signal) : List Nat := [g.target, g.event, g.source, g.thresh]

/-- A promise (R367): its six words, then the entries it captured. -/
def promiseNums (o : OptUnit) (j : Nat) : List Nat :=
  let p := promiseAt o j
  [p.word0.toNat, ((p.we * 256 + p.ge) * 256 + p.he) * 256 + p.pe, p.eta.toNat, p.alpha.toNat, p.word4.toNat, p.tag.toNat] ++
    (p.ents.length :: p.ents.flatMap entNums)

/-- A card (R376, R377). -/
def cardNums (q : Card) : List Nat :=
  [q.ref.core, q.ref.ridx, q.ref.t, q.ref.xid.toNat, q.ref.pc.toNat, match q.kind with | .card => 0 | .redeem => 1 | .redeemT => 2, q.mmode,
    q.vmode, q.fctl.toNat, q.promise, q.next, q.ninv] ++
  q.params.map (·.toNat) ++ q.routine.map (·.toNat) ++ q.ents.flatMap entNums

/-- The state of cluster k of context c: range locks, events, parked signals, promises, WVER and CUR of the regions, the engine's cards and
the routine slots. -/
def clusterNums (s : State) (c k : Nat) : List Nat :=
  let u := clusterAt s k
  let o := unitOf s c k
  let cards := o.running.toList ++ o.queue
  (u.locks.length :: u.locks.flatMap lockNums) ++ (List.range 16).map (fun e => (tgetD u.events e 0#16).toNat) ++
  (u.parked.length :: u.parked.flatMap signalNums) ++ (List.range 64).flatMap (promiseNums o) ++
  (List.range 256).map (fun i => (regionAt o i).wver * 2 ^ 16 + (regionAt o i).cur) ++ (cards.length :: cards.flatMap cardNums) ++
  (List.range 8).flatMap (fun i =>
    let r := tgetD o.routines i { rgen := 0, codes := [] }
    r.rgen :: (List.range 16).map (fun j => (r.codes.getD j 0#16).toNat))

/-! ## The areas -/

/-- The bytes of a vector register, lane 0 first. -/
def vregBytes (v : VReg) : List Byte := (List.range 32).map (fun i => v.extractLsb' (8 * i) 8)

/-- The claimed slots of a core, in slot order. -/
def claimedSlots (k : Core) : List Nat := (List.range 64).filter (claimedSlot k)

/-- The parts of a core's spill area that hold its registers, tags, tiles and claimed slots, each with its offset (R359). -/
def corePart (s : State) (n : Nat) : List (Nat × List Byte) :=
  let k := coreAt s n
  [(0x40, wordsBytes ((List.range 32).map (fun r => if r = 0 then 0#32 else k.s.getD r 0#32))),
   (0xC0, wordsBytes k.bank.toList), (0xE0, wordsBytes ((List.range 4).map (rdP k))), (0xF0, wordsBytes [k.pc, tstatOf k]),
   (0xF8, packed 2 (resumeNums s n)), (0x100, wordsBytes ((List.range 128).map (readCr k))), (0x300, packed 64 (countNums s n)),
   (0x400, k.v.toList.flatMap vregBytes), (0x800, wordsBytes ((List.range 48).map (sget 0#32 k.shadow))),
   (0x8C0, packed 400 (k.cmds.length :: k.cmds.flatMap (fun e => cmdNums e.2))),
   (0xF00, packed 64 ((List.range 64).map (fun i => ((k.dones.find? (fun e => decide (e.1 / 4 % 64 = i))).map (fun e => e.2.toNat)).getD 0))),
   (0x1000, wordsBytes ((List.range 1024).map (sget 0#32 k.overlay))),
   (0x2000, wordsBytes ((List.range 64).flatMap (fun i => (List.range 5).map (fun j => (tgetD k.tags i { words := [] }).words.getD j 0#32)))),
   (0x4000, wordsBytes ((List.range 8192).map (sget 0#32 k.acc)))] ++
  (List.range 8).map (fun b => (0x2800 + 0x300 * b, packed 192 (bankNums k b))) ++
  (claimedSlots k).zipIdx.map (fun e => (0xC000 + 4096 * e.2, (List.range 4096).map (fun b => k.slots.read (4096 * e.1 + b))))

/-- The parts that hold the first MiB of the slice with its metadata and conflict words, and on slot 0 the cluster's state. -/
def slicePart (s : State) (c n : Nat) : List (Nat × List Byte) :=
  (s.gmeta.filter (fun e => decide (e.1 / 2 ^ 17 = n ∧ e.1 % 2 ^ 17 < 2 ^ 16))).map (fun e => (0x4C000 + e.1 % 2 ^ 17, [e.2])) ++
  (s.conf.filter (fun e => decide (e.1 / 2 ^ 15 = n ∧ e.1 % 2 ^ 15 < 2 ^ 14))).map (fun e => (0x6C000 + 4 * (e.1 % 2 ^ 15), wordsBytes [e.2])) ++
  (if slotOf n = 0 then [(0x8C000, packed (0x74000 / 4) (clusterNums s c (clusterOf n)))] else []) ++
  (s.slice.filter (fun e => decide (e.1 / 2 ^ 21 = n ∧ e.1 % 2 ^ 21 < 2 ^ 20))).map (fun e => (0x100000 + e.1 % 2 ^ 21, [e.2]))

/-- The spill areas with that of core n of context c written; k is the spill count. -/
def spillArea (s : State) (c n k : Nat) : Memory :=
  let b := spillBase c n
  let m := (corePart s n ++ slicePart s c n).foldl (fun m e => writeBytes m (b + e.1) e.2) (eraseRange s.spill b (2 ^ 21))
  let crc := crc32c ((List.range (2 ^ 21 - 64)).map (fun i => m.read (b + 64 + i)))
  writeBytes m b (wordsBytes [0x5350494C#32, word (c % 64), word k, crc])

/-- The access of SPILL or RESTORE to the spill area of core n leaves the row of its last bytes open (R410). -/
def openSpill (s : State) (c n : Nat) : State :=
  { s with rowOpen := tset s.rowOpen n (Config.spillRow (spillBase c n / 2048 + 1023)) }

/-- SPILL writes the areas of all cores of context c (R359); k is the spill count. -/
def writeSpill (s : State) (c : Nat) (x : Ctx) (k : Nat) : State :=
  let s := (List.range (pcores x)).foldl (fun s j => openSpill { s with spill := spillArea s c (logical x j) k } c (logical x j)) s
  { s with fresh := s.fresh + 1 }

/-- RESTORE reads them. -/
def readSpill (s : State) (c : Nat) (x : Ctx) : State :=
  (List.range (pcores x)).foldl (fun s j => openSpill s c (logical x j)) s

/-- The spill areas of context c are zero. -/
def zeroSpill (s : State) (c : Nat) : State := { s with spill := eraseRange s.spill (spillBase c 0) (8192 * 2 ^ 21) }

end Sys2Proof.Machine
end

