-- ==== Sys2Proof/Machine/Preempt.lean ====
section
/-! DEFINITION. Pre-emption, hold, spill and restore (17, R354 to R361), over-temperature (R5), and the failure of a core or a
lane (R67, R68). -/

namespace Sys2Proof.Machine

/-! ## The halt (R354) -/

/-- Add holds that are not there yet. -/
def joinHolds (l m : List HoldBy) : List HoldBy := l ++ m.filter (fun h => !l.contains h)

/-- The cores of a partition. -/
def partCores (x : Ctx) : List Nat := (List.range (pcores x)).map (logical x)

/-- A wait.cnt of a non-DET context whose condition has held is accepted, and completes before the halt (R273, R309). -/
def settleCount (s : State) (n : Nat) : State :=
  match tget s.counting n with
  | some q =>
    if q.met then noteAhead (settleBody s n 4 (.ok (pend { s with counting := tdel s.counting n } n .long 0#4 [] 0#5 []))) n else s
  | none => s

/-- The launch of an exchange that has joined is accepted, and retires before the halt (R235, R354). -/
def settleJoin (s : State) (n : Nat) : State :=
  match taskEnv s n, (fetchWord s n).map decodeWord with
  | some (t, x, u), some (.instr (.exchangeLaunch d l)) =>
    if hasJoined (coreAt s n) then
      noteAhead (settleBody s n 4 (launched s { n := n, t := t, x := x, u := u, c := coreAt s n } .exchange d l)) n
    else s
  | _, _ => s

/-- The gang of cluster cl halts at one boundary (R91): members past the instruction that another has not accepted stand at it with the
others, and pcs holds where they go on. -/
def alignGang (s : State) (cl : Nat) : State :=
  match (clusterAt s cl).gang with
  | none => s
  | some g =>
    match g.members.find? (fun k => !g.ahead.contains k) with
    | none => s
    | some b =>
      let pcs := g.ahead.map (fun k => (k, (coreAt s (8 * cl + k)).pc))
      let pc := (coreAt s (8 * cl + b)).pc
      g.ahead.foldl (fun s k => updCore s (8 * cl + k) (fun c => { c with pc := pc }))
        (updCluster s cl (fun y => { y with gang := some { g with pcs := pcs } }))

/-- The gang of cluster cl is formed again (R91, R361). -/
def reformGang (s : State) (cl : Nat) : State :=
  match (clusterAt s cl).gang with
  | none => s
  | some g => updCluster (forwardGang s cl g) cl (fun y => { y with gang := some { g with pcs := [] } })

/-- A core at the halt: the instruction that it waits at counts as not issued, what was accepted completes, its operand cache
empties (R266, R354). A counted wait that a window close has decided stays so: its result is delivered in full after the restore (R309,
R356). A message that is held for a rank in transit stays held (R332). A core that a debug session holds stays held. -/
def settleCore (s : State) (n : Nat) : State :=
  match tget s.cores n with
  | none => s
  | some _ =>
    let s := settleJoin (settleCount s n) n
    let decided := (coreAt s n).cwait.filter (fun q => q.res.isSome)
    let s := { withdraw s n with packets := s.packets }
    let s := updCore s n (fun c =>
      let c := prune (completeIf forcible c)
      { c with wait := if c.dbgHeld then c.wait else none, cwait := decided, opcache := [] })
    handlerEntry s n

/-- The PREEMPT command that is being served, if it waits for the halt of context c, is answered (R23). -/
def answerPreempt (s : State) (c : Nat) : State :=
  match s.mboxq with
  | [] => s
  | m :: _ =>
    if s.mgmt.ready = true ∧ s.mgmt.serving = some c then
      settleMbox s.mboxq.length (answerMbox { s with mgmt := { s.mgmt with serving := none } } m 0x00 [])
    else s

/-- PRE_EMPTION: the scheduler accepts the requests for context c; a context that runs begins to halt. The request of a rival falls
where none pre-empts the context any more (R69). A PREEMPT that finds the context halted is answered (R23). -/
def acceptPreempt (s : State) (c : Nat) : State :=
  match ctxAt s c with
  | none => s
  | some x =>
    let asked := x.preq.filter (fun h => decide (h ≠ .context) || outranked s c x)
    let x := { x with preq := [], holds := joinHolds x.holds asked }
    if asked = [] then setCtx s c x
    else if x.halt = .running then setCtx s c { x with halt := .freezing, froze := 0 }
    else if asked.contains .preempt && !moving x then answerPreempt (setCtx s c x) c
    else setCtx s c x

/-- The PRE_EMPTION step of context input.who. -/
def execPreEmption (s : State) : Out := .next (acceptPreempt s s.input.who)

/-! ## The end of the halt -/

/-- Core n has a task of context c, or is to start one. -/
def servesCtx (s : State) (c n : Nat) : Bool :=
  ((coreAt s n).task.toList ++ (coreAt s n).next.toList).any (fun t => decide (t.ctx = c))

/-- A record of context c holds cluster k (R57). -/
def holdsCluster (s : State) (c k : Nat) : Bool := decide (((clusterAt s k).holder.map Prod.fst) = some c)

/-- HALT_COMPLETE of context c, once HALT has arrived: the pool's requests are answered, every core of its running records is settled,
exchanges that have been launched complete, gangs stand at one boundary, and the packets on the mesh settle. The context is then held
in place, or waits to be spilled. -/
def haltComplete (s : State) (c : Nat) : State :=
  match ctxAt s c with
  | none => s
  | some x =>
    if x.halt = .freezing ∧ 24 ≤ x.froze then
      let s := (List.range x.pool.length).foldl (fun s _ => poolAnswer s c) s
      let ks := (partClusters x).filter (holdsCluster s c)
      let s := ((partCores x).filter (servesCtx s c)).foldl settleCore s
      let s := ks.foldl alignGang (ks.foldl exchangeComplete s)
      let s := settlePackets (fun e => decide (e.1 = c)) (2 * s.packets.length) s 0
      let s := updCtx s c (fun x => { x with halt := if toSpill x then .halted else .held })
      replaceLanes (if x.holds.contains .preempt then answerPreempt s c else s)
    else s

/-- The HALT_COMPLETE step of context input.who. -/
def execHaltComplete (s : State) : Out := .next (haltComplete s s.input.who)

/-! ## Spill and restore (R358 to R361) -/

/-- SPILL: the units of a halted SHARE context are written out, and its clusters pass on (R56). -/
def spillCtx (s : State) (c : Nat) : State :=
  match ctxAt s c with
  | none => s
  | some x =>
    if x.halt = .halted ∧ toSpill x = true then
      scanAll (setCtx (clearUnits (writeSpill s c x (x.spills + 1)) x) c
        { x with saved := some (spillUnits s x), halt := .spilled, active := false, spills := x.spills + 1 })
    else s

/-- The SPILL step of context input.who. -/
def execSpill (s : State) : Out := .next (if phodiverRuns s then spillCtx s s.input.who else s)

/-- A halted context may resume: no warm reset runs (R66), nobody holds it and, if it is spilled, its clusters are free, no rival of a higher level has released or
running records, and no waiting context comes before it (R56). -/
def mayRestore (s : State) (c : Nat) (x : Ctx) : Bool :=
  s.mgmt.ready && match x.halt with
  | .held => x.holds.isEmpty && x.preq.isEmpty
  | .spilled =>
    x.preq.isEmpty && x.holds.all (fun h => decide (h = .context)) && firstTurn s c x &&
      !(rivals s c x).any (fun e => e.2.active || decide (levelKey x < levelKey e.2))
  | _ => false

/-- The code of every running record and the handler memory are loaded again (R345, R361). -/
def reload (s : State) (c : Nat) (x : Ctx) : State :=
  x.runs.foldl (fun s e =>
    if e.2.running then (runCores x e.2).foldl (fun s n => loadHandler (loadCode s c x e.2 n) x n) s else s) s

/-- RESTORE (R361): the saved state stands again, locks and gangs included, code and handlers are loaded, and every core is released. A
spilled context has its clusters again; one held in place has them if it had them before (R56). Waits begin anew, so every watchdog
count restarts (R356). -/
def restoreCtx (s : State) (c : Nat) : State :=
  match ctxAt s c with
  | none => s
  | some x =>
    if mayRestore s c x then
      let s := match x.saved with
        | some v => putUnits (readSpill s c x) x v
        | none => s
      let s := ((partClusters x).filter (holdsCluster s c)).foldl reformGang s
      reschedule (updCtx (reload s c x) c (fun y =>
        { y with halt := .running, froze := 0, holds := [], saved := none, active := if x.halt = .spilled then !x.runs.isEmpty else x.active })) c
    else s

/-- The RESTORE step of context input.who. -/
def execRestore (s : State) : Out := .next (if phodiverRuns s then restoreCtx s s.input.who else s)

/-! ## The PREEMPT and RESUME commands (R23) -/

/-- The context has halted. -/
def stopped (x : Ctx) : Bool := !moving x

/-- PREEMPT answers once the context has halted: until then it is being served. -/
def execPreempt (s : State) : Out :=
  serveOr s 0x20 .owner true (fun s _ arg =>
    let c := (arg 0).toNat
    match ctxAt s c with
    | none => (s, some (0x82, []))
    | some x =>
      if stopped x then
        if x.holds.contains .preempt then (s, some (0x38, []))
        else (setCtx s c { x with holds := x.holds ++ [.preempt], preq := x.preq.filter (fun h => decide (h ≠ .preempt)) }, some (0x00, []))
      else (setCtx { s with mgmt := { s.mgmt with serving := some c } } c (requestHold x .preempt), none))

/-- RESUME. -/
def execResume (s : State) : Out :=
  serve s 0x21 .owner true (fun s _ arg =>
    let c := (arg 0).toNat
    match ctxAt s c with
    | none => (s, 0x82, [])
    | some x =>
      if x.holds.contains .preempt then (reschedule (restoreCtx (setCtx s c (dropHold x .preempt)) c) c, 0x00, [])
      else (s, 0x39, []))

/-! ## Over-temperature (R5) -/

/-- Event 0x76. -/
def thermalEvent (on : Bool) (temp : Nat) : Event := mkEvent [0x76#32, if on then 1#32 else 0#32, word temp]

/-- A sensor reads t °C: at 105 °C THERM is set, and every context that runs is pre-empted. -/
def thermalTrip (s : State) (t : Nat) : State :=
  if t < 105 then s
  else
    let hot := { s with
      mgmt := { s.mgmt with therm := true }
      ctxs := s.ctxs.map (fun e => if e.2.runs.isEmpty then e else (e.1, requestHold e.2 .thermal)) }
    if s.mgmt.therm then hot else postModule hot (thermalEvent true t)

/-- Every sensor reads at most t °C. -/
def thermalClear (s : State) (t : Nat) : State :=
  if 95 ≤ t ∨ s.mgmt.therm = false then s
  else
    let s := { s with
      mgmt := { s.mgmt with therm := false }
      ctxs := s.ctxs.map (fun e => (e.1, dropHold e.2 .thermal)) }
    postModule s (thermalEvent false t)

/-- The THERMAL_TRIP and THERMAL_CLEAR steps: input.value is the highest sensor reading in °C. -/
def execThermalTrip (s : State) : Out := .next (if phodiverRuns s then thermalTrip s s.input.value.toNat else s)
def execThermalClear (s : State) : Out := .next (if phodiverRuns s then thermalClear s s.input.value.toNat else s)

/-! ## Core failure and remapping (R67, R267, R358) -/

/-- The logical row of a core (R2, R60), and its die. -/
def rowOf (n : Nat) : Nat := n / 64
def dieOf (n : Nat) : Nat := rowOf n / 32

/-- A context with a cluster in the row of core n. -/
def touchesRow (x : Ctx) (n : Nat) : Bool := decide (8 * x.pbase < 64 * rowOf n + 64 ∧ 64 * rowOf n < 8 * (x.pbase + x.pcount))

/-- The contexts that core n's row concerns, as a mask. -/
def rowMask (s : State) (n : Nat) : Nat := (s.ctxs.filter (fun e => touchesRow e.2 n)).foldl (fun a e => a + 2 ^ e.1) 0

/-- No spare row is left for the row of failed core n: the contexts that it concerns stay pre-empted, and event 0x74 is posted (R67). -/
def exhaustRow (s : State) (n : Nat) : State :=
  let s := { s with ctxs := s.ctxs.map (fun e => if touchesRow e.2 n then (e.1, requestHold e.2 .spares) else e) }
  postModule s (mkEvent ([0x74#32, word (dieOf n * 2 ^ 8 + rowOf n)] ++ twoWords (rowMask s n)))

/-- CORE_FAILURE: core n issues no more; every context with a cluster in its row is pre-empted, to be remapped while its die has a spare
row. -/
def coreFailure (s : State) (n : Nat) : State :=
  if 8192 ≤ n ∨ s.failed.contains n = true then s
  else
    let s := { s with failed := insertNat n s.failed }
    if phodiverRuns s = false then s
    else if (tgetD s.spares (dieOf n) []).isEmpty then exhaustRow s n
    else { s with ctxs := s.ctxs.map (fun e => if touchesRow e.2 n then (e.1, requestHold e.2 .remap) else e) }

/-- The CORE_FAILURE step: core input.who. -/
def execCoreFailure (s : State) : Out := .next (coreFailure s s.input.who)

/-- The attempt of core n's task is given up: its commands and their locks are forgotten, its mutexes released, its counts
discarded (R397), and what it has sent from its wave on is taken back from the sequence numbers of its pairs (R332); the task t runs
again from its start. -/
def rerunTask (s : State) (n : Nat) (t : Task) : State :=
  let s := countSent s t.ctx n (fun k => decide (t.wave ≤ k)) (· - ·)
  let s := dissolve (reformGang (releaseMutexes (leaveMutexes s n) n) (clusterOf n)) n
  let s := (coreAt s n).cmds.foldl (fun s e => releaseLocks s t.ctx n e.1) s
  let s := updRun s t.ctx t.ridx (fun u => { u with ended := tdel u.ended t.t })
  updCtx (updCore s n (fun k =>
    let kept := fun (w : Nat) => decide (t.wave < w) && decide (some w ≠ k.task.map (·.wave))
    { clearTask k with
      next := some { t with rerun := true }, cmds := [], afaults := [], sent := k.sent.filter (fun e => decide (e.1 / 2 ^ 64 < t.wave) || kept (e.1 / 2 ^ 64)) })) t.ctx
    (fun x => { x with rerun := x.rerun + 1 })

/-- Where a core stands in its tasks: the waves to come, from that of the task that it has begun, which then runs again, or that it is to
begin; past end, none. -/
def standing (k : Core) (last : Nat) : List (Nat × Bool) :=
  match k.task, k.next with
  | some a, _ => (a.wave, true) :: a.after
  | none, some b => (b.wave, b.rerun) :: b.after
  | none, none => [(last, false)]

/-- The tasks of the cluster that run again with core n's: with an array join accepted, all of its wave (R267). A core that has
retired its task of the wave runs it again, with its NDONE taken back, and goes on from where it stood: the tasks that it has retired
since do not run again, and one that it has begun does, from its start. A task of the wave that a fatal trap ended, which NDONE does not
count, runs again too, and its core starts no further wave; one whose core a fatal trap had ended before it does not (log 55). -/
def rerunWave (s : State) (n : Nat) (t : Task) : State :=
  if (coreAt s n).acount = 0 then rerunTask s n t
  else
    match (ctxAt s t.ctx).bind (fun x => (runAt x t.ridx).map (fun u => (x, u))) with
    | none => s
    | some (x, u) =>
      (clusterCores (clusterOf n)).foldl (fun s m =>
        let ws := fun i => u.copy.getD i 0#32
        match taskAt t.ctx t.ridx ws (prel x m - 8 * clBase ws) t.wave with
        | none => s
        | some v =>
          let k := coreAt s m
          match standing k (tileCount ws) with
          | [] => s
          | (w, b) :: rest =>
            if w < t.wave ∨ (w = t.wave ∧ k.task.isNone = true) then s
            else if w = t.wave then rerunTask s m { v with after := rest }
            else
              let idle := k.task.isNone && k.next.isNone
              let again := rerunTask s m { v with after := (w, b) :: rest }
              if idle && trappedIn s t m (· < v.t) then s
              else if idle && trappedIn s t m (· = v.t) then again
              else setStatus again t.ctx x t.ridx (recNdone again t.ctx x t.ridx - 1) 0 3) s

/-- The context that the failure of core n concerns: its task's, else one whose partition holds the core. -/
def failureCtx (s : State) (n : Nat) : Option (Nat × Ctx) :=
  match taskEnv s n with
  | some (t, x, _) => some (t.ctx, x)
  | none => s.ctxs.find? (fun e => inPart e.2 n)

/-- Event 0x73. -/
def failureEvent (s : State) (n : Nat) : Event :=
  match taskEnv s n, failureCtx s n with
  | some (t, x, u), _ => mkEvent [0x73#32, word (t.ctx % 64 * 2 ^ 24 + t.ridx % 2 ^ 24), u.copy.getD 0 0#32, word t.t, word (prel x n)]
  | none, some (c, x) => mkEvent [0x73#32, word (c % 64 * 2 ^ 24), 0#32, 0#32, word (prel x n)]
  | none, none => mkEvent [0x73#32]

/-- What a remap finds of a failed core before it moves the row: its task, the context that its failure concerns, and its event. -/
structure FailedCore where
  core  : Nat
  task  : Option Task
  owner : Option Nat
  event : Event

/-- The task of a failed core runs again, unless it is to do so already, and its event is posted. -/
def recoverCore (s : State) (f : FailedCore) : State :=
  let s := match f.task with
    | some t => if (coreAt s f.core).task = some t then rerunWave s f.core t else s
    | none => s
  match f.owner with
  | some c => postCtx s c f.event
  | none => postModule s f.event

/-- Some failed row that concerns a context waits to be remapped. -/
def remapDue (s : State) (x : Ctx) : Bool := s.failed.any (fun n => touchesRow x n && !(tgetD s.spares (dieOf n) []).isEmpty)

/-- Some failed row that concerns a context has no spare left. -/
def wantsSpare (s : State) (x : Ctx) : Bool := s.failed.any (fun n => touchesRow x n && (tgetD s.spares (dieOf n) []).isEmpty)

/-- The first core of every failed row of a die. -/
def failedRows (s : State) (die : Nat) : List Nat :=
  ((s.failed.filter (fun k => decide (dieOf k = die))).map (fun k => 64 * rowOf k)).eraseDups

/-- ROW_REMAP of failed core n, once every context with a cluster in its row has halted: the lowest spare row of the die takes the
place of its row (R61), and with it that of every failed core of the row, and its 64 channels are copied (R358); the granules of bad, those of their slices that could not be
read, are poisoned; their tasks run again; an event 0x73 is posted for each. Where that was the last spare, the other failed rows of
the die are without one. The hold of contexts ends which no other remap concerns. -/
def rowRemap (s : State) (n : Nat) (bad : List Nat) : State :=
  match tgetD s.spares (dieOf n) [] with
  | [] => s
  | p :: rest =>
    if s.failed.contains n = false ∨ s.ctxs.any (fun e => touchesRow e.2 n && moving e.2) = true then s
    else
      let gone := s.failed.filter (fun k => decide (rowOf k = rowOf n))
      let what := gone.map (fun k =>
        ({ core := k, task := (coreAt s k).task, owner := (failureCtx s k).map Prod.fst, event := failureEvent s k } : FailedCore))
      let s := { s with
        rows := tset s.rows (rowOf n) p, spares := tset s.spares (dieOf n) rest
        failed := s.failed.filter (fun k => decide (rowOf k ≠ rowOf n))
        poison := (bad.filter (fun g => gone.contains (g / 2 ^ 17))).foldl (fun l g => insertNat g l) s.poison }
      let s := what.foldl recoverCore (sweepRows s ((List.range 64).map (64 * rowOf n + ·)))
      let s := if rest = [] then (failedRows s (dieOf n)).foldl exhaustRow s else s
      { s with ctxs := s.ctxs.map (fun e => if remapDue s e.2 then e else (e.1, dropHold e.2 .remap)) }

/-- The ROW_REMAP step: core input.who, unreadable granules input.list. -/
def execRowRemap (s : State) : Out := .next (if phodiverRuns s then rowRemap s s.input.who s.input.list else s)

/-- LANE_FAILURE (R68) of a DRAM channel or of one direction of a link: the contexts that use it are held while its lane is replaced. A
link without a spare lane in that direction goes out of service; a DRAM channel always has one (log 32). -/
def laneFailure (s : State) (dram : Bool) (l dir : Nat) : State :=
  if dram = false ∧ spareLanes s l dir = 0 then linkOut s l
  else
    let e := (dram, l, dir)
    let s := if dram then s else takeSpare s l dir
    replaceLanes { s with
      lanes := s.lanes ++ [e]
      ctxs := s.ctxs.map (fun k => if usesLane s e k.1 k.2 then (k.1, requestHold k.2 .lane) else k) }

/-- The LANE_FAILURE step: the DRAM channel of core input.who (input.flag), or link input.who in the outgoing direction (input.sub 0) or
the incoming one (1). -/
def execLaneFailure (s : State) : Out :=
  .next (if phodiverRuns s then laneFailure s s.input.flag (if s.input.flag then s.input.who % 8192 else s.input.who % 16) (s.input.sub % 2) else s)

end Sys2Proof.Machine
end

