-- ==== Sys2Proof/Machine/Admin.lean ====
section
/-! DEFINITION. Module registers, the warm reset (01, R6, R13, R66), and the MBOX commands that create, bind, debug, load the handler
of, and retire a context (R23, R120, R345, R404). -/

namespace Sys2Proof.Machine

/-! ## CREATE and BIND (R23, R49, R50) -/

/-- The 4 KiB units of a channel, from its start, that the pages of all contexts reach (R226). -/
def mappedUnits (s : State) (core : Nat) : Nat :=
  s.ctxs.foldl (fun a e =>
    e.2.pages.foldl (fun a p =>
      let first := logical e.2 (pageCh p)
      if p.space = 2 ∧ first ≤ core ∧ core < first + pageN p then
        max a (pageOff p + (pageLen p / 4096 + pageN p - 1 - (core - first)) / pageN p)
      else a) a) 0

/-- Some channel of the partition has no room for further units, given for each of its cores. -/
def noRoom (s : State) (pbase pcount : Nat) (units : Nat → Nat) : Bool :=
  (List.range (8 * pcount)).any (fun k =>
    decide (8192 < mappedUnits s (8 * pbase + k) + reservedUnits s (8 * pbase + k) + units k))

/-- The lowest free context number. -/
def freeCtx (s : State) : Nat := ((List.range 64).find? (fun c => (ctxAt s c).isNone)).getD 64

/-- The status of CREATE: the layout of its arguments, then the table of R23 in its order. -/
def createStatus (s : State) (arg : Nat → Word) : Nat :=
  let num := (arg 0).toNat
  let pcount := field (arg 1) 31 16
  let pbase := field (arg 1) 15 0
  let share := (arg 2).getLsbD 1
  let cls := (arg 2).getLsbD 2
  let fn := field (arg 2) 7 4
  let clen := (arg 3).toNat
  let spill := if share then 512 else 0
  let caddy := fun k => (clen / 4096 + 8 * pcount - 1 - k) / (8 * pcount)
  if field (arg 0) 31 8 ≠ 0 ∨ field (arg 2) 31 8 ≠ 0 ∨ (arg 2).getLsbD 3 = true ∨ (cls = true ∧ share = false) then 0x01
  else if pcount = 0 ∨ 1024 < pbase + pcount ∨ 64 ≤ s.ctxs.length then 0x31
  else if s.ctxs.any (fun e => decide (e.2.pbase < pbase + pcount ∧ pbase < e.2.pbase + e.2.pcount) &&
      !(share && e.2.share && decide (e.2.cls ≠ cls))) = true then 0x32
  else if share = true ∧ noRoom s pbase pcount (fun _ => spill) = true then 0x33
  else if clen = 0 ∨ clen % 65536 ≠ 0 ∨ 2 ^ 30 < clen ∨ noRoom s pbase pcount (fun k => spill + caddy k) = true then 0x34
  else if num ≠ 0xFF ∧ (63 < num ∨ (ctxAt s num).isSome = true) then 0x35
  else if fn ≠ 0xF ∧ s.boot.functions.contains fn = false then 0x36
  else 0

/-- A context as CREATE makes it. -/
def newCtx (arg : Nat → Word) : Ctx :=
  let fn := field (arg 2) 7 4
  { pbase := field (arg 1) 15 0, pcount := field (arg 1) 31 16, det := !(arg 2).getLsbD 0, share := (arg 2).getLsbD 1
    cls := (arg 2).getLsbD 2, func := if fn = 0xF then none else some fn, clen := (arg 3).toNat, hdr := none, groups := [], gruns := []
    cps := [], journal := [], nextAcc := 0, doneseq := [], queues := [], runs := [], cgen := 0, rtrack := [], opt := [], pages := []
    faultNo := 0, faults := [], far := [], hcode := [], hmask := 0, debug := false, halt := .running, froze := 0, holds := [], preq := []
    active := false, saved := none, spills := 0, counters := [], rerun := 0, job := none, ranks := [], pseq := [], rseq := []
    tracing := false, filter := none, fcounts := [], ring := [], pool := [] }

/-- The caddy region of context c is zero (R25). -/
def zeroCaddy (s : State) (c : Nat) : State :=
  { s with caddy := eraseRange s.caddy (caddyKey c 0) (2 ^ 30)
           dpoison := s.dpoison.filter (fun g => !decide (caddyGran c 0 ≤ g ∧ g < caddyGran (c + 1) 0)) }

/-- What holds a new context from its start: a row of its partition that is to be remapped or has no spare left (R67), or a lane of one
of its channels that is to be replaced (R68). -/
def birthHolds (s : State) (c : Nat) (x : Ctx) : List HoldBy :=
  (if remapDue s x then [.remap] else []) ++ (if wantsSpare s x then [.spares] else []) ++
    (if s.lanes.any (fun e => usesLane s e c x) then [.lane] else [])

/-- CREATE; the results are CTX, BAR2OFF and CADDYVA. -/
def execCreate (s : State) : Out :=
  serve s 0x10 .owner false (fun s _ arg =>
    let st := createStatus s arg
    if st = 0 then
      let c := if (arg 0).toNat = 0xFF then freeCtx s else (arg 0).toNat
      let x := newCtx arg
      let holds := birthHolds s c x
      let x := { x with holds := holds, halt := if holds = [] then .running else .held }
      (openCaddy (setCtx (zeroCaddy s c) c x) c x 0 x.clen, 0x00, [word c] ++ twoWords (c * 2 ^ 30) ++ twoWords caddyVA)
    else (s, st, []))

/-- BIND. -/
def execBind (s : State) : Out :=
  serve s 0x12 .owner true (fun s _ arg =>
    let c := (arg 0).toNat
    let fn := (arg 1).toNat
    match ctxAt s c with
    | none => (s, 0x82, [])
    | some x =>
      if fn ≠ 0xF ∧ s.boot.functions.contains fn = false then (s, 0x36, [])
      else if anyLive x then (s, 0x37, [])
      else (setCtx s c { x with func := if fn = 0xF then none else some fn }, 0x00, []))

/-! ## Debug sessions (R120) -/

/-- Core n, held at brk, goes on at the instruction after it. -/
def debugGo (s : State) (n : Nat) : State :=
  updCore s n (fun c => if c.dbgHeld then { c with dbgHeld := false, wait := none, pc := c.pc + 4#32 } else c)

/-- DEBUG: attach or detach. -/
def execDebug (s : State) : Out :=
  serve s 0x30 .owner true (fun s _ arg =>
    let c := (arg 0).toNat
    match ctxAt s c with
    | none => (s, 0x82, [])
    | some x =>
      if 2 ≤ (arg 1).toNat then (s, 0x01, [])
      else if arg 1 = 1#32 then (setCtx s c { x with debug := true }, 0x00, [])
      else
        let s := withUnits s c (fun s => (s.cores.filter (fun e => inPart x e.1)).foldl (fun s e => debugGo s e.1) s)
        (updCtx s c (fun x => { x with debug := false }), 0x00, []))

/-- Core n of context c is held at brk: in place, or in the spill areas. -/
def heldAtBrk (s : State) (x : Ctx) (n : Nat) : Bool :=
  match x.saved with
  | some v => (tgetD v.cores n Core.reset).dbgHeld
  | none => (coreAt s n).dbgHeld

/-- DBGCONT. -/
def execDbgcont (s : State) : Out :=
  serve s 0x31 .owner true (fun s _ arg =>
    let c := (arg 0).toNat
    let k := (arg 1).toNat
    match ctxAt s c with
    | none => (s, 0x82, [])
    | some x =>
      if k < pcores x ∧ heldAtBrk s x (logical x k) = true then (withUnits s c (fun s => debugGo s (logical x k)), 0x00, [])
      else (s, 0x3A, []))

/-! ## HLOAD (R345) -/

/-- HLOAD: context, byte offset in the code area, length in parcels, cause mask. -/
def execHload (s : State) : Out :=
  serve s 0x60 .owner true (fun s _ arg =>
    let c := (arg 0).toNat
    let off := (arg 1).toNat
    let len := (arg 2).toNat
    match ctxAt s c with
    | none => (s, 0x82, [])
    | some x =>
      if anyLive x then (s, 0x61, [])
      else if len = 0 ∨ 2048 < len ∨ off % 2 ≠ 0 ∨ codelen x < off + 2 * len then (s, 0x62, [])
      else
        let code := (List.range len).map (fun j => BitVec.ofNat 16 (readLE s.caddy (caddyKey c (codeoff x + off + 2 * j)) 2))
        let s := openCaddy s c x (codeoff x + off) (2 * len)
        let x := { x with hcode := code, hmask := arg 3 }
        ((partCores x).foldl (fun s n => loadHandler s x n) (setCtx s c x), 0x00, []))

/-! ## RETIRE (R53, R375, R404) -/

/-- The live records of a context fail with cause 0xA; their running tasks add their shadows (R53, R395). -/
def failAll (s : State) (c : Nat) (x : Ctx) : State :=
  (x.journal.filter (fun j => decide (j.outcome = .pending))).foldl (fun s j => failRecord s c j.ridx 0xA) s

/-- The weight regions of a cluster on which the strainer works. -/
def workRegions (o : OptUnit) : List Nat := (o.regions.filter (fun e => e.2.work.isSome)).map Prod.fst

/-- The strainer and the optimiser engine of cluster k run until they rest. -/
def restOpt : Nat → State → Nat → Nat → State
  | 0, s, _, _ => s
  | f + 1, s, c, k =>
    let s := (workRegions (unitOf s c k)).foldl (fun s we => strainerAction s c k we) s
    restOpt f (cardStart (cardComplete s c k) c k) c k

/-- Every engine of the partition runs until it is idle or can go no further. What the halt of context c has stopped runs too (log 33). -/
def restEngines (s : State) (c : Nat) (x : Ctx) : State :=
  let s := updCtx s c (fun y => { y with halt := .running })
  let s := (partCores x).foldl (fun s n =>
    (coreAt s n).cmds.foldl (fun s e => completeCmd e.2.kind s n e.1) s) s
  let s := (partClusters x).foldl exchangeComplete s
  let s := (partClusters x).foldl (fun s k => restOpt 64 s c k) s
  updCtx s c (fun y => { y with halt := x.halt })

/-- An engine of the partition of context c is not idle (R404): it has a command or a card of c, or of another context that moves. -/
def enginesBusy (s : State) (c : Nat) (x : Ctx) : Bool :=
  let cores := match x.saved with
    | some v => v.cores
    | none => s.cores
  let going := fun (cs : Table Core) (d : Nat) => cs.any (fun e => inPart x e.1 && e.2.cmds.any (fun k => decide (k.2.ctx = d) && k.2.joined))
  going cores c || x.opt.any (fun e => cardsGoing e.2) ||
    s.ctxs.any (fun y => decide (y.1 ≠ c) && moving y.2 &&
      (going s.cores y.1 || y.2.opt.any (fun e => partHas x e.1 && cardsGoing e.2)))

/-- The OPEN promises of a cluster in ascending (WE, TICKET). -/
def openPromises (o : OptUnit) : List Nat :=
  let js := (o.promises.filter (fun e => decide (e.2.state = .open_))).map Prod.fst
  js.foldr (insertBy (fun j => 65536 * (promiseAt o j).we + (promiseAt o j).ticket)) []

/-- The actions on region we that retirement applies, one promise after another. -/
def retireRegion : Nat → State → Nat → Nat → Nat → State
  | 0, s, _, _, _ => s
  | f + 1, s, c, k, we =>
    let s := strainLoop true 65 s c k we
    let s := updRegion s c k we (fun r => { r with work := r.work.map (fun w => { w with retire := true }) })
    retireRegion f (strainerAction s c k we) c k we

/-- Open promises expire as R375 gives. -/
def retirePromises (s : State) (c k : Nat) : State :=
  let js := openPromises (unitOf s c k)
  let s := js.foldl (fun s j => expireOne s c k j none) s
  ((unitOf s c k).promises.map (fun e => e.2.we)).eraseDups.foldl (fun s we => retireRegion 65 s c k we) s

/-- The memory that a context's pages map becomes zero: DRAM of SPACE 2, and host memory of SPACE 3. -/
def zeroPages (s : State) (x : Ctx) : State :=
  x.pages.foldl (fun s p =>
    if p.space = 2 then
      let hit := fun (key per unit : Nat) =>
        let core := key / per
        let first := logical x (pageCh p)
        let u := key % per / unit
        decide (first ≤ core ∧ core < first + pageN p ∧ pageOff p ≤ u ∧
          u < pageOff p + (pageLen p / 4096 + pageN p - 1 - (core - first)) / pageN p)
      { s with dram := s.dram.filter (fun e => !hit e.1 (2 ^ 25) 4096), dpoison := s.dpoison.filter (fun g => !hit g (2 ^ 21) 256) }
    else { s with host := eraseRange s.host (4096 * pageOff p) (pageLen p) }) s

/-- The scratchpad and the metadata of the clusters that f selects become zero. -/
def zeroSlices (s : State) (f : Nat → Bool) : State :=
  { s with
    slice := s.slice.filter (fun e => !f (clusterOf (e.1 / 2 ^ 21))), gmeta := s.gmeta.filter (fun e => !f (clusterOf (e.1 / 2 ^ 17)))
    conf := s.conf.filter (fun e => !f (clusterOf (e.1 / 2 ^ 15))), poison := s.poison.filter (fun g => !f (clusterOf (g / 2 ^ 17))) }

/-- What is loaded of context c in an instruction memory is forgotten, since its number may be used again. -/
def forgetImage (c : Nat) (k : Core) : Core := if (k.image.map (·.ctx)) = some c then { k with image := none, imem := [] } else k

/-- Steps 1 and 2 of R404: records fail, and engines go on until they rest. -/
def retireStop (s : State) (c : Nat) : State :=
  match ctxAt s c with
  | none => s
  | some x => restEngines (failAll s c x) c x

/-- Steps 3 to 5 of R404: promises expire, and the final snapshot is taken. -/
def retireWork (s : State) (c nonce : Nat) : State :=
  match ctxAt s c with
  | none => s
  | some x =>
    let s := (partClusters x).foldl (fun s k => retirePromises s c k) s
    match ctxAt s c with
    | none => s
    | some x => signRecord s c (snapshotBytes s c x nonce true)

/-- The clusters of the partition of context c, but for those on which another context runs: their slices and units are its own. -/
def ownClusters (s : State) (c : Nat) (x : Ctx) (k : Nat) : Bool :=
  partHas x k && !(rivals s c x).any (fun e => e.2.active && partHas e.2 k)

/-- Steps 6 and 7 of R404. -/
def freeContext (s : State) (c : Nat) (x : Ctx) : State :=
  let s := sweepRows (zeroSpill (zeroPages s x) c) (partCores x)
  let s := clearClusters (zeroSlices s (ownClusters s c x)) (ownClusters s c x)
  scanAll (replaceLanes { s with
    ctxs := tdel s.ctxs c, cores := s.cores.map (fun e => (e.1, forgetImage c e.2)), packets := s.packets.filter (fun e => decide (e.1 ≠ c)) })

/-- RETIRE: context and nonce; the result is the final SNAPSEQ. While an engine is not idle, the command waits (log 33). -/
def execRetire (s : State) : Out :=
  serveOr s 0x83 .owner true (fun s _ arg =>
    let c := (arg 0).toNat
    let s := withUnits s c (fun s => retireStop s c)
    match ctxAt s c with
    | none => (s, some (0x82, []))
    | some x =>
      if enginesBusy s c x then (s, none)
      else
        let s := withUnits s c (fun s => retireWork s c (ofWords (arg 1) (arg 2)))
        (freeContext s c x, some (0x00, twoWords s.snapSeq)))

/-! ## The warm reset (R13, R66) -/

/-- The scheduler keeps its copies of the armings that a warm reset returns to ARMED (R36, R65). -/
def keepCopies (x : Ctx) : List JEntry :=
  x.journal.map (fun j =>
    match runAt x j.ridx with
    | some u => if u.accNo = j.number then { j with kept := some { copy := u.copy, kernel := u.kernel, layouts := u.layouts } } else j
    | none => j)

/-- What a warm reset leaves of a context: its RELEASED and RUNNING records are ARMED with NDONE 0, their accumulators discarded
(R397); of its holds only the owner's PREEMPT, and the lack of a spare row, go on. -/
def warmCtx (x : Ctx) : Ctx :=
  let stays := (joinHolds x.holds x.preq).filter (fun h => decide (h = .preempt ∨ h = .spares))
  { x with
    journal := keepCopies x
    runs := [], queues := [], gruns := x.gruns.map (fun e => (e.1, { g := 0#16, arrived := [] })), cps := [], rtrack := [], opt := []
    faults := [], far := [], pool := [], halt := if stays = [] then .running else .held, froze := 0, holds := stays, preq := []
    active := false, saved := none }

/-- The records of context c that were released are ARMED again. -/
def rearmRecords (s : State) (c : Nat) (x : Ctx) : State := x.runs.foldl (fun s e => setStatus s c x e.1 0 0 1) s

/-- The records of every context, then the contexts themselves. -/
def warmContexts (s : State) : State :=
  let s := s.ctxs.foldl (fun s e => rearmRecords s e.1 e.2) s
  { s with ctxs := s.ctxs.map (fun e => (e.1, warmCtx e.2)) }

/-- A warm reset begins with stage 0x5 (R13): READY falls, accepted work stops and its records are ARMED again (R66). -/
def warmReset (s : State) : State :=
  let s := warmContexts { s with mgmt := { s.mgmt with stage := 5#4, ready := false, warm := true } }
  (s.lanes.filter (fun e => e.1)).foldl replaceLane { s with
    lanes := [], counting := [], packets := [], cores := s.cores.map (fun e => (e.1, idleCore e.2)) }

/-- A warm reset runs. -/
def warming (s : State) : Bool := s.mgmt.warm && !s.mgmt.ready && phodiverRuns s

/-- The next stage. -/
def toStage (s : State) (k : BitVec 4) : State := { s with mgmt := { s.mgmt with stage := k } }

/-- READY again (R13, R66): dependences are evaluated and records released, of the contexts in ascending number (log 33); the PREEMPT
that is being served is answered; the rows of failed cores are still to be remapped (R67). -/
def warmReady (s : State) : State :=
  let s := { s with
    mgmt := { s.mgmt with ready := true }
    ctxs := s.ctxs.map (fun (e : Nat × Ctx) => if remapDue s e.2 then (e.1, requestHold e.2 .remap) else e) }
  let s := (s.ctxs.map Prod.fst).foldl reschedule s
  (s.ctxs.map Prod.fst).foldl (fun s c =>
    match ctxAt s c with
    | some x => if x.holds.contains .preempt then answerPreempt s c else s
    | none => s) s

/-- The stage of a warm reset that STAGE shows is done (R13). THERM stays as the sensors have it (R5); the logical map stays; every
DRAM row is closed (R410). -/
def warmStage (s : State) : State :=
  if warming s = false then s
  else
    match s.mgmt.stage.toNat with
    | 5 => toStage (reroute (calibrate s)) 6#4
    | 6 =>
      if s.boot.dramOk = false then bootFail s 6 0x07
      else toStage { s with mgmt := { s.mgmt with dramdeg := degraded s }, rowOpen := [] } 7#4
    | 7 => toStage s 8#4
    | 8 =>
      if s.boot.zeroOk = false then bootFail s 8 0x09
      else toStage { s with slice := [], gmeta := [], conf := [], poison := [], clusters := [], marks := [] } 9#4
    | _ => warmReady s

/-- A write to MCTL by master m (R8, R12, R16). -/
def mctlWrite (s : State) (m : Nat) (w : Word) : State :=
  if s.mgmt.ready = false then countDenied s m
  else if isOwner s m = false then countDenied s m
  else if w.getLsbD 0 then warmReset s
  else s

/-- The WARM_RESET step: a write of input.value to MCTL by master input.who. -/
def execWarmReset (s : State) : Out := .next (mctlWrite s s.input.who (s.input.value.truncate 32))

/-! ## Register writes (R6) -/

/-- A write of a width in bytes at an offset of the window by master m. MSTAT, BOOTERR, OWNER, ARMSTAT, EVCNT and EVHEAD are
read only; another width, or an offset that is not listed, drops the write. A write that touches a byte of ARM and is not a single
aligned 64-bit write is malformed (R20). The MBOX words take a write also while the doorbell is 1 (log 56). -/
def registerWrite (s : State) (m off width : Nat) (v : BitVec 64) : State :=
  let w : Word := v.truncate 32
  if off < 0x0108 ∧ 0x0100 < off + width then armWrite s m v (decide (off = 0x0100 ∧ width = 8))
  else if width ≠ 4 then s
  else if off = 0x000C then owncasWrite s m w
  else if off = 0x0010 then deniedWrite s m
  else if off = 0x0014 then mctlWrite s m w
  else if s.mgmt.ready = false then s
  else if off = 0x0200 then doorbell s m w
  else if 0x0204 ≤ off ∧ off < 0x0300 ∧ off % 4 = 0 then setMbox s m ((off - 0x0200) / 4) w
  else if off = 0x0304 then evpopWrite s m w
  else s

/-- The REGISTER_WRITE step: master input.who, offset, width and value. -/
def execRegisterWrite (s : State) : Out :=
  .next (registerWrite s s.input.who s.input.off s.input.width s.input.value)

end Sys2Proof.Machine
end

