-- ==== Sys2Proof/Machine/Control.lean ====
section
/-! DEFINITION. Branches and jumps (R115 to R117) and their compact forms (R80). -/

namespace Sys2Proof.Machine

/-- A conditional branch: to the target where the comparison holds, else to the next instruction (R115). -/
def branch {n : Nat} (t : Word → Word → Bool) (a b : Reg) (off : BitVec n) (s : State) : Body :=
  let c := me s
  if t (rdS c a.toNat) (rdS c b.toNat) then .jump s (target c.pc off) else .ok s

/-- The shape of a branch. -/
def shB (a b : Reg) : Shape := { names := [nS a, nS b] }

def execBeq (a b : Reg) (off : BitVec 12) (s : State) : Out :=
  issue (.beq a b off) (shB a b) (branch (fun x y => decide (x = y)) a b off) s
def execBne (a b : Reg) (off : BitVec 12) (s : State) : Out :=
  issue (.bne a b off) (shB a b) (branch (fun x y => decide (x ≠ y)) a b off) s
def execBlt (a b : Reg) (off : BitVec 12) (s : State) : Out :=
  issue (.blt a b off) (shB a b) (branch (fun x y => x.slt y) a b off) s
def execBge (a b : Reg) (off : BitVec 12) (s : State) : Out :=
  issue (.bge a b off) (shB a b) (branch (fun x y => !x.slt y) a b off) s
def execBltu (a b : Reg) (off : BitVec 12) (s : State) : Out :=
  issue (.bltu a b off) (shB a b) (branch (fun x y => x.ult y) a b off) s
def execBgeu (a b : Reg) (off : BitVec 12) (s : State) : Out :=
  issue (.bgeu a b off) (shB a b) (branch (fun x y => !x.ult y) a b off) s

/-- jal (R116): sD := next pc; pc := pc + 2 sext(off20). -/
def execJal (d : Reg) (o : BitVec 20) (s : State) : Out :=
  issue (.jal d o) { names := [nS d] } (fun s =>
    let c := me s
    .jump (setCore s s.cur (wrS c d.toNat (nextPc c 4))) (target c.pc o)) s

/-- The target of jalr (R117), taken before sD is written. -/
def jalrTarget (x : Word) (i : BitVec 15) : Word := (x + sext i) &&& 0xFFFFFFFE#32

/-- jalr (R117). -/
def jalrBody (len : Nat) (d a : Reg) (i : BitVec 15) (s : State) : Body :=
  let c := me s
  .jump (setCore s s.cur (wrS c d.toNat (nextPc c len))) (jalrTarget (rdS c a.toNat) i)

def execJalr (d a : Reg) (i : BitVec 15) (s : State) : Out :=
  issue (.jalr d a i) { names := [nS d, nS a] } (jalrBody 4 d a i) s

/-- c.beqz, c.bnez and c.jr (R80). -/
def execCBeqz (d : Reg) (o : BitVec 6) (s : State) : Out :=
  issue (.cBeqz d o) { shB d 0#5 with len := 2 } (branch (fun x y => decide (x = y)) d 0#5 o) s
def execCBnez (d : Reg) (o : BitVec 6) (s : State) : Out :=
  issue (.cBnez d o) { shB d 0#5 with len := 2 } (branch (fun x y => decide (x ≠ y)) d 0#5 o) s
def execCJr (d : Reg) (s : State) : Out :=
  issue (.cJr d) { len := 2, names := [nS d] } (jalrBody 2 0#5 d 0#15) s

end Sys2Proof.Machine
end

