-- ==== Sys2Proof/Machine/Convert.lean ====
section
/-! DEFINITION. Data movement (R200), conversions and quantisation (R201 to R206), and the predicate instructions (R207). -/

namespace Sys2Proof.Machine

/-! ## Data movement (R200) -/

/-- Each active lane i of vD takes f i of the source's lanes. -/
def moveRes (f : Nat → Core → Nat → Nat) (d : Reg) (m : Vm) (c : Core) : VRes :=
  let w := intWidth m.w
  { writes := [.v d.toNat (mapLanes w (predOf c m) (rdV c d.toNat) (f w c))] }

/-- vsel: every lane takes a or b. -/
def vselRes (d a b : Reg) (m : Vm) (c : Core) : VRes :=
  let w := intWidth m.w
  let p := predOf c m
  { writes := [.v d.toNat (packLanes w ((List.range (256 / w)).map (fun i =>
      if activeLane p w i then laneOf (rdV c a.toNat) w i else laneOf (rdV c b.toNat) w i)))] }

def execVsel (d a b : Reg) (m : Vm) (s : State) : Out :=
  issue (.vsel d a b m) (shVVV d a b m) (vecBody m a b (vselRes d a b m)) s

/-- vperm: lane b[i] of a, or 0. -/
def permLane (a b : Reg) (w : Nat) (c : Core) (i : Nat) : Nat :=
  let k := laneOf (rdV c b.toNat) w i
  if k < 256 / w then laneOf (rdV c a.toNat) w k else 0

def execVperm (d a b : Reg) (m : Vm) (s : State) : Out :=
  issue (.vperm d a b m) (shVVV d a b m) (vecBody m a b (moveRes (permLane a b) d m)) s

def execVbcast (d a : Reg) (m : Vm) (s : State) : Out :=
  issue (.vbcast d a m) { names := [nV d, nS a, ⟨.p, m.pred.toNat⟩] }
    (vecBody m 0#5 0#5 (moveRes (fun w c _ => (rdS c a.toNat).toNat % 2 ^ w) d m)) s

def execVbcastL (d a : Reg) (k : BitVec 5) (m : Vm) (s : State) : Out :=
  issue (.vbcastL d a k m) (shVV d a m) (vecBody m a 0#5 (moveRes (fun w c _ => laneOf (rdV c a.toNat) w k.toNat) d m)) s

/-- vslide.up and vslide.dn: by m = s[B] lanes. -/
def slideUp (a b : Reg) (w : Nat) (c : Core) (i : Nat) : Nat :=
  let k := (rdS c b.toNat).toNat
  if k ≤ i then laneOf (rdV c a.toNat) w (i - k) else 0
def slideDn (a b : Reg) (w : Nat) (c : Core) (i : Nat) : Nat :=
  let k := (rdS c b.toNat).toNat
  if i + k < 256 / w then laneOf (rdV c a.toNat) w (i + k) else 0

def execVslideUp (d a b : Reg) (m : Vm) (s : State) : Out :=
  issue (.vslideUp d a b m) { names := [nV d, nV a, nS b, ⟨.p, m.pred.toNat⟩] }
    (vecBody m a 0#5 (moveRes (slideUp a b) d m)) s
def execVslideDn (d a b : Reg) (m : Vm) (s : State) : Out :=
  issue (.vslideDn d a b m) { names := [nV d, nV a, nS b, ⟨.p, m.pred.toNat⟩] }
    (vecBody m a 0#5 (moveRes (slideDn a b) d m)) s

/-- vext: lane s[B] of vA into sD. -/
def vextRes (d a b : Reg) (m : Vm) (c : Core) : VRes :=
  let w := intWidth m.w
  let k := (rdS c b.toNat).toNat
  { writes := [sres c d (if k < 256 / w then word (laneOf (rdV c a.toNat) w k) else 0#32)] }

def execVext (d a b : Reg) (m : Vm) (s : State) : Out :=
  issue (.vext d a b m) { names := [nS d, nV a, nS b, ⟨.p, m.pred.toNat⟩] } (vecBody m a 0#5 (vextRes d a b m)) s

/-- vins: sA into lane s[B] of vD. -/
def insLane (d a b : Reg) (w : Nat) (c : Core) (i : Nat) : Nat :=
  if (rdS c b.toNat).toNat = i then (rdS c a.toNat).toNat % 2 ^ w else laneOf (rdV c d.toNat) w i

def execVins (d a b : Reg) (m : Vm) (s : State) : Out :=
  issue (.vins d a b m) { names := [nV d, nS a, nS b, ⟨.p, m.pred.toNat⟩] }
    (vecBody m 0#5 0#5 (moveRes (insLane d a b) d m)) s

/-! ## Lane placement of conversions (R201) -/

/-- The source lane that destination lane j takes for part q, if it takes one. -/
def convLane (ns nd q j : Nat) : Option Nat :=
  if ns < nd then if q * ns ≤ j ∧ j < q * ns + ns then some (j - q * ns) else none
  else some (q * min ns nd + j)

/-- A conversion from lanes of ws bits to lanes of wd bits; f converts a source code. -/
def convRes (ws wd q : Nat) (f : Nat → Nat × FFlags) (cnt : List Nat) (wfld : Nat) (d a : Reg) (m : Vm) (c : Core) : VRes :=
  let p := predOf c m
  let src := rdV c a.toNat
  let old := rdV c d.toNat
  let take := fun j => if activeLane p wd j then convLane (256 / ws) (256 / wd) q j else none
  let rs := (List.range (256 / wd)).map (fun j => (take j).map (fun i => f (laneOf src ws i)))
  { writes := [.v d.toNat (packLanes wd (rs.zipIdx.map (fun e =>
      match e.1 with
      | some r => r.1
      | none => laneOf old wd e.2)))]
    flags := rs.zipIdx.filterMap (fun e => e.1.map (fun r => (e.2, r.2)))
    w := wfld
    counts := cnt.map (fun k => (k, (rs.filter Option.isSome).length)) }

/-- The shape of a conversion. -/
def shConv (d a : Reg) (m : Vm) : Shape := shVV d a m

/-! ## vcvt (R202 to R204) -/

/-- The lane width of a format of R202. -/
def cvtWidth (fmt : Nat) : Nat := if fmt = fmtFP16 ∨ fmt = fmtBF16 then 16 else 8

/-- FP32 to a format of R202. -/
def narrowF (fmt : Nat) (k : Word) (x : Nat) : Nat × FFlags :=
  cvtTo fmt (rmOf k) false (foutOf k) (inVal (ffmt fmtFP32) k x)

/-- A format of R202 to FP32, exactly. FOUT applies to the E8M0 value 2^-127 only. -/
def widenF (fmt : Nat) (k : Word) (x : Nat) : Nat × FFlags :=
  cvtFp (ffmt fmtFP32) (rmOf k) false (foutOf k && decide (fmt = fmtE8M0)) (readVal fmt (finOf k) x)

def execVcvtFN (d a : Reg) (f : BitVec 4) (q : BitVec 2) (m : Vm) (s : State) : Out :=
  issue (.vcvtFN d a f q m) (shConv d a m) (vecBody m a 0#5 (fun c =>
    convRes 32 (cvtWidth f.toNat) q.toNat (narrowF f.toNat c.cr.fctl) [counterOf 3 f.toNat] m.w.toNat d a m c)) s
def execVcvtFW (d a : Reg) (f : BitVec 4) (q : BitVec 2) (m : Vm) (s : State) : Out :=
  issue (.vcvtFW d a f q m) (shConv d a m) (vecBody m a 0#5 (fun c =>
    convRes (cvtWidth f.toNat) 32 q.toNat (widenF f.toNat c.cr.fctl) [counterOf 3 f.toNat] m.w.toNat d a m c)) s

/-- The integer formats of vcvt.i: 0 INT32, 1 INT8 (R203). -/
def cvtIFmt (i : BitVec 3) : Nat := if i = 0#3 then fmtINT32 else fmtINT8

/-- FP32 to an integer, and back. -/
def narrowI (w : Nat) (k : Word) (x : Nat) : Nat × FFlags := cvtInt w (rmOf k) (inVal (ffmt fmtFP32) k x)
def widenI (w : Nat) (k : Word) (x : Nat) : Nat × FFlags :=
  cvtFp (ffmt fmtFP32) (rmOf k) false (foutOf k) (ofInt (intVal w x))

def execVcvtIN (d a : Reg) (i : BitVec 3) (q : BitVec 2) (m : Vm) (s : State) : Out :=
  issue (.vcvtIN d a i q m) (shConv d a m) (vecBody m a 0#5 (fun c =>
    let fmt := cvtIFmt i
    convRes 32 (fmtWidth fmt) q.toNat (narrowI (fmtWidth fmt) c.cr.fctl) [counterOf 3 fmt] m.w.toNat d a m c)) s
def execVcvtIW (d a : Reg) (i : BitVec 3) (q : BitVec 2) (m : Vm) (s : State) : Out :=
  issue (.vcvtIW d a i q m) (shConv d a m) (vecBody m a 0#5 (fun c =>
    let fmt := cvtIFmt i
    convRes (fmtWidth fmt) 32 q.toNat (widenI (fmtWidth fmt) c.cr.fctl) [counterOf 3 fmt] m.w.toNat d a m c)) s

/-- A change of integer width, signed or unsigned, clamping when it narrows. -/
def resizeS (ws wd x : Nat) : Nat := toCode wd (clampS wd (sgn ws x))
def resizeU (_ws wd x : Nat) : Nat := min x (2 ^ wd - 1)

/-- The counter of vcvt.x: its target width; 16 bits count nothing (R394). -/
def cvtXCount (t : BitVec 2) : List Nat :=
  if t = 0#2 then [counterOf 3 fmtINT32] else if t = 2#2 then [counterOf 3 fmtINT8] else []

/-- No flag is set, so none can be trapped. -/
def noFlags (r : VRes) : VRes := { r with flags := [] }

def execVcvtX (d a : Reg) (t q : BitVec 2) (m : Vm) (s : State) : Out :=
  issue (.vcvtX d a t q m) (shConv d a m) (vecBody m a 0#5 (fun c => noFlags
    (convRes (intWidth m.w) (intWidth t) q.toNat (fun x => (resizeS (intWidth m.w) (intWidth t) x, 0#5)) (cvtXCount t) 0 d a m c))) s
def execVcvtXu (d a : Reg) (t q : BitVec 2) (m : Vm) (s : State) : Out :=
  issue (.vcvtXu d a t q m) (shConv d a m) (vecBody m a 0#5 (fun c => noFlags
    (convRes (intWidth m.w) (intWidth t) q.toNat (fun x => (resizeU (intWidth m.w) (intWidth t) x, 0#5)) (cvtXCount t) 0 d a m c))) s

/-! ## Quantisation (R205, R206) -/

/-- The format that W selects. -/
def qntFmt (w : BitVec 2) : Nat := if w = 0#2 then fmtE4M3 else if w = 1#2 then fmtE5M2 else fmtINT8

/-- One lane of vqnt: a / c, rounded once, with saturation. -/
def quantise (fmt : Nat) (k scale : Word) (x : Nat) : Nat × FFlags :=
  let F := ffmt fmtFP32
  let c := inVal F k scale.toNat
  let bad := (if fmt = fmtINT8 then 0 else (ffmt fmt).canon, fNV)
  match c with
  | .fin false cm _ =>
    if cm = 0 then bad
    else
      let v := inVal F k x
      let r := if v.isNan then v else (divVal v c).1
      if fmt = fmtINT8 then cvtInt 8 (rmOf k) r else cvtFp (ffmt fmt) (rmOf k) true (foutOf k) r
  | _ => bad

/-- One lane of vdqnt: value times scale, rounded once. -/
def dequantise (fmt : Nat) (k scale : Word) (x : Nat) : Nat × FFlags :=
  let F := ffmt fmtFP32
  deliver F k (mulVal (readVal fmt (finOf k) x) (inVal F k scale.toNat))

def execVqnt (d a b : Reg) (q : BitVec 2) (m : Vm) (s : State) : Out :=
  issue (.vqnt d a b q m) { names := [nV d, nV a, nS b, ⟨.p, m.pred.toNat⟩] } (vecBody m a 0#5 (fun c =>
    convRes 32 8 q.toNat (quantise (qntFmt m.w) c.cr.fctl (rdS c b.toNat)) [counterOf 3 (qntFmt m.w)] m.w.toNat d a m c)) s
def execVdqnt (d a b : Reg) (q : BitVec 2) (m : Vm) (s : State) : Out :=
  issue (.vdqnt d a b q m) { names := [nV d, nV a, nS b, ⟨.p, m.pred.toNat⟩] } (vecBody m a 0#5 (fun c =>
    convRes 8 32 q.toNat (dequantise (qntFmt m.w) c.cr.fctl (rdS c b.toNat)) [counterOf 3 (qntFmt m.w)] m.w.toNat d a m c)) s

/-! ## Predicate instructions (R207) -/

/-- An instruction of the interlocked class that writes one predicate. -/
def predBody (d : Reg) (f : Core → Word) (s : State) : Body := interlock s [.p d.toNat (f (me s))]

def execPand (d a b : Reg) (s : State) : Out :=
  issue (.pand d a b) { names := [nP d, nP a, nP b] } (predBody d (fun c => rdP c a.toNat &&& rdP c b.toNat)) s
def execPor (d a b : Reg) (s : State) : Out :=
  issue (.por d a b) { names := [nP d, nP a, nP b] } (predBody d (fun c => rdP c a.toNat ||| rdP c b.toNat)) s
def execPnot (d a : Reg) (s : State) : Out :=
  issue (.pnot d a) { names := [nP d, nP a] } (predBody d (fun c => ~~~(rdP c a.toNat))) s
def execPset (d a : Reg) (s : State) : Out :=
  issue (.pset d a) { names := [nP d, nS a] } (predBody d (fun c => rdS c a.toNat)) s

/-- pcount: w is 0 for 8-bit, 1 for 16-bit, 2 for 32-bit lanes. -/
def pcountOf (p : Word) (w : Nat) : Word := word (activeCount p (8 * 2 ^ w))

def execPcount (d a : Reg) (w : BitVec 5) (s : State) : Out :=
  issue (.pcount d a w) { names := [nS d, nP a] }
    (fun s => interlock s [sres (me s) d (pcountOf (rdP (me s) a.toNat) w.toNat)]) s

end Sys2Proof.Machine
end

