-- ==== Sys2Proof/Machine/Matrix.lean ====
section
/-! DEFINITION. The joint matrix array (11, R244 to R268): operand slots and tags, mx forms, gang.mma, gang.join, regeneration,
the operand cache, and fetch gangs (R88 to R93). -/

namespace Sys2Proof.Machine

/-! ## Slots and tags (R246 to R249) -/

/-- The formats of R246. -/
def slotFmts : List Nat :=
  [fmtFP32, fmtFP16, fmtBF16, fmtE4M3, fmtE5M2, fmtE3M2, fmtE2M3, fmtE2M1, fmtDS8, fmtE8M0, fmtPair]

/-- The capacity of a line. -/
def capOf (f : Nat) : Nat := 1024 / fmtWidth f

/-- The code written in tails. -/
def tailOf (f : Nat) : Nat := if f = fmtDS8 then 0x08 else if f = fmtPair then 0x00800000 else if f = fmtE8M0 then 0x7F else 0

/-- Element e of line n of slot k in format f. -/
def slotElem (c : Core) (k f n e : Nat) : Nat :=
  readBits (fun b => c.slots.read (4096 * k + 128 * n + b)) (e * fmtWidth f) (fmtWidth f)

/-- The bytes of a line of codes in format f. -/
def lineBytes (f : Nat) (codes : List Nat) : List Byte :=
  let w := fmtWidth f
  let x := codes.foldr (fun v acc => v % 2 ^ w + 2 ^ w * acc) 0
  (List.range 128).map (fun b => BitVec.ofNat 8 (x / 2 ^ (8 * b)))

/-- Word i of the tag of slot k (R247). -/
def tagWord (c : Core) (k i : Nat) : Word := (tgetD c.tags k { words := [] }).words.getD i 0#32

def tagClm (c : Core) (k : Nat) : Bool := (tagWord c k 0).getLsbD 31
def tagFull (c : Core) (k : Nat) : Bool := (tagWord c k 0).getLsbD 30
def tagPois (c : Core) (k : Nat) : Bool := (tagWord c k 0).getLsbD 29
def tagGen (c : Core) (k : Nat) : Nat := field (tagWord c k 0) 25 16
def tagFmt (c : Core) (k : Nat) : Nat := field (tagWord c k 0) 3 0

/-- Word 0 of a tag. -/
def tagHead (clm full pois : Bool) (gen fmt : Nat) : Word :=
  word ((if clm then 2 ^ 31 else 0) + (if full then 2 ^ 30 else 0) + (if pois then 2 ^ 29 else 0) + gen % 1024 * 2 ^ 16 + fmt % 16)

/-- SLOT (R249). -/
def slotTrap (cause slice slot : Nat) : TrapReq :=
  { cause := .slot, info := word (cause * 2 ^ 24 + slice % 8 * 2 ^ 8 + slot % 64) }

/-- The cause for which a slot is not claimed, full and of format f. -/
def readCause (c : Core) (k f : Nat) : Option Nat :=
  if tagClm c k = false then some 0x01
  else if tagFull c k = false then some 0x02
  else if tagFmt c k ≠ f then some 0x05
  else none

/-- POISON of a slot (R353). -/
def slotPoison (slice slot : Nat) : TrapReq := poisonTrap 0 2 (slice % 8 * 2 ^ 8 + slot % 64)

/-- When GEN of a slot passes from 1,023 to 0, the cache drops the slot's lines (R264): those of slice j. -/
def dropWrapped (c : Core) (j k : Nat) (gen : Nat) : Core :=
  if gen = 1023 then { c with opcache := c.opcache.filter (fun l => !(decide (l.slice = j) && decide (l.slot = k))) } else c

/-- The caches of the cluster's cores drop a slot whose GEN wraps. -/
def genStep (s : State) (n k : Nat) : State :=
  let g := tagGen (coreAt s n) k
  if g = 1023 then (clusterCores (clusterOf n)).foldl (fun s m => updCore s m (fun c => dropWrapped c (slotOf n) k g)) s else s

/-! ## mx.claim and mx.rel (R252) -/

/-- Put the tag words of slot k. -/
def putTag (c : Core) (k : Nat) (ws : List Word) : Core := { c with tags := tset c.tags k { words := ws } }

/-- The words of a tag after the first. -/
def tagRest (c : Core) (k : Nat) : List Word := (List.range 4).map (fun i => tagWord c k (i + 1))

def mxClaimBody (k : Nat) (l : BitVec 4) (s : State) : Body :=
  let c := me s
  if tagClm c k then .trap (slotTrap 0x03 (slotOf s.cur) k)
  else
    let s1 := genStep s s.cur k
    longRes (updMe s1 (fun c => putTag c k (tagHead true false false (tagGen c k + 1) (tagFmt c k) :: tagRest c k))) l []

def mxRelBody (k : Nat) (l : BitVec 4) (s : State) : Body :=
  let c := me s
  if tagClm c k = false then .trap (slotTrap 0x01 (slotOf s.cur) k)
  else longRes (updMe s (fun c => putTag c k (tagHead false false (tagPois c k) (tagGen c k) (tagFmt c k) :: tagRest c k))) l []

def execMxClaim (k : BitVec 6) (l : BitVec 4) (s : State) : Out :=
  issue (.mxClaim k l) { names := [nSlot k.toNat] } (mxClaimBody k.toNat l) s
def execMxRel (k : BitVec 6) (l : BitVec 4) (s : State) : Out :=
  issue (.mxRel k l) { names := [nSlot k.toNat] } (mxRelBody k.toNat l) s

/-! ## The tile that a form moves (R250, R251) -/

/-- An instruction of the matrix unit: it registers a range, multiplies, or writes a slot or a tile. -/
def matrixPending (p : Pending) : Bool :=
  p.lock.isSome || decide (p.kind = .mma) || p.writes.any (fun w =>
    match w with
    | .acc .. | .slot .. => true
    | _ => false)

/-- Instructions of the slot path run one at a time, in program order (R253): the earlier ones have completed. -/
def slotPath (s : State) : State := updMe s (completeIf (fun p => decide (p.kind = .long) && matrixPending p))

/-- A located tile: lines, elements of a line, and coordinates of those inside the extents. -/
structure Tile where
  e     : Entry
  c0    : Nat
  c1    : Nat
  spots : List (Nat × Nat × List Nat)

/-- The tile of 32 lines of cap elements from the origin in register A: element k of line n lies at (c0 + k, c1 + n) by rows,
at (c0 + n, c1 + k) by columns. -/
def tileOf (E : Env) (h a : Reg) (rows : Bool) (cap : Entry → Nat) : Tile :=
  let e := handleEntry E h.toNat
  let x := rdS E.c a.toNat
  let c0 := loHalf x
  let c1 := hiHalf x
  let at_ := fun x y => coordsOf e x y E.c.cr.coord2.toNat E.c.cr.coord3.toNat
  let nx := e.ext 0 - c0
  let ny := e.ext 1 - c1
  { e := e, c0 := c0, c1 := c1
    spots := if rows then
        (List.range (min 32 ny)).flatMap (fun n => (List.range (min (cap e) nx)).map (fun k => (n, k, at_ (c0 + k) (c1 + n))))
      else
        (List.range (min 32 nx)).flatMap (fun n => (List.range (min (cap e) ny)).map (fun k => (n, k, at_ (c0 + n) (c1 + k)))) }

/-- Its coordinates and bit addresses. -/
def Tile.css (t : Tile) : List (List Nat) := t.spots.map (fun q => q.2.2)
def Tile.locs (t : Tile) : List Nat := t.css.map (bitAddr t.e)

/-- The hull that its range lock covers. -/
def Tile.side (E : Env) (t : Tile) (dst : Bool) : Side :=
  { entry := t.e, home := .slice E.n, o := t.css.headD [], f := t.css.getLastD [], dst := dst }

/-- The form of a matrix access: its own slice, and the formats it takes. -/
def tileForm (fmts : List Nat) (E : Env) : Form :=
  { flags := fun _ => none, reach := fun h => if h = .slice E.n then none else some 0x04, fmts := some fmts }

/-- LAYOUT of a matrix form, in its order: 0x01, 0x04, 0x08, 0x03, 0x06, 0x07. odd tells a block format that the form refuses. -/
def tileLayout (E : Env) (fmts : List Nat) (odd : Bool) (t : Tile) : Option TrapReq :=
  let e := t.e
  match entryCause E (tileForm fmts E) e with
  | some k => some (layoutTrap k e 0)
  | none =>
    if odd then some (layoutTrap 0x08 e 0)
    else if e.ext 0 ≤ t.c0 then some (layoutTrap 0x03 e 0)
    else if e.ext 1 ≤ t.c1 then some (layoutTrap 0x03 e 1)
    else
      match outOfRange e (coordsOf e t.c0 t.c1 E.c.cr.coord2.toNat E.c.cr.coord3.toNat) with
      | some d => some (layoutTrap 0x03 e d)
      | none =>
        match t.css.findSome? (companionOut E e) with
        | some d => some (layoutTrap 0x06 e d)
        | none => if t.css.all (fun cs => byteOk (.slice E.n) (bitAddr e cs) e.width) then none else some (layoutTrap 0x07 e 0)

/-- RESOURCE for the bytes of a tile. -/
def tileBytes (h a : Reg) (rows : Bool) (cap : Entry → Nat) (s : State) (n : Nat) : Option TrapReq :=
  match taskEnv s n with
  | some (t, x, u) =>
    let E : Env := { n := n, t := t, x := x, u := u, c := coreAt s n }
    let t := tileOf E h a rows cap
    undeclaredByte E t.e t.css
  | none => none

/-- The overlap of a new range with registered ones, and the room for it (R230): LOCKED in a DET context, else a wait. -/
def rangeGuard (s : State) (E : Env) (r : Side) : Guard :=
  match clashAt s E.x E.n r with
  | some (_, m) => if E.x.det then .trap (lockedTrap E r.entry.num r.home m) else .wait .lock
  | none => if tableRoom s E.x [r] then .pass else .wait .launch

/-- A tile read through a TKT entry waits as a load does (R302). -/
def tilePhase (E : Env) (e : Entry) : Guard := if e.tkt then phaseGuard E e (.slice E.n) else .pass

/-- What guards a read of a tile: NONDET, marks, locks, the trackers of a ticketed region, and through its entry the wait for the group's
release count (R302). -/
def tileReadGuard (s : State) (E : Env) (t : Tile) : Guard :=
  firstGuard
    [Guard.ofTrap (accNondet E .ld t.e (.slice E.n)),
     Guard.ofTrap (markGuard s E t.e (.slice E.n) t.locs),
     rangeGuard s E (t.side E false),
     tilePhase E t.e,
     ticketGuard s E t.e (.slice E.n) t.locs]

/-- The code at line n, element k of a tile, or d past the extents. -/
def Tile.code (s : State) (E : Env) (t : Tile) (n k d : Nat) : Nat :=
  match t.spots.find? (fun q => decide (q.1 = n ∧ q.2.1 = k)) with
  | some q => readElem s E.t.ctx E.x t.e (.slice E.n) (bitAddr t.e q.2.2)
  | none => d

/-- The codes of line n: those inside the extents, which stand first, then tails. -/
def Tile.line (s : State) (E : Env) (t : Tile) (n cap d : Nat) : List Nat :=
  let l := (t.spots.filter (fun q => decide (q.1 = n))).map (fun q => readElem s E.t.ctx E.x t.e (.slice E.n) (bitAddr t.e q.2.2))
  l ++ List.replicate (cap - l.length) d

/-! ## mx.fill (R250) -/

/-- The capacity of a slot line for an entry. -/
def entryCap (e : Entry) : Nat := capOf e.fmt

/-- The tag that a fill leaves. -/
def fillTag (E : Env) (t : Tile) (k : Nat) (rows pois : Bool) : List Word :=
  let e := t.e
  let cs := coordsOf e t.c0 t.c1 E.c.cr.coord2.toNat E.c.cr.coord3.toNat
  let one := word 1
  let ext := word (e.ext 0)
  [tagHead true true pois (tagGen E.c k + 1) e.fmt, word e.stream, canonical e cs, if rows then one else ext, if rows then ext else one]

/-- mx.fill and mx.fill.col. -/
def mxFillBody (rows : Bool) (k : Nat) (h a : Reg) (l : BitVec 4) (s : State) : Body :=
  let s := slotPath s
  withEnv s (fun E =>
    let t := tileOf E h a rows entryCap
    let e := t.e
    match tileLayout E slotFmts (blockFmt e.fmt && (!rows || decide (t.c0 % 24 ≠ 0))) t with
    | some r => .trap r
    | none =>
      let g := firstGuard
        [tileReadGuard s E t, Guard.ofTrap (if tagClm E.c k then none else some (slotTrap 0x01 (slotOf E.n) k))]
      let bytes := (List.range 32).flatMap (fun n => lineBytes e.fmt (t.line s E n (entryCap e) (tailOf e.fmt)))
      let pois := (poisonGuard s E e (.slice E.n) t.locs).isSome
      guarded s g (.ok (pendLock (genStep s E.n k) E.n .long l [.slot k bytes (fillTag E t k rows pois)] 0#5 []
        (some ((t.side E false).lock E.n 0)))))

/-- The shape of a fill. -/
def fillShape (rows : Bool) (k : BitVec 6) (h a : Reg) : Shape :=
  { names := [nSlot k.toNat, nH h, nS a], bytes := tileBytes h a rows entryCap }

def execMxFill (slot : BitVec 6) (h a : Reg) (l : BitVec 4) (s : State) : Out :=
  issue (.mxFill slot h a l) (fillShape true slot h a) (mxFillBody true slot.toNat h a l) s
def execMxFillCol (slot : BitVec 6) (h a : Reg) (l : BitVec 4) (s : State) : Out :=
  issue (.mxFillCol slot h a l) (fillShape false slot h a) (mxFillBody false slot.toNat h a l) s

/-! ## mx.acld, mx.acst, mx.zero (R251) -/

/-- Element (i, j) of accumulator tile t. -/
def accCell (c : Core) (t i j : Nat) : Word := sget 0#32 c.acc (1024 * t + 32 * i + j)

/-- A tile has 32 elements in a row. -/
def accCap (_ : Entry) : Nat := 32

/-- mx.acld. -/
def mxAcldBody (d : Nat) (a h : Reg) (l : BitVec 4) (s : State) : Body :=
  let s := slotPath s
  withEnv s (fun E =>
    let t := tileOf E h a true accCap
    match tileLayout E [fmtFP32] false t with
    | some r => .trap r
    | none =>
      let g := firstGuard [tileReadGuard s E t, Guard.ofTrap (poisonGuard s E t.e (.slice E.n) t.locs)]
      let cells := (List.range 32).flatMap (fun i => (t.line s E i 32 0).map word)
      guarded s g (.ok (pendLock s E.n .long l [.acc d cells false] 0#5 [] (some ((t.side E false).lock E.n 0)))))

/-- The code that mx.acst stores for a cell, with its flags. -/
def acstCode (fmt : Nat) (k x : Word) : Nat × FFlags :=
  if fmt = fmtFP32 then (x.toNat, 0#5)
  else cvtFp (ffmt fmt) (rmOf k) false (foutOf k) (valOf (ffmt fmtFP32) x.toNat)

/-- NONDET of mx.acst. -/
def acstNondet (E : Env) (e : Entry) : Option TrapReq := accNondet E .st e (.slice E.n)

/-- POISON of an accumulator tile (R353). -/
def accPoisonTrap (c : Core) (t : Nat) : Option TrapReq := if c.accPoison.contains t then some (poisonTrap 0 3 t) else none

/-- mx.acst: the tile is read, converted and stored under the range lock. -/
def mxAcstBody (d : Nat) (a h : Reg) (l : BitVec 4) (s : State) : Body :=
  let s := slotPath s
  withEnv s (fun E =>
    let t := tileOf E h a true accCap
    let e := t.e
    match tileLayout E [fmtFP32, fmtFP16, fmtBF16] false t with
    | some r => .trap r
    | none =>
      let home := Home.slice E.n
      let g := firstGuard
        [Guard.ofTrap (acstNondet E e),
         Guard.ofTrap (markGuard s E e home t.locs),
         rangeGuard s E (t.side E true),
         Guard.ofTrap (conflictGuard s E e home t.locs true),
         Guard.ofTrap (accPoisonTrap E.c d)]
      let out := t.spots.map (fun q => (bitAddr e q.2.2, acstCode e.fmt E.c.cr.fctl (accCell E.c d q.1 q.2.1)))
      let s1 := stampAccess s E e home t.locs true
      let s1 := out.foldl (fun s q => writeElem s E.t.ctx E.x e home q.1 q.2.1) s1
      let flags := out.foldl (fun f q => f ||| q.2.2) 0#5
      let counts := if E.c.priv = true ∨ e.fmt = fmtFP32 then [] else [(counterOf 3 e.fmt, out.length)]
      guarded s g (.ok (pendLock (clearPoison s1 e home t.locs) E.n .long l [] flags counts (some ((t.side E true).lock E.n 0)))))

/-- mx.zero. -/
def mxZeroBody (d : Nat) (l : BitVec 4) (s : State) : Body := longRes s l [.acc d (List.replicate 1024 0#32) false]

/-- The shape of mx.acld and mx.acst. -/
def accTileShape (d : BitVec 3) (a h : Reg) : Shape :=
  { names := [nAcc d.toNat, nH h, nS a], bytes := tileBytes h a true accCap }

def execMxAcld (d : BitVec 3) (a h : Reg) (l : BitVec 4) (s : State) : Out :=
  issue (.mxAcld d a h l) (accTileShape d a h) (mxAcldBody d.toNat a h l) s
def execMxAcst (d : BitVec 3) (a h : Reg) (l : BitVec 4) (s : State) : Out :=
  issue (.mxAcst d a h l) (accTileShape d a h) (mxAcstBody d.toNat a h l) s
def execMxZero (d : BitVec 3) (l : BitVec 4) (s : State) : Out :=
  issue (.mxZero d l) { names := [nAcc d.toNat] } (mxZeroBody d.toNat l) s

/-! ## mx.regen (R263) -/

/-- The canonical index of line n, element k of a slot (R260). -/
def slotIdx (c : Core) (slot n k : Nat) : Word := tagWord c slot 2 + word k * tagWord c slot 3 + word n * tagWord c slot 4

/-- ε of line n, element k of a slot for a seed and member. -/
def slotEps (c : Core) (slot n k : Nat) (lo hi memb : Word) : Nat :=
  gauss lo hi (memb.extractLsb' 0 16) ((tagWord c slot 1).extractLsb' 0 16) (slotIdx c slot n k)

/-- One regenerated element: a weight, or ε. -/
def regenElem (eps1 : Bool) (pair eps : Nat) : Nat :=
  if eps1 = false then perturbed (word pair) eps
  else if 2 ^ 24 ≤ pair then 0x7FC00000
  else if pair / 65536 % 256 = 0x80 then 0
  else eps

/-- mx.regen: mode 1 where eps1 holds, transposed where tr holds. -/
def mxRegenBody (tr eps1 : Bool) (od os : Nat) (l : BitVec 4) (s : State) : Body :=
  let s := slotPath s
  let c := me s
  let j := slotOf s.cur
  match readCause c os fmtPair with
  | some k => .trap (slotTrap k j os)
  | none =>
    if tagClm c od = false then .trap (slotTrap 0x01 j od)
    else if tagPois c os then .trap (slotPoison j os)
    else
      let elem := fun n k => regenElem eps1 (slotElem c os fmtPair n k) (slotEps c os n k c.cr.seedlo c.cr.seedhi c.cr.memb)
      let fmt := if eps1 then fmtFP32 else fmtBF16
      let line := fun m => (List.range 32).map (fun e => if tr then elem e m else elem m e)
      let bytes := (List.range 32).flatMap (fun m => lineBytes fmt (line m))
      let tag := [tagHead true true false (tagGen c od + 1) fmt, 0#32, 0#32, 0#32, 0#32]
      let counts := if c.priv then [] else [(counterOf 2 fmt, 1024)]
      .ok (pend (genStep s s.cur od) s.cur .long l [.slot od bytes tag] 0#5 counts)

/-- The shape of mx.regen. -/
def regenShape (od os : BitVec 6) : Shape := { names := [nSlot od.toNat, nSlot os.toNat] }

def execMxRegen (od os : BitVec 6) (l : BitVec 4) (s : State) : Out :=
  issue (.mxRegen od os l) (regenShape od os) (mxRegenBody false false od.toNat os.toNat l) s
def execMxRegenE (od os : BitVec 6) (l : BitVec 4) (s : State) : Out :=
  issue (.mxRegenE od os l) (regenShape od os) (mxRegenBody false true od.toNat os.toNat l) s
def execMxRegenT (od os : BitVec 6) (l : BitVec 4) (s : State) : Out :=
  issue (.mxRegenT od os l) (regenShape od os) (mxRegenBody true false od.toNat os.toNat l) s
def execMxRegenET (od os : BitVec 6) (l : BitVec 4) (s : State) : Out :=
  issue (.mxRegenET od os l) (regenShape od os) (mxRegenBody true true od.toNat os.toNat l) s

/-! ## Formats of gang.mma (R255) -/

/-- The class of a format: 0 F32, 1 H, 2 Q, 3 B. -/
def mmaClass (f : Nat) : Option Nat :=
  if f = fmtFP32 then some 0
  else if f = fmtFP16 ∨ f = fmtBF16 ∨ f = fmtPair then some 1
  else if f = fmtE4M3 ∨ f = fmtE5M2 then some 2
  else if blockFmt f then some 3
  else none

/-- The chunk of a class. -/
def chunkOf (cls : Nat) : Nat := if cls = 3 then 48 else 32

/-- K of R255. -/
def mmaDepth (cls fa fb : Nat) : Nat := chunkOf cls * (min (capOf fa) (capOf fb) / chunkOf cls)

/-- The fields of a scale pointer (R109). -/
def scEn (w : Word) : Bool := w.getLsbD 31
def scWoff (w : Word) : Nat := field w 15 6
def scSlot (w : Word) : Nat := field w 5 0

/-- The class of an instruction's formats, or none where R255 gives ILL. -/
def mmaOk (j : ArrayJoin) : Option Nat :=
  let fa := j.afmt.toNat
  let fb := j.bfmt.toNat
  match mmaClass fa, mmaClass fb with
  | some a, some b =>
    if a = b ∧ fa < 16 ∧ fb < 16 ∧ field j.ascp 30 16 = 0 ∧ field j.bscp 30 16 = 0 then some a else none
  | _, _ => none

/-! ## The product (R151, R152, R258 to R260) -/

/-- One operand side of a slice: the core whose slot is read, the slot, format, scale pointer, seed and member. -/
structure Operand where
  core   : Core
  slot   : Nat
  fmt    : Nat
  scp    : Word
  seedlo : Word
  seedhi : Word
  memb   : Word

/-- Block scales are in use for an operand: EN of a block format. -/
def scaled (fmt : Nat) (scp : Word) : Bool := blockFmt fmt && scEn scp

/-- value() of line n, element k of an operand. -/
def Operand.value (o : Operand) (n k : Nat) : FVal :=
  let code := slotElem o.core o.slot o.fmt n k
  if o.fmt = fmtPair then
    valOf (ffmt fmtBF16) (perturbed (word code) (slotEps o.core o.slot n k o.seedlo o.seedhi o.memb))
  else
    let v := readVal o.fmt false code
    if scaled o.fmt o.scp then
      let e := (o.core.slots.read (4096 * scSlot o.scp + 128 * n + 4 * scWoff o.scp + k / 24)).toNat
      if e = 255 then .nan false
      else
        match v with
        | .fin neg m x => .fin neg m (x + (e : Int) - 127)
        | v => v
    else v

/-- The decoded lines of an operand. -/
def Operand.lines (o : Operand) (k : Nat) : List (List FVal) := (List.range 32).map (fun n => (List.range k).map (o.value n))

/-- The exact sum of products: −0 only when every product is −0. -/
def exactSum : List FVal → FVal
  | [] => .fin false 0 0
  | x :: l => l.foldl (fun a b => (addVal .rne a b).1) x

/-- The products of two lines. -/
def products (a b : List FVal) : List FVal := (a.zip b).map (fun p => (mulVal p.1 p.2).1)

/-- One accumulator element after its chunks, in ascending order. -/
def mmaElem (chunk : Nat) : Nat → Nat → List FVal → List FVal → Nat
  | 0, c, _, _ => c
  | q + 1, c, a, b =>
    let t := exactSum (products (a.take chunk) (b.take chunk))
    mmaElem chunk q (rneFp32 (addVal .rne (valOf (ffmt fmtFP32) c) t).1).1 (a.drop chunk) (b.drop chunk)

/-- The new tile, row by row. -/
def mmaTile (chunk k : Nat) (acc : Nat → Nat → Word) (as bs : List (List FVal)) : List Word :=
  as.zipIdx.flatMap (fun r => bs.zipIdx.map (fun c => word (mmaElem chunk (k / chunk) (acc r.2 c.2).toNat r.1 c.1)))

/-! ## Array joins (R256, R257, R262) -/

/-- The fields of gang.mma: accumulator, slots, SHA and SRC. -/
structure MmaArgs where
  d   : Nat
  oa  : Nat
  ob  : Nat
  src : Option Nat

/-- GANG-MISMATCH (R257). -/
def mismatchTrap (reason mask : Nat) : TrapReq := { cause := .gangMismatch, info := word (reason * 2 ^ 24 + mask % 256) }

/-- The mask of the slots of a cluster for which f holds. -/
def slotMask (f : Nat → Bool) : Nat := ((List.range 8).filter f).foldl (fun a k => a + 2 ^ k) 0

/-- The waiting join of a core, at the array (form = false) or at gang.form. -/
def joinOf (c : Core) (form : Bool) : Option ArrayJoin := if (c.join.map (·.form)) = some form then c.join else none

/-- A core waits at an array join. -/
def atArray (s : State) (n : Nat) : Bool := (joinOf (coreAt s n) false).isSome

/-- What core n samples at its issue (R256). -/
def sampleJoin (c : Core) (form : Bool) (w : Word) : ArrayJoin :=
  { form := form, word := w, afmt := c.cr.afmt, bfmt := c.cr.bfmt, ascp := c.cr.ascp, bscp := c.cr.bscp, seedlo := c.cr.seedlo
    seedhi := c.cr.seedhi, memb := c.cr.memb }

/-- The core waits at its join. -/
def registerJoin (s : State) (n : Nat) (form : Bool) (w : Word) : State :=
  if (joinOf (coreAt s n) form).isSome then s else updCore s n (fun c => { c with join := some (sampleJoin c form w) })

/-- The sampled values of slot k of cluster cl. -/
def joined (s : State) (cl k : Nat) : ArrayJoin := ((coreAt s (8 * cl + k)).join).getD (sampleJoin Core.reset false 0#32)

/-- The first inequality of the eight slices: GANG-MISMATCH 0x01, 0x02 or 0x03. -/
def inequality (s : State) (cl : Nat) (wordsOnly : Bool) : Option TrapReq :=
  let differ := fun (f : ArrayJoin → Word × Word) => slotMask (fun k => decide (f (joined s cl k) ≠ f (joined s cl 0)))
  let m1 := differ (fun j => (j.word, 0#32))
  let m2 := differ (fun j => (j.afmt, j.bfmt))
  let m3 := differ (fun j => (j.ascp, j.bscp))
  if m1 ≠ 0 then some (mismatchTrap 0x01 m1)
  else if wordsOnly then none
  else if m2 ≠ 0 then some (mismatchTrap 0x02 m2)
  else if m3 ≠ 0 then some (mismatchTrap 0x03 m3)
  else none

/-- The slots that slice k reads: each with the slice it lies in, its format and, for a scale slot, its pointer and the blocks
used. oB, oA, then the scale slots in use. -/
def slotsRead (j : ArrayJoin) (a : MmaArgs) (k depth : Nat) : List (Nat × Nat × Nat × Option Nat) :=
  let fa := j.afmt.toNat
  let fb := j.bfmt.toNat
  let ja := a.src.getD k
  [(k, a.ob, fb, none), (ja, a.oa, fa, none)] ++
    (if scaled fa j.ascp then [(ja, scSlot j.ascp, fmtE8M0, some (4 * scWoff j.ascp + depth / 24))] else []) ++
    (if scaled fb j.bscp then [(k, scSlot j.bscp, fmtE8M0, some (4 * scWoff j.bscp + depth / 24))] else [])

/-- SLOT of one slot that is read. -/
def slotReadTrap (s : State) (cl : Nat) (q : Nat × Nat × Nat × Option Nat) : Option TrapReq :=
  match readCause (coreAt s (8 * cl + q.1)) q.2.1 q.2.2.1 with
  | some c => some (slotTrap c q.1 q.2.1)
  | none =>
    match q.2.2.2 with
    | some last => if 128 < last then some (slotTrap 0x04 q.1 q.2.1) else none
    | none => none

/-- Step 3.3 of R256 on slice k: SLOT, then POISON of a slot, then of the accumulator tile. -/
def sliceTrap (s : State) (cl : Nat) (a : MmaArgs) (depth k : Nat) : Option TrapReq :=
  let l := slotsRead (joined s cl k) a k depth
  ((l.findSome? (slotReadTrap s cl)).or
    (l.findSome? (fun q => if tagPois (coreAt s (8 * cl + q.1)) q.2.1 then some (slotPoison q.1 q.2.1) else none))).or
    (accPoisonTrap (coreAt s (8 * cl + k)) a.d)

/-- What a join does with slice k: it accepts, or it traps. -/
inductive JoinEnd where
  | accept (depth cls : Nat)
  | traps (r : Nat → TrapReq)

/-- The checks of R256 step 3. -/
def joinChecks (s : State) (cl : Nat) (args : Option MmaArgs) : JoinEnd :=
  match inequality s cl args.isNone with
  | some r => .traps (fun _ => r)
  | none =>
    match args with
    | none => .accept 0 0
    | some a =>
      let j := joined s cl 0
      match mmaOk j with
      | none => .traps (fun _ => { cause := .ill, info := j.word })
      | some cls =>
        let depth := mmaDepth cls j.afmt.toNat j.bfmt.toNat
        let bad := fun k => (sliceTrap s cl a depth k).isSome
        if (List.range 8).any bad then
          .traps (fun k => (sliceTrap s cl a depth k).getD (mismatchTrap 0x04 (slotMask bad)))
        else .accept depth cls

/-- The lines of an operand come to the front of the cache (R264). -/
def useLine (l : CacheLine) (cache : List CacheLine) : List CacheLine := l :: cache.filter (fun m => decide (m ≠ l))

/-- The lines that 64 KiB hold, the most recently used first. -/
def fitCache : Nat → List CacheLine → List CacheLine
  | _, [] => []
  | room, l :: r => if l.size ≤ room then l :: fitCache (room - l.size) r else []

/-- The cache tags of an operand that needs the infuser or block scales. -/
def cacheLines (s : State) (cl j : Nat) (o : Operand) (sideA : Bool) (depth : Nat) : List CacheLine :=
  if o.fmt = fmtPair ∨ scaled o.fmt o.scp = true then
    let c := coreAt s (8 * cl + j)
    (List.range 32).map (fun n =>
      { slice := j, slot := o.slot, gen := tagGen c o.slot, sideA := sideA, fmt := o.fmt
        scale := if scaled o.fmt o.scp then some (scSlot o.scp, tagGen c (scSlot o.scp), scWoff o.scp) else none
        seedlo := o.seedlo, seedhi := o.seedhi, memb := o.memb, line := n, size := 4 * depth })
  else []

/-- The operands of slice k. -/
def operandA (s : State) (cl : Nat) (a : MmaArgs) (k : Nat) : Operand :=
  let j := joined s cl k
  { core := coreAt s (8 * cl + a.src.getD k), slot := a.oa, fmt := j.afmt.toNat, scp := j.ascp, seedlo := j.seedlo
    seedhi := j.seedhi, memb := j.memb }
def operandB (s : State) (cl : Nat) (a : MmaArgs) (k : Nat) : Operand :=
  let j := joined s cl k
  { core := coreAt s (8 * cl + k), slot := a.ob, fmt := j.bfmt.toNat, scp := j.bscp, seedlo := j.seedlo, seedhi := j.seedhi
    memb := j.memb }

/-- The counts of an accepted gang.mma on one slice (R268, R394). -/
def mmaCounts (fa fb depth : Nat) : List (Nat × Nat) :=
  let pairs := (if fa = fmtPair then 1 else 0) + (if fb = fmtPair then 1 else 0)
  [(counterOf 0 fa, 1024 * depth)] ++ (if pairs = 0 then [] else [(counterOf 2 fmtBF16, 32 * depth * pairs)])

/-- Acceptance of gang.mma on slice k: t is the state at the join. -/
def acceptMma (t s : State) (cl : Nat) (a : MmaArgs) (depth cls : Nat) (l : BitVec 4) (k : Nat) : State :=
  let n := 8 * cl + k
  let oa := operandA t cl a k
  let ob := operandB t cl a k
  let cells := mmaTile (chunkOf cls) depth (accCell (coreAt t n) a.d) (oa.lines depth) (ob.lines depth)
  let tags := cacheLines t cl (a.src.getD k) oa true depth ++ cacheLines t cl k ob false depth
  let counts := if (coreAt t n).priv then [] else mmaCounts oa.fmt ob.fmt depth
  pend (updCore s n (fun c =>
    { c with acount := c.acount + 1, join := none, opcache := fitCache 65536 (tags.foldl (fun m x => useLine x m) c.opcache) }))
    n .mma l [.acc a.d cells false] 0#5 counts

/-- Acceptance of gang.join on core n: earlier matrix work of every participant has completed. -/
def acceptJoin (s : State) (n : Nat) (d : Reg) (l : BitVec 4) : State :=
  let s := updCore s n (fun c => { c with acount := c.acount + 1, join := none })
  let c := coreAt s n
  pend s n .long l [sres c d (word c.acount)] 0#5 []

/-- Every core of a list but n traps; n's own trap is left to its issue. -/
def trapOthers (s : State) (n : Nat) (ns : List Nat) (r : Nat → TrapReq) : State :=
  (ns.filter (fun m => m != n)).foldl (fun s m => takeTrap s m (r (slotOf m))) s

/-- An array-joining instruction of core E.n, at its issue or while it waits (R256). args: the fields of gang.mma; d: sD of
gang.join. -/
def arrayBody (w : Word) (args : Option MmaArgs) (d : Reg) (l : BitVec 4) (s : State) : Body :=
  withEnv s (fun E =>
    let n := E.n
    let cl := clusterOf n
    let ns := clusterCores cl
    let s := registerJoin s n false w
    let waiting := ns.filter (fun m => holdsWave s E.t m && atArray s m)
    if ns.all (mayHold s E.t) = false then
      let mask := slotMask (fun k => mayHold s E.t (8 * cl + k))
      .fault (trapOthers s n waiting (fun _ => mismatchTrap 0x05 mask)) (mismatchTrap 0x05 mask)
    else if waiting.length ≠ 8 then .wait .arrayJoin s
    else
      match joinChecks s cl args with
      | .traps r => .fault (trapOthers s n waiting r) (r (slotOf n))
      | .accept depth cls =>
        match args with
        | some a =>
          let go := fun (t : State) k => acceptMma s t cl a depth cls l k
          let t := ((List.range 8).filter (fun k => decide (8 * cl + k ≠ n))).foldl (fun t k =>
            settleBody t (8 * cl + k) 4 (.ok (go t k))) s
          .ok (go t (slotOf n))
        | none =>
          let s := ns.foldl (fun s m => updCore s m (completeIf matrixPending)) s
          let t := (ns.filter (fun m => m != n)).foldl (fun t m => settleBody t m 4 (.ok (acceptJoin t m d l))) s
          .ok (acceptJoin t n d l))

/-- The names of gang.mma: accD, oA, oB, then the scale slots with EN = 1. -/
def mmaShape (c : Core) (d : BitVec 3) (oa ob : BitVec 6) : Shape :=
  { names := [nAcc d.toNat, nSlot oa.toNat, nSlot ob.toNat] ++
      (if scEn c.cr.ascp then [nSlot (scSlot c.cr.ascp)] else []) ++ (if scEn c.cr.bscp then [nSlot (scSlot c.cr.bscp)] else []) }

def execGangMma (d : BitVec 3) (oa ob : BitVec 6) (l : BitVec 4) (s : State) : Out :=
  issue (.gangMma d oa ob l) (mmaShape (me s) d oa ob)
    (arrayBody (encodeWord (.gangMma d oa ob l)) (some { d := d.toNat, oa := oa.toNat, ob := ob.toNat, src := none }) 0#5 l) s
def execGangMmaSh (d : BitVec 3) (oa ob : BitVec 6) (src : BitVec 3) (l : BitVec 4) (s : State) : Out :=
  issue (.gangMmaSh d oa ob src l) (mmaShape (me s) d oa ob)
    (arrayBody (encodeWord (.gangMmaSh d oa ob src l))
      (some { d := d.toNat, oa := oa.toNat, ob := ob.toNat, src := some src.toNat }) 0#5 l) s
def execGangJoinInstruction (d : Reg) (l : BitVec 4) (s : State) : Out :=
  issue (.gangJoinInstruction d l) { names := [nS d] } (arrayBody (encodeWord (.gangJoinInstruction d l)) none d l) s

/-- GANG_MMA_COMPLETION: the oldest gang.mma of core n that is outstanding completes. -/
def mmaCompletion (s : State) (n : Nat) : State := updCore s n (completeFirst (fun p => decide (p.kind = .mma)))

/-- The GANG_MMA_COMPLETION step: core input.who. -/
def execGangMmaCompletion (s : State) : Out := .next (mmaCompletion s s.input.who)

/-! ## Fetch gangs (R88, R92, R93) -/

/-- GCOUNT rises and sD takes the members and the leader. -/
def formed (s : State) (n : Nat) (d : Nat) (members : List Nat) (leader : Nat) : State :=
  updCore s n (fun c =>
    wrS { c with gcount := c.gcount + 1, join := none } d (word (members.foldl (fun a k => a + 2 ^ k) 0 + 256 * leader)))

/-- gang.form. -/
def gangFormBody (w : Word) (d : Reg) (s : State) : Body :=
  withEnv s (fun E =>
    let n := E.n
    let cl := clusterOf n
    match gangOf s n with
    | some g => .ok (formed s n d.toNat g.members g.leader)
    | none =>
      let s := registerJoin s n true w
      let ns := (clusterCores cl).filter (mayHold s E.t)
      let there := fun m => holdsWave s E.t m && (joinOf (coreAt s m) true).isSome && decide ((coreAt s m).gcount = E.c.gcount)
      if ns.all there = false then .wait .gangForm s
      else
        let low := ns.headD n
        let other := fun k => ns.contains (8 * cl + k) && decide ((coreAt s (8 * cl + k)).pc ≠ (coreAt s low).pc)
        if slotMask other ≠ 0 then
          .fault (trapOthers s n ns (fun _ => mismatchTrap 0 (slotMask other))) (mismatchTrap 0 (slotMask other))
        else
          let members := ns.map slotOf
          let dest := fun m => field ((joined s cl (slotOf m)).word) 11 7
          let t := (ns.filter (fun m => m != n)).foldl (fun t m =>
            settleBody t m 4 (.ok (formed t m (dest m) members (slotOf low)))) s
          .ok (formed (updCluster t cl (fun y => { y with gang := some { leader := slotOf low, members := members } })) n d.toNat
            members (slotOf low)))

def execGangForm (d : Reg) (s : State) : Out :=
  issue (.gangForm d) { names := [nS d] } (gangFormBody (encodeWord (.gangForm d)) d) s

/-- gang.split. -/
def execGangSplit (s : State) : Out := issue .gangSplit {} (fun s => .ok (dissolve s s.cur)) s

/-! ## The end of a task (R124, R256) -/

/-- Where fewer than eight cores of a cluster are participants of task t's wave, the cores that wait at an array join trap (R256). -/
def leaveJoins (s : State) (cl : Nat) (t : Task) : State :=
  let ns := clusterCores cl
  if ns.all (mayHold s t) then s
  else
    let mask := slotMask (fun k => mayHold s t (8 * cl + k))
    (ns.filter (fun m => holdsWave s t m && atArray s m)).foldl (fun s m => takeTrap s m (mismatchTrap 0x05 mask)) s

/-- The task of core n retires task.end, and leaves the array joins of its wave. -/
def retireTask (s : State) (n : Nat) : State :=
  match (coreAt s n).task with
  | some t => leaveJoins (endTask s n) (clusterOf n) t
  | none => endTask s n

/-- task.end (R124, R342, R349, R374): it waits for every result, those of window closes included, and for every engine command
and every card that is not held; an undelivered fault of a command traps here; at privileged level the task ends as fatal, its mutexes released
(R310). -/
def taskEndBody (s : State) : Body :=
  let c := me s
  if pendingKind c .window || !c.cmds.isEmpty || !(cardsOf s s.cur).isEmpty then .wait .taskEnd s
  else
    match nextFault c (fun _ => true) with
    | some f => .fault (dropFault s s.cur f) (asyncTrap f)
    | none => if c.priv then .done (fatalStop (releaseMutexes s s.cur) s.cur (endFatal s s.cur)) else .done (retireTask s s.cur)

def execTaskEnd (s : State) : Out := issue .taskEnd { sys := true } taskEndBody s
def execCEnd (s : State) : Out := issue .cEnd { len := 2, sys := true } taskEndBody s

/-! ## fence.sp (R265) -/

/-- Every earlier matrix instruction has completed; the operand cache is dropped. -/
def execFenceSp (s : State) : Out :=
  issue .fenceSp { sys := true } (fun s => longRes (updMe s (fun c => { c with opcache := [] })) 0#4 []) s

end Sys2Proof.Machine
end

