-- ==== Sys2Proof/Machine/Resume.lean ====
section
/-! DEFINITION. The ends of waits: a waiting instruction proceeds when what it waits for has come, or raises the trap of its
watchdog (R63, R128, R167 to R170, R230, R285, R294, R310, R326, R386); results that arrive (R95, R96); deliveries at a boundary
(R79, R225, R348). -/

namespace Sys2Proof.Machine

/-- The meaning of an instruction that may wait at its program counter. -/
def waitExec (i : Instr) (s : State) : Out :=
  match i with
  | .ld d a b h l => execLd d a b h l s
  | .st d a b h l => execSt d a b h l s
  | .ldFe d a b h l => execLdFe d a b h l s
  | .ldFeClr d a b h l => execLdFeClr d a b h l s
  | .stFe d a b h l => execStFe d a b h l s
  | .stFeForce d a b h l => execStFeForce d a b h l s
  | .ldV d a b h l => execLdV d a b h l s
  | .stV d a b h l => execStV d a b h l s
  | .vld d a b h l => execVld d a b h l s
  | .vst d a b h l => execVst d a b h l s
  | .vldFe d a b h l => execVldFe d a b h l s
  | .vldFeClr d a b h l => execVldFeClr d a b h l s
  | .vstFe d a b h l => execVstFe d a b h l s
  | .vstFeForce d a b h l => execVstFeForce d a b h l s
  | .vldV d a b h l => execVldV d a b h l s
  | .vstV d a b h l => execVstV d a b h l s
  | .reclaim a h l => execReclaim a h l s
  | .amoAdd d a h q l => execAmoAdd d a h q l s
  | .amoAnd d a h q l => execAmoAnd d a h q l s
  | .amoOr d a h q l => execAmoOr d a h q l s
  | .amoXor d a h q l => execAmoXor d a h q l s
  | .amoMin d a h q l => execAmoMin d a h q l s
  | .amoMax d a h q l => execAmoMax d a h q l s
  | .amoSwap d a h q l => execAmoSwap d a h q l s
  | .amoCas d a h l => execAmoCas d a h l s
  | .amoIncb d a h l => execAmoIncb d a h l s
  | .amoIncw d a h l => execAmoIncw d a h l s
  | .amoDecnz d a h l => execAmoDecnz d a h l s
  | .amoAddlim d a h l => execAmoAddlim d a h l s
  | .tamoFadd d a h l => execTamoFadd d a h l s
  | .tamoFmax d a h l => execTamoFmax d a h l s
  | .tamoFmin d a h l => execTamoFmin d a h l s
  | .tamoOr d a h l => execTamoOr d a h l s
  | .tamoSkip d a h l => execTamoSkip d a h l s
  | .tfence a h => execTfence a h s
  | .annAmoAdd d a h l => execAnnAmoAdd d a h l s
  | .annAmoAnd d a h l => execAnnAmoAnd d a h l s
  | .annAmoOr d a h l => execAnnAmoOr d a h l s
  | .annAmoXor d a h l => execAnnAmoXor d a h l s
  | .annAmoMin d a h l => execAnnAmoMin d a h l s
  | .annAmoMax d a h l => execAnnAmoMax d a h l s
  | .annAmoSwap d a h l => execAnnAmoSwap d a h l s
  | .annLd d a h l => execAnnLd d a h l s
  | .waitCnt a b n => execWaitCnt a b n s
  | .mtxLock a n => execMtxLock a n s
  | .mtxUnlock a n l => execMtxUnlock a n l s
  | .copyLaunch d l => execCopyLaunch d l s
  | .gatherLaunch d l => execGatherLaunch d l s
  | .exchangeLaunch d l => execExchangeLaunch d l s
  | .msgSend d a l => execMsgSend d a l s
  | .msgSret d a b l => execMsgSret d a b l s
  | .mxFill slot h a l => execMxFill slot h a l s
  | .mxFillCol slot h a l => execMxFillCol slot h a l s
  | .mxAcld d a h l => execMxAcld d a h l s
  | .mxAcst d a h l => execMxAcst d a h l s
  | .prmOpen d a n l => execPrmOpen d a n l s
  | .prmRedeem d a n l => execPrmRedeem d a n l s
  | .prmRedeemT d a n l => execPrmRedeemT d a n l s
  | .optCard d a n l => execOptCard d a n l s
  | .optLdr a n k l => execOptLdr a n k l s
  | .optWait d a l => execOptWait d a l s
  | .prmCancel d a l => execPrmCancel d a l s
  | .prmQuery d a k l => execPrmQuery d a k l s
  | .barArr d g l => execBarArr d g l s
  | .barWait a g => execBarWait a g s
  | .barSync d g => execBarSync d g s
  | .evWait a => execEvWait a s
  | .evSig a b l => execEvSig a b l s
  | .fenceE => execFenceE s
  | .engWait d a l => execEngWait d a l s
  | .gangForm d => execGangForm d s
  | .gangMma d a b l => execGangMma d a b l s
  | .gangMmaSh d a b k l => execGangMmaSh d a b k l s
  | .gangJoinInstruction d l => execGangJoinInstruction d l s
  | .msgRecv d a b l => execMsgRecv d a b l s
  | .msgPush d a b l => execMsgPush d a b l s
  | .rankMove d a b l => execRankMove d a b l s
  | .lrecPatch a b w => execLrecPatch a b w s
  | .lrecArm d a b => execLrecArm d a b s
  | .yield => execYield s
  | .taskEnd => execTaskEnd s
  | .cEnd => execCEnd s
  | _ => .next s

/-- The core waits in one of these ways. -/
def waitsIn (s : State) (n : Nat) (ks : List WaitKind) : Bool :=
  match (coreAt s n).wait with
  | some w => ks.contains w.kind
  | none => false

/-- The core that moves by itself stays the one it was. -/
def keepCur (cur : Nat) (o : Out) : Out :=
  match o with
  | .next s => .next { s with cur := cur }
  | o => o

/-- Core n, which waits in one of the ways ks, tries the instruction that it waits at again. -/
def resume (ks : List WaitKind) (s : State) (n : Nat) : Out :=
  if waitsIn s n ks then keepCur s.cur (coreAgain waitExec s n) else .next s

/-! ## Memory, ticketed updates, mutexes -/

/-- HOME_BANK_ACCESS: the request of core input.who reaches its home (R285). -/
def execHomeBankAccess (s : State) : Out := resume [.bank] s s.input.who

/-- TICKET_ARRIVAL: the update of core input.who reaches its bank unit, or a retransmitted one, input.arr (R293, R299). -/
def execTicketArrival (s : State) : Out :=
  match s.input.arr with
  | some a => .next (replayArrival s a)
  | none => resume [.bank] s s.input.who

/-- TICKET_RETRY of core input.who: a refused update arrives again (R294). -/
def execTicketRetry (s : State) : Out := resume [.ticket] s s.input.who

/-- MUTEX_RETRY of core input.who (R310). -/
def execMutexRetry (s : State) : Out := resume [.mutex] s s.input.who

/-- FULL_EMPTY_WAIT_END, VERSION_WAIT_END, RECLAIM_WAIT_END and PHASE_WAIT_END of core input.who (R167 to R170, R302). -/
def execFullEmptyWaitEnd (s : State) : Out := resume [.fullEmpty] s s.input.who
def execVersionWaitEnd (s : State) : Out := resume [.version] s s.input.who
def execReclaimWaitEnd (s : State) : Out := resume [.reclaim] s s.input.who
def execPhaseWaitEnd (s : State) : Out := resume [.phase] s s.input.who

/-- LOCK_WAIT_END of core input.who: its ranges, the table's room and its slot are looked at again (R230). -/
def execLockWaitEnd (s : State) : Out := resume [.lock, .launch] s s.input.who

/-! ## Messages (R326, R328) -/

/-- MESSAGE_ARRIVAL. Without input.flag: packet input.who on this module's mesh arrives, a message or a reply of another module. With it:
the message of core input.who arrives at a core of this module, or its core sees the reply. -/
def execMessageArrival (s : State) : Out :=
  if s.input.flag then resume [.send, .sendHeld] s s.input.who else .next (messageArrival s s.input.who)

/-- Core n sends its message to another module again, which is on its way then; after an answer of HELD its count stays paused (R328). -/
def sendAgain (s : State) (n : Nat) : Option State :=
  match ownMessage s n with
  | some (c, p) =>
    if (ctxAt s c).any (fun x => decide (rankMod p.dst = moduleId x)) then none
    else some (updCore (transmit s c p) n (fun k => { k with reply := some .sent }))
  | none => none

/-- MESSAGE_RETRY of core input.who: its message is sent again where another module has refused or held it. -/
def execMessageRetry (s : State) : Out :=
  let n := s.input.who
  if waitsIn s n [.send, .sendHeld] && canRun s n then
    let again := match (coreAt s n).reply with
      | some (.answered .refused _) | some (.answered .held _) => sendAgain s n
      | _ => none
    match again with
    | some s' => .next s'
    | none => resume [.send, .sendHeld] s n
  else .next s

/-! ## Watchdogs (R63, R128, R294, R295, R297, R328, R357, R386) -/

/-- The wait of core n, in one of the ways ks, has lasted its budget. -/
def overBudget (s : State) (n : Nat) (ks : List WaitKind) (budget : Core → Word) : Bool :=
  match (coreAt s n).wait with
  | some w => ks.contains w.kind && decide ((budget (coreAt s n)).toNat ≤ w.cycles)
  | none => false

/-- The instruction is tried again once its wait has lasted the budget of TFWD: it raises TICKET-GAP, unless it need wait no
longer. -/
def expire (ks : List WaitKind) (s : State) : Out :=
  if overBudget s s.input.who ks (fun c => c.cr.tfwd) then resume ks s s.input.who else .next s

/-- TICKET_GAP, TFENCE_GAP_EXPIRY, TKT_LOAD_GAP_EXPIRY and OPT_WAIT_GAP_EXPIRY of core input.who. -/
def execTicketGap (s : State) : Out := expire [.ticket] s
def execTfenceGapExpiry (s : State) : Out := expire [.tfence] s
def execTktLoadGapExpiry (s : State) : Out := expire [.ticketLoad] s
def execOptWaitGapExpiry (s : State) : Out := expire [.heldCard] s

/-- SEND_STALL of core input.who: its message has been refused for SWD cycles. -/
def execSendStall (s : State) : Out :=
  if overBudget s s.input.who [.send] (fun c => c.cr.swd) then resume [.send] s s.input.who else .next s

/-- The record that the lrec.patch or lrec.arm at core n's program counter names. -/
def quietRecord (s : State) (n : Nat) : Option Nat :=
  match fetchWord s n with
  | none => none
  | some w =>
    match decodeWord w with
    | .instr (.lrecPatch a _ _) => some (rdS (coreAt s n) a.toNat).toNat
    | .instr (.lrecArm _ a _) => some (rdS (coreAt s n) a.toNat).toNat
    | _ => none

/-- WATCHDOG of core n: its wait_until_quiet has lasted QWD cycles while the record is still live (R128). -/
def watchdog (s : State) (n : Nat) : State :=
  if overBudget s n [.quiet] (fun c => c.cr.qwd) && canRun s n then
    match quietRecord s n, taskEnv s n with
    | some i, some (t, x, _) =>
      if liveState (recState s t.ctx x i) then takeTrap s n { cause := .watchdog, info := word i } else s
    | _, _ => s
  else s

/-- The WATCHDOG step: core input.who. -/
def execWatchdog (s : State) : Out := .next (watchdog s s.input.who)

/-- The waits in which the clock stops (R308): those of chapter 13, of R167 to R170, R225 and R242. -/
def gatedWait (k : WaitKind) : Bool :=
  match k with
  | .barrier | .event | .count | .mutex | .ticket | .ticketLoad | .tfence | .phase | .fence | .fullEmpty | .version | .reclaim
  | .handlers | .engine => true
  | _ => false

/-- CLOCK_GATE of core n: after 16 cycles of such a wait its clock stops (R308). -/
def clockGate (s : State) (n : Nat) : State :=
  updCore s n (fun c => { c with wait := c.wait.map (fun w =>
    if gatedWait w.kind = true ∧ 16 ≤ w.cycles then { w with gated := true } else w) })

/-- The CLOCK_GATE step: core input.who. -/
def execClockGate (s : State) : Out := .next (clockGate s s.input.who)

/-! ## Results (R95, R96) -/

/-- INSTRUCTION_COMPLETION of core input.who: its oldest long-latency result is written. -/
def execInstructionCompletion (s : State) : Out :=
  .next (updCore s s.input.who (completeFirst (fun p => decide (p.kind = .long))))

/-- INTERLOCKED_RESULT of core input.who: its oldest interlocked result is written. -/
def execInterlockedResult (s : State) : Out :=
  .next (updCore s s.input.who (completeFirst (fun p => decide (p.kind = .interlocked))))

/-! ## At an instruction boundary (R79, R225, R348) -/

/-- DECODE_TRAP of core input.who: what it fetches is no instruction. -/
def execDecodeTrap (s : State) : Out := keepCur s.cur (runFetched (fun _ t => .next t) s s.input.who)

/-- TIMER of core n. -/
def timerDeliver (s : State) (n : Nat) : State :=
  let c := coreAt s n
  if canRun s n && c.timerDue && !c.priv && !countDecided s n then
    takeTrap (updCore s n (fun c => { c with timerDue := false })) n { cause := .timer, info := 0#32, async := true }
  else s

/-- The TIMER step: core input.who. -/
def execTimer (s : State) : Out := .next (timerDeliver s s.input.who)

/-- The wait points of R225. -/
def waitPoint : Instr → Bool
  | .engWait .. | .engPoll .. | .barWait .. | .barSync .. | .evWait .. | .waitCnt .. | .yield => true
  | _ => false

/-- The instruction at core n's program counter is a wait point. -/
def atWaitPoint (s : State) (n : Nat) : Bool :=
  match fetchWord s n with
  | none => false
  | some w =>
    match decodeWord w with
    | .instr i => waitPoint i
    | _ => false

/-- USER_INTERRUPT_DELIVERY of core n: in a DET context at a wait point, once every command with a handler has completed. -/
def interruptDeliver (s : State) (n : Nat) : State :=
  let c := coreAt s n
  if canRun s n && deliverable c && !countDecided s n && !endsTask s n && (!detOf s n || (atWaitPoint s n && !handlerDue c)) then deliverInt s n else s

/-- The USER_INTERRUPT_DELIVERY step: core input.who. -/
def execUserInterruptDelivery (s : State) : Out := .next (interruptDeliver s s.input.who)

/-! ## Stop of a record with a fatal trap (R350) -/

/-- A trial of the instruction at which core n waits leaves it waiting there. -/
def waitsOn (s : State) (n : Nat) : Bool :=
  match coreAgain waitExec s n with
  | .next s' => (coreAt s' n).wait.isSome && decide ((coreAt s' n).pc = (coreAt s n).pc ∧ (coreAt s' n).task = (coreAt s n).task)
  | _ => false

/-- The wait w of core n stands: what it waits for has not come. An access on its way to its home and a request at the record-pool
controller do not stand. -/
def waitStands (s : State) (x : Ctx) (u : Run) (n : Nat) (w : Waiting) : Bool :=
  let k := coreAt s n
  match w.kind with
  | .bank | .pool => false
  | .gangPeer | .debug => true
  | .window => windowHolds x u k
  | .windowResult => w.need.any (fun r => k.inflight.any (fun p => !p.done && decide (p.kind = .window) && p.regs.contains r))
  | .handlers => handlerDue k
  | _ => waitsOn s n

/-- Core n of a stopping record has trapped or ended, reached the boundary, or waits: for the entry of a trap, or at an instruction. -/
def coreStopped (s : State) (x : Ctx) (u : Run) (n : Nat) : Bool :=
  let k := coreAt s n
  (k.task.isNone && k.next.isNone) || (!k.priv && !inStop x u k) ||
    (match k.trap, k.wait with
      | some r, _ => !pendingKind k .pool && entryWaits s n r
      | none, some w => waitStands s x u n w
      | none, none => false)

/-- What core n waits for comes with a close that needs no further instruction: that of a window in which it may not issue or in which it
yielded, or the evaluation of its counted wait. -/
def awaitsClose (s : State) (x : Ctx) (u : Run) (n : Nat) : Bool :=
  let k := coreAt s n
  k.task.isSome && (k.cwait.any (fun q => q.res.isNone && (!q.seen || decide (u.window ≤ q.win))) ||
    k.wait.any (fun w => (decide (w.kind = .window) && windowHolds x u k) || decide (w.kind = .yield ∧ u.window ≤ w.mark)))

/-- A close of the open window of record r, which comes by itself, can end a wait of a core of the run: a core awaits it, or it performs an
operation that nothing issued before it holds up or grants a request, or it passes a counted wait (R62, R309). -/
def closeMatters (s : State) (c r : Nat) (x : Ctx) (u : Run) : Bool :=
  (windowReady s x u || !x.det) &&
    (u.anns.any (fun a => settledTo s x u a.win) || !u.tqreqs.isEmpty || (runCores x u).any (fun n => awaitsClose s x u n || decide (coreAt (closeWindow s c r) n ≠ coreAt s n)))

/-- Nothing is on its way that could end a wait of a core of record r: no close of a window, no result of one, no signal, and no packet on the
mesh that its place does not hold. -/
def runQuiet (s : State) (c r : Nat) (x : Ctx) (u : Run) : Bool :=
  !closeMatters s c r x u && u.deliver.isEmpty && (runCores x u).all (fun n => (coreAt s n).cwait.all (fun q => q.res.isNone || q.ready)) &&
    (runClusters x u).all (fun k => (clusterAt s k).flying.isEmpty) && s.packets.all (fun e => decide (e.1 ≠ c) || isHeld x e.2 || !(runCores x u).contains (placeCore x e.2.dst))

/-- FATAL_STOP: once every core has stopped and no engine command is in flight, the record fails with cause 0x9 and the least
trap is reported. -/
def fatalStopRecord (s : State) (c r : Nat) : State :=
  match ctxAt s c with
  | none => s
  | some x =>
    match runAt x r with
    | none => s
    | some u =>
      match leastFatal u.fatals with
      | none => s
      | some f =>
        if x.halt = .running ∧ runQuiet s c r x u = true ∧
            (runCores x u).all (fun n => coreStopped s x u n && (coreAt s n).cmds.isEmpty && !recordCards x r u n) = true then
          reschedule (postCtx (failRecord s c r 0x9) c (fatalEvent c r u f)) c
        else s

/-- The FATAL_STOP step: context input.who, record input.sub. -/
def execFatalStop (s : State) : Out := .next (fatalStopRecord s s.input.who s.input.sub)

end Sys2Proof.Machine
end

