-- ==== Sys2Proof/Machine/Scalar.lean ====
section
/-! DEFINITION. The integer instructions (R111 to R114) and their compact forms (R80). -/

namespace Sys2Proof.Machine

/-! ## Results (R111) -/

def aSlt (a b : Word) : Word := if a.slt b then 1#32 else 0#32
def aSltu (a b : Word) : Word := if a.ult b then 1#32 else 0#32
def aMin (a b : Word) : Word := if a.slt b then a else b
def aMax (a b : Word) : Word := if a.slt b then b else a
def aMinu (a b : Word) : Word := if a.ult b then a else b
def aMaxu (a b : Word) : Word := if a.ult b then b else a

/-- Shifts take b[4:0]. -/
def aSll (a b : Word) : Word := a <<< (b.toNat % 32)
def aSrl (a b : Word) : Word := a >>> (b.toNat % 32)
def aSra (a b : Word) : Word := a.sshiftRight (b.toNat % 32)

/-- The high halves of the exact products. -/
def aMulh (a b : Word) : Word := BitVec.ofInt 32 (a.toInt * b.toInt / 2 ^ 32)
def aMulhu (a b : Word) : Word := BitVec.ofNat 32 (a.toNat * b.toNat / 2 ^ 32)

/-- Quotients and remainders with the results that R111 gives for b = 0 and for the overflow. -/
def aDiv (a b : Word) : Word := if b = 0#32 then 0xFFFFFFFF#32 else BitVec.ofInt 32 (a.toInt.tdiv b.toInt)
def aDivu (a b : Word) : Word := if b = 0#32 then 0xFFFFFFFF#32 else BitVec.ofNat 32 (a.toNat / b.toNat)
def aRem (a b : Word) : Word := if b = 0#32 then a else BitVec.ofInt 32 (a.toInt.tmod b.toInt)
def aRemu (a b : Word) : Word := if b = 0#32 then a else BitVec.ofNat 32 (a.toNat % b.toNat)

/-- Leading and trailing zeros, 32 when a = 0; the number of 1 bits; the bits reversed. -/
def aClz (a : Word) : Word := if a = 0#32 then 32#32 else word (31 - a.toNat.log2)
def aCtz (a : Word) : Word := word (((List.range 32).find? (fun i => a.getLsbD i)).getD 32)
def aPopc (a : Word) : Word := word ((List.range 32).countP (fun i => a.getLsbD i))
def aBrev (a : Word) : Word := a.reverse

/-! ## Bodies -/

/-- sD := f(sA, sB), usable in the next cycle. -/
def alu2 (f : Word → Word → Word) (d a b : Reg) (s : State) : Body :=
  let c := me s
  okCore s (wrS c d.toNat (f (rdS c a.toNat) (rdS c b.toNat)))

/-- sD := f(sA, sB) as an interlocked result (R95). -/
def alu2i (f : Word → Word → Word) (d a b : Reg) (s : State) : Body :=
  let c := me s
  interlock s [sres c d (f (rdS c a.toNat) (rdS c b.toNat))]

/-- sD := f(sA). -/
def alu1 (f : Word → Word) (d a : Reg) (s : State) : Body :=
  let c := me s
  okCore s (wrS c d.toNat (f (rdS c a.toNat)))

/-- The shapes of the integer instructions. -/
def sh3 (d a b : Reg) : Shape := { names := [nS d, nS a, nS b] }
def sh2 (d a : Reg) : Shape := { names := [nS d, nS a] }

/-! ## Register-register (R111) -/

def execAdd (d a b : Reg) (s : State) : Out := issue (.add d a b) (sh3 d a b) (alu2 (· + ·) d a b) s
def execSub (d a b : Reg) (s : State) : Out := issue (.sub d a b) (sh3 d a b) (alu2 (· - ·) d a b) s
def execAnd (d a b : Reg) (s : State) : Out := issue (.and d a b) (sh3 d a b) (alu2 (· &&& ·) d a b) s
def execOr (d a b : Reg) (s : State) : Out := issue (.or d a b) (sh3 d a b) (alu2 (· ||| ·) d a b) s
def execXor (d a b : Reg) (s : State) : Out := issue (.xor d a b) (sh3 d a b) (alu2 (· ^^^ ·) d a b) s
def execAndn (d a b : Reg) (s : State) : Out := issue (.andn d a b) (sh3 d a b) (alu2 (fun x y => x &&& ~~~y) d a b) s
def execSll (d a b : Reg) (s : State) : Out := issue (.sll d a b) (sh3 d a b) (alu2 aSll d a b) s
def execSrl (d a b : Reg) (s : State) : Out := issue (.srl d a b) (sh3 d a b) (alu2 aSrl d a b) s
def execSra (d a b : Reg) (s : State) : Out := issue (.sra d a b) (sh3 d a b) (alu2 aSra d a b) s
def execSlt (d a b : Reg) (s : State) : Out := issue (.slt d a b) (sh3 d a b) (alu2 aSlt d a b) s
def execSltu (d a b : Reg) (s : State) : Out := issue (.sltu d a b) (sh3 d a b) (alu2 aSltu d a b) s
def execMin (d a b : Reg) (s : State) : Out := issue (.min d a b) (sh3 d a b) (alu2 aMin d a b) s
def execMax (d a b : Reg) (s : State) : Out := issue (.max d a b) (sh3 d a b) (alu2 aMax d a b) s
def execMinu (d a b : Reg) (s : State) : Out := issue (.minu d a b) (sh3 d a b) (alu2 aMinu d a b) s
def execMaxu (d a b : Reg) (s : State) : Out := issue (.maxu d a b) (sh3 d a b) (alu2 aMaxu d a b) s
def execMul (d a b : Reg) (s : State) : Out := issue (.mul d a b) (sh3 d a b) (alu2i (· * ·) d a b) s
def execMulh (d a b : Reg) (s : State) : Out := issue (.mulh d a b) (sh3 d a b) (alu2i aMulh d a b) s
def execMulhu (d a b : Reg) (s : State) : Out := issue (.mulhu d a b) (sh3 d a b) (alu2i aMulhu d a b) s
def execDiv (d a b : Reg) (s : State) : Out := issue (.div d a b) (sh3 d a b) (alu2i aDiv d a b) s
def execDivu (d a b : Reg) (s : State) : Out := issue (.divu d a b) (sh3 d a b) (alu2i aDivu d a b) s
def execRem (d a b : Reg) (s : State) : Out := issue (.rem d a b) (sh3 d a b) (alu2i aRem d a b) s
def execRemu (d a b : Reg) (s : State) : Out := issue (.remu d a b) (sh3 d a b) (alu2i aRemu d a b) s
def execClz (d a : Reg) (s : State) : Out := issue (.clz d a) (sh2 d a) (alu1 aClz d a) s
def execCtz (d a : Reg) (s : State) : Out := issue (.ctz d a) (sh2 d a) (alu1 aCtz d a) s
def execPopc (d a : Reg) (s : State) : Out := issue (.popc d a) (sh2 d a) (alu1 aPopc d a) s
def execBrev (d a : Reg) (s : State) : Out := issue (.brev d a) (sh2 d a) (alu1 aBrev d a) s

/-! ## Immediates (R112 to R114) -/

def execAddi (d a : Reg) (i : BitVec 15) (s : State) : Out :=
  issue (.addi d a i) (sh2 d a) (alu1 (fun x => x + sext i) d a) s
def execAndi (d a : Reg) (i : BitVec 15) (s : State) : Out :=
  issue (.andi d a i) (sh2 d a) (alu1 (fun x => x &&& sext i) d a) s
def execOri (d a : Reg) (i : BitVec 15) (s : State) : Out :=
  issue (.ori d a i) (sh2 d a) (alu1 (fun x => x ||| sext i) d a) s
def execXori (d a : Reg) (i : BitVec 15) (s : State) : Out :=
  issue (.xori d a i) (sh2 d a) (alu1 (fun x => x ^^^ sext i) d a) s
def execSlti (d a : Reg) (i : BitVec 15) (s : State) : Out :=
  issue (.slti d a i) (sh2 d a) (alu1 (fun x => aSlt x (sext i)) d a) s
def execSltiu (d a : Reg) (i : BitVec 15) (s : State) : Out :=
  issue (.sltiu d a i) (sh2 d a) (alu1 (fun x => aSltu x (sext i)) d a) s
def execSlli (d a : Reg) (k : BitVec 5) (s : State) : Out :=
  issue (.slli d a k) (sh2 d a) (alu1 (fun x => x <<< k.toNat) d a) s
def execSrli (d a : Reg) (k : BitVec 5) (s : State) : Out :=
  issue (.srli d a k) (sh2 d a) (alu1 (fun x => x >>> k.toNat) d a) s
def execSrai (d a : Reg) (k : BitVec 5) (s : State) : Out :=
  issue (.srai d a k) (sh2 d a) (alu1 (fun x => x.sshiftRight k.toNat) d a) s
def execLui (d : Reg) (i : BitVec 20) (s : State) : Out :=
  issue (.lui d i) { names := [nS d] } (fun s => okCore s (wrS (me s) d.toNat (i ++ 0#12))) s

/-! ## Compact forms (R80): the effect of their expansion, with a length of two bytes -/

/-- The same shape with the length of a compact parcel. -/
def compact (sh : Shape) : Shape := { sh with len := 2 }

def execCMv (d a : Reg) (s : State) : Out := issue (.cMv d a) (compact (sh3 d a 0#5)) (alu2 (· + ·) d a 0#5) s
def execCAdd (d a : Reg) (s : State) : Out := issue (.cAdd d a) (compact (sh3 d d a)) (alu2 (· + ·) d d a) s
def execCSub (d a : Reg) (s : State) : Out := issue (.cSub d a) (compact (sh3 d d a)) (alu2 (· - ·) d d a) s
def execCAnd (d a : Reg) (s : State) : Out := issue (.cAnd d a) (compact (sh3 d d a)) (alu2 (· &&& ·) d d a) s
def execCOr (d a : Reg) (s : State) : Out := issue (.cOr d a) (compact (sh3 d d a)) (alu2 (· ||| ·) d d a) s
def execCXor (d a : Reg) (s : State) : Out := issue (.cXor d a) (compact (sh3 d d a)) (alu2 (· ^^^ ·) d d a) s
def execCAddi (d : Reg) (i : BitVec 6) (s : State) : Out :=
  issue (.cAddi d i) (compact (sh2 d d)) (alu1 (fun x => x + sext i) d d) s
def execCLi (d : Reg) (i : BitVec 6) (s : State) : Out :=
  issue (.cLi d i) (compact (sh2 d 0#5)) (alu1 (fun x => x + sext i) d 0#5) s
def execCSlli (d : Reg) (k : BitVec 5) (s : State) : Out :=
  issue (.cSlli d k) (compact (sh2 d d)) (alu1 (fun x => x <<< k.toNat) d d) s
def execCSrli (d : Reg) (k : BitVec 5) (s : State) : Out :=
  issue (.cSrli d k) (compact (sh2 d d)) (alu1 (fun x => x >>> k.toNat) d d) s
def execCSrai (d : Reg) (k : BitVec 5) (s : State) : Out :=
  issue (.cSrai d k) (compact (sh2 d d)) (alu1 (fun x => x.sshiftRight k.toNat) d d) s
def execCSlt (d a : Reg) (s : State) : Out := issue (.cSlt d a) (compact (sh3 d d a)) (alu2 aSlt d d a) s

end Sys2Proof.Machine
end

