-- ==== Sys2Proof/Machine/Dispatch.lean ====
section
/-! DEFINITION. The dispatch: one arm per constructor of Instr, each one direct call of its meaning. -/

namespace Sys2Proof.Machine

/-- The effect of an instruction of the core that moves, or of a step of the module that the input describes. -/
def exec (i : Instr) (s : State) : Host.Outcome State Fault Refusal :=
  match i with
  | .add d a b => Sys2Proof.Machine.execAdd d a b s
  | .sub d a b => Sys2Proof.Machine.execSub d a b s
  | .and d a b => Sys2Proof.Machine.execAnd d a b s
  | .or d a b => Sys2Proof.Machine.execOr d a b s
  | .xor d a b => Sys2Proof.Machine.execXor d a b s
  | .andn d a b => Sys2Proof.Machine.execAndn d a b s
  | .sll d a b => Sys2Proof.Machine.execSll d a b s
  | .srl d a b => Sys2Proof.Machine.execSrl d a b s
  | .sra d a b => Sys2Proof.Machine.execSra d a b s
  | .slt d a b => Sys2Proof.Machine.execSlt d a b s
  | .sltu d a b => Sys2Proof.Machine.execSltu d a b s
  | .min d a b => Sys2Proof.Machine.execMin d a b s
  | .max d a b => Sys2Proof.Machine.execMax d a b s
  | .minu d a b => Sys2Proof.Machine.execMinu d a b s
  | .maxu d a b => Sys2Proof.Machine.execMaxu d a b s
  | .mul d a b => Sys2Proof.Machine.execMul d a b s
  | .mulh d a b => Sys2Proof.Machine.execMulh d a b s
  | .mulhu d a b => Sys2Proof.Machine.execMulhu d a b s
  | .div d a b => Sys2Proof.Machine.execDiv d a b s
  | .divu d a b => Sys2Proof.Machine.execDivu d a b s
  | .rem d a b => Sys2Proof.Machine.execRem d a b s
  | .remu d a b => Sys2Proof.Machine.execRemu d a b s
  | .clz d a => Sys2Proof.Machine.execClz d a s
  | .ctz d a => Sys2Proof.Machine.execCtz d a s
  | .popc d a => Sys2Proof.Machine.execPopc d a s
  | .brev d a => Sys2Proof.Machine.execBrev d a s
  | .addi d a imm => Sys2Proof.Machine.execAddi d a imm s
  | .andi d a imm => Sys2Proof.Machine.execAndi d a imm s
  | .ori d a imm => Sys2Proof.Machine.execOri d a imm s
  | .xori d a imm => Sys2Proof.Machine.execXori d a imm s
  | .slti d a imm => Sys2Proof.Machine.execSlti d a imm s
  | .sltiu d a imm => Sys2Proof.Machine.execSltiu d a imm s
  | .slli d a sel => Sys2Proof.Machine.execSlli d a sel s
  | .srli d a sel => Sys2Proof.Machine.execSrli d a sel s
  | .srai d a sel => Sys2Proof.Machine.execSrai d a sel s
  | .lui d imm => Sys2Proof.Machine.execLui d imm s
  | .beq a b off => Sys2Proof.Machine.execBeq a b off s
  | .bne a b off => Sys2Proof.Machine.execBne a b off s
  | .blt a b off => Sys2Proof.Machine.execBlt a b off s
  | .bge a b off => Sys2Proof.Machine.execBge a b off s
  | .bltu a b off => Sys2Proof.Machine.execBltu a b off s
  | .bgeu a b off => Sys2Proof.Machine.execBgeu a b off s
  | .jal d o => Sys2Proof.Machine.execJal d o s
  | .jalr d a imm => Sys2Proof.Machine.execJalr d a imm s
  | .crr d c => Sys2Proof.Machine.execCrr d c s
  | .crw a c => Sys2Proof.Machine.execCrw a c s
  | .crs d a c => Sys2Proof.Machine.execCrs d a c s
  | .crc d a c => Sys2Proof.Machine.execCrc d a c s
  | .trap a => Sys2Proof.Machine.execTrap a s
  | .eret => Sys2Proof.Machine.execEret s
  | .brk => Sys2Proof.Machine.execBrk s
  | .yield => Sys2Proof.Machine.execYield s
  | .taskEnd => Sys2Proof.Machine.execTaskEnd s
  | .lrecRd d w => Sys2Proof.Machine.execLrecRd d w s
  | .lrecPatch a b w => Sys2Proof.Machine.execLrecPatch a b w s
  | .lrecArm d a b => Sys2Proof.Machine.execLrecArm d a b s
  | .tqReq d a => Sys2Proof.Machine.execTqReq d a s
  | .grpRd d a sel => Sys2Proof.Machine.execGrpRd d a sel s
  | .cMv d a => Sys2Proof.Machine.execCMv d a s
  | .cAdd d a => Sys2Proof.Machine.execCAdd d a s
  | .cSub d a => Sys2Proof.Machine.execCSub d a s
  | .cAnd d a => Sys2Proof.Machine.execCAnd d a s
  | .cOr d a => Sys2Proof.Machine.execCOr d a s
  | .cXor d a => Sys2Proof.Machine.execCXor d a s
  | .cAddi d imm => Sys2Proof.Machine.execCAddi d imm s
  | .cLi d imm => Sys2Proof.Machine.execCLi d imm s
  | .cSlli d imm => Sys2Proof.Machine.execCSlli d imm s
  | .cSrli d imm => Sys2Proof.Machine.execCSrli d imm s
  | .cSrai d imm => Sys2Proof.Machine.execCSrai d imm s
  | .cBeqz d o => Sys2Proof.Machine.execCBeqz d o s
  | .cBnez d o => Sys2Proof.Machine.execCBnez d o s
  | .cSlt d a => Sys2Proof.Machine.execCSlt d a s
  | .cJr d => Sys2Proof.Machine.execCJr d s
  | .cEnd => Sys2Proof.Machine.execCEnd s
  | .ld d a b h l => Sys2Proof.Machine.execLd d a b h l s
  | .st d a b h l => Sys2Proof.Machine.execSt d a b h l s
  | .ldFe d a b h l => Sys2Proof.Machine.execLdFe d a b h l s
  | .ldFeClr d a b h l => Sys2Proof.Machine.execLdFeClr d a b h l s
  | .stFe d a b h l => Sys2Proof.Machine.execStFe d a b h l s
  | .stFeForce d a b h l => Sys2Proof.Machine.execStFeForce d a b h l s
  | .ldV d a b h l => Sys2Proof.Machine.execLdV d a b h l s
  | .stV d a b h l => Sys2Proof.Machine.execStV d a b h l s
  | .vld d a b h l => Sys2Proof.Machine.execVld d a b h l s
  | .vst d a b h l => Sys2Proof.Machine.execVst d a b h l s
  | .vldFe d a b h l => Sys2Proof.Machine.execVldFe d a b h l s
  | .vldFeClr d a b h l => Sys2Proof.Machine.execVldFeClr d a b h l s
  | .vstFe d a b h l => Sys2Proof.Machine.execVstFe d a b h l s
  | .vstFeForce d a b h l => Sys2Proof.Machine.execVstFeForce d a b h l s
  | .vldV d a b h l => Sys2Proof.Machine.execVldV d a b h l s
  | .vstV d a b h l => Sys2Proof.Machine.execVstV d a b h l s
  | .layRd d w h l => Sys2Proof.Machine.execLayRd d w h l s
  | .layWr a w h l => Sys2Proof.Machine.execLayWr a w h l s
  | .reclaim a h l => Sys2Proof.Machine.execReclaim a h l s
  | .laySel d a b h l => Sys2Proof.Machine.execLaySel d a b h l s
  | .amoAdd d a h q l => Sys2Proof.Machine.execAmoAdd d a h q l s
  | .amoAnd d a h q l => Sys2Proof.Machine.execAmoAnd d a h q l s
  | .amoOr d a h q l => Sys2Proof.Machine.execAmoOr d a h q l s
  | .amoXor d a h q l => Sys2Proof.Machine.execAmoXor d a h q l s
  | .amoMin d a h q l => Sys2Proof.Machine.execAmoMin d a h q l s
  | .amoMax d a h q l => Sys2Proof.Machine.execAmoMax d a h q l s
  | .amoSwap d a h q l => Sys2Proof.Machine.execAmoSwap d a h q l s
  | .amoCas d a h l => Sys2Proof.Machine.execAmoCas d a h l s
  | .amoIncb d a h l => Sys2Proof.Machine.execAmoIncb d a h l s
  | .amoIncw d a h l => Sys2Proof.Machine.execAmoIncw d a h l s
  | .amoDecnz d a h l => Sys2Proof.Machine.execAmoDecnz d a h l s
  | .amoAddlim d a h l => Sys2Proof.Machine.execAmoAddlim d a h l s
  | .tamoFadd d a h l => Sys2Proof.Machine.execTamoFadd d a h l s
  | .tamoFmax d a h l => Sys2Proof.Machine.execTamoFmax d a h l s
  | .tamoFmin d a h l => Sys2Proof.Machine.execTamoFmin d a h l s
  | .tamoOr d a h l => Sys2Proof.Machine.execTamoOr d a h l s
  | .tamoSkip d a h l => Sys2Proof.Machine.execTamoSkip d a h l s
  | .tfence a h => Sys2Proof.Machine.execTfence a h s
  | .annAmoAdd d a h l => Sys2Proof.Machine.execAnnAmoAdd d a h l s
  | .annAmoAnd d a h l => Sys2Proof.Machine.execAnnAmoAnd d a h l s
  | .annAmoOr d a h l => Sys2Proof.Machine.execAnnAmoOr d a h l s
  | .annAmoXor d a h l => Sys2Proof.Machine.execAnnAmoXor d a h l s
  | .annAmoMin d a h l => Sys2Proof.Machine.execAnnAmoMin d a h l s
  | .annAmoMax d a h l => Sys2Proof.Machine.execAnnAmoMax d a h l s
  | .annAmoSwap d a h l => Sys2Proof.Machine.execAnnAmoSwap d a h l s
  | .annLd d a h l => Sys2Proof.Machine.execAnnLd d a h l s
  | .fenceT => Sys2Proof.Machine.execFenceT s
  | .fenceC => Sys2Proof.Machine.execFenceC s
  | .fenceG => Sys2Proof.Machine.execFenceG s
  | .fenceE => Sys2Proof.Machine.execFenceE s
  | .fenceSp => Sys2Proof.Machine.execFenceSp s
  | .waitCnt a b n => Sys2Proof.Machine.execWaitCnt a b n s
  | .evWait a => Sys2Proof.Machine.execEvWait a s
  | .evSig a b l => Sys2Proof.Machine.execEvSig a b l s
  | .mtxLock a n => Sys2Proof.Machine.execMtxLock a n s
  | .mtxUnlock a n l => Sys2Proof.Machine.execMtxUnlock a n l s
  | .barArr d g l => Sys2Proof.Machine.execBarArr d g l s
  | .barWait a g => Sys2Proof.Machine.execBarWait a g s
  | .barSync d g => Sys2Proof.Machine.execBarSync d g s
  | .barPhase d g l => Sys2Proof.Machine.execBarPhase d g l s
  | .vadd d a b m => Sys2Proof.Machine.execVadd d a b m s
  | .vsub d a b m => Sys2Proof.Machine.execVsub d a b m s
  | .vadds d a b m => Sys2Proof.Machine.execVadds d a b m s
  | .vsubs d a b m => Sys2Proof.Machine.execVsubs d a b m s
  | .vmul d a b m => Sys2Proof.Machine.execVmul d a b m s
  | .vmin d a b m => Sys2Proof.Machine.execVmin d a b m s
  | .vmax d a b m => Sys2Proof.Machine.execVmax d a b m s
  | .vand d a b m => Sys2Proof.Machine.execVand d a b m s
  | .vor d a b m => Sys2Proof.Machine.execVor d a b m s
  | .vxor d a b m => Sys2Proof.Machine.execVxor d a b m s
  | .vsll d a b m => Sys2Proof.Machine.execVsll d a b m s
  | .vsrl d a b m => Sys2Proof.Machine.execVsrl d a b m s
  | .vsra d a b m => Sys2Proof.Machine.execVsra d a b m s
  | .vminu d a b m => Sys2Proof.Machine.execVminu d a b m s
  | .vmaxu d a b m => Sys2Proof.Machine.execVmaxu d a b m s
  | .vcmpEq d a b m => Sys2Proof.Machine.execVcmpEq d a b m s
  | .vcmpNe d a b m => Sys2Proof.Machine.execVcmpNe d a b m s
  | .vcmpLt d a b m => Sys2Proof.Machine.execVcmpLt d a b m s
  | .vcmpGe d a b m => Sys2Proof.Machine.execVcmpGe d a b m s
  | .vcmpLtu d a b m => Sys2Proof.Machine.execVcmpLtu d a b m s
  | .vcmpGeu d a b m => Sys2Proof.Machine.execVcmpGeu d a b m s
  | .vredsum d a m => Sys2Proof.Machine.execVredsum d a m s
  | .vredmax d a m => Sys2Proof.Machine.execVredmax d a m s
  | .vfadd d a b m => Sys2Proof.Machine.execVfadd d a b m s
  | .vfsub d a b m => Sys2Proof.Machine.execVfsub d a b m s
  | .vfmul d a b m => Sys2Proof.Machine.execVfmul d a b m s
  | .vfma d a b m => Sys2Proof.Machine.execVfma d a b m s
  | .vfnma d a b m => Sys2Proof.Machine.execVfnma d a b m s
  | .vfmin d a b m => Sys2Proof.Machine.execVfmin d a b m s
  | .vfmax d a b m => Sys2Proof.Machine.execVfmax d a b m s
  | .vfminp d a b m => Sys2Proof.Machine.execVfminp d a b m s
  | .vfmaxp d a b m => Sys2Proof.Machine.execVfmaxp d a b m s
  | .vfabs d a m => Sys2Proof.Machine.execVfabs d a m s
  | .vfneg d a m => Sys2Proof.Machine.execVfneg d a m s
  | .vfcmpEq d a b m => Sys2Proof.Machine.execVfcmpEq d a b m s
  | .vfcmpLt d a b m => Sys2Proof.Machine.execVfcmpLt d a b m s
  | .vfcmpLe d a b m => Sys2Proof.Machine.execVfcmpLe d a b m s
  | .vfcmpUn d a b m => Sys2Proof.Machine.execVfcmpUn d a b m s
  | .vfclass d a m => Sys2Proof.Machine.execVfclass d a m s
  | .vfredsum d a m => Sys2Proof.Machine.execVfredsum d a m s
  | .vfredmax d a m => Sys2Proof.Machine.execVfredmax d a m s
  | .vfredmin d a m => Sys2Proof.Machine.execVfredmin d a m s
  | .vfdiv d a b w l => Sys2Proof.Machine.execVfdiv d a b w l s
  | .vfsqrt d a w l => Sys2Proof.Machine.execVfsqrt d a w l s
  | .vfrcpa d a w l => Sys2Proof.Machine.execVfrcpa d a w l s
  | .vfrsqa d a w l => Sys2Proof.Machine.execVfrsqa d a w l s
  | .vexp2a d a w l => Sys2Proof.Machine.execVexp2a d a w l s
  | .vlog2a d a w l => Sys2Proof.Machine.execVlog2a d a w l s
  | .vgauss d a b l => Sys2Proof.Machine.execVgauss d a b l s
  | .vsel d a b m => Sys2Proof.Machine.execVsel d a b m s
  | .vperm d a b m => Sys2Proof.Machine.execVperm d a b m s
  | .vbcast d a m => Sys2Proof.Machine.execVbcast d a m s
  | .vbcastL d a k m => Sys2Proof.Machine.execVbcastL d a k m s
  | .vslideUp d a b m => Sys2Proof.Machine.execVslideUp d a b m s
  | .vslideDn d a b m => Sys2Proof.Machine.execVslideDn d a b m s
  | .vext d a b m => Sys2Proof.Machine.execVext d a b m s
  | .vins d a b m => Sys2Proof.Machine.execVins d a b m s
  | .vcvtFN d a f q m => Sys2Proof.Machine.execVcvtFN d a f q m s
  | .vcvtFW d a f q m => Sys2Proof.Machine.execVcvtFW d a f q m s
  | .vcvtIN d a imm q m => Sys2Proof.Machine.execVcvtIN d a imm q m s
  | .vcvtIW d a imm q m => Sys2Proof.Machine.execVcvtIW d a imm q m s
  | .vcvtX d a t q m => Sys2Proof.Machine.execVcvtX d a t q m s
  | .vcvtXu d a t q m => Sys2Proof.Machine.execVcvtXu d a t q m s
  | .vqnt d a b q m => Sys2Proof.Machine.execVqnt d a b q m s
  | .vdqnt d a b q m => Sys2Proof.Machine.execVdqnt d a b q m s
  | .pand d a b => Sys2Proof.Machine.execPand d a b s
  | .por d a b => Sys2Proof.Machine.execPor d a b s
  | .pnot d a => Sys2Proof.Machine.execPnot d a s
  | .pset d a => Sys2Proof.Machine.execPset d a s
  | .pcount d a w => Sys2Proof.Machine.execPcount d a w s
  | .engW a g e => Sys2Proof.Machine.execEngW a g e s
  | .engR d g e l => Sys2Proof.Machine.execEngR d g e l s
  | .copyLaunch d l => Sys2Proof.Machine.execCopyLaunch d l s
  | .gatherLaunch d l => Sys2Proof.Machine.execGatherLaunch d l s
  | .exchangeLaunch d l => Sys2Proof.Machine.execExchangeLaunch d l s
  | .engWait d a l => Sys2Proof.Machine.execEngWait d a l s
  | .engPoll d a l => Sys2Proof.Machine.execEngPoll d a l s
  | .msgSend d a l => Sys2Proof.Machine.execMsgSend d a l s
  | .msgRecv d a b l => Sys2Proof.Machine.execMsgRecv d a b l s
  | .msgPush d a b l => Sys2Proof.Machine.execMsgPush d a b l s
  | .msgSret d a b l => Sys2Proof.Machine.execMsgSret d a b l s
  | .rankRd d a sel l => Sys2Proof.Machine.execRankRd d a sel l s
  | .rankMove d a b l => Sys2Proof.Machine.execRankMove d a b l s
  | .gangMma d oa ob l => Sys2Proof.Machine.execGangMma d oa ob l s
  | .gangMmaSh d oa ob src l => Sys2Proof.Machine.execGangMmaSh d oa ob src l s
  | .mxFill slot h a l => Sys2Proof.Machine.execMxFill slot h a l s
  | .mxFillCol slot h a l => Sys2Proof.Machine.execMxFillCol slot h a l s
  | .mxAcld d a h l => Sys2Proof.Machine.execMxAcld d a h l s
  | .mxAcst d a h l => Sys2Proof.Machine.execMxAcst d a h l s
  | .mxZero d l => Sys2Proof.Machine.execMxZero d l s
  | .mxClaim slot l => Sys2Proof.Machine.execMxClaim slot l s
  | .mxRel slot l => Sys2Proof.Machine.execMxRel slot l s
  | .mxRegen od os l => Sys2Proof.Machine.execMxRegen od os l s
  | .mxRegenE od os l => Sys2Proof.Machine.execMxRegenE od os l s
  | .mxRegenT od os l => Sys2Proof.Machine.execMxRegenT od os l s
  | .mxRegenET od os l => Sys2Proof.Machine.execMxRegenET od os l s
  | .gangForm d => Sys2Proof.Machine.execGangForm d s
  | .gangSplit => Sys2Proof.Machine.execGangSplit s
  | .prmOpen d a n l => Sys2Proof.Machine.execPrmOpen d a n l s
  | .prmRedeem d a n l => Sys2Proof.Machine.execPrmRedeem d a n l s
  | .prmRedeemT d a n l => Sys2Proof.Machine.execPrmRedeemT d a n l s
  | .prmCancel d a l => Sys2Proof.Machine.execPrmCancel d a l s
  | .prmQuery d a sel l => Sys2Proof.Machine.execPrmQuery d a sel l s
  | .optCard d a n l => Sys2Proof.Machine.execOptCard d a n l s
  | .optLdr a n k l => Sys2Proof.Machine.execOptLdr a n k l s
  | .optWait d a l => Sys2Proof.Machine.execOptWait d a l s
  | .cntRd d a h => Sys2Proof.Machine.execCntRd d a h s
  | .trcMark a imm => Sys2Proof.Machine.execTrcMark a imm s
  | .prfRd d a sel => Sys2Proof.Machine.execPrfRd d a sel s
  | .gangJoinInstruction d l => Sys2Proof.Machine.execGangJoinInstruction d l s
  | .powerOn => Sys2Proof.Machine.execPowerOn s
  | .coldReset => Sys2Proof.Machine.execColdReset s
  | .warmReset => Sys2Proof.Machine.execWarmReset s
  | .thermalTrip => Sys2Proof.Machine.execThermalTrip s
  | .thermalClear => Sys2Proof.Machine.execThermalClear s
  | .hostLinkDown => Sys2Proof.Machine.execHostLinkDown s
  | .owncas => Sys2Proof.Machine.execOwncas s
  | .denied => Sys2Proof.Machine.execDenied s
  | .arm => Sys2Proof.Machine.execArm s
  | .evpop => Sys2Proof.Machine.execEvpop s
  | .bar2Write => Sys2Proof.Machine.execBar2Write s
  | .registerWrite => Sys2Proof.Machine.execRegisterWrite s
  | .fwmin => Sys2Proof.Machine.execFwmin s
  | .create => Sys2Proof.Machine.execCreate s
  | .sealPart => Sys2Proof.Machine.execSealPart s
  | .bind => Sys2Proof.Machine.execBind s
  | .preempt => Sys2Proof.Machine.execPreempt s
  | .resume => Sys2Proof.Machine.execResume s
  | .debug => Sys2Proof.Machine.execDebug s
  | .dbgcont => Sys2Proof.Machine.execDbgcont s
  | .map => Sys2Proof.Machine.execMap s
  | .unmap => Sys2Proof.Machine.execUnmap s
  | .pgresp => Sys2Proof.Machine.execPgresp s
  | .jobopen => Sys2Proof.Machine.execJobopen s
  | .jobmap => Sys2Proof.Machine.execJobmap s
  | .jobseal => Sys2Proof.Machine.execJobseal s
  | .jobclose => Sys2Proof.Machine.execJobclose s
  | .hload => Sys2Proof.Machine.execHload s
  | .snap => Sys2Proof.Machine.execSnap s
  | .recread => Sys2Proof.Machine.execRecread s
  | .idkey => Sys2Proof.Machine.execIdkey s
  | .retire => Sys2Proof.Machine.execRetire s
  | .trace => Sys2Proof.Machine.execTrace s
  | .tfilter => Sys2Proof.Machine.execTfilter s
  | .taskStart => Sys2Proof.Machine.execTaskStart s
  | .windowClose => Sys2Proof.Machine.execWindowClose s
  | .windowResultDelivery => Sys2Proof.Machine.execWindowResultDelivery s
  | .quantumDeadlock => Sys2Proof.Machine.execQuantumDeadlock s
  | .watchdog => Sys2Proof.Machine.execWatchdog s
  | .timer => Sys2Proof.Machine.execTimer s
  | .ticketGap => Sys2Proof.Machine.execTicketGap s
  | .tfenceGapExpiry => Sys2Proof.Machine.execTfenceGapExpiry s
  | .tktLoadGapExpiry => Sys2Proof.Machine.execTktLoadGapExpiry s
  | .optWaitGapExpiry => Sys2Proof.Machine.execOptWaitGapExpiry s
  | .sendStall => Sys2Proof.Machine.execSendStall s
  | .clockGate => Sys2Proof.Machine.execClockGate s
  | .decodeTrap => Sys2Proof.Machine.execDecodeTrap s
  | .handlerEntry => Sys2Proof.Machine.execHandlerEntry s
  | .fatalStop => Sys2Proof.Machine.execFatalStop s
  | .userInterruptDelivery => Sys2Proof.Machine.execUserInterruptDelivery s
  | .preEmption => Sys2Proof.Machine.execPreEmption s
  | .haltComplete => Sys2Proof.Machine.execHaltComplete s
  | .spill => Sys2Proof.Machine.execSpill s
  | .restore => Sys2Proof.Machine.execRestore s
  | .coreFailure => Sys2Proof.Machine.execCoreFailure s
  | .rowRemap => Sys2Proof.Machine.execRowRemap s
  | .laneFailure => Sys2Proof.Machine.execLaneFailure s
  | .flitReceive => Sys2Proof.Machine.execFlitReceive s
  | .retransmissionRequest => Sys2Proof.Machine.execRetransmissionRequest s
  | .messageArrival => Sys2Proof.Machine.execMessageArrival s
  | .messageRetry => Sys2Proof.Machine.execMessageRetry s
  | .pushApply => Sys2Proof.Machine.execPushApply s
  | .slotReturn => Sys2Proof.Machine.execSlotReturn s
  | .copyComplete => Sys2Proof.Machine.execCopyComplete s
  | .gatherComplete => Sys2Proof.Machine.execGatherComplete s
  | .exchangeComplete => Sys2Proof.Machine.execExchangeComplete s
  | .enginePageFault => Sys2Proof.Machine.execEnginePageFault s
  | .engineGranuleWaitEnd => Sys2Proof.Machine.execEngineGranuleWaitEnd s
  | .lockWaitEnd => Sys2Proof.Machine.execLockWaitEnd s
  | .fullEmptyWaitEnd => Sys2Proof.Machine.execFullEmptyWaitEnd s
  | .versionWaitEnd => Sys2Proof.Machine.execVersionWaitEnd s
  | .reclaimWaitEnd => Sys2Proof.Machine.execReclaimWaitEnd s
  | .barrierRelease => Sys2Proof.Machine.execBarrierRelease s
  | .phaseWaitEnd => Sys2Proof.Machine.execPhaseWaitEnd s
  | .eventSignalLanding => Sys2Proof.Machine.execEventSignalLanding s
  | .ticketArrival => Sys2Proof.Machine.execTicketArrival s
  | .ticketRetry => Sys2Proof.Machine.execTicketRetry s
  | .instructionCompletion => Sys2Proof.Machine.execInstructionCompletion s
  | .recordPoolAnswer => Sys2Proof.Machine.execRecordPoolAnswer s
  | .gangMmaCompletion => Sys2Proof.Machine.execGangMmaCompletion s
  | .cardStart => Sys2Proof.Machine.execCardStart s
  | .cardComplete => Sys2Proof.Machine.execCardComplete s
  | .strainerAction => Sys2Proof.Machine.execStrainerAction s
  | .traceFilterRun => Sys2Proof.Machine.execTraceFilterRun s
  | .interlockedResult => Sys2Proof.Machine.execInterlockedResult s
  | .homeBankAccess => Sys2Proof.Machine.execHomeBankAccess s
  | .mutexRetry => Sys2Proof.Machine.execMutexRetry s

end Sys2Proof.Machine
end

