-- ==== Sys2Proof/Machine/Time.lean ====
section
/-! DEFINITION. Cycles that pass: watchdog counts (R63, R357), the timer (R348), the cycle counter (R405), and the window
counter of a non-DET context (R62). -/

namespace Sys2Proof.Machine

/-- n cycles pass on one core. The count of a message that is held pauses (R328). -/
def elapseCore (s : State) (n : Nat) (k : Core) : Core :=
  match k.task with
  | none => k
  | some t =>
    match ctxAt s t.ctx with
    | none => k
    | some x =>
      if issuing x = false then k
      else
        let n := if x.halt = .freezing then min n (24 - x.froze) else n
        let k := { k with cyc := k.cyc + n, wait := k.wait.map (fun w => if w.kind = .sendHeld then w else { w with cycles := w.cycles + n }) }
        if k.priv = true ∨ k.cr.tmr = 0#32 then k
        else
          let left := k.cr.tmr.toNat - n
          { k with cr := { k.cr with tmr := word left }
                   timerDue := k.timerDue || (decide (left = 0) && masked x .timer) }

/-- n cycles pass. -/
def elapse (s : State) (n : Nat) : State :=
  { s with
    cores := s.cores.map (fun e => (e.1, elapseCore s n e.2))
    ctxs := s.ctxs.map (fun e =>
      match e.2.halt with
      | .running =>
        (e.1, { e.2 with runs := e.2.runs.map (fun r => if r.2.running then (r.1, { r.2 with cycles := r.2.cycles + n }) else r) })
      | .freezing => (e.1, { e.2 with froze := e.2.froze + n })
      | _ => e) }

end Sys2Proof.Machine
end

