-- ==== Sys2Proof/Machine/Place.lean ====
section
/-! DEFINITION. What step calls: which rows are steps of the module, an engine's move, and the placing of one instruction. -/

namespace Sys2Proof.Machine

/-- A step of the module: a row that has no encoding. -/
def isModuleStep (i : Instr) : Bool := decide (encodeWord i = 0#32)

/-- The kernel of a placed instruction: everything declared, two parcels long at least. -/
def placeKernel : Kernel :=
  { kcode := 0, klen := 8, kentry := 0, nsreg := 32, nvreg := 32, npred := 4, ngrp := 4, nroute := 8, nslot := 64, nacc := 8
    nhnd := 32, ksp := 2097152 }

/-- The context of a placed instruction: the 1,024 clusters' first one, DET, sealed with no records. -/
def placeCtx (u : Run) : Ctx :=
  { pbase := 0, pcount := 1, det := true, share := false, cls := false, func := none, clen := 65536
    hdr := some (List.replicate 16 0#32), groups := [], gruns := [], cps := [], journal := [], nextAcc := 0, doneseq := [], queues := []
    runs := [(0, u)], cgen := 0, rtrack := [], opt := [], pages := [], faultNo := 0, faults := [], far := [], hcode := [], hmask := 0
    debug := false, halt := .running, froze := 0, holds := [], preq := [], active := true, saved := none, spills := 0, counters := []
    rerun := 0, job := none, ranks := [], pseq := [], rseq := [], tracing := false, filter := none, fcounts := [], ring := []
    pool := [] }

/-- The run of a placed instruction: one task on one cluster, QUANT 256. -/
def placeRun : Run :=
  { copy := [1#32, 0#32, 0x00010008#32, 0x00010001#32, 0x00010000#32, 0#32, 0#32, 0#32, 256#32] ++ List.replicate 20 0#32
    kernel := placeKernel, layouts := [], accNo := 0, running := true, window := 0, cycles := 0, tqc := 0, tqreqs := [], anns := []
    deliver := [], stopw := none, fatals := [], ntrap := 0, counters := [] }

/-- Place the word w (low parcel first) at byte 0 of the kernel of core 0. -/
def placeWord (s : State) (w : Nat) : State :=
  let x := placeCtx placeRun
  let t : Task := { ctx := 0, ridx := 0, t := 0, wave := 0, c0 := 0, c1 := 0, c2 := 0, c3 := 0 }
  let k := startState (coreAt s 0) x placeRun t 0
  let s := setCtx s 0 x
  let s := setCore s 0 { k with imem := [(0, BitVec.ofNat 16 w), (1, BitVec.ofNat 16 (w / 65536))] }
  let s := updCluster s 0 (fun y => { y with holder := some (0, 0) })
  { s with agenda := [], cur := 0 }

/-- A unit takes an uncorrectable error and is poisoned (R247, R352). -/
def spoilUnit (s : State) (u : EccUnit) : State :=
  match u with
  | .slice g => { s with poison := insertNat g s.poison }
  | .dram g => { s with dpoison := insertNat g s.dpoison }
  | .caddy g => { s with dpoison := insertNat (2 ^ 34 + g) s.dpoison }
  | .slot n k => updCore s n (fun c =>
      { c with tags := tset c.tags k { words := match (tgetD c.tags k { words := [] }).words with
        | w :: l => (w ||| 0x20000000#32) :: l
        | [] => [0x20000000#32] } })
  | .acc n t => updCore s n (fun c => { c with accPoison := insertNat t c.accPoison })

/-- Phodiver accesses its private area in the channel of core n, which leaves a row open (R52, R410). -/
def privateAccess (s : State) (n : Nat) : State :=
  { s with rowOpen := tset s.rowOpen (n % 8192) (Config.privateRow s.fresh (n % 8192)), fresh := s.fresh + 1 }

/-- The move m; run is the meaning of an instruction. -/
def moveWith (run : Instr → State → Out) (m : Move) (s : State) : Out :=
  match m with
  | .core n => if n < 8192 then coreMove run s n else .fault (.noSuchCore n)
  | .event i x => if isModuleStep i then run i { s with input := x } else .next s
  | .elapse n => .next (elapse s n)
  | .engine n q k => .next (engineMove s n q k)
  | .optim c k we n => .next (optimMove s c k we n)
  | .stage => .next (warmStage s)
  | .softError => .next { s with softErr := s.softErr + 1 }
  | .eccError u => .next (spoilUnit s u)
  | .bar2Read m off n => .next (bar2Access s m off n)
  | .privateAccess n => .next (if phodiverRuns s then privateAccess s n else s)

/-- One step: the move at the head of the agenda or, when the agenda is empty, a move of the core State.cur (log 3). -/
def stepWith (run : Instr → State → Out) (s : State) : Out :=
  match s.agenda with
  | [] => moveWith run (.core s.cur) s
  | m :: rest => moveWith run m { s with agenda := rest }

end Sys2Proof.Machine
end

