-- ==== Sys2Proof/Machine/Step.lean ====
section
/-! DEFINITION. One step of the machine, and the placing of an instruction where step fetches next. -/

namespace Sys2Proof.Machine

/-- One step (log 3). -/
def step (s : State) : Host.Outcome State Fault Refusal := stepWith exec s

/-- The machine with an instruction placed where step fetches next (log 3): no agenda, core 0 at the start of a kernel of a
running record with every resource declared, and the instruction's parcels at its program counter. A step of the module has no
encoding and is not placed. -/
def State.withFetchWord (s : State) (nbits w : Nat) : State := placeWord s (w % 2 ^ nbits)

end Sys2Proof.Machine
end

