-- ==== Sys2Proof/Safety.lean ====
section
/-! DEFINITION. The words that the statements use: canonical memories, safe runs, an instruction that issues, and the state
after one that has issued. -/

namespace Sys2Proof

open Machine

/-- The memories are in canonical form: keys rise strictly and no listed byte is zero. -/
def MemoriesWf (s : State) : Prop :=
  Memory.wf s.slice = true ∧ Memory.wf s.gmeta = true ∧ Memory.wf s.dram = true ∧ Memory.wf s.caddy = true ∧
    Memory.wf s.host = true ∧ Memory.wf s.spill = true ∧ Memory.wf s.sram = true

/-- The state after n steps, if no step faults or refuses. -/
def runSteps : Nat → State → Option State
  | 0, s => some s
  | n + 1, s =>
    match step s with
    | .next s' => runSteps n s'
    | _ => none

/-- A state from which n steps are taken without a fault or a refusal. -/
def SafeFor (n : Nat) (s : State) : Prop := (runSteps n s).isSome = true

/-- Instruction i, which names what sh lists, issues on the core that moves: it passes the checks of R99 and has nothing to wait
for (R94 to R97). s1 is the state in which the results that it waited for are written. IssueConditions says when this holds. -/
def Issues (i : Instr) (sh : Shape) (s s1 : State) : Prop := issueCheck i sh s s.cur = .go s1

/-- What an instruction of len bytes leaves that issued on core n in s1 and whose own effect gives s2: the core goes on at the
next instruction (R94, R96). -/
def moveOn (s1 s2 : State) (n len : Nat) : State :=
  retire s2 n (coreAt s1 n).inflight.length (coreAt s1 n).priv ((coreAt s1 n).pc + BitVec.ofNat 32 len) 1

/-- The same for an instruction that goes on at pc. -/
def moveTo (s1 s2 : State) (n : Nat) (pc : Word) : State :=
  retire s2 n (coreAt s1 n).inflight.length (coreAt s1 n).priv pc 1

/-- The registers of a core read alike. -/
def SameRegs (c c' : Core) : Prop :=
  (∀ r : Nat, rdS c' r = rdS c r) ∧ (∀ r : Nat, rdV c' r = rdV c r) ∧ ∀ r : Nat, rdP c' r = rdP c r

/-- Every memory and all metadata read alike. -/
def SameMemory (s t : State) : Prop :=
  (∀ a, t.slice.read a = s.slice.read a) ∧ (∀ a, t.gmeta.read a = s.gmeta.read a) ∧ (∀ a, t.dram.read a = s.dram.read a) ∧
    (∀ a, t.caddy.read a = s.caddy.read a) ∧ (∀ a, t.host.read a = s.host.read a) ∧ t.conf = s.conf ∧ t.poison = s.poison ∧
    t.dpoison = s.dpoison

end Sys2Proof
end

