-- ==== Sys2Proof/Certificates/Slice0/Obligations.lean ====
section
/-! DEFINITION. The statements for the provers. Tables such as Spec.scalarRow give, for each instruction that they list, what
its entry in the specification gives; a statement quantifies over all that its table lists. -/

namespace Sys2Proof.Spec

open Machine

/-! ## Integer instructions (R80, R111 to R114) -/

/-- What a row of R111 to R114 gives: what the instruction names for its issue, its destination and the result. -/
abbrev ScalarRow := Shape × Reg × Word

/-- The single-cycle integer instructions and their compact forms (R80, R95). -/
def scalarRow (i : Instr) (c : Core) : Option ScalarRow :=
  let g := fun (r : Reg) => rdS c r.toNat
  let one := fun (b : Bool) => if b then 1#32 else 0#32
  match i with
  | .add d a b => some (sh3 d a b, d, g a + g b)
  | .sub d a b => some (sh3 d a b, d, g a - g b)
  | .and d a b => some (sh3 d a b, d, g a &&& g b)
  | .or d a b => some (sh3 d a b, d, g a ||| g b)
  | .xor d a b => some (sh3 d a b, d, g a ^^^ g b)
  | .andn d a b => some (sh3 d a b, d, g a &&& ~~~(g b))
  | .sll d a b => some (sh3 d a b, d, BitVec.ofNat 32 ((g a).toNat * 2 ^ ((g b).toNat % 32)))
  | .srl d a b => some (sh3 d a b, d, BitVec.ofNat 32 ((g a).toNat / 2 ^ ((g b).toNat % 32)))
  | .sra d a b => some (sh3 d a b, d, BitVec.ofInt 32 ((g a).toInt / 2 ^ ((g b).toNat % 32)))
  | .slt d a b => some (sh3 d a b, d, one (decide ((g a).toInt < (g b).toInt)))
  | .sltu d a b => some (sh3 d a b, d, one (decide ((g a).toNat < (g b).toNat)))
  | .min d a b => some (sh3 d a b, d, BitVec.ofInt 32 (min (g a).toInt (g b).toInt))
  | .max d a b => some (sh3 d a b, d, BitVec.ofInt 32 (max (g a).toInt (g b).toInt))
  | .minu d a b => some (sh3 d a b, d, BitVec.ofNat 32 (min (g a).toNat (g b).toNat))
  | .maxu d a b => some (sh3 d a b, d, BitVec.ofNat 32 (max (g a).toNat (g b).toNat))
  | .clz d a => some (sh2 d a, d, BitVec.ofNat 32 ((List.range 32).takeWhile (fun k => !(g a).getLsbD (31 - k))).length)
  | .ctz d a => some (sh2 d a, d, BitVec.ofNat 32 ((List.range 32).takeWhile (fun k => !(g a).getLsbD k)).length)
  | .popc d a => some (sh2 d a, d, BitVec.ofNat 32 ((List.range 32).filter (fun k => (g a).getLsbD k)).length)
  | .brev d a => some (sh2 d a, d, (g a).reverse)
  | .addi d a k => some (sh2 d a, d, g a + k.signExtend 32)
  | .andi d a k => some (sh2 d a, d, g a &&& k.signExtend 32)
  | .ori d a k => some (sh2 d a, d, g a ||| k.signExtend 32)
  | .xori d a k => some (sh2 d a, d, g a ^^^ k.signExtend 32)
  | .slti d a k => some (sh2 d a, d, one (decide ((g a).toInt < k.toInt)))
  | .sltiu d a k => some (sh2 d a, d, one (decide ((g a).toNat < (k.signExtend 32).toNat)))
  | .slli d a k => some (sh2 d a, d, BitVec.ofNat 32 ((g a).toNat * 2 ^ k.toNat))
  | .srli d a k => some (sh2 d a, d, BitVec.ofNat 32 ((g a).toNat / 2 ^ k.toNat))
  | .srai d a k => some (sh2 d a, d, BitVec.ofInt 32 ((g a).toInt / 2 ^ k.toNat))
  | .lui d k => some ({ names := [nS d] }, d, BitVec.ofNat 32 (k.toNat * 4096))
  | .cMv d a => some (compact (sh3 d a 0#5), d, g a)
  | .cAdd d a => some (compact (sh3 d d a), d, g d + g a)
  | .cSub d a => some (compact (sh3 d d a), d, g d - g a)
  | .cAnd d a => some (compact (sh3 d d a), d, g d &&& g a)
  | .cOr d a => some (compact (sh3 d d a), d, g d ||| g a)
  | .cXor d a => some (compact (sh3 d d a), d, g d ^^^ g a)
  | .cAddi d k => some (compact (sh2 d d), d, g d + k.signExtend 32)
  | .cLi d k => some (compact (sh2 d 0#5), d, k.signExtend 32)
  | .cSlli d k => some (compact (sh2 d d), d, BitVec.ofNat 32 ((g d).toNat * 2 ^ k.toNat))
  | .cSrli d k => some (compact (sh2 d d), d, BitVec.ofNat 32 ((g d).toNat / 2 ^ k.toNat))
  | .cSrai d k => some (compact (sh2 d d), d, BitVec.ofInt 32 ((g d).toInt / 2 ^ k.toNat))
  | .cSlt d a => some (compact (sh3 d d a), d, one (decide ((g d).toInt < (g a).toInt)))
  | _ => none

/-- The interlocked integer instructions: multiplication and division (R95, R111). -/
def mulDivRow (i : Instr) (c : Core) : Option ScalarRow :=
  let g := fun (r : Reg) => rdS c r.toNat
  match i with
  | .mul d a b => some (sh3 d a b, d, BitVec.ofNat 32 ((g a).toNat * (g b).toNat))
  | .mulh d a b => some (sh3 d a b, d, BitVec.ofInt 32 ((g a).toInt * (g b).toInt / 2 ^ 32))
  | .mulhu d a b => some (sh3 d a b, d, BitVec.ofNat 32 ((g a).toNat * (g b).toNat / 2 ^ 32))
  | .div d a b => some (sh3 d a b, d, if g b = 0#32 then 0xFFFFFFFF#32
      else if g a = 0x80000000#32 ∧ g b = 0xFFFFFFFF#32 then 0x80000000#32
      else BitVec.ofInt 32 ((g a).toInt.tdiv (g b).toInt))
  | .divu d a b => some (sh3 d a b, d, if g b = 0#32 then 0xFFFFFFFF#32 else BitVec.ofNat 32 ((g a).toNat / (g b).toNat))
  | .rem d a b => some (sh3 d a b, d, if g b = 0#32 then g a
      else if g a = 0x80000000#32 ∧ g b = 0xFFFFFFFF#32 then 0#32
      else BitVec.ofInt 32 ((g a).toInt.tmod (g b).toInt))
  | .remu d a b => some (sh3 d a b, d, if g b = 0#32 then g a else BitVec.ofNat 32 ((g a).toNat % (g b).toNat))
  | _ => none

/-! ## Branches and jumps (R80, R115 to R117) -/

/-- What a row of R115 gives: what the branch names, the target's distance in bytes, and whether the branch is taken. -/
def branchRow (i : Instr) (c : Core) : Option (Shape × Word × Bool) :=
  let g := fun (r : Reg) => rdS c r.toNat
  match i with
  | .beq a b o => some (shB a b, o.signExtend 32 * 2#32, decide (g a = g b))
  | .bne a b o => some (shB a b, o.signExtend 32 * 2#32, decide (g a ≠ g b))
  | .blt a b o => some (shB a b, o.signExtend 32 * 2#32, decide ((g a).toInt < (g b).toInt))
  | .bge a b o => some (shB a b, o.signExtend 32 * 2#32, decide ((g b).toInt ≤ (g a).toInt))
  | .bltu a b o => some (shB a b, o.signExtend 32 * 2#32, decide ((g a).toNat < (g b).toNat))
  | .bgeu a b o => some (shB a b, o.signExtend 32 * 2#32, decide ((g b).toNat ≤ (g a).toNat))
  | .cBeqz d o => some ({ shB d 0#5 with len := 2 }, o.signExtend 32 * 2#32, decide (g d = 0#32))
  | .cBnez d o => some ({ shB d 0#5 with len := 2 }, o.signExtend 32 * 2#32, decide (g d ≠ 0#32))
  | _ => none

/-- What R116, R117 and c.jr give: what the jump names, the register of its link, and its target. -/
def jumpRow (i : Instr) (c : Core) : Option (Shape × Reg × Word) :=
  match i with
  | .jal d o => some ({ names := [nS d] }, d, c.pc + o.signExtend 32 * 2#32)
  | .jalr d a k => some ({ names := [nS d, nS a] }, d, (rdS c a.toNat + k.signExtend 32) &&& 0xFFFFFFFE#32)
  | .cJr d => some ({ len := 2, names := [nS d] }, 0#5, rdS c d.toNat &&& 0xFFFFFFFE#32)
  | _ => none

end Sys2Proof.Spec

open Sys2Proof Sys2Proof.Machine

/-- R111 to R114 and the compact forms of R80. An integer instruction of the single class completes: its result, as its row gives
it, is in the destination (a write to s0 is discarded), and nothing else of the machine changes but what moveOn says of every
instruction that issues. -/
def Sys2Proof.Spec.ScalarResults : Prop :=
  ∀ (i : Instr) (s s1 : State) (sh : Shape) (d : Reg) (x : Word),
    Spec.scalarRow i (coreAt s1 s.cur) = some (sh, d, x) → Issues i sh s s1 →
    exec i s = .next (moveOn s1 (setCore s1 s.cur (wrS (coreAt s1 s.cur) d.toNat x)) s.cur sh.len)

/-- R95, R111. A multiplication or division completes its issue, and its result is pending for the destination until an
instruction needs it. -/
def Sys2Proof.Spec.MulDivResults : Prop :=
  ∀ (i : Instr) (s s1 : State) (sh : Shape) (d : Reg) (x : Word),
    Spec.mulDivRow i (coreAt s1 s.cur) = some (sh, d, x) → Issues i sh s s1 →
    exec i s = .next (moveOn s1 (pend s1 s.cur .interlocked 0#4 [sres (coreAt s1 s.cur) d x] 0#5 []) s.cur sh.len)

/-- R115 and R80. A conditional branch goes to its target where its comparison holds, and to the next instruction otherwise. -/
def Sys2Proof.Spec.Branches : Prop :=
  ∀ (i : Instr) (s s1 : State) (sh : Shape) (off : Word) (taken : Bool),
    Spec.branchRow i (coreAt s1 s.cur) = some (sh, off, taken) → Issues i sh s s1 →
    exec i s = .next (if taken then moveTo s1 s1 s.cur ((coreAt s1 s.cur).pc + off) else moveOn s1 s1 s.cur sh.len)

/-- R116, R117 and R80. A jump writes the next program counter to its link register and goes to its target, which is taken
before the link is written. -/
def Sys2Proof.Spec.Jumps : Prop :=
  ∀ (i : Instr) (s s1 : State) (sh : Shape) (d : Reg) (pc : Word),
    Spec.jumpRow i (coreAt s1 s.cur) = some (sh, d, pc) → Issues i sh s s1 →
    exec i s = .next (moveTo s1
      (setCore s1 s.cur (wrS (coreAt s1 s.cur) d.toNat ((coreAt s1 s.cur).pc + BitVec.ofNat 32 sh.len))) s.cur pc)

namespace Sys2Proof.Spec

/-- What R118 gives for the four control-register instructions: what they name, the register number, the destination of the old value,
and the new value, if one is written. -/
def crRow (i : Instr) (c : Core) : Option (Shape × BitVec 12 × Reg × Option Word) :=
  let g := fun (r : Reg) => rdS c r.toNat
  match i with
  | .crr d k => some ({ names := nS d :: crNames k.toNat, sys := true }, k, d, none)
  | .crw a k => some ({ names := nS a :: crNames k.toNat, sys := true }, k, 0#5, some (g a))
  | .crs d a k => some ({ names := [nS d, nS a] ++ crNames k.toNat, sys := true }, k, d,
      if a = 0#5 then none else some (readCr c k.toNat ||| g a))
  | .crc d a k => some ({ names := [nS d, nS a] ++ crNames k.toNat, sys := true }, k, d,
      if a = 0#5 then none else some (readCr c k.toNat &&& ~~~(g a)))
  | _ => none

/-- The control registers that may be written, but for the budgets and QUANT, with the bits that each keeps (R105 to R110). -/
def writable : List (Nat × Word) :=
  [(0x000, 0x1FF#32), (0x001, 0x1F#32), (0x008, 0xFF#32), (0x009, BitVec.allOnes 32), (0x00A, BitVec.allOnes 32), (0x010, BitVec.allOnes 32),
   (0x011, BitVec.allOnes 32), (0x012, BitVec.allOnes 32), (0x013, BitVec.allOnes 32), (0x018, 0xFFFF#32), (0x019, BitVec.allOnes 32),
   (0x01A, BitVec.allOnes 32), (0x040, BitVec.allOnes 32), (0x041, BitVec.allOnes 32), (0x042, BitVec.allOnes 32),
   (0x044, BitVec.allOnes 32), (0x050, BitVec.allOnes 32)]

/-- The watchdog budgets TFWD, QWD and SWD, with their defaults (R357). -/
def budgets : List (Nat × Word) := [(0x028, 0x00100000#32), (0x029, 0x00400000#32), (0x02A, 0x01000000#32)]

/-- R63, R98. The entry of trap r on core n waits for no result that the core cannot complete by itself: no request at the
record-pool controller is pending, and no result of a window close, but for QUANTUM-DEADLOCK, which ends the wait for one (log 12). -/
def mayEnter (s : State) (n : Nat) (r : TrapReq) : Prop :=
  let c := coreAt s n
  (∀ p ∈ c.inflight, p.done = false → p.kind ≠ .pool) ∧
  (r.cause = .quantumDeadlock ∨ ∀ p ∈ c.inflight, p.done = false → p.kind ≠ .window)

end Sys2Proof.Spec

/-- R118, R105, R349. A control-register instruction whose register exists, whose level allows it and which writes no read-only
register, nor QUANT in a DET context (R349), completes: the new value is written and sD takes the old one. -/
def Sys2Proof.Spec.ControlRegisters : Prop :=
  ∀ (i : Instr) (s s1 : State) (sh : Shape) (k : BitVec 12) (d : Reg) (new : Option Word) (info : CrInfo),
    Spec.crRow i (coreAt s1 s.cur) = some (sh, k, d, new) → Issues i sh s s1 → crInfo k.toNat = some info →
    (info.priv = true → (coreAt s1 s.cur).priv = true) → (new ≠ none → info.ro = false) →
    (new ≠ none → k = 0x02B#12 → detOf s1 s.cur = false) →
    exec i s = .next (moveOn s1 (setCore s1 s.cur
      (wrS (match new with
        | some x => writeCr (coreAt s1 s.cur) k.toNat x
        | none => coreAt s1 s.cur) d.toNat (readCr (coreAt s1 s.cur) k.toNat))) s.cur 4)

/-- R118, R105, R110, R349. A control-register instruction traps, with nothing written: ILL where the register is not listed or a
read-only one would be written, PRIV with its number where a privileged register is named at user level, before the ILL of the write,
and PRIV with 0x02B where QUANT would be written in a DET context. -/
def Sys2Proof.Spec.ControlRegisterTraps : Prop :=
  ∀ (i : Instr) (s s1 : State) (sh : Shape) (k : BitVec 12) (d : Reg) (new : Option Word),
    Spec.crRow i (coreAt s1 s.cur) = some (sh, k, d, new) → Issues i sh s s1 →
    (crInfo k.toNat = none → exec i s = .next (takeTrap s1 s.cur { cause := .ill, info := encodeWord i })) ∧
    ∀ info : CrInfo, crInfo k.toNat = some info →
      (info.priv = true → (coreAt s1 s.cur).priv = false →
        exec i s = .next (takeTrap s1 s.cur { cause := .priv, info := BitVec.ofNat 32 k.toNat })) ∧
      ((info.priv = true → (coreAt s1 s.cur).priv = true) → info.ro = true → new ≠ none →
        exec i s = .next (takeTrap s1 s.cur { cause := .ill, info := encodeWord i })) ∧
      ((info.priv = true → (coreAt s1 s.cur).priv = true) → k = 0x02B#12 → new ≠ none → detOf s1 s.cur = true →
        exec i s = .next (takeTrap s1 s.cur { cause := .priv, info := 0x02B#32 }))

/-- R105, R106, R107, R108, R109, R110, R357. A control register reads back what was written to it, with the bits that it keeps; a watchdog
budget reads its default after 0, and QUANT the value clamped to 256 to 65,536; a write to one leaves every other, and TSTAT reads
the level of the core. -/
def Sys2Proof.Spec.ControlRegisterValues : Prop :=
  (∀ (c : Core) (n : Nat) (m x : Word), (n, m) ∈ Spec.writable → readCr (writeCr c n x) n = x &&& m) ∧
  (∀ (c : Core) (n : Nat) (d x : Word), (n, d) ∈ Spec.budgets → readCr (writeCr c n x) n = if x = 0#32 then d else x) ∧
  (∀ (c : Core) (x : Word), (readCr (writeCr c 0x02B x) 0x02B).toNat = max 256 (min x.toNat 65536)) ∧
  (∀ (c : Core) (n k : Nat) (x : Word), n ≠ k → readCr (writeCr c n x) k = readCr c k) ∧
  (∀ c : Core, readCr c 0x048 = (if c.iact then 2#32 else 0#32) + (if c.priv then 1#32 else 0#32))

/-- R119, R120. trap raises TRAP with sA as its detail, and brk raises BREAK. -/
def Sys2Proof.Spec.SoftwareTraps : Prop :=
  (∀ (a : Reg) (s s1 : State), Issues (.trap a) { names := [nS a], sys := true } s s1 →
    exec (.trap a) s = .next (takeTrap s1 s.cur { cause := .trap, info := rdS (coreAt s1 s.cur) a.toNat })) ∧
  ∀ (s s1 : State), Issues .brk { sys := true } s s1 → exec .brk s = .next (takeTrap s1 s.cur { cause := .brk, info := 0#32 })

/-- R98, R345, R346, R348. A trap at user level whose mask bit sends it to the handler, with no debug session that takes a BREAK, once every
result that is not the core's own to complete has come: EPC, ECAUSE and EINFO are written, and the core is at the privileged level at byte 0
of handler memory. Where such a result is still to come the trap is kept, and the core stays at its instruction; it stalls there under R63, which
QUANTUM-DEADLOCK ends without a wait for it, where it holds the window of that result open itself, which is the model's reading (log 12). -/
def Sys2Proof.Spec.TrapToHandler : Prop :=
  ∀ (s : State) (n : Nat) (r : TrapReq) (t : Task) (x : Ctx) (u : Run),
    taskEnv s n = some (t, x, u) → (coreAt s n).priv = false → masked x r.cause = true → ¬(r.cause = .brk ∧ x.debug = true) →
    (Spec.mayEnter s n r → (coreAt (takeTrap s n r) n).priv = true ∧ (coreAt (takeTrap s n r) n).pc = 0#32 ∧
      (coreAt (takeTrap s n r) n).cr.epc = (coreAt s n).pc ∧ (coreAt (takeTrap s n r) n).cr.ecause = ecauseOf r ∧
      (coreAt (takeTrap s n r) n).cr.einfo = r.info ∧ (coreAt (takeTrap s n r) n).task = (coreAt s n).task) ∧
    (¬Spec.mayEnter s n r → (coreAt (takeTrap s n r) n).trap = some r ∧ (coreAt (takeTrap s n r) n).priv = false ∧
      (coreAt (takeTrap s n r) n).pc = (coreAt s n).pc ∧ (coreAt (takeTrap s n r) n).cr.epc = (coreAt s n).cr.epc ∧
      (coreAt (takeTrap s n r) n).task = (coreAt s n).task ∧
      (∀ p ∈ (coreAt s n).inflight, p.done = false → p.kind = .window → x.det = true →
        (coreAt s n).count < (p.win + 1) * (coreAt s n).cr.quant.toNat → (coreAt s n).trap = none →
        ∃ w, (coreAt (takeTrap s n r) n).wait = some w ∧ w.kind = .windowResult))

/-- R347, R349, R350. A trap, but for that of the timer (R348), that no handler takes, because its mask bit is clear or the core is at
the privileged level already, ends the task: the core has no task, and the report joins the record's. -/
def Sys2Proof.Spec.TrapFatal : Prop :=
  ∀ (s : State) (n : Nat) (r : TrapReq) (t : Task) (x : Ctx) (u : Run),
    taskEnv s n = some (t, x, u) → r.cause ≠ .timer → ¬(r.cause = .brk ∧ x.debug = true ∧ (coreAt s n).priv = false) →
    ((coreAt s n).priv = true ∨ masked x r.cause = false) → Spec.mayEnter s n r →
    (coreAt (takeTrap s n r) n).task = none ∧ (coreAt (takeTrap s n r) n).next = none ∧
    ∃ (y : Ctx) (v : Run) (f : Fatal), ctxAt (takeTrap s n r) t.ctx = some y ∧ runAt y t.ridx = some v ∧ v.fatals = u.fatals ++ [f] ∧
      f.core = prel x n ∧ f.ecause = ecauseOf r ∧ f.einfo = r.info ∧ f.epc = (coreAt s n).pc

/-- R121, R349. eret leaves the privileged level for EPC; at user level it leaves a completion handler for IEPC; in neither it is
PRIV. That bit 0 of the target falls, since a program counter is even (R73), is the model's reading (log 48). -/
def Sys2Proof.Spec.Eret : Prop :=
  ∀ (s s1 : State), Issues .eret { sys := true } s s1 →
    ((coreAt s1 s.cur).priv = true → exec .eret s = .next (moveTo s1
      (setCore s1 s.cur { coreAt s1 s.cur with priv := false, timerHnd := false }) s.cur ((coreAt s1 s.cur).cr.epc &&& 0xFFFFFFFE#32))) ∧
    ((coreAt s1 s.cur).priv = false → (coreAt s1 s.cur).iact = true → exec .eret s = .next (moveTo s1
      (setCore s1 s.cur { coreAt s1 s.cur with iact := false }) s.cur ((coreAt s1 s.cur).cr.iepc &&& 0xFFFFFFFE#32))) ∧
    ((coreAt s1 s.cur).priv = false → (coreAt s1 s.cur).iact = false →
      exec .eret s = .next (takeTrap s1 s.cur { cause := .priv, info := 0#32 }))

/-- R122. yield changes no register: in a DET context it counts to the end of the window; in another it waits, at either level, until
the window that was open when it began to wait has closed. -/
def Sys2Proof.Spec.Yield : Prop :=
  ∀ (s s1 : State), Issues .yield { sys := true, wp := true } s s1 →
    (detOf s1 s.cur = true → exec .yield s = .next (retire s1 s.cur (coreAt s1 s.cur).inflight.length (coreAt s1 s.cur).priv
      ((coreAt s1 s.cur).pc + 4#32)
      ((coreAt s1 s.cur).cr.quant.toNat - (coreAt s1 s.cur).count % (coreAt s1 s.cur).cr.quant.toNat))) ∧
    (detOf s1 s.cur = false → ∀ w : Waiting, (coreAt s1 s.cur).wait = some w → w.kind = .yield →
      w.mark < unclosedWindow s1 s.cur → exec .yield s = .next (moveOn s1 s1 s.cur 4)) ∧
    (detOf s1 s.cur = false → (coreAt s1 s.cur).wait = none →
      exec .yield s = .next (waitAs s1 s.cur .yield))

/-- R80, R124, R256, R257. task.end and c.end at user level, with no result of a window close pending, no engine command, no card and no
undelivered fault: the task ends. Where no core of the cluster waits at an array join nothing else happens; where one does in the
task's wave, which has fewer than eight participants now, it raises GANG-MISMATCH with reason 0x05 and the mask of the participants. That cores which have
not started their task of the wave, and those whose task a fatal trap ended, are among the participants is the model's reading of R256 (log 45). -/
def Sys2Proof.Spec.TaskEndCompletes : Prop :=
  ∀ (i : Instr) (sh : Shape) (s s1 : State),
    (i = .taskEnd ∧ sh = { sys := true } ∨ i = .cEnd ∧ sh = { len := 2, sys := true }) → Issues i sh s s1 →
    pendingKind (coreAt s1 s.cur) .window = false → (coreAt s1 s.cur).cmds = [] → cardsOf s1 s.cur = [] →
    (coreAt s1 s.cur).afaults = [] → (coreAt s1 s.cur).priv = false → ∃ r : State, exec i s = .next r ∧
      let e := endTask s1 s.cur
      let cl := clusterOf s.cur
      ((∀ m ∈ clusterCores cl, joinOf (coreAt e m) false = none) → r = e) ∧
      ∀ (t : Task) (m : Nat), (coreAt s1 s.cur).task = some t → mayHold e t s.cur = false →
        (clusterCores cl).filter (fun k => holdsWave e t k && (joinOf (coreAt e k) false).isSome) = [m] →
        r = takeTrap e m { cause := .gangMismatch, info := BitVec.ofNat 32 (0x05000000 +
          (((List.range 8).filter (fun k => mayHold e t (8 * cl + k))).map (2 ^ ·)).sum) }

/-- R34, R59, R124. The end of a task that is not the record's last: NDONE of its record rises by one, GCOUNT is cleared, the core has
no task and its next wave is placed; after a task that ran again, the wave in which the core stood before, which is the model's reading of R267
(log 55). -/
def Sys2Proof.Spec.TaskEndEffect : Prop :=
  ∀ (s : State) (n : Nat) (t : Task) (x : Ctx) (u : Run),
    taskEnv s n = some (t, x, u) → recNdone s t.ctx x t.ridx + 1 < 2 ^ 24 →
    recNdone s t.ctx x t.ridx + 1 ≠ tileCount (fun i => u.copy.getD i 0#32) →
    recNdone (endTask s n) t.ctx x t.ridx = recNdone s t.ctx x t.ridx + 1 ∧
    (coreAt (endTask s n) n).task = none ∧ (coreAt (endTask s n) n).gcount = 0 ∧
    let place := taskAt t.ctx t.ridx (fun i => u.copy.getD i 0#32) (prel x n - 8 * clBase (fun i => u.copy.getD i 0#32))
    (t.after = [] → (coreAt (endTask s n) n).next = place (t.wave + 1)) ∧
    (∀ w b l, t.after = (w, b) :: l →
      (coreAt (endTask s n) n).next = (place w).map (fun v => { v with rerun := b, after := l }))

namespace Sys2Proof.Spec

/-- The holds of a VEC instruction (R103, R186). -/
def holds (m : Vm) (a b : Reg) (c : Core) : Core := holdReg (holdReg c m.ha a) m.hb b

/-- The vector instructions of R189 to R206: what each names, its latency class, lookahead and holds, and its result on a core. -/
def vecRow (i : Instr) : Option (Shape × PKind × BitVec 4 × (Core → Core) × (Core → VRes)) :=
  match i with
  | .vadd d a b m => some (shVVV d a b m, .interlocked, 0#4, holds m a b, (vintRes lAdd true d a b m))
  | .vsub d a b m => some (shVVV d a b m, .interlocked, 0#4, holds m a b, (vintRes lSub true d a b m))
  | .vadds d a b m => some (shVVV d a b m, .interlocked, 0#4, holds m a b, (vintRes lAdds true d a b m))
  | .vsubs d a b m => some (shVVV d a b m, .interlocked, 0#4, holds m a b, (vintRes lSubs true d a b m))
  | .vmul d a b m => some (shVVV d a b m, .interlocked, 0#4, holds m a b, (vintRes lMul true d a b m))
  | .vmin d a b m => some (shVVV d a b m, .interlocked, 0#4, holds m a b, (vintRes lMin true d a b m))
  | .vmax d a b m => some (shVVV d a b m, .interlocked, 0#4, holds m a b, (vintRes lMax true d a b m))
  | .vand d a b m => some (shVVV d a b m, .interlocked, 0#4, holds m a b,
      (vintRes (fun _ x y => x &&& y) false d a b m))
  | .vor d a b m => some (shVVV d a b m, .interlocked, 0#4, holds m a b,
      (vintRes (fun _ x y => x ||| y) false d a b m))
  | .vxor d a b m => some (shVVV d a b m, .interlocked, 0#4, holds m a b,
      (vintRes (fun _ x y => x ^^^ y) false d a b m))
  | .vsll d a b m => some (shVVV d a b m, .interlocked, 0#4, holds m a b, (vintRes lSll false d a b m))
  | .vsrl d a b m => some (shVVV d a b m, .interlocked, 0#4, holds m a b, (vintRes lSrl false d a b m))
  | .vsra d a b m => some (shVVV d a b m, .interlocked, 0#4, holds m a b, (vintRes lSra false d a b m))
  | .vminu d a b m => some (shVVV d a b m, .interlocked, 0#4, holds m a b,
      (vintRes (fun _ x y => min x y) true d a b m))
  | .vmaxu d a b m => some (shVVV d a b m, .interlocked, 0#4, holds m a b,
      (vintRes (fun _ x y => max x y) true d a b m))
  | .vcmpEq d a b m => some (shPVV d a b m, .interlocked, 0#4, holds m a b,
      (vcmpRes (fun _ x y => decide (x = y)) d a b m))
  | .vcmpNe d a b m => some (shPVV d a b m, .interlocked, 0#4, holds m a b,
      (vcmpRes (fun _ x y => decide (x ≠ y)) d a b m))
  | .vcmpLt d a b m => some (shPVV d a b m, .interlocked, 0#4, holds m a b,
      (vcmpRes (fun w x y => decide (sgn w x < sgn w y)) d a b m))
  | .vcmpGe d a b m => some (shPVV d a b m, .interlocked, 0#4, holds m a b,
      (vcmpRes (fun w x y => decide (sgn w y ≤ sgn w x)) d a b m))
  | .vcmpLtu d a b m => some (shPVV d a b m, .interlocked, 0#4, holds m a b,
      (vcmpRes (fun _ x y => decide (x < y)) d a b m))
  | .vcmpGeu d a b m => some (shPVV d a b m, .interlocked, 0#4, holds m a b,
      (vcmpRes (fun _ x y => decide (y ≤ x)) d a b m))
  | .vredsum d a m => some (shSV d a m, .interlocked, 0#4, holds m a 0#5, (vredRes redSum d a m))
  | .vredmax d a m => some (shSV d a m, .interlocked, 0#4, holds m a 0#5, (vredRes redMax d a m))
  | .vfadd d a b m => some (shVVV d a b m, .interlocked, 0#4, holds m a b, (vfpRes opFadd 1 d a b m))
  | .vfsub d a b m => some (shVVV d a b m, .interlocked, 0#4, holds m a b, (vfpRes opFsub 1 d a b m))
  | .vfmul d a b m => some (shVVV d a b m, .interlocked, 0#4, holds m a b, (vfpRes opFmul 1 d a b m))
  | .vfma d a b m => some (shVVV d a b m, .interlocked, 0#4, holds m a b, (vfpRes opFma 2 d a b m))
  | .vfnma d a b m => some (shVVV d a b m, .interlocked, 0#4, holds m a b, (vfpRes opFnma 2 d a b m))
  | .vfmin d a b m => some (shVVV d a b m, .interlocked, 0#4, holds m a b,
      (vfpRes (opMinMax fminmax false) 1 d a b m))
  | .vfmax d a b m => some (shVVV d a b m, .interlocked, 0#4, holds m a b, (vfpRes (opMinMax fminmax true) 1 d a b m))
  | .vfminp d a b m => some (shVVV d a b m, .interlocked, 0#4, holds m a b,
      (vfpRes (opMinMax fminmaxp false) 1 d a b m))
  | .vfmaxp d a b m => some (shVVV d a b m, .interlocked, 0#4, holds m a b,
      (vfpRes (opMinMax fminmaxp true) 1 d a b m))
  | .vfabs d a m => some (shVV d a m, .interlocked, 0#4, holds m a 0#5, (vfcopyRes (fun F x => magOf F x) d a m))
  | .vfneg d a m => some (shVV d a m, .interlocked, 0#4, holds m a 0#5,
      (vfcopyRes (fun F x => withSign F (!signOf F x) (magOf F x)) d a m))
  | .vfclass d a m => some (shVV d a m, .interlocked, 0#4, holds m a 0#5, (vfcopyRes classOf d a m))
  | .vfcmpEq d a b m => some (shPVV d a b m, .interlocked, 0#4, holds m a b, (vfcmpRes eqVal false d a b m))
  | .vfcmpLt d a b m => some (shPVV d a b m, .interlocked, 0#4, holds m a b, (vfcmpRes ltVal true d a b m))
  | .vfcmpLe d a b m => some (shPVV d a b m, .interlocked, 0#4, holds m a b,
      (vfcmpRes (fun x y => ltVal x y || eqVal x y) true d a b m))
  | .vfcmpUn d a b m => some (shPVV d a b m, .interlocked, 0#4, holds m a b,
      (vfcmpRes (fun x y => x.isNan || y.isNan) false d a b m))
  | .vfredsum d a m => some (shSV d a m, .interlocked, 0#4, holds m a 0#5, (vfredRes addFp32 0x80000000 d a m))
  | .vfredmax d a m => some (shSV d a m, .interlocked, 0#4, holds m a 0#5,
      (vfredRes (fminmax (ffmt fmtFP32) true) 0x7FC00000 d a m))
  | .vfredmin d a m => some (shSV d a m, .interlocked, 0#4, holds m a 0#5,
      (vfredRes (fminmax (ffmt fmtFP32) false) 0x7FC00000 d a m))
  | .vfdiv d a b w l => some ({ names := [nV d, nV a, nV b] }, .long, l, fun c => c, (vlRes opDiv d a b w))
  | .vfsqrt d a w l => some ({ names := [nV d, nV a] }, .long, l, fun c => c, (vlRes opSqrt d a a w))
  | .vfrcpa d a w l => some ({ names := [nV d, nV a] }, .long, l, fun c => c,
      (vlRes (opApprox .rcp (fpFmt w)) d a a w))
  | .vfrsqa d a w l => some ({ names := [nV d, nV a] }, .long, l, fun c => c,
      (vlRes (opApprox .rsq (fpFmt w)) d a a w))
  | .vexp2a d a w l => some ({ names := [nV d, nV a] }, .long, l, fun c => c,
      (vlRes (opApprox .exp2 (fpFmt w)) d a a w))
  | .vlog2a d a w l => some ({ names := [nV d, nV a] }, .long, l, fun c => c,
      (vlRes (opApprox .log2 (fpFmt w)) d a a w))
  | .vgauss d a b l => some ({ names := [nV d, nV a, nS b] }, .long, l, fun c => c, (vgaussRes d a b))
  | .vsel d a b m => some (shVVV d a b m, .interlocked, 0#4, holds m a b, (vselRes d a b m))
  | .vperm d a b m => some (shVVV d a b m, .interlocked, 0#4, holds m a b, (moveRes (permLane a b) d m))
  | .vbcast d a m => some ({ names := [nV d, nS a, ⟨.p, m.pred.toNat⟩] }, .interlocked, 0#4, holds m 0#5 0#5,
      (moveRes (fun w c _ => (rdS c a.toNat).toNat % 2 ^ w) d m))
  | .vbcastL d a k m => some (shVV d a m, .interlocked, 0#4, holds m a 0#5,
      (moveRes (fun w c _ => laneOf (rdV c a.toNat) w k.toNat) d m))
  | .vslideUp d a b m => some ({ names := [nV d, nV a, nS b, ⟨.p, m.pred.toNat⟩] }, .interlocked, 0#4, holds m a 0#5,
      (moveRes (slideUp a b) d m))
  | .vslideDn d a b m => some ({ names := [nV d, nV a, nS b, ⟨.p, m.pred.toNat⟩] }, .interlocked, 0#4, holds m a 0#5,
      (moveRes (slideDn a b) d m))
  | .vext d a b m => some ({ names := [nS d, nV a, nS b, ⟨.p, m.pred.toNat⟩] }, .interlocked, 0#4, holds m a 0#5,
      (vextRes d a b m))
  | .vins d a b m => some ({ names := [nV d, nS a, nS b, ⟨.p, m.pred.toNat⟩] }, .interlocked, 0#4, holds m 0#5 0#5,
      (moveRes (insLane d a b) d m))
  | .vcvtFN d a f q m => some (shConv d a m, .interlocked, 0#4, holds m a 0#5,
      (fun c => convRes 32 (cvtWidth f.toNat) q.toNat (narrowF f.toNat c.cr.fctl) [counterOf 3 f.toNat] m.w.toNat d a
        m c))
  | .vcvtFW d a f q m => some (shConv d a m, .interlocked, 0#4, holds m a 0#5,
      (fun c => convRes (cvtWidth f.toNat) 32 q.toNat (widenF f.toNat c.cr.fctl) [counterOf 3 f.toNat] m.w.toNat d a
        m c))
  | .vcvtIN d a i q m => some (shConv d a m, .interlocked, 0#4, holds m a 0#5,
      (fun c => convRes 32 (fmtWidth (cvtIFmt i)) q.toNat (narrowI (fmtWidth (cvtIFmt i)) c.cr.fctl) [counterOf 3
        (cvtIFmt i)] m.w.toNat d a m c))
  | .vcvtIW d a i q m => some (shConv d a m, .interlocked, 0#4, holds m a 0#5,
      (fun c => convRes (fmtWidth (cvtIFmt i)) 32 q.toNat (widenI (fmtWidth (cvtIFmt i)) c.cr.fctl) [counterOf 3
        (cvtIFmt i)] m.w.toNat d a m c))
  | .vcvtX d a t q m => some (shConv d a m, .interlocked, 0#4, holds m a 0#5,
      (fun c => noFlags (convRes (intWidth m.w) (intWidth t) q.toNat (fun x => (resizeS (intWidth m.w) (intWidth t)
        x, 0#5)) (cvtXCount t) 0 d a m c)))
  | .vcvtXu d a t q m => some (shConv d a m, .interlocked, 0#4, holds m a 0#5,
      (fun c => noFlags (convRes (intWidth m.w) (intWidth t) q.toNat (fun x => (resizeU (intWidth m.w) (intWidth t)
        x, 0#5)) (cvtXCount t) 0 d a m c)))
  | .vqnt d a b q m => some ({ names := [nV d, nV a, nS b, ⟨.p, m.pred.toNat⟩] }, .interlocked, 0#4, holds m a 0#5,
      (fun c => convRes 32 8 q.toNat (quantise (qntFmt m.w) c.cr.fctl (rdS c b.toNat)) [counterOf 3 (qntFmt m.w)]
        m.w.toNat d a m c))
  | .vdqnt d a b q m => some ({ names := [nV d, nV a, nS b, ⟨.p, m.pred.toNat⟩] }, .interlocked, 0#4, holds m a 0#5,
      (fun c => convRes 8 32 q.toNat (dequantise (qntFmt m.w) c.cr.fctl (rdS c b.toNat)) [counterOf 3 (qntFmt m.w)]
        m.w.toNat d a m c))
  | _ => none

/-- The predicate instructions (R207): what each names and the write of its result. -/
def predRow (i : Instr) (c : Core) : Option (Shape × Write) :=
  match i with
  | .pand d a b => some ({ names := [nP d, nP a, nP b] }, .p d.toNat (rdP c a.toNat &&& rdP c b.toNat))
  | .por d a b => some ({ names := [nP d, nP a, nP b] }, .p d.toNat (rdP c a.toNat ||| rdP c b.toNat))
  | .pnot d a => some ({ names := [nP d, nP a] }, .p d.toNat (~~~(rdP c a.toNat)))
  | .pset d a => some ({ names := [nP d, nS a] }, .p d.toNat (rdS c a.toNat))
  | .pcount d a w => some ({ names := [nS d, nP a] }, sres c d (BitVec.ofNat 32
      ((List.range (256 / (8 * 2 ^ w.toNat))).filter (fun k => (rdP c a.toNat).getLsbD (2 ^ w.toNat * k))).length))
  | _ => none

/-- A code of w bits as a signed number, and a number as a code. -/
def signed (w x : Nat) : Int := if 2 ^ (w - 1) ≤ x then (x : Int) - 2 ^ w else x
def code (w : Nat) (z : Int) : Nat := (z % 2 ^ w).toNat
def clamp (w : Nat) (z : Int) : Int := max (-(2 ^ (w - 1))) (min z (2 ^ (w - 1) - 1))

/-- The lane-wise integer instructions (R189): destination, sources, marks, and the result of lanes x and y of w bits. -/
def laneRow (i : Instr) : Option (Reg × Reg × Reg × Vm × (Nat → Nat → Nat → Nat)) :=
  match i with
  | .vadd d a b m => some (d, a, b, m, fun _ x y => x + y)
  | .vsub d a b m => some (d, a, b, m, fun w x y => code w ((x : Int) - y))
  | .vadds d a b m => some (d, a, b, m, fun w x y => code w (clamp w (signed w x + signed w y)))
  | .vsubs d a b m => some (d, a, b, m, fun w x y => code w (clamp w (signed w x - signed w y)))
  | .vmul d a b m => some (d, a, b, m, fun _ x y => x * y)
  | .vmin d a b m => some (d, a, b, m, fun w x y => code w (min (signed w x) (signed w y)))
  | .vmax d a b m => some (d, a, b, m, fun w x y => code w (max (signed w x) (signed w y)))
  | .vand d a b m => some (d, a, b, m, fun _ x y => x &&& y)
  | .vor d a b m => some (d, a, b, m, fun _ x y => x ||| y)
  | .vxor d a b m => some (d, a, b, m, fun _ x y => x ^^^ y)
  | .vsll d a b m => some (d, a, b, m, fun w x y => x * 2 ^ (y % w))
  | .vsrl d a b m => some (d, a, b, m, fun w x y => x / 2 ^ (y % w))
  | .vsra d a b m => some (d, a, b, m, fun w x y => code w (signed w x / 2 ^ (y % w)))
  | .vminu d a b m => some (d, a, b, m, fun _ x y => min x y)
  | .vmaxu d a b m => some (d, a, b, m, fun _ x y => max x y)
  | _ => none

/-- The lane-wise integer compares (R190): destination, sources, marks and the test. -/
def compareRow (i : Instr) : Option (Reg × Reg × Reg × Vm × (Nat → Nat → Nat → Bool)) :=
  match i with
  | .vcmpEq d a b m => some (d, a, b, m, fun _ x y => decide (x = y))
  | .vcmpNe d a b m => some (d, a, b, m, fun _ x y => decide (x ≠ y))
  | .vcmpLt d a b m => some (d, a, b, m, fun w x y => decide (signed w x < signed w y))
  | .vcmpGe d a b m => some (d, a, b, m, fun w x y => decide (signed w y ≤ signed w x))
  | .vcmpLtu d a b m => some (d, a, b, m, fun _ x y => decide (x < y))
  | .vcmpGeu d a b m => some (d, a, b, m, fun _ x y => decide (y ≤ x))
  | _ => none

end Sys2Proof.Spec

/-- R187, R188, R351. A vector instruction that raises no enabled flag completes its issue: its sources marked for it are held, and
its result is pending with its flags and counts; where a trap is enabled and it may set flags, the result is written at once. -/
def Sys2Proof.Spec.VectorCompletes : Prop :=
  ∀ (i : Instr) (s s1 : State) (sh : Shape) (k : PKind) (l : BitVec 4) (hold : Core → Core) (f : Core → VRes),
    Spec.vecRow i = some (sh, k, l, hold, f) → Issues i sh s s1 →
    fpxOf (coreAt s1 s.cur).cr.fctl (f (coreAt s1 s.cur)) = none →
    exec i s = .next (moveOn s1
      (let r := f (coreAt s1 s.cur)
       let s2 := pend (setCore s1 s.cur (hold (coreAt s1 s.cur))) s.cur k l r.writes (orFlags r.flags)
         (if (coreAt s1 s.cur).priv then [] else r.counts)
       if enablesOf (coreAt s1 s.cur).cr.fctl ≠ 0#5 ∧ r.flags ≠ [] then
         updCore s2 s.cur (fun c => completeIf (fun p => forcible p && decide (some p = c.inflight.getLast?)) c)
       else s2) s.cur 4)

/-- R351. A vector instruction with a lane that raises an enabled flag traps as FPX with that lane, and writes nothing. -/
def Sys2Proof.Spec.VectorFpx : Prop :=
  ∀ (i : Instr) (s s1 : State) (sh : Shape) (k : PKind) (l : BitVec 4) (hold : Core → Core) (f : Core → VRes) (r : TrapReq),
    Spec.vecRow i = some (sh, k, l, hold, f) → Issues i sh s s1 →
    fpxOf (coreAt s1 s.cur).cr.fctl (f (coreAt s1 s.cur)) = some r →
    exec i s = .next (takeTrap s1 s.cur r) ∧ r.cause = .fpx ∧
      ∃ e ∈ (f (coreAt s1 s.cur)).flags, r.lane = e.1 ∧ e.2 &&& enablesOf (coreAt s1 s.cur).cr.fctl ≠ 0#5

/-- R185, R189. Each active lane of an integer instruction takes the result of the source lanes modulo two to the lane width; the
other lanes keep their values; no flag is set. -/
def Sys2Proof.Spec.VectorIntegerLanes : Prop :=
  ∀ (i : Instr) (c : Core) (sh : Shape) (k : PKind) (l : BitVec 4) (hold : Core → Core) (f : Core → VRes) (d a b : Reg) (m : Vm)
    (g : Nat → Nat → Nat → Nat),
    Spec.vecRow i = some (sh, k, l, hold, f) → Spec.laneRow i = some (d, a, b, m, g) →
    ∃ v : VReg, (f c).writes = [.v d.toNat v] ∧ (f c).flags = [] ∧ ∀ j < 256 / intWidth m.w,
      laneOf v (intWidth m.w) j =
        if (rdP c m.pred.toNat).getLsbD (intWidth m.w / 8 * j) then
          g (intWidth m.w) (laneOf (rdV c a.toNat) (intWidth m.w) j) (laneOf (rdV c b.toNat) (intWidth m.w) j) % 2 ^ intWidth m.w
        else laneOf (rdV c d.toNat) (intWidth m.w) j

/-- R190. Every bit of the predicate that an integer compare writes is its lane's test; the bits of an inactive lane become 0. -/
def Sys2Proof.Spec.VectorCompareBits : Prop :=
  ∀ (i : Instr) (c : Core) (sh : Shape) (k : PKind) (l : BitVec 4) (hold : Core → Core) (f : Core → VRes) (d a b : Reg) (m : Vm)
    (g : Nat → Nat → Nat → Bool),
    Spec.vecRow i = some (sh, k, l, hold, f) → Spec.compareRow i = some (d, a, b, m, g) → m.w.toNat < 3 →
    ∃ v : Word, (f c).writes = [.p d.toNat v] ∧ (f c).flags = [] ∧ ∀ j < 32, v.getLsbD j =
      (let w := intWidth m.w
       let n := j / (w / 8)
       (rdP c m.pred.toNat).getLsbD (w / 8 * n) && g w (laneOf (rdV c a.toNat) w n) (laneOf (rdV c b.toNat) w n))

/-- R207. A predicate instruction completes its issue with its result pending: for a predicate, or the number of the lanes whose first
bit is set for sD. -/
def Sys2Proof.Spec.PredicateResults : Prop :=
  ∀ (i : Instr) (s s1 : State) (sh : Shape) (w : Write),
    Spec.predRow i (coreAt s1 s.cur) = some (sh, w) → Issues i sh s s1 →
    exec i s = .next (moveOn s1 (pend s1 s.cur .interlocked 0#4 [w] 0#5 []) s.cur 4)

/-- R107, R187. When a pending instruction completes, FFLG takes the union of its old value and the instruction's flags: no flag is
ever cleared so. -/
def Sys2Proof.Spec.FlagsAccrue : Prop :=
  ∀ (c : Core) (p : Pending), (finish c p).cr.fflg = c.cr.fflg ||| p.flags.zeroExtend 32

namespace Sys2Proof.Spec

/-! ## Floating-point codes as numbers (R131, R132, R192) -/

/-- The exponent and fraction widths of the format that W selects: FP32, FP16, BF16. -/
def fpBits (w : BitVec 2) : Nat × Nat := if w = 0#2 then (8, 23) else if w = 1#2 then (5, 10) else (8, 7)

/-- The number that a finite code stands for, in units of the format's least positive number. -/
def units (eb mb x : Nat) : Option Int :=
  let e := x / 2 ^ mb % 2 ^ eb
  let f := x % 2 ^ mb
  let m : Nat := if e = 0 then f else (2 ^ mb + f) * 2 ^ (e - 1)
  if e = 2 ^ eb - 1 then none else some (if x / 2 ^ (eb + mb) % 2 = 1 then -m else m)

/-- The largest finite number of a format, and the number one, in these units. -/
def maxUnits (eb mb : Nat) : Nat := (2 ^ (mb + 1) - 1) * 2 ^ (2 ^ eb - 3)
def oneUnits (eb mb : Nat) : Nat := 2 ^ (2 ^ (eb - 1) - 2 + mb)

/-- The code is a NaN. -/
def isNaN (eb mb x : Nat) : Prop := x / 2 ^ mb % 2 ^ eb = 2 ^ eb - 1 ∧ x % 2 ^ mb ≠ 0

/-- The finite code r is nearest to the number n / k: no finite code is nearer, and where another is as near r is the even one. -/
def Nearest (eb mb : Nat) (k n : Int) (r : Nat) : Prop :=
  ∃ v, units eb mb r = some v ∧ ∀ z < 2 ^ (1 + eb + mb), ∀ u, units eb mb z = some u →
    (v * k - n).natAbs ≤ (u * k - n).natAbs ∧ (u ≠ v → (u * k - n).natAbs = (v * k - n).natAbs → r % 2 = 0)

/-- The code of a number too large for a format, under rounding to nearest: the infinity. -/
def infinity (eb mb : Nat) (neg : Bool) : Nat := (if neg then 2 ^ (eb + mb) else 0) + (2 ^ eb - 1) * 2 ^ mb

/-- The canonical NaN of a format with an infinity (R132). -/
def quietNaN (eb mb : Nat) : Nat := (2 ^ eb - 1) * 2 ^ mb + 2 ^ (mb - 1)

/-- The sign bit of a code. -/
def negative (eb mb x : Nat) : Bool := decide (x / 2 ^ (eb + mb) % 2 = 1)

/-- Code r is the number n / k, k above 0, rounded to nearest even (R137, R141): the nearest one, or the infinity where the rounding with an
unbounded exponent is beyond the largest finite number; a number that is not 0 keeps its sign. -/
def Rounds (eb mb : Nat) (k n : Int) (r : Nat) : Prop :=
  let edge := (2 * maxUnits eb mb + 2 ^ (2 ^ eb - 3)) * k.natAbs
  (2 * n.natAbs < edge → Nearest eb mb k n r) ∧ (edge ≤ 2 * n.natAbs → r = infinity eb mb (decide (n < 0))) ∧
  (n ≠ 0 → negative eb mb r = decide (n < 0))

/-- NX among the flags of lane j. -/
def inexact (l : List (Nat × FFlags)) (j : Nat) : Prop := ∃ fl, (j, fl) ∈ l ∧ fl.getLsbD 4 = true

/-- Code r is the number n / k exactly. -/
def Exact (eb mb : Nat) (k n : Int) (r : Nat) : Prop := ∃ v, units eb mb r = some v ∧ v * k = n

/-- The arithmetic of R192: destination, sources and marks; whether the old destination lane is read; and the exact result n / k of the numbers x,
y and z of the source lanes and of that lane. -/
def arithRow (i : Instr) : Option (Reg × Reg × Reg × Vm × Bool × (Int → Int → Int → Int → Int × Int)) :=
  match i with
  | .vfadd d a b m => some (d, a, b, m, false, fun _ x y _ => (1, x + y))
  | .vfsub d a b m => some (d, a, b, m, false, fun _ x y _ => (1, x - y))
  | .vfmul d a b m => some (d, a, b, m, false, fun one x y _ => (one, x * y))
  | .vfma d a b m => some (d, a, b, m, true, fun one x y z => (one, x * y + z * one))
  | .vfnma d a b m => some (d, a, b, m, true, fun one x y z => (one, z * one - x * y))
  | _ => none

/-- Minimum, maximum (R193) and the compares (R195) of finite lanes. -/
def extremeRow (i : Instr) : Option (Reg × Reg × Reg × Vm × (Int → Int → Int)) :=
  match i with
  | .vfmin d a b m => some (d, a, b, m, fun x y => min x y)
  | .vfmax d a b m => some (d, a, b, m, fun x y => max x y)
  | .vfminp d a b m => some (d, a, b, m, fun x y => min x y)
  | .vfmaxp d a b m => some (d, a, b, m, fun x y => max x y)
  | _ => none

def orderRow (i : Instr) : Option (Reg × Reg × Reg × Vm × (Int → Int → Bool)) :=
  match i with
  | .vfcmpEq d a b m => some (d, a, b, m, fun x y => decide (x = y))
  | .vfcmpLt d a b m => some (d, a, b, m, fun x y => decide (x < y))
  | .vfcmpLe d a b m => some (d, a, b, m, fun x y => decide (x ≤ y))
  | .vfcmpUn d a b m => some (d, a, b, m, fun _ _ => false)
  | _ => none

/-- vfabs and vfneg (R194): the code of w bits with its sign bit cleared, or turned. -/
def signRow (i : Instr) : Option (Reg × Reg × Vm × (Nat → Nat → Nat)) :=
  match i with
  | .vfabs d a m => some (d, a, m, fun w x => x % 2 ^ (w - 1))
  | .vfneg d a m => some (d, a, m, fun w x => (x + 2 ^ (w - 1)) % 2 ^ w)
  | _ => none

/-- The data movement of R200 into vD: the marks, what an active lane j takes of n lanes of w bits, and what an inactive one takes. -/
def moveRow (i : Instr) (c : Core) : Option (Reg × Vm × (Nat → Nat → Nat → Nat) × Option Reg) :=
  let g := fun (r : Reg) => (rdS c r.toNat).toNat
  let v := fun (r : Reg) (w j : Nat) => laneOf (rdV c r.toNat) w j
  match i with
  | .vsel d a b m => some (d, m, fun w _ j => v a w j, some b)
  | .vperm d a b m => some (d, m, fun w n j => if v b w j < n then v a w (v b w j) else 0, none)
  | .vbcast d a m => some (d, m, fun w _ _ => g a % 2 ^ w, none)
  | .vbcastL d a k m => some (d, m, fun w _ _ => v a w k.toNat, none)
  | .vslideUp d a b m => some (d, m, fun w _ j => if g b ≤ j then v a w (j - g b) else 0, none)
  | .vslideDn d a b m => some (d, m, fun w n j => if j + g b < n then v a w (j + g b) else 0, none)
  | .vins d a b m => some (d, m, fun w _ j => if g b = j then g a % 2 ^ w else v d w j, none)
  | _ => none

/-- The source lane that lane j of nd takes of ns in part q, if it takes one (R201). -/
def partLane (ns nd q j : Nat) : Option Nat :=
  if ns < nd then if q * ns ≤ j ∧ j < (q + 1) * ns then some (j - q * ns) else none else some (q * nd + j)

/-- The signed code r of w bits is nearest to n / k among those of w bits, and even of two (R142). -/
def NearestInt (w : Nat) (k n : Int) (r : Nat) : Prop :=
  ∀ t : Int, -(2 ^ (w - 1)) ≤ t → t < 2 ^ (w - 1) → (signed w r * k - n).natAbs ≤ (t * k - n).natAbs ∧
    (t ≠ signed w r → (t * k - n).natAbs = (signed w r * k - n).natAbs → r % 2 = 0)

/-! ## The other formats (R131 to R134) -/

/-- The floating-point formats by their codes (R45): widths of exponent and fraction, the largest finite code, and q where the least positive
number is 2 to the power of -q. -/
def fmtRow (f : Nat) : Option (Nat × Nat × Nat × Nat) :=
  match f with
  | 0 => some (8, 23, 0x7F7FFFFF, 149)
  | 1 => some (5, 10, 0x7BFF, 24)
  | 2 => some (8, 7, 0x7F7F, 133)
  | 3 => some (4, 3, 0x7E, 9)
  | 4 => some (5, 2, 0x7B, 16)
  | 5 => some (3, 2, 0x1F, 4)
  | 6 => some (2, 3, 0x1F, 3)
  | 7 => some (2, 1, 0x7, 1)
  | _ => none

/-- FP16 and BF16: the widths, and the units of FP32 in one of theirs. -/
def halfFmt (f : BitVec 4) : Option (Nat × Nat × Nat) :=
  if f = 1#4 then some (5, 10, 2 ^ 125) else if f = 2#4 then some (8, 7, 2 ^ 16) else none

/-- The number of a code in units of 2 to the power of -q, and q: a format of fmtRow, or DS8 (R134), whose value is two signed powers of two. -/
def number (f x : Nat) : Option (Int × Nat) :=
  let term := fun (t : Nat) => (if t / 8 % 2 = 1 then -1 else 1) * (2 ^ (7 - t % 8) : Int)
  if f = 8 then some (term (x / 16 % 16) + term (x % 16), 7)
  else match fmtRow f with
    | some (eb, mb, top, q) =>
      let e := x / 2 ^ mb % 2 ^ eb
      let m : Nat := if e = 0 then x % 2 ^ mb else (2 ^ mb + x % 2 ^ mb) * 2 ^ (e - 1)
      if x % 2 ^ (eb + mb) ≤ top then some (if negative eb mb x then -(m : Int) else m, q) else none
    | none => none

/-- A conversion of the FP32 code x into the format of a row of fmtRow that has an infinity, rounding to nearest (R141). -/
def Narrows (eb mb q x r : Nat) : Prop :=
  (isNaN 8 23 x → r = quietNaN eb mb) ∧ (∀ neg, x = infinity 8 23 neg → r = infinity eb mb neg) ∧
  (∀ u, units 8 23 x = some u → Rounds eb mb (2 ^ (149 - q)) u r ∧ (u = 0 → r = if negative 8 23 x then 2 ^ (eb + mb) else 0))

/-- The same into a format without one, or with saturation: the nearest finite code, with the sign of the source; nan stands for a NaN. -/
def Saturates (eb mb top nan : Nat) (k n : Int) (r : Nat) (neg isnan isinf : Prop) : Prop :=
  let v := fun (x : Nat) =>
    let e := x / 2 ^ mb % 2 ^ eb
    let m : Nat := if e = 0 then x % 2 ^ mb else (2 ^ mb + x % 2 ^ mb) * 2 ^ (e - 1)
    if negative eb mb x then -(m : Int) else m
  (isnan → r = nan) ∧ (isinf → r % 2 ^ (eb + mb) = top) ∧ (¬isnan → r % 2 ^ (eb + mb) ≤ top ∧ (negative eb mb r = true ↔ neg)) ∧
  (¬isnan → ¬isinf → r < 2 ^ (1 + eb + mb) ∧ ∀ z < 2 ^ (1 + eb + mb), z % 2 ^ (eb + mb) ≤ top → (v r * k - n).natAbs ≤ (v z * k - n).natAbs ∧
    (v z ≠ v r → (v z * k - n).natAbs = (v r * k - n).natAbs → r % 2 = 0))

/-- The FP32 code r of the code x of a floating-point format or DS8, widened (R202): the same number, with the sign of a zero, the canonical NaN,
the infinity. -/
def Widens (f x r : Nat) : Prop :=
  (∀ u q, number f x = some (u, q) → units 8 23 r = some (u * 2 ^ (149 - q)) ∧ (f = 8 → u = 0 → r = 0) ∧
    ∀ eb mb top p, fmtRow f = some (eb, mb, top, p) → negative 8 23 r = negative eb mb x) ∧
  ∀ eb mb top q, fmtRow f = some (eb, mb, top, q) → number f x = none →
    if f ≠ 3 ∧ x % 2 ^ mb = 0 then r = infinity 8 23 (negative eb mb x) else r = quietNaN 8 23

/-- FP32 into DS8 (R144): the nearest value, of two the one of smaller magnitude, and of its codes the lowest; a NaN gives zero and an infinity 2 with
its sign. -/
def IntoDs8 (x r : Nat) : Prop :=
  (isNaN 8 23 x → r = 0x08) ∧ (∀ neg, x = infinity 8 23 neg → r = if neg then 0x88 else 0x00) ∧
  ∀ u v, units 8 23 x = some u → number 8 r = some (v, 7) → r < 256 ∧ ∀ z < 256, ∀ w, number 8 z = some (w, 7) →
    (v * 2 ^ 142 - u).natAbs ≤ (w * 2 ^ 142 - u).natAbs ∧ ((w * 2 ^ 142 - u).natAbs = (v * 2 ^ 142 - u).natAbs → v.natAbs ≤ w.natAbs) ∧
    (w = v → r ≤ z)

/-- FP32 into E8M0 (R144): the exponent of the magnitude, from 0 on; 0 for zero, 0xFF for a NaN and 0xFE for an infinity. -/
def IntoE8m0 (x r : Nat) : Prop :=
  (isNaN 8 23 x → r = 0xFF) ∧ (∀ neg, x = infinity 8 23 neg → r = 0xFE) ∧
  ∀ u, units 8 23 x = some u → (u.natAbs < 2 ^ 23 → r = 0) ∧ (2 ^ 22 ≤ u.natAbs → 2 ^ (r + 22) ≤ u.natAbs ∧ u.natAbs < 2 ^ (r + 23))

/-- E8M0 to FP32 (R133, R202). -/
def FromE8m0 (x r : Nat) : Prop := (x = 0xFF → r = quietNaN 8 23) ∧ (x < 0xFF → units 8 23 r = some (2 ^ (x + 22)))

/-- What a conversion of R202 from FP32 into format f asks for, with FCTL rounding to nearest and flushing nothing. -/
def NarrowsTo (f x r : Nat) : Prop :=
  if f = 8 then IntoDs8 x r else if f = 11 then IntoE8m0 x r
  else ∀ eb mb top q, fmtRow f = some (eb, mb, top, q) →
    if f = 1 ∨ f = 2 ∨ f = 4 then Narrows eb mb q x r
    else (∀ u, units 8 23 x = some u → Saturates eb mb top 0 (2 ^ (149 - q)) u r (negative 8 23 x = true) False False) ∧
      (units 8 23 x = none → Saturates eb mb top (if f = 3 then 0x7F else 0) 1 0 r (negative 8 23 x = true) (isNaN 8 23 x) (¬isNaN 8 23 x))

/-- The 8-bit formats of vqnt and vdqnt (R205): their format, and the code of a NaN. -/
def qntRow (w : BitVec 2) : Option (Nat × Nat) := if w = 0#2 then some (3, 0x7F) else if w = 1#2 then some (4, 0x7E) else none

/-- FP32 code x over scale k into an 8-bit format (R205), with FCTL rounding to nearest and flushing nothing: a scale that is not finite and above zero,
and a NaN, give the format's NaN; else the nearest code of the quotient, saturated. -/
def Quantised (w : BitVec 2) (x k r : Nat) : Prop :=
  let good := ∃ c, units 8 23 k = some c ∧ 0 < c
  if w = 2#2 then
    (¬good ∨ isNaN 8 23 x → r = 0) ∧ (good → ∀ neg, x = infinity 8 23 neg → r = if neg then 0x80 else 0x7F) ∧
    ∀ c u, units 8 23 k = some c → 0 < c → units 8 23 x = some u → NearestInt 8 c u r
  else ∀ f nan eb mb top q, qntRow w = some (f, nan) → fmtRow f = some (eb, mb, top, q) →
    (¬good → r = nan) ∧ (∀ c u, units 8 23 k = some c → 0 < c → units 8 23 x = some u →
      Saturates eb mb top nan c (u * 2 ^ q) r (negative 8 23 x = true) False False) ∧
    (good → isNaN 8 23 x → r = nan) ∧ (good → ∀ neg, x = infinity 8 23 neg → r = if f = 4 then infinity 5 2 neg else (if neg then 0x80 else 0) + top)

/-- An 8-bit code x times scale k in FP32 (R206), with FCTL rounding to nearest and flushing nothing. -/
def Dequantised (w : BitVec 2) (x k r : Nat) : Prop :=
  if w = 2#2 then (isNaN 8 23 k → r = quietNaN 8 23) ∧ ∀ c, units 8 23 k = some c → Rounds 8 23 1 (signed 8 x * c) r
  else ∀ f nan, qntRow w = some (f, nan) →
    (isNaN 8 23 k ∨ (number f x = none ∧ (f = 3 ∨ x % 4 ≠ 0)) → r = quietNaN 8 23) ∧
    ∀ c u q, units 8 23 k = some c → number f x = some (u, q) → Rounds 8 23 (2 ^ q) (u * c) r

/-- The conversions of R202 to R206: destination, source, marks, part, lane widths, and what holds of a source code x and the code r that its lane
takes. -/
def convRow (i : Instr) (c : Core) : Option (Reg × Reg × Vm × Nat × Nat × Nat × (Nat → Nat → Prop)) :=
  let wide := fun (f : BitVec 4) => if f = 1#4 ∨ f = 2#4 then 16 else 8
  match i with
  | .vcvtFN d a f q m => some (d, a, m, q.toNat, 32, wide f, NarrowsTo f.toNat)
  | .vcvtFW d a f q m => some (d, a, m, q.toNat, wide f, 32, if f = 11#4 then FromE8m0 else Widens f.toNat)
  | .vcvtIN d a i q m =>
    let w := if i = 0#3 then 32 else 8
    some (d, a, m, q.toNat, 32, w, fun x r => (isNaN 8 23 x → r = 0) ∧
      (∀ neg, x = infinity 8 23 neg → r = if neg then 2 ^ (w - 1) else 2 ^ (w - 1) - 1) ∧ ∀ u, units 8 23 x = some u → NearestInt w (2 ^ 149) u r)
  | .vcvtIW d a i q m =>
    let w := if i = 0#3 then 32 else 8
    some (d, a, m, q.toNat, w, 32, fun x r => Rounds 8 23 1 (signed w x * 2 ^ 149) r ∧ (signed w x = 0 → r = 0))
  | .vcvtX d a t q m =>
    some (d, a, m, q.toNat, intWidth m.w, intWidth t, fun x r => r = code (intWidth t) (clamp (intWidth t) (signed (intWidth m.w) x)))
  | .vcvtXu d a t q m => some (d, a, m, q.toNat, intWidth m.w, intWidth t, fun x r => r = min x (2 ^ intWidth t - 1))
  | .vqnt d a b q m => some (d, a, m, q.toNat, 32, 8, fun x r => Quantised m.w x (rdS c b.toNat).toNat r)
  | .vdqnt d a b q m => some (d, a, m, q.toNat, 8, 32, fun x r => Dequantised m.w x (rdS c b.toNat).toNat r)
  | _ => none

/-! ## Reductions, classes, roots and approximations (R145 to R150, R196 to R198) -/

/-- One step of the tree of vfredsum (R150) on FP32 codes. -/
def PairSum (x y z : Nat) : Prop :=
  (isNaN 8 23 x ∨ isNaN 8 23 y → z = quietNaN 8 23) ∧ ∀ p q, units 8 23 x = some p → units 8 23 y = some q → Rounds 8 23 1 (p + q) z ∧
    (p + q = 0 → z = if x = 0x80000000 ∧ y = 0x80000000 then 0x80000000 else 0)

/-- The tree of n levels (R150): every level adds the lanes in pairs. -/
def TreeSum : Nat → List Nat → Nat → Prop
  | 0, l, r => l = [r]
  | n + 1, l, r => ∃ l', l.length = 2 * l'.length ∧ (∀ i < l'.length, PairSum (l.getD (2 * i) 0) (l.getD (2 * i + 1) 0) (l'.getD i 0)) ∧ TreeSum n l' r

/-- The bit of the class of a code (R196). -/
def classBit (eb mb x : Nat) : Nat :=
  let e := x / 2 ^ mb % 2 ^ eb
  let m := x % 2 ^ mb
  if e = 2 ^ eb - 1 then if m = 0 then if negative eb mb x then 0 else 7 else if 2 ^ (mb - 1) ≤ m then 9 else 8
  else if e = 0 then if m = 0 then if negative eb mb x then 3 else 4 else if negative eb mb x then 2 else 5
  else if negative eb mb x then 1 else 6

/-- The finite code r is nearest to the root of p, both in units of 2 to the power of -q: no other code lies between, on the side of the root. -/
def NearestRoot (eb mb q : Nat) (p : Int) (r : Nat) : Prop :=
  ∃ v, units eb mb r = some v ∧ 0 ≤ v ∧ ∀ z < 2 ^ (eb + mb), ∀ u, units eb mb z = some u →
    (u < v → (u + v) ^ 2 ≤ 4 * (p * 2 ^ q)) ∧ (v < u → 4 * (p * 2 ^ q) ≤ (u + v) ^ 2)

/-- fin_round of n / k, in units of 2 to the power of -149 (R145): zero of the sign where 24 significant bits lie below the least normal number. -/
def FinRound (neg : Bool) (k n : Nat) (r : Nat) : Prop :=
  (4 * n < (2 ^ 25 - 1) * k → r = if neg then 0x80000000 else 0) ∧
  ((2 ^ 25 - 1) * k ≤ 4 * n → Rounds 8 23 k (if neg then -(n : Int) else n) r)

/-- The reciprocal of R146, of a number of magnitude p units: RC[i] is 2 ^ 21 over 33 + 2i, rounded. -/
def RcpIs (neg : Bool) (p r : Nat) : Prop :=
  let l := Nat.log2 p
  let m := p * 2 ^ 23 / 2 ^ l
  let next := fun (y : Nat) => y * (2 ^ 31 - m * y / 2 ^ 23) / 2 ^ 30
  let i := m / 2 ^ 19 % 16
  FinRound neg (2 ^ (l - 268)) (next (next ((2 ^ 22 / (33 + 2 * i) + 1) / 2 * 2 ^ 14)) * 2 ^ (268 - l)) r

/-- The seeds RS of R147. -/
def rootSeeds : List Nat :=
  [63579, 60140, 57205, 54661, 52429, 50450, 48679, 47082, 44957, 42525, 40450, 38651, 37073, 35673, 34421, 33292]

/-- The reciprocal root of R147, of p units. -/
def RsqIs (p r : Nat) : Prop :=
  let l := Nat.log2 p
  let odd := (l + 1) % 2
  let m := p * 2 ^ 23 / 2 ^ l
  let next := fun (y : Nat) => y * (3 * 2 ^ 30 - m * 2 ^ odd * (y * y / 2 ^ 30) / 2 ^ 23) / 2 ^ 31
  FinRound false 1 (next (next (rootSeeds.getD (8 * odd + m / 2 ^ 20 % 8) 0 * 2 ^ 14)) * 2 ^ (119 - ((l : Int) - 149 - odd) / 2).toNat) r

/-- The power of two of R148, of p units with -128 < x < 128. -/
def Exp2Is (p : Int) (r : Nat) : Prop :=
  let x := p / 2 ^ 125
  let f := (x % 2 ^ 24).toNat
  let q := f % 2 ^ 21 * 2 ^ 6
  let t2 := [1073741824, 1170923762, 1276901417, 1392470869, 1518500250, 1655936265, 1805811301, 1969251188]
  let s := 2 ^ 30 + (744261118 + (257941248 + 59597083 * q / 2 ^ 30) * q / 2 ^ 30) * q / 2 ^ 30
  let n := x / 2 ^ 24 + 119
  FinRound false (2 ^ (-n).toNat) (t2.getD (f / 2 ^ 21) 0 * s / 2 ^ 30 * 2 ^ n.toNat) r

/-- The logarithm of R149, of p units. -/
def Log2Is (p r : Nat) : Prop :=
  let l := Nat.log2 p
  let m : Int := ((p * 2 ^ 23 / 2 ^ l : Nat) : Int)
  let j := (m / 2 ^ 20 % 8).toNat
  let z := if 6 ≤ j then m * 2 ^ 22 - 2 ^ 46
    else m * [1073741824, 954437177, 858993459, 780903145, 715827883, 660764199].getD j 0 / 2 ^ 7 - 2 ^ 46
  let e := (l : Int) - 149 + if 6 ≤ j then 1 else 0
  let g : Int := if 6 ≤ j then 0 else [0, 182455581, 345667660, 493310944, 628098702, 752091421].getD j 0
  let t := 6196328019 + (-3098164009 + (2065442673 + -1549082005 * z / 2 ^ 46) * z / 2 ^ 46) * z / 2 ^ 46
  let s := e * 2 ^ 46 + g * 2 ^ 16 + t * z / 2 ^ 32
  if s = 0 then r = 0 else FinRound (decide (s < 0)) 1 (s.natAbs * 2 ^ 103) r

/-- The approximations (R145, R198): destination, source, W, and what holds of the FP32 code of a lane and its FP32 result. -/
def approxRow (i : Instr) : Option (Reg × Reg × BitVec 2 × (Nat → Nat → Prop)) :=
  let inf := infinity 8 23
  let nan := quietNaN 8 23
  match i with
  | .vfrcpa d a w _ => some (d, a, w, fun x r => (∀ neg, x = inf neg → r = if neg then 0x80000000 else 0) ∧
      ∀ p, units 8 23 x = some p → (p = 0 → r = inf (negative 8 23 x)) ∧ (p ≠ 0 → RcpIs (decide (p < 0)) p.natAbs r))
  | .vfrsqa d a w _ => some (d, a, w, fun x r => (x = inf false → r = 0) ∧ (x = inf true → r = nan) ∧
      ∀ p, units 8 23 x = some p → (p = 0 → r = inf (negative 8 23 x)) ∧ (p < 0 → r = nan) ∧ (0 < p → RsqIs p.natAbs r))
  | .vexp2a d a w _ => some (d, a, w, fun x r => (x = inf false → r = inf false) ∧ (x = inf true → r = 0) ∧
      ∀ p, units 8 23 x = some p → (p = 0 → r = 0x3F800000) ∧ (2 ^ 156 ≤ p → r = inf false) ∧ (p ≤ -(2 ^ 156) → r = 0) ∧
        (p ≠ 0 → -(2 ^ 156) < p → p < 2 ^ 156 → Exp2Is p r))
  | .vlog2a d a w _ => some (d, a, w, fun x r => (x = inf false → r = inf false) ∧ (x = inf true → r = nan) ∧
      ∀ p, units 8 23 x = some p → (p = 0 → r = inf true) ∧ (p < 0 → r = nan) ∧ (0 < p → Log2Is p.natAbs r))
  | _ => none

/-! ## The Gaussian generator (R153, R154) -/

/-- A 32-bit word rotated left. -/
def rotl (k x : Nat) : Nat := (x * 2 ^ k + x / 2 ^ (32 - k)) % 2 ^ 32

/-- One round of the mixing of R153. -/
def mixStep (r : Nat) (x : Nat × Nat × Nat × Nat) : Nat × Nat × Nat × Nat :=
  let (a, b, c, d) := x
  let a := (a + b + (r + 1) * 0x9E3779B9) % 2 ^ 32
  let d := rotl 16 (d ^^^ a)
  let c := (c + d) % 2 ^ 32
  let b := rotl 12 (b ^^^ c)
  let a := (a + b) % 2 ^ 32
  let d := rotl 8 (d ^^^ a)
  let c := (c + d) % 2 ^ 32
  (a, rotl 7 (b ^^^ c), c, d)

/-- B of R154: the sum of the sixteen bytes of the mixed words. -/
def gaussSum (lo hi memb stream idx : Nat) : Nat :=
  let (a, b, c, d) := (List.range 8).foldl (fun x r => mixStep r x) (idx, memb + 65536 * stream, lo, hi)
  ([(a + idx) % 2 ^ 32, b, (c + lo) % 2 ^ 32, (d + hi) % 2 ^ 32].map (fun w => w % 256 + w / 256 % 256 + w / 65536 % 256 + w / 16777216)).sum

/-- The Gaussian sample of R154: B less 2040, times K, rounded to FP32. -/
def GaussIs (lo hi memb stream idx r : Nat) : Prop :=
  let b : Int := gaussSum lo hi memb stream idx
  (b = 2040 → r = 0) ∧ ∀ k, units 8 23 0x3B5DB446 = some k → Rounds 8 23 1 ((b - 2040) * k) r

end Sys2Proof.Spec

/-- R132, R137, R139, R185, R192, R198. With FCTL rounding to nearest and flushing nothing, an active lane of vfadd, vfsub, vfmul, vfma and
vfnma, and every lane of vfdiv with a divisor that is not zero, of finite sources takes the exact result rounded once, and raises NX exactly
where it differs from it; a source that is a NaN, the old destination of vfma and vfnma among them, gives the canonical NaN; an inactive lane
keeps its value and has no flags. -/
def Sys2Proof.Spec.VectorArithmetic : Prop :=
  (∀ (i : Instr) (c : Core) (sh : Shape) (k : PKind) (l : BitVec 4) (hold : Core → Core) (f : Core → VRes) (d a b : Reg) (m : Vm) (old : Bool)
    (g : Int → Int → Int → Int → Int × Int),
    Spec.vecRow i = some (sh, k, l, hold, f) → Spec.arithRow i = some (d, a, b, m, old, g) → m.w.toNat < 3 → c.cr.fctl.extractLsb' 0 4 = 0#4 →
    let eb := (Spec.fpBits m.w).1
    let mb := (Spec.fpBits m.w).2
    let w := 1 + eb + mb
    ∃ v : VReg, (f c).writes = [.v d.toNat v] ∧ ∀ j < 256 / w,
      let x := laneOf (rdV c a.toNat) w j
      let y := laneOf (rdV c b.toNat) w j
      let z := laneOf (rdV c d.toNat) w j
      let r := laneOf v w j
      ((rdP c m.pred.toNat).getLsbD (w / 8 * j) = false → r = z ∧ ∀ e ∈ (f c).flags, e.1 ≠ j) ∧
      ((rdP c m.pred.toNat).getLsbD (w / 8 * j) = true →
        (Spec.isNaN eb mb x ∨ Spec.isNaN eb mb y ∨ (old = true ∧ Spec.isNaN eb mb z) → r = Spec.quietNaN eb mb) ∧
        ∀ p q t, Spec.units eb mb x = some p → Spec.units eb mb y = some q → (if old then Spec.units eb mb z = some t else t = 0) →
          let e := g (Spec.oneUnits eb mb) p q t
          Spec.Rounds eb mb e.1 e.2 r ∧ (Spec.inexact (f c).flags j ↔ ¬Spec.Exact eb mb e.1 e.2 r))) ∧
  ∀ (c : Core) (sh : Shape) (k : PKind) (hold : Core → Core) (f : Core → VRes) (d a b : Reg) (w : BitVec 2) (l l' : BitVec 4),
    Spec.vecRow (.vfdiv d a b w l) = some (sh, k, l', hold, f) → w.toNat < 3 → c.cr.fctl.extractLsb' 0 4 = 0#4 →
    let eb := (Spec.fpBits w).1
    let mb := (Spec.fpBits w).2
    let n := 1 + eb + mb
    ∃ v : VReg, (f c).writes = [.v d.toNat v] ∧ ∀ j < 256 / n,
      let x := laneOf (rdV c a.toNat) n j
      let y := laneOf (rdV c b.toNat) n j
      (Spec.isNaN eb mb x ∨ Spec.isNaN eb mb y → laneOf v n j = Spec.quietNaN eb mb) ∧
      ∀ p q, Spec.units eb mb x = some p → Spec.units eb mb y = some q → q ≠ 0 →
        let e := (if q < 0 then -p else p) * Spec.oneUnits eb mb
        Spec.Rounds eb mb q.natAbs e (laneOf v n j) ∧ (Spec.inexact (f c).flags j ↔ ¬Spec.Exact eb mb q.natAbs e (laneOf v n j))

/-- R143, R193, R194, R195. On finite lanes, with FIN clear, vfmin and vfmax and their p forms give the lesser or the greater number, and a
compare's bits are its test, those of an inactive lane 0; vfabs and vfneg clear or turn the sign bit of any code. -/
def Sys2Proof.Spec.VectorOrder : Prop :=
  (∀ (i : Instr) (c : Core) (sh : Shape) (k : PKind) (l : BitVec 4) (hold : Core → Core) (f : Core → VRes) (d a b : Reg) (m : Vm)
    (g : Int → Int → Int),
    Spec.vecRow i = some (sh, k, l, hold, f) → Spec.extremeRow i = some (d, a, b, m, g) → m.w.toNat < 3 → c.cr.fctl.getLsbD 2 = false →
    let eb := (Spec.fpBits m.w).1
    let mb := (Spec.fpBits m.w).2
    let w := 1 + eb + mb
    ∃ v : VReg, (f c).writes = [.v d.toNat v] ∧ ∀ j < 256 / w,
      ((rdP c m.pred.toNat).getLsbD (w / 8 * j) = false → laneOf v w j = laneOf (rdV c d.toNat) w j) ∧
      ((rdP c m.pred.toNat).getLsbD (w / 8 * j) = true → ∀ p q, Spec.units eb mb (laneOf (rdV c a.toNat) w j) = some p →
        Spec.units eb mb (laneOf (rdV c b.toNat) w j) = some q → Spec.units eb mb (laneOf v w j) = some (g p q))) ∧
  (∀ (i : Instr) (c : Core) (sh : Shape) (k : PKind) (l : BitVec 4) (hold : Core → Core) (f : Core → VRes) (d a b : Reg) (m : Vm)
    (g : Int → Int → Bool),
    Spec.vecRow i = some (sh, k, l, hold, f) → Spec.orderRow i = some (d, a, b, m, g) → m.w.toNat < 3 → c.cr.fctl.getLsbD 2 = false →
    let eb := (Spec.fpBits m.w).1
    let mb := (Spec.fpBits m.w).2
    let w := 1 + eb + mb
    ∃ v : Word, (f c).writes = [.p d.toNat v] ∧ ∀ j < 32, let n := j / (w / 8)
      ((rdP c m.pred.toNat).getLsbD (w / 8 * n) = false → v.getLsbD j = false) ∧
      ((rdP c m.pred.toNat).getLsbD (w / 8 * n) = true → ∀ p q, Spec.units eb mb (laneOf (rdV c a.toNat) w n) = some p →
        Spec.units eb mb (laneOf (rdV c b.toNat) w n) = some q → v.getLsbD j = g p q)) ∧
  ∀ (i : Instr) (c : Core) (sh : Shape) (k : PKind) (l : BitVec 4) (hold : Core → Core) (f : Core → VRes) (d a : Reg) (m : Vm)
    (g : Nat → Nat → Nat),
    Spec.vecRow i = some (sh, k, l, hold, f) → Spec.signRow i = some (d, a, m, g) →
    let w := 1 + (Spec.fpBits m.w).1 + (Spec.fpBits m.w).2
    ∃ v : VReg, (f c).writes = [.v d.toNat v] ∧ (f c).flags = [] ∧ ∀ j < 256 / w, laneOf v w j =
      if (rdP c m.pred.toNat).getLsbD (w / 8 * j) then g w (laneOf (rdV c a.toNat) w j) else laneOf (rdV c d.toNat) w j

/-- R200. Each active lane of a data movement takes the lane, or the scalar, that its row gives, as the registers stood at its issue; an
inactive lane keeps its value, or takes vB's for vsel; vext writes the lane to sD. No flag is set. -/
def Sys2Proof.Spec.VectorMoves : Prop :=
  (∀ (i : Instr) (c : Core) (sh : Shape) (k : PKind) (l : BitVec 4) (hold : Core → Core) (f : Core → VRes) (d : Reg) (m : Vm)
    (g : Nat → Nat → Nat → Nat) (o : Option Reg),
    Spec.vecRow i = some (sh, k, l, hold, f) → Spec.moveRow i c = some (d, m, g, o) →
    ∃ v : VReg, (f c).writes = [.v d.toNat v] ∧ (f c).flags = [] ∧ ∀ j < 256 / intWidth m.w, laneOf v (intWidth m.w) j =
      if (rdP c m.pred.toNat).getLsbD (intWidth m.w / 8 * j) then g (intWidth m.w) (256 / intWidth m.w) j
      else laneOf (rdV c (o.getD d).toNat) (intWidth m.w) j) ∧
  ∀ (c : Core) (sh : Shape) (k : PKind) (l : BitVec 4) (hold : Core → Core) (f : Core → VRes) (d a b : Reg) (m : Vm),
    Spec.vecRow (.vext d a b m) = some (sh, k, l, hold, f) → let n := (rdS c b.toNat).toNat
    ∃ bank : Bool, (f c).writes = [.s d.toNat (if n < 256 / intWidth m.w then BitVec.ofNat 32 (laneOf (rdV c a.toNat) (intWidth m.w) n)
      else 0#32) bank] ∧ (f c).flags = []

/-- R141, R142, R144, R201, R202, R203, R204, R205, R206, R131, R134. With FCTL rounding to nearest and flushing nothing, each active lane of the part that a
conversion fills takes the code that its row asks for of its source lane: the number rounded, saturated, or the same, in each of the formats of
R202 to R206; the other lanes keep their values. -/
def Sys2Proof.Spec.VectorConversions : Prop :=
  ∀ (i : Instr) (c : Core) (sh : Shape) (k : PKind) (l : BitVec 4) (hold : Core → Core) (f : Core → VRes) (d a : Reg) (m : Vm)
    (q ws wd : Nat) (good : Nat → Nat → Prop),
    Spec.vecRow i = some (sh, k, l, hold, f) → Spec.convRow i c = some (d, a, m, q, ws, wd, good) → wellFormed i = true →
    q < (if ws < wd then wd / ws else ws / wd) → c.cr.fctl.extractLsb' 0 4 = 0#4 →
    ∃ v : VReg, (f c).writes = [.v d.toNat v] ∧ ∀ j < 256 / wd,
      match (if (rdP c m.pred.toNat).getLsbD (wd / 8 * j) then Spec.partLane (256 / ws) (256 / wd) q j else none) with
      | some n => good (laneOf (rdV c a.toNat) ws n) (laneOf v wd j)
      | none => laneOf v wd j = laneOf (rdV c d.toNat) wd j

/-- R150, R191, R197. The reductions: vredsum and vredmax give the sum and the greatest of the active lanes as signed numbers, modulo 2 to the power of
32, or 0 and the least number of the width; vfredmax and vfredmin, of lanes that are finite or NaN, the greatest and the least of the finite ones,
widened to FP32, or the canonical NaN with none; vfredsum the sum of the tree of R150, in which an inactive lane is a negative zero. -/
def Sys2Proof.Spec.VectorReductions : Prop :=
  ∀ (i : Instr) (c : Core) (sh : Shape) (k : PKind) (l : BitVec 4) (hold : Core → Core) (f : Core → VRes) (d a : Reg) (m : Vm),
    Spec.vecRow i = some (sh, k, l, hold, f) →
    let on := fun (w : Nat) => (List.range (256 / w)).filter (fun j => (rdP c m.pred.toNat).getLsbD (w / 8 * j))
    let ints := (on (intWidth m.w)).map (fun j => Spec.signed (intWidth m.w) (laneOf (rdV c a.toNat) (intWidth m.w) j))
    let eb := (Spec.fpBits m.w).1
    let mb := (Spec.fpBits m.w).2
    let w := 1 + eb + mb
    let q := (2 ^ (eb - 1) - 1) + mb - 1
    let lane := fun (j : Nat) => laneOf (rdV c a.toNat) w j
    let num := fun (j : Nat) => (Spec.units eb mb (lane j)).map (· * 2 ^ (149 - q))
    let fin := (on w).filter (fun j => (num j).isSome)
    (i = .vredsum d a m → ∃ b, (f c).writes = [.s d.toNat (BitVec.ofInt 32 ints.sum) b] ∧ (f c).flags = []) ∧
    (i = .vredmax d a m → ∃ b x, (f c).writes = [.s d.toNat (BitVec.ofInt 32 x) b] ∧ (f c).flags = [] ∧ (∀ y ∈ ints, y ≤ x) ∧
      (x ∈ ints ∨ (ints = [] ∧ x = -(2 ^ (intWidth m.w - 1))))) ∧
    (m.w.toNat < 3 → (∀ j ∈ on w, Spec.isNaN eb mb (lane j) ∨ (num j).isSome = true) → i = .vfredmax d a m ∨ i = .vfredmin d a m →
      ∃ b r, (f c).writes = [.s d.toNat r b] ∧ (fin = [] → r = 0x7FC00000#32) ∧
        (fin ≠ [] → ∃ x, Spec.units 8 23 r.toNat = some x ∧ some x ∈ fin.map num ∧
          ∀ j ∈ fin, ∀ y, num j = some y → if i = .vfredmax d a m then y ≤ x else x ≤ y)) ∧
    (m.w.toNat < 3 → i = .vfredsum d a m → ∃ b r xs, (f c).writes = [.s d.toNat r b] ∧ xs.length = 256 / w ∧
      (∀ j < 256 / w, if j ∈ on w then (if m.w = 0#2 then xs.getD j 0 = lane j else Spec.Widens m.w.toNat (lane j) (xs.getD j 0))
        else xs.getD j 0 = 0x80000000) ∧
      Spec.TreeSum (if m.w = 0#2 then 3 else 4) xs r.toNat)

/-- R145 to R149, R154, R196, R198, R199. The values of the other lane-wise instructions. vfclass gives the one bit of the class of the code.
With FCTL rounding to nearest and flushing nothing: vfsqrt gives the nearest root, with NX exactly where it differs, a zero for a zero, and the
canonical NaN below zero; vfrcpa, vfrsqa, vexp2a and vlog2a give the FP32 result of the procedure of their rule, which a 16-bit lane rounds once more.
vgauss gives the Gaussian sample of each index. -/
def Sys2Proof.Spec.VectorFunctions : Prop :=
  (∀ (c : Core) (sh : Shape) (k : PKind) (l : BitVec 4) (hold : Core → Core) (f : Core → VRes) (d a : Reg) (m : Vm),
    Spec.vecRow (.vfclass d a m) = some (sh, k, l, hold, f) → m.w.toNat < 3 →
    let eb := (Spec.fpBits m.w).1
    let mb := (Spec.fpBits m.w).2
    let w := 1 + eb + mb
    ∃ v : VReg, (f c).writes = [.v d.toNat v] ∧ (f c).flags = [] ∧ ∀ j < 256 / w, laneOf v w j =
      if (rdP c m.pred.toNat).getLsbD (w / 8 * j) then 2 ^ Spec.classBit eb mb (laneOf (rdV c a.toNat) w j) else laneOf (rdV c d.toNat) w j) ∧
  (∀ (c : Core) (sh : Shape) (k : PKind) (hold : Core → Core) (f : Core → VRes) (d a : Reg) (w : BitVec 2) (l l' : BitVec 4),
    Spec.vecRow (.vfsqrt d a w l) = some (sh, k, l', hold, f) → w.toNat < 3 → c.cr.fctl.extractLsb' 0 4 = 0#4 →
    let eb := (Spec.fpBits w).1
    let mb := (Spec.fpBits w).2
    let q := (2 ^ (eb - 1) - 1) + mb - 1
    let n := 1 + eb + mb
    ∃ v : VReg, (f c).writes = [.v d.toNat v] ∧ ∀ j < 256 / n,
      let x := laneOf (rdV c a.toNat) n j
      let r := laneOf v n j
      (Spec.isNaN eb mb x → r = Spec.quietNaN eb mb) ∧ (x = Spec.infinity eb mb false → r = x) ∧
      (x = Spec.infinity eb mb true → r = Spec.quietNaN eb mb) ∧
      ∀ p, Spec.units eb mb x = some p → (p = 0 → r = x) ∧ (p < 0 → r = Spec.quietNaN eb mb) ∧
        (0 < p → Spec.NearestRoot eb mb q p r ∧ (Spec.inexact (f c).flags j ↔ ¬∃ u, Spec.units eb mb r = some u ∧ u ^ 2 = p * 2 ^ q))) ∧
  (∀ (i : Instr) (c : Core) (sh : Shape) (k : PKind) (hold : Core → Core) (f : Core → VRes) (d a : Reg) (w : BitVec 2) (l : BitVec 4)
    (g : Nat → Nat → Prop),
    Spec.vecRow i = some (sh, k, l, hold, f) → Spec.approxRow i = some (d, a, w, g) → w.toNat < 3 → c.cr.fctl.extractLsb' 0 4 = 0#4 →
    let eb := (Spec.fpBits w).1
    let mb := (Spec.fpBits w).2
    let n := 1 + eb + mb
    ∃ v : VReg, (f c).writes = [.v d.toNat v] ∧ ∀ j < 256 / n,
      let x := laneOf (rdV c a.toNat) n j
      let r := laneOf v n j
      (Spec.isNaN eb mb x → r = Spec.quietNaN eb mb) ∧ (w = 0#2 → ¬Spec.isNaN eb mb x → g x r) ∧
      (w ≠ 0#2 → ¬Spec.isNaN eb mb x → ∃ x' r', Spec.Widens w.toNat x x' ∧ g x' r' ∧
        Spec.Narrows eb mb (if w = 1#2 then 24 else 133) r' r)) ∧
  ∀ (c : Core) (sh : Shape) (k : PKind) (hold : Core → Core) (f : Core → VRes) (d a b : Reg) (l l' : BitVec 4),
    Spec.vecRow (.vgauss d a b l) = some (sh, k, l', hold, f) →
    ∃ v : VReg, (f c).writes = [.v d.toNat v] ∧ (f c).flags = [] ∧ ∀ j < 8,
      Spec.GaussIs c.cr.seedlo.toNat c.cr.seedhi.toNat (c.cr.memb.toNat % 2 ^ 16) ((rdS c b.toNat).toNat % 2 ^ 16) (laneOf (rdV c a.toNat) 32 j)
        (laneOf v 32 j)

namespace Sys2Proof.Spec

/-- What an access of R180 or R181 says: its kind, whether it is a vector's, its registers and its lookahead. -/
structure Acc where
  k   : AccKind
  vec : Bool
  d   : Reg
  a   : Reg
  b   : Reg
  h   : Reg
  l   : BitVec 4

/-- The sixteen layout accesses. -/
def accRow (i : Instr) : Option Acc :=
  match i with
  | .ld d a b h l => some ⟨.ld, false, d, a, b, h, l⟩
  | .st d a b h l => some ⟨.st, false, d, a, b, h, l⟩
  | .ldFe d a b h l => some ⟨.ldFe false, false, d, a, b, h, l⟩
  | .ldFeClr d a b h l => some ⟨.ldFe true, false, d, a, b, h, l⟩
  | .stFe d a b h l => some ⟨.stFe false, false, d, a, b, h, l⟩
  | .stFeForce d a b h l => some ⟨.stFe true, false, d, a, b, h, l⟩
  | .ldV d a b h l => some ⟨.ldV, false, d, a, b, h, l⟩
  | .stV d a b h l => some ⟨.stV, false, d, a, b, h, l⟩
  | .vld d a b h l => some ⟨.ld, true, d, a, b, h, l⟩
  | .vst d a b h l => some ⟨.st, true, d, a, b, h, l⟩
  | .vldFe d a b h l => some ⟨.ldFe false, true, d, a, b, h, l⟩
  | .vldFeClr d a b h l => some ⟨.ldFe true, true, d, a, b, h, l⟩
  | .vstFe d a b h l => some ⟨.stFe false, true, d, a, b, h, l⟩
  | .vstFeForce d a b h l => some ⟨.stFe true, true, d, a, b, h, l⟩
  | .vldV d a b h l => some ⟨.ldV, true, d, a, b, h, l⟩
  | .vstV d a b h l => some ⟨.stV, true, d, a, b, h, l⟩
  | _ => none

/-- The core that moves, with its task, context and run. -/
def env (s : State) (t : Task) (x : Ctx) (u : Run) : Env := { n := s.cur, t := t, x := x, u := u, c := coreAt s s.cur }

/-- Two cores are alike but for the sums of R405, which count the delays of the replies that a core has had. -/
def sameCore (c c' : Core) : Prop := ∃ ds dn, c' = { c with delaySum := ds, delayNum := dn }

/-- The entry, the elements' bit addresses and the home of an access. -/
def Acc.entry (A : Acc) (E : Env) : Entry := handleEntry E A.h.toNat
def Acc.locs (A : Acc) (E : Env) : List Nat := (accCoords E A.k A.vec (A.entry E) A.a A.b).map (bitAddr (A.entry E))
def Acc.home (A : Acc) (E : Env) : Home := homeOf E.x E.n (A.entry E)

/-- The metadata of an access's granules lets it go on (R167, R168, R170). -/
def metaReady (s : State) (A : Acc) (E : Env) : Prop :=
  let g := gransAt (A.entry E) (A.home E) (A.locs E)
  let v := accVersion E A.k A.b
  match A.k with
  | .ld | .st | .stFe true => True
  | .ldFe _ => ∀ k ∈ g, fullBit s k = true
  | .stFe false => ∀ k ∈ g, fullBit s k = false
  | .ldV => ∀ k ∈ g, versionOf s k = v % 128
  | .stV => ∀ k ∈ g, versionOf s k = v % 128 ∨ (64 ≤ verDist s k v ∧ reclaimed E.x (A.entry E).num (v + 127) = true)

/-- An access has come to the trackers of its granules (R175, R295): its layout is right (R165), it is allowed in a DET context (R177), it
has reached its home (R164), no mark, lock or missing page lies on it, and its phase allows it. -/
structure AccBefore (s : State) (A : Acc) (E : Env) : Prop where
  layout   : accLayout E A.k (A.entry E) (accCoords E A.k A.vec (A.entry E) A.a A.b) = none
  allowed  : accNondet E A.k (A.entry E) (A.home E) = none
  arrived  : remoteHome E.n (A.home E) = true → atHome E.c = true
  unmarked : A.k.isPlain = true → markGuard s E (A.entry E) (A.home E) (A.locs E) = none
  unlocked : accLock s E A.k (A.entry E) (A.home E) (A.locs E) = none
  mapped   : pageGuard E.x (A.home E) (A.locs E) (A.entry E).width = none
  phase    : ∀ q p, A.k = .ld → A.home E = .slice q → remoteHome E.n (A.home E) = true ∨ (A.entry E).tkt = true →
    carried E (A.entry E) (remoteHome E.n (A.home E)) = some (p, true) → reached (releaseOf E.x (A.entry E).group) p = true

/-- An access has come to the check of its conflict words (R175): the trackers of its granules allow it too. -/
structure AccReached (s : State) (A : Acc) (E : Env) : Prop extends AccBefore s A E where
  tickets  : A.k = .ld → ticketGuard s E (A.entry E) (A.home E) (A.locs E) = .pass

/-- Nothing of R175 stands in the way of an access: its conflict words allow it too, the metadata is as it asks, and a load meets no
poison. -/
structure AccFree (s : State) (A : Acc) (E : Env) : Prop extends AccReached s A E where
  conflict : A.k.checks (remoteHome E.n (A.home E)) (A.entry E).tkt = true →
    conflictGuard s E (A.entry E) (A.home E) (A.locs E) (!A.k.load) = none
  ready    : metaReady s A E
  clean    : A.k.load = true → poisonGuard s E (A.entry E) (A.home E) (A.locs E) = none

/-- What a load writes to its register (R161, R181). -/
def Acc.result (A : Acc) (s : State) (E : Env) : Write :=
  let codes := (A.locs E).map (readElem s E.t.ctx E.x (A.entry E) (A.home E))
  if A.vec then .v A.d.toNat (packLanes (laneWidth (A.entry E).width) codes)
  else sres E.c A.d (widen (A.entry E).fmt (codes.getD 0 0))

/-- The memory and the key of a place that a store may write: the slices, the channels, the host's pool. -/
def keyOf : Place → Option (Nat × Nat)
  | .slice k o => some (1, sliceKey k o)
  | .dram k o => some (2, dramKey k o)
  | .host a => some (3, a)
  | .caddy _ _ | .none => none

/-- The stamp of the phase that an access carries on a slice, where it checks and stamps conflict words (R171, R172). -/
def Acc.stamp (A : Acc) (E : Env) (q : Nat) (st : BitVec 16) : Prop :=
  A.home E = .slice q ∧ A.k.checks (remoteHome E.n (A.home E)) (A.entry E).tkt = true ∧
  ∃ p b, carried E (A.entry E) (remoteHome E.n (A.home E)) = some (p, b) ∧ st = p ^^^ 0x8000#16

/-- The conflict word of the line of slice offset b of an access, and the half that forbids the access: the writes' for a load, the
reads' for a store. -/
def Acc.line (A : Acc) (E : Env) (q b : Nat) : Nat := lineKey q (physOff (A.entry E).bankp b)
def Acc.half (A : Acc) (w : Word) : BitVec 16 := if A.k.load then w.extractLsb' 16 16 else w.extractLsb' 0 16

/-- Byte b of a slice lies in a poisoned granule (R352). -/
def Acc.poisoned (A : Acc) (s : State) (E : Env) (q b : Nat) : Prop := granKey q (physOff (A.entry E).bankp b) ∈ s.poison

/-- The bytes that an access's elements touch. -/
def Acc.bytes (A : Acc) (E : Env) : List Nat := (A.locs E).flatMap (fun a => elemBytes a (A.entry E).width)

/-- A store's elements replace every bit of the granule of slice offsets 16 g to 16 g + 15. -/
def Acc.whole (A : Acc) (E : Env) (g : Nat) : Prop :=
  ∀ j < 128, ∃ a ∈ A.locs E, a ≤ 128 * g + j ∧ 128 * g + j < a + (A.entry E).width

/-- A byte of a memory is one that the access's elements touch. -/
def Acc.touches (A : Acc) (E : Env) (m k : Nat) : Prop :=
  ∃ a ∈ A.locs E, ∃ b ∈ elemBytes a (A.entry E).width, keyOf (placeOf E.x (A.entry E) (A.home E) b) = some (m, k)

end Sys2Proof.Spec

/-- R180, R181. A layout access that nothing of R175 stands in the way of completes its issue: a load's result is pending until its
long latency ends, and a store has no result. No register changes at its issue. -/
def Sys2Proof.Spec.AccessCompletes : Prop :=
  ∀ (i : Instr) (A : Spec.Acc) (s s1 : State) (t : Task) (x : Ctx) (u : Run),
    Spec.accRow i = some A → Issues i (accShape A.k A.vec A.d A.a A.b A.h) s s1 → taskEnv s1 s.cur = some (t, x, u) →
    Spec.AccFree s1 A (Spec.env s1 t x u) →
    ∃ r : State, exec i s = .next (moveOn s1
      (pend r s.cur .long A.l (if A.k.load then [A.result s1 (Spec.env s1 t x u)] else []) 0#5 []) s.cur 4) ∧
      ∀ n, Spec.sameCore (coreAt s1 n) (coreAt r n)

/-- R161, R167, R168, R170, R180, R181. What an access does to memory: a load, and a store outside the bytes of its elements, leaves
every byte of every memory; a scalar store to a slice leaves its code in its element, and a vector store whose elements do not overlap
its lanes' codes; ld.fe.clr empties its granules, st.fe fills them and st.v gives them its version; no other metadata changes. -/
def Sys2Proof.Spec.AccessMemory : Prop :=
  ∀ (i : Instr) (A : Spec.Acc) (s s1 r : State) (t : Task) (x : Ctx) (u : Run),
    Spec.accRow i = some A → Issues i (accShape A.k A.vec A.d A.a A.b A.h) s s1 → taskEnv s1 s.cur = some (t, x, u) →
    Spec.AccFree s1 A (Spec.env s1 t x u) → exec i s = .next r →
    (A.k.load = true → r.slice = s1.slice ∧ r.dram = s1.dram ∧ r.host = s1.host ∧ r.poison = s1.poison) ∧
    (∀ k : Nat, ¬A.touches (Spec.env s1 t x u) 1 k → r.slice.read k = s1.slice.read k) ∧
    (∀ k : Nat, ¬A.touches (Spec.env s1 t x u) 2 k → r.dram.read k = s1.dram.read k) ∧
    (∀ k : Nat, ¬A.touches (Spec.env s1 t x u) 3 k → r.host.read k = s1.host.read k) ∧
    (A.k.load = false → A.vec = false → ∀ k, A.home (Spec.env s1 t x u) = .slice k → ∀ a ∈ A.locs (Spec.env s1 t x u),
      readElem r t.ctx x (A.entry (Spec.env s1 t x u)) (.slice k) a =
        (rdS (coreAt s1 s.cur) A.d.toNat).toNat % 2 ^ (A.entry (Spec.env s1 t x u)).width) ∧
    (A.k.load = false → A.vec = true → ∀ k, A.home (Spec.env s1 t x u) = .slice k →
      (A.locs (Spec.env s1 t x u)).Pairwise (fun a b => a + (A.entry (Spec.env s1 t x u)).width ≤ b ∨
        b + (A.entry (Spec.env s1 t x u)).width ≤ a) → ∀ j < (A.locs (Spec.env s1 t x u)).length,
      readElem r t.ctx x (A.entry (Spec.env s1 t x u)) (.slice k) ((A.locs (Spec.env s1 t x u)).getD j 0) =
        laneOf (rdV (coreAt s1 s.cur) A.d.toNat) (laneWidth (A.entry (Spec.env s1 t x u)).width) j %
          2 ^ (A.entry (Spec.env s1 t x u)).width) ∧
    (A.k = .ld ∨ A.k = .st ∨ A.k = .ldFe false ∨ A.k = .ldV → r.gmeta = s1.gmeta) ∧
    (let gs := gransAt (A.entry (Spec.env s1 t x u)) (A.home (Spec.env s1 t x u)) (A.locs (Spec.env s1 t x u))
     (∀ g ∈ gs, (A.k = .ldFe true → fullBit r g = false ∧ versionOf r g = versionOf s1 g) ∧
       (∀ b, A.k = .stFe b → fullBit r g = true ∧ versionOf r g = versionOf s1 g) ∧
       (A.k = .stV → versionOf r g = (rdS (coreAt s1 s.cur) A.b.toNat).toNat / 2 ^ 25 ∧ fullBit r g = fullBit s1 g)) ∧
     ∀ g, g ∉ gs → r.gmeta.read g = s1.gmeta.read g) ∧
    r.caddy = s1.caddy ∧ r.dpoison = s1.dpoison

/-- R171, R172, R178, R295. A store, or a load of another core's slice or of a ticketed region, that carries a phase: where some line that
it touches bears the stamp of that phase in the half that forbids it, it is CONFLICT, with its entry, its kind and the first such line;
else it leaves the stamp in the other half of every line that it touches, and every other conflict word as it was. That the line is
reported by its logical offset, while stamps are kept by the physical one, is the model's reading (log 16). -/
def Sys2Proof.Spec.AccessConflicts : Prop :=
  ∀ (i : Instr) (A : Spec.Acc) (s s1 : State) (t : Task) (x : Ctx) (u : Run) (q : Nat) (st : BitVec 16),
    Spec.accRow i = some A → Issues i (accShape A.k A.vec A.d A.a A.b A.h) s s1 → taskEnv s1 s.cur = some (t, x, u) →
    let E := Spec.env s1 t x u
    let word_ := fun (s : State) (b : Nat) => sget 0#32 s.conf (A.line E q b)
    A.stamp E q st →
    (Spec.AccReached s1 A E → ∀ b, (A.bytes E).find? (fun b => decide (A.half (word_ s1 b) = st)) = some b →
      exec i s = .next (takeTrap s1 s.cur { cause := .conflict, info := (BitVec.ofNat 32
        ((A.entry E).num % 256 * 2 ^ 24 + (if A.k.load then 0 else 2 ^ 23) + b / 64 % 2 ^ 15)) })) ∧
    ∀ r, Spec.AccFree s1 A E → exec i s = .next r →
      (∀ b ∈ A.bytes E, word_ r b = if A.k.load then (word_ s1 b).extractLsb' 16 16 ++ st else st ++ (word_ s1 b).extractLsb' 0 16) ∧
      ∀ k, (∀ b ∈ A.bytes E, A.line E q b ≠ k) → sget 0#32 r.conf k = sget 0#32 s1.conf k

/-- R352, R353. A load of a slice that touches a poisoned granule, with nothing else in its way, is POISON, with its entry and the
lowest such granule; a store whose elements replace a whole granule clears its poison, and no other granule's changes. That the granule is
reported by its logical offset, while marks of poison are kept by the physical one, is the model's reading (log 16). -/
def Sys2Proof.Spec.AccessPoison : Prop :=
  ∀ (i : Instr) (A : Spec.Acc) (s s1 : State) (t : Task) (x : Ctx) (u : Run) (q : Nat),
    Spec.accRow i = some A → Issues i (accShape A.k A.vec A.d A.a A.b A.h) s s1 → taskEnv s1 s.cur = some (t, x, u) →
    let E := Spec.env s1 t x u
    A.home E = .slice q →
    (A.k.load = true → Spec.AccReached s1 A E →
      (A.k.checks (remoteHome E.n (A.home E)) (A.entry E).tkt = true → conflictGuard s1 E (A.entry E) (A.home E) (A.locs E) false = none) →
      Spec.metaReady s1 A E → ∀ b ∈ A.bytes E, A.poisoned s1 E q b → (∀ k ∈ A.bytes E, A.poisoned s1 E q k → b / 16 ≤ k / 16) →
      exec i s = .next (takeTrap s1 s.cur
        { cause := .poison, info := BitVec.ofNat 32 ((A.entry E).num % 256 * 2 ^ 24 + b / 16 % 2 ^ 21) })) ∧
    ∀ r, A.k.load = false → Spec.AccFree s1 A E → exec i s = .next r →
      (∀ g, A.whole E g → granKey q (physOff (A.entry E).bankp (16 * g)) ∉ r.poison) ∧
      ∀ k, (∀ g, A.whole E g → granKey q (physOff (A.entry E).bankp (16 * g)) ≠ k) → (k ∈ r.poison ↔ k ∈ s1.poison)

/-- R165, R175. An access whose entry is not well formed, whose element does not exist or whose form its entry does not allow is
LAYOUT, before anything else of it is looked at. -/
def Sys2Proof.Spec.AccessLayoutTrap : Prop :=
  ∀ (i : Instr) (A : Spec.Acc) (s s1 : State) (t : Task) (x : Ctx) (u : Run) (r : TrapReq),
    Spec.accRow i = some A → Issues i (accShape A.k A.vec A.d A.a A.b A.h) s s1 → taskEnv s1 s.cur = some (t, x, u) →
    accLayout (Spec.env s1 t x u) A.k (A.entry (Spec.env s1 t x u))
      (accCoords (Spec.env s1 t x u) A.k A.vec (A.entry (Spec.env s1 t x u)) A.a A.b) = some r →
    r.cause = .layout ∧ exec i s = .next (takeTrap s1 s.cur r)

/-- R182, R183. Layout control completes its issue: lay.rd reads a word of the view, lay.wr writes one of the overlay before any
later instruction reads it, and lay.sel answers the canonical index of an element or all ones where a coordinate is out of range. -/
def Sys2Proof.Spec.LayoutControl : Prop :=
  ∀ (s s1 : State) (d a b h : Reg) (w l : BitVec 4) (t : Task) (x : Ctx) (u : Run), taskEnv s1 s.cur = some (t, x, u) →
    (Issues (.layRd d w h l) { names := [nH h, nS d] } s s1 →
      exec (.layRd d w h l) s = .next (moveOn s1
        (pend s1 s.cur .long l [sres (coreAt s1 s.cur) d ((handleEntry (Spec.env s1 t x u) h.toNat).w w.toNat)] 0#5 []) s.cur 4)) ∧
    (Issues (.layWr a w h l) { names := [nH h, nS a] } s s1 →
      exec (.layWr a w h l) s = .next (moveOn s1
        (pend (updCore s1 s.cur (fun c => { c with
          overlay := tset c.overlay (16 * entryNum c h.toNat + w.toNat) (rdS c a.toNat) })) s.cur .long l [] 0#5 []) s.cur 4)) ∧
    (Issues (.laySel d a b h l) { names := [nH h, nS d, nS a, nS b] } s s1 →
      entryOk (Spec.env s1 t x u) (handleEntry (Spec.env s1 t x u) h.toNat) = true →
      exec (.laySel d a b h l) s = .next (moveOn s1 (pend s1 s.cur .long l
        [sres (coreAt s1 s.cur) d
          (let e := handleEntry (Spec.env s1 t x u) h.toNat
           let c := coreAt s1 s.cur
           let cs := coordsOf e (rdS c a.toNat).toNat (rdS c b.toNat).toNat c.cr.coord2.toNat c.cr.coord3.toNat
           if ∀ k < e.rank, cs.getD k 0 < e.ext k then
             word (cs.getD 0 0 + e.ext 0 * (cs.getD 1 0 + e.ext 1 * (cs.getD 2 0 + e.ext 2 * cs.getD 3 0)))
           else 0xFFFFFFFF#32)] 0#5 []) s.cur 4))

/-- R169, R164. That a reclaim holds for a region of any space is the model's reading (log 42). A reclaim by a reader that has not reclaimed this version yet, of the version after the last that all have, adds
the reader to the tracker's mask; with the last reader the version moves on and the mask empties. -/
def Sys2Proof.Spec.ReclaimCompletes : Prop :=
  ∀ (s s1 : State) (a h : Reg) (l : BitVec 4) (t : Task) (x : Ctx) (u : Run) (m : Nat),
    taskEnv s1 s.cur = some (t, x, u) → Issues (.reclaim a h l) { names := [nH h, nS a] } s s1 →
    let E := Spec.env s1 t x u
    let e := handleEntry E h.toNat
    let k := rtrackOf x e.num
    entryOk E e = true → e.ver = true → homeOf x s.cur e ≠ .bad → groupIndex x e.group (prel x s.cur) = some m → m < e.readers →
    (clusterOf (logical x e.prod) = clusterOf s.cur ∨ atHome E.c = true) → m ∉ k.rmask →
    ((rdS E.c a.toNat).toNat % 128 + 128 - k.rver % 128) % 128 = 1 →
    exec (.reclaim a h l) s = .next (moveOn s1 (pend (updCtx s1 t.ctx (fun x => { x with
      rtrack := tset x.rtrack e.num
        (if (insertNat m k.rmask).length = e.readers then { rver := (k.rver + 1) % 128, rmask := [] }
         else { k with rmask := insertNat m k.rmask }) })) s.cur .long l [] 0#5 []) s.cur 4)

namespace Sys2Proof.Spec

/-- What a row of R286 gives: the new value from the old value m, x = s[D] and y = s[D+1], the formats, whether the form has no result,
whether it names the pair, and the registers. -/
structure Atomic where
  f    : Word → Word → Word → Word
  fmts : List Nat
  post : Bool
  pair : Bool
  d    : Reg
  a    : Reg
  h    : Reg
  l    : BitVec 4

/-- The twelve bank atomics. -/
def atomicRow (i : Instr) : Option Atomic :=
  let one := fun (q : BitVec 1) => decide (q = 1#1)
  match i with
  | .amoAdd d a h q l => some ⟨fun m x _ => m + x, [fmtINT32], one q, false, d, a, h, l⟩
  | .amoAnd d a h q l => some ⟨fun m x _ => m &&& x, fmts32, one q, false, d, a, h, l⟩
  | .amoOr d a h q l => some ⟨fun m x _ => m ||| x, fmts32, one q, false, d, a, h, l⟩
  | .amoXor d a h q l => some ⟨fun m x _ => m ^^^ x, fmts32, one q, false, d, a, h, l⟩
  | .amoMin d a h q l => some ⟨fun m x _ => BitVec.ofInt 32 (min m.toInt x.toInt), [fmtINT32], one q, false, d, a, h, l⟩
  | .amoMax d a h q l => some ⟨fun m x _ => BitVec.ofInt 32 (max m.toInt x.toInt), [fmtINT32], one q, false, d, a, h, l⟩
  | .amoSwap d a h q l => some ⟨fun _ x _ => x, fmts32, one q, false, d, a, h, l⟩
  | .amoCas d a h l => some ⟨fun m x y => if m = x then y else m, fmts32, false, true, d, a, h, l⟩
  | .amoIncb d a h l => some ⟨fun m x _ => if m.toNat < x.toNat then m + 1#32 else m, [fmtINT32], false, false, d, a, h, l⟩
  | .amoIncw d a h l =>
    some ⟨fun m x _ => if x = 0#32 ∨ m.toNat + 1 < x.toNat then m + 1#32 else 0#32, [fmtINT32], false, false, d, a, h, l⟩
  | .amoDecnz d a h l => some ⟨fun m _ _ => if m = 0#32 then 0#32 else m - 1#32, [fmtINT32], false, false, d, a, h, l⟩
  | .amoAddlim d a h l =>
    some ⟨fun m x y => if m.toNat + x.toNat ≤ y.toNat then m + x else m, [fmtINT32], false, true, d, a, h, l⟩
  | _ => none

/-- What an atomic names. -/
def Atomic.shape (A : Atomic) : Shape := if A.pair then amoPair A.d A.a A.h else amoShape A.d A.a A.h

/-- Nothing stands in the way of an operation on a located element: it has reached its home, and no lock, mark or poison lies on
it. In a DET context the mark counts for the forms that R283 names. -/
structure SpotFree (s : State) (E : Env) (p : Spot) (stores marked : Bool) : Prop where
  arrived  : remoteHome E.n p.home = true → atHome E.c = true
  unmarked : marked = true → markGuard s E p.e p.home [p.a] = none
  unlocked : lockGuard s E p.e p.home [p.a] stores = none
  clean    : poisonGuard s E p.e p.home [p.a] = none

/-- The element of a located spot, and a byte of a slice that is none of its. -/
def elem (s : State) (p : Spot) (w : Nat) : Nat := readAt s p.core p.e.bankp p.a w
def outside (p : Spot) (w k : Nat) : Prop := ∀ b ∈ elemBytes p.a w, sliceKey p.core (physOff p.e.bankp b) ≠ k

/-- The ticketed updates: operation, formats and registers (R296). -/
def ticketRow (i : Instr) : Option (TOp × Option (List Nat) × Reg × Reg × Reg × BitVec 4) :=
  match i with
  | .tamoFadd d a h l => some (.fadd, some [fmtFP32], d, a, h, l)
  | .tamoFmax d a h l => some (.fmax, some [fmtFP32, fmtE8M0], d, a, h, l)
  | .tamoFmin d a h l => some (.fmin, some [fmtFP32, fmtE8M0], d, a, h, l)
  | .tamoOr d a h l => some (.or, some [fmtINT32, fmtE8M0], d, a, h, l)
  | .tamoSkip d a h l => some (.skip, none, d, a, h, l)
  | _ => none

/-- The update that a ticketed instruction sends to the bank unit of its granule (R291, R293). -/
def arrival (E : Env) (op : TOp) (d : Reg) (p : Spot) : Arrival :=
  { home := p.core, gran := p.gran % 2 ^ 17, bitAdr := p.a, bankp := p.e.bankp, fmt := p.e.fmt
    q := field (rdS E.c (d.toNat + 1)) 23 16, i := field (rdS E.c (d.toNat + 1)) 15 0, n := p.e.round
    op := op, x := rdS E.c d.toNat, replay := E.t.rerun }

/-- The announced operations: operation, formats and registers (R311). -/
def annRow (i : Instr) : Option (AnnOp × List Nat × Reg × Reg × Reg) :=
  match i with
  | .annAmoAdd d a h _ => some (.add, [fmtINT32], d, a, h)
  | .annAmoAnd d a h _ => some (.and, fmts32, d, a, h)
  | .annAmoOr d a h _ => some (.or, fmts32, d, a, h)
  | .annAmoXor d a h _ => some (.xor, fmts32, d, a, h)
  | .annAmoMin d a h _ => some (.min, [fmtINT32], d, a, h)
  | .annAmoMax d a h _ => some (.max, [fmtINT32], d, a, h)
  | .annAmoSwap d a h _ => some (.swap, fmts32, d, a, h)
  | .annLd d a h _ => some (.ld, fmts32, d, a, h)
  | _ => none

/-- The window of an announced operation (R62): the one that was open when it was issued, for one that has been on its way to its home. -/
def annWindow (E : Env) : Nat :=
  match E.c.wait with
  | some w => if w.kind = .bank then w.mark else windowOf E.x E.u E.c
  | none => windowOf E.x E.u E.c

/-- The new value that an announced operation gives its element (R286, R311). -/
def annNew (op : AnnOp) (m x : Word) : Word :=
  match op with
  | .add => m + x
  | .and => m &&& x
  | .or => m ||| x
  | .xor => m ^^^ x
  | .min => BitVec.ofInt 32 (min m.toInt x.toInt)
  | .max => BitVec.ofInt 32 (max m.toInt x.toInt)
  | .swap => x
  | .ld => m

/-- Announced operations one after another: each result is what its element holds then, and its core takes it. -/
def perform : List Ann → State → State × List Delivery
  | [], s => (s, [])
  | q :: l, s =>
    let m := BitVec.ofNat 32 (readAt s q.home q.bankp q.bitAdr 32)
    let r := perform l (if q.op = .ld then s else writeAt s q.home q.bankp q.bitAdr 32 (annNew q.op m q.x).toNat)
    (r.1, { core := q.core, dest := q.dest, bank := q.bank, val := m } :: r.2)

/-- What the cores of a run have issued up to window w is performed: none waits for an access of such a window on its way to its home or at
it (R164, R167 to R170, R172, R295). -/
def performed (s : State) (x : Ctx) (u : Run) (w : Nat) : Bool :=
  (runCores x u).all (fun n => (coreAt s n).wait.all (fun q =>
    decide (w < q.mark) || !([.bank, .fullEmpty, .version, .reclaim, .phase, .ticketLoad] : List WaitKind).contains q.kind))

/-- The announced operations that the close of the open window performs (R282; log 54). -/
def due (s : State) (x : Ctx) (u : Run) (a : Ann) : Bool := decide (a.win ≤ u.window) && performed s x u a.win

/-- A list of announced operations in the total order of R282: by window, by core, by program. -/
def InOrder (l due : List Ann) : Prop :=
  l.Pairwise (fun a b => a.win < b.win ∨ (a.win = b.win ∧ a.core ≤ b.core)) ∧
  ∀ w n, l.filter (fun a => decide (a.win = w ∧ a.core = n)) = due.filter (fun a => decide (a.win = w ∧ a.core = n))

/-- Requests of the task queue in grant order (R64): by core, by program. -/
def InGrantOrder (l due : List TqReq) : Prop :=
  l.Pairwise (fun a b => a.core ≤ b.core) ∧ ∀ n, l.filter (fun a => decide (a.core = n)) = due.filter (fun a => decide (a.core = n))

/-- The grants of R64 from a count, and the count after them. -/
def grants : List TqReq → Nat → List Delivery × Nat
  | [], n => ([], n)
  | q :: l, n =>
    if 0xFFFFFFFF < n + q.m then ({ core := q.core, dest := q.dest, bank := q.bank, val := 0xFFFFFFFF#32 } :: (grants l n).1, (grants l n).2)
    else ({ core := q.core, dest := q.dest, bank := q.bank, val := BitVec.ofNat 32 n } :: (grants l (n + q.m)).1, (grants l (n + q.m)).2)

/-- The value r that a ticketed update leaves in an element that held m (R296): of FP32, the nearest sum, or the lesser or greater
number, of finite codes; of E8M0, whose code 255 is no number, the lesser or greater other code; a union; or the value as it was. -/
def Ticketed (op : TOp) (fmt m : Nat) (x : Word) (r : Nat) : Prop :=
  (op = .or → r = (m ||| x.toNat) % 2 ^ fmtWidth fmt) ∧ (op = .skip → r = m) ∧
  (fmt = fmtE8M0 → op = .fmax ∨ op = .fmin → let y := x.toNat % 256
    r = if m = 255 then y else if y = 255 then m else if op = .fmax then max m y else min m y) ∧
  (fmt = fmtFP32 → ∀ p q, units 8 23 m = some p → units 8 23 x.toNat = some q →
    (op = .fadd → (p + q).natAbs ≤ maxUnits 8 23 → Nearest 8 23 1 (p + q) r) ∧
    (op = .fmax → units 8 23 r = some (max p q)) ∧ (op = .fmin → units 8 23 r = some (min p q)))

/-- The group that a group register of the core names, where it is valid (R41, R300). -/
def groupReg (c : Core) (g : BitVec 2) : Option Nat :=
  let v := c.cr.grp.getD g.toNat 0#32
  if v.getLsbD 31 then some (v.toNat % 256) else none

end Sys2Proof.Spec

/-- R286 to R288. A bank atomic whose element is located and free completes its issue: the element takes the new value that its row
gives, every other byte of the slices is as before, and the old value is pending for sD, but for a post form. In a DET context only
post forms on the core's own slice do so, where no conflict word forbids it. -/
def Obligations.AtomicsComplete : Prop :=
  ∀ (i : Instr) (A : Spec.Atomic) (s s1 : State) (t : Task) (x : Ctx) (u : Run) (p : Spot),
    Spec.atomicRow i = some A → Issues i A.shape s s1 → taskEnv s1 s.cur = some (t, x, u) →
    let E := Spec.env s1 t x u
    spotOf E (plainForm A.fmts) A.h A.a = .inr p → Spec.SpotFree s1 E p true true →
    (x.det = true → A.post = true ∧ remoteHome s.cur p.home = false ∧ conflictGuard s1 E p.e p.home [p.a] true = none) →
    ∃ r : State, exec i s = .next (moveOn s1
        (pend r s.cur .long A.l (if A.post then [] else [sres E.c A.d (word (Spec.elem s1 p 32))]) 0#5 []) s.cur 4) ∧
      Spec.elem r p 32 = (A.f (word (Spec.elem s1 p 32)) (rdS E.c A.d.toNat) (rdS E.c (A.d.toNat + 1))).toNat ∧
      (∀ k, Spec.outside p 32 k → r.slice.read k = s1.slice.read k) ∧ (∀ n, Spec.sameCore (coreAt s1 n) (coreAt r n)) ∧
      r.gmeta = s1.gmeta ∧ r.dram = s1.dram ∧ r.caddy = s1.caddy ∧ r.host = s1.host ∧ r.poison = s1.poison

/-- R293, R295, R296. A ticketed update below its round, in a DET context between two members of its group, that meets no lock and no
conflict word and that the bank unit takes, completes its issue with no result. -/
def Sys2Proof.Spec.TicketedComplete : Prop :=
  ∀ (i : Instr) (op : TOp) (fmts : Option (List Nat)) (d a h : Reg) (l : BitVec 4) (s s1 s2 : State) (t : Task) (x : Ctx) (u : Run)
    (p : Spot),
    Spec.ticketRow i = some (op, fmts, d, a, h, l) → Issues i (amoPair d a h) s s1 → taskEnv s1 s.cur = some (t, x, u) →
    let E := Spec.env s1 t x u
    spotOf E (ticketForm fmts) h a = .inr p → (remoteHome E.n p.home = true → atHome E.c = true) →
    (x.det = true → bothMembers E p.e p.home = true) → lockGuard s1 E p.e p.home [p.a] true = none →
    (∀ k, carried E p.e (remoteHome E.n p.home) = some (k, true) → conflictByte s1 p.e p.core [p.a] true (stampOf k) = none) →
    field (rdS E.c (d.toNat + 1)) 15 0 < p.e.round → arrive s1 (Spec.arrival E op d p) = .taken s2 →
    ∃ r : State, exec i s = .next (moveOn s1
        (pend r s.cur .long l [] 0#5 (if E.c.priv then [] else [(counterOf 4 p.e.fmt, 1)])) s.cur 4) ∧
      r.slice = s2.slice ∧ r.gmeta = s2.gmeta

/-- R292 to R294. What the bank unit of a granule answers to an update of round q and index i, in round g with e the next index: one
that is past, or already held, is refused for good (or dropped, if it is sent again); the next one is applied at once where a tracker
can serve it; another is held while the unit has fewer than 48; else it waits. -/
def Sys2Proof.Spec.TicketArrival : Prop :=
  ∀ (s : State) (a : Arrival),
    let g := roundOf s a.key
    let e := expectedIdx s a.key
    let d := (a.q + 256 - g) % 256
    let past : Prop := 128 ≤ d ∨ (d = 0 ∧ a.i < e) ∨ (heldAt s a.home a.gran a.q a.i).isSome = true
    let alone : Prop := (∃ k, trackerOf s a.home a.gran = some k) ∨ (a.n = 1 ∧ anyHeld s a.home a.gran = false) ∨
      bankTrackers s a.home a.gran < 16
    a.gran < 2 ^ 17 →
    (past → arrive s a = if a.replay then .dropped else .dup) ∧
    (¬past → d = 0 → a.i = e → (alone → ∃ s', arrive s a = .taken s') ∧ (¬alone → arrive s a = .refused)) ∧
    (¬past → ¬(d = 0 ∧ a.i = e) → bankHeld s a.home a.gran < 48 →
      arrive s a = .taken (updCore s a.home (fun c => { c with rob := c.rob ++ [a] }))) ∧
    (¬past → ¬(d = 0 ∧ a.i = e) → 48 ≤ bankHeld s a.home a.gran → arrive s a = .refused)

/-- R293, R296. The next update of a round that is not its last, for a granule of which none is held: its element takes the value that
its operation gives, and its tracker waits for the next index; the last update of the round moves the round on by one. -/
def Sys2Proof.Spec.TicketApplied : Prop :=
  ∀ (s s' : State) (a : Arrival) (k : Tracker),
    trackerOf s a.home a.gran = some k → anyHeld s a.home a.gran = false → a.gran < 2 ^ 17 → a.q = roundOf s a.key → a.i = k.next →
    arrive s a = .taken s' →
    (bankpOk a.bankp = true → 0 < fmtWidth a.fmt → Spec.Ticketed a.op a.fmt (readAt s a.home a.bankp a.bitAdr (fmtWidth a.fmt)) a.x
      (readAt s' a.home a.bankp a.bitAdr (fmtWidth a.fmt))) ∧
    (∀ k, (∀ b ∈ elemBytes a.bitAdr (fmtWidth a.fmt), sliceKey a.home (physOff a.bankp b) ≠ k) → s'.slice.read k = s.slice.read k) ∧
    (a.i + 1 ≠ k.n → trackerOf s' a.home a.gran = some { k with next := a.i + 1 } ∧ s'.gmeta = s.gmeta) ∧
    (a.i + 1 = k.n → trackerOf s' a.home a.gran = none ∧ roundOf s' a.key = (roundOf s a.key + 1) % 256)

/-- R297. A tfence of a well-formed ticketed entry whose granules have all passed the round that it names completes. -/
def Sys2Proof.Spec.TfenceCompletes : Prop :=
  ∀ (s s1 : State) (a h : Reg) (t : Task) (x : Ctx) (u : Run) (core : Nat),
    taskEnv s1 s.cur = some (t, x, u) → Issues (.tfence a h) { names := [nH h, nS a] } s s1 →
    let E := Spec.env s1 t x u
    let e := handleEntry E h.toNat
    let q := (rdS E.c a.toNat).toNat % 256
    entryOk E e = true → e.tkt = true → homeOf x s.cur e = .slice core →
    (∀ g, (∃ k, trackerOf s1 core g = some k) ∨ anyHeld s1 core g = true → (firstElem e (logGran e.bankp g)).isSome = true →
      1 ≤ (roundOf s1 (2 ^ 17 * core + g) + 256 - q) % 256 ∧ (roundOf s1 (2 ^ 17 * core + g) + 256 - q) % 256 ≤ 128) →
    exec (.tfence a h) s = .next (moveOn s1 (pend s1 s.cur .long 0#4 [] 0#5 []) s.cur 4)

/-- R282, R283, R311. An announced operation whose element is located and free completes its issue: it joins the record's
announced operations with the window in which it was issued, its granules bear the record's mark and their full bits, and a result of a window
close is pending for sD; no element changes. -/
def Sys2Proof.Spec.AnnouncedComplete : Prop :=
  ∀ (i : Instr) (op : AnnOp) (fmts : List Nat) (d a h : Reg) (s s1 : State) (t : Task) (x : Ctx) (u : Run) (p : Spot),
    Spec.annRow i = some (op, fmts, d, a, h) → Issues i (amoShape d a h) s s1 → taskEnv s1 s.cur = some (t, x, u) →
    let E := Spec.env s1 t x u
    spotOf E (plainForm fmts) h a = .inr p → Spec.SpotFree s1 E p true false →
    ∃ (r : State) (y : Ctx) (v : Run),
      exec i s = .next (moveOn s1 (pend r s.cur .window 0#4 [sres E.c d 0#32] 0#5 []) s.cur 4) ∧
      r.slice = s1.slice ∧ r.dram = s1.dram ∧ r.caddy = s1.caddy ∧ r.host = s1.host ∧
      (∀ n, Spec.sameCore (coreAt s1 n) (coreAt r n)) ∧
      (∀ k ∈ p.grans, fullBit r k = true ∧ ∃ m ∈ tgetD r.marks k [], m.1 = t.ctx ∧ m.2.1 = t.ridx) ∧
      ctxAt r t.ctx = some y ∧ runAt y t.ridx = some v ∧
      v.anns = u.anns ++ [{ core := prel x s.cur, win := Spec.annWindow E, home := p.core, bitAdr := p.a, bankp := p.e.bankp, op := op
                            x := rdS E.c d.toNat, dest := d.toNat, bank := (coreAt s1 s.cur).priv && decide (24 ≤ d.toNat) }]

/-- R172, R251, R300, R301. Barriers complete: bar.arr, in the phase of its group and with no engine command or fault of it due, has the
core's mx.acst done, counts the core and answers its new phase; bar.wait goes on when the group has released the phase that sA names; bar.sync goes on when it has counted
the core and the group has released the core's phase; bar.phase answers the core's phase. -/
def Sys2Proof.Spec.BarriersComplete : Prop :=
  ∀ (s s1 : State) (d a : Reg) (g : BitVec 2) (l : BitVec 4) (t : Task) (x : Ctx) (u : Run) (k : Nat),
    taskEnv s1 s.cur = some (t, x, u) → Spec.groupReg (coreAt s1 s.cur) g = some k →
    let E := Spec.env s1 t x u
    (Issues (.barArr d g l) { names := [nS d, nGrp g.toNat], bytes := groupBytes g } s s1 →
      (∀ e ∈ E.c.cmds, e.2.group ≠ some k) → (∀ f ∈ E.c.afaults, f.group ≠ some k) →
      phaseOf x k (prel x s.cur) = releaseOf x k →
      exec (.barArr d g l) s = .next (moveOn s1 (pend (countArrive (finishStores s1 s.cur) E k) s.cur .long l
        [sres E.c d (BitVec.zeroExtend 32 (phaseOf x k (prel x s.cur) + 1#16))] 0#5 []) s.cur 4)) ∧
    (Issues (.barWait a g) { names := [nS a, nGrp g.toNat], wp := true, bytes := groupBytes g } s s1 →
      (releaseOf x k - (rdS E.c a.toNat).extractLsb' 0 16).toNat < 2 ^ 15 →
      exec (.barWait a g) s = .next (moveOn s1 (pend s1 s.cur .long 0#4 [] 0#5 []) s.cur 4)) ∧
    (Issues (.barSync d g) { names := [nS d, nGrp g.toNat], wp := true, bytes := groupBytes g } s s1 →
      (E.c.priv, E.c.pc) ∈ E.c.arrived → (releaseOf x k - phaseOf x k (prel x s.cur)).toNat < 2 ^ 15 →
      exec (.barSync d g) s = .next (moveOn s1 (pend
        (updCore s1 s.cur (fun c => { c with arrived := c.arrived.filter (fun q => decide (q ≠ (E.c.priv, E.c.pc))) })) s.cur .long 0#4
        [sres E.c d (BitVec.zeroExtend 32 (phaseOf x k (prel x s.cur)))] 0#5 []) s.cur 4)) ∧
    (Issues (.barPhase d g l) { names := [nS d, nGrp g.toNat], bytes := groupBytes g } s s1 →
      exec (.barPhase d g l) s = .next (moveOn s1 (pend s1 s.cur .long l
        [sres E.c d (BitVec.zeroExtend 32 (phaseOf x k (prel x s.cur)))] 0#5 []) s.cur 4))

/-- R300. The release of a barrier: when every member of a group of a context that moves has arrived, its release count rises by one
and no member is arrived; in no other case does anything change. -/
def Sys2Proof.Spec.BarrierRelease : Prop :=
  ∀ (s : State) (x : Ctx) (r : GroupRun), ctxAt s s.input.who = some x → tget x.gruns s.input.sub = some r →
    (r.arrived.length = gCount (groupWord x s.input.sub 1) → moving x = true → ∃ (t : State) (y : Ctx),
      exec .barrierRelease s = .next t ∧ ctxAt t s.input.who = some y ∧
      tget y.gruns s.input.sub = some { g := r.g + 1#16, arrived := [] } ∧ t.slice = s.slice ∧ t.gmeta = s.gmeta) ∧
    (r.arrived.length ≠ gCount (groupWord x s.input.sub 1) ∨ moving x = false → exec .barrierRelease s = .next s)

/-- R251, R270, R305, R306. Events complete: ev.sig to a cluster of the grid has the core's mx.acst done and sends its signal at once, when it names no
threshold or the counter has reached it, and else parks it where its cluster has room; ev.wait goes on when the counter has reached its threshold. -/
def Sys2Proof.Spec.EventsComplete : Prop :=
  ∀ (s s1 : State) (a b : Reg) (l : BitVec 4) (t : Task) (x : Ctx) (u : Run),
    taskEnv s1 s.cur = some (t, x, u) →
    let E := Spec.env s1 t x u
    let v := rdS E.c a.toNat
    let w := rdS E.c b.toNat
    let k := clusterAt s1 (clusterOf s.cur)
    let m : Signal := { target := x.pbase + field v 9 0, event := field v 19 16, source := field w 3 0, thresh := field w 31 16 }
    let met := fun (e : Nat) (n : Nat) => (tgetD k.events e 0#16 - BitVec.ofNat 16 n).toNat < 2 ^ 15
    let first := clBase (fun k => u.copy.getD k 0#32)
    (Issues (.evSig a b l) { names := [nS a, nS b] } s s1 → first ≤ field v 9 0 →
      field v 9 0 < first + clCount (fun k => u.copy.getD k 0#32) →
      (b = 0#5 ∨ met (field w 3 0) (field w 31 16) → exec (.evSig a b l) s = .next (moveOn s1
        (pend (updCluster (finishStores s1 s.cur) m.target (fun k => { k with flying := k.flying ++ [m] })) s.cur .long l [] 0#5 []) s.cur 4)) ∧
      (b ≠ 0#5 → ¬met (field w 3 0) (field w 31 16) → k.parked.length < 8 → exec (.evSig a b l) s = .next (moveOn s1
        (pend (updCluster (finishStores s1 s.cur) (clusterOf s.cur) (fun k => { k with parked := k.parked ++ [m] })) s.cur .long l [] 0#5 []) s.cur 4))) ∧
    (Issues (.evWait a) { names := [nS a], wp := true } s s1 → met (field v 3 0) (field v 31 16) →
      exec (.evWait a) s = .next (moveOn s1 (pend s1 s.cur .long 0#4 [] 0#5 []) s.cur 4))

/-- R305, R306. A signal that lands at a cluster that no halted context holds raises its counter by one, and parked signals whose
threshold the counter now meets leave. -/
def Sys2Proof.Spec.EventLanding : Prop :=
  ∀ (s : State) (g : Signal), (clusterAt s s.input.who).flying[s.input.sub]? = some g →
    (∀ h x, (clusterAt s s.input.who).holder = some h → ctxAt s h.1 = some x → moving x = true) →
    ∃ t : State, exec .eventSignalLanding s = .next t ∧
      eventOf (clusterAt t s.input.who) g.event = eventOf (clusterAt s s.input.who) g.event + 1#16 ∧
      (∀ e, e ≠ g.event → eventOf (clusterAt t s.input.who) e = eventOf (clusterAt s s.input.who) e) ∧
      (∀ q ∈ (clusterAt t s.input.who).parked, ¬(q.source = g.event ∧
        (eventOf (clusterAt t s.input.who) g.event - BitVec.ofNat 16 q.thresh).toNat < 2 ^ 15))

/-- R309. A counted wait completes: outside a DET context, when the counter has reached sB or its home bank has found it so after an
update; in one, after a window close has found it so. -/
def Sys2Proof.Spec.CountedWait : Prop :=
  ∀ (s s1 : State) (a b h : Reg) (t : Task) (x : Ctx) (u : Run) (p : Spot),
    taskEnv s1 s.cur = some (t, x, u) →
    Issues (.waitCnt a b h) { names := [nH h, nS a, nS b], wp := true, bytes := packedBytes h a } s s1 →
    let E := Spec.env s1 t x u
    spotOf E (plainForm [fmtINT32]) h a = .inr p →
    (x.det = false → E.c.cwait = none → Spec.SpotFree s1 E p false false →
      (word (Spec.elem s1 p 32) - rdS E.c b.toNat).toNat < 2 ^ 31 → ∃ r : State, r.slice = s1.slice ∧ r.gmeta = s1.gmeta ∧
        (∀ n, Spec.sameCore (coreAt s1 n) (coreAt r n)) ∧ exec (.waitCnt a b h) s = .next (moveOn s1 (pend r s.cur .long 0#4 [] 0#5 []) s.cur 4)) ∧
    (x.det = false → E.c.cwait = none → ∀ q, tget s1.counting s.cur = some q → q.met = true →
      exec (.waitCnt a b h) s = .next (moveOn s1
        (pend { s1 with counting := tdel s1.counting s.cur } s.cur .long 0#4 [] 0#5 []) s.cur 4)) ∧
    (∀ q w, E.c.cwait = some q → q.res = some (.pass w) → q.ready = true →
      exec (.waitCnt a b h) s = .next (retire
        (pend (updCore s1 s.cur (fun c => { c with cwait := none })) s.cur .long 0#4 [] 0#5 [])
        s.cur E.c.inflight.length E.c.priv (E.c.pc + 4#32) 0))

/-- R310. Outside a DET context, mtx.lock of a free word that no other core waits for first takes it, with HELD, the context and the
core in it, and mtx.unlock by its holder clears HELD; the word is the only one that changes. -/
def Sys2Proof.Spec.MutexesComplete : Prop :=
  ∀ (s s1 : State) (a h : Reg) (l : BitVec 4) (t : Task) (x : Ctx) (u : Run) (p : Spot),
    taskEnv s1 s.cur = some (t, x, u) → x.det = false →
    let E := Spec.env s1 t x u
    let w := word (Spec.elem s1 p 32)
    spotOf E (plainForm [fmtINT32]) h a = .inr p → Spec.SpotFree s1 E p true false →
    (Issues (.mtxLock a h) { names := [nH h, nS a], bytes := packedBytes h a } s s1 →
      (w = 0#32 ∨ field w 29 24 = t.ctx) → w.getLsbD 31 = false →
      (∀ q, (coreAt s1 p.core).mutexq.find? (fun q => decide (q.1 = mutexKey p)) = some q → q.2 = s.cur) →
      ∃ r : State, exec (.mtxLock a h) s = .next (moveOn s1 (pend r s.cur .long 0#4 [] 0#5 []) s.cur 4) ∧
        Spec.elem r p 32 = (2 ^ 31 + t.ctx % 64 * 2 ^ 24 + prel x s.cur) % 2 ^ 32 ∧
        (∀ k, Spec.outside p 32 k → r.slice.read k = s1.slice.read k)) ∧
    (Issues (.mtxUnlock a h l) { names := [nH h, nS a], bytes := packedBytes h a } s s1 →
      field w 29 24 = t.ctx → w.getLsbD 31 = true → field w 15 0 = prel x s.cur →
      ∃ r : State, exec (.mtxUnlock a h l) s = .next (moveOn s1 (pend r s.cur .long l [] 0#5 []) s.cur 4) ∧
        Spec.elem r p 32 = (w &&& 0x7FFFFFFF#32).toNat ∧
        (∀ k, Spec.outside p 32 k → r.slice.read k = s1.slice.read k))

/-- R312. fence.t, fence.c and fence.g complete their issue, with nothing else changed. -/
def Sys2Proof.Spec.FencesComplete : Prop :=
  ∀ (i : Instr) (s s1 : State), i = .fenceT ∨ i = .fenceC ∨ i = .fenceG → Issues i { sys := true } s s1 →
    exec i s = .next (moveOn s1 (pend s1 s.cur .long 0#4 [] 0#5 []) s.cur 4)

/-- R62, R64, R282, R311. A window closes when every core of the record has passed it (or, outside a DET context, after 64 cycles each):
it is no longer open; the announced operations of it, in their total order, give their elements their values and have their results on
the way, and so have the requests of the task queue, in grant order; none of either remains; before that nothing changes. That outside a DET
context an announced operation takes effect at the first close of its window or a later one at which all that the cores have issued up to its window is performed, is
the model's reading (log 54). -/
def Sys2Proof.Spec.WindowClose : Prop :=
  ∀ (s : State) (x : Ctx) (u : Run), ctxAt s s.input.who = some x → runAt x s.input.sub = some u →
    (windowReady s x u = true → ∃ (t : State) (y : Ctx) (v : Run),
      exec .windowClose s = .next t ∧ ctxAt t s.input.who = some y ∧ runAt y s.input.sub = some v ∧
      v.window = u.window + 1 ∧ v.anns = u.anns.filter (fun a => !Spec.due s x u a) ∧
      v.tqreqs = u.tqreqs.filter (fun q => decide (u.window < q.win)) ∧
      ∃ l g, Spec.InOrder l (u.anns.filter (Spec.due s x u)) ∧
        Spec.InGrantOrder g (u.tqreqs.filter (fun q => decide (q.win ≤ u.window))) ∧
        v.deliver = u.deliver ++ (Spec.perform l s).2 ++ (Spec.grants g u.tqc).1 ∧ v.tqc = (Spec.grants g u.tqc).2 ∧
        t.slice = (Spec.perform l s).1.slice) ∧
    (windowReady s x u = false → exec .windowClose s = .next s)

/-- R63, R346, R354. A core of a DET context that may go on and has stalled at user level for QWD cycles, at a window that may not be issued
in, for a result of a window close that its instruction names, or with a trap whose entry awaits the close of a window that the core holds open (log 12), traps as
QUANTUM-DEADLOCK with the open window and the lowest core that has not passed it; any other goes on unchanged. -/
def Sys2Proof.Spec.QuantumDeadlock : Prop :=
  ∀ (s : State) (t : Task) (x : Ctx) (u : Run) (w : Waiting), let n := s.input.who
    let c := coreAt s n
    let stalls : Prop := (w.kind = .window ∨ w.kind = .windowResult) ∧
      if c.trap = none then u.window + 2 ≤ c.count / c.cr.quant.toNat ∨
        ∃ r ∈ w.need, ∃ p ∈ c.inflight, p.done = false ∧ p.kind = .window ∧ r ∈ p.regs
      else ∃ p ∈ c.inflight, p.done = false ∧ p.kind = .window ∧ c.count < (p.win + 1) * c.cr.quant.toNat
    taskEnv s n = some (t, x, u) → c.wait = some w →
    (mayGoOn s n = true → x.det = true → c.priv = false → stalls → c.cr.qwd.toNat ≤ w.cycles →
      ∃ info : Word, exec .quantumDeadlock s = .next (takeTrap s n { cause := .quantumDeadlock, info := info }) ∧
        ∀ k, (runCores x u).find? (fun m => !passed s u.window m) = some k →
          info = BitVec.ofNat 32 (u.window % 2 ^ 16 * 2 ^ 16 + prel x k % 2 ^ 16)) ∧
    (mayGoOn s n = false ∨ x.det = false ∨ c.priv = true ∨ ¬stalls ∨ w.cycles < c.cr.qwd.toNat → exec .quantumDeadlock s = .next s)

namespace Sys2Proof.Spec

/-- A LAUNCH, its kind and its registers. -/
def launchRow (i : Instr) : Option (CmdKind × Reg × BitVec 4) :=
  match i with
  | .copyLaunch d l => some (.copy, d, l)
  | .gatherLaunch d l => some (.gather, d, l)
  | .exchangeLaunch d l => some (.exchange, d, l)
  | _ => none

/-- The command that a LAUNCH captures. -/
def command (E : Env) (kind : CmdKind) : Cmd := { capture E kind with count := E.c.xcount + 1 }

/-- Event e joins the queue of master m, or waits for room in it (R24). -/
def Joins (s t : State) (m : Nat) (e : Event) : Prop :=
  if (masterAt s m).events.length < 256 ∧ (masterAt s m).held = [] then
    (masterAt t m).events = (masterAt s m).events ++ [e] ∧ (masterAt t m).held = []
  else (masterAt t m).events = (masterAt s m).events ∧ (masterAt t m).held = (masterAt s m).held ++ [e]

/-- Event e is posted (R24): to the owner or, while there is none, to the module queue; an event of a context bound to a function that is
not the owner to that function too. Of an event of a context it is the model's reading that it waits in the module queue (log 20). -/
def Posted (s t : State) (func : Option Nat) (e : Event) : Prop :=
  (s.mgmt.ownerId = 0#4 → t.moduleq = s.moduleq ++ [e]) ∧
  (s.mgmt.ownerId ≠ 0#4 → t.moduleq = s.moduleq ∧ Joins s t s.mgmt.ownerId.toNat e) ∧
  ∀ fn, func = some fn → fn + 1 ≠ s.mgmt.ownerId.toNat → Joins s t (fn + 1) e

/-- The transfer id of a core's next command of an engine (R215): four times the sequence number, and the engine. -/
def nextXid (c : Core) (kind : CmdKind) : Word := BitVec.ofNat 32 ((c.seq + 1) % 2 ^ 30 * 4 + kind.g)

end Sys2Proof.Spec

/-- R214, R240. eng.w writes a shadow register of its engine, and eng.r of a register other than STAT reads it; STAT reads, outside
a DET context, the number of commands of the engine in flight. -/
def Sys2Proof.Spec.EngineRegisters : Prop :=
  ∀ (s s1 : State) (d a : Reg) (g : BitVec 2) (e l : BitVec 4) (t : Task) (x : Ctx) (u : Run), taskEnv s1 s.cur = some (t, x, u) →
    (Issues (.engW a g e) { names := [nS a] } s s1 → ∃ r : State,
      exec (.engW a g e) s = .next (moveOn s1 (pend r s.cur .long 0#4 [] 0#5 []) s.cur 4) ∧
      shadowOf (coreAt r s.cur) g.toNat e.toNat = rdS (coreAt s1 s.cur) a.toNat ∧
      (∀ k < 4, ∀ j < 16, (k, j) ≠ (g.toNat, e.toNat) → shadowOf (coreAt r s.cur) k j = shadowOf (coreAt s1 s.cur) k j) ∧
      SameRegs (coreAt s1 s.cur) (coreAt r s.cur) ∧ SameMemory s1 r) ∧
    (Issues (.engR d g e l) { names := [nS d] } s s1 → e ≠ 0xD#4 → exec (.engR d g e l) s = .next (moveOn s1
      (pend s1 s.cur .long l [sres (coreAt s1 s.cur) d (shadowOf (coreAt s1 s.cur) g.toNat e.toNat)] 0#5 []) s.cur 4)) ∧
    (Issues (.engR d g 0xD#4 l) { names := [nS d] } s s1 → x.det = false → exec (.engR d g 0xD#4 l) s = .next (moveOn s1
      (pend s1 s.cur .long l [sres (coreAt s1 s.cur) d (BitVec.ofNat 32
        (let mine := (coreAt s1 s.cur).cmds.filter (fun e => decide (e.2.kind = .exchange) == decide (g = 2#2))
         if g = 2#2 then min mine.length 1 else mine.length))] 0#5 []) s.cur 4)) ∧
    (Issues (.engR d g 0xD#4 l) { names := [nS d] } s s1 → x.det = true →
      exec (.engR d g 0xD#4 l) s = .next (takeTrap s1 s.cur (nondetTrap 0 0xC (prel x s.cur))))

/-- R223, R229 to R231, R241. A LAUNCH of the copy or the gather engine whose ranges are right (R165), that no reason of R223 refuses,
that a DET context allows, whose ranges meet no lock and find room, and that has a free slot, registers its command with its
locks and is issued: the sequence number rises and sD takes the transfer id. -/
def Sys2Proof.Spec.LaunchCompletes : Prop :=
  ∀ (i : Instr) (kind : CmdKind) (d : Reg) (l : BitVec 4) (s s1 : State) (t : Task) (x : Ctx) (u : Run),
    Spec.launchRow i = some (kind, d, l) → kind ≠ .exchange → Issues i { names := [nS d], bytes := launchBytes kind } s s1 →
    taskEnv s1 s.cur = some (t, x, u) →
    let E := Spec.env s1 t x u
    let k := Spec.command E kind
    let rs := sidesOf x s.cur k
    (∀ r ∈ rs, sideTrap E r = none) → refusalOf k rs = none → launchNondet s1 E k rs = none →
    (∀ r ∈ rs, clashAt s1 x s.cur r = none) → tableRoom s1 x rs = true → slotFree E.c k = true →
    ∃ r : State, exec i s = .next (moveOn s1 (pend r s.cur .long l [sres E.c d (Spec.nextXid E.c kind)] 0#5 []) s.cur 4) ∧
      (coreAt r s.cur).seq = (E.c.seq + 1) % 2 ^ 30 ∧ tget (coreAt r s.cur).cmds k.seq = some k ∧
      (∀ q ∈ rs, q.lock s.cur k.seq ∈ (match ctxAt r t.ctx with
        | some y => locksAt r y q.home
        | none => [])) ∧
      SameRegs (coreAt s1 s.cur) (coreAt r s.cur) ∧ SameMemory s1 r

/-- R223. A LAUNCH that a reason of R223 refuses is issued when a slot is free, and its completion word has code 3 with the reason; no
range is locked, so that every table of locks is as before (an old lock with the new sequence number of this core, which no run has, would
go), and nothing is moved. -/
def Sys2Proof.Spec.LaunchRefused : Prop :=
  ∀ (i : Instr) (kind : CmdKind) (d : Reg) (l : BitVec 4) (s s1 : State) (t : Task) (x : Ctx) (u : Run) (reason : Nat),
    Spec.launchRow i = some (kind, d, l) → Issues i { names := [nS d], bytes := launchBytes kind } s s1 →
    taskEnv s1 s.cur = some (t, x, u) →
    let E := Spec.env s1 t x u
    let k := Spec.command E kind
    let rs := sidesOf x s.cur k
    (kind = .exchange → unjoined E.c = none ∧ joinedNow E.c = none) →
    (∀ r ∈ rs, sideTrap E r = none) → refusalOf k rs = some reason → slotFree E.c k = true →
    ∃ r : State, exec i s = .next (moveOn s1 (pend r s.cur .long l [sres E.c d (Spec.nextXid E.c kind)] 0#5 []) s.cur 4) ∧
      tget (coreAt r s.cur).dones (Spec.nextXid E.c kind).toNat = some (BitVec.ofNat 32 (0x30000000 + reason)) ∧ SameMemory s1 r ∧
      (∀ cl, (∀ m ∈ (clusterAt s1 cl).locks, ¬(m.owner = s.cur ∧ m.seq = k.seq)) → (clusterAt r cl).locks = (clusterAt s1 cl).locks) ∧
      ∃ y : Ctx, ctxAt r t.ctx = some y ∧ ((∀ m ∈ x.far, ¬(m.owner = s.cur ∧ m.seq = k.seq)) → y.far = x.far)

/-- R235, R241. The LAUNCH of an exchange whose seven partners wait with an equal count is issued with all eight joined; one that has
joined already, with its partners', is issued. -/
def Sys2Proof.Spec.ExchangeLaunch : Prop :=
  ∀ (s s1 : State) (d : Reg) (l : BitVec 4) (t : Task) (x : Ctx) (u : Run) (k : Cmd),
    Issues (.exchangeLaunch d l) { names := [nS d], bytes := launchBytes .exchange } s s1 → taskEnv s1 s.cur = some (t, x, u) →
    let E := Spec.env s1 t x u
    let n := clusterOf s.cur
    (joinedNow E.c = some k → ∃ r : State, exec (.exchangeLaunch d l) s = .next (moveOn s1
      (pend r s.cur .long l [sres E.c d (Spec.nextXid E.c .exchange)] 0#5 []) s.cur 4) ∧ SameMemory s1 r) ∧
    (joinedNow E.c = none → unjoined E.c = some k → (∀ m ∈ clusterCores n, holdsWave s1 t m = true ∧
      ∃ q, unjoined (coreAt s1 m) = some q ∧ q.count = k.count) → ∃ r : State, exec (.exchangeLaunch d l) s = .next (moveOn s1
      (pend r s.cur .long l [sres E.c d (Spec.nextXid E.c .exchange)] 0#5 []) s.cur 4) ∧
      (∀ m ∈ clusterCores n, unjoined (coreAt r m) = none) ∧ SameMemory s1 r)

/-- R242, R243. eng.wait of id 0 completes when no command and no card is outstanding, and of another id when its command is over,
with its completion word, or all ones for one that is not remembered; eng.poll, outside a DET context, completes always, and reads
0xF0000000 for a command in flight. -/
def Sys2Proof.Spec.EngineWaits : Prop :=
  ∀ (s s1 : State) (d a : Reg) (l : BitVec 4) (t : Task) (x : Ctx) (u : Run), taskEnv s1 s.cur = some (t, x, u) →
    let c := coreAt s1 s.cur
    let id := rdS c a.toNat
    let word_ := if unknownId c id then 0xFFFFFFFF#32 else if inFlight c id then 0xF0000000#32
      else tgetD c.dones id.toNat 0xFFFFFFFF#32
    (Issues (.engWait d a l) { names := [nS d, nS a], wp := true } s s1 → c.afaults = [] →
      (id = 0#32 → c.cmds = [] → cardsOf s1 s.cur = [] →
        exec (.engWait d a l) s = .next (moveOn s1 (pend s1 s.cur .long l [sres c d 0#32] 0#5 []) s.cur 4)) ∧
      (id ≠ 0#32 → (unknownId c id = true ∨ inFlight c id = false) →
        exec (.engWait d a l) s = .next (moveOn s1 (pend s1 s.cur .long l [sres c d word_] 0#5 []) s.cur 4))) ∧
    (Issues (.engPoll d a l) { names := [nS d, nS a], wp := true } s s1 → x.det = false →
      exec (.engPoll d a l) s = .next (moveOn s1 (pend s1 s.cur .long l [sres c d word_] 0#5 []) s.cur 4))

/-- R218, R222, R242. A copy or gather whose last element is written completes at its completion step: its slot is free, its
completion word is remembered, its locks are gone from the tables of all clusters and from the far-range table of its context, and its handler, if it names one, is due. -/
def Sys2Proof.Spec.EngineCompletion : Prop :=
  ∀ (i : Instr) (kind : CmdKind) (s : State) (k : Cmd) (x : Ctx),
    (i = .copyComplete ∧ kind = .copy) ∨ (i = .gatherComplete ∧ kind = .gather) →
    tget (coreAt s s.input.who).cmds s.input.sub = some k → k.seq = s.input.sub → k.kind = kind → ctxAt s k.ctx = some x →
    issuing x = true → k.fault = none → k.total ≤ k.next → k.seq < 2 ^ 30 → (coreAt s s.input.who).seq < k.seq + 64 →
    ∃ t : State, exec i s = .next t ∧ tget (coreAt t s.input.who).cmds k.seq = none ∧
      tget (coreAt t s.input.who).dones (xidOf kind k.seq).toNat = some (wordDone k) ∧
      (∀ cl, ∀ l ∈ (clusterAt t cl).locks, ¬(l.owner = s.input.who ∧ l.seq = k.seq)) ∧
      (∃ y, ctxAt t k.ctx = some y ∧ ∀ l ∈ y.far, ¬(l.owner = s.input.who ∧ l.seq = k.seq)) ∧
      (∀ h, k.handler = some h → (xidOf kind k.seq, h) ∈ (coreAt t s.input.who).intr) ∧ SameMemory s t

/-- R218. An engine writes elements one after another in canonical order: its move on the next element of a copy to a plain entry of
a slice, where the source has no fault, writes the source's code there, leaves every other byte of the slices, and counts the
element. -/
def Sys2Proof.Spec.EngineMove : Prop :=
  ∀ (s s' : State) (n q : Nat) (k : Cmd) (x : Ctx) (v : Nat) (bad : Bool) (p : List Place) (m : Nat),
    tget (coreAt s n).cmds q = some k → k.seq = q → k.kind = .copy → ctxAt s k.ctx = some x → walkStep s n k = .go s' →
    k.dstE.plain = true → k.srcE.fmt = k.dstE.fmt → homeOf x n k.dstE = .slice m → bankpOk k.dstE.bankp = true →
    0 < k.dstE.width → takeElem s x n k k.next = .code v bad p →
    readElem s' k.ctx x k.dstE (.slice m) (k.dstAt k.next) = v ∧
    (∀ j, (∀ b ∈ elemBytes (k.dstAt k.next) k.dstE.width, sliceKey m (physOff k.dstE.bankp b) ≠ j) → s'.slice.read j = s.slice.read j) ∧
    ∃ k' : Cmd, tget (coreAt s' n).cmds q = some k' ∧ k'.next = k.next + 1

namespace Sys2Proof.Spec

/-- The eight lines of a matrix tile's side that a range lock covers, as the pending instruction registers it. -/
def tileLock (E : Env) (t : Tile) (dst : Bool) : Option Lock := some ((t.side E dst).lock E.n 0)

/-- The regenerations of R263: transposed, with epsilon alone, destination and source slot. -/
def regenRow (i : Instr) : Option (Bool × Bool × BitVec 6 × BitVec 6 × BitVec 4) :=
  match i with
  | .mxRegen od os l => some (false, false, od, os, l)
  | .mxRegenE od os l => some (false, true, od, os, l)
  | .mxRegenT od os l => some (true, false, od, os, l)
  | .mxRegenET od os l => some (true, true, od, os, l)
  | _ => none

/-- The array-joining instructions (R256): the fields of a product, the destination of gang.join, the names. -/
def joinRow (i : Instr) (c : Core) : Option (Option MmaArgs × Reg × BitVec 4 × Shape) :=
  match i with
  | .gangMma d oa ob l => some (some { d := d.toNat, oa := oa.toNat, ob := ob.toNat, src := none }, 0#5, l, mmaShape c d oa ob)
  | .gangMmaSh d oa ob k l =>
    some (some { d := d.toNat, oa := oa.toNat, ob := ob.toNat, src := some k.toNat }, 0#5, l, mmaShape c d oa ob)
  | .gangJoinInstruction d l => some (none, d, l, { names := [nS d] })
  | _ => none

end Sys2Proof.Spec

/-- R247, R252. mx.claim of a slot that is not claimed, and mx.rel of one that is, complete: the tag of the slot is claimed, empty, clean
and of the next generation, or is no longer claimed nor full; claiming a claimed slot, or releasing another, is SLOT. -/
def Sys2Proof.Spec.SlotClaims : Prop :=
  ∀ (s s1 : State) (k : BitVec 6) (l : BitVec 4), let c := coreAt s1 s.cur
    (Issues (.mxClaim k l) { names := [nSlot k.toNat] } s s1 →
      (tagClm c k.toNat = false → ∃ r : State, exec (.mxClaim k l) s = .next (moveOn s1 (pend r s.cur .long l [] 0#5 []) s.cur 4) ∧
        tagClm (coreAt r s.cur) k.toNat = true ∧ tagFull (coreAt r s.cur) k.toNat = false ∧ tagPois (coreAt r s.cur) k.toNat = false ∧
        tagGen (coreAt r s.cur) k.toNat = (tagGen c k.toNat + 1) % 1024 ∧ SameRegs c (coreAt r s.cur) ∧ SameMemory s1 r) ∧
      (tagClm c k.toNat = true → exec (.mxClaim k l) s = .next (takeTrap s1 s.cur (slotTrap 0x03 (slotOf s.cur) k.toNat)))) ∧
    (Issues (.mxRel k l) { names := [nSlot k.toNat] } s s1 →
      (tagClm c k.toNat = true → ∃ r : State, exec (.mxRel k l) s = .next (moveOn s1 (pend r s.cur .long l [] 0#5 []) s.cur 4) ∧
        tagClm (coreAt r s.cur) k.toNat = false ∧ tagFull (coreAt r s.cur) k.toNat = false ∧
        tagGen (coreAt r s.cur) k.toNat = tagGen c k.toNat ∧ SameRegs c (coreAt r s.cur) ∧ SameMemory s1 r) ∧
      (tagClm c k.toNat = false → exec (.mxRel k l) s = .next (takeTrap s1 s.cur (slotTrap 0x01 (slotOf s.cur) k.toNat))))

/-- R246, R250. mx.fill and mx.fill.col of a claimed slot, from a tile of the core's own slice whose layout is right and that is free to
be read, complete their issue: the slot's new content, line by line with tails past the extents, and its new tag are pending, and
the tile's lines are locked as a source. -/
def Sys2Proof.Spec.FillsComplete : Prop :=
  ∀ (i : Instr) (rows : Bool) (k : BitVec 6) (h a : Reg) (l : BitVec 4) (s s1 : State) (t : Task) (x : Ctx) (u : Run),
    (i = .mxFill k h a l ∧ rows = true) ∨ (i = .mxFillCol k h a l ∧ rows = false) → Issues i (fillShape rows k h a) s s1 →
    let s2 := slotPath s1
    taskEnv s2 s.cur = some (t, x, u) →
    let E := Spec.env s2 t x u
    let T := tileOf E h a rows (fun e => 1024 / fmtWidth e.fmt)
    tileLayout E slotFmts (blockFmt T.e.fmt && (!rows || decide (T.c0 % 24 ≠ 0))) T = none →
    tileReadGuard s2 E T = .pass → tagClm E.c k.toNat = true →
    ∃ r : State, exec i s = .next (moveOn s1 (pendLock r s.cur .long l
        [.slot k.toNat ((List.range 32).flatMap (fun n => lineBytes T.e.fmt (T.line s2 E n (1024 / fmtWidth T.e.fmt) (tailOf T.e.fmt))))
          (fillTag E T k.toNat rows (poisonGuard s2 E T.e (.slice s.cur) T.locs).isSome)] 0#5 [] (Spec.tileLock E T false)) s.cur 4) ∧
      SameRegs E.c (coreAt r s.cur) ∧ SameMemory s2 r

/-- R246. What a slot holds once lines of codes of a format are written to it: element e of line n is the code. -/
def Sys2Proof.Spec.SlotElements : Prop :=
  ∀ (c : Core) (k f : Nat) (lines : Nat → List Nat) (tag : List Word) (n e : Nat), k < 64 → n < 32 → f ∈ slotFmts →
    (∀ n < 32, (lines n).length ≤ 1024 / fmtWidth f) → e < (lines n).length →
    slotElem (applyWrite c (.slot k ((List.range 32).flatMap (fun n => lineBytes f (lines n))) tag)) k f n e =
      (lines n).getD e 0 % 2 ^ fmtWidth f

/-- R251. mx.acld, mx.acst and mx.zero complete: mx.acld has a tile of FP32 elements pending, with zeros past the extents, and locks its
source; mx.acst stores the cells that lie inside the extents, FP32 bit for bit, and FP16 and BF16, with FCTL rounding to nearest and flushing
nothing, as the nearest code of a finite cell in range, and locks its destination (that it stores at its acceptance is the model's reading, log 24);
mx.zero has a tile of zeros pending. -/
def Sys2Proof.Spec.TilesComplete : Prop :=
  ∀ (s s1 : State) (d : BitVec 3) (h a : Reg) (l : BitVec 4) (t : Task) (x : Ctx) (u : Run),
    let s2 := slotPath s1
    taskEnv s2 s.cur = some (t, x, u) →
    let E := Spec.env s2 t x u
    let T := tileOf E h a true (fun _ => 32)
    let home := Home.slice s.cur
    (Issues (.mxAcld d a h l) (accTileShape d a h) s s1 → tileLayout E [fmtFP32] false T = none → tileReadGuard s2 E T = .pass →
      poisonGuard s2 E T.e home T.locs = none →
      exec (.mxAcld d a h l) s = .next (moveOn s1 (pendLock s2 s.cur .long l
        [.acc d.toNat ((List.range 32).flatMap (fun n => (T.line s2 E n 32 0).map word)) false] 0#5 [] (Spec.tileLock E T false))
        s.cur 4)) ∧
    (Issues (.mxAcst d a h l) (accTileShape d a h) s s1 → tileLayout E [fmtFP32, fmtFP16, fmtBF16] false T = none →
      accNondet E .st T.e home = none → markGuard s2 E T.e home T.locs = none → clashAt s2 x s.cur (T.side E true) = none →
      tableRoom s2 x [T.side E true] = true → conflictGuard s2 E T.e home T.locs true = none → d.toNat ∉ E.c.accPoison →
      ∃ (r : State) (p : Pending), exec (.mxAcst d a h l) s = .next (moveOn s1 r s.cur 4) ∧
        (coreAt r s.cur).inflight = E.c.inflight ++ [p] ∧ p.writes = [] ∧ p.lock = Spec.tileLock E T true ∧ p.done = false ∧
        (∀ j, (∀ b ∈ elemsBytes T.locs T.e.width, sliceKey s.cur (physOff T.e.bankp b) ≠ j) → r.slice.read j = s2.slice.read j) ∧
        (T.locs.Pairwise (fun a b => a + T.e.width ≤ b ∨ b + T.e.width ≤ a) → ∀ i < 32, ∀ j < 32, T.c0 + j < T.e.ext 0 → T.c1 + i < T.e.ext 1 →
          let cell := sget 0#32 E.c.acc (1024 * d.toNat + 32 * i + j)
          let v := readElem r t.ctx x T.e home (bitAddr T.e (coordsOf T.e (T.c0 + j) (T.c1 + i) E.c.cr.coord2.toNat E.c.cr.coord3.toNat))
          (T.e.fmt = 0 → v = cell.toNat) ∧ ∀ f, Spec.halfFmt (BitVec.ofNat 4 T.e.fmt) = some f → T.e.fmt < 16 →
            E.c.cr.fctl.extractLsb' 0 4 = 0#4 → ∀ n, Spec.units 8 23 cell.toNat = some n → n.natAbs ≤ Spec.maxUnits f.1 f.2.1 * f.2.2 →
            Spec.Nearest f.1 f.2.1 f.2.2 n v) ∧
        SameRegs E.c (coreAt r s.cur) ∧ r.gmeta = s2.gmeta ∧ r.dram = s2.dram ∧ r.caddy = s2.caddy ∧ r.host = s2.host) ∧
    (Issues (.mxZero d l) { names := [nAcc d.toNat] } s s1 → exec (.mxZero d l) s = .next (moveOn s1
      (pend s1 s.cur .long l [.acc d.toNat (List.replicate 1024 0#32) false] 0#5 []) s.cur 4))

/-- R263. A regeneration from a full, clean slot of pair words into a claimed slot completes its issue: its elements, transposed where
the form says so, and a full tag of the next generation are pending for the destination slot. -/
def Sys2Proof.Spec.RegenComplete : Prop :=
  ∀ (i : Instr) (tr eps : Bool) (od os : BitVec 6) (l : BitVec 4) (s s1 : State),
    Spec.regenRow i = some (tr, eps, od, os, l) → Issues i (regenShape od os) s s1 →
    let s2 := slotPath s1
    let c := coreAt s2 s.cur
    tagClm c os.toNat = true → tagFull c os.toNat = true → tagFmt c os.toNat = fmtPair → tagPois c os.toNat = false →
    tagClm c od.toNat = true →
    let elem := fun (n k : Nat) =>
      regenElem eps (slotElem c os.toNat fmtPair n k) (slotEps c os.toNat n k c.cr.seedlo c.cr.seedhi c.cr.memb)
    let fmt := if eps then fmtFP32 else fmtBF16
    ∃ (r : State) (co : List (Nat × Nat)), exec i s = .next (moveOn s1 (pend r s.cur .long l
        [.slot od.toNat ((List.range 32).flatMap (fun m =>
            lineBytes fmt ((List.range 32).map (fun e => if tr then elem e m else elem m e))))
          [tagHead true true false (tagGen c od.toNat + 1) fmt, 0#32, 0#32, 0#32, 0#32]] 0#5 co) s.cur 4) ∧
      SameRegs c (coreAt r s.cur) ∧ SameMemory s2 r

/-- R256 to R260, R262. When the last of eight cores with the same wave arrives at an array join that passes the checks of R256, all
eight issue: each counts a join and waits no more, and each has its product pending for the accumulator of gang.mma, or its count
for sD of gang.join. -/
def Sys2Proof.Spec.ArrayJoins : Prop :=
  ∀ (i : Instr) (args : Option MmaArgs) (d : Reg) (l : BitVec 4) (sh : Shape) (s s1 : State) (t : Task) (x : Ctx) (u : Run)
    (depth cls : Nat),
    Spec.joinRow i (coreAt s s.cur) = some (args, d, l, sh) → Issues i sh s s1 → taskEnv s1 s.cur = some (t, x, u) →
    let cl := clusterOf s.cur
    let s2 := registerJoin s1 s.cur false (encodeWord i)
    (∀ m ∈ clusterCores cl, holdsWave s1 t m = true ∧ (m ≠ s.cur → atArray s1 m = true)) → s.cur ∈ clusterCores cl →
    joinChecks s2 cl args = .accept depth cls →
    ∃ r : State, exec i s = .next (moveOn s1 r s.cur 4) ∧ (∀ k < 8,
      (coreAt r (8 * cl + k)).acount = (coreAt s1 (8 * cl + k)).acount + 1 ∧ (coreAt r (8 * cl + k)).join = none ∧
      ∃ p ∈ (coreAt r (8 * cl + k)).inflight, p.done = false ∧
        match args with
        | some a => p.kind = .mma ∧ p.writes = [.acc a.d
            (mmaTile (chunkOf cls) depth (accCell (coreAt s2 (8 * cl + k)) a.d) ((operandA s2 cl a k).lines depth)
              ((operandB s2 cl a k).lines depth)) false]
        | none => p.kind = .long ∧ ∃ b, p.writes = [.s d.toNat (word ((coreAt s1 (8 * cl + k)).acount + 1)) b]) ∧
      SameMemory s1 r

namespace Sys2Proof.Spec

/-- T[i] of R155: two to the power of i / 8 in FP32. -/
def octaves : List Nat := [0x3F800000, 0x3F8B95C2, 0x3F9837F0, 0x3FA5FED7, 0x3FB504F3, 0x3FC5672A, 0x3FD744FD, 0x3FEAC0C7]

/-- The weight w of a pair word whose sample is eps (R135, R155, R156): a reserved bit or a NaN gives 0x7FC0, lambda -128 gives mu, and else
the product of the deviation and the sample, its sum with mu and the weight are rounded in turn. -/
def WeightIs (pair eps w : Nat) : Prop :=
  let mu := pair % 2 ^ 16
  let lam := signed 8 (pair / 2 ^ 16 % 2 ^ 8)
  (2 ^ 24 ≤ pair → w = 0x7FC0) ∧ (pair < 2 ^ 24 → lam = -128 → w = mu) ∧ (pair < 2 ^ 24 → lam ≠ -128 → isNaN 8 7 mu → w = 0x7FC0) ∧
  (pair < 2 ^ 24 → lam ≠ -128 → ∀ m, units 8 7 mu = some m → ∃ t s a b c e, units 8 23 (octaves.getD (lam % 8).toNat 0) = some a ∧
    units 8 23 eps = some e ∧ Rounds 8 23 (2 ^ 165) (a * e * 2 ^ (lam / 8 + 16).toNat) t ∧ units 8 23 t = some b ∧
    Rounds 8 23 1 (m * 2 ^ 16 + b) s ∧ units 8 23 s = some c ∧ Rounds 8 7 (2 ^ 16) c w)

/-- Line n, element k of an operand has the value v in units of 2 to the power of -127 - q (R133, R136, R258 to R260): the number of its code, times
its block's scale where one is in use; of a pair word, that of its weight with the sample of its index. -/
def ElementIs (o : Operand) (q n k : Nat) (v : Int) : Prop :=
  let code := slotElem o.core o.slot o.fmt n k
  if o.fmt = 12 then q = 133 ∧ ∃ eps w u, GaussIs o.seedlo.toNat o.seedhi.toNat (o.memb.toNat % 2 ^ 16) ((tagWord o.core o.slot 1).toNat % 2 ^ 16)
      (((tagWord o.core o.slot 2).toNat + k * (tagWord o.core o.slot 3).toNat + n * (tagWord o.core o.slot 4).toNat) % 2 ^ 32) eps ∧
    WeightIs code eps w ∧ units 8 7 w = some u ∧ v = u * 2 ^ 127
  else ∃ u, number o.fmt code = some (u, q) ∧ ∃ e : Nat, v = u * 2 ^ e ∧
    if 5 ≤ o.fmt ∧ o.scp.getLsbD 31 = true then e < 255 ∧
      e = (o.core.slots.read (4096 * (o.scp.toNat % 64) + 128 * n + 4 * (o.scp.toNat / 64 % 1024) + k / 24)).toNat else e = 127

/-- The formats of a class (R255): its chunk, and a format's q. -/
def macRow (f : Nat) : Option (Nat × Nat) :=
  if f = 12 then some (32, 133) else if f < 5 then (fmtRow f).map (fun r => (32, r.2.2.2)) else if f = 8 then some (48, 7) else
    if f < 8 then (fmtRow f).map (fun r => (48, r.2.2.2)) else none

end Sys2Proof.Spec

/-- R154, R155, R156, R263. The sample of an element of a slot is that of its stream and canonical index; the element that a regeneration makes
of a pair word with it is the weight, or, for ε, the sample, a zero where the deviation is zero and a NaN where a reserved bit is set. -/
def Sys2Proof.Spec.RegenValues : Prop :=
  ∀ (c : Core) (slot n k : Nat) (lo hi memb : Word) (p : Nat), p < 2 ^ 32 →
    let eps := slotEps c slot n k lo hi memb
    Spec.GaussIs lo.toNat hi.toNat (memb.toNat % 2 ^ 16) ((tagWord c slot 1).toNat % 2 ^ 16)
      (((tagWord c slot 2).toNat + k * (tagWord c slot 3).toNat + n * (tagWord c slot 4).toNat) % 2 ^ 32) eps ∧
    Spec.WeightIs p eps (regenElem false p eps) ∧
    regenElem true p eps = (if 2 ^ 24 ≤ p then 0x7FC00000 else if Spec.signed 8 (p / 2 ^ 16 % 2 ^ 8) = -128 then 0 else eps)

/-- R151, R258, R259, R260. The product tile of gang.mma and gang.mma.sh, as their statement names it, of operands with finite elements: element (i, j)
is reached from that of the accumulator in one step per chunk, in ascending order; a step that begins at a finite number rounds once, to nearest even
in FP32, its exact sum with the products of the chunk. -/
def Sys2Proof.Spec.ProductTile : Prop :=
  ∀ (oa ob : Operand) (chunk chunks qa qb : Nat) (acc : Nat → Nat → Word) (A B : Nat → Nat → Int),
    Spec.macRow oa.fmt = some (chunk, qa) → Spec.macRow ob.fmt = some (chunk, qb) →
    (∀ n < 32, ∀ k < chunk * chunks, Spec.ElementIs oa qa n k (A n k) ∧ Spec.ElementIs ob qb n k (B n k)) →
    let tile := mmaTile chunk (chunk * chunks) acc (oa.lines (chunk * chunks)) (ob.lines (chunk * chunks))
    tile.length = 1024 ∧ ∀ i < 32, ∀ j < 32, ∃ C : Nat → Nat, C 0 = (acc i j).toNat ∧ tile.getD (32 * i + j) 0#32 = BitVec.ofNat 32 (C chunks) ∧
      ∀ t < chunks, ∀ c, Spec.units 8 23 (C t) = some c → C (t + 1) < 2 ^ 32 ∧
        Spec.Rounds 8 23 (2 ^ (105 + qa + qb)) (c * 2 ^ (105 + qa + qb) + ((List.range chunk).map (fun k => A i (chunk * t + k) * B j (chunk * t + k))).sum)
          (C (t + 1))

/-- R88, R92, R93. gang.form completes in a gang that stands, or when every core of the cluster that may hold a task of the wave (one that a
fatal trap ended among them: the model's reading of a participant, log 45) has come to it at the same program counter: sD takes the members and the leader, and GCOUNT rises by one. gang.split dissolves the core's
gang. -/
def Sys2Proof.Spec.GangsComplete : Prop :=
  ∀ (s s1 : State) (d : Reg) (t : Task) (x : Ctx) (u : Run), taskEnv s1 s.cur = some (t, x, u) →
    (Issues (.gangForm d) { names := [nS d] } s s1 → ∀ g, gangOf s1 s.cur = some g → ∃ r : State,
      exec (.gangForm d) s = .next (moveOn s1 r s.cur 4) ∧ (coreAt r s.cur).gcount = (coreAt s1 s.cur).gcount + 1 ∧
      (d ≠ 0#5 → rdS (coreAt r s.cur) d.toNat = word (g.members.foldl (fun a k => a + 2 ^ k) 0 + 256 * g.leader)) ∧
      (∀ q, q ≠ d.toNat → rdS (coreAt r s.cur) q = rdS (coreAt s1 s.cur) q) ∧ SameMemory s1 r) ∧
    (Issues (.gangForm d) { names := [nS d] } s s1 → gangOf s1 s.cur = none → s.cur ∈ clusterCores (clusterOf s.cur) →
      mayHold s1 t s.cur = true →
      let ns := (clusterCores (clusterOf s.cur)).filter (mayHold s1 t)
      (∀ m ∈ ns, holdsWave s1 t m = true ∧ (coreAt s1 m).gcount = (coreAt s1 s.cur).gcount ∧
        (coreAt s1 m).pc = (coreAt s1 s.cur).pc ∧ (m ≠ s.cur → (joinOf (coreAt s1 m) true).isSome = true)) →
      ∃ r : State, exec (.gangForm d) s = .next (moveOn s1 r s.cur 4) ∧
        (clusterAt r (clusterOf s.cur)).gang = some { leader := slotOf (ns.headD s.cur), members := ns.map slotOf } ∧
        ∀ m ∈ ns, (coreAt r m).gcount = (coreAt s1 m).gcount + 1 ∧ (coreAt r m).join = none) ∧
    (Issues .gangSplit {} s s1 → exec .gangSplit s = .next (moveOn s1 (dissolve s1 s.cur) s.cur 4) ∧
      gangOf (dissolve s1 s.cur) s.cur = none)


namespace Sys2Proof.Spec

/-- The optimiser and strainer of the core's cluster, in the core's context (R366). -/
def unit (E : Env) : OptUnit := optAt E.x (clusterOf E.n)

/-- A descriptor: its entry, its elements' bit addresses and its eight words (R369, R377, R382). -/
structure Desc where
  e    : Entry
  locs : List Nat
  w    : List Word

/-- The descriptor of an instruction is there (R382), and free to be read: no mark, no lock, no poison. -/
structure DescFree (s : State) (E : Env) (a n : Reg) (D : Desc) : Prop where
  entry    : D.e = handleEntry E n.toNat
  locs     : D.locs = (descCoords E D.e a).map (bitAddr D.e)
  words    : D.w = descWords s E D.e (descCoords E D.e a)
  layout   : layoutCheck E (descForm E.n) D.e (descCoords E D.e a) = none
  unmarked : markGuard s E D.e (.slice E.n) D.locs = none
  unlocked : lockGuard s E D.e (.slice E.n) D.locs false = none
  clean    : poisonGuard s E D.e (.slice E.n) D.locs = none

/-- Handle number b of a descriptor's first word. -/
def Desc.handle (D : Desc) (b : Nat) : Nat := (D.w.getD 0 0#32).toNat / 2 ^ b % 32

/-- The four entries of a prm.open (R369). -/
def Desc.ents (E : Env) (D : Desc) : List (Nat × List Word) :=
  [capView E (D.handle 0), capView E (D.handle 8), capView E (D.handle 16), capView E (D.handle 24)]

/-- The core has no card queued or running (R382), and no action of the strainer is in progress on a promise of its slot (R371, R377). -/
def AtRest (s : State) (n : Nat) (o : OptUnit) : Prop :=
  cardsOf s n = [] ∧ ∀ e ∈ o.regions, ∀ w, e.2.work = some w → w.j / 8 ≠ slotOf n

/-- Entry e is the first of a list that is not well formed (R46). -/
def FirstMalformed (E : Env) (l : List Entry) (e : Entry) : Prop :=
  ∃ l₁ l₂, l = l₁ ++ e :: l₂ ∧ (∀ f ∈ l₁, entryOk E f = true) ∧ entryOk E e = false

/-- LAYOUT with cause 0x01 of an entry (R165). -/
def malformedReq (e : Entry) : TrapReq := { cause := .layout, info := BitVec.ofNat 32 (2 ^ 24 + e.num % 256 * 2 ^ 16) }

/-- The redemptions, and whether they train only (R384). -/
def redeemRow (i : Instr) : Option (CardKind × Reg × Reg × Reg × BitVec 4) :=
  match i with
  | .prmRedeem d a n l => some (.redeem, d, a, n, l)
  | .prmRedeemT d a n l => some (.redeemT, d, a, n, l)
  | _ => none

end Sys2Proof.Spec

/-- R46, R366, R367, R369, R371, R377, R383. prm.open of a right, free descriptor, with the core's cards drained and its promises at rest, of the producer's region (in a DET
context), of a ticket that is not taken and with a free entry of the core's slot, whose two source ranges meet no lock, completes: the
entry is open with the descriptor's fields and the next generation, and its handle is pending for sD. A region whose entry is not well formed is
LAYOUT with cause 0x01. -/
def Sys2Proof.Spec.PromiseOpens : Prop :=
  ∀ (s s1 : State) (d a n : Reg) (l : BitVec 4) (t : Task) (x : Ctx) (u : Run) (D : Spec.Desc) (j : Nat),
    Issues (.prmOpen d a n l) (descShape (some false) [nS d] a n) s s1 → taskEnv s1 s.cur = some (t, x, u) → t.rerun = false →
    let E := Spec.env s1 t x u
    let o := Spec.unit E
    let ents := D.ents E
    let W := capEntry ents 0
    let w := fun k => D.w.getD k 0#32
    Spec.DescFree s1 E a n D → Spec.AtRest s1 s.cur o →
    (∀ e, Spec.FirstMalformed E (ents.map (fun c => { num := c.1, words := c.2 })) e →
      exec (.prmOpen d a n l) s = .next (takeTrap s1 s.cur (Spec.malformedReq e))) ∧
    (disagrees E W (capEntry ents 1) (capEntry ents 2) (capEntry ents 3) = none → badOpenWord D.w = none →
    (x.det = true → W.prod = prel x s.cur) → ticketTaken o W.num (field (w 4) 15 0) = false → freeEntry o (slotOf s.cur) = some j →
    clashAt s1 x s.cur (wholeSide x s.cur (capEntry ents 1) false) = none →
    clashAt s1 x s.cur (wholeSide x s.cur (capEntry ents 2) false) = none →
    let gen := ((promiseAt o j).gen + 1) % 1024
    ∃ (r : State) (p : Promise), exec (.prmOpen d a n l) s = .next (moveOn s1 (pend r s.cur .long l
        [sres E.c d (BitVec.ofNat 32 (gen * 64 + j % 64))] 0#5 (if E.c.priv then [] else [(55, 1)])) s.cur 4) ∧
      promiseAt (unitOf r t.ctx (clusterOf s.cur)) j = p ∧ p.state = .open_ ∧ p.closed = false ∧ p.gen = gen ∧
      p.exp = field (w 3) 9 8 ∧ p.late = field (w 3) 13 12 ∧ p.deadline = field (w 3) 5 0 ∧ p.eta = w 1 ∧ p.alpha = w 2 ∧
      p.ticket = field (w 4) 15 0 ∧ p.tag = w 5 ∧ p.we = W.num ∧ p.vopen = (regionAt o W.num).wver ∧
      (∀ k, k ≠ j → promiseAt (unitOf r t.ctx (clusterOf s.cur)) k = promiseAt o k) ∧
      SameRegs E.c (coreAt r s.cur) ∧ SameMemory s1 r)

/-- R376, R384. A redemption of a live promise of the core that is open, or expired, and not pending, with a right gradient entry that
meets no lock and, in a DET context, by the producer, completes when the queue has room: the promise is pending, the card is the
last of the queue, SEQ rises and sD takes the transfer id. -/
def Sys2Proof.Spec.PromiseRedeems : Prop :=
  ∀ (i : Instr) (kind : CardKind) (s s1 : State) (d a n : Reg) (l : BitVec 4) (t : Task) (x : Ctx) (u : Run) (j : Nat),
    Spec.redeemRow i = some (kind, d, a, n, l) → Issues i { names := [nH n, nS d, nS a] } s s1 →
    taskEnv s1 s.cur = some (t, x, u) → t.rerun = false →
    let E := Spec.env s1 t x u
    let o := Spec.unit E
    let p := promiseAt o j
    let g := handleEntry E n.toNat
    liveEntry o s.cur (rdS E.c a.toNat) = some j → p.pend = false → (p.state = .open_ ∨ p.state = .expired) →
    regionOk E g false = true → g.count = (capEntry p.ents 0).count → (x.det = true → (capEntry p.ents 0).prod = prel x s.cur) →
    clashAt s1 x s.cur (wholeSide x s.cur g false) = none → o.queue.length + o.running.toList.length < 16 →
    ∃ (r : State) (q : Card), exec i s = .next (moveOn s1 (pend r s.cur .long l
        [sres E.c d (BitVec.ofNat 32 (4 * ((E.c.seq + 1) % 2 ^ 30) + 3))] 0#5 []) s.cur 4) ∧
      (coreAt r s.cur).seq = (E.c.seq + 1) % 2 ^ 30 ∧ (unitOf r t.ctx (clusterOf s.cur)).queue = o.queue ++ [q] ∧ q.kind = kind ∧
      q.promise = j ∧ q.ref.core = s.cur ∧ (promiseAt (unitOf r t.ctx (clusterOf s.cur)) j).pend = true ∧
      (promiseAt (unitOf r t.ctx (clusterOf s.cur)) j).tonly = decide (kind = .redeemT) ∧
      SameRegs E.c (coreAt r s.cur) ∧ SameMemory s1 r

/-- R367, R375, R377, R387. prm.query and prm.cancel complete once the core's cards are drained and its promises at rest: for a handle that is not live they answer all
ones; prm.query answers a word of the entry and changes no promise; prm.cancel cancels an open promise, which the cursor passes in the same
event where it stands at it (the model's reading, log 28), and answers the entry's first word as it then stands. -/
def Sys2Proof.Spec.PromiseAnswers : Prop :=
  ∀ (s s1 : State) (d a : Reg) (sel : BitVec 5) (l : BitVec 4) (t : Task) (x : Ctx) (u : Run),
    taskEnv s1 s.cur = some (t, x, u) → t.rerun = false →
    let E := Spec.env s1 t x u
    let o := Spec.unit E
    Spec.AtRest s1 s.cur o →
    let live := liveEntry o s.cur (rdS E.c a.toNat)
    (Issues (.prmQuery d a sel l) { names := [nS d, nS a] } s s1 → sel.toNat < 4 → ∃ r : State,
      exec (.prmQuery d a sel l) s = .next (moveOn s1 (pend r s.cur .long l [sres E.c d
        (match live with
          | none => 0xFFFFFFFF#32
          | some j =>
            let p := promiseAt o j
            let q := regionAt o p.we
            if sel = 0#5 then p.word0 else if sel = 1#5 then p.word4 else if sel = 2#5 then p.tag
            else BitVec.ofNat 32 (q.cur % 2 ^ 16 * 2 ^ 16 + q.wver % 2 ^ 7))] 0#5 []) s.cur 4) ∧
      (unitOf r t.ctx (clusterOf s.cur)).promises = o.promises ∧ SameRegs E.c (coreAt r s.cur) ∧ SameMemory s1 r) ∧
    (Issues (.prmCancel d a l) { names := [nS d, nS a] } s s1 → ∃ r : State,
      exec (.prmCancel d a l) s = .next (moveOn s1 (pend r s.cur .long l [sres E.c d
        (match live with
          | none => 0xFFFFFFFF#32
          | some j => (promiseAt (unitOf r t.ctx (clusterOf s.cur)) j).word0)] 0#5 []) s.cur 4) ∧
      ∀ j, live = some j → let p := promiseAt o j
        let p' := promiseAt (unitOf r t.ctx (clusterOf s.cur)) j
        (p.state ≠ .open_ → p' = p) ∧ (p.state = .open_ → p'.state = .cancelled) ∧
        (p.state = .open_ → p.closed = false → (regionAt o p.we).work = none → p.ticket = (regionAt o p.we).cur →
          (∀ e ∈ o.promises, e.2.state ≠ .free → e.2.we = p.we → e.2.ticket = p.ticket → e.2.closed = false → e.1 = j) → p'.closed = true))

/-- R46, R376, R377, R381, R385. opt.card with a right, free descriptor completes when the queue has room: one that no reason refuses,
whose routine has the load count that it names and that a DET context allows, joins the queue; a refused one has its completion
word at once, and joins none. Both take the next transfer id. A region whose entry is not well formed is LAYOUT with cause 0x01. That a refusal comes before NONDET, its reasons beyond R223, and that the
running card counts among the sixteen of the queue are the model's reading (log 29). -/
def Sys2Proof.Spec.CardsIssue : Prop :=
  ∀ (s s1 : State) (d a n : Reg) (l : BitVec 4) (t : Task) (x : Ctx) (u : Run) (D : Spec.Desc),
    Issues (.optCard d a n l) (descShape (some true) [nS d] a n) s s1 → taskEnv s1 s.cur = some (t, x, u) → t.rerun = false →
    let E := Spec.env s1 t x u
    let o := Spec.unit E
    let w := fun k => D.w.getD k 0#32
    let mm := field (w 5) 17 16
    let vm := field (w 5) 19 18
    let cap := fun (on : Bool) (b : Nat) => if on then capView E (D.handle b) else (0, [])
    let q : Card := { newCard E .card with
      ents := [cap true 0, cap true 8, cap (decide (mm ≠ 0)) 16, cap (decide (vm ≠ 0)) 24], params := [w 1, w 2, w 3, w 4], mmode := mm
      vmode := vm, routine := (routineAt o (field (w 5) 2 0)).codes }
    let others := [capEntry q.ents 1] ++ (if mm = 0 then [] else [capEntry q.ents 2]) ++ (if vm = 0 then [] else [capEntry q.ents 3])
    let no := cardRefusal E D.w (capEntry q.ents 0) others (cardSides x q)
    let id := BitVec.ofNat 32 (4 * ((E.c.seq + 1) % 2 ^ 30) + 3)
    Spec.DescFree s1 E a n D → o.queue.length + o.running.toList.length < 16 →
    (no = none → (routineAt o (field (w 5) 2 0)).rgen % 128 = field (w 5) 14 8 →
      (x.det = true → (capEntry q.ents 0).prod = prel x s.cur ∧ (mm = 2 → homeOf x s.cur (capEntry q.ents 2) = .slice s.cur) ∧
        (vm = 2 → homeOf x s.cur (capEntry q.ents 3) = .slice s.cur)) →
      ∃ r : State, exec (.optCard d a n l) s = .next (moveOn s1 (pend r s.cur .long l [sres E.c d id] 0#5 []) s.cur 4) ∧
        (unitOf r t.ctx (clusterOf s.cur)).queue = o.queue ++ [q] ∧ (coreAt r s.cur).seq = (E.c.seq + 1) % 2 ^ 30 ∧
        SameRegs E.c (coreAt r s.cur) ∧ SameMemory s1 r) ∧
    (∀ e, Spec.FirstMalformed E (capEntry q.ents 0 :: others) e →
      exec (.optCard d a n l) s = .next (takeTrap s1 s.cur (Spec.malformedReq e))) ∧
    (∀ reason, no = some reason → (∀ e ∈ capEntry q.ents 0 :: others, entryOk E e = true) →
      ∃ r : State, exec (.optCard d a n l) s = .next (moveOn s1 (pend r s.cur .long l [sres E.c d id] 0#5 []) s.cur 4) ∧
        (unitOf r t.ctx (clusterOf s.cur)).queue = o.queue ∧
        tget (coreAt r s.cur).dones id.toNat = some (BitVec.ofNat 32 (0x30000000 + reason)) ∧ SameMemory s1 r)

/-- R265, R279, R342, R381, R386. Where the checks of opt.ldr stand is the model's reading (log 30). opt.ldr of the slot of its own core, with a right, free descriptor that holds no malformed code, loads the
routine and raises its load count; opt.wait completes for id 0 when the core has no card, for an id that is not remembered, and for
a card that is over, with its completion word; fence.e completes when no command and no card of the core is outstanding. -/
def Sys2Proof.Spec.OptimiserWaits : Prop :=
  ∀ (s s1 : State) (d a n : Reg) (k : BitVec 3) (l : BitVec 4) (t : Task) (x : Ctx) (u : Run) (D : Spec.Desc),
    taskEnv s1 s.cur = some (t, x, u) →
    let E := Spec.env s1 t x u
    let o := Spec.unit E
    let id := rdS E.c a.toNat
    let lost : Prop := id.toNat % 4 ≠ 3 ∨ id.toNat / 4 = 0 ∨ E.c.seq < id.toNat / 4 ∨ 64 ≤ E.c.seq - id.toNat / 4
    (Issues (.optLdr a n k l) (descShape none [] a n) s s1 → Spec.DescFree s1 E a n D → k.toNat = slotOf s.cur →
      badHalfword (halfwords D.w) = none → ∃ r : State,
        exec (.optLdr a n k l) s = .next (moveOn s1 (pend r s.cur .long l [] 0#5 []) s.cur 4) ∧
        routineAt (unitOf r t.ctx (clusterOf s.cur)) k.toNat =
          { rgen := ((routineAt o k.toNat).rgen + 1) % 128, codes := halfwords D.w } ∧
        SameRegs E.c (coreAt r s.cur) ∧ SameMemory s1 r) ∧
    (Issues (.optWait d a l) { names := [nS d, nS a] } s s1 → E.c.afaults = [] →
      (id = 0#32 → cardsOf s1 s.cur = [] →
        exec (.optWait d a l) s = .next (moveOn s1 (pend s1 s.cur .long l [sres E.c d 0#32] 0#5 []) s.cur 4)) ∧
      (id ≠ 0#32 → lost →
        exec (.optWait d a l) s = .next (moveOn s1 (pend s1 s.cur .long l [sres E.c d 0xFFFFFFFF#32] 0#5 []) s.cur 4)) ∧
      (id ≠ 0#32 → ¬lost → (∀ q ∈ cardsOf s1 s.cur, q.ref.xid ≠ id) → heldCard o s.cur id = none →
        exec (.optWait d a l) s = .next (moveOn s1
          (pend s1 s.cur .long l [sres E.c d (tgetD E.c.dones id.toNat 0xFFFFFFFF#32)] 0#5 []) s.cur 4))) ∧
    (Issues .fenceE {} s s1 → E.c.cmds = [] → cardsOf s1 s.cur = [] → E.c.afaults = [] →
      exec .fenceE s = .next (moveOn s1 (pend s1 s.cur .long 0#4 [] 0#5 []) s.cur 4)) ∧
    (Issues .fenceSp { sys := true } s s1 → exec .fenceSp s = .next (moveOn s1
      (pend (updCore s1 s.cur (fun c => { c with opcache := [] })) s.cur .long 0#4 [] 0#5 []) s.cur 4))

/-- R370, R372, R376, R380. CARD_START, with no card running and the strainer at rest on the region of the card at the head of the queue (the model's
reading, log 29): an opt.card runs when its ranges overlap no registered range and have room; one with a destination that overlaps the ĝ or h of
an open promise is refused with reason 3; a redemption of an open promise that is not overdue redeems it; with an empty queue, or while a card
runs, nothing changes. -/
def Sys2Proof.Spec.CardStarts : Prop :=
  ∀ (s : State) (x : Ctx), ctxAt s s.input.who = some x →
    let o := optAt x s.input.sub
    (∀ (q : Card) (rest : List Card), o.running = none → o.queue = q :: rest → q.kind = .card → issuing x = true →
      (regionAt o (cardRegion o q)).work = none → (∀ r ∈ cardSides x q, clashAt s x q.ref.core r = none) →
      (∀ r ∈ cardSides x q, r.dst = true → ∀ m ∈ promiseLocks x s.input.sub, r.home = .slice m.place →
        locksMeet r.home (r.lock q.ref.core 0) m = false) → tableRoom s x (cardSides x q) = true →
      ∃ t : State, exec .cardStart s = .next t ∧ (unitOf t s.input.who s.input.sub).running = some q ∧
        (unitOf t s.input.who s.input.sub).queue = rest ∧ SameMemory s t) ∧
    (∀ (q : Card) (rest : List Card), o.running = none → o.queue = q :: rest → q.kind = .card → issuing x = true →
      (regionAt o (cardRegion o q)).work = none → (∃ r ∈ cardSides x q, r.dst = true ∧ ∃ m ∈ sourceLocks x s.input.sub,
        r.home = .slice m.place ∧ locksMeet r.home (r.lock q.ref.core 0) m = true) →
      ∃ t : State, exec .cardStart s = .next t ∧ (unitOf t s.input.who s.input.sub).running = none ∧
        (unitOf t s.input.who s.input.sub).queue = rest ∧ SameMemory s t ∧
        (sameTask s s.input.who q.ref = true → (coreAt s q.ref.core).seq < q.ref.xid.toNat / 4 + 64 →
          tget (coreAt t q.ref.core).dones q.ref.xid.toNat = some 0x30000003#32)) ∧
    (∀ (q : Card) (rest : List Card), o.running = none → o.queue = q :: rest → q.kind ≠ .card → issuing x = true →
      let p := promiseAt o q.promise
      p.state = .open_ → overdue p (regionAt o p.we).wver = false → (regionAt o p.we).work = none →
      (∀ r ∈ redeemSides x p, clashAt s x q.ref.core r = none) →
      (∀ r ∈ redeemSides x p, r.dst = true → ∀ m ∈ promiseLocks x s.input.sub, r.home = .slice m.place →
        locksMeet r.home (r.lock q.ref.core 0) m = false) → tableRoom s x (redeemSides x p) = true →
      ∃ t : State, exec .cardStart s = .next t ∧ (unitOf t s.input.who s.input.sub).queue = rest ∧
        (promiseAt (unitOf t s.input.who s.input.sub) q.promise).state = .redeemed ∧
        (promiseAt (unitOf t s.input.who s.input.sub) q.promise).card = some q ∧ SameMemory s t) ∧
    (o.running ≠ none ∨ o.queue = [] → exec .cardStart s = .next s)

/-- R222, R368, R372, R376, R378. CARD_COMPLETE: a running opt.card that has written its last element publishes the next version of its region and,
where no promise on it is overdue, leaves the engine and has its completion word at the core whose task issued it: 0, or PARTIAL with the count
of its poisoned elements. When a card completes is the model's reading (log 29). -/
def Sys2Proof.Spec.CardCompletes : Prop :=
  ∀ (s : State) (x : Ctx) (q : Card), ctxAt s s.input.who = some x →
    let o := optAt x s.input.sub
    let we := (capEntry q.ents 0).num
    o.running = some q → q.kind = .card → q.settled = false → q.fault = false → issuing x = true → (capEntry q.ents 0).count ≤ q.next →
    overdueOf { o with regions := tset o.regions we { regionAt o we with wver := nextVer (regionAt o we) } } we = [] →
    ∃ t : State, exec .cardComplete s = .next t ∧ (unitOf t s.input.who s.input.sub).running = none ∧
      (regionAt (unitOf t s.input.who s.input.sub) we).wver = ((regionAt o we).wver + 1) % 128 ∧ SameMemory s t ∧
      (sameTask s s.input.who q.ref = true → (coreAt s q.ref.core).seq < q.ref.xid.toNat / 4 + 64 →
        tget (coreAt t q.ref.core).dones q.ref.xid.toNat =
          some (if q.ninv = 0 then 0#32 else BitVec.ofNat 32 (2 ^ 28 + min q.ninv 16383)))

/-- R371, R373. STRAINER_ACTION: with no action on its region nothing changes; a revert that has written its last element publishes
the next version and closes its promise, with no memory changed. -/
def Sys2Proof.Spec.StrainerActions : Prop :=
  ∀ (s : State), let o := unitOf s s.input.who s.input.sub
    ((regionAt o s.input.off).work = none → exec .strainerAction s = .next s) ∧
    ∀ (x : Ctx) (w : Work), ctxAt s s.input.who = some x → (regionAt o s.input.off).work = some w → w.todo = [.revert] →
      (capEntry (promiseAt o w.j).ents 0).count ≤ w.next → (issuing x = true ∨ w.retire = true) → w.late = false →
      (promiseAt o w.j).state = .expired → (promiseAt o w.j).lateDue = false → (promiseAt o w.j).card = none →
      ∃ t : State, exec .strainerAction s = .next t ∧
        (promiseAt (unitOf t s.input.who s.input.sub) w.j).closed = true ∧
        (regionAt (unitOf t s.input.who s.input.sub) s.input.off).wver = ((regionAt o s.input.off).wver + 1) % 128 ∧ SameMemory s t

/-- R373. The next element of a correction whose weight, guess and gradient are clean and whose granules are ready: the weight takes
w - eta d, with d the gradient less the guess, or the gradient alone after a revert; of a training step: P takes P - alpha (guess
- gradient) h. -/
def Obligations.StrainerElements : Prop :=
  ∀ (s : State) (c k we : Nat) (x : Ctx) (w : Work), ctxAt s c = some x →
    let o := optAt x k
    let r := regionAt o we
    let p := promiseAt o w.j
    let at_ := areaOf x p.opener p.ents
    let i := w.next
    let m := (at_ 2).e.count
    r.work = some w → issuing x = true →
    (w.todo.head? = some .correct → bankpOk (at_ 0).e.bankp = true → i < (at_ 0).e.count →
      (i = 0 → ∀ j < (at_ 0).e.count, ∀ g ∈ (at_ 0).grans j, isPast s (nextVer r) g = false) → versionHeld s x we r (at_ 0) i = false →
      (at_ 0).bad s i = false → (at_ 1).bad s i = false → (at_ 4).bad s i = false →
      ∃ s' : State, workStep s c k we = .go s' ∧ (at_ 0).code s' i =
        subFp32 ((at_ 0).code s i) (mulFp32 p.eta.toNat (if p.revd then (at_ 4).code s i
          else subFp32 ((at_ 4).code s i) ((at_ 1).code s i))).1 % 2 ^ 32) ∧
    (w.todo.head? = some .train → bankpOk (at_ 3).e.bankp = true → i < (at_ 0).e.count * m →
      (at_ 3).bad s i = false → (at_ 1).bad s (i / m) = false → (at_ 4).bad s (i / m) = false → (at_ 2).bad s (i % m) = false →
      ∃ s' : State, workStep s c k we = .go s' ∧ (at_ 3).code s' i =
        subFp32 ((at_ 3).code s i) (mulFp32 p.alpha.toNat (mulFp32 (subFp32 ((at_ 1).code s (i / m)) ((at_ 4).code s (i / m)))
          ((at_ 2).code s (i % m))).1).1 % 2 ^ 32)

namespace Sys2Proof.Spec

/-- Packet p of context x is sent (R320, R321): into the module's own mesh or, to a rank of another module that the route table has, over
its link, with the next sequence number. -/
def Sent (s t : State) (c : Nat) (x : Ctx) (p : Packet) : Prop :=
  (rankMod p.dst = moduleId x → t.packets = s.packets ++ [(c, { p with kept := inTransit x p.dst })]) ∧
  (rankMod p.dst ≠ moduleId x → t.packets = s.packets ∧ ∀ j l, sealedJob x = some j → tget j.routes (rankMod p.dst) = some l →
    ∃ f, (linkAt t l).retrans.getLast? = some f ∧ f.seq = (linkAt s l).txSeq ∧ f.crcOk = true ∧
      f.pkt = some (c, { p with port := none, kept := false }))

end Sys2Proof.Spec

/-- R326 to R328. msg.send to a valid rank completes when its destination has accepted it: for a rank of another module when the answer
is back; for one of this module when the message reaches a store with room of a rank that is not in transit, which then holds it
last. -/
def Sys2Proof.Spec.SendCompletes : Prop :=
  ∀ (s s1 : State) (d a : Reg) (l : BitVec 4) (t : Task) (x : Ctx) (u : Run), taskEnv s1 s.cur = some (t, x, u) →
    Issues (.msgSend d a l) { names := [nV d, nS a] } s s1 →
    let E := Spec.env s1 t x u
    let dst_ := rdS E.c a.toNat
    let me_ := ownRank x (prel x s.cur)
    validRank x dst_ = true →
    (∀ h, E.c.reply = some (.answered .accepted h) → ∃ r : State,
      exec (.msgSend d a l) s = .next (moveOn s1 (pend r s.cur .long l [] 0#5 []) s.cur 4) ∧ (coreAt r s.cur).reply = none ∧
      SameMemory s1 r) ∧
    (E.c.reply = some .sent → rankMod dst_ = moduleId x → behind s1 t.ctx me_ dst_ s1.packets.length = false → inTransit x dst_ = false →
      moving x = true → (coreAt s1 (placeCore x dst_)).recvs.length < 16 →
      let p : Packet := { src := me_, dst := dst_, seq := sendSeq x me_ dst_, body := .msg (rdV E.c d.toNat) }
      duplicate x p = false → ∃ r : State,
        exec (.msgSend d a l) s = .next (moveOn s1 (pend r s.cur .long l [] 0#5 []) s.cur 4) ∧
        (coreAt r (placeCore x dst_)).recvs = (coreAt s1 (placeCore x dst_)).recvs ++ [p] ∧ (coreAt r s.cur).reply = none ∧
        SameMemory s1 r)

/-- R325, R327. msg.recv to a rank of this module that is placed at the core, from a valid source or, where DETM allows it, from any,
completes when an entry of the store matches: the oldest such entry leaves the store, its value is pending for vD, and its source
is the last one. -/
def Sys2Proof.Spec.RecvCompletes : Prop :=
  ∀ (s s1 : State) (d a b : Reg) (l : BitVec 4) (t : Task) (x : Ctx) (u : Run) (i : Nat) (p : Packet) (v : VReg),
    taskEnv s1 s.cur = some (t, x, u) → Issues (.msgRecv d a b l) { names := [nV d, nS a, nS b] } s s1 →
    let E := Spec.env s1 t x u
    let src := rdS E.c a.toNat
    let dst := rdS E.c b.toNat
    (src = 0xFFFFFFFF#32 ∧ E.c.cr.detm.getLsbD 0 = false ∨ src ≠ 0xFFFFFFFF#32 ∧ validRank x src = true) → localRank x dst = true →
    placeCore x dst = s.cur →
    E.c.recvs.findIdx? (fun p => decide (p.dst = dst) && (decide (src = 0xFFFFFFFF#32) || decide (p.src = src))) = some i →
    E.c.recvs[i]? = some p → p.body = .msg v → ∃ r : State,
      exec (.msgRecv d a b l) s = .next (moveOn s1 (pend r s.cur .long l [.v d.toNat v] 0#5 []) s.cur 4) ∧
      (coreAt r s.cur).recvs = E.c.recvs.eraseIdx i ∧ (coreAt r s.cur).lastSrc = p.src ∧ SameRegs E.c (coreAt r s.cur) ∧ SameMemory s1 r

/-- R329 to R331, R334, R335. msg.push to a slot whose credit is not taken takes it, sends the value to the slot, with its transfer id
and the task and program counter that issued it, and takes the next SEQ; msg.sret of a full slot of a slot buffer empties its granules and sends the return of the
slot. -/
def Sys2Proof.Spec.SlotsComplete : Prop :=
  ∀ (s s1 : State) (d a b : Reg) (l : BitVec 4) (t : Task) (x : Ctx) (u : Run), taskEnv s1 s.cur = some (t, x, u) →
    let E := Spec.env s1 t x u
    let dst_ := rdS E.c a.toNat
    let me_ := ownRank x (prel x s.cur)
    let w := rdS E.c b.toNat
    validRank x dst_ = true →
    (Issues (.msgPush d a b l) { names := [nV d, nS a, nS b] } s s1 → field w 31 24 = 0 → field w 15 6 = 0 →
      ∀ k taken, creditFor E.c dst_ (field w 23 16) = some (k, taken) → taken.testBit (field w 5 0) = false → ∃ r : State,
        exec (.msgPush d a b l) s = .next (moveOn s1 (pend r s.cur .long l [] 0#5 []) s.cur 4) ∧
        tget (coreAt r s.cur).credits k = some [dst_.toNat, field w 23 16, taken + 2 ^ field w 5 0] ∧
        (coreAt r s.cur).seq = (E.c.seq + 1) % 2 ^ 30 ∧ SameRegs E.c (coreAt r s.cur) ∧ SameMemory s1 r ∧
        Spec.Sent s1 r t.ctx x { src := me_, dst := dst_, seq := sendSeq x me_ dst_, body := (.push (field w 23 16) (field w 5 0)
          (rdV E.c d.toNat) { core := s.cur, ridx := t.ridx, accNo := u.accNo, t := t.t, xid := BitVec.ofNat 32 (4 * ((E.c.seq + 1) % 2 ^ 30)), pc := E.c.pc }) }) ∧
    (Issues (.msgSret d a b l) { names := [nH d, nS a, nS b], bytes := slotBytes d b } s s1 →
      let e := handleEntry E d.toNat
      let g := granulesOf e s.cur (slotRow e w.toNat)
      layoutCheck E sretForm e (slotCoords E e b) = none → (∀ k ∈ g, fullBit s1 k = true) → ∃ r : State,
        exec (.msgSret d a b l) s = .next (moveOn s1 (pend r s.cur .long l [] 0#5 []) s.cur 4) ∧ (∀ k ∈ g, fullBit r k = false) ∧
        (∀ k, k ∉ g → r.gmeta.read k = s1.gmeta.read k) ∧ r.slice = s1.slice ∧ SameRegs E.c (coreAt r s.cur) ∧
        Spec.Sent s1 r t.ctx x { src := me_, dst := dst_, seq := sendSeq x me_ dst_, body := .sret e.num w.toNat })

/-- R324, R325, R335, R336. rank.rd completes with the word that it selects; that without a sealed job the module is number 0 of one is the
model's reading (log 34). rank.move of a rank placed at the core, with no push to it on its way that was sent before the move, moves the
rank's stored messages and its place; with no packet for the rank held it changes nothing else of the two stores and no memory. -/
def Sys2Proof.Spec.RanksComplete : Prop :=
  ∀ (s s1 : State) (d a b : Reg) (k : BitVec 5) (l : BitVec 4) (t : Task) (x : Ctx) (u : Run), taskEnv s1 s.cur = some (t, x, u) →
    let E := Spec.env s1 t x u
    let q := rdS E.c a.toNat
    (Issues (.rankRd d a k l) { names := [nS d, nS a] } s s1 → k.toNat < 4 → (k.toNat < 2 → a = 0#5) →
      (k = 3#5 → localRank x q = true) → exec (.rankRd d a k l) s = .next (moveOn s1 (pend s1 s.cur .long l [sres E.c d
        (if k = 0#5 then BitVec.ofNat 32 (moduleId x * 2 ^ 16 + prel x s.cur % 2 ^ 13)
         else if k = 1#5 then BitVec.ofNat 32 (moduleId x * 2 ^ 16 + moduleCount x % 2 ^ 16)
         else if k = 2#5 then E.c.lastSrc else rankEntry x (rankCore q))] 0#5 []) s.cur 4)) ∧
    (Issues (.rankMove d a b l) { names := [nS d, nS a, nS b] } s s1 → localRank x q = true → placeCore x q = s.cur →
      let m := (rdS E.c b.toNat).toNat
      m < pcores x → (∀ e ∈ s1.packets, e.1 = t.ctx → e.2.dst = q → e.2.kept = false → ∀ n i v q, e.2.body ≠ .push n i v q) →
      (logical x m = s.cur ∨ (E.c.recvs.filter (fun p => decide (p.dst = q))).length + (coreAt s1 (logical x m)).recvs.length ≤ 16) →
      ∃ (r : State) (y : Ctx),
        exec (.rankMove d a b l) s = .next (moveOn s1 (pend r s.cur .long l [sres E.c d 0#32] 0#5 []) s.cur 4) ∧
        ctxAt r t.ctx = some y ∧ rankEntry y (rankCore q) = BitVec.ofNat 32 (2 ^ 31 + m % 2 ^ 13) ∧
        ((∀ e ∈ s1.packets, e.1 = t.ctx → e.2.dst ≠ q) → SameMemory s1 r ∧ (logical x m ≠ s.cur → (∀ p ∈ (coreAt r s.cur).recvs, p.dst ≠ q) ∧
          (coreAt r (logical x m)).recvs = (coreAt s1 (logical x m)).recvs ++ E.c.recvs.filter (fun p => decide (p.dst = q)))))

/-- R319, R320. FLIT_RECEIVE on a link in service: a flit whose CRC and sequence number hold raises the next number that is expected; any
other is asked for again and changes nothing else. RETRANSMISSION_REQUEST: the flits that are kept, from the number on, are to be
sent again. -/
def Sys2Proof.Spec.LinkSteps : Prop :=
  ∀ (s : State) (f : Flit), let l := s.input.who % 16
    (s.input.flit = some f → (linkAt s l).up = true → f.crcOk = true → f.seq = (linkAt s l).rxSeq → ∃ t : State,
      exec .flitReceive s = .next t ∧ (linkAt t l).rxSeq = (linkAt s l).rxSeq + 1#16 ∧ SameMemory s t) ∧
    (s.input.flit = some f → (linkAt s l).up = true → f.crcOk = false ∨ f.seq ≠ (linkAt s l).rxSeq →
      exec .flitReceive s = .next (updLink s l (fun k => { k with asked := some (linkAt s l).rxSeq }))) ∧
    (∃ t : State, exec .retransmissionRequest s = .next t ∧ (linkAt t l).resend = (linkAt s l).resend ++
      (((linkAt s l).retrans.filter (fun f => decide ((f.seq - s.input.value.truncate 16).toNat < 2 ^ 15))).map
        (fun f => { f with replay := true })) ∧ SameMemory s t)

/-- R326, R330, R331. What a packet on the mesh does when it arrives at its place, in the order of its pair, with its rank not in
transit and its context moving: a push into a right slot buffer of the record that holds the cluster writes its lanes to the slot and fills the slot's granules; a returned slot's
credit is free again. The packet leaves the mesh. -/
def Sys2Proof.Spec.PacketsLand : Prop :=
  ∀ (s : State) (c : Nat) (p : Packet) (x : Ctx), let i := s.input.who
    s.packets[i]? = some (c, p) → ctxAt s c = some x → behind s c p.src p.dst i = false → inTransit x p.dst = false → moving x = true →
    duplicate x p = false →
    let n := placeCore x p.dst
    (∀ en slot v ref ri u, p.body = .push en slot v ref → (clusterAt s (clusterOf n)).holder = some (c, ri) → runAt x ri = some u →
      let e := releaseEntry u en
      let locs := (slotRow e slot).take (256 / laneWidth e.width)
      wellFormedEntry e (pcores x) (releaseEntry u e.scaleh).fmt = true → slotBuffer e = true → slot < e.ext 1 → ∃ t : State,
        exec .pushApply s = .next t ∧ t.packets = s.packets.eraseIdx i ∧
        (∀ g ∈ granulesOf e n locs, fullBit t g = true) ∧ (∀ g, g ∉ granulesOf e n locs → t.gmeta.read g = s.gmeta.read g) ∧
        (locs.Pairwise (fun a b => a + e.width ≤ b ∨ b + e.width ≤ a) → ∀ j < locs.length,
          readElem t c x e (.slice n) (locs.getD j 0) = laneOf v (laneWidth e.width) j % 2 ^ e.width)) ∧
    (∀ e k, p.body = .sret e k → ∃ t : State, exec .slotReturn s = .next t ∧ t.packets = s.packets.eraseIdx i ∧
      (∀ q, returnCredit x (coreAt s (logical x (rankCore p.dst))) p.src e k = some q →
        tget (coreAt t (logical x (rankCore p.dst))).credits q.1 = some [q.2.getD 0 0, q.2.getD 1 0, q.2.getD 2 0 - 2 ^ k]) ∧
      SameMemory s t)

/-- R125 to R130, R33, R126. The task and launch instructions complete: lrec.rd has word w of the arming pending for sD; lrec.patch of a
patchable word of another record that is not live writes the word and the record's CHECK, and no other byte of any caddy, and its
request joins the record-pool controller's queue; lrec.arm of another record carries out the arm procedure and its result waits for the
controller, as 3 does for the task's own record; tq.req asks for m items of the window of its core; grp.rd has the group's word, or the
core's index in it, pending. -/
def Sys2Proof.Spec.LaunchInstructions : Prop :=
  ∀ (s s1 : State) (d a b : Reg) (w : BitVec 5) (t : Task) (x : Ctx) (u : Run), taskEnv s1 s.cur = some (t, x, u) →
    let c := coreAt s1 s.cur
    let v := rdS c a.toNat
    (Issues (.lrecRd d w) { names := [nS d] } s s1 → w.toNat ≤ 28 → exec (.lrecRd d w) s = .next (moveOn s1
      (pend s1 s.cur .interlocked 0#4 [sres c d (u.copy.getD w.toNat 0#32)] 0#5 []) s.cur 4)) ∧
    (Issues (.lrecPatch a b w) { names := [nS a, nS b] } s s1 → v.toNat < nrec x → (recWord s1 t.ctx x v.toNat 28).getLsbD w.toNat = true →
      w.toNat ∉ [0, 1, 28, 29, 30, 31] → v.toNat ≠ t.ridx → liveState (recState s1 t.ctx x v.toNat) = false →
      ∃ (m : Memory) (rows : Table Nat),
      let r : State := { s1 with caddy := m, rowOpen := rows }
      let at_ := fun (k : Nat) => caddyKey t.ctx (recoff x + 128 * v.toNat + 4 * k)
      exec (.lrecPatch a b w) s = .next (moveOn s1 (poolRequest r t.ctx s.cur []) s.cur 4) ∧
      recWord r t.ctx x v.toNat w.toNat = rdS c b.toNat ∧
      recWord r t.ctx x v.toNat 31 = crc32c (wordsBytes (recWords r t.ctx x v.toNat)) ∧
      (∀ k, k ≠ w.toNat → k ≠ 31 → recWord r t.ctx x v.toNat k = recWord s1 t.ctx x v.toNat k) ∧
      (∀ a, ¬(at_ w.toNat ≤ a ∧ a < at_ w.toNat + 4) → ¬(at_ 31 ≤ a ∧ a < at_ 31 + 4) → m.read a = s1.caddy.read a)) ∧
    (Issues (.lrecArm d a b) { names := [nS d, nS a, nS b] } s s1 →
      (v.toNat = t.ridx → exec (.lrecArm d a b) s = .next (moveOn s1 (poolRequest s1 t.ctx s.cur [sres c d 3#32]) s.cur 4)) ∧
      (v.toNat ≠ t.ridx → ¬(v.toNat < nrec x ∧ x.det = true ∧ liveState (recState s1 t.ctx x v.toNat) = true) →
        exec (.lrecArm d a b) s = .next (moveOn s1 (poolRequest (armRecord s1 t.ctx v.toNat (rdS c b.toNat)).1 t.ctx s.cur
          [sres c d (word (armRecord s1 t.ctx v.toNat (rdS c b.toNat)).2)]) s.cur 4))) ∧
    (Issues (.tqReq d a) { names := [nS d, nS a] } s s1 → 1 ≤ v.toNat → v.toNat ≤ 255 → exec (.tqReq d a) s = .next (moveOn s1
      (updRun (pend s1 s.cur .window 0#4 [sres c d 0#32] 0#5 []) t.ctx t.ridx (fun r => { r with
        tqreqs := r.tqreqs ++ [{ core := prel x s.cur, win := windowOf x u c, m := v.toNat, dest := d.toNat, bank := c.priv && decide (24 ≤ d.toNat) }] })) s.cur 4)) ∧
    (Issues (.grpRd d a w) { names := [nS d, nS a] } s s1 → w.toNat < 3 → exec (.grpRd d a w) s = .next (moveOn s1
      (pend s1 s.cur .interlocked 0#4 [sres c d
        (if w.toNat < 2 then groupWord x (v.toNat % 256) w.toNat
         else match groupIndex x (v.toNat % 256) (prel x s.cur) with
           | some i => word i
           | none => 0xFFFFFFFF#32)] 0#5 []) s.cur 4))

/-- R126, R128, R410. lrec.patch is PRIV, in this order: of a record that does not exist, of a word that PATCH or the record's mask does not
allow, of the task's own record and, outside a DET context, of a live record. Nothing is written; of a record that exists PATCH is read, which leaves the
row of its channel open. -/
def Sys2Proof.Spec.PatchTraps : Prop :=
  ∀ (s s1 : State) (a b : Reg) (w : BitVec 5) (t : Task) (x : Ctx) (u : Run), taskEnv s1 s.cur = some (t, x, u) →
    Issues (.lrecPatch a b w) { names := [nS a, nS b] } s s1 →
    let i := (rdS (coreAt s1 s.cur) a.toNat).toNat
    let trap := fun (r : State) (k : Nat) => exec (.lrecPatch a b w) s = .next (takeTrap r s.cur { cause := .priv, info := word (k * 2 ^ 24 + i % 2 ^ 24) })
    let open_ : Prop := (recWord s1 t.ctx x i 28).getLsbD w.toNat = true ∧ w.toNat ∉ [0, 1, 28, 29, 30, 31]
    let read := openRec s1 t.ctx x i
    nrec x ≤ 2 ^ 24 →
    (nrec x ≤ i → trap s1 1) ∧ (i < nrec x → ¬open_ → trap read 2) ∧ (i < nrec x → open_ → i = t.ridx → trap read 3) ∧
    (i < nrec x → open_ → i ≠ t.ridx → liveState (recState s1 t.ctx x i) = true → x.det = false → trap read 4)

/-- R127, R64. RECORD_POOL_ANSWER writes the oldest result that the core of the oldest request waits for, and no other core's; with
no request nothing changes. -/
def Sys2Proof.Spec.PoolAnswers : Prop :=
  ∀ (s : State) (x : Ctx), ctxAt s s.input.who = some x →
    (x.pool = [] → exec .recordPoolAnswer s = .next s) ∧
    ∀ (n : Nat) (rest : List Nat), x.pool = n :: rest → ∃ t : State, exec .recordPoolAnswer s = .next t ∧
      ctxAt t s.input.who = some { x with pool := rest } ∧
      coreAt t n = completeFirst (fun p => decide (p.kind = .pool)) (coreAt s n) ∧ (∀ m, m ≠ n → coreAt t m = coreAt s m) ∧ SameMemory s t

/-- R399, R406, R407. cnt.rd of a counter below 59 has its low half, high half or SAT bit pending, and of another number is PRIV; prf.rd,
where DETM and the destination allow it, has the delay sum, the delay count or a half of the cycle counter pending; trc.mark, while
the context is traced, adds a record to a queue that has room and counts one that it drops. -/
def Sys2Proof.Spec.Observation : Prop :=
  ∀ (s s1 : State) (d a : Reg) (k : BitVec 5) (t : Task) (x : Ctx) (u : Run), taskEnv s1 s.cur = some (t, x, u) →
    let c := coreAt s1 s.cur
    let i := (rdS c a.toNat).toNat % 64
    let q := tgetD c.counters i { v := 0, sat := false }
    let E := Spec.env s1 t x u
    (Issues (.cntRd d a k) { names := [nS d, nS a], sys := true } s s1 →
      (i < 59 → k.toNat < 3 → exec (.cntRd d a k) s = .next (moveOn s1 (pend s1 s.cur .interlocked 0#4 [sres c d
        (if k = 0#5 then word q.v else if k = 1#5 then word (q.v / 2 ^ 32) else if q.sat then 1#32 else 0#32)] 0#5 []) s.cur 4)) ∧
      (59 ≤ i → exec (.cntRd d a k) s = .next (takeTrap s1 s.cur { cause := .priv, info := word (0x0B010000 + i) }))) ∧
    (Issues (.prfRd d a k) { names := [nS d, nS a] } s s1 →
      (c.cr.detm.getLsbD 0 = true → ¬(c.priv = true ∧ 24 ≤ d.toNat) →
        exec (.prfRd d a k) s = .next (takeTrap s1 s.cur { cause := .priv, info := word (0x0B000000 + k.toNat) })) ∧
      (c.cr.detm.getLsbD 0 = false ∨ (c.priv = true ∧ 24 ≤ d.toNat) → k.toNat < 4 → exec (.prfRd d a k) s = .next (moveOn s1
        (pend s1 s.cur .interlocked 0#4 [sres c d
          (if k = 0#5 then word (tgetD c.delaySum i 0) else if k = 1#5 then word (tgetD c.delayNum i 0)
           else if k = 2#5 then word c.cyc else word (c.cyc / 2 ^ 32))] 0#5 []) s.cur 4))) ∧
    (Issues (.trcMark a k) { names := [nS a] } s s1 →
      (x.tracing = false → exec (.trcMark a k) s = .next (moveOn s1 s1 s.cur 4)) ∧
      (x.tracing = true → c.traceq.length < 16 → exec (.trcMark a k) s = .next (moveOn s1
        (updCore s1 s.cur (fun c => { c with traceq := c.traceq ++ [traceRecord E (rdS c a.toNat) k.toNat] })) s.cur 4)) ∧
      (x.tracing = true → 16 ≤ c.traceq.length → exec (.trcMark a k) s = .next (moveOn s1
        (updCore s1 s.cur (fun c => { c with traceDrop := min (c.traceDrop + 1) 0xFFFFFFFF })) s.cur 4)))

/-- R9, R407, R408. TRACE_FILTER_RUN, while Phodiver runs, takes the oldest record of a core's queue: with no filter it enters the context's ring, and a filter
that begins with KEEP or DROP keeps or drops it; one that begins with a trigger keeps it, and tracing stops. -/
def Sys2Proof.Spec.TraceFilters : Prop :=
  ∀ (s : State) (r rest : List Word) (q : List (List Word)) (x : Ctx),
    let c := field (r.getD 6 0#32) 29 24
    (phodiverRuns s = false → exec .traceFilterRun s = .next s) ∧
    (phodiverRuns s = true → (coreAt s s.input.who).traceq = r :: q → ctxAt s c = some x → ∃ (t : State) (y : Ctx),
      exec .traceFilterRun s = .next t ∧ (coreAt t s.input.who).traceq = q ∧ ctxAt t c = some y ∧ SameMemory s t ∧
      (x.filter = none → y.ring = x.ring ++ [r] ∧ y.tracing = x.tracing) ∧
      (∀ w, x.filter = some (w :: rest) →
        (fOp w = 9 → y.ring = x.ring ++ [r]) ∧ (fOp w = 10 → y.ring = x.ring) ∧
        (fOp w = 12 → y.ring = x.ring ++ [r] ∧ y.tracing = false)))

namespace Sys2Proof.Spec

/-- The stage at which power-on halts and the code of BOOTERR, for the first check of R9 and R10 that fails. -/
def bootError (b : Boot) : Option (Nat × Nat) :=
  if b.romOk = false then some (1, 0x01)
  else
    match b.image with
    | none => some (2, 0x02)
    | some l =>
      if beNat (sha256 (imageKey l)) ≠ b.keyFuse.toNat then some (3, 0x04)
      else if pssVerify (beNat (imageKey l)) (imageSignature l) (imageSigned l) = false then some (3, 0x03)
      else if imageVersion l < b.fusedMin then some (3, 0x05)
      else if b.phodiverOk = false then some (4, 0x06)
      else if b.dramOk = false then some (6, 0x07)
      else if ∃ r ∈ b.goodRows, r.length < 32 then some (7, 0x08)
      else if b.zeroOk = false then some (8, 0x09)
      else none

/-- Link l is in service after calibration: it passes, and it has not already lost more lanes of a direction than it has spare (R319, R320). -/
def linkPasses (s : State) (l : Nat) : Bool :=
  s.boot.linkOk.getLsbD l && !((tget s.links l).isSome && !(tgetD s.links l Link.reset).up &&
    ((tgetD s.links l Link.reset).spareOut == 0 || (tgetD s.links l Link.reset).spareIn == 0))

/-- legal_cas of R15. -/
def legal (s : State) (m e n : Nat) : Prop :=
  (e = 0 ∧ n = m) ∨ (e = m ∧ n = 0) ∨ (e = m ∧ n ≠ m ∧ (n = 8 ∨ ∃ f ∈ s.boot.functions, n = f + 1))

/-- The MBOX commands (R23): the command word, who may issue it, and whether argument 0 names a context. -/
def commandRow (i : Instr) : Option (Nat × Who × Bool) :=
  match i with
  | .fwmin => some (0x01, .owner, false)
  | .create => some (0x10, .owner, false)
  | .sealPart => some (0x11, .ownerOrBound, true)
  | .bind => some (0x12, .owner, true)
  | .preempt => some (0x20, .owner, true)
  | .resume => some (0x21, .owner, true)
  | .debug => some (0x30, .owner, true)
  | .dbgcont => some (0x31, .owner, true)
  | .map => some (0x40, .ownerOrBound, true)
  | .unmap => some (0x41, .ownerOrBound, true)
  | .pgresp => some (0x42, .ownerOrBound, true)
  | .jobopen => some (0x50, .owner, false)
  | .jobmap => some (0x51, .owner, false)
  | .jobseal => some (0x52, .owner, false)
  | .jobclose => some (0x53, .owner, false)
  | .hload => some (0x60, .owner, true)
  | .snap => some (0x80, .ownerOrBound, true)
  | .recread => some (0x81, .any, false)
  | .idkey => some (0x82, .any, false)
  | .retire => some (0x83, .owner, true)
  | .trace => some (0x84, .owner, true)
  | .tfilter => some (0x85, .owner, true)
  | _ => none

/-- Argument word j of master m's command. -/
def arg (s : State) (m j : Nat) : Word := mboxWord s m (3 + j)

/-- The command of master m is answered in s: status, results, doorbell; unlisted commands that come next are answered too. -/
def answered (q : Nat) (s : State) (m status : Nat) (results : List Word) : State := settleMbox q (answerMbox s m status results)

/-- Master m may issue a command that names context x, if it names one. -/
def mayIssue (s : State) (m : Nat) (who : Who) (x : Option Ctx) : Prop :=
  match who with
  | .any => True
  | .owner => isOwner s m = true
  | .ownerOrBound => isOwner s m = true ∨ ∃ y, x = some y ∧ boundTo y m = true

/-- The command of i stands at the head of the queue, issued by a master that may issue it. -/
structure Served (i : Instr) (s : State) (m : Nat) (code : Nat) (who : Who) (named : Bool) : Prop where
  row   : commandRow i = some (code, who, named)
  head  : ∃ l, s.mboxq = m :: l
  ready : s.mgmt.ready = true
  free  : s.mgmt.serving = none
  word_ : (mboxWord s m 2).toNat = code
  may   : mayIssue s m who (if named then ctxAt s (arg s m 0).toNat else none)

end Sys2Proof.Spec

/-- R9 to R12, R60, R319. POWER_ON from reset: with no check that fails the module is READY at stage 9 with the links that passed
calibration, no context, no owner change, every memory of the module zero and its logical map; else it halts with FAIL at the failing stage
with its code. Later it does nothing. That the key is checked before the signature is the model's reading (log 41), and so is where the fields of
an image stand (log 46). -/
def Sys2Proof.Spec.PowerOn : Prop :=
  ∀ s : State,
    (s.mgmt.stage = 0#4 → s.mgmt.fail = false → ∃ t : State, exec .powerOn s = .next t ∧ t.mgmt.ownerId = s.mgmt.ownerId ∧
      match Spec.bootError s.boot with
      | some (stage, code) => t.mgmt.fail = true ∧ t.mgmt.stage = BitVec.ofNat 4 stage ∧ t.mgmt.booterr = BitVec.ofNat 32 code ∧
          t.mgmt.ready = s.mgmt.ready
      | none => t.mgmt.ready = true ∧ t.mgmt.fail = false ∧ t.mgmt.stage = 9#4 ∧ t.ctxs = [] ∧
          (∀ l < 16, t.mgmt.links.getLsbD l = Spec.linkPasses s l) ∧
          t.slice = [] ∧ t.gmeta = [] ∧ t.dram = [] ∧ t.conf = [] ∧ t.caddy = [] ∧ t.spill = [] ∧
          ∀ d < 4, ∀ i < 32, tget t.rows (32 * d + i) = some (34 * d + (s.boot.goodRows.getD d []).getD i 0)) ∧
    (s.mgmt.stage ≠ 0#4 ∨ s.mgmt.fail = true → exec .powerOn s = .next s)

/-- R8, R9, R13, R66, R402, R410. A cold reset leaves no context, owner or memory content, and keeps the fused minimum and the sequence of the
signed records. A write of 1 to WRST by the owner of a READY module begins a warm reset: READY falls at stage 5 and WARM is set, the records
that were released are ARMED, and OWNER, THERM, DRAM and the scratchpad are as they were; by another master it is counted in DENIED. The stages
of a warm reset follow one another: 6 closes the rows, 8 zeroes the scratchpad and the metadata, 9 sets READY. That they
are steps of their own is the model's form (log 33). -/
def Sys2Proof.Spec.Resets : Prop :=
  ∀ s : State,
    (∃ t : State, exec .coldReset s = .next t ∧ t.ctxs = [] ∧ t.slice = [] ∧ t.dram = [] ∧ t.caddy = [] ∧ t.spill = [] ∧
      t.mgmt.ownerId = 0#4 ∧ t.boot.fusedMin = s.boot.fusedMin ∧ t.snapSeq = s.snapSeq ∧ t.serial = s.serial) ∧
    (s.mgmt.ready = true → isOwner s s.input.who = true →
      (s.input.value.getLsbD 0 = true → ∃ t : State, exec .warmReset s = .next t ∧
        t.mgmt.ready = false ∧ t.mgmt.warm = true ∧ t.mgmt.stage = 5#4 ∧ t.mgmt.therm = s.mgmt.therm ∧ t.mgmt.ownerId = s.mgmt.ownerId ∧
        t.mgmt.epoch = s.mgmt.epoch ∧ t.slice = s.slice ∧ t.dram = s.dram ∧ t.dpoison = s.dpoison ∧ t.masters = s.masters ∧
        ∀ c x, ctxAt s c = some x → (∃ y, ctxAt t c = some y ∧ y.runs = [] ∧ y.pages = x.pages ∧ y.journal.map (·.number) =
          x.journal.map (·.number)) ∧ ((∀ e ∈ s.ctxs, e = (c, x) ∨ e.2.runs = []) → ∀ r u, tget x.runs r = some u →
            recWord t c x r 29 = 1#32)) ∧
      (s.input.value.getLsbD 0 = false → exec .warmReset s = .next s)) ∧
    (s.mgmt.ready = false ∨ isOwner s s.input.who = false → exec .warmReset s = .next (countDenied s s.input.who)) ∧
    ∀ l, s.agenda = .stage :: l → s.mgmt.warm = true → s.mgmt.ready = false → phodiverRuns s = true → ∃ t : State, step s = .next t ∧
      t.mgmt.ownerId = s.mgmt.ownerId ∧ t.mgmt.therm = s.mgmt.therm ∧ t.dram = s.dram ∧ t.dpoison = s.dpoison ∧ t.rows = s.rows ∧
      (s.mgmt.stage = 5#4 → t.mgmt.stage = 6#4 ∧ (∀ k < 16, t.mgmt.links.getLsbD k = Spec.linkPasses s k) ∧ SameMemory s t) ∧
      (s.mgmt.stage = 6#4 → SameMemory s t ∧ if s.boot.dramOk then t.mgmt.stage = 7#4 ∧ t.rowOpen = [] ∧
          t.mgmt.dramdeg = (s.boot.dramSpare || !s.dspare.isEmpty)
        else t.mgmt.fail = true ∧ t.mgmt.booterr = 7#32) ∧
      (s.mgmt.stage = 7#4 → t.mgmt.stage = 8#4 ∧ SameMemory s t) ∧
      (s.mgmt.stage = 8#4 → t.caddy = s.caddy ∧ if s.boot.zeroOk then t.mgmt.stage = 9#4 ∧ t.slice = [] ∧ t.gmeta = [] ∧ t.conf = []
        else t.mgmt.fail = true ∧ t.mgmt.booterr = 9#32) ∧
      (s.mgmt.stage = 9#4 → t.mgmt.ready = true)

/-- R5, R9. A sensor that reads 105 °C or more sets THERM and has every context with released records pre-empted; every sensor below
95 °C clears it and ends these holds. Phodiver does so: while it does not run, nothing happens. That the running contexts
are those with released records is the model's reading (log 31). -/
def Sys2Proof.Spec.Thermal : Prop :=
  ∀ s : State, let temp := s.input.value.toNat
    (105 ≤ temp → phodiverRuns s = true → ∃ t : State, exec .thermalTrip s = .next t ∧ t.mgmt.therm = true ∧
      (∀ c x, ctxAt s c = some x → x.runs ≠ [] → ∃ y, ctxAt t c = some y ∧ (HoldBy.thermal ∈ y.preq ∨ HoldBy.thermal ∈ y.holds)) ∧
      (s.mgmt.therm = false → Spec.Posted s t none (mkEvent [0x76#32, 1#32, word temp])) ∧ SameMemory s t) ∧
    (temp < 105 ∨ phodiverRuns s = false → exec .thermalTrip s = .next s) ∧
    (temp < 95 → s.mgmt.therm = true → phodiverRuns s = true → ∃ t : State, exec .thermalClear s = .next t ∧ t.mgmt.therm = false ∧
      (∀ c y, ctxAt t c = some y → HoldBy.thermal ∉ y.preq ∧ HoldBy.thermal ∉ y.holds) ∧
      Spec.Posted s t none (mkEvent [0x76#32, 0#32, word temp]) ∧ SameMemory s t) ∧
    (95 ≤ temp ∨ s.mgmt.therm = false ∨ phodiverRuns s = false → exec .thermalClear s = .next s)

/-- R15. OWNCAS takes effect when its EXPECT is the owner and the change is legal: OWNER takes the new ID and EPOCH rises by one, modulo
65,536; a write with another bit set, and one that does not match or is not legal, changes the writer's DENIED only. OWNCAS reads zero, and OWNER tells
the outcome. -/
def Obligations.Ownership : Prop :=
  ∀ s : State, s.mgmt.ready = true →
    let m := s.input.who
    let w : Word := s.input.value.truncate 32
    let e := w.toNat % 16
    let n := w.toNat / 16 % 16
    let good : Prop := w.toNat < 256 ∧ e = s.mgmt.ownerId.toNat ∧ Spec.legal s m e n
    (good → ∃ t : State, exec .owncas s = .next t ∧ t.mgmt.ownerId = BitVec.ofNat 4 n ∧
      t.mgmt.epoch = BitVec.ofNat 16 ((s.mgmt.epoch.toNat + 1) % 65536) ∧ readRegister t m 0x0008 4 = t.mgmt.epoch ++ 0#12 ++ BitVec.ofNat 4 n ∧
      (∀ k, (masterAt t k).denied = (masterAt s k).denied) ∧ t.ctxs = s.ctxs ∧ SameMemory s t) ∧
    (¬good → ∃ t : State, exec .owncas s = .next t ∧ t = { s with masters := t.masters } ∧
      (masterAt t m).denied = BitVec.ofNat 32 (min ((masterAt s m).denied.toNat + 1) 0xFFFFFFFF) ∧
      ∀ k, k ≠ m → masterAt t k = masterAt s k) ∧
    readRegister s m 0x000C 4 = 0#32

/-- R8, R9, R12, R17. Before READY a write to OWNCAS is counted in the writer's DENIED. A host link of a function that owns the module goes down, while
Phodiver runs: the module has no owner and EPOCH rises by one; that of another function changes nothing. A write to DENIED clears the writer's
count only. -/
def Sys2Proof.Spec.OwnerLoss : Prop :=
  ∀ s : State, let m := s.input.who
    (s.mgmt.ready = false → exec .owncas s = .next (countDenied s m)) ∧
    (m < 4 → s.mgmt.ownerId.toNat = m + 1 → phodiverRuns s = true → ∃ t : State, exec .hostLinkDown s = .next t ∧ t.mgmt.ownerId = 0#4 ∧
      t.mgmt.epoch = s.mgmt.epoch + 1#16 ∧ t.ctxs = s.ctxs ∧ t.masters = s.masters ∧ SameMemory s t) ∧
    (4 ≤ m ∨ s.mgmt.ownerId.toNat ≠ m + 1 ∨ phodiverRuns s = false → exec .hostLinkDown s = .next s) ∧
    (∃ t : State, exec .denied s = .next t ∧ (masterAt t m).denied = 0#32 ∧ (∀ k, k ≠ m → masterAt t k = masterAt s k) ∧
      t = { s with masters := t.masters })

/-- R6, R12, R20, R22, R24. A register write of the right width does what its register's step does; MBOX words are written; a doorbell write of a
listed command, with no command of any master waiting, has it wait; an event leaves its queue when EVPOP bit 0 is written, and the oldest
held one takes a place; another width or offset changes nothing. What a write does before READY beyond R12, and that every write that touches
ARM is an ARM write, malformed unless it is one aligned 64-bit write, is the model's reading (log 40). -/
def Sys2Proof.Spec.RegisterWrites : Prop :=
  ∀ s : State, let m := s.input.who
    let off := s.input.off
    let v : Word := s.input.value.truncate 32
    let e := masterAt s m
    let arm : Prop := off < 0x0108 ∧ 0x0100 < off + s.input.width
    let word_ : Prop := 0x0200 ≤ off ∧ off < 0x0300 ∧ off % 4 = 0
    (arm → s.input.flag = decide (off = 0x0100 ∧ s.input.width = 8) → exec .registerWrite s = exec .arm s) ∧
    (s.input.width = 4 → (off = 0x000C → exec .registerWrite s = exec .owncas s) ∧ (off = 0x0010 → exec .registerWrite s = exec .denied s) ∧
      (off = 0x0014 → exec .registerWrite s = exec .warmReset s)) ∧
    (s.input.width = 4 → s.mgmt.ready = true → (off = 0x0304 → exec .registerWrite s = exec .evpop s) ∧
      (0x0204 ≤ off → off < 0x0300 → off % 4 = 0 → ∃ t : State, exec .registerWrite s = .next t ∧
        mboxWord t m ((off - 0x0200) / 4) = v ∧ t.ctxs = s.ctxs ∧ SameMemory s t) ∧
      (off = 0x0200 → s.mboxq = [] → mboxWord s m 0 = 0#32 → v = 1#32 → mboxListed (mboxWord s m 2) = true →
        ∃ t : State, exec .registerWrite s = .next t ∧ t.mboxq = [m] ∧ mboxWord t m 0 = 1#32 ∧ SameMemory s t)) ∧
    (¬arm → s.input.width ≠ 4 → exec .registerWrite s = .next s) ∧
    (¬arm → off ≠ 0x000C → off ≠ 0x0010 → off ≠ 0x0014 → (off ≠ 0x0304 ∧ ¬word_ ∨ s.mgmt.ready = false) → exec .registerWrite s = .next s) ∧
    (v.getLsbD 0 = false ∨ s.mgmt.ready = false → exec .evpop s = .next s) ∧
    (∀ f rest, s.mgmt.ready = true → v.getLsbD 0 = true → e.events = f :: rest → ∃ t : State, exec .evpop s = .next t ∧
      (masterAt t m).events = rest ++ e.held.take 1 ∧ (masterAt t m).held = e.held.drop 1 ∧
      (∀ k, k ≠ m → masterAt t k = masterAt s k) ∧ SameMemory s t)

/-- R12, R16, R20, R21, R35, R52, R410. An ARM write by the owner, or by the function bound to the context, of a READY module that is not too
warm: an accepted arming has LASTSEQ and a pending journal entry of the next acceptance number, and ACK rises by one; a rejected one leaves ACK
and records its cause: a malformed write, no such context or one without a seal, a sequence that does not match or a wrong checksum. That a
malformed write is judged before the permission, which R21 has counted, is the model's reading (logs 40, 49). -/
def Obligations.Arming : Prop :=
  ∀ s : State, let m := s.input.who
    let v := s.input.value
    let c := v.toNat % 64
    let i := v.toNat / 256 % 2 ^ 24
    let q : Word := v.extractLsb' 32 32
    let reject := fun (u : State) (cause : Nat) => updMaster u m (fun k => { k with armCause := BitVec.ofNat 4 cause })
    let may : Prop := isOwner s m = true ∨ ∃ x, ctxAt s c = some x ∧ boundTo x m = true
    (s.mgmt.ready = false → exec .arm s = .next (reject (countDenied s m) 2)) ∧
    (s.mgmt.ready = true → s.input.flag = false ∨ v.toNat / 64 % 4 ≠ 0 → exec .arm s = .next (reject s 1)) ∧
    (s.mgmt.ready = true → s.input.flag = true → v.toNat / 64 % 4 = 0 →
      (¬may → exec .arm s = .next (reject (countDenied s m) 3)) ∧ (may → s.mgmt.therm = true → exec .arm s = .next (reject s 2)) ∧
      (may → s.mgmt.therm = false → ctxAt s c = none → exec .arm s = .next (reject s 4)) ∧
      (∀ x, may → s.mgmt.therm = false → ctxAt s c = some x → x.hdr = none → exec .arm s = .next (reject s 4)) ∧
      ∀ x, may → s.mgmt.therm = false → ctxAt s c = some x → x.hdr.isSome = true →
        let live := liveState (recState s c x i)
        (nrec x ≤ i ∨ (live = true ∧ q = recWord s c x i 30) ∨ (live = false ∧ q ≠ recWord s c x i 0) →
          ∃ rows : Table Nat, exec .arm s = .next (reject { s with rowOpen := rows } 6)) ∧
        (i < nrec x → live = false → q = recWord s c x i 0 → crc32c (wordsBytes (recWords s c x i)) ≠ recWord s c x i 31 →
          ∃ rows : Table Nat, exec .arm s = .next (reject { s with rowOpen := rows } 5)) ∧
        (i < nrec x → live = false → q = recWord s c x i 0 → crc32c (wordsBytes (recWords s c x i)) = recWord s c x i 31 →
          ∃ (t : State) (y : Ctx) (j : JEntry), exec .arm s = .next t ∧ (masterAt t m).ack = (masterAt s m).ack + 1#24 ∧
            ctxAt t c = some y ∧ y.nextAcc = x.nextAcc + 1 ∧ j ∈ y.journal ∧ j.number = x.nextAcc ∧ j.ridx = i ∧ j.seq = q ∧
            ((∀ e y, ctxAt s e = some y → e ≠ c → y.runs = []) → recWord t c x i 30 = q)))

/-- R18, R29. A BAR2 write by the function bound to a context, inside its caddy and outside the code of a released record: every byte
takes its value but those of STATUS and LASTSEQ, which keep theirs; no other byte of a memory changes. Any other write is counted in DENIED, and
so is one that meets STATUS or LASTSEQ. A BAR2 read gives the bytes of the caddy to the bound function, and zero elsewhere. That a write partly beyond
the caddy is dropped whole, and that one which meets STATUS counts once, is the model's choice (log 49). -/
def Sys2Proof.Spec.CaddyWrites : Prop :=
  ∀ s : State, let m := s.input.who
    let bs := s.input.bytes
    let c := s.input.off / 2 ^ 30
    let b := s.input.off % 2 ^ 30
    (∀ x, ctxAt s c = some x → boundTo x m = true → (∀ k < bs.length, b + k < x.clen ∧ liveCode x (b + k) = false) →
      ∃ t : State, exec .bar2Write s = .next t ∧
        (∀ k < bs.length, t.caddy.read (s.input.off + k) = if statusByte x (b + k) then s.caddy.read (s.input.off + k) else bs.getD k 0#8) ∧
        (∀ a, a < s.input.off ∨ s.input.off + bs.length ≤ a → t.caddy.read a = s.caddy.read a) ∧ t.slice = s.slice ∧ t.dram = s.dram ∧
        (masterAt t m).denied = (if ∃ k < bs.length, statusByte x (b + k) = true then satInc (masterAt s m).denied
          else (masterAt s m).denied)) ∧
    (ctxAt s c = none → exec .bar2Write s = .next (countDenied s m)) ∧
    (∀ x, ctxAt s c = some x → boundTo x m = false ∨ (∃ k < bs.length, x.clen ≤ b + k ∨ liveCode x (b + k) = true) →
      exec .bar2Write s = .next (countDenied s m)) ∧
    ∀ a, bar2Read s m a = if ∃ x, ctxAt s (a / 2 ^ 30) = some x ∧ boundTo x m = true ∧ a % 2 ^ 30 < x.clen then s.caddy.read a else 0#8

/-- R72. While a record of the context is released or running, a BAR2 write to any byte of the code of the kernel header that the
record names is dropped and counted in the writing master's DENIED; the code, as every memory, is unchanged. -/
def Obligations.Bar2Writes : Prop :=
  ∀ (s : State) (x : Ctx) (e : Nat × Run), let m := s.input.who
    let first := codeoff x + e.2.kernel.kcode
    ctxAt s (s.input.off / 2 ^ 30) = some x → e ∈ x.runs →
    (∃ k < s.input.bytes.length, first ≤ s.input.off % 2 ^ 30 + k ∧ s.input.off % 2 ^ 30 + k < first + 2 * e.2.kernel.klen) →
    ∃ t : State, exec .bar2Write s = .next t ∧ (masterAt t m).denied = BitVec.ofNat 32 (min ((masterAt s m).denied.toNat + 1) 0xFFFFFFFF) ∧
      (∀ k, k ≠ m → masterAt t k = masterAt s k) ∧ t.caddy = s.caddy ∧ t = { s with masters := t.masters }

/-- R16, R22, R23. A command step does nothing unless the command at the head of the queue is its own, none is being served and the module is READY; a command that
its master may not issue is answered with 0x03 and counted in DENIED; one that names a context that does not exist with 0x82. An answer
clears the doorbell, writes the status and the results, and takes the command from the queue. That 0x03 is answered where 0x82 or 0x01 would apply
too, and 0x82 before 0x01, is the model's choice (log 49), and so is that a command which waits stays in the queue while the module is not READY
(logs 33, 40). -/
def Obligations.MailboxProtocol : Prop :=
  (∀ (i : Instr) (s : State) (code : Nat) (who : Who) (named : Bool), Spec.commandRow i = some (code, who, named) →
    (s.mboxq = [] ∨ s.mgmt.ready = false ∨ s.mgmt.serving ≠ none ∨ (∃ m l, s.mboxq = m :: l ∧ (mboxWord s m 2).toNat ≠ code) → exec i s = .next s) ∧
    ∀ (m : Nat) (l : List Nat), s.mboxq = m :: l → s.mgmt.ready = true → s.mgmt.serving = none → (mboxWord s m 2).toNat = code →
      let x := if named then ctxAt s (Spec.arg s m 0).toNat else none
      (¬Spec.mayIssue s m who x → exec i s = .next (Spec.answered s.mboxq.length (countDenied s m) m 0x03 [])) ∧
      (Spec.mayIssue s m who x → named = true → x = none → exec i s = .next (Spec.answered s.mboxq.length s m 0x82 []))) ∧
  ∀ (s : State) (m status : Nat) (results : List Word), results.length ≤ 61 → let t := answerMbox s m status results
    mboxWord t m 0 = 0#32 ∧ mboxWord t m 1 = BitVec.ofNat 32 status ∧ (∀ k < results.length, mboxWord t m (3 + k) = results.getD k 0#32) ∧
    t.mboxq = s.mboxq.filter (fun k => k != m) ∧ t.ctxs = s.ctxs ∧ ∀ k, k ≠ m → masterAt t k = masterAt s k

/-- R10, R23, R25, R28, R50, R120, R345. The commands that make and prepare contexts. FWMIN raises the fused minimum; CREATE whose checks pass
makes the context, the one named or for CTX 0xFF the lowest free one, with its partition, kind and binding, with a zero caddy, and
leaves every other; SEAL whose checks pass copies the header and
sets the phase of every valid group to 0; BIND of a context without live records binds it; DEBUG attaches; DBGCONT lets a held core in
place go on at its next instruction; HLOAD gives the context its handler and the mask. -/
def Obligations.ContextCommands : Prop :=
  ∀ (s : State) (m : Nat), let q := s.mboxq.length
    let arg := Spec.arg s m
    let c := (arg 0).toNat
    (Spec.Served .fwmin s m 0x01 .owner false → s.boot.fusedMin ≠ s.boot.version → s.boot.fuseWriteOk = true →
      exec .fwmin s = .next (Spec.answered q { s with boot := { s.boot with fusedMin := s.boot.version } } m 0x00 [])) ∧
    (∀ n, Spec.Served .create s m 0x10 .owner false → createStatus s arg = 0 →
      ((c ≠ 0xFF ∧ n = c) ∨ (c = 0xFF ∧ ctxAt s n = none ∧ ∀ k < n, ctxAt s k ≠ none)) → n < 64 → ∃ (t : State) (y : Ctx),
      exec .create s = .next (Spec.answered q t m 0x00 [word n, word (n * 2 ^ 30), word (n / 4), 0#32, 0x8000#32]) ∧ ctxAt t n = some y ∧
      y.pbase = (arg 1).toNat % 2 ^ 16 ∧ y.pcount = (arg 1).toNat / 2 ^ 16 ∧ y.det = !(arg 2).getLsbD 0 ∧ y.share = (arg 2).getLsbD 1 ∧
      y.cls = (arg 2).getLsbD 2 ∧ y.func = (if (arg 2).toNat / 16 % 16 = 0xF then none else some ((arg 2).toNat / 16 % 16)) ∧
      y.clen = (arg 3).toNat ∧ y.hdr = none ∧ y.runs = [] ∧ y.journal = [] ∧ (∀ k, k ≠ n → ctxAt t k = ctxAt s k) ∧
      (∀ b < 2 ^ 30, t.caddy.read (caddyKey n b) = 0#8) ∧ (∀ a, a / 2 ^ 30 ≠ n → t.caddy.read a = s.caddy.read a) ∧
      t.slice = s.slice ∧ t.dram = s.dram) ∧
    (∀ x, Spec.Served .sealPart s m 0x11 .ownerOrBound true → ctxAt s c = some x → anyLive x = false →
      sealStatus x (fun k => caddyW s c (4 * k)) (fun g k => caddyW s c ((caddyW s c 24).toNat + 16 * g + 4 * k)) = 0 →
      ∃ (t : State) (y : Ctx), exec .sealPart s = .next (Spec.answered q t m 0x00 []) ∧ ctxAt t c = some y ∧
        (∀ k < 16, hdrWord y k = (caddyW s c (4 * k)).toNat) ∧
        (∀ g < 256, ∀ k < 2, groupWord y g k = caddyW s c ((caddyW s c 24).toNat + 16 * g + 4 * k)) ∧
        (∀ g r, tget y.gruns g = some r → r.g = 0#16 ∧ r.arrived = []) ∧ SameMemory s t) ∧
    (∀ x, Spec.Served .bind s m 0x12 .owner true → ctxAt s c = some x → ((arg 1).toNat = 0xF ∨ (arg 1).toNat ∈ s.boot.functions) →
      anyLive x = false → exec .bind s = .next (Spec.answered q
        (setCtx s c { x with func := if (arg 1).toNat = 0xF then none else some (arg 1).toNat }) m 0x00 [])) ∧
    (∀ x, Spec.Served .debug s m 0x30 .owner true → ctxAt s c = some x → arg 1 = 1#32 →
      exec .debug s = .next (Spec.answered q (setCtx s c { x with debug := true }) m 0x00 [])) ∧
    (∀ x, Spec.Served .dbgcont s m 0x31 .owner true → ctxAt s c = some x → x.saved = none → (arg 1).toNat < pcores x →
      (coreAt s (logical x (arg 1).toNat)).dbgHeld = true → exec .dbgcont s = .next (Spec.answered q
        (updCore s (logical x (arg 1).toNat) (fun k => { k with dbgHeld := false, wait := none, pc := k.pc + 4#32 })) m 0x00 [])) ∧
    (∀ x, Spec.Served .hload s m 0x60 .owner true → ctxAt s c = some x → anyLive x = false → 1 ≤ (arg 2).toNat → (arg 2).toNat ≤ 2048 →
      (arg 1).toNat % 2 = 0 → (arg 1).toNat + 2 * (arg 2).toNat ≤ codelen x → ∃ (t : State) (y : Ctx),
        exec .hload s = .next (Spec.answered q t m 0x00 []) ∧ ctxAt t c = some y ∧ y.hmask = arg 3 ∧ y.hcode.length = (arg 2).toNat ∧
        (∀ j < (arg 2).toNat, y.hcode.getD j 0#16 = BitVec.ofNat 16 (readLE s.caddy (caddyKey c (codeoff x + (arg 1).toNat + 2 * j)) 2)) ∧
        (∀ n < pcores x, ∀ j < (arg 2).toNat, tget (coreAt t (logical x n)).hmem j = some (y.hcode.getD j 0#16)) ∧ SameMemory s t)

/-- R23, R56, R358, R361, R375, R400, R401, R402, R404. PREEMPT of a context that runs asks for its halt and is being served till then; of one that
has halted otherwise it holds it. RESUME ends the owner's hold. SNAP of a context at rest keeps a record with the next number, signed by the key of the management SRAM; RETIRE
waits while an engine of the partition is busy, and ends with no such context, its slices and metadata zero but for those of clusters on which a rival runs, and its mapped
DRAM and its spill areas zero. That PREEMPT has the statuses 0x38 and 0x00 of a halted context (log 31), the order of the arguments of RECREAD (log 35), which
engines RETIRE waits for, and that slices are left to an active rival (log 33), are the model's readings. RECREAD gives a part of a record, IDKEY a part of the certificate. -/
def Obligations.LifeCommands : Prop :=
  ∀ (s : State) (m : Nat), let q := s.mboxq.length
    let arg := Spec.arg s m
    let c := (arg 0).toNat
    (∀ x, Spec.Served .preempt s m 0x20 .owner true → ctxAt s c = some x →
      (moving x = true → ∃ (t : State) (y : Ctx), exec .preempt s = .next t ∧ t.mboxq = s.mboxq ∧ t.mgmt.serving = some c ∧ ctxAt t c = some y ∧
        (HoldBy.preempt ∈ y.preq ∨ HoldBy.preempt ∈ y.holds) ∧ t.cores = s.cores ∧ SameMemory s t) ∧
      (moving x = false → HoldBy.preempt ∉ x.holds → ∃ (t : State) (y : Ctx), exec .preempt s = .next (Spec.answered q t m 0x00 []) ∧
        ctxAt t c = some y ∧ HoldBy.preempt ∈ y.holds ∧ t.cores = s.cores ∧ SameMemory s t) ∧
      (moving x = false → HoldBy.preempt ∈ x.holds → exec .preempt s = .next (Spec.answered q s m 0x38 []))) ∧
    (∀ x, Spec.Served .resume s m 0x21 .owner true → ctxAt s c = some x →
      (HoldBy.preempt ∈ x.holds → exec .resume s = .next (Spec.answered q
        (reschedule (restoreCtx (setCtx s c (dropHold x .preempt)) c) c) m 0x00 []) ∧ HoldBy.preempt ∉ (dropHold x .preempt).holds) ∧
      (HoldBy.preempt ∉ x.holds → exec .resume s = .next (Spec.answered q s m 0x39 []))) ∧
    (∀ x, Spec.Served .snap s m 0x80 .ownerOrBound true → ctxAt s c = some x → x.runs = [] → cardsHeld s x = false →
      ∃ (t : State) (r : Signed), exec .snap s = .next (Spec.answered q t m 0x00 (twoWords (s.snapSeq + 1))) ∧
        t.signed.getLast? = some r ∧ r.number = s.snapSeq + 1 ∧ r.ctx = some c ∧
        (let b := snapshotBytes s c x (ofWords (arg 1) (arg 2)) false (s.snapSeq + 1)
          ∃ nonce, 1 ≤ nonce ∧ nonce < p384Order ∧
            r.bytes = b ++ (ecdsaSign (readLE s.sram 0 48) nonce (b.map (·.toNat))).map (BitVec.ofNat 8)) ∧
        t.snapSeq = s.snapSeq + 1 ∧ t.ctxs = s.ctxs ∧ SameMemory s t) ∧
    (∀ r, Spec.Served .recread s m 0x81 .any false → isOwner s m = true → s.signed.find? (fun r => decide (r.number = ofWords (arg 0) (arg 1))) =
      some r → (arg 2).toNat * 128 < r.bytes.length → exec .recread s = .next (Spec.answered q s m 0x00
        (bytesWords ((List.range 128).map (fun j => r.bytes.getD (128 * (arg 2).toNat + j) 0#8))))) ∧
    (Spec.Served .idkey s m 0x82 .any false → (c < 8 → ∃ results, results.length = 32 ∧
      exec .idkey s = .next (Spec.answered q s m 0x00 results)) ∧ (8 ≤ c → exec .idkey s = .next (Spec.answered q s m 0x83 []))) ∧
    (∀ x, Spec.Served .retire s m 0x83 .owner true → ctxAt s c = some x →
      let s1 := withUnits s c (fun s => retireStop s c)
      let s2 := withUnits s1 c (fun s => retireWork s c (ofWords (arg 1) (arg 2)))
      ∀ y, ctxAt s1 c = some y → (enginesBusy s1 c y = true → exec .retire s = .next s1) ∧
        (enginesBusy s1 c y = false →
          ∃ t : State, exec .retire s = .next (Spec.answered q t m 0x00 (twoWords s2.snapSeq)) ∧ ctxAt t c = none ∧
          (∀ n, inPart y n = true → (∀ e ∈ rivals s2 c y, e.2.active = true → inPart e.2 n = false) →
            (∀ a, a / 2 ^ 21 = n → t.slice.read a = 0#8) ∧ (∀ a, a / 2 ^ 17 = n → t.gmeta.read a = 0#8) ∧
            (∀ e ∈ t.conf, e.1 / 2 ^ 15 ≠ n) ∧ ∀ g ∈ t.poison, g / 2 ^ 17 ≠ n) ∧
          (∀ p ∈ y.pages, p.space = 2 → ∀ u < pageLen p / 4096, ∀ k < 4096, pageOff p + u / pageN p < 2 ^ 13 →
            t.dram.read (dramKey (logical y (pageCh p + u % pageN p)) (4096 * (pageOff p + u / pageN p) + k)) = 0#8) ∧
          ∀ a < 2 ^ 34, t.spill.read (spillBase c 0 + a) = 0#8))

/-- R226, R227, R228, R322, R323, R403, R407, R408. The commands of pages, jobs and traces. MAP of a well-laid page that meets no other
adds it; UNMAP of a page without far locks removes it; PGRESP of a fault lets the command try again, or ends it; JOBOPEN, JOBMAP, JOBSEAL and
JOBCLOSE open a job, fill its map, send the IDENT flits and then seal it under the module's own id, and end it; TRACE switches tracing, and TFILTER takes a program. The statuses of
MAP (log 40), the units that the caddies and spill areas reserve (log 22), JOBSEAL's answers from the input (log 38) and TFILTER's program from
the arguments and the input (log 36) are the model's choices. -/
def Obligations.ServiceCommands : Prop :=
  ∀ (s : State) (m : Nat), let q := s.mboxq.length
    let arg := Spec.arg s m
    let c := (arg 0).toNat
    let page : Page := { space := (arg 1).toNat, entry := arg 5 ++ arg 4 ++ arg 3 ++ arg 2 }
    (∀ x, Spec.Served .map s m 0x40 .ownerOrBound true → ctxAt s c = some x →
      (malformedPage (arg 1).toNat page = false → pageRefused s x page = false →
        exec .map s = .next (Spec.answered q (setCtx s c { x with pages := x.pages ++ [page] }) m 0x00 [])) ∧
      (malformedPage (arg 1).toNat page = true → exec .map s = .next (Spec.answered q s m 0x42 [])) ∧
      (malformedPage (arg 1).toNat page = false → pageRefused s x page = true → exec .map s = .next (Spec.answered q s m 0x41 []))) ∧
    (∀ x p, Spec.Served .unmap s m 0x41 .ownerOrBound true → ctxAt s c = some x → ((arg 1).toNat = 2 ∨ (arg 1).toNat = 3) →
      x.pages.find? (fun p => decide (p.space = (arg 1).toNat ∧ pageBase p = (arg 2).toNat * 2 ^ 16)) = some p →
      ((∃ l ∈ x.far, l.place = (arg 1).toNat ∧ l.lo / 64 * 64 < pageBase p + pageLen p ∧ pageBase p ≤ l.hi) →
        exec .unmap s = .next (Spec.answered q s m 0x43 [])) ∧
      ((∀ l ∈ x.far, ¬(l.place = (arg 1).toNat ∧ l.lo / 64 * 64 < pageBase p + pageLen p ∧ pageBase p ≤ l.hi)) → ∃ (t : State) (y : Ctx),
        exec .unmap s = .next (Spec.answered q t m 0x00 []) ∧ ctxAt t c = some y ∧ p ∉ y.pages ∧ (∀ r ∈ x.pages, r ≠ p → r ∈ y.pages) ∧
        SameMemory s t)) ∧
    (∀ x f k, Spec.Served .pgresp s m 0x42 .ownerOrBound true → ctxAt s c = some x → x.saved = none → (arg 2).toNat < 2 →
      x.faults.find? (fun f => decide (f.number = (arg 1).toNat)) = some f → tget (coreAt s f.core).cmds f.seq = some k →
      let t := setCtx s c { x with faults := x.faults.filter (fun g => decide (g.number ≠ f.number)) }
      exec .pgresp s = .next (Spec.answered q
        (if arg 2 = 0#32 then updCore t f.core (fun e => { e with cmds := tset e.cmds f.seq { k with fault := none } })
         else finishCmd t f.core k (BitVec.ofNat 32 (0x20000000 + k.noor * 2 ^ 14 + k.ninv))) m 0x00 [])) ∧
    (∀ x, c < 64 → ctxAt s c = some x →
      (Spec.Served .jobopen s m 0x50 .owner false → x.job = none → anyLive x = false → 2 ≤ (arg 4).toNat → (arg 4).toNat ≤ 65535 →
        let j : Job := { id := arg 2 ++ arg 1, nonce := arg 3, modules := (arg 4).toNat, own := 0, map := [], sealed := false, neigh := [] }
        exec .jobopen s = .next (Spec.answered q (setCtx s c { x with job := some j }) m 0x00 [])) ∧
      (∀ j t, Spec.Served .jobmap s m 0x51 .owner false → x.job = some j → j.sealed = false → 1 ≤ (arg 1).toNat → (arg 1).toNat ≤ 19 →
        (∀ e ∈ mapPairs arg, e.1.toNat < 65536) → addPairs j.modules (mapPairs arg) j.map = some t →
        exec .jobmap s = .next (Spec.answered q (setCtx s c { x with job := some { j with map := t } }) m 0x00 [])) ∧
      (∀ j own, Spec.Served .jobseal s m 0x52 .owner false → x.job = some j → j.sealed = false →
        j.map.find? (fun e => decide (e.2 = s.serial)) = some (own, s.serial) →
        (j.calling = false → ∃ t : State, exec .jobseal s = .next t ∧ t.mboxq = s.mboxq ∧ SameMemory s t ∧
          ctxAt t c = some { x with job := some { j with calling := true } } ∧
          ∀ l < 16, s.mgmt.links.getLsbD l = true → ∃ f, (linkAt t l).retrans.getLast? = some f ∧ f.seq = (linkAt s l).txSeq ∧ f.pkt = none ∧ f.ident.isSome = true) ∧
        (j.calling = true → s.input.value = 0#64 → ∃ (t : State) (y : Ctx) (k : Job),
          exec .jobseal s = .next (Spec.answered q t m 0x00 []) ∧ ctxAt t c = some y ∧ y.job = some k ∧ k.sealed = true ∧ k.own = own ∧
          k.map = j.map ∧ k.id = j.id ∧ t.snapSeq = s.snapSeq + 1 ∧ SameMemory s t)) ∧
      (Spec.Served .jobclose s m 0x53 .owner false → x.job ≠ none → anyLive x = false →
        ∃ (t : State) (y : Ctx), exec .jobclose s = .next (Spec.answered q t m 0x00 []) ∧ ctxAt t c = some y ∧ y.job = none ∧ y.ranks = [] ∧
          t.cores = s.cores ∧ SameMemory s t) ∧
      (Spec.Served .trace s m 0x84 .owner true → (arg 1).toNat < 2 →
        exec .trace s = .next (Spec.answered q (setCtx s c { x with tracing := decide (arg 1 = 1#32) }) m 0x00 [])) ∧
      (Spec.Served .tfilter s m 0x85 .owner true → let p := filterProgram arg s.input.bytes
        (filterRefused p = false → exec .tfilter s =
          .next (Spec.answered q (setCtx s c { x with filter := some p, fcounts := [] }) m 0x00 [])) ∧
        (filterRefused p = true → exec .tfilter s = .next (Spec.answered q s m 0x85 []))))

namespace Sys2Proof.Spec

/-- The steps that end a wait: the ways of waiting that each looks at, and the budget that a watchdog of them runs on (R63, R294, R357). -/
def waitRow (i : Instr) : Option (List WaitKind × Option (Core → Word)) :=
  match i with
  | .homeBankAccess => some ([.bank], none)
  | .ticketArrival => some ([.bank], none)
  | .ticketRetry => some ([.ticket], none)
  | .mutexRetry => some ([.mutex], none)
  | .fullEmptyWaitEnd => some ([.fullEmpty], none)
  | .versionWaitEnd => some ([.version], none)
  | .reclaimWaitEnd => some ([.reclaim], none)
  | .phaseWaitEnd => some ([.phase], none)
  | .lockWaitEnd => some ([.lock, .launch], none)
  | .ticketGap => some ([.ticket], some (fun c => c.cr.tfwd))
  | .tfenceGapExpiry => some ([.tfence], some (fun c => c.cr.tfwd))
  | .tktLoadGapExpiry => some ([.ticketLoad], some (fun c => c.cr.tfwd))
  | .optWaitGapExpiry => some ([.heldCard], some (fun c => c.cr.tfwd))
  | .sendStall => some ([.send], some (fun c => c.cr.swd))
  | _ => none

/-- The instructions that may wait for such a step. -/
def mayWait (i : Instr) : Bool :=
  (accRow i).isSome || (atomicRow i).isSome || (ticketRow i).isSome || (annRow i).isSome || (launchRow i).isSome || (redeemRow i).isSome ||
  match i with
  | .reclaim .. | .tfence .. | .waitCnt .. | .mtxLock .. | .mtxUnlock .. | .msgSend .. | .msgSret .. | .mxFill .. | .mxFillCol .. | .mxAcld ..
  | .mxAcst .. | .prmOpen .. | .optCard .. | .optLdr .. | .optWait .. => true
  | _ => false

/-- Core n is at the boundary before the instruction i, alone: it may run, nothing is delivered to it, and what it fetches is i. -/
structure AtInstr (s : State) (n : Nat) (i : Instr) (w : Word) : Prop where
  free    : (coreAt s n).trap = none
  runs    : canRun s n = true
  nothing : boundary s n = none
  alone   : gangOf s n = none
  fetched : fetchWord s n = some w
  decoded : decodeWord w = .instr i

/-- The pending results that a completion step writes: the kind of each (R95, R96, R268). -/
def completionRow (i : Instr) : Option PKind :=
  match i with
  | .interlockedResult => some .interlocked
  | .instructionCompletion => some .long
  | .gangMmaCompletion => some .mma
  | _ => none

/-- No counted wait of core n has been decided (R309), no exchange of it has joined (R235), and no message of it has been accepted (R326) whose
instruction has not retired: nothing comes before what its boundary delivers. -/
def undecided (s : State) (n : Nat) : Prop :=
  (∀ q, (coreAt s n).cwait = some q → q.res = none) ∧ (∀ q, tget s.counting n = some q → q.met = false) ∧
  (∀ e ∈ (coreAt s n).cmds, e.2.kind = .exchange → e.2.joined = true → e.1 ≠ ((coreAt s n).seq + 1) % 2 ^ 30) ∧
  ∀ h, (coreAt s n).reply ≠ some (.answered .accepted h)

/-- TICKET-GAP of granule g for an entry (R298): its round and the index that its tracker expects next. -/
def gapReq (s : State) (e : Entry) (g : Nat) : TrapReq :=
  { cause := .ticketGap
    info := BitVec.ofNat 32 (e.num % 256 * 2 ^ 24 + (s.gmeta.read g).toNat % 256 * 2 ^ 16 + expectedIdx s g % 2 ^ 16)
    extra := ticketExtra e g }

/-- Granule g of a slice holds back a fence of round q through entry e (R297): it is tracked or an update of it is held, a bit of an element
lies in it, and it is not past the round. -/
def holdsBack (s : State) (e : Entry) (core q g : Nat) : Prop :=
  ((∃ k, trackerOf s core g = some k) ∨ anyHeld s core g = true) ∧ (firstElem e (logGran e.bankp g)).isSome = true ∧
  ¬(1 ≤ (roundOf s (2 ^ 17 * core + g) + 256 - q) % 256 ∧ (roundOf s (2 ^ 17 * core + g) + 256 - q) % 256 ≤ 128)

/-- The waits in which a core's clock stops (R308). -/
def gatedKinds : List WaitKind :=
  [.barrier, .event, .count, .mutex, .ticket, .ticketLoad, .tfence, .phase, .fence, .fullEmpty, .version, .reclaim, .handlers, .engine]

/-- The elements that a command received in an exchange do not overlap, and lie in its slice (R234). -/
def Apart (k : Cmd) : Prop :=
  ∀ b r c b' r' c' : Nat, b < 8 → r < 32 → c < 32 → b' < 8 → r' < 32 → c' < 32 →
    let a := blockAt k.dstE k.dstO b r c
    let a' := blockAt k.dstE k.dstO b' r' c'
    a + k.dstE.width ≤ 2 ^ 24 ∧ ((b, r, c) ≠ (b', r', c') → a + k.dstE.width ≤ a' ∨ a' + k.dstE.width ≤ a)

/-- The elements that an engine writes in one bank access with element i of a command to a full-empty or versioned entry (R218). -/
def together (k : Cmd) (m i : Nat) : List Nat := (List.range k.total).filter (fun j => decide (k.granAt m j = k.granAt m i))

/-- The instruction at core n's program counter sends a message of context c from rank src to rank dst with sequence number q (R324, R332). -/
def sending (s : State) (n c : Nat) (src dst q : Word) : Prop :=
  ∃ (w : Word) (d a : Reg) (l : BitVec 4) (t : Task) (x : Ctx) (u : Run), fetchWord s n = some w ∧ decodeWord w = .instr (.msgSend d a l) ∧
    taskEnv s n = some (t, x, u) ∧ t.ctx = c ∧ ownRank x (prel x n) = src ∧ rdS (coreAt s n) a.toNat = dst ∧ sendSeq x src dst = q

end Sys2Proof.Spec

/-- R164, R167 to R170, R230, R285, R293, R294, R297, R302, R310, R328, R357, R386. A step that ends a wait has a core that waits in its way, and
for a watchdog has waited its budget, try its instruction again; any other core goes on as it was. -/
def Sys2Proof.Spec.WaitEnds : Prop :=
  ∀ (i : Instr) (ks : List WaitKind) (budget : Option (Core → Word)) (s : State), Spec.waitRow i = some (ks, budget) →
    (i = .ticketArrival → s.input.arr = none) →
    let n := s.input.who
    let s0 := { s with cur := n }
    ((∀ w, (coreAt s n).wait = some w → w.kind ∉ ks ∨ ∃ b, budget = some b ∧ w.cycles < (b (coreAt s n)).toNat) → exec i s = .next s) ∧
    ∀ (w : Waiting) (j : Instr) (code : Word), (coreAt s n).wait = some w → w.kind ∈ ks →
      (∀ b, budget = some b → (b (coreAt s n)).toNat ≤ w.cycles) → Spec.AtInstr s0 n j code → Spec.mayWait j = true →
      ∃ t : State, exec j s0 = .next t ∧ exec i s = .next { t with cur := s.cur }

/-- R294, R295, R297, R298, R328, R357, R386. What a watchdog's step has its instruction raise, once its wait has lasted its budget: a
ticketed update that is still refused, a tfence with a granule that holds it back, a load through a ticketed entry with a granule that is
tracked, and an opt.wait on a card that is still held, raise TICKET-GAP with the entry, the round and the next index of the granule (of the
lowest one; of the card's promise); a message that is still refused raises SEND-STALL with its destination. -/
def Sys2Proof.Spec.WatchdogTraps : Prop :=
  ∀ (j : Instr) (code : Word) (s s1 : State) (t : Task) (x : Ctx) (u : Run) (w : Waiting), let n := s.input.who
    let s0 := { s with cur := n }
    let traps := fun (i : Instr) (r : TrapReq) => exec i s = .next { takeTrap s1 n r with cur := s.cur }
    Spec.AtInstr s0 n j code → taskEnv s1 n = some (t, x, u) → (coreAt s n).wait = some w →
    let E := Spec.env s1 t x u
    let late := (coreAt s n).cr.tfwd.toNat ≤ w.cycles
    (∀ op fmts d a h l p, Spec.ticketRow j = some (op, fmts, d, a, h, l) → Issues j (amoPair d a h) s0 s1 →
      spotOf E (ticketForm fmts) h a = .inr p → (x.det = true → bothMembers E p.e p.home = true) →
      lockGuard s1 E p.e p.home [p.a] true = none →
      (∀ k, carried E p.e (remoteHome E.n p.home) = some (k, true) → conflictByte s1 p.e p.core [p.a] true (stampOf k) = none) →
      field (rdS E.c (d.toNat + 1)) 15 0 < p.e.round → arrive s1 (Spec.arrival E op d p) = .refused → w.kind = .ticket → late →
      traps .ticketGap (Spec.gapReq s1 p.e p.gran)) ∧
    (∀ a h core g, j = .tfence a h → Issues j { names := [nH h, nS a] } s0 s1 →
      let e := handleEntry E h.toNat
      let q := (rdS E.c a.toNat).toNat % 256
      entryOk E e = true → e.tkt = true → homeOf x n e = .slice core → g < 2 ^ 17 → Spec.holdsBack s1 e core q g →
      (∀ k, k < 2 ^ 17 → Spec.holdsBack s1 e core q k → k ≠ g → logGran e.bankp g < logGran e.bankp k) →
      (∀ k ∈ (coreAt s1 core).trackers, k.gran < 2 ^ 17) → (∀ k ∈ (coreAt s1 core).rob, k.gran < 2 ^ 17) → w.kind = .tfence → late →
      traps .tfenceGapExpiry (Spec.gapReq s1 e (2 ^ 17 * core + g))) ∧
    (∀ A q g, Spec.accRow j = some A → A.k = .ld → Issues j (accShape A.k A.vec A.d A.a A.b A.h) s0 s1 → Spec.AccBefore s1 A E →
      A.home E = .slice q → (A.entry E).tkt = true → (x.det = true ∨ (A.entry E).chk = true) →
      (granulesOf (A.entry E) q (A.locs E)).find? (trackedGran s1) = some g → w.kind = .ticketLoad → late →
      traps .tktLoadGapExpiry (Spec.gapReq s1 (A.entry E) g)) ∧
    (∀ d a l p, j = .optWait d a l → Issues j { names := [nS d, nS a] } s0 s1 →
      let id := rdS E.c a.toNat
      let o := optAt x (clusterOf n)
      id.toNat % 4 = 3 → 0 < id.toNat / 4 → id.toNat / 4 ≤ E.c.seq → E.c.seq < id.toNat / 4 + 64 → (∀ q ∈ cardsOf s1 n, q.ref.xid ≠ id) → heldCard o n id = some p →
      w.kind = .heldCard → late →
      traps .optWaitGapExpiry { cause := .ticketGap, info := BitVec.ofNat 32 (p.we % 256 * 2 ^ 24 + (regionAt o p.we).cur % 2 ^ 16) }) ∧
    (∀ d a l h, j = .msgSend d a l → Issues j { names := [nV d, nS a] } s0 s1 → validRank x (rdS E.c a.toNat) = true →
      (let r := rdS E.c a.toNat
        let src := ownRank x (prel x n)
        rankMod r = moduleId x → behind s1 t.ctx src r s1.packets.length = false ∧ storeMessage s1 t.ctx
          { src := src, dst := r, seq := sendSeq x src r, body := .msg (rdV E.c d.toNat), kept := true } = .refused) →
      E.c.reply = some (.answered .refused h) → w.kind = .send → (coreAt s n).cr.swd.toNat ≤ w.cycles →
      traps .sendStall { cause := .sendStall, info := rdS E.c a.toNat })

/-- R95, R96, R268. A completion step writes the oldest result of its kind that is pending at a core, and no other core's; with none
pending the core's registers keep their values. -/
def Sys2Proof.Spec.ResultsArrive : Prop :=
  ∀ (i : Instr) (kind : PKind) (s : State), Spec.completionRow i = some kind → let c := coreAt s s.input.who
    ∃ t : State, exec i s = .next t ∧ (∀ m, m ≠ s.input.who → coreAt t m = coreAt s m) ∧ t.ctxs = s.ctxs ∧ SameMemory s t ∧
      (∀ (k : Nat) (p : Pending), c.inflight.findIdx? (fun p => decide (p.kind = kind) && !p.done) = some k → c.inflight[k]? = some p →
        SameRegs (finish c p) (coreAt t s.input.who) ∧ (coreAt t s.input.who).acc = (finish c p).acc ∧
        (coreAt t s.input.who).cr = (finish c p).cr) ∧
      ((∀ p ∈ c.inflight, p.kind = kind → p.done = true) → coreAt t s.input.who = c)

/-- R40, R57, R59. TASK_START of a core with a task placed on it, in a running record of a context that issues: the program counter is at
KENTRY, s1 and s2 hold the tile coordinates C0 and C1, every other register is zero, COORD2, COORD3, QUANT and the seeds come from the
record and the level is user. In a record with a fatal trap that holds only in a window up to STOPW (R350; the model's reading, log 44). With no
task placed nothing changes. -/
def Sys2Proof.Spec.TaskStart : Prop :=
  ∀ (s : State), let n := s.input.who
    ((coreAt s n).next = none → exec .taskStart s = .next s) ∧
    ∀ (t : Task) (x : Ctx) (u : Run), (coreAt s n).task = none → (coreAt s n).next = some t → ctxAt s t.ctx = some x →
      runAt x t.ridx = some u → issuing x = true → n ∉ s.failed → u.running = true → (∀ v, u.stopw = some v → windowOf x u (coreAt s n) ≤ v) → ∃ r : State,
        exec .taskStart s = .next r ∧ let c := coreAt r n
        c.task = some t ∧ c.pc = BitVec.ofNat 32 (u.kernel.kcode + 2 * u.kernel.kentry) ∧ c.priv = false ∧
        rdS c 1 = BitVec.ofNat 32 t.c0 ∧ rdS c 2 = BitVec.ofNat 32 t.c1 ∧ (∀ k, k ≠ 1 → k ≠ 2 → rdS c k = 0#32) ∧ (∀ k, rdV c k = 0#256) ∧
        (∀ k, 0 < k → rdP c k = 0#32) ∧ readCr c 0x009 = BitVec.ofNat 32 t.c2 ∧ readCr c 0x00A = BitVec.ofNat 32 t.c3 ∧
        readCr c 0x02B = u.copy.getD 8 0#32 ∧ readCr c 0x019 = u.copy.getD 6 0#32 ∧ readCr c 0x01A = u.copy.getD 7 0#32 ∧
        c.count = (coreAt s n).count ∧ c.inflight = [] ∧ (∀ m, m ≠ n → coreAt r m = coreAt s m) ∧ SameMemory s r

/-- R73, R79, R225, R342, R346, R348. What comes at an instruction boundary of a core that may run. DECODE_TRAP: a fetch outside the code, or a word that is
no instruction, traps. HANDLER_ENTRY: a trap that waited is entered. TIMER: a due timer traps at user level. USER_INTERRUPT_DELIVERY: outside a
DET context, or at a wait point with every command with a handler complete, the oldest held completion enters its handler, with IEPC and
XID; task.end and c.end deliver none. Outside a DET context the oldest fault of an engine traps as ENGINE at the boundary of its core's next move, at
either level (R342). -/
def Sys2Proof.Spec.Boundaries : Prop :=
  ∀ (s : State), let n := s.input.who
    let c := coreAt s n
    let s0 := { s with cur := n }
    (canRun s0 n = true →
      (fetchWord s0 n = none → exec .decodeTrap s = .next { takeTrap s0 n { cause := .ill, info := 0xFFFFFFFF#32 } with cur := s.cur }) ∧
      (∀ w, fetchWord s0 n = some w → (∀ i, decodeWord w ≠ .instr i) → ∃ r : TrapReq,
        exec .decodeTrap s = .next { takeTrap s0 n r with cur := s.cur } ∧
        (decodeWord w = .zero → r = { cause := .zero, info := 0#32 }) ∧ (decodeWord w = .pool → r = { cause := .pool, info := w }) ∧
        (decodeWord w ≠ .zero → decodeWord w ≠ .pool → r = { cause := .ill, info := w })) ∧
      (∀ w i, fetchWord s0 n = some w → decodeWord w = .instr i → exec .decodeTrap s = .next s)) ∧
    (c.trap = none → exec .handlerEntry s = .next s) ∧ (∀ r, c.trap = some r → exec .handlerEntry s = .next (takeTrap s n r)) ∧
    (canRun s n = true → Spec.undecided s n → c.timerDue = true → c.priv = false → exec .timer s =
      .next (takeTrap (updCore s n (fun k => { k with timerDue := false })) n { cause := .timer, info := 0#32, async := true })) ∧
    (c.timerDue = false ∨ c.priv = true → exec .timer s = .next s) ∧
    (∀ id hp rest, canRun s n = true → Spec.undecided s n → (∀ w, fetchWord s n = some w → decodeWord w ≠ .instr .taskEnd ∧ decodeWord w ≠ .instr .cEnd) →
      (detOf s n = false ∨ ((∃ w i, fetchWord s n = some w ∧ decodeWord w = .instr i ∧ waitPoint i = true) ∧
        ∀ e ∈ c.cmds, e.2.handler = none)) → c.priv = false → c.iact = false → c.intr = (id, hp) :: rest → ∃ t : State,
      exec .userInterruptDelivery s = .next t ∧ (coreAt t n).iact = true ∧ (coreAt t n).cr.iepc = c.pc ∧ (coreAt t n).cr.xid = id ∧
      (coreAt t n).pc = BitVec.ofNat 32 ((kernelOf s n).kcode + 2 * hp) ∧ (coreAt t n).intr = rest ∧ SameRegs c (coreAt t n)) ∧
    (c.intr = [] ∨ c.iact = true ∨ c.priv = true ∨
      (∃ w, fetchWord s n = some w ∧ (decodeWord w = .instr .taskEnd ∨ decodeWord w = .instr .cEnd)) → exec .userInterruptDelivery s = .next s) ∧
    (∀ f, s.agenda = [] → s.cur = n → n < 8192 → c.task ≠ none → c.trap = none → canRun s n = true → Spec.undecided s n →
      c.timerDue = false ∨ c.priv = true → detOf s n = false → c.afaults.find? (fun f => decide (f.cause = .engine)) = some f →
      step s = .next (takeTrap (dropFault s n f) n (asyncTrap f)))

/-- R128, R308. WATCHDOG: a core whose wait for a live record to be quiet has lasted QWD cycles traps with the record's index; any other goes on
unchanged. CLOCK_GATE: the clock of a core that has waited 16 cycles in one of the waits of R308 stops, and nothing of it that software sees changes. -/
def Sys2Proof.Spec.QuietWatchdog : Prop :=
  ∀ (s : State), let n := s.input.who
    (∀ (w : Waiting) (i : Nat) (t : Task) (x : Ctx) (u : Run), (coreAt s n).wait = some w → taskEnv s n = some (t, x, u) →
      canRun s n = true → w.kind = .quiet → (coreAt s n).cr.qwd.toNat ≤ w.cycles → quietRecord s n = some i →
      liveState (recState s t.ctx x i) = true → exec .watchdog s = .next (takeTrap s n { cause := .watchdog, info := word i })) ∧
    ((∀ w, (coreAt s n).wait = some w → w.kind ≠ .quiet ∨ w.cycles < (coreAt s n).cr.qwd.toNat) → exec .watchdog s = .next s) ∧
    (∃ t : State, exec .clockGate s = .next t ∧ (∀ m, m ≠ n → coreAt t m = coreAt s m) ∧ SameRegs (coreAt s n) (coreAt t n) ∧
      (coreAt t n).pc = (coreAt s n).pc ∧ (coreAt t n).cr = (coreAt s n).cr ∧ SameMemory s t ∧
      ∀ w, (coreAt s n).wait = some w → (coreAt t n).wait = some (if w.kind ∈ Spec.gatedKinds ∧ 16 ≤ w.cycles then { w with gated := true } else w))

/-- R62, R346, R350. WINDOW_RESULT_DELIVERY in a context that moves empties the record's deliveries, and the value of one reaches the register of its
core, in its bank, that waits for it. FATAL_STOP: once every core of a record with a fatal trap has stopped, with no command of an engine and no card left
and nothing on its way that could end a wait of one, the record is over, and the least trap, in the order of window, core, EPC and lane, is reported by event 0x70 to the owner and to the function
that the context is bound to; before that nothing changes. That a core has stopped at a wait where nothing on its way could end it, and not
before, is the model's reading of R350 (log 44). -/
def Sys2Proof.Spec.RecordSteps : Prop :=
  ∀ (s : State) (x : Ctx) (u : Run), let c := s.input.who
    let r := s.input.sub
    ctxAt s c = some x → runAt x r = some u →
    (moving x = true → ∃ (t : State) (y : Ctx) (v : Run), exec .windowResultDelivery s = .next t ∧ ctxAt t c = some y ∧ runAt y r = some v ∧
      v.deliver = [] ∧ SameMemory s t ∧
      ∀ (e : Delivery) (p : Pending), u.deliver = [e] → (coreAt s (logical x e.core)).inflight = [p] → p.kind = .window → p.done = false →
        p.writes = [.s e.dest 0#32 e.bank] →
        (e.bank = false → 0 < e.dest → e.dest < 32 → (coreAt t (logical x e.core)).s.getD e.dest 0#32 = e.val) ∧
        (e.bank = true → 24 ≤ e.dest → e.dest < 32 → (coreAt t (logical x e.core)).bank.getD (e.dest - 24) 0#32 = e.val)) ∧
    (moving x = false → exec .windowResultDelivery s = .next s) ∧
    (∀ f, leastFatal u.fatals = some f → x.halt = .running → runQuiet s c r x u = true → (∀ n ∈ runCores x u, coreStopped s x u n = true ∧ (coreAt s n).cmds = [] ∧
      recordCards x r u n = false) → ∃ (t : State) (y : Ctx), exec .fatalStop s = .next t ∧
        ctxAt t c = some y ∧ runAt y r = none ∧ Spec.Posted s t x.func (fatalEvent c r u f) ∧
        (fatalEvent c r u f).take 5 = [0x70#32, BitVec.ofNat 32 (c % 64 * 2 ^ 24 + r), u.copy.getD 0 0#32, BitVec.ofNat 32 f.t,
          BitVec.ofNat 32 ((if f.privlvl then 2 ^ 31 else 0) + f.core % 2 ^ 16)] ∧
        ((fatalEvent c r u f).drop 6).take 3 = [f.epc, f.ecause, f.einfo]) ∧
    (u.fatals = [] ∨ x.halt ≠ .running ∨ runQuiet s c r x u = false ∨ (∃ n ∈ runCores x u, coreStopped s x u n = false) → exec .fatalStop s = .next s)

/-- R56, R69, R354, R358 to R361. Pre-emption: its requests, accepted, begin the halt of a context that runs, but for that of a rival which
no longer pre-empts it; 24 cycles later, and not before, the halt
completes, with the context held, or halted where it has the clusters, another context wants them and no remap or lane needs it in place; such a context
is spilled by Phodiver, with its units saved; one that may go on is restored and runs, with its scratchpad as it was saved. That a rival's request falls where
none pre-empts the context any more, and which of several holds keep a halted context in place, are the model's readings (log 31). -/
def Obligations.Preemption : Prop :=
  ∀ (s : State) (x : Ctx), let c := s.input.who
    ctxAt s c = some x →
    (∃ (t : State) (y : Ctx), exec .preEmption s = .next t ∧ ctxAt t c = some y ∧ y.preq = [] ∧
      (∀ h ∈ x.preq, (h ≠ .context ∨ outranked s c x = true) → h ∈ y.holds ∧ (x.halt = .running → y.halt = .freezing ∧ y.froze = 0)) ∧
      (∀ h ∈ x.holds, h ∈ y.holds) ∧ (x.preq = [] ∨ x.preq = [.context] ∧ outranked s c x = false → y = { x with preq := [] }) ∧
      t.cores = s.cores ∧ SameMemory s t) ∧
    (x.halt = .freezing → 24 ≤ x.froze → ∃ (t : State) (y : Ctx), exec .haltComplete s = .next t ∧ ctxAt t c = some y ∧
      (y.halt = .halted ∨ y.halt = .held) ∧ (HoldBy.lane ∉ x.holds → x.pool = [] →
        y.halt = if x.active = true ∧ HoldBy.context ∈ x.holds ∧ HoldBy.remap ∉ x.holds ∧ HoldBy.spares ∉ x.holds then .halted else .held)) ∧
    (x.halt ≠ .freezing ∨ x.froze < 24 → exec .haltComplete s = .next s) ∧
    (phodiverRuns s = true → x.halt = .halted → toSpill x = true → ∃ (t : State) (y : Ctx), exec .spill s = .next t ∧ ctxAt t c = some y ∧ y.halt = .spilled ∧
      y.saved = some (spillUnits s x) ∧ y.spills = x.spills + 1) ∧
    (x.halt ≠ .halted ∨ toSpill x = false → exec .spill s = .next s) ∧
    (phodiverRuns s = true → mayRestore s c x = true → ∃ (t : State) (y : Ctx), exec .restore s = .next t ∧ ctxAt t c = some y ∧ y.halt = .running ∧ y.saved = none ∧
      y.holds = [] ∧ (x.saved = none → t.slice = s.slice) ∧ (∀ v, x.saved = some v → t.slice = (putUnits s x v).slice)) ∧
    (mayRestore s c x = false → exec .restore s = .next s)

/-- R7, R24, R61, R67, R68, R319, R320, R358. CORE_FAILURE, while Phodiver runs: the core is marked and every context with a cluster in its row is to
be pre-empted; with no spare row left event 0x74 tells of it. ROW_REMAP, once these have halted: the lowest spare row takes the row's place with
all its failed cores, granules that could not be read are poisoned, a failed core's task is placed to run again, and event 0x73 tells of the
core. LANE_FAILURE: the contexts that use the channel are held, and its spare lane takes over once they have halted; or, with no spare lane in
that direction, the link goes out of service. -/
def Obligations.Failures : Prop :=
  ∀ (s : State), let n := s.input.who
    let spares := tgetD s.spares (dieOf n) []
    (n < 8192 → n ∉ s.failed → ∃ t : State, exec .coreFailure s = .next t ∧ n ∈ t.failed ∧ (∀ m ∈ s.failed, m ∈ t.failed) ∧
      (phodiverRuns s = true → ∀ c x, ctxAt s c = some x → touchesRow x n = true → ∃ y, ctxAt t c = some y ∧
        let h := if spares = [] then HoldBy.spares else HoldBy.remap
        (h ∈ y.preq ∨ h ∈ y.holds)) ∧
      (phodiverRuns s = true → spares = [] → ∃ e, Spec.Posted s t none e ∧
        e.take 2 = [0x74#32, BitVec.ofNat 32 (dieOf n * 2 ^ 8 + rowOf n)]) ∧ SameMemory s t) ∧
    (8192 ≤ n ∨ n ∈ s.failed → exec .coreFailure s = .next s) ∧
    (∀ p rest, phodiverRuns s = true → spares = p :: rest → n ∈ s.failed → (∀ e ∈ s.ctxs, touchesRow e.2 n = true → moving e.2 = false) →
      ∃ t : State, exec .rowRemap s = .next t ∧ tget t.rows (rowOf n) = some p ∧ tgetD t.spares (dieOf n) [] = rest ∧
      (∀ m, m ∈ t.failed ↔ m ∈ s.failed ∧ rowOf m ≠ rowOf n) ∧
      (∀ g ∈ s.input.list, g / 2 ^ 17 ∈ s.failed → rowOf (g / 2 ^ 17) = rowOf n → g ∈ t.poison) ∧ t.dram = s.dram ∧
      ∀ k x u, taskEnv s n = some (k, x, u) → (coreAt s n).acount = 0 → (∀ m ∈ s.failed, m ≠ n → rowOf m ≠ rowOf n) →
        (coreAt t n).task = none ∧ (coreAt t n).next = some { k with rerun := true } ∧
        (rest ≠ [] → ∃ e, Spec.Posted s t x.func e ∧ e.take 5 = [0x73#32, BitVec.ofNat 32 (k.ctx % 64 * 2 ^ 24 + k.ridx % 2 ^ 24),
          u.copy.getD 0 0#32, BitVec.ofNat 32 k.t, BitVec.ofNat 32 (prel x n)])) ∧
    (spares = [] ∨ n ∉ s.failed ∨ (∃ e ∈ s.ctxs, touchesRow e.2 n = true ∧ moving e.2 = true) → exec .rowRemap s = .next s) ∧
    (∀ dram l dir, phodiverRuns s = true → s.input.flag = dram → l = (if dram then n % 8192 else n % 16) → dir = s.input.sub % 2 →
      let spare := if dir = 0 then (linkAt s l).spareOut else (linkAt s l).spareIn
      (dram = true ∨ 0 < spare → ∃ t : State, exec .laneFailure s = .next t ∧ SameMemory s t ∧
        (∀ k, (linkAt t k).up = (linkAt s k).up) ∧ t.mgmt.links = s.mgmt.links ∧
        (dram = false → (linkAt t l).spareOut + (linkAt t l).spareIn + 1 = (linkAt s l).spareOut + (linkAt s l).spareIn ∧
          (if dir = 0 then (linkAt t l).spareIn = (linkAt s l).spareIn else (linkAt t l).spareOut = (linkAt s l).spareOut)) ∧
        ((∃ e ∈ s.ctxs, usesLane s (dram, l, dir) e.1 e.2 = true ∧ moving e.2 = true) → (dram, l, dir) ∈ t.lanes ∧
          ∀ c x, ctxAt s c = some x → usesLane s (dram, l, dir) c x = true → ∃ y, ctxAt t c = some y ∧
            (HoldBy.lane ∈ y.preq ∨ HoldBy.lane ∈ y.holds)) ∧
        ((∀ e ∈ s.ctxs, usesLane s (dram, l, dir) e.1 e.2 = true → moving e.2 = false) → (dram, l, dir) ∉ t.lanes ∧
          (dram = true → l ∈ t.dspare ∧ t.mgmt.dramdeg = true))) ∧
      (dram = false → spare = 0 → ∃ t : State, exec .laneFailure s = .next t ∧ SameMemory s t ∧
        (linkAt t l).up = false ∧ t.mgmt.links.getLsbD l = false ∧ t.lanes = s.lanes))

/-- R222, R228, R236, R238. The engines' other steps. EXCHANGE_COMPLETE: eight launched exchanges of which two differ in width or in transposition end
with code 4 and move nothing; fewer than eight wait; a matching set, whose received elements do not overlap, moves block m of core k to block k of
core m, transposed where TR is 1, from what every source held before, changes no other byte of the slices, and ends with each word as it is with no
granule poisoned. ENGINE_PAGE_FAULT: a command that meets a page that is not mapped stops with the next fault number of its context, and the owner,
and the function that the context is bound to, have event 0x75 (that it waits in the module queue while there is no owner is the model's reading,
log 20). -/
def Sys2Proof.Spec.EngineSteps : Prop :=
  (∀ (s : State) (ks : List (Nat × Cmd)) (x : Ctx), let cl := s.input.who
    ks = (clusterCores cl).filterMap (fun n =>
      ((coreAt s n).cmds.find? (fun e => decide (e.2.kind = .exchange) && e.2.joined && decide (e.1 ≤ (coreAt s n).seq))).map
        (fun e => (n, e.2))) →
    let young := ∀ e ∈ ks, e.2.seq < 2 ^ 30 ∧ (coreAt s e.1).seq < e.2.seq + 64
    (ks.length ≠ 8 → exec .exchangeComplete s = .next s) ∧
    (ks.length = 8 → (∀ e ∈ ks, ctxAt s e.2.ctx = some x) → (∃ a ∈ ks, ∃ b ∈ ks, a.2.srcE.width ≠ b.2.srcE.width ∨ a.2.tr ≠ b.2.tr) →
      ∃ t : State, exec .exchangeComplete s = .next t ∧ SameMemory s t ∧ ∀ e ∈ ks, tget (coreAt t e.1).cmds e.2.seq = none ∧
        (young → tget (coreAt t e.1).dones (4 * e.2.seq + 2) = some 0x40000000#32)) ∧
    (∀ width tr, ks.length = 8 → (∀ e ∈ ks, ctxAt s e.2.ctx = some x ∧ e.2.srcE.width = width ∧ e.2.dstE.width = width ∧ e.2.tr = tr) →
      0 < width → (∀ e ∈ ks, bankpOk e.2.srcE.bankp = true ∧ bankpOk e.2.dstE.bankp = true ∧ Spec.Apart e.2) →
      ∃ t : State, exec .exchangeComplete s = .next t ∧ (∀ e ∈ ks, tget (coreAt t e.1).cmds e.2.seq = none) ∧
        (∀ a ∈ ks, ∀ b ∈ ks, ∀ r < 32, ∀ c < 32,
          readElem t b.2.ctx x b.2.dstE (.slice b.1)
            (blockAt b.2.dstE b.2.dstO (slotOf a.1) (if tr then c else r) (if tr then r else c)) =
          readElem s a.2.ctx x a.2.srcE (.slice a.1) (blockAt a.2.srcE a.2.srcO (slotOf b.1) r c)) ∧
        (∀ j, (∀ e ∈ ks, ∀ b < 8, ∀ r < 32, ∀ c < 32, ∀ k ∈ elemBytes (blockAt e.2.dstE e.2.dstO b r c) width,
          sliceKey e.1 (physOff e.2.dstE.bankp k) ≠ j) → t.slice.read j = s.slice.read j) ∧
        (s.poison = [] → young → ∀ e ∈ ks, e.2.ninv = 0 → e.2.noor = 0 → tget (coreAt t e.1).dones (4 * e.2.seq + 2) = some 0#32))) ∧
  ∀ (s : State) (k : Cmd), let n := s.input.who
    let q := s.input.sub
    tget (coreAt s n).cmds q = some k → k.seq = q →
    (∀ f x, walkStep s n k = .fault f → ctxAt s k.ctx = some x → ∃ (t : State) (y : Ctx), exec .enginePageFault s = .next t ∧
      ctxAt t k.ctx = some y ∧ y.faultNo = x.faultNo + 1 ∧ SameMemory s t ∧
      (∃ e, Spec.Posted s t x.func e ∧ e.take 3 = [0x75#32, BitVec.ofNat 32 (k.ctx % 64 + f.space % 4 * 256), BitVec.ofNat 32 (x.faultNo + 1)]) ∧
      (f.caddy = false → tget (coreAt t n).cmds q = some { k with fault := some (x.faultNo + 1) } ∧
        y.faults = x.faults ++ [{ number := x.faultNo + 1, core := n, seq := q }]) ∧
      (f.caddy = true → tget (coreAt t n).cmds q = none)) ∧
    ((∀ f, walkStep s n k ≠ .fault f) → exec .enginePageFault s = .next s)

/-- R167, R168, R218. ENGINE_GRANULE_WAIT_END of a copy to a full-empty or versioned entry of a slice, at an element with which a granule begins:
while the granule is full, or its version is not reclaimed by all readers, the command waits; else, where no source of the granule's elements
faults, is poisoned or is written by them, their codes are written in one bank access that fills the granule, or gives it the command's
version, and changes no other granule, and the command goes on to the next element. -/
def Sys2Proof.Spec.EngineGranules : Prop :=
  ∀ (s : State) (k : Cmd) (x : Ctx) (m : Nat) (v : Nat → Nat), let n := s.input.who
    let q := s.input.sub
    let i := k.next
    let g := k.granAt m i
    tget (coreAt s n).cmds q = some k → k.seq = q → k.kind = .copy → ctxAt s k.ctx = some x → issuing x = true → k.fault = none →
    i < k.total → (k.dstE.fe = true ∨ k.dstE.ver = true) → homeOf x n k.dstE = .slice m → bankpOk k.dstE.bankp = true → 0 < k.dstE.width →
    (∀ j < k.total, spansGranules k.dstE (k.dstAt j) = false ∧ k.dstAt j + k.dstE.width ≤ 2 ^ 24) → (∀ j < i, k.granAt m j ≠ g) →
    (∀ j ∈ Spec.together k m i, ∃ p, takeElem s x n k j = .code (v j) false p) →
    let free := (k.dstE.fe = true → fullBit s g = false) ∧ (k.dstE.ver = true → reclaimed x k.dstE.num (k.vers + 127) = true)
    (¬free → exec .engineGranuleWaitEnd s = .next s) ∧
    (free → (∀ j ∈ Spec.together k m i, ∀ l ∈ Spec.together k m i, ∀ b ∈ elemBytes (k.srcAt j) k.srcE.width, ∀ d ∈ elemBytes (k.dstAt l) k.dstE.width,
        Spec.keyOf (placeOf x k.srcE (homeOf x n k.srcE) b) ≠ Spec.keyOf (placeOf x k.dstE (.slice m) d)) →
      ∃ t : State, exec .engineGranuleWaitEnd s = .next t ∧
        (k.dstE.fe = true → fullBit t g = true ∧ versionOf t g = versionOf s g) ∧
        (k.dstE.fe = false → versionOf t g = k.vers % 128 ∧ fullBit t g = fullBit s g) ∧
        (∀ h, h ≠ g → t.gmeta.read h = s.gmeta.read h) ∧
        ((Spec.together k m i).Pairwise (fun a b => k.dstAt a + k.dstE.width ≤ k.dstAt b ∨ k.dstAt b + k.dstE.width ≤ k.dstAt a) →
          ∀ j ∈ Spec.together k m i, readElem t k.ctx x k.dstE (.slice m) (k.dstAt j) = v j % 2 ^ k.dstE.width) ∧
        ∃ k' : Cmd, tget (coreAt t n).cmds q = some k' ∧ k'.next = i + 1)

/-- R326 to R328, R332. MESSAGE_ARRIVAL of a message on the mesh: a store with room takes it, and a full one does not; one that came from another
module is answered over its route. A reply reaches the core that waits with the message which it answers, of that context, that pair and that sequence number, and no other; an answer of HELD pauses the core's count.
MESSAGE_RETRY: a core whose message another module has refused or held, alone at its msg.send, has sent it again, and waits as it did. -/
def Sys2Proof.Spec.MessageSteps : Prop :=
  (∀ (s : State) (c : Nat) (p : Packet) (x : Ctx), let i := s.input.who
    s.input.flag = false → s.packets[i]? = some (c, p) → ctxAt s c = some x →
    (∀ v, p.body = .msg v → behind s c p.src p.dst i = false → inTransit x p.dst = false → moving x = true → duplicate x p = false →
      (p.port = none ∨ rankMod p.src ≠ moduleId x) → ∃ t : State, exec .messageArrival s = .next t ∧
      t.packets = s.packets.eraseIdx i ∧ SameMemory s t ∧
      let room := (coreAt s (placeCore x p.dst)).recvs.length < 16
      (room → (coreAt t (placeCore x p.dst)).recvs =
        (coreAt s (placeCore x p.dst)).recvs ++ [{ p with port := none, kept := false }]) ∧
      (¬room → ∀ n, (coreAt t n).recvs = (coreAt s n).recvs) ∧
      ∀ l j r, p.port = some l → sealedJob x = some j → tget j.routes (rankMod p.src) = some r → ∃ f a h q,
        (linkAt t r).retrans.getLast? = some f ∧ f.pkt = some (c, q) ∧ q.src = p.dst ∧ q.dst = p.src ∧ q.body = .reply p.seq a h ∧
        (a = .accepted ↔ room) ∧ (a = .refused ↔ ¬room)) ∧
    (∀ q a h, p.body = .reply q a h → let n := logical x (rankCore p.dst)
      ∃ t : State, exec .messageArrival s = .next t ∧ t.packets = s.packets.eraseIdx i ∧ SameMemory s t ∧
      (∀ m, m ≠ n → coreAt t m = coreAt s m) ∧
      ((coreAt s n).reply.isSome = true → Spec.sending s n c p.dst p.src q → (coreAt t n).reply = some (.answered a h) ∧
        (a = .held → ∀ w, (coreAt s n).wait = some w → w.kind = .send → (coreAt t n).wait = some { w with kind := .sendHeld })) ∧
      ((coreAt s n).reply = none ∨ ¬Spec.sending s n c p.dst p.src q → coreAt t n = coreAt s n))) ∧
  ∀ (s : State) (d a : Reg) (l : BitVec 4) (w : Waiting) (code : Word) (t : Task) (x : Ctx) (u : Run) (h : Nat) (ans : Answer), let n := s.input.who
    Spec.AtInstr s n (.msgSend d a l) code → taskEnv s n = some (t, x, u) → (coreAt s n).wait = some w → w.kind = .send ∨ w.kind = .sendHeld →
    (coreAt s n).reply = some (.answered ans h) → ans = .refused ∨ ans = .held →
    rankMod (rdS (coreAt s n) a.toNat) ≠ moduleId x → ∃ r : State, exec .messageRetry s = .next r ∧
      (coreAt r n).reply = some .sent ∧ (coreAt r n).wait = some w ∧ SameMemory s r ∧
      let src := ownRank x (prel x n)
      let dst := rdS (coreAt s n) a.toNat
      Spec.Sent s r t.ctx x { src := src, dst := dst, seq := sendSeq x src dst, body := .msg (rdV (coreAt s n) d.toNat) }

namespace Sys2Proof.Spec

/-- What the next instruction of a core waits for, of the results that are pending (R95, R96, R118). -/
def needed (sh : Shape) (c : Core) : List Pending := c.inflight.filter (fun p => !p.done && neededBy (sh.atLevel c) p)

/-- Nothing that comes before the checks of R99 holds core n back: it may run, no completion is to be delivered at a wait point of a DET context
(R225), its window may be issued in (R63), and no result that it needs comes from the record-pool controller or from a window close. -/
structure Ready (sh : Shape) (s : State) (n : Nat) (t : Task) (x : Ctx) (u : Run) : Prop where
  env     : taskEnv s n = some (t, x, u)
  runs    : canRun s n = true
  handler : x.det = true → sh.wp = true → (coreAt s n).priv = true ∨ ((coreAt s n).intr = [] ∧ ∀ e ∈ (coreAt s n).cmds, e.2.handler = none)
  window  : x.det = true → (coreAt s n).priv = false → (coreAt s n).count / (coreAt s n).cr.quant.toNat < u.window + 2
  pool    : ∀ p ∈ needed sh (coreAt s n), p.kind ≠ .pool ∧ (p.kind = .window → ∀ r ∈ (sh.atLevel (coreAt s n)).names, r ∉ p.regs)

/-- The results that are written before the instruction's own part: those that it needs and that the core itself can wait for. -/
def settled (sh : Shape) (s : State) (n : Nat) : State := updCore s n (completeNeeded (sh.atLevel (coreAt s n)))

/-- An instruction names registers and tags only, and every one that the kernel header declares (R38, R100). -/
def AllDeclared (sh : Shape) (k : Kernel) : Prop := ∀ r ∈ sh.names, ((r.file = .s ∨ r.file = .p) ∧ r.num = 0) ∨ r.num < limitOf k r.file

/-- Some words of the specification's own examples and encodings, with the instructions that they stand for (R80 to R82, R111 to R124). -/
def words : List (Word × Instr) :=
  [(0x00083283#32, .add 5#5 3#5 4#5), (0xFFFA4205#32, .addi 4#5 4#5 (-3)), (0x12345193#32, .lui 3#5 0x12345#20),
   (0x00064097#32, .jal 1#5 100#20), (0x01083415#32, .blt 3#5 4#5 8#12), (0xC002601B#32, .crc 0#5 6#5 1#12), (0x0100001D#32, .taskEnd)]

end Sys2Proof.Spec

/-- R70, R73, R74, R79. A step runs the decoded instruction: with an empty agenda, and the core that moves alone at an instruction, step is
exec of it; a step of the module on the agenda is exec of it with its input; a gang's members run the instruction together. -/
def Obligations.StepRunsDecoded : Prop :=
  (∀ (s : State) (i : Instr) (w : Word), s.agenda = [] → s.cur < 8192 → Spec.AtInstr s s.cur i w → step s = exec i s) ∧
  (∀ (s : State) (i : Instr) (y : Input) (l : List Move), s.agenda = .event i y :: l → encodeWord i = 0#32 →
    step s = exec i { s with agenda := l, input := y }) ∧
  (∀ (s : State) (g : Gang), s.agenda = [] → s.cur < 8192 → (coreAt s s.cur).trap = none → canRun s s.cur = true →
    gangOf s s.cur = some g →
    (∀ k ∈ slotOf s.cur :: g.members, (coreAt s (8 * clusterOf s.cur + k)).trap = none ∧
      (canRun s (8 * clusterOf s.cur + k) = true → boundary s (8 * clusterOf s.cur + k) = none)) →
    step s = runGang exec s s.cur g)

/-- R80, R111, R112, R114 to R116, R118, R124. The decoder reads these words of the specification as the instructions they stand for, and the
encoder gives the words back. A sanity check. -/
def Obligations.WordsDecode : Prop := ∀ e ∈ Spec.words, decodeWord e.1 = .instr e.2 ∧ encodeWord e.2 = e.1

/-- R74 to R80. Decoding the bytes of a well-formed instruction, whatever follows them, gives the instruction back with all its operands, and its
length. -/
def Obligations.RoundTrip : Prop :=
  ∀ (i : Instr) (rest : List Byte), wellFormed i = true → decodeBytes (encode i ++ rest) = some (i, (encode i).length)

/-- R74, R79. Every word that decodes is the encoding of the instruction that it decodes to, which is well formed: no two words decode alike, and no
bit of a word is ignored. -/
def Obligations.DecodeUnique : Prop :=
  (∀ (w : Word) (i : Instr), decodeWord w = .instr i → encodeWord i = w ∧ wellFormed i = true) ∧
  ∀ (bs : List Byte) (i : Instr) (n : Nat), decodeBytes bs = some (i, n) → wellFormed i = true ∧ bs.take n = encode i

/-- R1, R2. A step never refuses, and it faults only where it would move a core that the module does not have. -/
def Obligations.StepsComplete : Prop :=
  ∀ s : State, (∃ t : State, step s = .next t) ∨ ∃ n : Nat, 8192 ≤ n ∧ step s = .fault (.noSuchCore n) ∧
    ((s.agenda = [] ∧ n = s.cur) ∨ s.agenda.head? = some (.core n))

/-- R6, R7, R8, R11, R14, R21, R24. What reset leaves: MSTAT, BOOTERR, OWNER, and every master's DENIED, ARMSTAT and event queue read zero, no context
exists, every byte of every memory, full bit, version and conflict word is zero in canonical form, no core holds a task, and power-on
is the next step. -/
def Obligations.ResetState : Prop :=
  let s := State.reset
  MemoriesWf s ∧ s.mgmt.ready = false ∧ (∀ m off, (off = 0x0000 ∨ off = 0x0004 ∨ off = 0x0008 ∨ off = 0x0010 ∨ off = 0x0108 ∨ off = 0x0300) →
    readRegister s m off 4 = 0#32) ∧ ownerOf s.mgmt = 0#32 ∧ (∀ m, masterAt s m = Master.reset) ∧ (∀ c, ctxAt s c = none) ∧
  (∀ a, s.slice.read a = 0#8 ∧ s.gmeta.read a = 0#8 ∧ s.dram.read a = 0#8 ∧ s.caddy.read a = 0#8 ∧ s.host.read a = 0#8) ∧
  (∀ k, fullBit s k = false ∧ versionOf s k = 0) ∧ s.conf = [] ∧ s.poison = [] ∧ (∀ n, (coreAt s n).task = none ∧ canRun s n = false) ∧
  ∃ t : State, step s = .next t ∧ t.mgmt.ready = true ∧ t.mgmt.stage = 9#4

/-- R11, R25, and the canonical form of memory (log 6). Every step keeps the memories in canonical form. -/
def Obligations.MemoriesKept : Prop := ∀ s t : State, MemoriesWf s → step s = .next t → MemoriesWf t

/-- R63, R94 to R100. An instruction that names registers and tags only, on a core that nothing holds back: it issues when every name is declared and
no result that an earlier instruction's follower may not name is pending, at user level; an undeclared name is RESOURCE with the first such
name; a name that an instruction still within its lookahead writes is LOOKAHEAD with that instruction's parcel index, the name and the follower's
position. That of several undeclared names the first in the instruction's listing is given, of several instructions the oldest, and of its names
the first of the follower's, is the model's choice (log 49). A core whose window may not be issued in waits. -/
def Obligations.IssueRules : Prop :=
  (∀ (i : Instr) (sh : Shape) (s : State) (n : Nat) (t : Task) (x : Ctx) (u : Run), Spec.Ready sh s n t x u → (coreAt s n).priv = false →
    (∀ v m, sh.bytes v m = none) →
    (Spec.AllDeclared sh u.kernel → (∀ p ∈ (coreAt s n).inflight, p.dist < p.look → ∀ r ∈ sh.names, r ∉ p.regs) →
      issueCheck i sh s n = .go (Spec.settled sh s n)) ∧
    (¬Spec.AllDeclared sh u.kernel → ∃ (l₁ l₂ : List RName) (r : RName), sh.names = l₁ ++ r :: l₂ ∧
      (∀ q ∈ l₁, ((q.file = .s ∨ q.file = .p) ∧ q.num = 0) ∨ q.num < limitOf u.kernel q.file) ∧
      ¬(((r.file = .s ∨ r.file = .p) ∧ r.num = 0) ∨ r.num < limitOf u.kernel r.file) ∧
      issueCheck i sh s n = .trap { cause := .resource, info := BitVec.ofNat 32 (kindOf r.file * 2 ^ 28 + r.num % 2 ^ 28) }) ∧
    (Spec.AllDeclared sh u.kernel → (∃ p ∈ (coreAt s n).inflight, p.dist < p.look ∧ ∃ r ∈ sh.names, r ∈ p.regs) →
      ∃ (k₁ k₂ : List Pending) (p : Pending) (l₁ l₂ : List RName) (r : RName), (coreAt s n).inflight = k₁ ++ p :: k₂ ∧ p.dist < p.look ∧
        (∀ q ∈ k₁, q.dist < q.look → ∀ r ∈ sh.names, r ∉ q.regs) ∧ sh.names = l₁ ++ r :: l₂ ∧ (∀ q ∈ l₁, q ∉ p.regs) ∧ r ∈ p.regs ∧
        issueCheck i sh s n = .trap { cause := .lookahead, info := BitVec.ofNat 32 (p.pidx % 2 ^ 15 * 2 ^ 17 + fileOf r.file * 2 ^ 14 +
          r.num % 64 * 2 ^ 8 + (p.dist + 1) % 16) })) ∧
  ∀ (i : Instr) (sh : Shape) (s : State) (n : Nat) (t : Task) (x : Ctx) (u : Run), taskEnv s n = some (t, x, u) → canRun s n = true →
    x.det = true → sh.wp = false → (coreAt s n).priv = false → u.window + 2 ≤ (coreAt s n).count / (coreAt s n).cr.quant.toNat →
    issueCheck i sh s n = .stall .window

/-- R94 to R98. The frames of issue. An instruction that has issued: the program counter and, at user level, the count move on, and every
register, every control register, every other core and every memory is as its own effect left it. A result that becomes pending changes no
register; the results written before an instruction's own part change no memory. A trap changes no memory. -/
def Sys2Proof.Spec.IssueFrames : Prop :=
  (∀ (s1 s2 : State) (n len : Nat), let t := moveOn s1 s2 n len
    (coreAt t n).pc = (coreAt s1 n).pc + BitVec.ofNat 32 len ∧
    (coreAt t n).count = (coreAt s2 n).count + (if (coreAt s1 n).priv then 0 else 1) ∧ SameRegs (coreAt s2 n) (coreAt t n) ∧
    (coreAt t n).cr = (coreAt s2 n).cr ∧ (coreAt t n).acc = (coreAt s2 n).acc ∧ (coreAt t n).slots = (coreAt s2 n).slots ∧
    (∀ m, m ≠ n → coreAt t m = coreAt s2 m) ∧ t = { s2 with cores := t.cores }) ∧
  (∀ (s : State) (n : Nat) (k : PKind) (l : BitVec 4) (ws : List Write) (f : BitVec 5) (co : List (Nat × Nat)), let t := pend s n k l ws f co
    SameRegs (coreAt s n) (coreAt t n) ∧ (coreAt t n).cr = (coreAt s n).cr ∧ (∀ m, m ≠ n → coreAt t m = coreAt s m) ∧
    t = { s with cores := t.cores } ∧ ∃ p : Pending, (coreAt t n).inflight = (coreAt s n).inflight ++ [p] ∧ p.kind = k ∧ p.writes = ws ∧
      p.look = l.toNat ∧ p.dist = 0 ∧ p.done = false ∧ p.regs = regsOf ws) ∧
  (∀ (i : Instr) (sh : Shape) (s s1 : State), Issues i sh s s1 → s1 = Spec.settled sh s s.cur ∧ SameMemory s s1 ∧ s1.ctxs = s.ctxs ∧
    (coreAt s1 s.cur).pc = (coreAt s s.cur).pc ∧ (coreAt s1 s.cur).priv = (coreAt s s.cur).priv ∧
    ∀ m, m ≠ s.cur → coreAt s1 m = coreAt s m) ∧
  ∀ (s : State) (n : Nat) (r : TrapReq), SameMemory s (takeTrap s n r) ∧ ∀ m, m ≠ n → SameRegs (coreAt s m) (coreAt (takeTrap s n r) m)

/-- R101, R104, R346. The register files: s0 reads zero and p0 reads all ones, whatever is written; every other register reads back what was written, and
no write changes another register; at the privileged level s24 to s31 are the banked ones, and the task's own keep their values. -/
def Sys2Proof.Spec.RegisterFiles : Prop :=
  (∀ (c : Core) (r q : Nat) (x : Word), r < 32 → rdS (wrS c r x) q = if q = r then (if r = 0 then 0#32 else x) else rdS c q) ∧
  (∀ (c : Core) (r q : Nat) (x : VReg), r < 32 → rdV (wrV c r x) q = if q = r then x else rdV c q) ∧
  (∀ (c : Core) (r q : Nat) (x : Word), r < 4 → rdP (wrP c r x) q = if q = r then (if r = 0 then 0xFFFFFFFF#32 else x) else rdP c q) ∧
  (∀ (c : Core) (r : Nat) (x : Word), c.priv = true → 24 ≤ r → (wrS c r x).s = c.s) ∧
  (∀ (c : Core) (r : Nat) (x : Word), (wrS c r x).v = c.v ∧ (wrS c r x).p = c.p ∧ (wrS c r x).cr = c.cr ∧ (wrS c r x).pc = c.pc) ∧
  (∀ (c : Core) (r : Nat) (x : VReg), (wrV c r x).s = c.s ∧ (wrV c r x).p = c.p ∧ (wrV c r x).cr = c.cr ∧ (wrV c r x).bank = c.bank) ∧
  ∀ (c : Core) (r : Nat) (x : Word), (wrP c r x).s = c.s ∧ (wrP c r x).v = c.v ∧ (wrP c r x).cr = c.cr ∧ (wrP c r x).bank = c.bank

/-- Integer and compact instructions complete with the results of R80 and R111 to R114. -/
def Obligations.IntegerInstructions : Prop :=
  Spec.ScalarResults ∧ Spec.MulDivResults

/-- Branches and jumps go where R115 to R117 say. -/
def Obligations.ControlTransfers : Prop :=
  Spec.Branches ∧ Spec.Jumps

/-- crr, crw, crs and crc complete, or trap with nothing written; registers read back what they keep; FFLG only gains bits; TSTAT shows the level. -/
def Obligations.ControlRegisterInstructions : Prop :=
  Spec.ControlRegisters ∧ Spec.ControlRegisterTraps ∧ Spec.ControlRegisterValues ∧ Spec.FlagsAccrue

/-- trap, brk, eret, yield and the fences fence.t, fence.c and fence.g. -/
def Obligations.SystemInstructions : Prop :=
  Spec.SoftwareTraps ∧ Spec.Eret ∧ Spec.Yield ∧ Spec.FencesComplete

/-- A trap enters the handler, or ends its task and joins the report. -/
def Obligations.TrapEntry : Prop :=
  Spec.TrapToHandler ∧ Spec.TrapFatal

/-- task.end completes and ends the task. -/
def Obligations.TaskEnd : Prop :=
  Spec.TaskEndCompletes ∧ Spec.TaskEndEffect

/-- Vector and predicate instructions complete, or trap as FPX with nothing written. -/
def Obligations.VectorInstructions : Prop :=
  Spec.VectorCompletes ∧ Spec.VectorFpx ∧ Spec.PredicateResults

/-- The lanes of integer vector instructions and the bits of integer compares. -/
def Obligations.VectorLanes : Prop :=
  Spec.VectorIntegerLanes ∧ Spec.VectorCompareBits

/-- The lanes and NX of vector floating-point arithmetic and division; the lanes of minima, maxima, compares, vfabs and vfneg. -/
def Obligations.VectorFloats : Prop :=
  Spec.VectorArithmetic ∧ Spec.VectorOrder

/-- The lanes of vector moves and conversions. -/
def Obligations.VectorMoves : Prop :=
  Spec.VectorMoves ∧ Spec.VectorConversions

/-- The sixteen layout accesses complete, or trap as LAYOUT first. -/
def Obligations.AccessesComplete : Prop :=
  Spec.AccessCompletes ∧ Spec.AccessLayoutTrap

/-- What a layout access changes in memory, what it leaves, and the CONFLICT and POISON traps. -/
def Obligations.AccessMemory : Prop :=
  Spec.AccessMemory ∧ Spec.AccessConflicts ∧ Spec.AccessPoison

/-- lay.rd, lay.wr, lay.sel and reclaim complete. -/
def Obligations.LayoutInstructions : Prop :=
  Spec.LayoutControl ∧ Spec.ReclaimCompletes

/-- Ticketed updates and tfence complete. -/
def Obligations.TicketedInstructions : Prop :=
  Spec.TicketedComplete ∧ Spec.TfenceCompletes

/-- What a bank unit does with a ticketed update that arrives. -/
def Obligations.TicketOrder : Prop :=
  Spec.TicketArrival ∧ Spec.TicketApplied

/-- Announced operations, counted waits and mutexes complete; windows close; a stalled window traps. -/
def Obligations.AnnouncedAndWindows : Prop :=
  Spec.AnnouncedComplete ∧ Spec.WindowClose ∧ Spec.QuantumDeadlock ∧ Spec.CountedWait ∧ Spec.MutexesComplete

/-- The barrier instructions complete, and a full group is released. -/
def Obligations.Barriers : Prop :=
  Spec.BarriersComplete ∧ Spec.BarrierRelease

/-- ev.sig and ev.wait complete, and signals land. -/
def Obligations.Events : Prop :=
  Spec.EventsComplete ∧ Spec.EventLanding

/-- eng.w, eng.r, eng.wait and eng.poll complete. -/
def Obligations.EngineInstructions : Prop :=
  Spec.EngineRegisters ∧ Spec.EngineWaits

/-- LAUNCH of the copy, gather and exchange engines completes. -/
def Obligations.Launches : Prop :=
  Spec.LaunchCompletes ∧ Spec.LaunchRefused ∧ Spec.ExchangeLaunch

/-- Completions, page faults and granule waits of engine commands. -/
def Obligations.EngineSteps : Prop :=
  Spec.EngineCompletion ∧ Spec.EngineSteps ∧ Spec.EngineGranules

/-- What a copy writes to its next element, and what a slot holds. -/
def Obligations.ElementsWritten : Prop :=
  Spec.EngineMove ∧ Spec.SlotElements

/-- mx.claim, mx.rel, gang.form and gang.split complete. -/
def Obligations.SlotsAndGangs : Prop :=
  Spec.SlotClaims ∧ Spec.GangsComplete

/-- mx.fill and mx.fill.col complete. -/
def Obligations.SlotFills : Prop :=
  Spec.FillsComplete

/-- mx.acld, mx.acst, mx.zero and the regenerations complete; the elements of a regeneration. -/
def Obligations.TilesAndRegeneration : Prop :=
  Spec.TilesComplete ∧ Spec.RegenComplete ∧ Spec.RegenValues

/-- gang.mma, gang.mma.sh and gang.join complete on all eight cores at once; the product tile. -/
def Obligations.ArrayJoins : Prop :=
  Spec.ArrayJoins ∧ Spec.ProductTile

/-- prm.open, prm.query and prm.cancel complete. -/
def Obligations.PromisesOpen : Prop :=
  Spec.PromiseOpens ∧ Spec.PromiseAnswers

/-- prm.redeem, prm.redeem.t and opt.card complete. -/
def Obligations.CardsQueue : Prop :=
  Spec.PromiseRedeems ∧ Spec.CardsIssue

/-- opt.ldr, opt.wait, fence.e and fence.sp complete; cards start and complete; the strainer acts. -/
def Obligations.OptimiserSteps : Prop :=
  Spec.OptimiserWaits ∧ Spec.CardStarts ∧ Spec.CardCompletes ∧ Spec.StrainerActions

/-- msg.send and msg.recv complete. -/
def Obligations.Messages : Prop :=
  Spec.SendCompletes ∧ Spec.RecvCompletes

/-- msg.push, msg.sret, rank.rd and rank.move complete. -/
def Obligations.SlotsAndRanks : Prop :=
  Spec.SlotsComplete ∧ Spec.RanksComplete

/-- Flits, packets and messages arrive. -/
def Obligations.LinksAndPackets : Prop :=
  Spec.LinkSteps ∧ Spec.PacketsLand ∧ Spec.MessageSteps

/-- lrec.rd, lrec.patch, lrec.arm, tq.req and grp.rd complete; patches that trap; the pool controller answers. -/
def Obligations.LaunchInstructions : Prop :=
  Spec.LaunchInstructions ∧ Spec.PatchTraps ∧ Spec.PoolAnswers

/-- cnt.rd, prf.rd and trc.mark complete; filters run. -/
def Obligations.Observation : Prop :=
  Spec.Observation ∧ Spec.TraceFilters

/-- Power-on, cold reset, warm reset and over-temperature. -/
def Obligations.PowerAndResets : Prop :=
  Spec.PowerOn ∧ Spec.Resets ∧ Spec.Thermal

/-- A host link that goes down; writes to the register window and to BAR2, and what BAR2 reads. -/
def Obligations.RegisterWrites : Prop :=
  Spec.OwnerLoss ∧ Spec.RegisterWrites ∧ Spec.CaddyWrites

/-- A wait that ends has its instruction tried again; pending results are written. -/
def Obligations.WaitEnds : Prop :=
  Spec.WaitEnds ∧ Spec.ResultsArrive ∧ Spec.WatchdogTraps

/-- Tasks start, window results arrive, and a record with a fatal trap stops. -/
def Obligations.TasksAndRecords : Prop :=
  Spec.TaskStart ∧ Spec.RecordSteps

/-- What comes at an instruction boundary: traps, timers, interrupts, watchdogs. -/
def Obligations.Boundaries : Prop :=
  Spec.Boundaries ∧ Spec.QuietWatchdog

/-- What the issue of an instruction, a pending result and a trap leave unchanged; register files read back, with s0, p0 and the banks. -/
def Obligations.IssueFrames : Prop :=
  Spec.IssueFrames ∧ Spec.RegisterFiles

/-- The values of the reductions, classes, roots, approximations and Gaussian samples. -/
def Obligations.VectorValues : Prop :=
  Spec.VectorReductions ∧ Spec.VectorFunctions
end

