-- ==== Sys2Proof/Laws/Table.lean ====
section
/-! SUPPORT. Reads and writes of sparse tables and memories, and their canonical form. -/

namespace Sys2Proof.Machine

/-! ## Lookup after an update -/

@[simp] theorem tget_nil {α : Type} (k : Nat) : tget ([] : Table α) k = none := rfl

theorem tget_tdel_same {α : Type} (t : Table α) (k : Nat) : tget (tdel t k) k = none := by
  induction t with
  | nil => rfl
  | cons e t ih =>
    obtain ⟨k', v⟩ := e
    by_cases h : k' = k
    · simpa [tdel, h] using ih
    · simpa [tdel, tget, h] using ih

theorem tget_tdel_other {α : Type} (t : Table α) {k j : Nat} (h : j ≠ k) : tget (tdel t k) j = tget t j := by
  induction t with
  | nil => rfl
  | cons e t ih =>
    obtain ⟨k', v⟩ := e
    by_cases h' : k' = k
    · have : tdel ((k', v) :: t) k = tdel t k := by simp [tdel, h']
      rw [this, ih, tget, if_neg (by omega)]
    · have : tdel ((k', v) :: t) k = (k', v) :: tdel t k := by simp [tdel, h']
      rw [this]
      simp only [tget, ih]

theorem tget_tins_same {α : Type} (t : Table α) (k : Nat) (v : α) (h : tget t k = none) : tget (tins t k v) k = some v := by
  induction t with
  | nil => simp [tins, tget]
  | cons e t ih =>
    obtain ⟨k', v'⟩ := e
    unfold tget at h
    split at h
    · cases h
    · rename_i hk
      unfold tins
      split
      · simp [tget]
      · simp [tget, hk, ih h]

theorem tget_tins_other {α : Type} (t : Table α) {k j : Nat} (v : α) (h : j ≠ k) : tget (tins t k v) j = tget t j := by
  induction t with
  | nil => simp [tins, tget, Ne.symm h]
  | cons e t ih =>
    obtain ⟨k', v'⟩ := e
    unfold tins
    split
    · simp [tget, Ne.symm h]
    · simp [tget, ih]

@[simp] theorem tget_tset_same {α : Type} (t : Table α) (k : Nat) (v : α) : tget (tset t k v) k = some v :=
  tget_tins_same _ _ _ (tget_tdel_same t k)

theorem tget_tset_other {α : Type} (t : Table α) {k j : Nat} (v : α) (h : j ≠ k) : tget (tset t k v) j = tget t j :=
  (tget_tins_other _ v h).trans (tget_tdel_other t h)

theorem tget_tset {α : Type} (t : Table α) (k j : Nat) (v : α) : tget (tset t k v) j = if j = k then some v else tget t j := by
  by_cases h : j = k
  · simp [h]
  · simp [h, tget_tset_other t v h]

@[simp] theorem tgetD_tset_same {α : Type} (t : Table α) (k : Nat) (v d : α) : tgetD (tset t k v) k d = v := by simp [tgetD]

theorem tgetD_tset_other {α : Type} (t : Table α) {k j : Nat} (v d : α) (h : j ≠ k) : tgetD (tset t k v) j d = tgetD t j d := by
  simp [tgetD, tget_tset_other t v h]

theorem tdel_tins {α : Type} (t : Table α) (k : Nat) (v : α) : tdel (tins t k v) k = tdel t k := by
  induction t with
  | nil => simp [tins, tdel]
  | cons e t ih =>
    obtain ⟨k', v'⟩ := e
    unfold tins
    split
    · simp [tdel]
    · unfold tdel at ih ⊢
      simp only [List.filter_cons]
      rw [ih]

theorem tdel_tdel {α : Type} (t : Table α) (k : Nat) : tdel (tdel t k) k = tdel t k := by simp [tdel]

/-- The last of two writes to a key stands. -/
theorem tset_tset {α : Type} (t : Table α) (k : Nat) (v w : α) : tset (tset t k v) k w = tset t k w := by
  unfold tset
  rw [tdel_tins, tdel_tdel]

/-! ## Rising keys -/

/-- Every key of the table is above the bound. -/
theorem risingFrom_iff {α : Type} (p : Nat) (t : Table α) :
    risingFrom (some p) t = true ↔ (∀ e ∈ t, p < e.1) ∧ risingFrom none t = true := by
  induction t generalizing p with
  | nil => simp [risingFrom]
  | cons e t ih =>
    obtain ⟨k, v⟩ := e
    have hn : risingFrom none ((k, v) :: t) = risingFrom (some k) t := rfl
    rw [hn]
    simp only [risingFrom, Bool.and_eq_true, decide_eq_true_eq, List.mem_cons, forall_eq_or_imp]
    constructor
    · rintro ⟨h1, h2⟩
      exact ⟨⟨h1, fun e he => Nat.lt_trans h1 (((ih k).1 h2).1 e he)⟩, h2⟩
    · rintro ⟨⟨h1, _⟩, h3⟩
      exact ⟨h1, h3⟩

theorem rising_cons {α : Type} (k : Nat) (v : α) (t : Table α) :
    risingFrom none ((k, v) :: t) = true ↔ (∀ e ∈ t, k < e.1) ∧ risingFrom none t = true :=
  risingFrom_iff k t

theorem rising_filter {α : Type} (f : Nat × α → Bool) (t : Table α) (h : risingFrom none t = true) :
    risingFrom none (t.filter f) = true := by
  induction t with
  | nil => rfl
  | cons e t ih =>
    obtain ⟨k, v⟩ := e
    obtain ⟨h1, h2⟩ := (rising_cons k v t).1 h
    by_cases hf : f (k, v) = true
    · rw [List.filter_cons_of_pos hf, rising_cons]
      exact ⟨fun e he => h1 e (List.mem_of_mem_filter he), ih h2⟩
    · rw [List.filter_cons_of_neg hf]
      exact ih h2

theorem mem_tins {α : Type} {t : Table α} {k : Nat} {v : α} {e : Nat × α} (h : e ∈ tins t k v) : e = (k, v) ∨ e ∈ t := by
  induction t with
  | nil => simpa [tins] using h
  | cons a t ih =>
    obtain ⟨k', v'⟩ := a
    unfold tins at h
    split at h
    · simpa using h
    · rcases List.mem_cons.1 h with h | h
      · exact .inr (h ▸ List.mem_cons_self)
      · rcases ih h with h | h
        · exact .inl h
        · exact .inr (List.mem_cons_of_mem _ h)

theorem rising_tins {α : Type} (t : Table α) (k : Nat) (v : α) (h : risingFrom none t = true) (hk : ∀ e ∈ t, e.1 ≠ k) :
    risingFrom none (tins t k v) = true := by
  induction t with
  | nil => rfl
  | cons a t ih =>
    obtain ⟨k', v'⟩ := a
    obtain ⟨h1, h2⟩ := (rising_cons k' v' t).1 h
    have hne : k' ≠ k := hk (k', v') List.mem_cons_self
    unfold tins
    split
    · rename_i hlt
      rw [rising_cons]
      refine ⟨fun e he => ?_, h⟩
      rcases List.mem_cons.1 he with rfl | he
      · exact hlt
      · exact Nat.lt_trans hlt (h1 e he)
    · rename_i hge
      rw [rising_cons]
      refine ⟨fun e he => ?_, ih h2 (fun e he => hk e (List.mem_cons_of_mem _ he))⟩
      rcases mem_tins he with rfl | he
      · show k' < k
        omega
      · exact h1 e he

theorem key_ne_of_mem_tdel {α : Type} {t : Table α} {k : Nat} {e : Nat × α} (h : e ∈ tdel t k) : e.1 ≠ k := by
  simpa using (List.mem_filter.1 h).2

theorem rising_tdel {α : Type} (t : Table α) (k : Nat) (h : risingFrom none t = true) : risingFrom none (tdel t k) = true :=
  rising_filter _ t h

theorem rising_tset {α : Type} (t : Table α) (k : Nat) (v : α) (h : risingFrom none t = true) :
    risingFrom none (tset t k v) = true :=
  rising_tins _ k v (rising_tdel t k h) (fun _ he => key_ne_of_mem_tdel he)

/-! ## The canonical form -/

theorem swf_iff {α : Type} [DecidableEq α] (d : α) (t : Table α) :
    swf d t = true ↔ risingFrom none t = true ∧ ∀ e ∈ t, e.2 ≠ d := by
  simp [swf, List.all_eq_true]

theorem swf_sset {α : Type} [DecidableEq α] (d : α) (t : Table α) (k : Nat) (v : α) (h : swf d t = true) :
    swf d (sset d t k v) = true := by
  rw [swf_iff] at h ⊢
  obtain ⟨h1, h2⟩ := h
  unfold sset
  split
  · exact ⟨rising_tdel t k h1, fun e he => h2 e (List.mem_of_mem_filter he)⟩
  · rename_i hv
    refine ⟨rising_tset t k v h1, fun e he => ?_⟩
    rcases mem_tins he with rfl | he
    · exact hv
    · exact h2 e (List.mem_of_mem_filter he)

theorem swf_filter {α : Type} [DecidableEq α] (d : α) (f : Nat × α → Bool) (t : Table α) (h : swf d t = true) :
    swf d (t.filter f) = true := by
  rw [swf_iff] at h ⊢
  exact ⟨rising_filter f t h.1, fun e he => h.2 e (List.mem_of_mem_filter he)⟩

/-! ## Reading what was written -/

@[simp] theorem sget_sset_same {α : Type} [DecidableEq α] (d : α) (t : Table α) (k : Nat) (v : α) :
    sget d (sset d t k v) k = v := by
  unfold sset sget
  split
  · rename_i h
    simp [tget_tdel_same, h]
  · simp

theorem sget_sset_other {α : Type} [DecidableEq α] (d : α) (t : Table α) {k j : Nat} (v : α) (h : j ≠ k) :
    sget d (sset d t k v) j = sget d t j := by
  unfold sset sget
  split
  · rw [tget_tdel_other t h]
  · rw [tget_tset_other t v h]

@[simp] theorem Memory.read_write_same (m : Memory) (a : Nat) (b : Byte) : (m.write a b).read a = b :=
  sget_sset_same _ m a b

theorem Memory.read_write_other (m : Memory) {a j : Nat} (b : Byte) (h : j ≠ a) : (m.write a b).read j = m.read j :=
  sget_sset_other _ m b h

theorem Memory.wf_nil : Memory.wf [] = true := rfl

theorem Memory.wf_write (m : Memory) (a : Nat) (b : Byte) (h : m.wf = true) : (m.write a b).wf = true :=
  swf_sset _ m a b h

theorem Memory.wf_eraseRange (m : Memory) (a n : Nat) (h : m.wf = true) : Memory.wf (eraseRange m a n) = true :=
  swf_filter _ _ m h

theorem Memory.wf_writeLE (m : Memory) (a n x : Nat) (h : m.wf = true) : Memory.wf (writeLE m a n x) = true := by
  induction n generalizing m a x with
  | zero => exact h
  | succ n ih => exact ih _ _ _ (Memory.wf_write m a _ h)

theorem Memory.wf_writeW (m : Memory) (a : Nat) (w : Word) (h : m.wf = true) : Memory.wf (writeW m a w) = true :=
  Memory.wf_writeLE m a 4 _ h

theorem Memory.wf_writeBytes (m : Memory) (a : Nat) (l : List Byte) (h : m.wf = true) : Memory.wf (writeBytes m a l) = true := by
  induction l generalizing m a with
  | nil => exact h
  | cons b l ih => exact ih _ _ (Memory.wf_write m a b h)

/-- A write of n bytes leaves every other byte. -/
theorem Memory.read_writeLE_other (m : Memory) (a n x j : Nat) (h : j < a ∨ a + n ≤ j) : (writeLE m a n x).read j = m.read j := by
  induction n generalizing m a x with
  | zero => rfl
  | succ n ih =>
    have h1 : (writeLE m a (n + 1) x).read j = (writeLE (m.write a (BitVec.ofNat 8 x)) (a + 1) n (x / 256)).read j := rfl
    rw [h1, ih _ _ _ (by omega), Memory.read_write_other m _ (by omega)]

theorem Memory.read_writeW_other (m : Memory) (a j : Nat) (w : Word) (h : j < a ∨ a + 4 ≤ j) : (writeW m a w).read j = m.read j :=
  Memory.read_writeLE_other m a 4 _ j h

/-- Bytes read alike where every byte of the range is alike. -/
theorem readLE_congr {m m' : Memory} (a n : Nat) (h : ∀ j, a ≤ j → j < a + n → m.read j = m'.read j) :
    readLE m a n = readLE m' a n := by
  induction n generalizing a with
  | zero => rfl
  | succ n ih =>
    show _ + 256 * _ = _ + 256 * _
    rw [h a (by omega) (by omega), ih (a + 1) (fun j h1 h2 => h j (by omega) (by omega))]

/-- Reading back the bytes of a write gives what they hold. -/
theorem readLE_writeLE (m : Memory) (a n x : Nat) : readLE (writeLE m a n x) a n = x % 256 ^ n := by
  induction n generalizing m a x with
  | zero => simp [readLE, Nat.mod_one]
  | succ n ih =>
    have h1 : writeLE m a (n + 1) x = writeLE (m.write a (BitVec.ofNat 8 x)) (a + 1) n (x / 256) := rfl
    have h2 : (writeLE (m.write a (BitVec.ofNat 8 x)) (a + 1) n (x / 256)).read a = BitVec.ofNat 8 x := by
      rw [Memory.read_writeLE_other _ _ _ _ _ (by omega)]
      simp
    rw [h1, readLE, h2, ih]
    have h3 := Nat.mod_mul_right_div_self x 256 (256 ^ n)
    have h4 : 256 ^ (n + 1) = 256 * 256 ^ n := by rw [Nat.pow_succ, Nat.mul_comm]
    rw [h4, Nat.mod_mul, BitVec.toNat_ofNat]

@[simp] theorem readW_writeW (m : Memory) (a : Nat) (w : Word) : readW (writeW m a w) a = w := by
  unfold readW writeW
  rw [readLE_writeLE]
  apply BitVec.eq_of_toNat_eq
  have := w.isLt
  simp
  omega

end Sys2Proof.Machine
end

