-- ==== Sys2Proof/Laws/State.lean ====
section
/-! SUPPORT. What each update of the state leaves, field by field, and reading back what it put. -/

namespace Sys2Proof.Machine

/-! ## A core of the state -/

@[simp] theorem setCore_mgmt (s : State) (n : Nat) (c : Core) : (setCore s n c).mgmt = s.mgmt := rfl
@[simp] theorem setCore_boot (s : State) (n : Nat) (c : Core) : (setCore s n c).boot = s.boot := rfl
@[simp] theorem setCore_mcores (s : State) (n : Nat) (c : Core) : (setCore s n c).mcores = s.mcores := rfl
@[simp] theorem setCore_sram (s : State) (n : Nat) (c : Core) : (setCore s n c).sram = s.sram := rfl
@[simp] theorem setCore_masters (s : State) (n : Nat) (c : Core) : (setCore s n c).masters = s.masters := rfl
@[simp] theorem setCore_mboxq (s : State) (n : Nat) (c : Core) : (setCore s n c).mboxq = s.mboxq := rfl
@[simp] theorem setCore_moduleq (s : State) (n : Nat) (c : Core) : (setCore s n c).moduleq = s.moduleq := rfl
@[simp] theorem setCore_snapSeq (s : State) (n : Nat) (c : Core) : (setCore s n c).snapSeq = s.snapSeq := rfl
@[simp] theorem setCore_serial (s : State) (n : Nat) (c : Core) : (setCore s n c).serial = s.serial := rfl
@[simp] theorem setCore_signed (s : State) (n : Nat) (c : Core) : (setCore s n c).signed = s.signed := rfl
@[simp] theorem setCore_softErr (s : State) (n : Nat) (c : Core) : (setCore s n c).softErr = s.softErr := rfl
@[simp] theorem setCore_rows (s : State) (n : Nat) (c : Core) : (setCore s n c).rows = s.rows := rfl
@[simp] theorem setCore_spares (s : State) (n : Nat) (c : Core) : (setCore s n c).spares = s.spares := rfl
@[simp] theorem setCore_failed (s : State) (n : Nat) (c : Core) : (setCore s n c).failed = s.failed := rfl
@[simp] theorem setCore_lanes (s : State) (n : Nat) (c : Core) : (setCore s n c).lanes = s.lanes := rfl
@[simp] theorem setCore_dspare (s : State) (n : Nat) (c : Core) : (setCore s n c).dspare = s.dspare := rfl
@[simp] theorem setCore_links (s : State) (n : Nat) (c : Core) : (setCore s n c).links = s.links := rfl
@[simp] theorem setCore_ctxs (s : State) (n : Nat) (c : Core) : (setCore s n c).ctxs = s.ctxs := rfl
@[simp] theorem setCore_clusters (s : State) (n : Nat) (c : Core) : (setCore s n c).clusters = s.clusters := rfl
@[simp] theorem setCore_slice (s : State) (n : Nat) (c : Core) : (setCore s n c).slice = s.slice := rfl
@[simp] theorem setCore_gmeta (s : State) (n : Nat) (c : Core) : (setCore s n c).gmeta = s.gmeta := rfl
@[simp] theorem setCore_conf (s : State) (n : Nat) (c : Core) : (setCore s n c).conf = s.conf := rfl
@[simp] theorem setCore_poison (s : State) (n : Nat) (c : Core) : (setCore s n c).poison = s.poison := rfl
@[simp] theorem setCore_dram (s : State) (n : Nat) (c : Core) : (setCore s n c).dram = s.dram := rfl
@[simp] theorem setCore_dpoison (s : State) (n : Nat) (c : Core) : (setCore s n c).dpoison = s.dpoison := rfl
@[simp] theorem setCore_rowOpen (s : State) (n : Nat) (c : Core) : (setCore s n c).rowOpen = s.rowOpen := rfl
@[simp] theorem setCore_caddy (s : State) (n : Nat) (c : Core) : (setCore s n c).caddy = s.caddy := rfl
@[simp] theorem setCore_host (s : State) (n : Nat) (c : Core) : (setCore s n c).host = s.host := rfl
@[simp] theorem setCore_spill (s : State) (n : Nat) (c : Core) : (setCore s n c).spill = s.spill := rfl
@[simp] theorem setCore_marks (s : State) (n : Nat) (c : Core) : (setCore s n c).marks = s.marks := rfl
@[simp] theorem setCore_counting (s : State) (n : Nat) (c : Core) : (setCore s n c).counting = s.counting := rfl
@[simp] theorem setCore_packets (s : State) (n : Nat) (c : Core) : (setCore s n c).packets = s.packets := rfl
@[simp] theorem setCore_agenda (s : State) (n : Nat) (c : Core) : (setCore s n c).agenda = s.agenda := rfl
@[simp] theorem setCore_cur (s : State) (n : Nat) (c : Core) : (setCore s n c).cur = s.cur := rfl
@[simp] theorem setCore_input (s : State) (n : Nat) (c : Core) : (setCore s n c).input = s.input := rfl
@[simp] theorem setCore_fresh (s : State) (n : Nat) (c : Core) : (setCore s n c).fresh = s.fresh := rfl
@[simp] theorem coreAt_setCore (s : State) (n : Nat) (c : Core) : coreAt (setCore s n c) n = c := tgetD_tset_same _ _ _ _
theorem coreAt_setCore_other (s : State) {n m : Nat} (c : Core) (h : m ≠ n) : coreAt (setCore s n c) m = coreAt s m :=
  tgetD_tset_other _ _ _ h
@[simp] theorem updCore_mgmt (s : State) (n : Nat) (f : Core → Core) : (updCore s n f).mgmt = s.mgmt := rfl
@[simp] theorem updCore_boot (s : State) (n : Nat) (f : Core → Core) : (updCore s n f).boot = s.boot := rfl
@[simp] theorem updCore_mcores (s : State) (n : Nat) (f : Core → Core) : (updCore s n f).mcores = s.mcores := rfl
@[simp] theorem updCore_sram (s : State) (n : Nat) (f : Core → Core) : (updCore s n f).sram = s.sram := rfl
@[simp] theorem updCore_masters (s : State) (n : Nat) (f : Core → Core) : (updCore s n f).masters = s.masters := rfl
@[simp] theorem updCore_mboxq (s : State) (n : Nat) (f : Core → Core) : (updCore s n f).mboxq = s.mboxq := rfl
@[simp] theorem updCore_moduleq (s : State) (n : Nat) (f : Core → Core) : (updCore s n f).moduleq = s.moduleq := rfl
@[simp] theorem updCore_snapSeq (s : State) (n : Nat) (f : Core → Core) : (updCore s n f).snapSeq = s.snapSeq := rfl
@[simp] theorem updCore_serial (s : State) (n : Nat) (f : Core → Core) : (updCore s n f).serial = s.serial := rfl
@[simp] theorem updCore_signed (s : State) (n : Nat) (f : Core → Core) : (updCore s n f).signed = s.signed := rfl
@[simp] theorem updCore_softErr (s : State) (n : Nat) (f : Core → Core) : (updCore s n f).softErr = s.softErr := rfl
@[simp] theorem updCore_rows (s : State) (n : Nat) (f : Core → Core) : (updCore s n f).rows = s.rows := rfl
@[simp] theorem updCore_spares (s : State) (n : Nat) (f : Core → Core) : (updCore s n f).spares = s.spares := rfl
@[simp] theorem updCore_failed (s : State) (n : Nat) (f : Core → Core) : (updCore s n f).failed = s.failed := rfl
@[simp] theorem updCore_lanes (s : State) (n : Nat) (f : Core → Core) : (updCore s n f).lanes = s.lanes := rfl
@[simp] theorem updCore_dspare (s : State) (n : Nat) (f : Core → Core) : (updCore s n f).dspare = s.dspare := rfl
@[simp] theorem updCore_links (s : State) (n : Nat) (f : Core → Core) : (updCore s n f).links = s.links := rfl
@[simp] theorem updCore_ctxs (s : State) (n : Nat) (f : Core → Core) : (updCore s n f).ctxs = s.ctxs := rfl
@[simp] theorem updCore_clusters (s : State) (n : Nat) (f : Core → Core) : (updCore s n f).clusters = s.clusters := rfl
@[simp] theorem updCore_slice (s : State) (n : Nat) (f : Core → Core) : (updCore s n f).slice = s.slice := rfl
@[simp] theorem updCore_gmeta (s : State) (n : Nat) (f : Core → Core) : (updCore s n f).gmeta = s.gmeta := rfl
@[simp] theorem updCore_conf (s : State) (n : Nat) (f : Core → Core) : (updCore s n f).conf = s.conf := rfl
@[simp] theorem updCore_poison (s : State) (n : Nat) (f : Core → Core) : (updCore s n f).poison = s.poison := rfl
@[simp] theorem updCore_dram (s : State) (n : Nat) (f : Core → Core) : (updCore s n f).dram = s.dram := rfl
@[simp] theorem updCore_dpoison (s : State) (n : Nat) (f : Core → Core) : (updCore s n f).dpoison = s.dpoison := rfl
@[simp] theorem updCore_rowOpen (s : State) (n : Nat) (f : Core → Core) : (updCore s n f).rowOpen = s.rowOpen := rfl
@[simp] theorem updCore_caddy (s : State) (n : Nat) (f : Core → Core) : (updCore s n f).caddy = s.caddy := rfl
@[simp] theorem updCore_host (s : State) (n : Nat) (f : Core → Core) : (updCore s n f).host = s.host := rfl
@[simp] theorem updCore_spill (s : State) (n : Nat) (f : Core → Core) : (updCore s n f).spill = s.spill := rfl
@[simp] theorem updCore_marks (s : State) (n : Nat) (f : Core → Core) : (updCore s n f).marks = s.marks := rfl
@[simp] theorem updCore_counting (s : State) (n : Nat) (f : Core → Core) : (updCore s n f).counting = s.counting := rfl
@[simp] theorem updCore_packets (s : State) (n : Nat) (f : Core → Core) : (updCore s n f).packets = s.packets := rfl
@[simp] theorem updCore_agenda (s : State) (n : Nat) (f : Core → Core) : (updCore s n f).agenda = s.agenda := rfl
@[simp] theorem updCore_cur (s : State) (n : Nat) (f : Core → Core) : (updCore s n f).cur = s.cur := rfl
@[simp] theorem updCore_input (s : State) (n : Nat) (f : Core → Core) : (updCore s n f).input = s.input := rfl
@[simp] theorem updCore_fresh (s : State) (n : Nat) (f : Core → Core) : (updCore s n f).fresh = s.fresh := rfl
@[simp] theorem coreAt_updCore (s : State) (n : Nat) (f : Core → Core) : coreAt (updCore s n f) n = f (coreAt s n) := coreAt_setCore _ _ _
theorem coreAt_updCore_other (s : State) {n m : Nat} (f : Core → Core) (h : m ≠ n) : coreAt (updCore s n f) m = coreAt s m :=
  coreAt_setCore_other _ _ h
theorem setCore_setCore (s : State) (n : Nat) (c d : Core) : setCore (setCore s n c) n d = setCore s n d := by
  unfold setCore
  simp only [tset_tset]
theorem updCore_setCore (s : State) (n : Nat) (c : Core) (f : Core → Core) : updCore (setCore s n c) n f = setCore s n (f c) := by
  unfold updCore
  rw [setCore_setCore, coreAt_setCore]
theorem updCore_updCore (s : State) (n : Nat) (f g : Core → Core) : updCore (updCore s n f) n g = updCore s n (fun c => g (f c)) := by
  unfold updCore
  rw [setCore_setCore, coreAt_setCore]
@[simp] theorem ctxAt_setCore (s : State) (n c : Nat) (k : Core) : ctxAt (setCore s n k) c = ctxAt s c := rfl
@[simp] theorem ctxAt_updCore (s : State) (n c : Nat) (f : Core → Core) : ctxAt (updCore s n f) c = ctxAt s c := rfl
@[simp] theorem clusterAt_updCore (s : State) (n c : Nat) (f : Core → Core) : clusterAt (updCore s n f) c = clusterAt s c := rfl
@[simp] theorem clusterAt_setCore (s : State) (n c : Nat) (k : Core) : clusterAt (setCore s n k) c = clusterAt s c := rfl

/-! ## A cluster of the state -/

@[simp] theorem updCluster_mgmt (s : State) (n : Nat) (f : Cluster → Cluster) : (updCluster s n f).mgmt = s.mgmt := rfl
@[simp] theorem updCluster_boot (s : State) (n : Nat) (f : Cluster → Cluster) : (updCluster s n f).boot = s.boot := rfl
@[simp] theorem updCluster_mcores (s : State) (n : Nat) (f : Cluster → Cluster) : (updCluster s n f).mcores = s.mcores := rfl
@[simp] theorem updCluster_sram (s : State) (n : Nat) (f : Cluster → Cluster) : (updCluster s n f).sram = s.sram := rfl
@[simp] theorem updCluster_masters (s : State) (n : Nat) (f : Cluster → Cluster) : (updCluster s n f).masters = s.masters := rfl
@[simp] theorem updCluster_mboxq (s : State) (n : Nat) (f : Cluster → Cluster) : (updCluster s n f).mboxq = s.mboxq := rfl
@[simp] theorem updCluster_moduleq (s : State) (n : Nat) (f : Cluster → Cluster) : (updCluster s n f).moduleq = s.moduleq := rfl
@[simp] theorem updCluster_snapSeq (s : State) (n : Nat) (f : Cluster → Cluster) : (updCluster s n f).snapSeq = s.snapSeq := rfl
@[simp] theorem updCluster_serial (s : State) (n : Nat) (f : Cluster → Cluster) : (updCluster s n f).serial = s.serial := rfl
@[simp] theorem updCluster_signed (s : State) (n : Nat) (f : Cluster → Cluster) : (updCluster s n f).signed = s.signed := rfl
@[simp] theorem updCluster_softErr (s : State) (n : Nat) (f : Cluster → Cluster) : (updCluster s n f).softErr = s.softErr := rfl
@[simp] theorem updCluster_rows (s : State) (n : Nat) (f : Cluster → Cluster) : (updCluster s n f).rows = s.rows := rfl
@[simp] theorem updCluster_spares (s : State) (n : Nat) (f : Cluster → Cluster) : (updCluster s n f).spares = s.spares := rfl
@[simp] theorem updCluster_failed (s : State) (n : Nat) (f : Cluster → Cluster) : (updCluster s n f).failed = s.failed := rfl
@[simp] theorem updCluster_lanes (s : State) (n : Nat) (f : Cluster → Cluster) : (updCluster s n f).lanes = s.lanes := rfl
@[simp] theorem updCluster_dspare (s : State) (n : Nat) (f : Cluster → Cluster) : (updCluster s n f).dspare = s.dspare := rfl
@[simp] theorem updCluster_links (s : State) (n : Nat) (f : Cluster → Cluster) : (updCluster s n f).links = s.links := rfl
@[simp] theorem updCluster_ctxs (s : State) (n : Nat) (f : Cluster → Cluster) : (updCluster s n f).ctxs = s.ctxs := rfl
@[simp] theorem updCluster_cores (s : State) (n : Nat) (f : Cluster → Cluster) : (updCluster s n f).cores = s.cores := rfl
@[simp] theorem updCluster_slice (s : State) (n : Nat) (f : Cluster → Cluster) : (updCluster s n f).slice = s.slice := rfl
@[simp] theorem updCluster_gmeta (s : State) (n : Nat) (f : Cluster → Cluster) : (updCluster s n f).gmeta = s.gmeta := rfl
@[simp] theorem updCluster_conf (s : State) (n : Nat) (f : Cluster → Cluster) : (updCluster s n f).conf = s.conf := rfl
@[simp] theorem updCluster_poison (s : State) (n : Nat) (f : Cluster → Cluster) : (updCluster s n f).poison = s.poison := rfl
@[simp] theorem updCluster_dram (s : State) (n : Nat) (f : Cluster → Cluster) : (updCluster s n f).dram = s.dram := rfl
@[simp] theorem updCluster_dpoison (s : State) (n : Nat) (f : Cluster → Cluster) : (updCluster s n f).dpoison = s.dpoison := rfl
@[simp] theorem updCluster_rowOpen (s : State) (n : Nat) (f : Cluster → Cluster) : (updCluster s n f).rowOpen = s.rowOpen := rfl
@[simp] theorem updCluster_caddy (s : State) (n : Nat) (f : Cluster → Cluster) : (updCluster s n f).caddy = s.caddy := rfl
@[simp] theorem updCluster_host (s : State) (n : Nat) (f : Cluster → Cluster) : (updCluster s n f).host = s.host := rfl
@[simp] theorem updCluster_spill (s : State) (n : Nat) (f : Cluster → Cluster) : (updCluster s n f).spill = s.spill := rfl
@[simp] theorem updCluster_marks (s : State) (n : Nat) (f : Cluster → Cluster) : (updCluster s n f).marks = s.marks := rfl
@[simp] theorem updCluster_counting (s : State) (n : Nat) (f : Cluster → Cluster) : (updCluster s n f).counting = s.counting := rfl
@[simp] theorem updCluster_packets (s : State) (n : Nat) (f : Cluster → Cluster) : (updCluster s n f).packets = s.packets := rfl
@[simp] theorem updCluster_agenda (s : State) (n : Nat) (f : Cluster → Cluster) : (updCluster s n f).agenda = s.agenda := rfl
@[simp] theorem updCluster_cur (s : State) (n : Nat) (f : Cluster → Cluster) : (updCluster s n f).cur = s.cur := rfl
@[simp] theorem updCluster_input (s : State) (n : Nat) (f : Cluster → Cluster) : (updCluster s n f).input = s.input := rfl
@[simp] theorem updCluster_fresh (s : State) (n : Nat) (f : Cluster → Cluster) : (updCluster s n f).fresh = s.fresh := rfl
@[simp] theorem clusterAt_updCluster (s : State) (n : Nat) (f : Cluster → Cluster) : clusterAt (updCluster s n f) n = f (clusterAt s n) := tgetD_tset_same _ _ _ _
theorem clusterAt_updCluster_other (s : State) {n m : Nat} (f : Cluster → Cluster) (h : m ≠ n) :
    clusterAt (updCluster s n f) m = clusterAt s m := tgetD_tset_other _ _ _ h
@[simp] theorem coreAt_updCluster (s : State) (n c : Nat) (f : Cluster → Cluster) : coreAt (updCluster s n f) c = coreAt s c := rfl
@[simp] theorem ctxAt_updCluster (s : State) (n c : Nat) (f : Cluster → Cluster) : ctxAt (updCluster s n f) c = ctxAt s c := rfl

/-! ## A context of the state -/

@[simp] theorem setCtx_mgmt (s : State) (c : Nat) (x : Ctx) : (setCtx s c x).mgmt = s.mgmt := rfl
@[simp] theorem setCtx_boot (s : State) (c : Nat) (x : Ctx) : (setCtx s c x).boot = s.boot := rfl
@[simp] theorem setCtx_mcores (s : State) (c : Nat) (x : Ctx) : (setCtx s c x).mcores = s.mcores := rfl
@[simp] theorem setCtx_sram (s : State) (c : Nat) (x : Ctx) : (setCtx s c x).sram = s.sram := rfl
@[simp] theorem setCtx_masters (s : State) (c : Nat) (x : Ctx) : (setCtx s c x).masters = s.masters := rfl
@[simp] theorem setCtx_mboxq (s : State) (c : Nat) (x : Ctx) : (setCtx s c x).mboxq = s.mboxq := rfl
@[simp] theorem setCtx_moduleq (s : State) (c : Nat) (x : Ctx) : (setCtx s c x).moduleq = s.moduleq := rfl
@[simp] theorem setCtx_snapSeq (s : State) (c : Nat) (x : Ctx) : (setCtx s c x).snapSeq = s.snapSeq := rfl
@[simp] theorem setCtx_serial (s : State) (c : Nat) (x : Ctx) : (setCtx s c x).serial = s.serial := rfl
@[simp] theorem setCtx_signed (s : State) (c : Nat) (x : Ctx) : (setCtx s c x).signed = s.signed := rfl
@[simp] theorem setCtx_softErr (s : State) (c : Nat) (x : Ctx) : (setCtx s c x).softErr = s.softErr := rfl
@[simp] theorem setCtx_rows (s : State) (c : Nat) (x : Ctx) : (setCtx s c x).rows = s.rows := rfl
@[simp] theorem setCtx_spares (s : State) (c : Nat) (x : Ctx) : (setCtx s c x).spares = s.spares := rfl
@[simp] theorem setCtx_failed (s : State) (c : Nat) (x : Ctx) : (setCtx s c x).failed = s.failed := rfl
@[simp] theorem setCtx_lanes (s : State) (c : Nat) (x : Ctx) : (setCtx s c x).lanes = s.lanes := rfl
@[simp] theorem setCtx_dspare (s : State) (c : Nat) (x : Ctx) : (setCtx s c x).dspare = s.dspare := rfl
@[simp] theorem setCtx_links (s : State) (c : Nat) (x : Ctx) : (setCtx s c x).links = s.links := rfl
@[simp] theorem setCtx_clusters (s : State) (c : Nat) (x : Ctx) : (setCtx s c x).clusters = s.clusters := rfl
@[simp] theorem setCtx_cores (s : State) (c : Nat) (x : Ctx) : (setCtx s c x).cores = s.cores := rfl
@[simp] theorem setCtx_slice (s : State) (c : Nat) (x : Ctx) : (setCtx s c x).slice = s.slice := rfl
@[simp] theorem setCtx_gmeta (s : State) (c : Nat) (x : Ctx) : (setCtx s c x).gmeta = s.gmeta := rfl
@[simp] theorem setCtx_conf (s : State) (c : Nat) (x : Ctx) : (setCtx s c x).conf = s.conf := rfl
@[simp] theorem setCtx_poison (s : State) (c : Nat) (x : Ctx) : (setCtx s c x).poison = s.poison := rfl
@[simp] theorem setCtx_dram (s : State) (c : Nat) (x : Ctx) : (setCtx s c x).dram = s.dram := rfl
@[simp] theorem setCtx_dpoison (s : State) (c : Nat) (x : Ctx) : (setCtx s c x).dpoison = s.dpoison := rfl
@[simp] theorem setCtx_rowOpen (s : State) (c : Nat) (x : Ctx) : (setCtx s c x).rowOpen = s.rowOpen := rfl
@[simp] theorem setCtx_caddy (s : State) (c : Nat) (x : Ctx) : (setCtx s c x).caddy = s.caddy := rfl
@[simp] theorem setCtx_host (s : State) (c : Nat) (x : Ctx) : (setCtx s c x).host = s.host := rfl
@[simp] theorem setCtx_spill (s : State) (c : Nat) (x : Ctx) : (setCtx s c x).spill = s.spill := rfl
@[simp] theorem setCtx_marks (s : State) (c : Nat) (x : Ctx) : (setCtx s c x).marks = s.marks := rfl
@[simp] theorem setCtx_counting (s : State) (c : Nat) (x : Ctx) : (setCtx s c x).counting = s.counting := rfl
@[simp] theorem setCtx_packets (s : State) (c : Nat) (x : Ctx) : (setCtx s c x).packets = s.packets := rfl
@[simp] theorem setCtx_agenda (s : State) (c : Nat) (x : Ctx) : (setCtx s c x).agenda = s.agenda := rfl
@[simp] theorem setCtx_cur (s : State) (c : Nat) (x : Ctx) : (setCtx s c x).cur = s.cur := rfl
@[simp] theorem setCtx_input (s : State) (c : Nat) (x : Ctx) : (setCtx s c x).input = s.input := rfl
@[simp] theorem setCtx_fresh (s : State) (c : Nat) (x : Ctx) : (setCtx s c x).fresh = s.fresh := rfl
@[simp] theorem ctxAt_setCtx (s : State) (c : Nat) (x : Ctx) : ctxAt (setCtx s c x) c = some x := tget_tset_same _ _ _
theorem ctxAt_setCtx_other (s : State) {c d : Nat} (x : Ctx) (h : d ≠ c) : ctxAt (setCtx s c x) d = ctxAt s d :=
  tget_tset_other _ _ h
@[simp] theorem coreAt_setCtx (s : State) (c n : Nat) (x : Ctx) : coreAt (setCtx s c x) n = coreAt s n := rfl
@[simp] theorem clusterAt_setCtx (s : State) (c n : Nat) (x : Ctx) : clusterAt (setCtx s c x) n = clusterAt s n := rfl
@[simp] theorem updCtx_mgmt (s : State) (c : Nat) (f : Ctx → Ctx) : (updCtx s c f).mgmt = s.mgmt := by
  unfold updCtx; split <;> rfl
@[simp] theorem updCtx_boot (s : State) (c : Nat) (f : Ctx → Ctx) : (updCtx s c f).boot = s.boot := by
  unfold updCtx; split <;> rfl
@[simp] theorem updCtx_mcores (s : State) (c : Nat) (f : Ctx → Ctx) : (updCtx s c f).mcores = s.mcores := by
  unfold updCtx; split <;> rfl
@[simp] theorem updCtx_sram (s : State) (c : Nat) (f : Ctx → Ctx) : (updCtx s c f).sram = s.sram := by
  unfold updCtx; split <;> rfl
@[simp] theorem updCtx_masters (s : State) (c : Nat) (f : Ctx → Ctx) : (updCtx s c f).masters = s.masters := by
  unfold updCtx; split <;> rfl
@[simp] theorem updCtx_mboxq (s : State) (c : Nat) (f : Ctx → Ctx) : (updCtx s c f).mboxq = s.mboxq := by
  unfold updCtx; split <;> rfl
@[simp] theorem updCtx_moduleq (s : State) (c : Nat) (f : Ctx → Ctx) : (updCtx s c f).moduleq = s.moduleq := by
  unfold updCtx; split <;> rfl
@[simp] theorem updCtx_snapSeq (s : State) (c : Nat) (f : Ctx → Ctx) : (updCtx s c f).snapSeq = s.snapSeq := by
  unfold updCtx; split <;> rfl
@[simp] theorem updCtx_serial (s : State) (c : Nat) (f : Ctx → Ctx) : (updCtx s c f).serial = s.serial := by
  unfold updCtx; split <;> rfl
@[simp] theorem updCtx_signed (s : State) (c : Nat) (f : Ctx → Ctx) : (updCtx s c f).signed = s.signed := by
  unfold updCtx; split <;> rfl
@[simp] theorem updCtx_softErr (s : State) (c : Nat) (f : Ctx → Ctx) : (updCtx s c f).softErr = s.softErr := by
  unfold updCtx; split <;> rfl
@[simp] theorem updCtx_rows (s : State) (c : Nat) (f : Ctx → Ctx) : (updCtx s c f).rows = s.rows := by
  unfold updCtx; split <;> rfl
@[simp] theorem updCtx_spares (s : State) (c : Nat) (f : Ctx → Ctx) : (updCtx s c f).spares = s.spares := by
  unfold updCtx; split <;> rfl
@[simp] theorem updCtx_failed (s : State) (c : Nat) (f : Ctx → Ctx) : (updCtx s c f).failed = s.failed := by
  unfold updCtx; split <;> rfl
@[simp] theorem updCtx_lanes (s : State) (c : Nat) (f : Ctx → Ctx) : (updCtx s c f).lanes = s.lanes := by
  unfold updCtx; split <;> rfl
@[simp] theorem updCtx_dspare (s : State) (c : Nat) (f : Ctx → Ctx) : (updCtx s c f).dspare = s.dspare := by
  unfold updCtx; split <;> rfl
@[simp] theorem updCtx_links (s : State) (c : Nat) (f : Ctx → Ctx) : (updCtx s c f).links = s.links := by
  unfold updCtx; split <;> rfl
@[simp] theorem updCtx_clusters (s : State) (c : Nat) (f : Ctx → Ctx) : (updCtx s c f).clusters = s.clusters := by
  unfold updCtx; split <;> rfl
@[simp] theorem updCtx_cores (s : State) (c : Nat) (f : Ctx → Ctx) : (updCtx s c f).cores = s.cores := by
  unfold updCtx; split <;> rfl
@[simp] theorem updCtx_slice (s : State) (c : Nat) (f : Ctx → Ctx) : (updCtx s c f).slice = s.slice := by
  unfold updCtx; split <;> rfl
@[simp] theorem updCtx_gmeta (s : State) (c : Nat) (f : Ctx → Ctx) : (updCtx s c f).gmeta = s.gmeta := by
  unfold updCtx; split <;> rfl
@[simp] theorem updCtx_conf (s : State) (c : Nat) (f : Ctx → Ctx) : (updCtx s c f).conf = s.conf := by
  unfold updCtx; split <;> rfl
@[simp] theorem updCtx_poison (s : State) (c : Nat) (f : Ctx → Ctx) : (updCtx s c f).poison = s.poison := by
  unfold updCtx; split <;> rfl
@[simp] theorem updCtx_dram (s : State) (c : Nat) (f : Ctx → Ctx) : (updCtx s c f).dram = s.dram := by
  unfold updCtx; split <;> rfl
@[simp] theorem updCtx_dpoison (s : State) (c : Nat) (f : Ctx → Ctx) : (updCtx s c f).dpoison = s.dpoison := by
  unfold updCtx; split <;> rfl
@[simp] theorem updCtx_rowOpen (s : State) (c : Nat) (f : Ctx → Ctx) : (updCtx s c f).rowOpen = s.rowOpen := by
  unfold updCtx; split <;> rfl
@[simp] theorem updCtx_caddy (s : State) (c : Nat) (f : Ctx → Ctx) : (updCtx s c f).caddy = s.caddy := by
  unfold updCtx; split <;> rfl
@[simp] theorem updCtx_host (s : State) (c : Nat) (f : Ctx → Ctx) : (updCtx s c f).host = s.host := by
  unfold updCtx; split <;> rfl
@[simp] theorem updCtx_spill (s : State) (c : Nat) (f : Ctx → Ctx) : (updCtx s c f).spill = s.spill := by
  unfold updCtx; split <;> rfl
@[simp] theorem updCtx_marks (s : State) (c : Nat) (f : Ctx → Ctx) : (updCtx s c f).marks = s.marks := by
  unfold updCtx; split <;> rfl
@[simp] theorem updCtx_counting (s : State) (c : Nat) (f : Ctx → Ctx) : (updCtx s c f).counting = s.counting := by
  unfold updCtx; split <;> rfl
@[simp] theorem updCtx_packets (s : State) (c : Nat) (f : Ctx → Ctx) : (updCtx s c f).packets = s.packets := by
  unfold updCtx; split <;> rfl
@[simp] theorem updCtx_agenda (s : State) (c : Nat) (f : Ctx → Ctx) : (updCtx s c f).agenda = s.agenda := by
  unfold updCtx; split <;> rfl
@[simp] theorem updCtx_cur (s : State) (c : Nat) (f : Ctx → Ctx) : (updCtx s c f).cur = s.cur := by
  unfold updCtx; split <;> rfl
@[simp] theorem updCtx_input (s : State) (c : Nat) (f : Ctx → Ctx) : (updCtx s c f).input = s.input := by
  unfold updCtx; split <;> rfl
@[simp] theorem updCtx_fresh (s : State) (c : Nat) (f : Ctx → Ctx) : (updCtx s c f).fresh = s.fresh := by
  unfold updCtx; split <;> rfl
@[simp] theorem ctxAt_updCtx (s : State) (c : Nat) (f : Ctx → Ctx) : ctxAt (updCtx s c f) c = (ctxAt s c).map f := by
  unfold updCtx
  split <;> rename_i h <;> simp [h]
theorem ctxAt_updCtx_other (s : State) {c d : Nat} (f : Ctx → Ctx) (h : d ≠ c) : ctxAt (updCtx s c f) d = ctxAt s d := by
  unfold updCtx
  split
  · exact ctxAt_setCtx_other s _ h
  · rfl
@[simp] theorem coreAt_updCtx (s : State) (c n : Nat) (f : Ctx → Ctx) : coreAt (updCtx s c f) n = coreAt s n := by
  unfold coreAt; rw [updCtx_cores]
@[simp] theorem clusterAt_updCtx (s : State) (c n : Nat) (f : Ctx → Ctx) : clusterAt (updCtx s c f) n = clusterAt s n := by
  unfold clusterAt; rw [updCtx_clusters]

/-! ## Registers of a core -/

@[simp] theorem putS_image (c : Core) (r : Nat) (x : Word) (b : Bool) : (putS c r x b).image = c.image := by
  unfold putS; split <;> [rfl; split <;> rfl]
@[simp] theorem putS_imem (c : Core) (r : Nat) (x : Word) (b : Bool) : (putS c r x b).imem = c.imem := by
  unfold putS; split <;> [rfl; split <;> rfl]
@[simp] theorem putS_hmem (c : Core) (r : Nat) (x : Word) (b : Bool) : (putS c r x b).hmem = c.hmem := by
  unfold putS; split <;> [rfl; split <;> rfl]
@[simp] theorem putS_hlen (c : Core) (r : Nat) (x : Word) (b : Bool) : (putS c r x b).hlen = c.hlen := by
  unfold putS; split <;> [rfl; split <;> rfl]
@[simp] theorem putS_task (c : Core) (r : Nat) (x : Word) (b : Bool) : (putS c r x b).task = c.task := by
  unfold putS; split <;> [rfl; split <;> rfl]
@[simp] theorem putS_next (c : Core) (r : Nat) (x : Word) (b : Bool) : (putS c r x b).next = c.next := by
  unfold putS; split <;> [rfl; split <;> rfl]
@[simp] theorem putS_pc (c : Core) (r : Nat) (x : Word) (b : Bool) : (putS c r x b).pc = c.pc := by
  unfold putS; split <;> [rfl; split <;> rfl]
@[simp] theorem putS_v (c : Core) (r : Nat) (x : Word) (b : Bool) : (putS c r x b).v = c.v := by
  unfold putS; split <;> [rfl; split <;> rfl]
@[simp] theorem putS_p (c : Core) (r : Nat) (x : Word) (b : Bool) : (putS c r x b).p = c.p := by
  unfold putS; split <;> [rfl; split <;> rfl]
@[simp] theorem putS_cr (c : Core) (r : Nat) (x : Word) (b : Bool) : (putS c r x b).cr = c.cr := by
  unfold putS; split <;> [rfl; split <;> rfl]
@[simp] theorem putS_priv (c : Core) (r : Nat) (x : Word) (b : Bool) : (putS c r x b).priv = c.priv := by
  unfold putS; split <;> [rfl; split <;> rfl]
@[simp] theorem putS_iact (c : Core) (r : Nat) (x : Word) (b : Bool) : (putS c r x b).iact = c.iact := by
  unfold putS; split <;> [rfl; split <;> rfl]
@[simp] theorem putS_timerHnd (c : Core) (r : Nat) (x : Word) (b : Bool) : (putS c r x b).timerHnd = c.timerHnd := by
  unfold putS; split <;> [rfl; split <;> rfl]
@[simp] theorem putS_timerDue (c : Core) (r : Nat) (x : Word) (b : Bool) : (putS c r x b).timerDue = c.timerDue := by
  unfold putS; split <;> [rfl; split <;> rfl]
@[simp] theorem putS_count (c : Core) (r : Nat) (x : Word) (b : Bool) : (putS c r x b).count = c.count := by
  unfold putS; split <;> [rfl; split <;> rfl]
@[simp] theorem putS_gcount (c : Core) (r : Nat) (x : Word) (b : Bool) : (putS c r x b).gcount = c.gcount := by
  unfold putS; split <;> [rfl; split <;> rfl]
@[simp] theorem putS_acount (c : Core) (r : Nat) (x : Word) (b : Bool) : (putS c r x b).acount = c.acount := by
  unfold putS; split <;> [rfl; split <;> rfl]
@[simp] theorem putS_seq (c : Core) (r : Nat) (x : Word) (b : Bool) : (putS c r x b).seq = c.seq := by
  unfold putS; split <;> [rfl; split <;> rfl]
@[simp] theorem putS_xcount (c : Core) (r : Nat) (x : Word) (b : Bool) : (putS c r x b).xcount = c.xcount := by
  unfold putS; split <;> [rfl; split <;> rfl]
@[simp] theorem putS_inflight (c : Core) (r : Nat) (x : Word) (b : Bool) : (putS c r x b).inflight = c.inflight := by
  unfold putS; split <;> [rfl; split <;> rfl]
@[simp] theorem putS_opbuf (c : Core) (r : Nat) (x : Word) (b : Bool) : (putS c r x b).opbuf = c.opbuf := by
  unfold putS; split <;> [rfl; split <;> rfl]
@[simp] theorem putS_wait (c : Core) (r : Nat) (x : Word) (b : Bool) : (putS c r x b).wait = c.wait := by
  unfold putS; split <;> [rfl; split <;> rfl]
@[simp] theorem putS_trap (c : Core) (r : Nat) (x : Word) (b : Bool) : (putS c r x b).trap = c.trap := by
  unfold putS; split <;> [rfl; split <;> rfl]
@[simp] theorem putS_extra (c : Core) (r : Nat) (x : Word) (b : Bool) : (putS c r x b).extra = c.extra := by
  unfold putS; split <;> [rfl; split <;> rfl]
@[simp] theorem putS_afaults (c : Core) (r : Nat) (x : Word) (b : Bool) : (putS c r x b).afaults = c.afaults := by
  unfold putS; split <;> [rfl; split <;> rfl]
@[simp] theorem putS_overlay (c : Core) (r : Nat) (x : Word) (b : Bool) : (putS c r x b).overlay = c.overlay := by
  unfold putS; split <;> [rfl; split <;> rfl]
@[simp] theorem putS_shadow (c : Core) (r : Nat) (x : Word) (b : Bool) : (putS c r x b).shadow = c.shadow := by
  unfold putS; split <;> [rfl; split <;> rfl]
@[simp] theorem putS_cmds (c : Core) (r : Nat) (x : Word) (b : Bool) : (putS c r x b).cmds = c.cmds := by
  unfold putS; split <;> [rfl; split <;> rfl]
@[simp] theorem putS_dones (c : Core) (r : Nat) (x : Word) (b : Bool) : (putS c r x b).dones = c.dones := by
  unfold putS; split <;> [rfl; split <;> rfl]
@[simp] theorem putS_intr (c : Core) (r : Nat) (x : Word) (b : Bool) : (putS c r x b).intr = c.intr := by
  unfold putS; split <;> [rfl; split <;> rfl]
@[simp] theorem putS_slots (c : Core) (r : Nat) (x : Word) (b : Bool) : (putS c r x b).slots = c.slots := by
  unfold putS; split <;> [rfl; split <;> rfl]
@[simp] theorem putS_tags (c : Core) (r : Nat) (x : Word) (b : Bool) : (putS c r x b).tags = c.tags := by
  unfold putS; split <;> [rfl; split <;> rfl]
@[simp] theorem putS_acc (c : Core) (r : Nat) (x : Word) (b : Bool) : (putS c r x b).acc = c.acc := by
  unfold putS; split <;> [rfl; split <;> rfl]
@[simp] theorem putS_accPoison (c : Core) (r : Nat) (x : Word) (b : Bool) : (putS c r x b).accPoison = c.accPoison := by
  unfold putS; split <;> [rfl; split <;> rfl]
@[simp] theorem putS_opcache (c : Core) (r : Nat) (x : Word) (b : Bool) : (putS c r x b).opcache = c.opcache := by
  unfold putS; split <;> [rfl; split <;> rfl]
@[simp] theorem putS_join (c : Core) (r : Nat) (x : Word) (b : Bool) : (putS c r x b).join = c.join := by
  unfold putS; split <;> [rfl; split <;> rfl]
@[simp] theorem putS_arrived (c : Core) (r : Nat) (x : Word) (b : Bool) : (putS c r x b).arrived = c.arrived := by
  unfold putS; split <;> [rfl; split <;> rfl]
@[simp] theorem putS_cwait (c : Core) (r : Nat) (x : Word) (b : Bool) : (putS c r x b).cwait = c.cwait := by
  unfold putS; split <;> [rfl; split <;> rfl]
@[simp] theorem putS_rob (c : Core) (r : Nat) (x : Word) (b : Bool) : (putS c r x b).rob = c.rob := by
  unfold putS; split <;> [rfl; split <;> rfl]
@[simp] theorem putS_trackers (c : Core) (r : Nat) (x : Word) (b : Bool) : (putS c r x b).trackers = c.trackers := by
  unfold putS; split <;> [rfl; split <;> rfl]
@[simp] theorem putS_mutexq (c : Core) (r : Nat) (x : Word) (b : Bool) : (putS c r x b).mutexq = c.mutexq := by
  unfold putS; split <;> [rfl; split <;> rfl]
@[simp] theorem putS_mutexes (c : Core) (r : Nat) (x : Word) (b : Bool) : (putS c r x b).mutexes = c.mutexes := by
  unfold putS; split <;> [rfl; split <;> rfl]
@[simp] theorem putS_recvs (c : Core) (r : Nat) (x : Word) (b : Bool) : (putS c r x b).recvs = c.recvs := by
  unfold putS; split <;> [rfl; split <;> rfl]
@[simp] theorem putS_credits (c : Core) (r : Nat) (x : Word) (b : Bool) : (putS c r x b).credits = c.credits := by
  unfold putS; split <;> [rfl; split <;> rfl]
@[simp] theorem putS_sent (c : Core) (r : Nat) (x : Word) (b : Bool) : (putS c r x b).sent = c.sent := by
  unfold putS; split <;> [rfl; split <;> rfl]
@[simp] theorem putS_lastSrc (c : Core) (r : Nat) (x : Word) (b : Bool) : (putS c r x b).lastSrc = c.lastSrc := by
  unfold putS; split <;> [rfl; split <;> rfl]
@[simp] theorem putS_reply (c : Core) (r : Nat) (x : Word) (b : Bool) : (putS c r x b).reply = c.reply := by
  unfold putS; split <;> [rfl; split <;> rfl]
@[simp] theorem putS_counters (c : Core) (r : Nat) (x : Word) (b : Bool) : (putS c r x b).counters = c.counters := by
  unfold putS; split <;> [rfl; split <;> rfl]
@[simp] theorem putS_delaySum (c : Core) (r : Nat) (x : Word) (b : Bool) : (putS c r x b).delaySum = c.delaySum := by
  unfold putS; split <;> [rfl; split <;> rfl]
@[simp] theorem putS_delayNum (c : Core) (r : Nat) (x : Word) (b : Bool) : (putS c r x b).delayNum = c.delayNum := by
  unfold putS; split <;> [rfl; split <;> rfl]
@[simp] theorem putS_cyc (c : Core) (r : Nat) (x : Word) (b : Bool) : (putS c r x b).cyc = c.cyc := by
  unfold putS; split <;> [rfl; split <;> rfl]
@[simp] theorem putS_traceq (c : Core) (r : Nat) (x : Word) (b : Bool) : (putS c r x b).traceq = c.traceq := by
  unfold putS; split <;> [rfl; split <;> rfl]
@[simp] theorem putS_traceDrop (c : Core) (r : Nat) (x : Word) (b : Bool) : (putS c r x b).traceDrop = c.traceDrop := by
  unfold putS; split <;> [rfl; split <;> rfl]
@[simp] theorem putS_dbgHeld (c : Core) (r : Nat) (x : Word) (b : Bool) : (putS c r x b).dbgHeld = c.dbgHeld := by
  unfold putS; split <;> [rfl; split <;> rfl]
@[simp] theorem wrS_image (c : Core) (r : Nat) (x : Word) : (wrS c r x).image = c.image := putS_image _ _ _ _
@[simp] theorem wrS_imem (c : Core) (r : Nat) (x : Word) : (wrS c r x).imem = c.imem := putS_imem _ _ _ _
@[simp] theorem wrS_hmem (c : Core) (r : Nat) (x : Word) : (wrS c r x).hmem = c.hmem := putS_hmem _ _ _ _
@[simp] theorem wrS_hlen (c : Core) (r : Nat) (x : Word) : (wrS c r x).hlen = c.hlen := putS_hlen _ _ _ _
@[simp] theorem wrS_task (c : Core) (r : Nat) (x : Word) : (wrS c r x).task = c.task := putS_task _ _ _ _
@[simp] theorem wrS_next (c : Core) (r : Nat) (x : Word) : (wrS c r x).next = c.next := putS_next _ _ _ _
@[simp] theorem wrS_pc (c : Core) (r : Nat) (x : Word) : (wrS c r x).pc = c.pc := putS_pc _ _ _ _
@[simp] theorem wrS_v (c : Core) (r : Nat) (x : Word) : (wrS c r x).v = c.v := putS_v _ _ _ _
@[simp] theorem wrS_p (c : Core) (r : Nat) (x : Word) : (wrS c r x).p = c.p := putS_p _ _ _ _
@[simp] theorem wrS_cr (c : Core) (r : Nat) (x : Word) : (wrS c r x).cr = c.cr := putS_cr _ _ _ _
@[simp] theorem wrS_priv (c : Core) (r : Nat) (x : Word) : (wrS c r x).priv = c.priv := putS_priv _ _ _ _
@[simp] theorem wrS_iact (c : Core) (r : Nat) (x : Word) : (wrS c r x).iact = c.iact := putS_iact _ _ _ _
@[simp] theorem wrS_timerHnd (c : Core) (r : Nat) (x : Word) : (wrS c r x).timerHnd = c.timerHnd := putS_timerHnd _ _ _ _
@[simp] theorem wrS_timerDue (c : Core) (r : Nat) (x : Word) : (wrS c r x).timerDue = c.timerDue := putS_timerDue _ _ _ _
@[simp] theorem wrS_count (c : Core) (r : Nat) (x : Word) : (wrS c r x).count = c.count := putS_count _ _ _ _
@[simp] theorem wrS_gcount (c : Core) (r : Nat) (x : Word) : (wrS c r x).gcount = c.gcount := putS_gcount _ _ _ _
@[simp] theorem wrS_acount (c : Core) (r : Nat) (x : Word) : (wrS c r x).acount = c.acount := putS_acount _ _ _ _
@[simp] theorem wrS_seq (c : Core) (r : Nat) (x : Word) : (wrS c r x).seq = c.seq := putS_seq _ _ _ _
@[simp] theorem wrS_xcount (c : Core) (r : Nat) (x : Word) : (wrS c r x).xcount = c.xcount := putS_xcount _ _ _ _
@[simp] theorem wrS_inflight (c : Core) (r : Nat) (x : Word) : (wrS c r x).inflight = c.inflight := putS_inflight _ _ _ _
@[simp] theorem wrS_opbuf (c : Core) (r : Nat) (x : Word) : (wrS c r x).opbuf = c.opbuf := putS_opbuf _ _ _ _
@[simp] theorem wrS_wait (c : Core) (r : Nat) (x : Word) : (wrS c r x).wait = c.wait := putS_wait _ _ _ _
@[simp] theorem wrS_trap (c : Core) (r : Nat) (x : Word) : (wrS c r x).trap = c.trap := putS_trap _ _ _ _
@[simp] theorem wrS_extra (c : Core) (r : Nat) (x : Word) : (wrS c r x).extra = c.extra := putS_extra _ _ _ _
@[simp] theorem wrS_afaults (c : Core) (r : Nat) (x : Word) : (wrS c r x).afaults = c.afaults := putS_afaults _ _ _ _
@[simp] theorem wrS_overlay (c : Core) (r : Nat) (x : Word) : (wrS c r x).overlay = c.overlay := putS_overlay _ _ _ _
@[simp] theorem wrS_shadow (c : Core) (r : Nat) (x : Word) : (wrS c r x).shadow = c.shadow := putS_shadow _ _ _ _
@[simp] theorem wrS_cmds (c : Core) (r : Nat) (x : Word) : (wrS c r x).cmds = c.cmds := putS_cmds _ _ _ _
@[simp] theorem wrS_dones (c : Core) (r : Nat) (x : Word) : (wrS c r x).dones = c.dones := putS_dones _ _ _ _
@[simp] theorem wrS_intr (c : Core) (r : Nat) (x : Word) : (wrS c r x).intr = c.intr := putS_intr _ _ _ _
@[simp] theorem wrS_slots (c : Core) (r : Nat) (x : Word) : (wrS c r x).slots = c.slots := putS_slots _ _ _ _
@[simp] theorem wrS_tags (c : Core) (r : Nat) (x : Word) : (wrS c r x).tags = c.tags := putS_tags _ _ _ _
@[simp] theorem wrS_acc (c : Core) (r : Nat) (x : Word) : (wrS c r x).acc = c.acc := putS_acc _ _ _ _
@[simp] theorem wrS_accPoison (c : Core) (r : Nat) (x : Word) : (wrS c r x).accPoison = c.accPoison := putS_accPoison _ _ _ _
@[simp] theorem wrS_opcache (c : Core) (r : Nat) (x : Word) : (wrS c r x).opcache = c.opcache := putS_opcache _ _ _ _
@[simp] theorem wrS_join (c : Core) (r : Nat) (x : Word) : (wrS c r x).join = c.join := putS_join _ _ _ _
@[simp] theorem wrS_arrived (c : Core) (r : Nat) (x : Word) : (wrS c r x).arrived = c.arrived := putS_arrived _ _ _ _
@[simp] theorem wrS_cwait (c : Core) (r : Nat) (x : Word) : (wrS c r x).cwait = c.cwait := putS_cwait _ _ _ _
@[simp] theorem wrS_rob (c : Core) (r : Nat) (x : Word) : (wrS c r x).rob = c.rob := putS_rob _ _ _ _
@[simp] theorem wrS_trackers (c : Core) (r : Nat) (x : Word) : (wrS c r x).trackers = c.trackers := putS_trackers _ _ _ _
@[simp] theorem wrS_mutexq (c : Core) (r : Nat) (x : Word) : (wrS c r x).mutexq = c.mutexq := putS_mutexq _ _ _ _
@[simp] theorem wrS_mutexes (c : Core) (r : Nat) (x : Word) : (wrS c r x).mutexes = c.mutexes := putS_mutexes _ _ _ _
@[simp] theorem wrS_recvs (c : Core) (r : Nat) (x : Word) : (wrS c r x).recvs = c.recvs := putS_recvs _ _ _ _
@[simp] theorem wrS_credits (c : Core) (r : Nat) (x : Word) : (wrS c r x).credits = c.credits := putS_credits _ _ _ _
@[simp] theorem wrS_sent (c : Core) (r : Nat) (x : Word) : (wrS c r x).sent = c.sent := putS_sent _ _ _ _
@[simp] theorem wrS_lastSrc (c : Core) (r : Nat) (x : Word) : (wrS c r x).lastSrc = c.lastSrc := putS_lastSrc _ _ _ _
@[simp] theorem wrS_reply (c : Core) (r : Nat) (x : Word) : (wrS c r x).reply = c.reply := putS_reply _ _ _ _
@[simp] theorem wrS_counters (c : Core) (r : Nat) (x : Word) : (wrS c r x).counters = c.counters := putS_counters _ _ _ _
@[simp] theorem wrS_delaySum (c : Core) (r : Nat) (x : Word) : (wrS c r x).delaySum = c.delaySum := putS_delaySum _ _ _ _
@[simp] theorem wrS_delayNum (c : Core) (r : Nat) (x : Word) : (wrS c r x).delayNum = c.delayNum := putS_delayNum _ _ _ _
@[simp] theorem wrS_cyc (c : Core) (r : Nat) (x : Word) : (wrS c r x).cyc = c.cyc := putS_cyc _ _ _ _
@[simp] theorem wrS_traceq (c : Core) (r : Nat) (x : Word) : (wrS c r x).traceq = c.traceq := putS_traceq _ _ _ _
@[simp] theorem wrS_traceDrop (c : Core) (r : Nat) (x : Word) : (wrS c r x).traceDrop = c.traceDrop := putS_traceDrop _ _ _ _
@[simp] theorem wrS_dbgHeld (c : Core) (r : Nat) (x : Word) : (wrS c r x).dbgHeld = c.dbgHeld := putS_dbgHeld _ _ _ _
@[simp] theorem wrV_image (c : Core) (r : Nat) (x : VReg) : (wrV c r x).image = c.image := rfl
@[simp] theorem wrV_imem (c : Core) (r : Nat) (x : VReg) : (wrV c r x).imem = c.imem := rfl
@[simp] theorem wrV_hmem (c : Core) (r : Nat) (x : VReg) : (wrV c r x).hmem = c.hmem := rfl
@[simp] theorem wrV_hlen (c : Core) (r : Nat) (x : VReg) : (wrV c r x).hlen = c.hlen := rfl
@[simp] theorem wrV_task (c : Core) (r : Nat) (x : VReg) : (wrV c r x).task = c.task := rfl
@[simp] theorem wrV_next (c : Core) (r : Nat) (x : VReg) : (wrV c r x).next = c.next := rfl
@[simp] theorem wrV_pc (c : Core) (r : Nat) (x : VReg) : (wrV c r x).pc = c.pc := rfl
@[simp] theorem wrV_s (c : Core) (r : Nat) (x : VReg) : (wrV c r x).s = c.s := rfl
@[simp] theorem wrV_bank (c : Core) (r : Nat) (x : VReg) : (wrV c r x).bank = c.bank := rfl
@[simp] theorem wrV_p (c : Core) (r : Nat) (x : VReg) : (wrV c r x).p = c.p := rfl
@[simp] theorem wrV_cr (c : Core) (r : Nat) (x : VReg) : (wrV c r x).cr = c.cr := rfl
@[simp] theorem wrV_priv (c : Core) (r : Nat) (x : VReg) : (wrV c r x).priv = c.priv := rfl
@[simp] theorem wrV_iact (c : Core) (r : Nat) (x : VReg) : (wrV c r x).iact = c.iact := rfl
@[simp] theorem wrV_timerHnd (c : Core) (r : Nat) (x : VReg) : (wrV c r x).timerHnd = c.timerHnd := rfl
@[simp] theorem wrV_timerDue (c : Core) (r : Nat) (x : VReg) : (wrV c r x).timerDue = c.timerDue := rfl
@[simp] theorem wrV_count (c : Core) (r : Nat) (x : VReg) : (wrV c r x).count = c.count := rfl
@[simp] theorem wrV_gcount (c : Core) (r : Nat) (x : VReg) : (wrV c r x).gcount = c.gcount := rfl
@[simp] theorem wrV_acount (c : Core) (r : Nat) (x : VReg) : (wrV c r x).acount = c.acount := rfl
@[simp] theorem wrV_seq (c : Core) (r : Nat) (x : VReg) : (wrV c r x).seq = c.seq := rfl
@[simp] theorem wrV_xcount (c : Core) (r : Nat) (x : VReg) : (wrV c r x).xcount = c.xcount := rfl
@[simp] theorem wrV_inflight (c : Core) (r : Nat) (x : VReg) : (wrV c r x).inflight = c.inflight := rfl
@[simp] theorem wrV_wait (c : Core) (r : Nat) (x : VReg) : (wrV c r x).wait = c.wait := rfl
@[simp] theorem wrV_trap (c : Core) (r : Nat) (x : VReg) : (wrV c r x).trap = c.trap := rfl
@[simp] theorem wrV_extra (c : Core) (r : Nat) (x : VReg) : (wrV c r x).extra = c.extra := rfl
@[simp] theorem wrV_afaults (c : Core) (r : Nat) (x : VReg) : (wrV c r x).afaults = c.afaults := rfl
@[simp] theorem wrV_overlay (c : Core) (r : Nat) (x : VReg) : (wrV c r x).overlay = c.overlay := rfl
@[simp] theorem wrV_shadow (c : Core) (r : Nat) (x : VReg) : (wrV c r x).shadow = c.shadow := rfl
@[simp] theorem wrV_cmds (c : Core) (r : Nat) (x : VReg) : (wrV c r x).cmds = c.cmds := rfl
@[simp] theorem wrV_dones (c : Core) (r : Nat) (x : VReg) : (wrV c r x).dones = c.dones := rfl
@[simp] theorem wrV_intr (c : Core) (r : Nat) (x : VReg) : (wrV c r x).intr = c.intr := rfl
@[simp] theorem wrV_slots (c : Core) (r : Nat) (x : VReg) : (wrV c r x).slots = c.slots := rfl
@[simp] theorem wrV_tags (c : Core) (r : Nat) (x : VReg) : (wrV c r x).tags = c.tags := rfl
@[simp] theorem wrV_acc (c : Core) (r : Nat) (x : VReg) : (wrV c r x).acc = c.acc := rfl
@[simp] theorem wrV_accPoison (c : Core) (r : Nat) (x : VReg) : (wrV c r x).accPoison = c.accPoison := rfl
@[simp] theorem wrV_opcache (c : Core) (r : Nat) (x : VReg) : (wrV c r x).opcache = c.opcache := rfl
@[simp] theorem wrV_join (c : Core) (r : Nat) (x : VReg) : (wrV c r x).join = c.join := rfl
@[simp] theorem wrV_arrived (c : Core) (r : Nat) (x : VReg) : (wrV c r x).arrived = c.arrived := rfl
@[simp] theorem wrV_cwait (c : Core) (r : Nat) (x : VReg) : (wrV c r x).cwait = c.cwait := rfl
@[simp] theorem wrV_rob (c : Core) (r : Nat) (x : VReg) : (wrV c r x).rob = c.rob := rfl
@[simp] theorem wrV_trackers (c : Core) (r : Nat) (x : VReg) : (wrV c r x).trackers = c.trackers := rfl
@[simp] theorem wrV_mutexq (c : Core) (r : Nat) (x : VReg) : (wrV c r x).mutexq = c.mutexq := rfl
@[simp] theorem wrV_mutexes (c : Core) (r : Nat) (x : VReg) : (wrV c r x).mutexes = c.mutexes := rfl
@[simp] theorem wrV_recvs (c : Core) (r : Nat) (x : VReg) : (wrV c r x).recvs = c.recvs := rfl
@[simp] theorem wrV_credits (c : Core) (r : Nat) (x : VReg) : (wrV c r x).credits = c.credits := rfl
@[simp] theorem wrV_sent (c : Core) (r : Nat) (x : VReg) : (wrV c r x).sent = c.sent := rfl
@[simp] theorem wrV_lastSrc (c : Core) (r : Nat) (x : VReg) : (wrV c r x).lastSrc = c.lastSrc := rfl
@[simp] theorem wrV_reply (c : Core) (r : Nat) (x : VReg) : (wrV c r x).reply = c.reply := rfl
@[simp] theorem wrV_counters (c : Core) (r : Nat) (x : VReg) : (wrV c r x).counters = c.counters := rfl
@[simp] theorem wrV_delaySum (c : Core) (r : Nat) (x : VReg) : (wrV c r x).delaySum = c.delaySum := rfl
@[simp] theorem wrV_delayNum (c : Core) (r : Nat) (x : VReg) : (wrV c r x).delayNum = c.delayNum := rfl
@[simp] theorem wrV_cyc (c : Core) (r : Nat) (x : VReg) : (wrV c r x).cyc = c.cyc := rfl
@[simp] theorem wrV_traceq (c : Core) (r : Nat) (x : VReg) : (wrV c r x).traceq = c.traceq := rfl
@[simp] theorem wrV_traceDrop (c : Core) (r : Nat) (x : VReg) : (wrV c r x).traceDrop = c.traceDrop := rfl
@[simp] theorem wrV_dbgHeld (c : Core) (r : Nat) (x : VReg) : (wrV c r x).dbgHeld = c.dbgHeld := rfl
@[simp] theorem wrP_image (c : Core) (r : Nat) (x : Word) : (wrP c r x).image = c.image := by
  unfold wrP; split <;> rfl
@[simp] theorem wrP_imem (c : Core) (r : Nat) (x : Word) : (wrP c r x).imem = c.imem := by
  unfold wrP; split <;> rfl
@[simp] theorem wrP_hmem (c : Core) (r : Nat) (x : Word) : (wrP c r x).hmem = c.hmem := by
  unfold wrP; split <;> rfl
@[simp] theorem wrP_hlen (c : Core) (r : Nat) (x : Word) : (wrP c r x).hlen = c.hlen := by
  unfold wrP; split <;> rfl
@[simp] theorem wrP_task (c : Core) (r : Nat) (x : Word) : (wrP c r x).task = c.task := by
  unfold wrP; split <;> rfl
@[simp] theorem wrP_next (c : Core) (r : Nat) (x : Word) : (wrP c r x).next = c.next := by
  unfold wrP; split <;> rfl
@[simp] theorem wrP_pc (c : Core) (r : Nat) (x : Word) : (wrP c r x).pc = c.pc := by
  unfold wrP; split <;> rfl
@[simp] theorem wrP_s (c : Core) (r : Nat) (x : Word) : (wrP c r x).s = c.s := by
  unfold wrP; split <;> rfl
@[simp] theorem wrP_bank (c : Core) (r : Nat) (x : Word) : (wrP c r x).bank = c.bank := by
  unfold wrP; split <;> rfl
@[simp] theorem wrP_v (c : Core) (r : Nat) (x : Word) : (wrP c r x).v = c.v := by
  unfold wrP; split <;> rfl
@[simp] theorem wrP_cr (c : Core) (r : Nat) (x : Word) : (wrP c r x).cr = c.cr := by
  unfold wrP; split <;> rfl
@[simp] theorem wrP_priv (c : Core) (r : Nat) (x : Word) : (wrP c r x).priv = c.priv := by
  unfold wrP; split <;> rfl
@[simp] theorem wrP_iact (c : Core) (r : Nat) (x : Word) : (wrP c r x).iact = c.iact := by
  unfold wrP; split <;> rfl
@[simp] theorem wrP_timerHnd (c : Core) (r : Nat) (x : Word) : (wrP c r x).timerHnd = c.timerHnd := by
  unfold wrP; split <;> rfl
@[simp] theorem wrP_timerDue (c : Core) (r : Nat) (x : Word) : (wrP c r x).timerDue = c.timerDue := by
  unfold wrP; split <;> rfl
@[simp] theorem wrP_count (c : Core) (r : Nat) (x : Word) : (wrP c r x).count = c.count := by
  unfold wrP; split <;> rfl
@[simp] theorem wrP_gcount (c : Core) (r : Nat) (x : Word) : (wrP c r x).gcount = c.gcount := by
  unfold wrP; split <;> rfl
@[simp] theorem wrP_acount (c : Core) (r : Nat) (x : Word) : (wrP c r x).acount = c.acount := by
  unfold wrP; split <;> rfl
@[simp] theorem wrP_seq (c : Core) (r : Nat) (x : Word) : (wrP c r x).seq = c.seq := by
  unfold wrP; split <;> rfl
@[simp] theorem wrP_xcount (c : Core) (r : Nat) (x : Word) : (wrP c r x).xcount = c.xcount := by
  unfold wrP; split <;> rfl
@[simp] theorem wrP_inflight (c : Core) (r : Nat) (x : Word) : (wrP c r x).inflight = c.inflight := by
  unfold wrP; split <;> rfl
@[simp] theorem wrP_opbuf (c : Core) (r : Nat) (x : Word) : (wrP c r x).opbuf = c.opbuf := by
  unfold wrP; split <;> rfl
@[simp] theorem wrP_wait (c : Core) (r : Nat) (x : Word) : (wrP c r x).wait = c.wait := by
  unfold wrP; split <;> rfl
@[simp] theorem wrP_trap (c : Core) (r : Nat) (x : Word) : (wrP c r x).trap = c.trap := by
  unfold wrP; split <;> rfl
@[simp] theorem wrP_extra (c : Core) (r : Nat) (x : Word) : (wrP c r x).extra = c.extra := by
  unfold wrP; split <;> rfl
@[simp] theorem wrP_afaults (c : Core) (r : Nat) (x : Word) : (wrP c r x).afaults = c.afaults := by
  unfold wrP; split <;> rfl
@[simp] theorem wrP_overlay (c : Core) (r : Nat) (x : Word) : (wrP c r x).overlay = c.overlay := by
  unfold wrP; split <;> rfl
@[simp] theorem wrP_shadow (c : Core) (r : Nat) (x : Word) : (wrP c r x).shadow = c.shadow := by
  unfold wrP; split <;> rfl
@[simp] theorem wrP_cmds (c : Core) (r : Nat) (x : Word) : (wrP c r x).cmds = c.cmds := by
  unfold wrP; split <;> rfl
@[simp] theorem wrP_dones (c : Core) (r : Nat) (x : Word) : (wrP c r x).dones = c.dones := by
  unfold wrP; split <;> rfl
@[simp] theorem wrP_intr (c : Core) (r : Nat) (x : Word) : (wrP c r x).intr = c.intr := by
  unfold wrP; split <;> rfl
@[simp] theorem wrP_slots (c : Core) (r : Nat) (x : Word) : (wrP c r x).slots = c.slots := by
  unfold wrP; split <;> rfl
@[simp] theorem wrP_tags (c : Core) (r : Nat) (x : Word) : (wrP c r x).tags = c.tags := by
  unfold wrP; split <;> rfl
@[simp] theorem wrP_acc (c : Core) (r : Nat) (x : Word) : (wrP c r x).acc = c.acc := by
  unfold wrP; split <;> rfl
@[simp] theorem wrP_accPoison (c : Core) (r : Nat) (x : Word) : (wrP c r x).accPoison = c.accPoison := by
  unfold wrP; split <;> rfl
@[simp] theorem wrP_opcache (c : Core) (r : Nat) (x : Word) : (wrP c r x).opcache = c.opcache := by
  unfold wrP; split <;> rfl
@[simp] theorem wrP_join (c : Core) (r : Nat) (x : Word) : (wrP c r x).join = c.join := by
  unfold wrP; split <;> rfl
@[simp] theorem wrP_arrived (c : Core) (r : Nat) (x : Word) : (wrP c r x).arrived = c.arrived := by
  unfold wrP; split <;> rfl
@[simp] theorem wrP_cwait (c : Core) (r : Nat) (x : Word) : (wrP c r x).cwait = c.cwait := by
  unfold wrP; split <;> rfl
@[simp] theorem wrP_rob (c : Core) (r : Nat) (x : Word) : (wrP c r x).rob = c.rob := by
  unfold wrP; split <;> rfl
@[simp] theorem wrP_trackers (c : Core) (r : Nat) (x : Word) : (wrP c r x).trackers = c.trackers := by
  unfold wrP; split <;> rfl
@[simp] theorem wrP_mutexq (c : Core) (r : Nat) (x : Word) : (wrP c r x).mutexq = c.mutexq := by
  unfold wrP; split <;> rfl
@[simp] theorem wrP_mutexes (c : Core) (r : Nat) (x : Word) : (wrP c r x).mutexes = c.mutexes := by
  unfold wrP; split <;> rfl
@[simp] theorem wrP_recvs (c : Core) (r : Nat) (x : Word) : (wrP c r x).recvs = c.recvs := by
  unfold wrP; split <;> rfl
@[simp] theorem wrP_credits (c : Core) (r : Nat) (x : Word) : (wrP c r x).credits = c.credits := by
  unfold wrP; split <;> rfl
@[simp] theorem wrP_sent (c : Core) (r : Nat) (x : Word) : (wrP c r x).sent = c.sent := by
  unfold wrP; split <;> rfl
@[simp] theorem wrP_lastSrc (c : Core) (r : Nat) (x : Word) : (wrP c r x).lastSrc = c.lastSrc := by
  unfold wrP; split <;> rfl
@[simp] theorem wrP_reply (c : Core) (r : Nat) (x : Word) : (wrP c r x).reply = c.reply := by
  unfold wrP; split <;> rfl
@[simp] theorem wrP_counters (c : Core) (r : Nat) (x : Word) : (wrP c r x).counters = c.counters := by
  unfold wrP; split <;> rfl
@[simp] theorem wrP_delaySum (c : Core) (r : Nat) (x : Word) : (wrP c r x).delaySum = c.delaySum := by
  unfold wrP; split <;> rfl
@[simp] theorem wrP_delayNum (c : Core) (r : Nat) (x : Word) : (wrP c r x).delayNum = c.delayNum := by
  unfold wrP; split <;> rfl
@[simp] theorem wrP_cyc (c : Core) (r : Nat) (x : Word) : (wrP c r x).cyc = c.cyc := by
  unfold wrP; split <;> rfl
@[simp] theorem wrP_traceq (c : Core) (r : Nat) (x : Word) : (wrP c r x).traceq = c.traceq := by
  unfold wrP; split <;> rfl
@[simp] theorem wrP_traceDrop (c : Core) (r : Nat) (x : Word) : (wrP c r x).traceDrop = c.traceDrop := by
  unfold wrP; split <;> rfl
@[simp] theorem wrP_dbgHeld (c : Core) (r : Nat) (x : Word) : (wrP c r x).dbgHeld = c.dbgHeld := by
  unfold wrP; split <;> rfl
@[simp] theorem writeCr_image (c : Core) (n : Nat) (x : Word) : (writeCr c n x).image = c.image := rfl
@[simp] theorem writeCr_imem (c : Core) (n : Nat) (x : Word) : (writeCr c n x).imem = c.imem := rfl
@[simp] theorem writeCr_hmem (c : Core) (n : Nat) (x : Word) : (writeCr c n x).hmem = c.hmem := rfl
@[simp] theorem writeCr_hlen (c : Core) (n : Nat) (x : Word) : (writeCr c n x).hlen = c.hlen := rfl
@[simp] theorem writeCr_task (c : Core) (n : Nat) (x : Word) : (writeCr c n x).task = c.task := rfl
@[simp] theorem writeCr_next (c : Core) (n : Nat) (x : Word) : (writeCr c n x).next = c.next := rfl
@[simp] theorem writeCr_pc (c : Core) (n : Nat) (x : Word) : (writeCr c n x).pc = c.pc := rfl
@[simp] theorem writeCr_s (c : Core) (n : Nat) (x : Word) : (writeCr c n x).s = c.s := rfl
@[simp] theorem writeCr_bank (c : Core) (n : Nat) (x : Word) : (writeCr c n x).bank = c.bank := rfl
@[simp] theorem writeCr_v (c : Core) (n : Nat) (x : Word) : (writeCr c n x).v = c.v := rfl
@[simp] theorem writeCr_p (c : Core) (n : Nat) (x : Word) : (writeCr c n x).p = c.p := rfl
@[simp] theorem writeCr_priv (c : Core) (n : Nat) (x : Word) : (writeCr c n x).priv = c.priv := rfl
@[simp] theorem writeCr_iact (c : Core) (n : Nat) (x : Word) : (writeCr c n x).iact = c.iact := rfl
@[simp] theorem writeCr_timerHnd (c : Core) (n : Nat) (x : Word) : (writeCr c n x).timerHnd = c.timerHnd := rfl
@[simp] theorem writeCr_timerDue (c : Core) (n : Nat) (x : Word) : (writeCr c n x).timerDue = c.timerDue := rfl
@[simp] theorem writeCr_count (c : Core) (n : Nat) (x : Word) : (writeCr c n x).count = c.count := rfl
@[simp] theorem writeCr_gcount (c : Core) (n : Nat) (x : Word) : (writeCr c n x).gcount = c.gcount := rfl
@[simp] theorem writeCr_acount (c : Core) (n : Nat) (x : Word) : (writeCr c n x).acount = c.acount := rfl
@[simp] theorem writeCr_seq (c : Core) (n : Nat) (x : Word) : (writeCr c n x).seq = c.seq := rfl
@[simp] theorem writeCr_xcount (c : Core) (n : Nat) (x : Word) : (writeCr c n x).xcount = c.xcount := rfl
@[simp] theorem writeCr_inflight (c : Core) (n : Nat) (x : Word) : (writeCr c n x).inflight = c.inflight := rfl
@[simp] theorem writeCr_opbuf (c : Core) (n : Nat) (x : Word) : (writeCr c n x).opbuf = c.opbuf := rfl
@[simp] theorem writeCr_wait (c : Core) (n : Nat) (x : Word) : (writeCr c n x).wait = c.wait := rfl
@[simp] theorem writeCr_trap (c : Core) (n : Nat) (x : Word) : (writeCr c n x).trap = c.trap := rfl
@[simp] theorem writeCr_extra (c : Core) (n : Nat) (x : Word) : (writeCr c n x).extra = c.extra := rfl
@[simp] theorem writeCr_afaults (c : Core) (n : Nat) (x : Word) : (writeCr c n x).afaults = c.afaults := rfl
@[simp] theorem writeCr_overlay (c : Core) (n : Nat) (x : Word) : (writeCr c n x).overlay = c.overlay := rfl
@[simp] theorem writeCr_shadow (c : Core) (n : Nat) (x : Word) : (writeCr c n x).shadow = c.shadow := rfl
@[simp] theorem writeCr_cmds (c : Core) (n : Nat) (x : Word) : (writeCr c n x).cmds = c.cmds := rfl
@[simp] theorem writeCr_dones (c : Core) (n : Nat) (x : Word) : (writeCr c n x).dones = c.dones := rfl
@[simp] theorem writeCr_intr (c : Core) (n : Nat) (x : Word) : (writeCr c n x).intr = c.intr := rfl
@[simp] theorem writeCr_slots (c : Core) (n : Nat) (x : Word) : (writeCr c n x).slots = c.slots := rfl
@[simp] theorem writeCr_tags (c : Core) (n : Nat) (x : Word) : (writeCr c n x).tags = c.tags := rfl
@[simp] theorem writeCr_acc (c : Core) (n : Nat) (x : Word) : (writeCr c n x).acc = c.acc := rfl
@[simp] theorem writeCr_accPoison (c : Core) (n : Nat) (x : Word) : (writeCr c n x).accPoison = c.accPoison := rfl
@[simp] theorem writeCr_opcache (c : Core) (n : Nat) (x : Word) : (writeCr c n x).opcache = c.opcache := rfl
@[simp] theorem writeCr_join (c : Core) (n : Nat) (x : Word) : (writeCr c n x).join = c.join := rfl
@[simp] theorem writeCr_arrived (c : Core) (n : Nat) (x : Word) : (writeCr c n x).arrived = c.arrived := rfl
@[simp] theorem writeCr_cwait (c : Core) (n : Nat) (x : Word) : (writeCr c n x).cwait = c.cwait := rfl
@[simp] theorem writeCr_rob (c : Core) (n : Nat) (x : Word) : (writeCr c n x).rob = c.rob := rfl
@[simp] theorem writeCr_trackers (c : Core) (n : Nat) (x : Word) : (writeCr c n x).trackers = c.trackers := rfl
@[simp] theorem writeCr_mutexq (c : Core) (n : Nat) (x : Word) : (writeCr c n x).mutexq = c.mutexq := rfl
@[simp] theorem writeCr_mutexes (c : Core) (n : Nat) (x : Word) : (writeCr c n x).mutexes = c.mutexes := rfl
@[simp] theorem writeCr_recvs (c : Core) (n : Nat) (x : Word) : (writeCr c n x).recvs = c.recvs := rfl
@[simp] theorem writeCr_credits (c : Core) (n : Nat) (x : Word) : (writeCr c n x).credits = c.credits := rfl
@[simp] theorem writeCr_sent (c : Core) (n : Nat) (x : Word) : (writeCr c n x).sent = c.sent := rfl
@[simp] theorem writeCr_lastSrc (c : Core) (n : Nat) (x : Word) : (writeCr c n x).lastSrc = c.lastSrc := rfl
@[simp] theorem writeCr_reply (c : Core) (n : Nat) (x : Word) : (writeCr c n x).reply = c.reply := rfl
@[simp] theorem writeCr_counters (c : Core) (n : Nat) (x : Word) : (writeCr c n x).counters = c.counters := rfl
@[simp] theorem writeCr_delaySum (c : Core) (n : Nat) (x : Word) : (writeCr c n x).delaySum = c.delaySum := rfl
@[simp] theorem writeCr_delayNum (c : Core) (n : Nat) (x : Word) : (writeCr c n x).delayNum = c.delayNum := rfl
@[simp] theorem writeCr_cyc (c : Core) (n : Nat) (x : Word) : (writeCr c n x).cyc = c.cyc := rfl
@[simp] theorem writeCr_traceq (c : Core) (n : Nat) (x : Word) : (writeCr c n x).traceq = c.traceq := rfl
@[simp] theorem writeCr_traceDrop (c : Core) (n : Nat) (x : Word) : (writeCr c n x).traceDrop = c.traceDrop := rfl
@[simp] theorem writeCr_dbgHeld (c : Core) (n : Nat) (x : Word) : (writeCr c n x).dbgHeld = c.dbgHeld := rfl

@[simp] theorem rdS_zero (c : Core) : rdS c 0 = 0#32 := rfl
@[simp] theorem rdP_zero (c : Core) : rdP c 0 = 0xFFFFFFFF#32 := rfl
@[simp] theorem wrS_zero (c : Core) (x : Word) : wrS c 0 x = c := rfl
@[simp] theorem wrP_zero (c : Core) (x : Word) : wrP c 0 x = c := rfl

theorem getD_set_same {α : Type} {n : Nat} (v : Vector α n) (i : Nat) (x d : α) (h : i < n) : (v.setIfInBounds i x).getD i d = x := by
  simp [Vector.getD, h]

theorem getD_set_other {α : Type} {n : Nat} (v : Vector α n) {i j : Nat} (x d : α) (h : i ≠ j) :
    (v.setIfInBounds i x).getD j d = v.getD j d := by
  by_cases hj : j < n
  · simp [Vector.getD, hj, h]
  · simp [Vector.getD, hj]

/-- A scalar register reads what was written to it (R101, R346). -/
theorem rdS_wrS_same (c : Core) (r : Nat) (x : Word) (h0 : r ≠ 0) (h : r < 32) : rdS (wrS c r x) r = x := by
  unfold rdS
  rw [if_neg h0, wrS_priv]
  unfold wrS putS banked
  rw [if_neg h0]
  by_cases hb : c.priv = true ∧ 24 ≤ r
  · simp only [hb.1, hb.2, decide_true, Bool.and_self, if_true]
    exact getD_set_same _ _ _ _ (by omega)
  · have : (c.priv && decide (24 ≤ r)) = false := by
      cases hp : c.priv
      · rfl
      · simpa [hp] using hb
    simp only [this, Bool.false_eq_true, if_false]
    exact getD_set_same _ _ _ _ h

/-- The other scalar registers keep their values. -/
theorem rdS_wrS_other (c : Core) {r q : Nat} (x : Word) (h : q ≠ r) : rdS (wrS c r x) q = rdS c q := by
  unfold rdS
  rw [wrS_priv]
  unfold wrS putS banked
  split
  · rfl
  · rename_i hq
    by_cases h0 : r = 0
    · simp [h0]
    · simp only [h0, if_false]
      by_cases hb : (c.priv && decide (24 ≤ r)) = true
      · simp only [hb, if_true]
        split
        · rename_i h2
          simp only [Bool.and_eq_true, decide_eq_true_eq] at hb h2
          exact getD_set_other _ _ _ (by omega)
        · rfl
      · simp only [hb, Bool.false_eq_true, if_false]
        split
        · rfl
        · exact getD_set_other _ _ _ (Ne.symm h)

/-- A scalar register after a write: s0 still reads 0 (R101). -/
theorem rdS_wrS (c : Core) (r q : Nat) (x : Word) (h : r < 32) :
    rdS (wrS c r x) q = if q = r then (if r = 0 then 0#32 else x) else rdS c q := by
  by_cases hq : q = r
  · subst hq
    by_cases h0 : q = 0
    · simp [h0]
    · simp [h0, rdS_wrS_same c q x h0 h]
  · simp [hq, rdS_wrS_other c x hq]

theorem rdV_wrV_same (c : Core) (r : Nat) (x : VReg) (h : r < 32) : rdV (wrV c r x) r = x := getD_set_same _ _ _ _ h

theorem rdV_wrV_other (c : Core) {r q : Nat} (x : VReg) (h : q ≠ r) : rdV (wrV c r x) q = rdV c q :=
  getD_set_other _ _ _ (Ne.symm h)

theorem rdP_wrP_same (c : Core) (r : Nat) (x : Word) (h0 : r ≠ 0) (h : r < 4) : rdP (wrP c r x) r = x := by
  unfold rdP wrP
  simp only [h0, if_false]
  exact getD_set_same _ _ _ _ h

theorem rdP_wrP_other (c : Core) {r q : Nat} (x : Word) (h : q ≠ r) : rdP (wrP c r x) q = rdP c q := by
  unfold rdP wrP
  by_cases h0 : r = 0
  · simp [h0]
  · simp only [h0, if_false]
    split
    · rfl
    · exact getD_set_other _ _ _ (Ne.symm h)

end Sys2Proof.Machine
end

