-- ==== Sys2Proof/Laws/Issue.lean ====
section
/-! SUPPORT. The issue of one instruction: it always answers a next state, and what that state is for each answer of an
instruction's own part. -/

namespace Sys2Proof.Machine

/-- Issue never stops the machine. -/
theorem issue_next (i : Instr) (sh : Shape) (body : State → Body) (s : State) : ∃ t, issue i sh body s = .next t := by
  unfold issue
  split <;> exact ⟨_, rfl⟩

/-- An instruction that passes the checks of R99 takes its own part. -/
theorem issue_go {i : Instr} {sh : Shape} {body : State → Body} {s s1 : State} (h : issueCheck i sh s s.cur = .go s1) :
    issue i sh body s = .next (settleBody s1 s.cur sh.len (body s1)) := by
  unfold issue
  rw [h]

theorem issue_trap {i : Instr} {sh : Shape} {body : State → Body} {s : State} {r : TrapReq}
    (h : issueCheck i sh s s.cur = .trap r) : issue i sh body s = .next (takeTrap s s.cur r) := by
  unfold issue
  rw [h]

theorem issue_stall {i : Instr} {sh : Shape} {body : State → Body} {s : State} {k : WaitKind}
    (h : issueCheck i sh s s.cur = .stall k) : issue i sh body s = .next (stallAs s s.cur sh k) := by
  unfold issue
  rw [h]

theorem issue_ok {i : Instr} {sh : Shape} {body : State → Body} {s s1 s2 : State} (h : issueCheck i sh s s.cur = .go s1)
    (hb : body s1 = .ok s2) :
    issue i sh body s = .next (retire s2 s.cur (coreAt s1 s.cur).inflight.length (coreAt s1 s.cur).priv
      ((coreAt s1 s.cur).pc + BitVec.ofNat 32 sh.len) 1) := by
  rw [issue_go h, hb]
  rfl

theorem issue_jump {i : Instr} {sh : Shape} {body : State → Body} {s s1 s2 : State} {pc : Word}
    (h : issueCheck i sh s s.cur = .go s1) (hb : body s1 = .jump s2 pc) :
    issue i sh body s = .next (retire s2 s.cur (coreAt s1 s.cur).inflight.length (coreAt s1 s.cur).priv pc 1) := by
  rw [issue_go h, hb]
  rfl

theorem issue_counts {i : Instr} {sh : Shape} {body : State → Body} {s s1 s2 : State} {k : Nat}
    (h : issueCheck i sh s s.cur = .go s1) (hb : body s1 = .counts s2 k) :
    issue i sh body s = .next (retire s2 s.cur (coreAt s1 s.cur).inflight.length (coreAt s1 s.cur).priv
      ((coreAt s1 s.cur).pc + BitVec.ofNat 32 sh.len) k) := by
  rw [issue_go h, hb]
  rfl

theorem issue_done {i : Instr} {sh : Shape} {body : State → Body} {s s1 s2 : State} (h : issueCheck i sh s s.cur = .go s1)
    (hb : body s1 = .done s2) : issue i sh body s = .next s2 := by
  rw [issue_go h, hb]
  rfl

theorem issue_traps {i : Instr} {sh : Shape} {body : State → Body} {s s1 : State} {r : TrapReq}
    (h : issueCheck i sh s s.cur = .go s1) (hb : body s1 = .trap r) : issue i sh body s = .next (takeTrap s1 s.cur r) := by
  rw [issue_go h, hb]
  rfl

theorem issue_waits {i : Instr} {sh : Shape} {body : State → Body} {s s1 s2 : State} {k : WaitKind}
    (h : issueCheck i sh s s.cur = .go s1) (hb : body s1 = .wait k s2) :
    issue i sh body s = .next (waitAs s2 s.cur k) := by
  rw [issue_go h, hb]
  rfl

/-! ## What the checks of R99 leave -/

/-- An instruction that goes on finds the results that it needs written, and nothing else changed. -/
theorem go_state {i : Instr} {sh : Shape} {s s1 : State} {n : Nat} (h : issueCheck i sh s n = .go s1) :
    s1 = updCore s n (completeNeeded (sh.atLevel (coreAt s n))) := by
  unfold issueCheck at h
  split at h
  · cases h
  · dsimp only at h
    repeat' (split at h)
    all_goals first | exact (Check.go.inj h).symm | cases h

theorem go_cur {i : Instr} {sh : Shape} {s s1 : State} {n : Nat} (h : issueCheck i sh s n = .go s1) : s1.cur = s.cur := by
  rw [go_state h]
  exact updCore_cur _ _ _

/-- The core has a task of a context and a run. -/
theorem go_env {i : Instr} {sh : Shape} {s s1 : State} {n : Nat} (h : issueCheck i sh s n = .go s1) :
    ∃ e, taskEnv s n = some e := by
  unfold issueCheck at h
  split at h
  · cases h
  · exact ⟨_, ‹_›⟩

theorem go_canRun {i : Instr} {sh : Shape} {s s1 : State} {n : Nat} (h : issueCheck i sh s n = .go s1) : canRun s n = true := by
  unfold issueCheck at h
  split at h
  · cases h
  · dsimp only at h
    split at h
    · cases h
    · rename_i hc
      simpa using hc

/-- Completion of results does not touch a core's task, level or program counter. -/
theorem foldl_finish_task (l : List Pending) (c : Core) : (l.foldl finish c).task = c.task := by
  induction l generalizing c with
  | nil => rfl
  | cons p l ih =>
    rw [List.foldl_cons, ih]
    unfold finish
    dsimp only
    generalize p.writes = ws
    induction ws generalizing c with
    | nil => rfl
    | cons w ws ihw =>
      rw [List.foldl_cons, ihw]
      cases w <;> simp [applyWrite]

theorem completeIf_task (f : Pending → Bool) (c : Core) : (completeIf f c).task = c.task := by
  unfold completeIf
  exact foldl_finish_task _ _

theorem completeNeeded_task (sh : Shape) (c : Core) : (completeNeeded sh c).task = c.task := by
  unfold completeNeeded
  rw [completeIf_task]
  exact foldl_finish_task _ _

/-- The next instruction's task, context and run are those before. -/
theorem taskEnv_updCore (s : State) (n : Nat) (f : Core → Core) (h : (f (coreAt s n)).task = (coreAt s n).task) :
    taskEnv (updCore s n f) n = taskEnv s n := by
  unfold taskEnv
  simp [h]

theorem go_taskEnv {i : Instr} {sh : Shape} {s s1 : State} {n : Nat} (h : issueCheck i sh s n = .go s1) :
    taskEnv s1 n = taskEnv s n := by
  rw [go_state h]
  exact taskEnv_updCore _ _ _ (completeNeeded_task _ _)

/-! ## The next state of an issued instruction -/

/-- The core after retirement. -/
theorem coreAt_retire (s : State) (n k0 : Nat) (p0 : Bool) (pc : Word) (k : Nat) :
    coreAt (retire s n k0 p0 pc k) n =
      prune { coreAt s n with
                pc := pc, wait := none, inflight := bump k0 (coreAt s n).inflight
                opbuf := ((coreAt s n).opbuf.map (fun h => { h with life := h.life - 1 })).filter (fun h => decide (0 < h.life))
                count := if p0 then (coreAt s n).count else (coreAt s n).count + k } :=
  coreAt_updCore _ _ _

/-- Retirement concerns one core. -/
theorem coreAt_retire_other (s : State) {n m : Nat} (k0 : Nat) (p0 : Bool) (pc : Word) (k : Nat) (h : m ≠ n) :
    coreAt (retire s n k0 p0 pc k) m = coreAt s m :=
  coreAt_updCore_other _ _ h

@[simp] theorem retire_mgmt (s : State) (n k0 : Nat) (p0 : Bool) (pc : Word) (k : Nat) :
    (retire s n k0 p0 pc k).mgmt = s.mgmt := rfl
@[simp] theorem retire_boot (s : State) (n k0 : Nat) (p0 : Bool) (pc : Word) (k : Nat) :
    (retire s n k0 p0 pc k).boot = s.boot := rfl
@[simp] theorem retire_masters (s : State) (n k0 : Nat) (p0 : Bool) (pc : Word) (k : Nat) :
    (retire s n k0 p0 pc k).masters = s.masters := rfl
@[simp] theorem retire_mboxq (s : State) (n k0 : Nat) (p0 : Bool) (pc : Word) (k : Nat) :
    (retire s n k0 p0 pc k).mboxq = s.mboxq := rfl
@[simp] theorem retire_moduleq (s : State) (n k0 : Nat) (p0 : Bool) (pc : Word) (k : Nat) :
    (retire s n k0 p0 pc k).moduleq = s.moduleq := rfl
@[simp] theorem retire_snapSeq (s : State) (n k0 : Nat) (p0 : Bool) (pc : Word) (k : Nat) :
    (retire s n k0 p0 pc k).snapSeq = s.snapSeq := rfl
@[simp] theorem retire_serial (s : State) (n k0 : Nat) (p0 : Bool) (pc : Word) (k : Nat) :
    (retire s n k0 p0 pc k).serial = s.serial := rfl
@[simp] theorem retire_signed (s : State) (n k0 : Nat) (p0 : Bool) (pc : Word) (k : Nat) :
    (retire s n k0 p0 pc k).signed = s.signed := rfl
@[simp] theorem retire_softErr (s : State) (n k0 : Nat) (p0 : Bool) (pc : Word) (k : Nat) :
    (retire s n k0 p0 pc k).softErr = s.softErr := rfl
@[simp] theorem retire_rows (s : State) (n k0 : Nat) (p0 : Bool) (pc : Word) (k : Nat) :
    (retire s n k0 p0 pc k).rows = s.rows := rfl
@[simp] theorem retire_spares (s : State) (n k0 : Nat) (p0 : Bool) (pc : Word) (k : Nat) :
    (retire s n k0 p0 pc k).spares = s.spares := rfl
@[simp] theorem retire_failed (s : State) (n k0 : Nat) (p0 : Bool) (pc : Word) (k : Nat) :
    (retire s n k0 p0 pc k).failed = s.failed := rfl
@[simp] theorem retire_links (s : State) (n k0 : Nat) (p0 : Bool) (pc : Word) (k : Nat) :
    (retire s n k0 p0 pc k).links = s.links := rfl
@[simp] theorem retire_ctxs (s : State) (n k0 : Nat) (p0 : Bool) (pc : Word) (k : Nat) :
    (retire s n k0 p0 pc k).ctxs = s.ctxs := rfl
@[simp] theorem retire_clusters (s : State) (n k0 : Nat) (p0 : Bool) (pc : Word) (k : Nat) :
    (retire s n k0 p0 pc k).clusters = s.clusters := rfl
@[simp] theorem retire_slice (s : State) (n k0 : Nat) (p0 : Bool) (pc : Word) (k : Nat) :
    (retire s n k0 p0 pc k).slice = s.slice := rfl
@[simp] theorem retire_gmeta (s : State) (n k0 : Nat) (p0 : Bool) (pc : Word) (k : Nat) :
    (retire s n k0 p0 pc k).gmeta = s.gmeta := rfl
@[simp] theorem retire_conf (s : State) (n k0 : Nat) (p0 : Bool) (pc : Word) (k : Nat) :
    (retire s n k0 p0 pc k).conf = s.conf := rfl
@[simp] theorem retire_poison (s : State) (n k0 : Nat) (p0 : Bool) (pc : Word) (k : Nat) :
    (retire s n k0 p0 pc k).poison = s.poison := rfl
@[simp] theorem retire_dram (s : State) (n k0 : Nat) (p0 : Bool) (pc : Word) (k : Nat) :
    (retire s n k0 p0 pc k).dram = s.dram := rfl
@[simp] theorem retire_dpoison (s : State) (n k0 : Nat) (p0 : Bool) (pc : Word) (k : Nat) :
    (retire s n k0 p0 pc k).dpoison = s.dpoison := rfl
@[simp] theorem retire_rowOpen (s : State) (n k0 : Nat) (p0 : Bool) (pc : Word) (k : Nat) :
    (retire s n k0 p0 pc k).rowOpen = s.rowOpen := rfl
@[simp] theorem retire_caddy (s : State) (n k0 : Nat) (p0 : Bool) (pc : Word) (k : Nat) :
    (retire s n k0 p0 pc k).caddy = s.caddy := rfl
@[simp] theorem retire_host (s : State) (n k0 : Nat) (p0 : Bool) (pc : Word) (k : Nat) :
    (retire s n k0 p0 pc k).host = s.host := rfl
@[simp] theorem retire_marks (s : State) (n k0 : Nat) (p0 : Bool) (pc : Word) (k : Nat) :
    (retire s n k0 p0 pc k).marks = s.marks := rfl
@[simp] theorem retire_packets (s : State) (n k0 : Nat) (p0 : Bool) (pc : Word) (k : Nat) :
    (retire s n k0 p0 pc k).packets = s.packets := rfl
@[simp] theorem retire_agenda (s : State) (n k0 : Nat) (p0 : Bool) (pc : Word) (k : Nat) :
    (retire s n k0 p0 pc k).agenda = s.agenda := rfl
@[simp] theorem retire_cur (s : State) (n k0 : Nat) (p0 : Bool) (pc : Word) (k : Nat) :
    (retire s n k0 p0 pc k).cur = s.cur := rfl
@[simp] theorem retire_input (s : State) (n k0 : Nat) (p0 : Bool) (pc : Word) (k : Nat) :
    (retire s n k0 p0 pc k).input = s.input := rfl
@[simp] theorem retire_fresh (s : State) (n k0 : Nat) (p0 : Bool) (pc : Word) (k : Nat) :
    (retire s n k0 p0 pc k).fresh = s.fresh := rfl

/-! ## The core after an instruction has issued -/

@[simp] theorem coreAt_retire_image (s : State) (n k0 : Nat) (p0 : Bool) (pc : Word) (k : Nat) :
    (coreAt (retire s n k0 p0 pc k) n).image = (coreAt s n).image := by rw [coreAt_retire]; rfl
@[simp] theorem coreAt_retire_imem (s : State) (n k0 : Nat) (p0 : Bool) (pc : Word) (k : Nat) :
    (coreAt (retire s n k0 p0 pc k) n).imem = (coreAt s n).imem := by rw [coreAt_retire]; rfl
@[simp] theorem coreAt_retire_hmem (s : State) (n k0 : Nat) (p0 : Bool) (pc : Word) (k : Nat) :
    (coreAt (retire s n k0 p0 pc k) n).hmem = (coreAt s n).hmem := by rw [coreAt_retire]; rfl
@[simp] theorem coreAt_retire_hlen (s : State) (n k0 : Nat) (p0 : Bool) (pc : Word) (k : Nat) :
    (coreAt (retire s n k0 p0 pc k) n).hlen = (coreAt s n).hlen := by rw [coreAt_retire]; rfl
@[simp] theorem coreAt_retire_task (s : State) (n k0 : Nat) (p0 : Bool) (pc : Word) (k : Nat) :
    (coreAt (retire s n k0 p0 pc k) n).task = (coreAt s n).task := by rw [coreAt_retire]; rfl
@[simp] theorem coreAt_retire_next (s : State) (n k0 : Nat) (p0 : Bool) (pc : Word) (k : Nat) :
    (coreAt (retire s n k0 p0 pc k) n).next = (coreAt s n).next := by rw [coreAt_retire]; rfl
@[simp] theorem coreAt_retire_s (s : State) (n k0 : Nat) (p0 : Bool) (pc : Word) (k : Nat) :
    (coreAt (retire s n k0 p0 pc k) n).s = (coreAt s n).s := by rw [coreAt_retire]; rfl
@[simp] theorem coreAt_retire_bank (s : State) (n k0 : Nat) (p0 : Bool) (pc : Word) (k : Nat) :
    (coreAt (retire s n k0 p0 pc k) n).bank = (coreAt s n).bank := by rw [coreAt_retire]; rfl
@[simp] theorem coreAt_retire_v (s : State) (n k0 : Nat) (p0 : Bool) (pc : Word) (k : Nat) :
    (coreAt (retire s n k0 p0 pc k) n).v = (coreAt s n).v := by rw [coreAt_retire]; rfl
@[simp] theorem coreAt_retire_p (s : State) (n k0 : Nat) (p0 : Bool) (pc : Word) (k : Nat) :
    (coreAt (retire s n k0 p0 pc k) n).p = (coreAt s n).p := by rw [coreAt_retire]; rfl
@[simp] theorem coreAt_retire_cr (s : State) (n k0 : Nat) (p0 : Bool) (pc : Word) (k : Nat) :
    (coreAt (retire s n k0 p0 pc k) n).cr = (coreAt s n).cr := by rw [coreAt_retire]; rfl
@[simp] theorem coreAt_retire_priv (s : State) (n k0 : Nat) (p0 : Bool) (pc : Word) (k : Nat) :
    (coreAt (retire s n k0 p0 pc k) n).priv = (coreAt s n).priv := by rw [coreAt_retire]; rfl
@[simp] theorem coreAt_retire_iact (s : State) (n k0 : Nat) (p0 : Bool) (pc : Word) (k : Nat) :
    (coreAt (retire s n k0 p0 pc k) n).iact = (coreAt s n).iact := by rw [coreAt_retire]; rfl
@[simp] theorem coreAt_retire_timerHnd (s : State) (n k0 : Nat) (p0 : Bool) (pc : Word) (k : Nat) :
    (coreAt (retire s n k0 p0 pc k) n).timerHnd = (coreAt s n).timerHnd := by rw [coreAt_retire]; rfl
@[simp] theorem coreAt_retire_timerDue (s : State) (n k0 : Nat) (p0 : Bool) (pc : Word) (k : Nat) :
    (coreAt (retire s n k0 p0 pc k) n).timerDue = (coreAt s n).timerDue := by rw [coreAt_retire]; rfl
@[simp] theorem coreAt_retire_gcount (s : State) (n k0 : Nat) (p0 : Bool) (pc : Word) (k : Nat) :
    (coreAt (retire s n k0 p0 pc k) n).gcount = (coreAt s n).gcount := by rw [coreAt_retire]; rfl
@[simp] theorem coreAt_retire_acount (s : State) (n k0 : Nat) (p0 : Bool) (pc : Word) (k : Nat) :
    (coreAt (retire s n k0 p0 pc k) n).acount = (coreAt s n).acount := by rw [coreAt_retire]; rfl
@[simp] theorem coreAt_retire_seq (s : State) (n k0 : Nat) (p0 : Bool) (pc : Word) (k : Nat) :
    (coreAt (retire s n k0 p0 pc k) n).seq = (coreAt s n).seq := by rw [coreAt_retire]; rfl
@[simp] theorem coreAt_retire_xcount (s : State) (n k0 : Nat) (p0 : Bool) (pc : Word) (k : Nat) :
    (coreAt (retire s n k0 p0 pc k) n).xcount = (coreAt s n).xcount := by rw [coreAt_retire]; rfl
@[simp] theorem coreAt_retire_trap (s : State) (n k0 : Nat) (p0 : Bool) (pc : Word) (k : Nat) :
    (coreAt (retire s n k0 p0 pc k) n).trap = (coreAt s n).trap := by rw [coreAt_retire]; rfl
@[simp] theorem coreAt_retire_afaults (s : State) (n k0 : Nat) (p0 : Bool) (pc : Word) (k : Nat) :
    (coreAt (retire s n k0 p0 pc k) n).afaults = (coreAt s n).afaults := by rw [coreAt_retire]; rfl
@[simp] theorem coreAt_retire_overlay (s : State) (n k0 : Nat) (p0 : Bool) (pc : Word) (k : Nat) :
    (coreAt (retire s n k0 p0 pc k) n).overlay = (coreAt s n).overlay := by rw [coreAt_retire]; rfl
@[simp] theorem coreAt_retire_shadow (s : State) (n k0 : Nat) (p0 : Bool) (pc : Word) (k : Nat) :
    (coreAt (retire s n k0 p0 pc k) n).shadow = (coreAt s n).shadow := by rw [coreAt_retire]; rfl
@[simp] theorem coreAt_retire_cmds (s : State) (n k0 : Nat) (p0 : Bool) (pc : Word) (k : Nat) :
    (coreAt (retire s n k0 p0 pc k) n).cmds = (coreAt s n).cmds := by rw [coreAt_retire]; rfl
@[simp] theorem coreAt_retire_dones (s : State) (n k0 : Nat) (p0 : Bool) (pc : Word) (k : Nat) :
    (coreAt (retire s n k0 p0 pc k) n).dones = (coreAt s n).dones := by rw [coreAt_retire]; rfl
@[simp] theorem coreAt_retire_intr (s : State) (n k0 : Nat) (p0 : Bool) (pc : Word) (k : Nat) :
    (coreAt (retire s n k0 p0 pc k) n).intr = (coreAt s n).intr := by rw [coreAt_retire]; rfl
@[simp] theorem coreAt_retire_slots (s : State) (n k0 : Nat) (p0 : Bool) (pc : Word) (k : Nat) :
    (coreAt (retire s n k0 p0 pc k) n).slots = (coreAt s n).slots := by rw [coreAt_retire]; rfl
@[simp] theorem coreAt_retire_tags (s : State) (n k0 : Nat) (p0 : Bool) (pc : Word) (k : Nat) :
    (coreAt (retire s n k0 p0 pc k) n).tags = (coreAt s n).tags := by rw [coreAt_retire]; rfl
@[simp] theorem coreAt_retire_acc (s : State) (n k0 : Nat) (p0 : Bool) (pc : Word) (k : Nat) :
    (coreAt (retire s n k0 p0 pc k) n).acc = (coreAt s n).acc := by rw [coreAt_retire]; rfl
@[simp] theorem coreAt_retire_accPoison (s : State) (n k0 : Nat) (p0 : Bool) (pc : Word) (k : Nat) :
    (coreAt (retire s n k0 p0 pc k) n).accPoison = (coreAt s n).accPoison := by rw [coreAt_retire]; rfl
@[simp] theorem coreAt_retire_opcache (s : State) (n k0 : Nat) (p0 : Bool) (pc : Word) (k : Nat) :
    (coreAt (retire s n k0 p0 pc k) n).opcache = (coreAt s n).opcache := by rw [coreAt_retire]; rfl
@[simp] theorem coreAt_retire_join (s : State) (n k0 : Nat) (p0 : Bool) (pc : Word) (k : Nat) :
    (coreAt (retire s n k0 p0 pc k) n).join = (coreAt s n).join := by rw [coreAt_retire]; rfl
@[simp] theorem coreAt_retire_arrived (s : State) (n k0 : Nat) (p0 : Bool) (pc : Word) (k : Nat) :
    (coreAt (retire s n k0 p0 pc k) n).arrived = (coreAt s n).arrived := by rw [coreAt_retire]; rfl
@[simp] theorem coreAt_retire_cwait (s : State) (n k0 : Nat) (p0 : Bool) (pc : Word) (k : Nat) :
    (coreAt (retire s n k0 p0 pc k) n).cwait = (coreAt s n).cwait := by rw [coreAt_retire]; rfl
@[simp] theorem coreAt_retire_rob (s : State) (n k0 : Nat) (p0 : Bool) (pc : Word) (k : Nat) :
    (coreAt (retire s n k0 p0 pc k) n).rob = (coreAt s n).rob := by rw [coreAt_retire]; rfl
@[simp] theorem coreAt_retire_trackers (s : State) (n k0 : Nat) (p0 : Bool) (pc : Word) (k : Nat) :
    (coreAt (retire s n k0 p0 pc k) n).trackers = (coreAt s n).trackers := by rw [coreAt_retire]; rfl
@[simp] theorem coreAt_retire_mutexq (s : State) (n k0 : Nat) (p0 : Bool) (pc : Word) (k : Nat) :
    (coreAt (retire s n k0 p0 pc k) n).mutexq = (coreAt s n).mutexq := by rw [coreAt_retire]; rfl
@[simp] theorem coreAt_retire_mutexes (s : State) (n k0 : Nat) (p0 : Bool) (pc : Word) (k : Nat) :
    (coreAt (retire s n k0 p0 pc k) n).mutexes = (coreAt s n).mutexes := by rw [coreAt_retire]; rfl
@[simp] theorem coreAt_retire_recvs (s : State) (n k0 : Nat) (p0 : Bool) (pc : Word) (k : Nat) :
    (coreAt (retire s n k0 p0 pc k) n).recvs = (coreAt s n).recvs := by rw [coreAt_retire]; rfl
@[simp] theorem coreAt_retire_credits (s : State) (n k0 : Nat) (p0 : Bool) (pc : Word) (k : Nat) :
    (coreAt (retire s n k0 p0 pc k) n).credits = (coreAt s n).credits := by rw [coreAt_retire]; rfl
@[simp] theorem coreAt_retire_sent (s : State) (n k0 : Nat) (p0 : Bool) (pc : Word) (k : Nat) :
    (coreAt (retire s n k0 p0 pc k) n).sent = (coreAt s n).sent := by rw [coreAt_retire]; rfl
@[simp] theorem coreAt_retire_lastSrc (s : State) (n k0 : Nat) (p0 : Bool) (pc : Word) (k : Nat) :
    (coreAt (retire s n k0 p0 pc k) n).lastSrc = (coreAt s n).lastSrc := by rw [coreAt_retire]; rfl
@[simp] theorem coreAt_retire_reply (s : State) (n k0 : Nat) (p0 : Bool) (pc : Word) (k : Nat) :
    (coreAt (retire s n k0 p0 pc k) n).reply = (coreAt s n).reply := by rw [coreAt_retire]; rfl
@[simp] theorem coreAt_retire_counters (s : State) (n k0 : Nat) (p0 : Bool) (pc : Word) (k : Nat) :
    (coreAt (retire s n k0 p0 pc k) n).counters = (coreAt s n).counters := by rw [coreAt_retire]; rfl
@[simp] theorem coreAt_retire_delaySum (s : State) (n k0 : Nat) (p0 : Bool) (pc : Word) (k : Nat) :
    (coreAt (retire s n k0 p0 pc k) n).delaySum = (coreAt s n).delaySum := by rw [coreAt_retire]; rfl
@[simp] theorem coreAt_retire_delayNum (s : State) (n k0 : Nat) (p0 : Bool) (pc : Word) (k : Nat) :
    (coreAt (retire s n k0 p0 pc k) n).delayNum = (coreAt s n).delayNum := by rw [coreAt_retire]; rfl
@[simp] theorem coreAt_retire_cyc (s : State) (n k0 : Nat) (p0 : Bool) (pc : Word) (k : Nat) :
    (coreAt (retire s n k0 p0 pc k) n).cyc = (coreAt s n).cyc := by rw [coreAt_retire]; rfl
@[simp] theorem coreAt_retire_traceq (s : State) (n k0 : Nat) (p0 : Bool) (pc : Word) (k : Nat) :
    (coreAt (retire s n k0 p0 pc k) n).traceq = (coreAt s n).traceq := by rw [coreAt_retire]; rfl
@[simp] theorem coreAt_retire_traceDrop (s : State) (n k0 : Nat) (p0 : Bool) (pc : Word) (k : Nat) :
    (coreAt (retire s n k0 p0 pc k) n).traceDrop = (coreAt s n).traceDrop := by rw [coreAt_retire]; rfl
@[simp] theorem coreAt_retire_dbgHeld (s : State) (n k0 : Nat) (p0 : Bool) (pc : Word) (k : Nat) :
    (coreAt (retire s n k0 p0 pc k) n).dbgHeld = (coreAt s n).dbgHeld := by rw [coreAt_retire]; rfl
@[simp] theorem coreAt_retire_pc (s : State) (n k0 : Nat) (p0 : Bool) (pc : Word) (k : Nat) :
    (coreAt (retire s n k0 p0 pc k) n).pc = pc := by rw [coreAt_retire]; rfl
@[simp] theorem coreAt_retire_wait (s : State) (n k0 : Nat) (p0 : Bool) (pc : Word) (k : Nat) :
    (coreAt (retire s n k0 p0 pc k) n).wait = none := by rw [coreAt_retire]; rfl
@[simp] theorem coreAt_retire_count (s : State) (n k0 : Nat) (p0 : Bool) (pc : Word) (k : Nat) :
    (coreAt (retire s n k0 p0 pc k) n).count = if p0 then (coreAt s n).count else (coreAt s n).count + k := by
  rw [coreAt_retire]; rfl
@[simp] theorem rdS_retire (s : State) (n k0 : Nat) (p0 : Bool) (pc : Word) (k r : Nat) :
    rdS (coreAt (retire s n k0 p0 pc k) n) r = rdS (coreAt s n) r := by rw [coreAt_retire]; rfl
@[simp] theorem rdV_retire (s : State) (n k0 : Nat) (p0 : Bool) (pc : Word) (k r : Nat) :
    rdV (coreAt (retire s n k0 p0 pc k) n) r = rdV (coreAt s n) r := by rw [coreAt_retire]; rfl
@[simp] theorem rdP_retire (s : State) (n k0 : Nat) (p0 : Bool) (pc : Word) (k r : Nat) :
    rdP (coreAt (retire s n k0 p0 pc k) n) r = rdP (coreAt s n) r := by rw [coreAt_retire]; rfl

end Sys2Proof.Machine
end

