-- ==== Sys2Proof/Laws/Access.lean ====
section
/-! SUPPORT. What the parts of a layout access change, and what reading an element after writing one gives. -/

namespace Sys2Proof.Machine

/-- The body of an instruction that looks at the environment of its core. -/
theorem withEnv_eq {s : State} {f : Env → Body} {t : Task} {x : Ctx} {u : Run} (E : Env) (h : taskEnv s s.cur = some (t, x, u))
    (hE : E = { n := s.cur, t := t, x := x, u := u, c := coreAt s s.cur }) : withEnv s f = f E := by
  unfold withEnv
  rw [h, hE]
  rfl

/-- The layout checks answer LAYOUT only (R165). -/
theorem layoutCheck_cause {E : Env} {f : Form} {e : Entry} {css : List (List Nat)} {r : TrapReq}
    (h : layoutCheck E f e css = some r) : r.cause = .layout := by
  unfold layoutCheck at h
  split at h
  · cases h
    rfl
  · split at h
    · rename_i r' hr
      cases h
      obtain ⟨cs, _, h2⟩ := List.exists_of_findSome?_eq_some hr
      unfold elemTrap at h2
      split at h2
      · cases h2
        rfl
      · split at h2
        · cases h2
          rfl
        · split at h2
          · cases h2
          · cases h2
            rfl
    · dsimp only at h
      repeat' (split at h)
      all_goals first
        | (cases h
           rfl)
        | cases h

/-! ## The parts of an access -/

/-- A reply's delay concerns one core and the counter of free values. -/
theorem noteReply_only (s : State) (n path h : Nat) :
    ∃ cores fresh, noteReply s n path h = { s with cores := cores, fresh := fresh } := ⟨_, _, rfl⟩

theorem noteHome_only (s : State) (n : Nat) (h : Home) :
    ∃ cores fresh, noteHome s n h = { s with cores := cores, fresh := fresh } := by
  unfold noteHome
  split
  · split
    · exact ⟨_, _, rfl⟩
    · exact noteReply_only _ _ _ _
  · exact ⟨_, _, rfl⟩

/-- Of a core, a reply's delay changes the sums of R405 only. -/
theorem coreAt_noteReply (s : State) (n path h m : Nat) :
    ∃ ds dn, coreAt (noteReply s n path h) m = { coreAt s m with delaySum := ds, delayNum := dn } := by
  unfold noteReply
  dsimp only
  by_cases hm : m = n
  · subst hm
    exact ⟨_, _, coreAt_updCore _ _ _⟩
  · exact ⟨(coreAt s m).delaySum, (coreAt s m).delayNum, coreAt_updCore_other _ _ hm⟩

theorem coreAt_noteHome (s : State) (n : Nat) (h : Home) (m : Nat) :
    ∃ ds dn, coreAt (noteHome s n h) m = { coreAt s m with delaySum := ds, delayNum := dn } := by
  unfold noteHome
  split
  · split
    · exact ⟨(coreAt s m).delaySum, (coreAt s m).delayNum, rfl⟩
    · exact coreAt_noteReply _ _ _ _ _
  · exact ⟨(coreAt s m).delaySum, (coreAt s m).delayNum, rfl⟩

/-- A fold of updates of one field is an update of that field. -/
theorem foldl_only {α β : Type} (put : State → β → State) (hp : ∀ s a b, put (put s a) b = put s b)
    (g : State → α → State) (h : ∀ s a, ∃ b, g s a = put s b) (h0 : ∀ s, ∃ b, s = put s b) (l : List α) (s : State) :
    ∃ b, l.foldl g s = put s b := by
  induction l generalizing s with
  | nil => exact h0 s
  | cons a l ih =>
    obtain ⟨b, hb⟩ := h s a
    obtain ⟨b', hb'⟩ := ih (put s b)
    exact ⟨b', by rw [List.foldl_cons, hb, hb', hp]⟩

theorem stampAccess_only (s : State) (E : Env) (e : Entry) (h : Home) (locs : List Nat) (w : Bool) :
    ∃ conf, stampAccess s E e h locs w = { s with conf := conf } := by
  unfold stampAccess
  split
  · split
    · exact foldl_only (fun s c => { s with conf := c }) (fun _ _ _ => rfl) _ (fun _ _ => ⟨_, rfl⟩) (fun s => ⟨s.conf, rfl⟩) _ _
    · exact ⟨_, rfl⟩
  · exact ⟨_, rfl⟩

theorem setFull_only (s : State) (g : List Nat) (b : Bool) : ∃ m, setFull s g b = { s with gmeta := m } :=
  foldl_only (fun s c => { s with gmeta := c }) (fun _ _ _ => rfl) _ (fun _ _ => ⟨_, rfl⟩) (fun s => ⟨s.gmeta, rfl⟩) _ _

theorem setVersion_only (s : State) (g : List Nat) (v : Nat) : ∃ m, setVersion s g v = { s with gmeta := m } :=
  foldl_only (fun s c => { s with gmeta := c }) (fun _ _ _ => rfl) _ (fun _ _ => ⟨_, rfl⟩) (fun s => ⟨s.gmeta, rfl⟩) _ _

theorem metaEffect_only (s : State) (k : AccKind) (g : List Nat) (v : Nat) :
    ∃ m, metaEffect s k g v = { s with gmeta := m } := by
  unfold metaEffect
  split <;> first
    | exact ⟨_, rfl⟩
    | exact setFull_only _ _ _
    | exact setVersion_only _ _ _

theorem openRow_only (s : State) (c : Nat) (p : Place) : ∃ r, openRow s c p = { s with rowOpen := r } := by
  unfold openRow
  split <;> exact ⟨_, rfl⟩

theorem openRows_only {α : Type} (l : List α) (c : Nat) (f : α → Place) (s : State) :
    ∃ r, l.foldl (fun s a => openRow s c (f a)) s = { s with rowOpen := r } :=
  foldl_only (fun s c => { s with rowOpen := c }) (fun _ _ _ => rfl) _ (fun s a => openRow_only s c (f a)) (fun s => ⟨s.rowOpen, rfl⟩)
    _ _

theorem clearPoison_only (s : State) (e : Entry) (h : Home) (locs : List Nat) :
    ∃ p, clearPoison s e h locs = { s with poison := p } := by
  unfold clearPoison
  split
  · split <;> exact ⟨_, rfl⟩
  · exact ⟨_, rfl⟩

/-! ## Bytes -/

theorem writePlace_only (s : State) (p : Place) (b : Byte) :
    ∃ m : Memory × Memory × Memory, writePlace s p b = { s with slice := m.1, dram := m.2.1, host := m.2.2 } := by
  unfold writePlace
  split
  · exact ⟨(_, s.dram, s.host), rfl⟩
  · exact ⟨(s.slice, _, s.host), rfl⟩
  · exact ⟨(s.slice, s.dram, _), rfl⟩
  · exact ⟨(s.slice, s.dram, s.host), rfl⟩
  · exact ⟨(s.slice, s.dram, s.host), rfl⟩

/-- The tests of counted waits change those waits only (R309). -/
theorem testCounts_only (s : State) : ∃ t, testCounts s = { s with counting := t } := ⟨_, rfl⟩

/-- The memories in which elements lie, with the counted waits that test them. -/
abbrev Stored := Memory × Memory × Memory × Table CountTest

/-- The state with these as given. -/
abbrev State.withStored (s : State) (m : Stored) : State :=
  { s with slice := m.1, dram := m.2.1, host := m.2.2.1, counting := m.2.2.2 }

theorem writeElem_only (s : State) (c : Nat) (x : Ctx) (e : Entry) (h : Home) (a v : Nat) :
    ∃ m : Stored, writeElem s c x e h a v = s.withStored m := by
  obtain ⟨m, hm⟩ := foldl_only State.withStored (fun _ _ _ => rfl)
    (fun s b => writePlace s (placeOf x e h b) (mixByte (readPlace s c (placeOf x e h b)) a e.width v b))
    (fun s b => by
      obtain ⟨m, hm⟩ := writePlace_only s (placeOf x e h b) (mixByte (readPlace s c (placeOf x e h b)) a e.width v b)
      exact ⟨(m.1, m.2.1, m.2.2, s.counting), hm⟩)
    (fun s => ⟨(s.slice, s.dram, s.host, s.counting), rfl⟩) (elemBytes a e.width) s
  obtain ⟨t, ht⟩ := testCounts_only (s.withStored m)
  exact ⟨(m.1, m.2.1, m.2.2.1, t), (congrArg testCounts hm).trans ht⟩

theorem writeElems_only {α : Type} (l : List α) (c : Nat) (x : Ctx) (e : Entry) (h : Home) (f g : α → Nat) (s : State) :
    ∃ m : Stored, l.foldl (fun s p => writeElem s c x e h (f p) (g p)) s = s.withStored m :=
  foldl_only State.withStored (fun _ _ _ => rfl) _ (fun s _ => writeElem_only s c x e h _ _)
    (fun s => ⟨(s.slice, s.dram, s.host, s.counting), rfl⟩) _ _

end Sys2Proof.Machine
end

