-- ==== Sys2Proof/Laws/Boot.lean ====
section
/-! SUPPORT. The package as State.reset has it passes every check of power-on (R9, R10). -/

set_option maxRecDepth 100000

namespace Sys2Proof.Machine

theorem healthy_romOk : Boot.healthy.romOk = true := decide_eq_true rfl

theorem resetImage_readable : readableImage resetImage = true := by decide +kernel

theorem healthy_image : Boot.healthy.image = some resetImage := by
  have h : (some resetImage).filter readableImage = some resetImage := Option.filter_some_pos resetImage_readable
  simp only [Boot.image, Boot.healthy, h]

/-- The key, the signature and the version of the image are good. -/
theorem healthy_imageError : imageError Boot.healthy resetImage = none := by decide +kernel

/-- Power-on of a healthy package ends READY at stage 9 (R9, R11). -/
theorem powerOn_healthy (s : State) (h : s.boot = Boot.healthy) :
    (powerOn s).mgmt.ready = true ∧ (powerOn s).mgmt.stage = 9#4 := by
  unfold powerOn
  simp only [h, healthy_romOk, healthy_image, healthy_imageError]
  exact ⟨rfl, rfl⟩

end Sys2Proof.Machine
end

