-- ==== Sys2Proof/Laws/Control.lean ====
section
/-! SUPPORT. Control registers after a write (R105 to R110). -/

namespace Sys2Proof.Machine

/-- A write to one control register leaves every other. -/
theorem readCr_writeCr_other (c : Core) {n k : Nat} (x : Word) (h : n ≠ k) : readCr (writeCr c n x) k = readCr c k := by
  unfold writeCr
  dsimp only
  have hk := Ne.symm h
  by_cases h0 : n = 0x000
  · subst h0
    simp only [Nat.reduceEqDiff, reduceIte]
    unfold readCr tstatOf
    simp only [hk, if_false]
  by_cases h1 : n = 0x001
  · subst h1
    simp only [Nat.reduceEqDiff, reduceIte]
    unfold readCr tstatOf
    simp only [hk, if_false]
  by_cases h2 : n = 0x008
  · subst h2
    simp only [Nat.reduceEqDiff, reduceIte]
    unfold readCr tstatOf
    simp only [hk, if_false]
  by_cases h3 : n = 0x009
  · subst h3
    simp only [Nat.reduceEqDiff, reduceIte]
    unfold readCr tstatOf
    simp only [hk, if_false]
  by_cases h4 : n = 0x00A
  · subst h4
    simp only [Nat.reduceEqDiff, reduceIte]
    unfold readCr tstatOf
    simp only [hk, if_false]
  by_cases h5 : n = 0x010
  · subst h5
    simp only [Nat.reduceEqDiff, reduceIte]
    unfold readCr tstatOf
    simp only [hk, if_false]
  by_cases h6 : n = 0x011
  · subst h6
    simp only [Nat.reduceEqDiff, reduceIte]
    unfold readCr tstatOf
    simp only [hk, if_false]
  by_cases h7 : n = 0x012
  · subst h7
    simp only [Nat.reduceEqDiff, reduceIte]
    unfold readCr tstatOf
    simp only [hk, if_false]
  by_cases h8 : n = 0x013
  · subst h8
    simp only [Nat.reduceEqDiff, reduceIte]
    unfold readCr tstatOf
    simp only [hk, if_false]
  by_cases h9 : n = 0x018
  · subst h9
    simp only [Nat.reduceEqDiff, reduceIte]
    unfold readCr tstatOf
    simp only [hk, if_false]
  by_cases h10 : n = 0x019
  · subst h10
    simp only [Nat.reduceEqDiff, reduceIte]
    unfold readCr tstatOf
    simp only [hk, if_false]
  by_cases h11 : n = 0x01A
  · subst h11
    simp only [Nat.reduceEqDiff, reduceIte]
    unfold readCr tstatOf
    simp only [hk, if_false]
  by_cases h12 : n = 0x028
  · subst h12
    simp only [Nat.reduceEqDiff, reduceIte]
    unfold readCr tstatOf
    simp only [hk, if_false]
  by_cases h13 : n = 0x029
  · subst h13
    simp only [Nat.reduceEqDiff, reduceIte]
    unfold readCr tstatOf
    simp only [hk, if_false]
  by_cases h14 : n = 0x02A
  · subst h14
    simp only [Nat.reduceEqDiff, reduceIte]
    unfold readCr tstatOf
    simp only [hk, if_false]
  by_cases h15 : n = 0x02B
  · subst h15
    simp only [Nat.reduceEqDiff, reduceIte]
    unfold readCr tstatOf
    simp only [hk, if_false]
  by_cases h16 : n = 0x040
  · subst h16
    simp only [Nat.reduceEqDiff, reduceIte]
    unfold readCr tstatOf
    simp only [hk, if_false]
  by_cases h17 : n = 0x041
  · subst h17
    simp only [Nat.reduceEqDiff, reduceIte]
    unfold readCr tstatOf
    simp only [hk, if_false]
  by_cases h18 : n = 0x042
  · subst h18
    simp only [Nat.reduceEqDiff, reduceIte]
    unfold readCr tstatOf
    simp only [hk, if_false]
  by_cases h19 : n = 0x044
  · subst h19
    simp only [Nat.reduceEqDiff, reduceIte]
    unfold readCr tstatOf
    simp only [hk, if_false]
  by_cases h20 : n = 0x050
  · subst h20
    simp only [Nat.reduceEqDiff, reduceIte]
    unfold readCr tstatOf
    simp only [hk, if_false]
  simp only [h0, h1, h2, h3, h4, h5, h6, h7, h8, h9, h10, h11, h12, h13, h14, h15, h16, h17, h18, h19, h20, if_false]

end Sys2Proof.Machine
end

