-- ==== Sys2Proof/Laws/Element.lean ====
section
/-! SUPPORT. The elements of a slice: what the bits of an element are, and that an element reads as it was written. -/

namespace Sys2Proof.Machine

/-- Bit i of a little-endian number of bytes. -/
theorem testBit_bytes (f : Nat → Byte) (n p i : Nat) :
    (((List.range n).map (fun j => p + j)).foldr (fun b acc => (f b).toNat + 256 * acc) 0).testBit i =
      (decide (i < 8 * n) && (f (p + i / 8)).getLsbD (i % 8)) := by
  induction n generalizing p i with
  | zero => simp
  | succ n ih =>
    rw [List.range_succ_eq_map, List.map_cons, List.foldr_cons, List.map_map]
    have h1 : ((fun j => p + j) ∘ Nat.succ) = (fun j => (p + 1) + j) := by funext j; simp; omega
    have hb := (f (p + 0)).isLt
    rw [h1, show (256 : Nat) = 2 ^ 8 from rfl, Nat.add_comm, Nat.testBit_two_pow_mul_add _ hb]
    split
    · rename_i hi
      have h8 : i / 8 = 0 := by omega
      have hm : i % 8 = i := by omega
      rw [h8, hm, BitVec.testBit_toNat]
      have : i < 8 * (n + 1) := by omega
      simp [this]
    · rename_i hi
      rw [show (2 : Nat) ^ 8 = 256 from rfl, ih]
      have e1 : p + 1 + (i - 8) / 8 = p + i / 8 := by omega
      have e2 : (i - 8) % 8 = i % 8 := by omega
      have e3 : decide (i - 8 < 8 * n) = decide (i < 8 * (n + 1)) := by congr 1; apply propext; omega
      rw [e1, e2, e3]

/-- Bit i of the w bits at bit address a. -/
theorem testBit_readBits (f : Nat → Byte) (a w i : Nat) (hw : 0 < w) :
    (readBits f a w).testBit i = (decide (i < w) && (f ((a + i) / 8)).getLsbD ((a + i) % 8)) := by
  unfold readBits elemBytes
  rw [Nat.testBit_mod_two_pow]
  by_cases hi : i < w
  · rw [Nat.testBit_div_two_pow, testBit_bytes]
    unfold firstByte lastByte
    have h1 : a % 8 + i < 8 * ((a + w - 1) / 8 - a / 8 + 1) := by omega
    have h2 : a / 8 + (a % 8 + i) / 8 = (a + i) / 8 := by omega
    have h3 : (a % 8 + i) % 8 = (a + i) % 8 := by omega
    rw [Nat.add_comm i (a % 8), h2, h3]
    simp [hi, h1]
  · simp [hi]

theorem readBits_lt (f : Nat → Byte) (a w : Nat) : readBits f a w < 2 ^ w := Nat.mod_lt _ (Nat.two_pow_pos w)

/-- The byte of eight bits. -/
theorem getLsbD_bits (f : Nat → Bool) (k : Nat) (hk : k < 8) :
    (BitVec.ofNat 8 ((List.range 8).foldl (fun acc j => acc + if f j then 2 ^ j else 0) 0)).getLsbD k = f k := by
  have h : ∀ b0 b1 b2 b3 b4 b5 b6 b7 : Bool, ∀ k : Fin 8,
      (BitVec.ofNat 8 (0 + (if b0 then 1 else 0) + (if b1 then 2 else 0) + (if b2 then 4 else 0) + (if b3 then 8 else 0) +
        (if b4 then 16 else 0) + (if b5 then 32 else 0) + (if b6 then 64 else 0) + (if b7 then 128 else 0))).getLsbD k =
      [b0, b1, b2, b3, b4, b5, b6, b7].getD k false := by decide
  have := h (f 0) (f 1) (f 2) (f 3) (f 4) (f 5) (f 6) (f 7) ⟨k, hk⟩
  refine Eq.trans ?_ (this.trans ?_)
  · rfl
  · obtain rfl | rfl | rfl | rfl | rfl | rfl | rfl | rfl : k = 0 ∨ k = 1 ∨ k = 2 ∨ k = 3 ∨ k = 4 ∨ k = 5 ∨ k = 6 ∨ k = 7 := by omega
    all_goals rfl

/-- Bit k of a mixed byte. -/
theorem getLsbD_mixByte (old : Byte) (a w v b k : Nat) (hk : k < 8) :
    (mixByte old a w v b).getLsbD k = if a ≤ 8 * b + k ∧ 8 * b + k < a + w then v.testBit (8 * b + k - a) else old.getLsbD k :=
  (getLsbD_bits (fun k => if a ≤ 8 * b + k ∧ 8 * b + k < a + w then v.testBit (8 * b + k - a) else old.getLsbD k) k hk).trans rfl

/-- Reading the w bits at bit address a of bytes that have been mixed with v gives v. -/
theorem readBits_mix (f g : Nat → Byte) (a w v : Nat) (hw : 0 < w) (h : ∀ b ∈ elemBytes a w, g b = mixByte (f b) a w v b) :
    readBits g a w = v % 2 ^ w := by
  apply Nat.eq_of_testBit_eq
  intro i
  rw [testBit_readBits _ _ _ _ hw, Nat.testBit_mod_two_pow]
  by_cases hi : i < w
  · have hm : (a + i) / 8 ∈ elemBytes a w := by
      unfold elemBytes firstByte lastByte
      simp only [List.mem_map, List.mem_range]
      exact ⟨(a + i) / 8 - a / 8, by omega, by omega⟩
    have e : 8 * ((a + i) / 8) + (a + i) % 8 = a + i := by omega
    rw [h _ hm, getLsbD_mixByte _ _ _ _ _ _ (Nat.mod_lt _ (by decide)), e, if_pos ⟨by omega, by omega⟩]
    simp
  · simp [hi]

/-- A read of bits depends on the bytes of the element only. -/
theorem readBits_congr (f g : Nat → Byte) (a w : Nat) (h : ∀ b ∈ elemBytes a w, g b = f b) : readBits g a w = readBits f a w := by
  unfold readBits
  congr 2
  revert h
  generalize elemBytes a w = l
  intro h
  induction l with
  | nil => rfl
  | cons b l ih =>
    rw [List.foldr_cons, List.foldr_cons, h b (List.mem_cons_self ..), ih (fun c hc => h c (List.mem_cons_of_mem _ hc))]

theorem nodup_elemBytes (a w : Nat) : (elemBytes a w).Nodup := by
  unfold elemBytes
  exact List.nodup_range.map (fun i j h => by simpa using h)

/-- The bytes of an element after it is written: mixed at its own keys, as before elsewhere. key is the place of a byte. -/
theorem foldl_mix (key : Nat → Nat) (a w v : Nat) (l : List Nat) (hl : l.Nodup) (hk : ∀ b ∈ l, ∀ c ∈ l, key b = key c → b = c)
    (m : Memory) :
    (∀ b ∈ l, (l.foldl (fun m b => m.write (key b) (mixByte (m.read (key b)) a w v b)) m).read (key b) =
      mixByte (m.read (key b)) a w v b) ∧
    ∀ j, (∀ b ∈ l, key b ≠ j) → (l.foldl (fun m b => m.write (key b) (mixByte (m.read (key b)) a w v b)) m).read j = m.read j := by
  induction l generalizing m with
  | nil => exact ⟨fun b hb => absurd hb (List.not_mem_nil), fun _ _ => rfl⟩
  | cons b l ih =>
    obtain ⟨hb, hl'⟩ := List.nodup_cons.1 hl
    obtain ⟨h1, h2⟩ := ih hl' (fun c hc d hd => hk c (List.mem_cons_of_mem _ hc) d (List.mem_cons_of_mem _ hd))
      (m.write (key b) (mixByte (m.read (key b)) a w v b))
    have hne : ∀ c ∈ l, key c ≠ key b := fun c hc e =>
      hb (hk c (List.mem_cons_of_mem _ hc) b (List.mem_cons_self ..) e ▸ hc)
    refine ⟨?_, ?_⟩
    · intro c hc
      rw [List.foldl_cons]
      rcases List.mem_cons.1 hc with rfl | hc
      · rw [h2 _ hne, Memory.read_write_same]
      · rw [h1 c hc, Memory.read_write_other _ _ (hne c hc)]
    · intro j hj
      rw [List.foldl_cons, h2 j (fun c hc => hj c (List.mem_cons_of_mem _ hc)),
        Memory.read_write_other _ _ (Ne.symm (hj b (List.mem_cons_self ..)))]

/-- The bank permutation of a well-formed entry maps the eight banks one to one. -/
theorem bankOf_inj {p : Nat} (h : bankpOk p = true) {i j : Nat} (hi : i < 8) (hj : j < 8) (e : bankOf p i = bankOf p j) : i = j := by
  have hs : ∀ q < 8, ∃ b < 8, bankOf p b = q := by
    intro q hq
    have := List.all_eq_true.1 h q (List.mem_range.2 hq)
    obtain ⟨b, hb, hbq⟩ := List.any_eq_true.1 this
    exact ⟨b, List.mem_range.1 hb, by simpa using hbq⟩
  have hlt : ∀ b, bankOf p b < 8 := fun b => Nat.mod_lt _ (by decide)
  have hsur : Function.Surjective (fun b : Fin 8 => (⟨bankOf p b, hlt b⟩ : Fin 8)) := by
    intro q
    obtain ⟨b, hb, hq⟩ := hs q q.isLt
    exact ⟨⟨b, hb⟩, Fin.ext hq⟩
  have hinj := Finite.injective_iff_surjective.2 hsur
  have := @hinj ⟨i, hi⟩ ⟨j, hj⟩ (Fin.ext e)
  exact congrArg Fin.val this

/-- A slice's physical offsets are inside it, and different where the offsets are. -/
theorem physOff_lt (p : Nat) {b : Nat} (hb : b < 2 ^ 21) : physOff p b < 2 ^ 21 := by
  unfold physOff
  have : bankOf p (b / 16 % 8) < 8 := Nat.mod_lt _ (by decide)
  omega

theorem physOff_inj {p : Nat} (h : bankpOk p = true) {b c : Nat} (e : physOff p b = physOff p c) : b = c := by
  unfold physOff at e
  have h1 : bankOf p (b / 16 % 8) < 8 := Nat.mod_lt _ (by decide)
  have h2 : bankOf p (c / 16 % 8) < 8 := Nat.mod_lt _ (by decide)
  have h3 : bankOf p (b / 16 % 8) = bankOf p (c / 16 % 8) := by omega
  have := bankOf_inj h (Nat.mod_lt _ (by decide)) (Nat.mod_lt _ (by decide)) h3
  omega

theorem mem_elemBytes_le {a w b : Nat} (hw : 0 < w) (h : b ∈ elemBytes a w) : b ≤ lastByte a w := by
  unfold elemBytes at h
  obtain ⟨i, hi, rfl⟩ := List.mem_map.1 h
  have := List.mem_range.1 hi
  unfold firstByte lastByte at *
  omega

/-- Writing an element of a slice changes the slices, and tests the counted waits (R309). -/
theorem writeAt_only (s : State) (home bankp a w v : Nat) :
    writeAt s home bankp a w v = testCounts { s with slice := (elemBytes a w).foldl (fun m b =>
      m.write (sliceKey home (physOff bankp b)) (mixByte (m.read (sliceKey home (physOff bankp b))) a w v b)) s.slice } := by
  unfold writeAt
  congr 1
  generalize elemBytes a w = l
  induction l generalizing s with
  | nil => rfl
  | cons b l ih =>
    rw [List.foldl_cons, List.foldl_cons, ih]

/-- An element of a slice reads as it was written, and no other byte changes. -/
theorem writeAt_spec (s : State) (home bankp a w v : Nat) (hp : bankpOk bankp = true) (hw : 0 < w) :
    readAt (writeAt s home bankp a w v) home bankp a w = v % 2 ^ w ∧
    ∀ j, (∀ b ∈ elemBytes a w, sliceKey home (physOff bankp b) ≠ j) → (writeAt s home bankp a w v).slice.read j = s.slice.read j := by
  have hk : ∀ b ∈ elemBytes a w, ∀ c ∈ elemBytes a w,
      sliceKey home (physOff bankp b) = sliceKey home (physOff bankp c) → b = c := by
    intro b _ c _ e
    exact physOff_inj hp (by unfold sliceKey at e; omega)
  obtain ⟨h1, h2⟩ := foldl_mix (fun b => sliceKey home (physOff bankp b)) a w v _ (nodup_elemBytes a w) hk s.slice
  rw [writeAt_only]
  refine ⟨?_, h2⟩
  unfold readAt
  exact readBits_mix (fun b => s.slice.read (sliceKey home (physOff bankp b))) _ a w v hw h1

/-- The same for an access whose home is a slice. -/
theorem writeElem_slice (s : State) (c : Nat) (x : Ctx) (e : Entry) (core a v : Nat) :
    writeElem s c x e (.slice core) a v = writeAt s core e.bankp a e.width v := rfl

theorem readElem_slice (s : State) (c : Nat) (x : Ctx) (e : Entry) (core a : Nat) :
    readElem s c x e (.slice core) a = readAt s core e.bankp a e.width := rfl

/-- The bank permutation of an entry that passes the checks. -/
theorem bankpOk_of_entryOk {E : Env} {e : Entry} (h : entryOk E e = true) : bankpOk e.bankp = true := by
  unfold entryOk wellFormedEntry at h
  simp only [Bool.and_eq_true] at h
  exact h.1.1.1.2

theorem entryOk_of_layout {E : Env} {f : Form} {e : Entry} {css : List (List Nat)} (h : layoutCheck E f e css = none) :
    entryOk E e = true := by
  unfold layoutCheck entryCause at h
  by_contra hn
  simp only [Bool.not_eq_true] at hn
  rw [hn] at h
  cases h

/-! ## Guards and located elements -/

/-- An access goes on when every guard lets it pass. -/
theorem guarded_pass {s : State} {l : List Guard} (b : Body) (h : ∀ g ∈ l, g = .pass) : guarded s (firstGuard l) b = b := by
  have : firstGuard l = .pass := by
    induction l with
    | nil => rfl
    | cons g l ih =>
      obtain rfl := h g (List.mem_cons_self ..)
      exact ih (fun g hg => h g (List.mem_cons_of_mem _ hg))
  rw [this]
  rfl

theorem homeGuard_pass {E : Env} {h : Home} (hh : remoteHome E.n h = true → atHome E.c = true) : homeGuard E h = .pass := by
  unfold homeGuard
  rw [if_neg]
  intro c
  rw [Bool.and_eq_true] at c
  simp [hh c.1] at c

theorem withSpot_eq {E : Env} {f : Form} {h a : Reg} {p : Spot} (go : Spot → Body) (hp : spotOf E f h a = .inr p) :
    withSpot E f h a go = go p := by
  unfold withSpot
  rw [hp]

theorem spotOf_bankp {E : Env} {f : Form} {h a : Reg} {p : Spot} (hp : spotOf E f h a = .inr p) : bankpOk p.e.bankp = true := by
  unfold spotOf at hp
  dsimp only at hp
  split at hp
  · cases hp
  · cases hp
    exact bankpOk_of_entryOk (entryOk_of_layout ‹_›)

end Sys2Proof.Machine
end

