-- ==== Sys2Proof/Laws/Encode.lean ====
section
/-! SUPPORT. The groups of a packed word, and fields of concatenations. -/

namespace Sys2Proof.Laws

/-- The low n bits of a concatenation are its second part. -/
@[simp] theorem extract_append_low {m n : Nat} (x : BitVec m) (y : BitVec n) : (x ++ y).extractLsb' 0 n = y := by
  ext i hi
  simp [BitVec.getLsbD_append, hi]

/-- The bits from n on of a concatenation are its first part. -/
@[simp] theorem extract_append_high {m n : Nat} (x : BitVec m) (y : BitVec n) : (x ++ y).extractLsb' n m = x := by
  ext i hi
  simp [BitVec.getLsbD_append, hi]

/-- A field inside the second part. -/
theorem extract_append_in_low {m n k l : Nat} (x : BitVec m) (y : BitVec n) (h : k + l ≤ n) :
    (x ++ y).extractLsb' k l = y.extractLsb' k l := by
  ext i hi
  simp [BitVec.getLsbD_append, show k + i < n by omega]

/-- A field inside the first part. -/
theorem extract_append_in_high {m n k l : Nat} (x : BitVec m) (y : BitVec n) (h : n ≤ k) :
    (x ++ y).extractLsb' k l = x.extractLsb' (k - n) l := by
  ext i hi
  simp [BitVec.getLsbD_append, show ¬ k + i < n by omega, show k + i - n = k - n + i by omega]

/-- Adjacent fields of a word that make all of it. -/
theorem joinBits2 {m n : Nat} (x : BitVec (m + n)) : x.extractLsb' n m ++ x.extractLsb' 0 n = x := by
  simp

theorem joinBits3 {m n k : Nat} (x : BitVec (m + n + k)) :
    x.extractLsb' (n + k) m ++ x.extractLsb' k n ++ x.extractLsb' 0 k = x := by
  rw [show n + k = k + n from Nat.add_comm n k, BitVec.extractLsb'_append_extractLsb'_eq_extractLsb' rfl]
  exact joinBits2 x

theorem joinBits4 {m n k l : Nat} (x : BitVec (m + n + k + l)) :
    x.extractLsb' (l + k + n) m ++ x.extractLsb' (l + k) n ++ x.extractLsb' l k ++ x.extractLsb' 0 l = x := by
  rw [BitVec.extractLsb'_append_extractLsb'_eq_extractLsb' rfl, BitVec.extractLsb'_append_extractLsb'_eq_extractLsb' rfl]
  exact joinBits2 x

/-! ## The groups of a word -/

@[simp] theorem pack_bit0 (x : BitVec 4) (f : BitVec 6) (b a d : BitVec 5) (m : BitVec 6) : (pack x f b a d m).getLsbD 0 = true :=
  BitVec.getLsbD_append.trans (by simp)
@[simp] theorem pack_maj (x : BitVec 4) (f : BitVec 6) (b a d : BitVec 5) (m : BitVec 6) :
    (pack x f b a d m).extractLsb' 1 6 = m :=
  (extract_append_in_high _ _ (by decide)).trans (extract_append_low _ _)
@[simp] theorem pack_d (x : BitVec 4) (f : BitVec 6) (b a d : BitVec 5) (m : BitVec 6) :
    (pack x f b a d m).extractLsb' 7 5 = d :=
  (extract_append_in_high _ _ (by decide)).trans ((extract_append_in_high _ _ (by decide)).trans (extract_append_low _ _))
@[simp] theorem pack_a (x : BitVec 4) (f : BitVec 6) (b a d : BitVec 5) (m : BitVec 6) :
    (pack x f b a d m).extractLsb' 12 5 = a :=
  (extract_append_in_high _ _ (by decide)).trans ((extract_append_in_high _ _ (by decide)).trans ((extract_append_in_high _ _ (by decide)).trans (extract_append_low _ _)))
@[simp] theorem pack_b (x : BitVec 4) (f : BitVec 6) (b a d : BitVec 5) (m : BitVec 6) :
    (pack x f b a d m).extractLsb' 17 5 = b :=
  (extract_append_in_high _ _ (by decide)).trans ((extract_append_in_high _ _ (by decide)).trans ((extract_append_in_high _ _ (by decide)).trans ((extract_append_in_high _ _ (by decide)).trans (extract_append_low _ _))))
@[simp] theorem pack_f (x : BitVec 4) (f : BitVec 6) (b a d : BitVec 5) (m : BitVec 6) :
    (pack x f b a d m).extractLsb' 22 6 = f :=
  (extract_append_in_high _ _ (by decide)).trans ((extract_append_in_high _ _ (by decide)).trans ((extract_append_in_high _ _ (by decide)).trans ((extract_append_in_high _ _ (by decide)).trans ((extract_append_in_high _ _ (by decide)).trans (extract_append_low _ _)))))
@[simp] theorem pack_x (x : BitVec 4) (f : BitVec 6) (b a d : BitVec 5) (m : BitVec 6) :
    (pack x f b a d m).extractLsb' 28 4 = x :=
  (extract_append_in_high _ _ (by decide)).trans ((extract_append_in_high _ _ (by decide)).trans ((extract_append_in_high _ _ (by decide)).trans ((extract_append_in_high _ _ (by decide)).trans ((extract_append_in_high _ _ (by decide)).trans (extract_append_high _ _)))))

/-- What a packed word selects depends on its groups. -/
theorem rawDecode_pack (x : BitVec 4) (f : BitVec 6) (b a d : BitVec 5) (m : BitVec 6) : rawDecode (pack x f b a d m) = rawWord x f b a d m := by
  simp [rawDecode]

/-! ## The groups of a parcel -/

theorem rawDecode_packC (e : BitVec 1) (a d : BitVec 5) (o : BitVec 4) :
    rawDecode (0#16 ++ packC e a d o) = rawCompact e a d o := by
  have h0 : ((0#16 ++ packC e a d o : Word)).getLsbD 0 = false := by
    have h : (packC e a d o).getLsbD 0 = false := BitVec.getLsbD_append.trans (by simp)
    exact (BitVec.getLsbD_append (x := 0#16) (y := packC e a d o)).trans (by rw [h]; rfl)
  have h1 : ((0#16 ++ packC e a d o : Word)).extractLsb' 1 4 = o :=
    (extract_append_in_low _ _ (by decide)).trans
      ((extract_append_in_high _ _ (by decide)).trans (extract_append_low _ _))
  have h2 : ((0#16 ++ packC e a d o : Word)).extractLsb' 5 5 = d :=
    (extract_append_in_low _ _ (by decide)).trans
      ((extract_append_in_high _ _ (by decide)).trans ((extract_append_in_high _ _ (by decide)).trans (extract_append_low _ _)))
  have h3 : ((0#16 ++ packC e a d o : Word)).extractLsb' 10 5 = a :=
    (extract_append_in_low _ _ (by decide)).trans
      ((extract_append_in_high _ _ (by decide)).trans ((extract_append_in_high _ _ (by decide)).trans
        ((extract_append_in_high _ _ (by decide)).trans (extract_append_low _ _))))
  have h4 : ((0#16 ++ packC e a d o : Word)).extractLsb' 15 1 = e :=
    (extract_append_in_low _ _ (by decide)).trans
      ((extract_append_in_high _ _ (by decide)).trans ((extract_append_in_high _ _ (by decide)).trans
        ((extract_append_in_high _ _ (by decide)).trans (extract_append_high _ _))))
  simp only [rawDecode, h0, h1, h2, h3, h4]
  rfl

/-! ## The decoder on an encoded word -/

/-- A word that is neither zero in its first parcel nor a pool marker, and whose instruction encodes to it, decodes. -/
theorem decodeWord_of_raw {w : Word} {i : Instr} (hz : w.extractLsb' 0 16 ≠ 0#16) (hp : w.extractLsb' 0 7 ≠ 0x7F#7)
    (hr : rawDecode w = some i) (hw : wellFormed i = true) (he : encodeWord i = w) : decodeWord w = .instr i := by
  simp [decodeWord, hz, hp, hr, hw, he]

/-- A word that is encoded with bit 0 set has a first parcel other than zero. -/
theorem low_ne_zero {w : Word} (h : w.getLsbD 0 = true) : w.extractLsb' 0 16 ≠ 0#16 := by
  intro e
  have h0 := congrArg (fun v => v.getLsbD 0) e
  have h1 : (w.extractLsb' 0 16).getLsbD 0 = w.getLsbD 0 := by simp only [BitVec.getLsbD_extractLsb']; simp
  exact absurd ((h1.trans h).symm.trans h0) (by decide)

/-- The low seven bits of a word hold MAJ above bit 0. -/
theorem low_ne_pool {w : Word} (h : w.extractLsb' 1 6 ≠ 0x3F#6) : w.extractLsb' 0 7 ≠ 0x7F#7 := by
  intro e
  have h1 : (w.extractLsb' 0 7).extractLsb' 1 6 = w.extractLsb' 1 6 := by
    ext i hi
    simp
  exact h (h1.symm.trans (congrArg (fun v => v.extractLsb' 1 6) e))

/-- A packed word of another MAJ than the pool marker's decodes to what its groups select. -/
theorem decode_pack {x : BitVec 4} {f : BitVec 6} {b a d : BitVec 5} {m : BitVec 6} {i : Instr} (hm : m ≠ 0x3F#6)
    (he : encodeWord i = pack x f b a d m) (hr : rawWord x f b a d m = some i) (hw : wellFormed i = true) :
    decodeWord (encodeWord i) = .instr i := by
  rw [he]
  refine decodeWord_of_raw ?_ ?_ ((rawDecode_pack x f b a d m).trans hr) hw he
  · exact low_ne_zero (pack_bit0 x f b a d m)
  · exact low_ne_pool ((pack_maj x f b a d m).symm ▸ hm)

/-- A parcel with a group other than zero decodes to what its groups select. -/
theorem decode_packC {e : BitVec 1} {a d : BitVec 5} {o : BitVec 4} {i : Instr} (hn : o ≠ 0#4 ∨ a ≠ 0#5 ∨ d ≠ 0#5)
    (he : encodeWord i = 0#16 ++ packC e a d o) (hr : rawCompact e a d o = some i) (hw : wellFormed i = true) :
    decodeWord (encodeWord i) = .instr i := by
  rw [he]
  refine decodeWord_of_raw ?_ ?_ ((rawDecode_packC e a d o).trans hr) hw he
  · rw [extract_append_low]
    intro h
    have ho : (packC e a d o).extractLsb' 1 4 = o := (extract_append_in_high _ _ (by decide)).trans (extract_append_low _ _)
    have hd : (packC e a d o).extractLsb' 5 5 = d :=
      (extract_append_in_high _ _ (by decide)).trans ((extract_append_in_high _ _ (by decide)).trans (extract_append_low _ _))
    have ha : (packC e a d o).extractLsb' 10 5 = a :=
      (extract_append_in_high _ _ (by decide)).trans
        ((extract_append_in_high _ _ (by decide)).trans ((extract_append_in_high _ _ (by decide)).trans (extract_append_low _ _)))
    rw [h] at ho hd ha
    rcases hn with hn | hn | hn
    · exact hn (ho.symm.trans (by decide))
    · exact hn (ha.symm.trans (by decide))
    · exact hn (hd.symm.trans (by decide))
  · intro h
    have h0 : (packC e a d o).getLsbD 0 = false := BitVec.getLsbD_append.trans (by simp)
    have h1 : ((0#16 ++ packC e a d o : Word).extractLsb' 0 7).getLsbD 0 = false :=
      (congrArg (fun v => v.getLsbD 0) (extract_append_in_low 0#16 (packC e a d o) (k := 0) (l := 7) (by decide))).trans
        (by simp only [BitVec.getLsbD_extractLsb']; simpa using h0)
    exact absurd (h1.symm.trans (congrArg (fun v => v.getLsbD 0) h)) (by decide)

/-- A marks operand whose B has no mark. -/
theorem noHoldB_eq {m : Vm} (h : noHoldB m = true) : m = ⟨m.w, m.pred, 0#1, m.ha⟩ := by
  obtain ⟨w, p, hb, ha⟩ := m
  simpa [noHoldB] using h

/-- A marks operand without marks. -/
theorem noHold_eq {m : Vm} (h : noHold m = true) : m = ⟨m.w, m.pred, 0#1, 0#1⟩ := by
  obtain ⟨w, p, hb, ha⟩ := m
  simpa [noHold] using h

end Sys2Proof.Laws
end

