-- ==== Sys2Proof/Laws/PerInstr.lean ====
section
/-! SUPPORT. Statements about every instruction as syntax, one lemma per constructor. -/



namespace Sys2Proof.Laws.RoundTrip

/-- The decoder reads a well-formed instruction back from its word (R78, R79). -/
def Statement (i : Instr) : Prop := wellFormed i = true → decodeWord (encodeWord i) = .instr i

theorem add (d : Reg) (a : Reg) (b : Reg) : Statement (.add d a b) :=
  fun hw => decode_pack (by decide) rfl rfl hw
theorem sub (d : Reg) (a : Reg) (b : Reg) : Statement (.sub d a b) :=
  fun hw => decode_pack (by decide) rfl rfl hw
theorem and (d : Reg) (a : Reg) (b : Reg) : Statement (.and d a b) :=
  fun hw => decode_pack (by decide) rfl rfl hw
theorem or (d : Reg) (a : Reg) (b : Reg) : Statement (.or d a b) :=
  fun hw => decode_pack (by decide) rfl rfl hw
theorem xor (d : Reg) (a : Reg) (b : Reg) : Statement (.xor d a b) :=
  fun hw => decode_pack (by decide) rfl rfl hw
theorem andn (d : Reg) (a : Reg) (b : Reg) : Statement (.andn d a b) :=
  fun hw => decode_pack (by decide) rfl rfl hw
theorem sll (d : Reg) (a : Reg) (b : Reg) : Statement (.sll d a b) :=
  fun hw => decode_pack (by decide) rfl rfl hw
theorem srl (d : Reg) (a : Reg) (b : Reg) : Statement (.srl d a b) :=
  fun hw => decode_pack (by decide) rfl rfl hw
theorem sra (d : Reg) (a : Reg) (b : Reg) : Statement (.sra d a b) :=
  fun hw => decode_pack (by decide) rfl rfl hw
theorem slt (d : Reg) (a : Reg) (b : Reg) : Statement (.slt d a b) :=
  fun hw => decode_pack (by decide) rfl rfl hw
theorem sltu (d : Reg) (a : Reg) (b : Reg) : Statement (.sltu d a b) :=
  fun hw => decode_pack (by decide) rfl rfl hw
theorem min (d : Reg) (a : Reg) (b : Reg) : Statement (.min d a b) :=
  fun hw => decode_pack (by decide) rfl rfl hw
theorem max (d : Reg) (a : Reg) (b : Reg) : Statement (.max d a b) :=
  fun hw => decode_pack (by decide) rfl rfl hw
theorem minu (d : Reg) (a : Reg) (b : Reg) : Statement (.minu d a b) :=
  fun hw => decode_pack (by decide) rfl rfl hw
theorem maxu (d : Reg) (a : Reg) (b : Reg) : Statement (.maxu d a b) :=
  fun hw => decode_pack (by decide) rfl rfl hw
theorem mul (d : Reg) (a : Reg) (b : Reg) : Statement (.mul d a b) :=
  fun hw => decode_pack (by decide) rfl rfl hw
theorem mulh (d : Reg) (a : Reg) (b : Reg) : Statement (.mulh d a b) :=
  fun hw => decode_pack (by decide) rfl rfl hw
theorem mulhu (d : Reg) (a : Reg) (b : Reg) : Statement (.mulhu d a b) :=
  fun hw => decode_pack (by decide) rfl rfl hw
theorem div (d : Reg) (a : Reg) (b : Reg) : Statement (.div d a b) :=
  fun hw => decode_pack (by decide) rfl rfl hw
theorem divu (d : Reg) (a : Reg) (b : Reg) : Statement (.divu d a b) :=
  fun hw => decode_pack (by decide) rfl rfl hw
theorem rem (d : Reg) (a : Reg) (b : Reg) : Statement (.rem d a b) :=
  fun hw => decode_pack (by decide) rfl rfl hw
theorem remu (d : Reg) (a : Reg) (b : Reg) : Statement (.remu d a b) :=
  fun hw => decode_pack (by decide) rfl rfl hw
theorem clz (d : Reg) (a : Reg) : Statement (.clz d a) :=
  fun hw => decode_pack (by decide) rfl rfl hw
theorem ctz (d : Reg) (a : Reg) : Statement (.ctz d a) :=
  fun hw => decode_pack (by decide) rfl rfl hw
theorem popc (d : Reg) (a : Reg) : Statement (.popc d a) :=
  fun hw => decode_pack (by decide) rfl rfl hw
theorem brev (d : Reg) (a : Reg) : Statement (.brev d a) :=
  fun hw => decode_pack (by decide) rfl rfl hw
theorem addi (d : Reg) (a : Reg) (i : BitVec 15) : Statement (.addi d a i) := by
  intro hw
  refine decode_pack (by decide) rfl ?_ hw
  change rawMaj02 (i.extractLsb' 11 4) (i.extractLsb' 5 6) (i.extractLsb' 0 5) a d = _
  have ji : (i.extractLsb' 11 4 ++ i.extractLsb' 5 6 ++ i.extractLsb' 0 5 : BitVec 15) = i := joinBits3 (m := 4) (n := 6) (k := 5) i
  simp only [rawMaj02, ji]
  try rfl
theorem andi (d : Reg) (a : Reg) (i : BitVec 15) : Statement (.andi d a i) := by
  intro hw
  refine decode_pack (by decide) rfl ?_ hw
  change rawMaj03 (i.extractLsb' 11 4) (i.extractLsb' 5 6) (i.extractLsb' 0 5) a d = _
  have ji : (i.extractLsb' 11 4 ++ i.extractLsb' 5 6 ++ i.extractLsb' 0 5 : BitVec 15) = i := joinBits3 (m := 4) (n := 6) (k := 5) i
  simp only [rawMaj03, ji]
  try rfl
theorem ori (d : Reg) (a : Reg) (i : BitVec 15) : Statement (.ori d a i) := by
  intro hw
  refine decode_pack (by decide) rfl ?_ hw
  change rawMaj04 (i.extractLsb' 11 4) (i.extractLsb' 5 6) (i.extractLsb' 0 5) a d = _
  have ji : (i.extractLsb' 11 4 ++ i.extractLsb' 5 6 ++ i.extractLsb' 0 5 : BitVec 15) = i := joinBits3 (m := 4) (n := 6) (k := 5) i
  simp only [rawMaj04, ji]
  try rfl
theorem xori (d : Reg) (a : Reg) (i : BitVec 15) : Statement (.xori d a i) := by
  intro hw
  refine decode_pack (by decide) rfl ?_ hw
  change rawMaj05 (i.extractLsb' 11 4) (i.extractLsb' 5 6) (i.extractLsb' 0 5) a d = _
  have ji : (i.extractLsb' 11 4 ++ i.extractLsb' 5 6 ++ i.extractLsb' 0 5 : BitVec 15) = i := joinBits3 (m := 4) (n := 6) (k := 5) i
  simp only [rawMaj05, ji]
  try rfl
theorem slti (d : Reg) (a : Reg) (i : BitVec 15) : Statement (.slti d a i) := by
  intro hw
  refine decode_pack (by decide) rfl ?_ hw
  change rawMaj06 (i.extractLsb' 11 4) (i.extractLsb' 5 6) (i.extractLsb' 0 5) a d = _
  have ji : (i.extractLsb' 11 4 ++ i.extractLsb' 5 6 ++ i.extractLsb' 0 5 : BitVec 15) = i := joinBits3 (m := 4) (n := 6) (k := 5) i
  simp only [rawMaj06, ji]
  try rfl
theorem sltiu (d : Reg) (a : Reg) (i : BitVec 15) : Statement (.sltiu d a i) := by
  intro hw
  refine decode_pack (by decide) rfl ?_ hw
  change rawMaj07 (i.extractLsb' 11 4) (i.extractLsb' 5 6) (i.extractLsb' 0 5) a d = _
  have ji : (i.extractLsb' 11 4 ++ i.extractLsb' 5 6 ++ i.extractLsb' 0 5 : BitVec 15) = i := joinBits3 (m := 4) (n := 6) (k := 5) i
  simp only [rawMaj07, ji]
  try rfl
theorem slli (d : Reg) (a : Reg) (s : BitVec 5) : Statement (.slli d a s) :=
  fun hw => decode_pack (by decide) rfl rfl hw
theorem srli (d : Reg) (a : Reg) (s : BitVec 5) : Statement (.srli d a s) :=
  fun hw => decode_pack (by decide) rfl rfl hw
theorem srai (d : Reg) (a : Reg) (s : BitVec 5) : Statement (.srai d a s) :=
  fun hw => decode_pack (by decide) rfl rfl hw
theorem lui (d : Reg) (i : BitVec 20) : Statement (.lui d i) := by
  intro hw
  refine decode_pack (by decide) rfl ?_ hw
  change rawMaj09 (i.extractLsb' 16 4) (i.extractLsb' 10 6) (i.extractLsb' 5 5) (i.extractLsb' 0 5) d = _
  have ji : (i.extractLsb' 16 4 ++ i.extractLsb' 10 6 ++ i.extractLsb' 5 5 ++ i.extractLsb' 0 5 : BitVec 20) = i := joinBits4 (m := 4) (n := 6) (k := 5) (l := 5) i
  simp only [rawMaj09, ji]
  try rfl
theorem beq (a : Reg) (b : Reg) (off : BitVec 12) : Statement (.beq a b off) := by
  intro hw
  refine decode_pack (by decide) rfl ?_ hw
  change rawMaj0A (off.extractLsb' 8 4) (off.extractLsb' 5 3 ++ 0#3) b a (off.extractLsb' 0 5) = _
  have h0 : BitVec.extractLsb' 0 3 (off.extractLsb' 5 3 ++ 0#3 : BitVec 6) = 0#3 := extract_append_low _ _
  have h1 : BitVec.extractLsb' 3 3 (off.extractLsb' 5 3 ++ 0#3 : BitVec 6) = off.extractLsb' 5 3 := extract_append_high _ _
  have joff : (off.extractLsb' 8 4 ++ off.extractLsb' 5 3 ++ off.extractLsb' 0 5 : BitVec 12) = off := joinBits3 (m := 4) (n := 3) (k := 5) off
  simp only [rawMaj0A, h0, h1, joff]
  try rfl
theorem bne (a : Reg) (b : Reg) (off : BitVec 12) : Statement (.bne a b off) := by
  intro hw
  refine decode_pack (by decide) rfl ?_ hw
  change rawMaj0A (off.extractLsb' 8 4) (off.extractLsb' 5 3 ++ 1#3) b a (off.extractLsb' 0 5) = _
  have h0 : BitVec.extractLsb' 0 3 (off.extractLsb' 5 3 ++ 1#3 : BitVec 6) = 1#3 := extract_append_low _ _
  have h1 : BitVec.extractLsb' 3 3 (off.extractLsb' 5 3 ++ 1#3 : BitVec 6) = off.extractLsb' 5 3 := extract_append_high _ _
  have joff : (off.extractLsb' 8 4 ++ off.extractLsb' 5 3 ++ off.extractLsb' 0 5 : BitVec 12) = off := joinBits3 (m := 4) (n := 3) (k := 5) off
  simp only [rawMaj0A, h0, h1, joff]
  try rfl
theorem blt (a : Reg) (b : Reg) (off : BitVec 12) : Statement (.blt a b off) := by
  intro hw
  refine decode_pack (by decide) rfl ?_ hw
  change rawMaj0A (off.extractLsb' 8 4) (off.extractLsb' 5 3 ++ 4#3) b a (off.extractLsb' 0 5) = _
  have h0 : BitVec.extractLsb' 0 3 (off.extractLsb' 5 3 ++ 4#3 : BitVec 6) = 4#3 := extract_append_low _ _
  have h1 : BitVec.extractLsb' 3 3 (off.extractLsb' 5 3 ++ 4#3 : BitVec 6) = off.extractLsb' 5 3 := extract_append_high _ _
  have joff : (off.extractLsb' 8 4 ++ off.extractLsb' 5 3 ++ off.extractLsb' 0 5 : BitVec 12) = off := joinBits3 (m := 4) (n := 3) (k := 5) off
  simp only [rawMaj0A, h0, h1, joff]
  try rfl
theorem bge (a : Reg) (b : Reg) (off : BitVec 12) : Statement (.bge a b off) := by
  intro hw
  refine decode_pack (by decide) rfl ?_ hw
  change rawMaj0A (off.extractLsb' 8 4) (off.extractLsb' 5 3 ++ 5#3) b a (off.extractLsb' 0 5) = _
  have h0 : BitVec.extractLsb' 0 3 (off.extractLsb' 5 3 ++ 5#3 : BitVec 6) = 5#3 := extract_append_low _ _
  have h1 : BitVec.extractLsb' 3 3 (off.extractLsb' 5 3 ++ 5#3 : BitVec 6) = off.extractLsb' 5 3 := extract_append_high _ _
  have joff : (off.extractLsb' 8 4 ++ off.extractLsb' 5 3 ++ off.extractLsb' 0 5 : BitVec 12) = off := joinBits3 (m := 4) (n := 3) (k := 5) off
  simp only [rawMaj0A, h0, h1, joff]
  try rfl
theorem bltu (a : Reg) (b : Reg) (off : BitVec 12) : Statement (.bltu a b off) := by
  intro hw
  refine decode_pack (by decide) rfl ?_ hw
  change rawMaj0A (off.extractLsb' 8 4) (off.extractLsb' 5 3 ++ 6#3) b a (off.extractLsb' 0 5) = _
  have h0 : BitVec.extractLsb' 0 3 (off.extractLsb' 5 3 ++ 6#3 : BitVec 6) = 6#3 := extract_append_low _ _
  have h1 : BitVec.extractLsb' 3 3 (off.extractLsb' 5 3 ++ 6#3 : BitVec 6) = off.extractLsb' 5 3 := extract_append_high _ _
  have joff : (off.extractLsb' 8 4 ++ off.extractLsb' 5 3 ++ off.extractLsb' 0 5 : BitVec 12) = off := joinBits3 (m := 4) (n := 3) (k := 5) off
  simp only [rawMaj0A, h0, h1, joff]
  try rfl
theorem bgeu (a : Reg) (b : Reg) (off : BitVec 12) : Statement (.bgeu a b off) := by
  intro hw
  refine decode_pack (by decide) rfl ?_ hw
  change rawMaj0A (off.extractLsb' 8 4) (off.extractLsb' 5 3 ++ 7#3) b a (off.extractLsb' 0 5) = _
  have h0 : BitVec.extractLsb' 0 3 (off.extractLsb' 5 3 ++ 7#3 : BitVec 6) = 7#3 := extract_append_low _ _
  have h1 : BitVec.extractLsb' 3 3 (off.extractLsb' 5 3 ++ 7#3 : BitVec 6) = off.extractLsb' 5 3 := extract_append_high _ _
  have joff : (off.extractLsb' 8 4 ++ off.extractLsb' 5 3 ++ off.extractLsb' 0 5 : BitVec 12) = off := joinBits3 (m := 4) (n := 3) (k := 5) off
  simp only [rawMaj0A, h0, h1, joff]
  try rfl
theorem jal (d : Reg) (o : BitVec 20) : Statement (.jal d o) := by
  intro hw
  refine decode_pack (by decide) rfl ?_ hw
  change rawMaj0B (o.extractLsb' 16 4) (o.extractLsb' 10 6) (o.extractLsb' 5 5) (o.extractLsb' 0 5) d = _
  have jo : (o.extractLsb' 16 4 ++ o.extractLsb' 10 6 ++ o.extractLsb' 5 5 ++ o.extractLsb' 0 5 : BitVec 20) = o := joinBits4 (m := 4) (n := 6) (k := 5) (l := 5) o
  simp only [rawMaj0B, jo]
  try rfl
theorem jalr (d : Reg) (a : Reg) (i : BitVec 15) : Statement (.jalr d a i) := by
  intro hw
  refine decode_pack (by decide) rfl ?_ hw
  change rawMaj0C (i.extractLsb' 11 4) (i.extractLsb' 5 6) (i.extractLsb' 0 5) a d = _
  have ji : (i.extractLsb' 11 4 ++ i.extractLsb' 5 6 ++ i.extractLsb' 0 5 : BitVec 15) = i := joinBits3 (m := 4) (n := 6) (k := 5) i
  simp only [rawMaj0C, ji]
  try rfl
theorem crr (d : Reg) (c : BitVec 12) : Statement (.crr d c) := by
  intro hw
  refine decode_pack (by decide) rfl ?_ hw
  change rawMaj0D (0#3 ++ c.extractLsb' 11 1) (c.extractLsb' 5 6) (c.extractLsb' 0 5) 0#5 d = _
  have h0 : BitVec.extractLsb' 0 1 (0#3 ++ c.extractLsb' 11 1 : BitVec 4) = c.extractLsb' 11 1 := extract_append_low _ _
  have h1 : BitVec.extractLsb' 1 3 (0#3 ++ c.extractLsb' 11 1 : BitVec 4) = 0#3 := extract_append_high _ _
  have jc : (c.extractLsb' 11 1 ++ c.extractLsb' 5 6 ++ c.extractLsb' 0 5 : BitVec 12) = c := joinBits3 (m := 1) (n := 6) (k := 5) c
  simp only [rawMaj0D, h0, h1, jc]
  try rfl
theorem crw (a : Reg) (c : BitVec 12) : Statement (.crw a c) := by
  intro hw
  refine decode_pack (by decide) rfl ?_ hw
  change rawMaj0D (2#3 ++ c.extractLsb' 11 1) (c.extractLsb' 5 6) (c.extractLsb' 0 5) a 0#5 = _
  have h0 : BitVec.extractLsb' 0 1 (2#3 ++ c.extractLsb' 11 1 : BitVec 4) = c.extractLsb' 11 1 := extract_append_low _ _
  have h1 : BitVec.extractLsb' 1 3 (2#3 ++ c.extractLsb' 11 1 : BitVec 4) = 2#3 := extract_append_high _ _
  have jc : (c.extractLsb' 11 1 ++ c.extractLsb' 5 6 ++ c.extractLsb' 0 5 : BitVec 12) = c := joinBits3 (m := 1) (n := 6) (k := 5) c
  simp only [rawMaj0D, h0, h1, jc]
  try rfl
theorem crs (d : Reg) (a : Reg) (c : BitVec 12) : Statement (.crs d a c) := by
  intro hw
  refine decode_pack (by decide) rfl ?_ hw
  change rawMaj0D (4#3 ++ c.extractLsb' 11 1) (c.extractLsb' 5 6) (c.extractLsb' 0 5) a d = _
  have h0 : BitVec.extractLsb' 0 1 (4#3 ++ c.extractLsb' 11 1 : BitVec 4) = c.extractLsb' 11 1 := extract_append_low _ _
  have h1 : BitVec.extractLsb' 1 3 (4#3 ++ c.extractLsb' 11 1 : BitVec 4) = 4#3 := extract_append_high _ _
  have jc : (c.extractLsb' 11 1 ++ c.extractLsb' 5 6 ++ c.extractLsb' 0 5 : BitVec 12) = c := joinBits3 (m := 1) (n := 6) (k := 5) c
  simp only [rawMaj0D, h0, h1, jc]
  try rfl
theorem crc (d : Reg) (a : Reg) (c : BitVec 12) : Statement (.crc d a c) := by
  intro hw
  refine decode_pack (by decide) rfl ?_ hw
  change rawMaj0D (6#3 ++ c.extractLsb' 11 1) (c.extractLsb' 5 6) (c.extractLsb' 0 5) a d = _
  have h0 : BitVec.extractLsb' 0 1 (6#3 ++ c.extractLsb' 11 1 : BitVec 4) = c.extractLsb' 11 1 := extract_append_low _ _
  have h1 : BitVec.extractLsb' 1 3 (6#3 ++ c.extractLsb' 11 1 : BitVec 4) = 6#3 := extract_append_high _ _
  have jc : (c.extractLsb' 11 1 ++ c.extractLsb' 5 6 ++ c.extractLsb' 0 5 : BitVec 12) = c := joinBits3 (m := 1) (n := 6) (k := 5) c
  simp only [rawMaj0D, h0, h1, jc]
  try rfl
theorem trap (a : Reg) : Statement (.trap a) :=
  fun hw => decode_pack (by decide) rfl rfl hw
theorem eret : Statement (.eret) :=
  fun hw => decode_pack (by decide) rfl rfl hw
theorem brk : Statement (.brk) :=
  fun hw => decode_pack (by decide) rfl rfl hw
theorem yield : Statement (.yield) :=
  fun hw => decode_pack (by decide) rfl rfl hw
theorem taskEnd : Statement (.taskEnd) :=
  fun hw => decode_pack (by decide) rfl rfl hw
theorem lrecRd (d : Reg) (w : BitVec 5) : Statement (.lrecRd d w) :=
  fun hw => decode_pack (by decide) rfl rfl hw
theorem lrecPatch (a : Reg) (b : Reg) (w : BitVec 5) : Statement (.lrecPatch a b w) :=
  fun hw => decode_pack (by decide) rfl rfl hw
theorem lrecArm (d : Reg) (a : Reg) (b : Reg) : Statement (.lrecArm d a b) :=
  fun hw => decode_pack (by decide) rfl rfl hw
theorem tqReq (d : Reg) (a : Reg) : Statement (.tqReq d a) :=
  fun hw => decode_pack (by decide) rfl rfl hw
theorem grpRd (d : Reg) (a : Reg) (s : BitVec 5) : Statement (.grpRd d a s) :=
  fun hw => decode_pack (by decide) rfl rfl hw
theorem cMv (d : Reg) (a : Reg) : Statement (.cMv d a) :=
  fun hw => decode_packC (by simp [wellFormed] at hw; tauto) rfl rfl hw
theorem cAdd (d : Reg) (a : Reg) : Statement (.cAdd d a) :=
  fun hw => decode_packC (.inl (by decide)) rfl rfl hw
theorem cSub (d : Reg) (a : Reg) : Statement (.cSub d a) :=
  fun hw => decode_packC (.inl (by decide)) rfl rfl hw
theorem cAnd (d : Reg) (a : Reg) : Statement (.cAnd d a) :=
  fun hw => decode_packC (.inl (by decide)) rfl rfl hw
theorem cOr (d : Reg) (a : Reg) : Statement (.cOr d a) :=
  fun hw => decode_packC (.inl (by decide)) rfl rfl hw
theorem cXor (d : Reg) (a : Reg) : Statement (.cXor d a) :=
  fun hw => decode_packC (.inl (by decide)) rfl rfl hw
theorem cAddi (d : Reg) (i : BitVec 6) : Statement (.cAddi d i) := by
  intro hw
  refine decode_packC (.inl (by decide)) rfl ?_ hw
  have ji : (i.extractLsb' 5 1 ++ i.extractLsb' 0 5 : BitVec 6) = i := joinBits2 (m := 1) (n := 5) i
  simp only [rawCompact, ji]
  try rfl
theorem cLi (d : Reg) (i : BitVec 6) : Statement (.cLi d i) := by
  intro hw
  refine decode_packC (.inl (by decide)) rfl ?_ hw
  have ji : (i.extractLsb' 5 1 ++ i.extractLsb' 0 5 : BitVec 6) = i := joinBits2 (m := 1) (n := 5) i
  simp only [rawCompact, ji]
  try rfl
theorem cSlli (d : Reg) (i : BitVec 5) : Statement (.cSlli d i) :=
  fun hw => decode_packC (.inl (by decide)) rfl rfl hw
theorem cSrli (d : Reg) (i : BitVec 5) : Statement (.cSrli d i) :=
  fun hw => decode_packC (.inl (by decide)) rfl rfl hw
theorem cSrai (d : Reg) (i : BitVec 5) : Statement (.cSrai d i) :=
  fun hw => decode_packC (.inl (by decide)) rfl rfl hw
theorem cBeqz (d : Reg) (o : BitVec 6) : Statement (.cBeqz d o) := by
  intro hw
  refine decode_packC (.inl (by decide)) rfl ?_ hw
  have jo : (o.extractLsb' 5 1 ++ o.extractLsb' 0 5 : BitVec 6) = o := joinBits2 (m := 1) (n := 5) o
  simp only [rawCompact, jo]
  try rfl
theorem cBnez (d : Reg) (o : BitVec 6) : Statement (.cBnez d o) := by
  intro hw
  refine decode_packC (.inl (by decide)) rfl ?_ hw
  have jo : (o.extractLsb' 5 1 ++ o.extractLsb' 0 5 : BitVec 6) = o := joinBits2 (m := 1) (n := 5) o
  simp only [rawCompact, jo]
  try rfl
theorem cSlt (d : Reg) (a : Reg) : Statement (.cSlt d a) :=
  fun hw => decode_packC (.inl (by decide)) rfl rfl hw
theorem cJr (d : Reg) : Statement (.cJr d) :=
  fun hw => decode_packC (.inl (by decide)) rfl rfl hw
theorem cEnd : Statement (.cEnd) :=
  fun hw => decode_packC (.inl (by decide)) rfl rfl hw
theorem ld (d : Reg) (a : Reg) (b : Reg) (h : Reg) (l : BitVec 4) : Statement (.ld d a b h l) := by
  intro hw
  refine decode_pack (by decide) rfl ?_ hw
  change rawMaj10 l (0#1 ++ h) b a d = _
  have h0 : BitVec.extractLsb' 0 5 (0#1 ++ h : BitVec 6) = h := extract_append_low _ _
  simp only [rawMaj10, h0]
  try rfl
theorem st (d : Reg) (a : Reg) (b : Reg) (h : Reg) (l : BitVec 4) : Statement (.st d a b h l) := by
  intro hw
  refine decode_pack (by decide) rfl ?_ hw
  change rawMaj11 l (0#1 ++ h) b a d = _
  have h0 : BitVec.extractLsb' 0 5 (0#1 ++ h : BitVec 6) = h := extract_append_low _ _
  simp only [rawMaj11, h0]
  try rfl
theorem ldFe (d : Reg) (a : Reg) (b : Reg) (h : Reg) (l : BitVec 4) : Statement (.ldFe d a b h l) := by
  intro hw
  refine decode_pack (by decide) rfl ?_ hw
  change rawMaj12 l (0#1 ++ h) b a d = _
  have h0 : BitVec.extractLsb' 0 5 (0#1 ++ h : BitVec 6) = h := extract_append_low _ _
  have h1 : BitVec.extractLsb' 5 1 (0#1 ++ h : BitVec 6) = 0#1 := extract_append_high _ _
  simp only [rawMaj12, h0, h1]
  try rfl
theorem ldFeClr (d : Reg) (a : Reg) (b : Reg) (h : Reg) (l : BitVec 4) : Statement (.ldFeClr d a b h l) := by
  intro hw
  refine decode_pack (by decide) rfl ?_ hw
  change rawMaj12 l (1#1 ++ h) b a d = _
  have h0 : BitVec.extractLsb' 0 5 (1#1 ++ h : BitVec 6) = h := extract_append_low _ _
  have h1 : BitVec.extractLsb' 5 1 (1#1 ++ h : BitVec 6) = 1#1 := extract_append_high _ _
  simp only [rawMaj12, h0, h1]
  try rfl
theorem stFe (d : Reg) (a : Reg) (b : Reg) (h : Reg) (l : BitVec 4) : Statement (.stFe d a b h l) := by
  intro hw
  refine decode_pack (by decide) rfl ?_ hw
  change rawMaj13 l (0#1 ++ h) b a d = _
  have h0 : BitVec.extractLsb' 0 5 (0#1 ++ h : BitVec 6) = h := extract_append_low _ _
  have h1 : BitVec.extractLsb' 5 1 (0#1 ++ h : BitVec 6) = 0#1 := extract_append_high _ _
  simp only [rawMaj13, h0, h1]
  try rfl
theorem stFeForce (d : Reg) (a : Reg) (b : Reg) (h : Reg) (l : BitVec 4) : Statement (.stFeForce d a b h l) := by
  intro hw
  refine decode_pack (by decide) rfl ?_ hw
  change rawMaj13 l (1#1 ++ h) b a d = _
  have h0 : BitVec.extractLsb' 0 5 (1#1 ++ h : BitVec 6) = h := extract_append_low _ _
  have h1 : BitVec.extractLsb' 5 1 (1#1 ++ h : BitVec 6) = 1#1 := extract_append_high _ _
  simp only [rawMaj13, h0, h1]
  try rfl
theorem ldV (d : Reg) (a : Reg) (b : Reg) (h : Reg) (l : BitVec 4) : Statement (.ldV d a b h l) := by
  intro hw
  refine decode_pack (by decide) rfl ?_ hw
  change rawMaj14 l (0#1 ++ h) b a d = _
  have h0 : BitVec.extractLsb' 0 5 (0#1 ++ h : BitVec 6) = h := extract_append_low _ _
  simp only [rawMaj14, h0]
  try rfl
theorem stV (d : Reg) (a : Reg) (b : Reg) (h : Reg) (l : BitVec 4) : Statement (.stV d a b h l) := by
  intro hw
  refine decode_pack (by decide) rfl ?_ hw
  change rawMaj15 l (0#1 ++ h) b a d = _
  have h0 : BitVec.extractLsb' 0 5 (0#1 ++ h : BitVec 6) = h := extract_append_low _ _
  simp only [rawMaj15, h0]
  try rfl
theorem vld (d : Reg) (a : Reg) (b : Reg) (h : Reg) (l : BitVec 4) : Statement (.vld d a b h l) := by
  intro hw
  refine decode_pack (by decide) rfl ?_ hw
  change rawMaj18 l (0#1 ++ h) b a d = _
  have h0 : BitVec.extractLsb' 0 5 (0#1 ++ h : BitVec 6) = h := extract_append_low _ _
  simp only [rawMaj18, h0]
  try rfl
theorem vst (d : Reg) (a : Reg) (b : Reg) (h : Reg) (l : BitVec 4) : Statement (.vst d a b h l) := by
  intro hw
  refine decode_pack (by decide) rfl ?_ hw
  change rawMaj19 l (0#1 ++ h) b a d = _
  have h0 : BitVec.extractLsb' 0 5 (0#1 ++ h : BitVec 6) = h := extract_append_low _ _
  simp only [rawMaj19, h0]
  try rfl
theorem vldFe (d : Reg) (a : Reg) (b : Reg) (h : Reg) (l : BitVec 4) : Statement (.vldFe d a b h l) := by
  intro hw
  refine decode_pack (by decide) rfl ?_ hw
  change rawMaj1A l (0#1 ++ h) b a d = _
  have h0 : BitVec.extractLsb' 0 5 (0#1 ++ h : BitVec 6) = h := extract_append_low _ _
  have h1 : BitVec.extractLsb' 5 1 (0#1 ++ h : BitVec 6) = 0#1 := extract_append_high _ _
  simp only [rawMaj1A, h0, h1]
  try rfl
theorem vldFeClr (d : Reg) (a : Reg) (b : Reg) (h : Reg) (l : BitVec 4) : Statement (.vldFeClr d a b h l) := by
  intro hw
  refine decode_pack (by decide) rfl ?_ hw
  change rawMaj1A l (1#1 ++ h) b a d = _
  have h0 : BitVec.extractLsb' 0 5 (1#1 ++ h : BitVec 6) = h := extract_append_low _ _
  have h1 : BitVec.extractLsb' 5 1 (1#1 ++ h : BitVec 6) = 1#1 := extract_append_high _ _
  simp only [rawMaj1A, h0, h1]
  try rfl
theorem vstFe (d : Reg) (a : Reg) (b : Reg) (h : Reg) (l : BitVec 4) : Statement (.vstFe d a b h l) := by
  intro hw
  refine decode_pack (by decide) rfl ?_ hw
  change rawMaj1B l (0#1 ++ h) b a d = _
  have h0 : BitVec.extractLsb' 0 5 (0#1 ++ h : BitVec 6) = h := extract_append_low _ _
  have h1 : BitVec.extractLsb' 5 1 (0#1 ++ h : BitVec 6) = 0#1 := extract_append_high _ _
  simp only [rawMaj1B, h0, h1]
  try rfl
theorem vstFeForce (d : Reg) (a : Reg) (b : Reg) (h : Reg) (l : BitVec 4) : Statement (.vstFeForce d a b h l) := by
  intro hw
  refine decode_pack (by decide) rfl ?_ hw
  change rawMaj1B l (1#1 ++ h) b a d = _
  have h0 : BitVec.extractLsb' 0 5 (1#1 ++ h : BitVec 6) = h := extract_append_low _ _
  have h1 : BitVec.extractLsb' 5 1 (1#1 ++ h : BitVec 6) = 1#1 := extract_append_high _ _
  simp only [rawMaj1B, h0, h1]
  try rfl
theorem vldV (d : Reg) (a : Reg) (b : Reg) (h : Reg) (l : BitVec 4) : Statement (.vldV d a b h l) := by
  intro hw
  refine decode_pack (by decide) rfl ?_ hw
  change rawMaj1C l (0#1 ++ h) b a d = _
  have h0 : BitVec.extractLsb' 0 5 (0#1 ++ h : BitVec 6) = h := extract_append_low _ _
  simp only [rawMaj1C, h0]
  try rfl
theorem vstV (d : Reg) (a : Reg) (b : Reg) (h : Reg) (l : BitVec 4) : Statement (.vstV d a b h l) := by
  intro hw
  refine decode_pack (by decide) rfl ?_ hw
  change rawMaj1D l (0#1 ++ h) b a d = _
  have h0 : BitVec.extractLsb' 0 5 (0#1 ++ h : BitVec 6) = h := extract_append_low _ _
  simp only [rawMaj1D, h0]
  try rfl
theorem layRd (d : Reg) (w : BitVec 4) (h : Reg) (l : BitVec 4) : Statement (.layRd d w h l) := by
  intro hw
  refine decode_pack (by decide) rfl ?_ hw
  change rawMaj16 l (0#1 ++ h) (0#1 ++ w) 0#5 d = _
  have h0 : BitVec.extractLsb' 0 5 (0#1 ++ h : BitVec 6) = h := extract_append_low _ _
  have h1 : BitVec.extractLsb' 5 1 (0#1 ++ h : BitVec 6) = 0#1 := extract_append_high _ _
  have h2 : BitVec.extractLsb' 0 4 (0#1 ++ w : BitVec 5) = w := extract_append_low _ _
  have h3 : BitVec.extractLsb' 4 1 (0#1 ++ w : BitVec 5) = 0#1 := extract_append_high _ _
  simp only [rawMaj16, h0, h1, h2, h3]
  try rfl
theorem layWr (a : Reg) (w : BitVec 4) (h : Reg) (l : BitVec 4) : Statement (.layWr a w h l) := by
  intro hw
  refine decode_pack (by decide) rfl ?_ hw
  change rawMaj16 l (0#1 ++ h) (1#1 ++ w) a 0#5 = _
  have h0 : BitVec.extractLsb' 0 5 (0#1 ++ h : BitVec 6) = h := extract_append_low _ _
  have h1 : BitVec.extractLsb' 5 1 (0#1 ++ h : BitVec 6) = 0#1 := extract_append_high _ _
  have h2 : BitVec.extractLsb' 0 4 (1#1 ++ w : BitVec 5) = w := extract_append_low _ _
  have h3 : BitVec.extractLsb' 4 1 (1#1 ++ w : BitVec 5) = 1#1 := extract_append_high _ _
  have hb : (1#1 ++ w : BitVec 5).toNat ≠ 31 := by
    simp [wellFormed] at hw
    rw [BitVec.toNat_append]
    revert hw
    decide +revert
  simp only [rawMaj16, h0, h1, h2, h3, hb]
  try rfl
theorem reclaim (a : Reg) (h : Reg) (l : BitVec 4) : Statement (.reclaim a h l) := by
  intro hw
  refine decode_pack (by decide) rfl ?_ hw
  change rawMaj16 l (0#1 ++ h) 31#5 a 0#5 = _
  have h0 : BitVec.extractLsb' 0 5 (0#1 ++ h : BitVec 6) = h := extract_append_low _ _
  have h1 : BitVec.extractLsb' 5 1 (0#1 ++ h : BitVec 6) = 0#1 := extract_append_high _ _
  simp only [rawMaj16, h0, h1]
  try rfl
theorem laySel (d : Reg) (a : Reg) (b : Reg) (h : Reg) (l : BitVec 4) : Statement (.laySel d a b h l) := by
  intro hw
  refine decode_pack (by decide) rfl ?_ hw
  change rawMaj16 l (1#1 ++ h) b a d = _
  have h0 : BitVec.extractLsb' 0 5 (1#1 ++ h : BitVec 6) = h := extract_append_low _ _
  have h1 : BitVec.extractLsb' 5 1 (1#1 ++ h : BitVec 6) = 1#1 := extract_append_high _ _
  simp only [rawMaj16, h0, h1]
  try rfl
theorem amoAdd (d : Reg) (a : Reg) (h : Reg) (q : BitVec 1) (l : BitVec 4) : Statement (.amoAdd d a h q l) := by
  intro hw
  refine decode_pack (by decide) rfl ?_ hw
  change rawMaj20 l (q ++ h) 0#5 a d = _
  have h0 : BitVec.extractLsb' 0 5 (q ++ h : BitVec 6) = h := extract_append_low _ _
  have h1 : BitVec.extractLsb' 5 1 (q ++ h : BitVec 6) = q := extract_append_high _ _
  simp only [rawMaj20, h0, h1]
  try rfl
theorem amoAnd (d : Reg) (a : Reg) (h : Reg) (q : BitVec 1) (l : BitVec 4) : Statement (.amoAnd d a h q l) := by
  intro hw
  refine decode_pack (by decide) rfl ?_ hw
  change rawMaj20 l (q ++ h) 1#5 a d = _
  have h0 : BitVec.extractLsb' 0 5 (q ++ h : BitVec 6) = h := extract_append_low _ _
  have h1 : BitVec.extractLsb' 5 1 (q ++ h : BitVec 6) = q := extract_append_high _ _
  simp only [rawMaj20, h0, h1]
  try rfl
theorem amoOr (d : Reg) (a : Reg) (h : Reg) (q : BitVec 1) (l : BitVec 4) : Statement (.amoOr d a h q l) := by
  intro hw
  refine decode_pack (by decide) rfl ?_ hw
  change rawMaj20 l (q ++ h) 2#5 a d = _
  have h0 : BitVec.extractLsb' 0 5 (q ++ h : BitVec 6) = h := extract_append_low _ _
  have h1 : BitVec.extractLsb' 5 1 (q ++ h : BitVec 6) = q := extract_append_high _ _
  simp only [rawMaj20, h0, h1]
  try rfl
theorem amoXor (d : Reg) (a : Reg) (h : Reg) (q : BitVec 1) (l : BitVec 4) : Statement (.amoXor d a h q l) := by
  intro hw
  refine decode_pack (by decide) rfl ?_ hw
  change rawMaj20 l (q ++ h) 3#5 a d = _
  have h0 : BitVec.extractLsb' 0 5 (q ++ h : BitVec 6) = h := extract_append_low _ _
  have h1 : BitVec.extractLsb' 5 1 (q ++ h : BitVec 6) = q := extract_append_high _ _
  simp only [rawMaj20, h0, h1]
  try rfl
theorem amoMin (d : Reg) (a : Reg) (h : Reg) (q : BitVec 1) (l : BitVec 4) : Statement (.amoMin d a h q l) := by
  intro hw
  refine decode_pack (by decide) rfl ?_ hw
  change rawMaj20 l (q ++ h) 4#5 a d = _
  have h0 : BitVec.extractLsb' 0 5 (q ++ h : BitVec 6) = h := extract_append_low _ _
  have h1 : BitVec.extractLsb' 5 1 (q ++ h : BitVec 6) = q := extract_append_high _ _
  simp only [rawMaj20, h0, h1]
  try rfl
theorem amoMax (d : Reg) (a : Reg) (h : Reg) (q : BitVec 1) (l : BitVec 4) : Statement (.amoMax d a h q l) := by
  intro hw
  refine decode_pack (by decide) rfl ?_ hw
  change rawMaj20 l (q ++ h) 5#5 a d = _
  have h0 : BitVec.extractLsb' 0 5 (q ++ h : BitVec 6) = h := extract_append_low _ _
  have h1 : BitVec.extractLsb' 5 1 (q ++ h : BitVec 6) = q := extract_append_high _ _
  simp only [rawMaj20, h0, h1]
  try rfl
theorem amoSwap (d : Reg) (a : Reg) (h : Reg) (q : BitVec 1) (l : BitVec 4) : Statement (.amoSwap d a h q l) := by
  intro hw
  refine decode_pack (by decide) rfl ?_ hw
  change rawMaj20 l (q ++ h) 6#5 a d = _
  have h0 : BitVec.extractLsb' 0 5 (q ++ h : BitVec 6) = h := extract_append_low _ _
  have h1 : BitVec.extractLsb' 5 1 (q ++ h : BitVec 6) = q := extract_append_high _ _
  simp only [rawMaj20, h0, h1]
  try rfl
theorem amoCas (d : Reg) (a : Reg) (h : Reg) (l : BitVec 4) : Statement (.amoCas d a h l) := by
  intro hw
  refine decode_pack (by decide) rfl ?_ hw
  change rawMaj20 l (0#1 ++ h) 7#5 a d = _
  have h0 : BitVec.extractLsb' 0 5 (0#1 ++ h : BitVec 6) = h := extract_append_low _ _
  have h1 : BitVec.extractLsb' 5 1 (0#1 ++ h : BitVec 6) = 0#1 := extract_append_high _ _
  simp only [rawMaj20, h0, h1]
  try rfl
theorem amoIncb (d : Reg) (a : Reg) (h : Reg) (l : BitVec 4) : Statement (.amoIncb d a h l) := by
  intro hw
  refine decode_pack (by decide) rfl ?_ hw
  change rawMaj20 l (0#1 ++ h) 8#5 a d = _
  have h0 : BitVec.extractLsb' 0 5 (0#1 ++ h : BitVec 6) = h := extract_append_low _ _
  have h1 : BitVec.extractLsb' 5 1 (0#1 ++ h : BitVec 6) = 0#1 := extract_append_high _ _
  simp only [rawMaj20, h0, h1]
  try rfl
theorem amoIncw (d : Reg) (a : Reg) (h : Reg) (l : BitVec 4) : Statement (.amoIncw d a h l) := by
  intro hw
  refine decode_pack (by decide) rfl ?_ hw
  change rawMaj20 l (0#1 ++ h) 9#5 a d = _
  have h0 : BitVec.extractLsb' 0 5 (0#1 ++ h : BitVec 6) = h := extract_append_low _ _
  have h1 : BitVec.extractLsb' 5 1 (0#1 ++ h : BitVec 6) = 0#1 := extract_append_high _ _
  simp only [rawMaj20, h0, h1]
  try rfl
theorem amoDecnz (d : Reg) (a : Reg) (h : Reg) (l : BitVec 4) : Statement (.amoDecnz d a h l) := by
  intro hw
  refine decode_pack (by decide) rfl ?_ hw
  change rawMaj20 l (0#1 ++ h) 10#5 a d = _
  have h0 : BitVec.extractLsb' 0 5 (0#1 ++ h : BitVec 6) = h := extract_append_low _ _
  have h1 : BitVec.extractLsb' 5 1 (0#1 ++ h : BitVec 6) = 0#1 := extract_append_high _ _
  simp only [rawMaj20, h0, h1]
  try rfl
theorem amoAddlim (d : Reg) (a : Reg) (h : Reg) (l : BitVec 4) : Statement (.amoAddlim d a h l) := by
  intro hw
  refine decode_pack (by decide) rfl ?_ hw
  change rawMaj20 l (0#1 ++ h) 11#5 a d = _
  have h0 : BitVec.extractLsb' 0 5 (0#1 ++ h : BitVec 6) = h := extract_append_low _ _
  have h1 : BitVec.extractLsb' 5 1 (0#1 ++ h : BitVec 6) = 0#1 := extract_append_high _ _
  simp only [rawMaj20, h0, h1]
  try rfl
theorem tamoFadd (d : Reg) (a : Reg) (h : Reg) (l : BitVec 4) : Statement (.tamoFadd d a h l) := by
  intro hw
  refine decode_pack (by decide) rfl ?_ hw
  change rawMaj21 l (0#1 ++ h) 0#5 a d = _
  have h0 : BitVec.extractLsb' 0 5 (0#1 ++ h : BitVec 6) = h := extract_append_low _ _
  simp only [rawMaj21, h0]
  try rfl
theorem tamoFmax (d : Reg) (a : Reg) (h : Reg) (l : BitVec 4) : Statement (.tamoFmax d a h l) := by
  intro hw
  refine decode_pack (by decide) rfl ?_ hw
  change rawMaj21 l (0#1 ++ h) 1#5 a d = _
  have h0 : BitVec.extractLsb' 0 5 (0#1 ++ h : BitVec 6) = h := extract_append_low _ _
  simp only [rawMaj21, h0]
  try rfl
theorem tamoFmin (d : Reg) (a : Reg) (h : Reg) (l : BitVec 4) : Statement (.tamoFmin d a h l) := by
  intro hw
  refine decode_pack (by decide) rfl ?_ hw
  change rawMaj21 l (0#1 ++ h) 2#5 a d = _
  have h0 : BitVec.extractLsb' 0 5 (0#1 ++ h : BitVec 6) = h := extract_append_low _ _
  simp only [rawMaj21, h0]
  try rfl
theorem tamoOr (d : Reg) (a : Reg) (h : Reg) (l : BitVec 4) : Statement (.tamoOr d a h l) := by
  intro hw
  refine decode_pack (by decide) rfl ?_ hw
  change rawMaj21 l (0#1 ++ h) 3#5 a d = _
  have h0 : BitVec.extractLsb' 0 5 (0#1 ++ h : BitVec 6) = h := extract_append_low _ _
  simp only [rawMaj21, h0]
  try rfl
theorem tamoSkip (d : Reg) (a : Reg) (h : Reg) (l : BitVec 4) : Statement (.tamoSkip d a h l) := by
  intro hw
  refine decode_pack (by decide) rfl ?_ hw
  change rawMaj21 l (0#1 ++ h) 4#5 a d = _
  have h0 : BitVec.extractLsb' 0 5 (0#1 ++ h : BitVec 6) = h := extract_append_low _ _
  simp only [rawMaj21, h0]
  try rfl
theorem tfence (a : Reg) (h : Reg) : Statement (.tfence a h) := by
  intro hw
  refine decode_pack (by decide) rfl ?_ hw
  change rawMaj21 0#4 (0#1 ++ h) 8#5 a 0#5 = _
  have h0 : BitVec.extractLsb' 0 5 (0#1 ++ h : BitVec 6) = h := extract_append_low _ _
  simp only [rawMaj21, h0]
  try rfl
theorem annAmoAdd (d : Reg) (a : Reg) (h : Reg) (l : BitVec 4) : Statement (.annAmoAdd d a h l) := by
  intro hw
  refine decode_pack (by decide) rfl ?_ hw
  change rawMaj23 l (0#1 ++ h) 0#5 a d = _
  have h0 : BitVec.extractLsb' 0 5 (0#1 ++ h : BitVec 6) = h := extract_append_low _ _
  have h1 : BitVec.extractLsb' 5 1 (0#1 ++ h : BitVec 6) = 0#1 := extract_append_high _ _
  simp only [rawMaj23, h0, h1]
  try rfl
theorem annAmoAnd (d : Reg) (a : Reg) (h : Reg) (l : BitVec 4) : Statement (.annAmoAnd d a h l) := by
  intro hw
  refine decode_pack (by decide) rfl ?_ hw
  change rawMaj23 l (0#1 ++ h) 1#5 a d = _
  have h0 : BitVec.extractLsb' 0 5 (0#1 ++ h : BitVec 6) = h := extract_append_low _ _
  have h1 : BitVec.extractLsb' 5 1 (0#1 ++ h : BitVec 6) = 0#1 := extract_append_high _ _
  simp only [rawMaj23, h0, h1]
  try rfl
theorem annAmoOr (d : Reg) (a : Reg) (h : Reg) (l : BitVec 4) : Statement (.annAmoOr d a h l) := by
  intro hw
  refine decode_pack (by decide) rfl ?_ hw
  change rawMaj23 l (0#1 ++ h) 2#5 a d = _
  have h0 : BitVec.extractLsb' 0 5 (0#1 ++ h : BitVec 6) = h := extract_append_low _ _
  have h1 : BitVec.extractLsb' 5 1 (0#1 ++ h : BitVec 6) = 0#1 := extract_append_high _ _
  simp only [rawMaj23, h0, h1]
  try rfl
theorem annAmoXor (d : Reg) (a : Reg) (h : Reg) (l : BitVec 4) : Statement (.annAmoXor d a h l) := by
  intro hw
  refine decode_pack (by decide) rfl ?_ hw
  change rawMaj23 l (0#1 ++ h) 3#5 a d = _
  have h0 : BitVec.extractLsb' 0 5 (0#1 ++ h : BitVec 6) = h := extract_append_low _ _
  have h1 : BitVec.extractLsb' 5 1 (0#1 ++ h : BitVec 6) = 0#1 := extract_append_high _ _
  simp only [rawMaj23, h0, h1]
  try rfl
theorem annAmoMin (d : Reg) (a : Reg) (h : Reg) (l : BitVec 4) : Statement (.annAmoMin d a h l) := by
  intro hw
  refine decode_pack (by decide) rfl ?_ hw
  change rawMaj23 l (0#1 ++ h) 4#5 a d = _
  have h0 : BitVec.extractLsb' 0 5 (0#1 ++ h : BitVec 6) = h := extract_append_low _ _
  have h1 : BitVec.extractLsb' 5 1 (0#1 ++ h : BitVec 6) = 0#1 := extract_append_high _ _
  simp only [rawMaj23, h0, h1]
  try rfl
theorem annAmoMax (d : Reg) (a : Reg) (h : Reg) (l : BitVec 4) : Statement (.annAmoMax d a h l) := by
  intro hw
  refine decode_pack (by decide) rfl ?_ hw
  change rawMaj23 l (0#1 ++ h) 5#5 a d = _
  have h0 : BitVec.extractLsb' 0 5 (0#1 ++ h : BitVec 6) = h := extract_append_low _ _
  have h1 : BitVec.extractLsb' 5 1 (0#1 ++ h : BitVec 6) = 0#1 := extract_append_high _ _
  simp only [rawMaj23, h0, h1]
  try rfl
theorem annAmoSwap (d : Reg) (a : Reg) (h : Reg) (l : BitVec 4) : Statement (.annAmoSwap d a h l) := by
  intro hw
  refine decode_pack (by decide) rfl ?_ hw
  change rawMaj23 l (0#1 ++ h) 6#5 a d = _
  have h0 : BitVec.extractLsb' 0 5 (0#1 ++ h : BitVec 6) = h := extract_append_low _ _
  have h1 : BitVec.extractLsb' 5 1 (0#1 ++ h : BitVec 6) = 0#1 := extract_append_high _ _
  simp only [rawMaj23, h0, h1]
  try rfl
theorem annLd (d : Reg) (a : Reg) (h : Reg) (l : BitVec 4) : Statement (.annLd d a h l) := by
  intro hw
  refine decode_pack (by decide) rfl ?_ hw
  change rawMaj23 l (1#1 ++ h) 0#5 a d = _
  have h0 : BitVec.extractLsb' 0 5 (1#1 ++ h : BitVec 6) = h := extract_append_low _ _
  have h1 : BitVec.extractLsb' 5 1 (1#1 ++ h : BitVec 6) = 1#1 := extract_append_high _ _
  simp only [rawMaj23, h0, h1]
  try rfl
theorem fenceT : Statement (.fenceT) :=
  fun hw => decode_pack (by decide) rfl rfl hw
theorem fenceC : Statement (.fenceC) :=
  fun hw => decode_pack (by decide) rfl rfl hw
theorem fenceG : Statement (.fenceG) :=
  fun hw => decode_pack (by decide) rfl rfl hw
theorem fenceE : Statement (.fenceE) :=
  fun hw => decode_pack (by decide) rfl rfl hw
theorem fenceSp : Statement (.fenceSp) :=
  fun hw => decode_pack (by decide) rfl rfl hw
theorem waitCnt (a : Reg) (b : Reg) (n : Reg) : Statement (.waitCnt a b n) :=
  fun hw => decode_pack (by decide) rfl rfl hw
theorem evWait (a : Reg) : Statement (.evWait a) :=
  fun hw => decode_pack (by decide) rfl rfl hw
theorem evSig (a : Reg) (b : Reg) (l : BitVec 4) : Statement (.evSig a b l) :=
  fun hw => decode_pack (by decide) rfl rfl hw
theorem mtxLock (a : Reg) (n : Reg) : Statement (.mtxLock a n) :=
  fun hw => decode_pack (by decide) rfl rfl hw
theorem mtxUnlock (a : Reg) (n : Reg) (l : BitVec 4) : Statement (.mtxUnlock a n l) :=
  fun hw => decode_pack (by decide) rfl rfl hw
theorem barArr (d : Reg) (g : BitVec 2) (l : BitVec 4) : Statement (.barArr d g l) := by
  intro hw
  refine decode_pack (by decide) rfl ?_ hw
  change rawMaj22 l 24#6 (0#3 ++ g) 0#5 d = _
  have h0 : BitVec.extractLsb' 0 2 (0#3 ++ g : BitVec 5) = g := extract_append_low _ _
  simp only [rawMaj22, h0]
  try rfl
theorem barWait (a : Reg) (g : BitVec 2) : Statement (.barWait a g) := by
  intro hw
  refine decode_pack (by decide) rfl ?_ hw
  change rawMaj22 0#4 25#6 (0#3 ++ g) a 0#5 = _
  have h0 : BitVec.extractLsb' 0 2 (0#3 ++ g : BitVec 5) = g := extract_append_low _ _
  simp only [rawMaj22, h0]
  try rfl
theorem barSync (d : Reg) (g : BitVec 2) : Statement (.barSync d g) := by
  intro hw
  refine decode_pack (by decide) rfl ?_ hw
  change rawMaj22 0#4 26#6 (0#3 ++ g) 0#5 d = _
  have h0 : BitVec.extractLsb' 0 2 (0#3 ++ g : BitVec 5) = g := extract_append_low _ _
  simp only [rawMaj22, h0]
  try rfl
theorem barPhase (d : Reg) (g : BitVec 2) (l : BitVec 4) : Statement (.barPhase d g l) := by
  intro hw
  refine decode_pack (by decide) rfl ?_ hw
  change rawMaj22 l 27#6 (0#3 ++ g) 0#5 d = _
  have h0 : BitVec.extractLsb' 0 2 (0#3 ++ g : BitVec 5) = g := extract_append_low _ _
  simp only [rawMaj22, h0]
  try rfl
theorem vadd (d : Reg) (a : Reg) (b : Reg) (m : Vm) : Statement (.vadd d a b m) := by
  intro hw
  refine decode_pack (by decide) rfl ?_ hw
  change rawMaj24 (m.pred ++ m.hb ++ m.ha) (m.w ++ 0#4) b a d = _
  have h0 : BitVec.extractLsb' 0 1 (m.pred ++ m.hb ++ m.ha : BitVec 4) = m.ha := extract_append_low _ _
  have h1 : BitVec.extractLsb' 1 1 (m.pred ++ m.hb ++ m.ha : BitVec 4) = m.hb := (extract_append_in_high _ _ (by decide)).trans (extract_append_low _ _)
  have h2 : BitVec.extractLsb' 2 2 (m.pred ++ m.hb ++ m.ha : BitVec 4) = m.pred := (extract_append_in_high _ _ (by decide)).trans (extract_append_high _ _)
  have h3 : BitVec.extractLsb' 0 4 (m.w ++ 0#4 : BitVec 6) = 0#4 := extract_append_low _ _
  have h4 : BitVec.extractLsb' 4 2 (m.w ++ 0#4 : BitVec 6) = m.w := extract_append_high _ _
  simp only [rawMaj24, h0, h1, h2, h3, h4]
  try rfl
theorem vsub (d : Reg) (a : Reg) (b : Reg) (m : Vm) : Statement (.vsub d a b m) := by
  intro hw
  refine decode_pack (by decide) rfl ?_ hw
  change rawMaj24 (m.pred ++ m.hb ++ m.ha) (m.w ++ 1#4) b a d = _
  have h0 : BitVec.extractLsb' 0 1 (m.pred ++ m.hb ++ m.ha : BitVec 4) = m.ha := extract_append_low _ _
  have h1 : BitVec.extractLsb' 1 1 (m.pred ++ m.hb ++ m.ha : BitVec 4) = m.hb := (extract_append_in_high _ _ (by decide)).trans (extract_append_low _ _)
  have h2 : BitVec.extractLsb' 2 2 (m.pred ++ m.hb ++ m.ha : BitVec 4) = m.pred := (extract_append_in_high _ _ (by decide)).trans (extract_append_high _ _)
  have h3 : BitVec.extractLsb' 0 4 (m.w ++ 1#4 : BitVec 6) = 1#4 := extract_append_low _ _
  have h4 : BitVec.extractLsb' 4 2 (m.w ++ 1#4 : BitVec 6) = m.w := extract_append_high _ _
  simp only [rawMaj24, h0, h1, h2, h3, h4]
  try rfl
theorem vadds (d : Reg) (a : Reg) (b : Reg) (m : Vm) : Statement (.vadds d a b m) := by
  intro hw
  refine decode_pack (by decide) rfl ?_ hw
  change rawMaj24 (m.pred ++ m.hb ++ m.ha) (m.w ++ 2#4) b a d = _
  have h0 : BitVec.extractLsb' 0 1 (m.pred ++ m.hb ++ m.ha : BitVec 4) = m.ha := extract_append_low _ _
  have h1 : BitVec.extractLsb' 1 1 (m.pred ++ m.hb ++ m.ha : BitVec 4) = m.hb := (extract_append_in_high _ _ (by decide)).trans (extract_append_low _ _)
  have h2 : BitVec.extractLsb' 2 2 (m.pred ++ m.hb ++ m.ha : BitVec 4) = m.pred := (extract_append_in_high _ _ (by decide)).trans (extract_append_high _ _)
  have h3 : BitVec.extractLsb' 0 4 (m.w ++ 2#4 : BitVec 6) = 2#4 := extract_append_low _ _
  have h4 : BitVec.extractLsb' 4 2 (m.w ++ 2#4 : BitVec 6) = m.w := extract_append_high _ _
  simp only [rawMaj24, h0, h1, h2, h3, h4]
  try rfl
theorem vsubs (d : Reg) (a : Reg) (b : Reg) (m : Vm) : Statement (.vsubs d a b m) := by
  intro hw
  refine decode_pack (by decide) rfl ?_ hw
  change rawMaj24 (m.pred ++ m.hb ++ m.ha) (m.w ++ 3#4) b a d = _
  have h0 : BitVec.extractLsb' 0 1 (m.pred ++ m.hb ++ m.ha : BitVec 4) = m.ha := extract_append_low _ _
  have h1 : BitVec.extractLsb' 1 1 (m.pred ++ m.hb ++ m.ha : BitVec 4) = m.hb := (extract_append_in_high _ _ (by decide)).trans (extract_append_low _ _)
  have h2 : BitVec.extractLsb' 2 2 (m.pred ++ m.hb ++ m.ha : BitVec 4) = m.pred := (extract_append_in_high _ _ (by decide)).trans (extract_append_high _ _)
  have h3 : BitVec.extractLsb' 0 4 (m.w ++ 3#4 : BitVec 6) = 3#4 := extract_append_low _ _
  have h4 : BitVec.extractLsb' 4 2 (m.w ++ 3#4 : BitVec 6) = m.w := extract_append_high _ _
  simp only [rawMaj24, h0, h1, h2, h3, h4]
  try rfl
theorem vmul (d : Reg) (a : Reg) (b : Reg) (m : Vm) : Statement (.vmul d a b m) := by
  intro hw
  refine decode_pack (by decide) rfl ?_ hw
  change rawMaj24 (m.pred ++ m.hb ++ m.ha) (m.w ++ 4#4) b a d = _
  have h0 : BitVec.extractLsb' 0 1 (m.pred ++ m.hb ++ m.ha : BitVec 4) = m.ha := extract_append_low _ _
  have h1 : BitVec.extractLsb' 1 1 (m.pred ++ m.hb ++ m.ha : BitVec 4) = m.hb := (extract_append_in_high _ _ (by decide)).trans (extract_append_low _ _)
  have h2 : BitVec.extractLsb' 2 2 (m.pred ++ m.hb ++ m.ha : BitVec 4) = m.pred := (extract_append_in_high _ _ (by decide)).trans (extract_append_high _ _)
  have h3 : BitVec.extractLsb' 0 4 (m.w ++ 4#4 : BitVec 6) = 4#4 := extract_append_low _ _
  have h4 : BitVec.extractLsb' 4 2 (m.w ++ 4#4 : BitVec 6) = m.w := extract_append_high _ _
  simp only [rawMaj24, h0, h1, h2, h3, h4]
  try rfl
theorem vmin (d : Reg) (a : Reg) (b : Reg) (m : Vm) : Statement (.vmin d a b m) := by
  intro hw
  refine decode_pack (by decide) rfl ?_ hw
  change rawMaj24 (m.pred ++ m.hb ++ m.ha) (m.w ++ 5#4) b a d = _
  have h0 : BitVec.extractLsb' 0 1 (m.pred ++ m.hb ++ m.ha : BitVec 4) = m.ha := extract_append_low _ _
  have h1 : BitVec.extractLsb' 1 1 (m.pred ++ m.hb ++ m.ha : BitVec 4) = m.hb := (extract_append_in_high _ _ (by decide)).trans (extract_append_low _ _)
  have h2 : BitVec.extractLsb' 2 2 (m.pred ++ m.hb ++ m.ha : BitVec 4) = m.pred := (extract_append_in_high _ _ (by decide)).trans (extract_append_high _ _)
  have h3 : BitVec.extractLsb' 0 4 (m.w ++ 5#4 : BitVec 6) = 5#4 := extract_append_low _ _
  have h4 : BitVec.extractLsb' 4 2 (m.w ++ 5#4 : BitVec 6) = m.w := extract_append_high _ _
  simp only [rawMaj24, h0, h1, h2, h3, h4]
  try rfl
theorem vmax (d : Reg) (a : Reg) (b : Reg) (m : Vm) : Statement (.vmax d a b m) := by
  intro hw
  refine decode_pack (by decide) rfl ?_ hw
  change rawMaj24 (m.pred ++ m.hb ++ m.ha) (m.w ++ 6#4) b a d = _
  have h0 : BitVec.extractLsb' 0 1 (m.pred ++ m.hb ++ m.ha : BitVec 4) = m.ha := extract_append_low _ _
  have h1 : BitVec.extractLsb' 1 1 (m.pred ++ m.hb ++ m.ha : BitVec 4) = m.hb := (extract_append_in_high _ _ (by decide)).trans (extract_append_low _ _)
  have h2 : BitVec.extractLsb' 2 2 (m.pred ++ m.hb ++ m.ha : BitVec 4) = m.pred := (extract_append_in_high _ _ (by decide)).trans (extract_append_high _ _)
  have h3 : BitVec.extractLsb' 0 4 (m.w ++ 6#4 : BitVec 6) = 6#4 := extract_append_low _ _
  have h4 : BitVec.extractLsb' 4 2 (m.w ++ 6#4 : BitVec 6) = m.w := extract_append_high _ _
  simp only [rawMaj24, h0, h1, h2, h3, h4]
  try rfl
theorem vand (d : Reg) (a : Reg) (b : Reg) (m : Vm) : Statement (.vand d a b m) := by
  intro hw
  refine decode_pack (by decide) rfl ?_ hw
  change rawMaj24 (m.pred ++ m.hb ++ m.ha) (m.w ++ 7#4) b a d = _
  have h0 : BitVec.extractLsb' 0 1 (m.pred ++ m.hb ++ m.ha : BitVec 4) = m.ha := extract_append_low _ _
  have h1 : BitVec.extractLsb' 1 1 (m.pred ++ m.hb ++ m.ha : BitVec 4) = m.hb := (extract_append_in_high _ _ (by decide)).trans (extract_append_low _ _)
  have h2 : BitVec.extractLsb' 2 2 (m.pred ++ m.hb ++ m.ha : BitVec 4) = m.pred := (extract_append_in_high _ _ (by decide)).trans (extract_append_high _ _)
  have h3 : BitVec.extractLsb' 0 4 (m.w ++ 7#4 : BitVec 6) = 7#4 := extract_append_low _ _
  have h4 : BitVec.extractLsb' 4 2 (m.w ++ 7#4 : BitVec 6) = m.w := extract_append_high _ _
  simp only [rawMaj24, h0, h1, h2, h3, h4]
  try rfl
theorem vor (d : Reg) (a : Reg) (b : Reg) (m : Vm) : Statement (.vor d a b m) := by
  intro hw
  refine decode_pack (by decide) rfl ?_ hw
  change rawMaj24 (m.pred ++ m.hb ++ m.ha) (m.w ++ 8#4) b a d = _
  have h0 : BitVec.extractLsb' 0 1 (m.pred ++ m.hb ++ m.ha : BitVec 4) = m.ha := extract_append_low _ _
  have h1 : BitVec.extractLsb' 1 1 (m.pred ++ m.hb ++ m.ha : BitVec 4) = m.hb := (extract_append_in_high _ _ (by decide)).trans (extract_append_low _ _)
  have h2 : BitVec.extractLsb' 2 2 (m.pred ++ m.hb ++ m.ha : BitVec 4) = m.pred := (extract_append_in_high _ _ (by decide)).trans (extract_append_high _ _)
  have h3 : BitVec.extractLsb' 0 4 (m.w ++ 8#4 : BitVec 6) = 8#4 := extract_append_low _ _
  have h4 : BitVec.extractLsb' 4 2 (m.w ++ 8#4 : BitVec 6) = m.w := extract_append_high _ _
  simp only [rawMaj24, h0, h1, h2, h3, h4]
  try rfl
theorem vxor (d : Reg) (a : Reg) (b : Reg) (m : Vm) : Statement (.vxor d a b m) := by
  intro hw
  refine decode_pack (by decide) rfl ?_ hw
  change rawMaj24 (m.pred ++ m.hb ++ m.ha) (m.w ++ 9#4) b a d = _
  have h0 : BitVec.extractLsb' 0 1 (m.pred ++ m.hb ++ m.ha : BitVec 4) = m.ha := extract_append_low _ _
  have h1 : BitVec.extractLsb' 1 1 (m.pred ++ m.hb ++ m.ha : BitVec 4) = m.hb := (extract_append_in_high _ _ (by decide)).trans (extract_append_low _ _)
  have h2 : BitVec.extractLsb' 2 2 (m.pred ++ m.hb ++ m.ha : BitVec 4) = m.pred := (extract_append_in_high _ _ (by decide)).trans (extract_append_high _ _)
  have h3 : BitVec.extractLsb' 0 4 (m.w ++ 9#4 : BitVec 6) = 9#4 := extract_append_low _ _
  have h4 : BitVec.extractLsb' 4 2 (m.w ++ 9#4 : BitVec 6) = m.w := extract_append_high _ _
  simp only [rawMaj24, h0, h1, h2, h3, h4]
  try rfl
theorem vsll (d : Reg) (a : Reg) (b : Reg) (m : Vm) : Statement (.vsll d a b m) := by
  intro hw
  refine decode_pack (by decide) rfl ?_ hw
  change rawMaj24 (m.pred ++ m.hb ++ m.ha) (m.w ++ 10#4) b a d = _
  have h0 : BitVec.extractLsb' 0 1 (m.pred ++ m.hb ++ m.ha : BitVec 4) = m.ha := extract_append_low _ _
  have h1 : BitVec.extractLsb' 1 1 (m.pred ++ m.hb ++ m.ha : BitVec 4) = m.hb := (extract_append_in_high _ _ (by decide)).trans (extract_append_low _ _)
  have h2 : BitVec.extractLsb' 2 2 (m.pred ++ m.hb ++ m.ha : BitVec 4) = m.pred := (extract_append_in_high _ _ (by decide)).trans (extract_append_high _ _)
  have h3 : BitVec.extractLsb' 0 4 (m.w ++ 10#4 : BitVec 6) = 10#4 := extract_append_low _ _
  have h4 : BitVec.extractLsb' 4 2 (m.w ++ 10#4 : BitVec 6) = m.w := extract_append_high _ _
  simp only [rawMaj24, h0, h1, h2, h3, h4]
  try rfl
theorem vsrl (d : Reg) (a : Reg) (b : Reg) (m : Vm) : Statement (.vsrl d a b m) := by
  intro hw
  refine decode_pack (by decide) rfl ?_ hw
  change rawMaj24 (m.pred ++ m.hb ++ m.ha) (m.w ++ 11#4) b a d = _
  have h0 : BitVec.extractLsb' 0 1 (m.pred ++ m.hb ++ m.ha : BitVec 4) = m.ha := extract_append_low _ _
  have h1 : BitVec.extractLsb' 1 1 (m.pred ++ m.hb ++ m.ha : BitVec 4) = m.hb := (extract_append_in_high _ _ (by decide)).trans (extract_append_low _ _)
  have h2 : BitVec.extractLsb' 2 2 (m.pred ++ m.hb ++ m.ha : BitVec 4) = m.pred := (extract_append_in_high _ _ (by decide)).trans (extract_append_high _ _)
  have h3 : BitVec.extractLsb' 0 4 (m.w ++ 11#4 : BitVec 6) = 11#4 := extract_append_low _ _
  have h4 : BitVec.extractLsb' 4 2 (m.w ++ 11#4 : BitVec 6) = m.w := extract_append_high _ _
  simp only [rawMaj24, h0, h1, h2, h3, h4]
  try rfl
theorem vsra (d : Reg) (a : Reg) (b : Reg) (m : Vm) : Statement (.vsra d a b m) := by
  intro hw
  refine decode_pack (by decide) rfl ?_ hw
  change rawMaj24 (m.pred ++ m.hb ++ m.ha) (m.w ++ 12#4) b a d = _
  have h0 : BitVec.extractLsb' 0 1 (m.pred ++ m.hb ++ m.ha : BitVec 4) = m.ha := extract_append_low _ _
  have h1 : BitVec.extractLsb' 1 1 (m.pred ++ m.hb ++ m.ha : BitVec 4) = m.hb := (extract_append_in_high _ _ (by decide)).trans (extract_append_low _ _)
  have h2 : BitVec.extractLsb' 2 2 (m.pred ++ m.hb ++ m.ha : BitVec 4) = m.pred := (extract_append_in_high _ _ (by decide)).trans (extract_append_high _ _)
  have h3 : BitVec.extractLsb' 0 4 (m.w ++ 12#4 : BitVec 6) = 12#4 := extract_append_low _ _
  have h4 : BitVec.extractLsb' 4 2 (m.w ++ 12#4 : BitVec 6) = m.w := extract_append_high _ _
  simp only [rawMaj24, h0, h1, h2, h3, h4]
  try rfl
theorem vminu (d : Reg) (a : Reg) (b : Reg) (m : Vm) : Statement (.vminu d a b m) := by
  intro hw
  refine decode_pack (by decide) rfl ?_ hw
  change rawMaj24 (m.pred ++ m.hb ++ m.ha) (m.w ++ 13#4) b a d = _
  have h0 : BitVec.extractLsb' 0 1 (m.pred ++ m.hb ++ m.ha : BitVec 4) = m.ha := extract_append_low _ _
  have h1 : BitVec.extractLsb' 1 1 (m.pred ++ m.hb ++ m.ha : BitVec 4) = m.hb := (extract_append_in_high _ _ (by decide)).trans (extract_append_low _ _)
  have h2 : BitVec.extractLsb' 2 2 (m.pred ++ m.hb ++ m.ha : BitVec 4) = m.pred := (extract_append_in_high _ _ (by decide)).trans (extract_append_high _ _)
  have h3 : BitVec.extractLsb' 0 4 (m.w ++ 13#4 : BitVec 6) = 13#4 := extract_append_low _ _
  have h4 : BitVec.extractLsb' 4 2 (m.w ++ 13#4 : BitVec 6) = m.w := extract_append_high _ _
  simp only [rawMaj24, h0, h1, h2, h3, h4]
  try rfl
theorem vmaxu (d : Reg) (a : Reg) (b : Reg) (m : Vm) : Statement (.vmaxu d a b m) := by
  intro hw
  refine decode_pack (by decide) rfl ?_ hw
  change rawMaj24 (m.pred ++ m.hb ++ m.ha) (m.w ++ 14#4) b a d = _
  have h0 : BitVec.extractLsb' 0 1 (m.pred ++ m.hb ++ m.ha : BitVec 4) = m.ha := extract_append_low _ _
  have h1 : BitVec.extractLsb' 1 1 (m.pred ++ m.hb ++ m.ha : BitVec 4) = m.hb := (extract_append_in_high _ _ (by decide)).trans (extract_append_low _ _)
  have h2 : BitVec.extractLsb' 2 2 (m.pred ++ m.hb ++ m.ha : BitVec 4) = m.pred := (extract_append_in_high _ _ (by decide)).trans (extract_append_high _ _)
  have h3 : BitVec.extractLsb' 0 4 (m.w ++ 14#4 : BitVec 6) = 14#4 := extract_append_low _ _
  have h4 : BitVec.extractLsb' 4 2 (m.w ++ 14#4 : BitVec 6) = m.w := extract_append_high _ _
  simp only [rawMaj24, h0, h1, h2, h3, h4]
  try rfl
theorem vcmpEq (d : Reg) (a : Reg) (b : Reg) (m : Vm) : Statement (.vcmpEq d a b m) := by
  intro hw
  refine decode_pack (by decide) rfl ?_ hw
  change rawMaj25 (m.pred ++ m.hb ++ m.ha) (m.w ++ 0#4) b a d = _
  have h0 : BitVec.extractLsb' 0 1 (m.pred ++ m.hb ++ m.ha : BitVec 4) = m.ha := extract_append_low _ _
  have h1 : BitVec.extractLsb' 1 1 (m.pred ++ m.hb ++ m.ha : BitVec 4) = m.hb := (extract_append_in_high _ _ (by decide)).trans (extract_append_low _ _)
  have h2 : BitVec.extractLsb' 2 2 (m.pred ++ m.hb ++ m.ha : BitVec 4) = m.pred := (extract_append_in_high _ _ (by decide)).trans (extract_append_high _ _)
  have h3 : BitVec.extractLsb' 0 4 (m.w ++ 0#4 : BitVec 6) = 0#4 := extract_append_low _ _
  have h4 : BitVec.extractLsb' 4 2 (m.w ++ 0#4 : BitVec 6) = m.w := extract_append_high _ _
  simp only [rawMaj25, h0, h1, h2, h3, h4]
  try rfl
theorem vcmpNe (d : Reg) (a : Reg) (b : Reg) (m : Vm) : Statement (.vcmpNe d a b m) := by
  intro hw
  refine decode_pack (by decide) rfl ?_ hw
  change rawMaj25 (m.pred ++ m.hb ++ m.ha) (m.w ++ 1#4) b a d = _
  have h0 : BitVec.extractLsb' 0 1 (m.pred ++ m.hb ++ m.ha : BitVec 4) = m.ha := extract_append_low _ _
  have h1 : BitVec.extractLsb' 1 1 (m.pred ++ m.hb ++ m.ha : BitVec 4) = m.hb := (extract_append_in_high _ _ (by decide)).trans (extract_append_low _ _)
  have h2 : BitVec.extractLsb' 2 2 (m.pred ++ m.hb ++ m.ha : BitVec 4) = m.pred := (extract_append_in_high _ _ (by decide)).trans (extract_append_high _ _)
  have h3 : BitVec.extractLsb' 0 4 (m.w ++ 1#4 : BitVec 6) = 1#4 := extract_append_low _ _
  have h4 : BitVec.extractLsb' 4 2 (m.w ++ 1#4 : BitVec 6) = m.w := extract_append_high _ _
  simp only [rawMaj25, h0, h1, h2, h3, h4]
  try rfl
theorem vcmpLt (d : Reg) (a : Reg) (b : Reg) (m : Vm) : Statement (.vcmpLt d a b m) := by
  intro hw
  refine decode_pack (by decide) rfl ?_ hw
  change rawMaj25 (m.pred ++ m.hb ++ m.ha) (m.w ++ 2#4) b a d = _
  have h0 : BitVec.extractLsb' 0 1 (m.pred ++ m.hb ++ m.ha : BitVec 4) = m.ha := extract_append_low _ _
  have h1 : BitVec.extractLsb' 1 1 (m.pred ++ m.hb ++ m.ha : BitVec 4) = m.hb := (extract_append_in_high _ _ (by decide)).trans (extract_append_low _ _)
  have h2 : BitVec.extractLsb' 2 2 (m.pred ++ m.hb ++ m.ha : BitVec 4) = m.pred := (extract_append_in_high _ _ (by decide)).trans (extract_append_high _ _)
  have h3 : BitVec.extractLsb' 0 4 (m.w ++ 2#4 : BitVec 6) = 2#4 := extract_append_low _ _
  have h4 : BitVec.extractLsb' 4 2 (m.w ++ 2#4 : BitVec 6) = m.w := extract_append_high _ _
  simp only [rawMaj25, h0, h1, h2, h3, h4]
  try rfl
theorem vcmpGe (d : Reg) (a : Reg) (b : Reg) (m : Vm) : Statement (.vcmpGe d a b m) := by
  intro hw
  refine decode_pack (by decide) rfl ?_ hw
  change rawMaj25 (m.pred ++ m.hb ++ m.ha) (m.w ++ 3#4) b a d = _
  have h0 : BitVec.extractLsb' 0 1 (m.pred ++ m.hb ++ m.ha : BitVec 4) = m.ha := extract_append_low _ _
  have h1 : BitVec.extractLsb' 1 1 (m.pred ++ m.hb ++ m.ha : BitVec 4) = m.hb := (extract_append_in_high _ _ (by decide)).trans (extract_append_low _ _)
  have h2 : BitVec.extractLsb' 2 2 (m.pred ++ m.hb ++ m.ha : BitVec 4) = m.pred := (extract_append_in_high _ _ (by decide)).trans (extract_append_high _ _)
  have h3 : BitVec.extractLsb' 0 4 (m.w ++ 3#4 : BitVec 6) = 3#4 := extract_append_low _ _
  have h4 : BitVec.extractLsb' 4 2 (m.w ++ 3#4 : BitVec 6) = m.w := extract_append_high _ _
  simp only [rawMaj25, h0, h1, h2, h3, h4]
  try rfl
theorem vcmpLtu (d : Reg) (a : Reg) (b : Reg) (m : Vm) : Statement (.vcmpLtu d a b m) := by
  intro hw
  refine decode_pack (by decide) rfl ?_ hw
  change rawMaj25 (m.pred ++ m.hb ++ m.ha) (m.w ++ 4#4) b a d = _
  have h0 : BitVec.extractLsb' 0 1 (m.pred ++ m.hb ++ m.ha : BitVec 4) = m.ha := extract_append_low _ _
  have h1 : BitVec.extractLsb' 1 1 (m.pred ++ m.hb ++ m.ha : BitVec 4) = m.hb := (extract_append_in_high _ _ (by decide)).trans (extract_append_low _ _)
  have h2 : BitVec.extractLsb' 2 2 (m.pred ++ m.hb ++ m.ha : BitVec 4) = m.pred := (extract_append_in_high _ _ (by decide)).trans (extract_append_high _ _)
  have h3 : BitVec.extractLsb' 0 4 (m.w ++ 4#4 : BitVec 6) = 4#4 := extract_append_low _ _
  have h4 : BitVec.extractLsb' 4 2 (m.w ++ 4#4 : BitVec 6) = m.w := extract_append_high _ _
  simp only [rawMaj25, h0, h1, h2, h3, h4]
  try rfl
theorem vcmpGeu (d : Reg) (a : Reg) (b : Reg) (m : Vm) : Statement (.vcmpGeu d a b m) := by
  intro hw
  refine decode_pack (by decide) rfl ?_ hw
  change rawMaj25 (m.pred ++ m.hb ++ m.ha) (m.w ++ 5#4) b a d = _
  have h0 : BitVec.extractLsb' 0 1 (m.pred ++ m.hb ++ m.ha : BitVec 4) = m.ha := extract_append_low _ _
  have h1 : BitVec.extractLsb' 1 1 (m.pred ++ m.hb ++ m.ha : BitVec 4) = m.hb := (extract_append_in_high _ _ (by decide)).trans (extract_append_low _ _)
  have h2 : BitVec.extractLsb' 2 2 (m.pred ++ m.hb ++ m.ha : BitVec 4) = m.pred := (extract_append_in_high _ _ (by decide)).trans (extract_append_high _ _)
  have h3 : BitVec.extractLsb' 0 4 (m.w ++ 5#4 : BitVec 6) = 5#4 := extract_append_low _ _
  have h4 : BitVec.extractLsb' 4 2 (m.w ++ 5#4 : BitVec 6) = m.w := extract_append_high _ _
  simp only [rawMaj25, h0, h1, h2, h3, h4]
  try rfl
theorem vredsum (d : Reg) (a : Reg) (m : Vm) : Statement (.vredsum d a m) := by
  intro hw
  obtain ⟨w, p, hb, ha⟩ := m
  obtain rfl : hb = 0#1 := by
    simp [wellFormed, noHoldB] at hw
    simp [hw]
  refine decode_pack (by decide) rfl ?_ hw
  change rawMaj25 (p ++ 0#1 ++ ha) (w ++ 6#4) 0#5 a d = _
  have h0 : BitVec.extractLsb' 0 1 (p ++ 0#1 ++ ha : BitVec 4) = ha := extract_append_low _ _
  have h1 : BitVec.extractLsb' 1 1 (p ++ 0#1 ++ ha : BitVec 4) = 0#1 := (extract_append_in_high _ _ (by decide)).trans (extract_append_low _ _)
  have h2 : BitVec.extractLsb' 2 2 (p ++ 0#1 ++ ha : BitVec 4) = p := (extract_append_in_high _ _ (by decide)).trans (extract_append_high _ _)
  have h3 : BitVec.extractLsb' 0 4 (w ++ 6#4 : BitVec 6) = 6#4 := extract_append_low _ _
  have h4 : BitVec.extractLsb' 4 2 (w ++ 6#4 : BitVec 6) = w := extract_append_high _ _
  simp only [rawMaj25, h0, h1, h2, h3, h4]
  try rfl
theorem vredmax (d : Reg) (a : Reg) (m : Vm) : Statement (.vredmax d a m) := by
  intro hw
  obtain ⟨w, p, hb, ha⟩ := m
  obtain rfl : hb = 0#1 := by
    simp [wellFormed, noHoldB] at hw
    simp [hw]
  refine decode_pack (by decide) rfl ?_ hw
  change rawMaj25 (p ++ 0#1 ++ ha) (w ++ 7#4) 0#5 a d = _
  have h0 : BitVec.extractLsb' 0 1 (p ++ 0#1 ++ ha : BitVec 4) = ha := extract_append_low _ _
  have h1 : BitVec.extractLsb' 1 1 (p ++ 0#1 ++ ha : BitVec 4) = 0#1 := (extract_append_in_high _ _ (by decide)).trans (extract_append_low _ _)
  have h2 : BitVec.extractLsb' 2 2 (p ++ 0#1 ++ ha : BitVec 4) = p := (extract_append_in_high _ _ (by decide)).trans (extract_append_high _ _)
  have h3 : BitVec.extractLsb' 0 4 (w ++ 7#4 : BitVec 6) = 7#4 := extract_append_low _ _
  have h4 : BitVec.extractLsb' 4 2 (w ++ 7#4 : BitVec 6) = w := extract_append_high _ _
  simp only [rawMaj25, h0, h1, h2, h3, h4]
  try rfl
theorem vfadd (d : Reg) (a : Reg) (b : Reg) (m : Vm) : Statement (.vfadd d a b m) := by
  intro hw
  refine decode_pack (by decide) rfl ?_ hw
  change rawMaj26 (m.pred ++ m.hb ++ m.ha) (m.w ++ 0#4) b a d = _
  have h0 : BitVec.extractLsb' 0 1 (m.pred ++ m.hb ++ m.ha : BitVec 4) = m.ha := extract_append_low _ _
  have h1 : BitVec.extractLsb' 1 1 (m.pred ++ m.hb ++ m.ha : BitVec 4) = m.hb := (extract_append_in_high _ _ (by decide)).trans (extract_append_low _ _)
  have h2 : BitVec.extractLsb' 2 2 (m.pred ++ m.hb ++ m.ha : BitVec 4) = m.pred := (extract_append_in_high _ _ (by decide)).trans (extract_append_high _ _)
  have h3 : BitVec.extractLsb' 0 4 (m.w ++ 0#4 : BitVec 6) = 0#4 := extract_append_low _ _
  have h4 : BitVec.extractLsb' 4 2 (m.w ++ 0#4 : BitVec 6) = m.w := extract_append_high _ _
  simp only [rawMaj26, h0, h1, h2, h3, h4]
  try rfl
theorem vfsub (d : Reg) (a : Reg) (b : Reg) (m : Vm) : Statement (.vfsub d a b m) := by
  intro hw
  refine decode_pack (by decide) rfl ?_ hw
  change rawMaj26 (m.pred ++ m.hb ++ m.ha) (m.w ++ 1#4) b a d = _
  have h0 : BitVec.extractLsb' 0 1 (m.pred ++ m.hb ++ m.ha : BitVec 4) = m.ha := extract_append_low _ _
  have h1 : BitVec.extractLsb' 1 1 (m.pred ++ m.hb ++ m.ha : BitVec 4) = m.hb := (extract_append_in_high _ _ (by decide)).trans (extract_append_low _ _)
  have h2 : BitVec.extractLsb' 2 2 (m.pred ++ m.hb ++ m.ha : BitVec 4) = m.pred := (extract_append_in_high _ _ (by decide)).trans (extract_append_high _ _)
  have h3 : BitVec.extractLsb' 0 4 (m.w ++ 1#4 : BitVec 6) = 1#4 := extract_append_low _ _
  have h4 : BitVec.extractLsb' 4 2 (m.w ++ 1#4 : BitVec 6) = m.w := extract_append_high _ _
  simp only [rawMaj26, h0, h1, h2, h3, h4]
  try rfl
theorem vfmul (d : Reg) (a : Reg) (b : Reg) (m : Vm) : Statement (.vfmul d a b m) := by
  intro hw
  refine decode_pack (by decide) rfl ?_ hw
  change rawMaj26 (m.pred ++ m.hb ++ m.ha) (m.w ++ 2#4) b a d = _
  have h0 : BitVec.extractLsb' 0 1 (m.pred ++ m.hb ++ m.ha : BitVec 4) = m.ha := extract_append_low _ _
  have h1 : BitVec.extractLsb' 1 1 (m.pred ++ m.hb ++ m.ha : BitVec 4) = m.hb := (extract_append_in_high _ _ (by decide)).trans (extract_append_low _ _)
  have h2 : BitVec.extractLsb' 2 2 (m.pred ++ m.hb ++ m.ha : BitVec 4) = m.pred := (extract_append_in_high _ _ (by decide)).trans (extract_append_high _ _)
  have h3 : BitVec.extractLsb' 0 4 (m.w ++ 2#4 : BitVec 6) = 2#4 := extract_append_low _ _
  have h4 : BitVec.extractLsb' 4 2 (m.w ++ 2#4 : BitVec 6) = m.w := extract_append_high _ _
  simp only [rawMaj26, h0, h1, h2, h3, h4]
  try rfl
theorem vfma (d : Reg) (a : Reg) (b : Reg) (m : Vm) : Statement (.vfma d a b m) := by
  intro hw
  refine decode_pack (by decide) rfl ?_ hw
  change rawMaj26 (m.pred ++ m.hb ++ m.ha) (m.w ++ 3#4) b a d = _
  have h0 : BitVec.extractLsb' 0 1 (m.pred ++ m.hb ++ m.ha : BitVec 4) = m.ha := extract_append_low _ _
  have h1 : BitVec.extractLsb' 1 1 (m.pred ++ m.hb ++ m.ha : BitVec 4) = m.hb := (extract_append_in_high _ _ (by decide)).trans (extract_append_low _ _)
  have h2 : BitVec.extractLsb' 2 2 (m.pred ++ m.hb ++ m.ha : BitVec 4) = m.pred := (extract_append_in_high _ _ (by decide)).trans (extract_append_high _ _)
  have h3 : BitVec.extractLsb' 0 4 (m.w ++ 3#4 : BitVec 6) = 3#4 := extract_append_low _ _
  have h4 : BitVec.extractLsb' 4 2 (m.w ++ 3#4 : BitVec 6) = m.w := extract_append_high _ _
  simp only [rawMaj26, h0, h1, h2, h3, h4]
  try rfl
theorem vfnma (d : Reg) (a : Reg) (b : Reg) (m : Vm) : Statement (.vfnma d a b m) := by
  intro hw
  refine decode_pack (by decide) rfl ?_ hw
  change rawMaj26 (m.pred ++ m.hb ++ m.ha) (m.w ++ 4#4) b a d = _
  have h0 : BitVec.extractLsb' 0 1 (m.pred ++ m.hb ++ m.ha : BitVec 4) = m.ha := extract_append_low _ _
  have h1 : BitVec.extractLsb' 1 1 (m.pred ++ m.hb ++ m.ha : BitVec 4) = m.hb := (extract_append_in_high _ _ (by decide)).trans (extract_append_low _ _)
  have h2 : BitVec.extractLsb' 2 2 (m.pred ++ m.hb ++ m.ha : BitVec 4) = m.pred := (extract_append_in_high _ _ (by decide)).trans (extract_append_high _ _)
  have h3 : BitVec.extractLsb' 0 4 (m.w ++ 4#4 : BitVec 6) = 4#4 := extract_append_low _ _
  have h4 : BitVec.extractLsb' 4 2 (m.w ++ 4#4 : BitVec 6) = m.w := extract_append_high _ _
  simp only [rawMaj26, h0, h1, h2, h3, h4]
  try rfl
theorem vfmin (d : Reg) (a : Reg) (b : Reg) (m : Vm) : Statement (.vfmin d a b m) := by
  intro hw
  refine decode_pack (by decide) rfl ?_ hw
  change rawMaj26 (m.pred ++ m.hb ++ m.ha) (m.w ++ 5#4) b a d = _
  have h0 : BitVec.extractLsb' 0 1 (m.pred ++ m.hb ++ m.ha : BitVec 4) = m.ha := extract_append_low _ _
  have h1 : BitVec.extractLsb' 1 1 (m.pred ++ m.hb ++ m.ha : BitVec 4) = m.hb := (extract_append_in_high _ _ (by decide)).trans (extract_append_low _ _)
  have h2 : BitVec.extractLsb' 2 2 (m.pred ++ m.hb ++ m.ha : BitVec 4) = m.pred := (extract_append_in_high _ _ (by decide)).trans (extract_append_high _ _)
  have h3 : BitVec.extractLsb' 0 4 (m.w ++ 5#4 : BitVec 6) = 5#4 := extract_append_low _ _
  have h4 : BitVec.extractLsb' 4 2 (m.w ++ 5#4 : BitVec 6) = m.w := extract_append_high _ _
  simp only [rawMaj26, h0, h1, h2, h3, h4]
  try rfl
theorem vfmax (d : Reg) (a : Reg) (b : Reg) (m : Vm) : Statement (.vfmax d a b m) := by
  intro hw
  refine decode_pack (by decide) rfl ?_ hw
  change rawMaj26 (m.pred ++ m.hb ++ m.ha) (m.w ++ 6#4) b a d = _
  have h0 : BitVec.extractLsb' 0 1 (m.pred ++ m.hb ++ m.ha : BitVec 4) = m.ha := extract_append_low _ _
  have h1 : BitVec.extractLsb' 1 1 (m.pred ++ m.hb ++ m.ha : BitVec 4) = m.hb := (extract_append_in_high _ _ (by decide)).trans (extract_append_low _ _)
  have h2 : BitVec.extractLsb' 2 2 (m.pred ++ m.hb ++ m.ha : BitVec 4) = m.pred := (extract_append_in_high _ _ (by decide)).trans (extract_append_high _ _)
  have h3 : BitVec.extractLsb' 0 4 (m.w ++ 6#4 : BitVec 6) = 6#4 := extract_append_low _ _
  have h4 : BitVec.extractLsb' 4 2 (m.w ++ 6#4 : BitVec 6) = m.w := extract_append_high _ _
  simp only [rawMaj26, h0, h1, h2, h3, h4]
  try rfl
theorem vfminp (d : Reg) (a : Reg) (b : Reg) (m : Vm) : Statement (.vfminp d a b m) := by
  intro hw
  refine decode_pack (by decide) rfl ?_ hw
  change rawMaj26 (m.pred ++ m.hb ++ m.ha) (m.w ++ 7#4) b a d = _
  have h0 : BitVec.extractLsb' 0 1 (m.pred ++ m.hb ++ m.ha : BitVec 4) = m.ha := extract_append_low _ _
  have h1 : BitVec.extractLsb' 1 1 (m.pred ++ m.hb ++ m.ha : BitVec 4) = m.hb := (extract_append_in_high _ _ (by decide)).trans (extract_append_low _ _)
  have h2 : BitVec.extractLsb' 2 2 (m.pred ++ m.hb ++ m.ha : BitVec 4) = m.pred := (extract_append_in_high _ _ (by decide)).trans (extract_append_high _ _)
  have h3 : BitVec.extractLsb' 0 4 (m.w ++ 7#4 : BitVec 6) = 7#4 := extract_append_low _ _
  have h4 : BitVec.extractLsb' 4 2 (m.w ++ 7#4 : BitVec 6) = m.w := extract_append_high _ _
  simp only [rawMaj26, h0, h1, h2, h3, h4]
  try rfl
theorem vfmaxp (d : Reg) (a : Reg) (b : Reg) (m : Vm) : Statement (.vfmaxp d a b m) := by
  intro hw
  refine decode_pack (by decide) rfl ?_ hw
  change rawMaj26 (m.pred ++ m.hb ++ m.ha) (m.w ++ 8#4) b a d = _
  have h0 : BitVec.extractLsb' 0 1 (m.pred ++ m.hb ++ m.ha : BitVec 4) = m.ha := extract_append_low _ _
  have h1 : BitVec.extractLsb' 1 1 (m.pred ++ m.hb ++ m.ha : BitVec 4) = m.hb := (extract_append_in_high _ _ (by decide)).trans (extract_append_low _ _)
  have h2 : BitVec.extractLsb' 2 2 (m.pred ++ m.hb ++ m.ha : BitVec 4) = m.pred := (extract_append_in_high _ _ (by decide)).trans (extract_append_high _ _)
  have h3 : BitVec.extractLsb' 0 4 (m.w ++ 8#4 : BitVec 6) = 8#4 := extract_append_low _ _
  have h4 : BitVec.extractLsb' 4 2 (m.w ++ 8#4 : BitVec 6) = m.w := extract_append_high _ _
  simp only [rawMaj26, h0, h1, h2, h3, h4]
  try rfl
theorem vfabs (d : Reg) (a : Reg) (m : Vm) : Statement (.vfabs d a m) := by
  intro hw
  obtain ⟨w, p, hb, ha⟩ := m
  obtain rfl : hb = 0#1 := by
    simp [wellFormed, noHoldB] at hw
    simp [hw]
  refine decode_pack (by decide) rfl ?_ hw
  change rawMaj26 (p ++ 0#1 ++ ha) (w ++ 9#4) 0#5 a d = _
  have h0 : BitVec.extractLsb' 0 1 (p ++ 0#1 ++ ha : BitVec 4) = ha := extract_append_low _ _
  have h1 : BitVec.extractLsb' 1 1 (p ++ 0#1 ++ ha : BitVec 4) = 0#1 := (extract_append_in_high _ _ (by decide)).trans (extract_append_low _ _)
  have h2 : BitVec.extractLsb' 2 2 (p ++ 0#1 ++ ha : BitVec 4) = p := (extract_append_in_high _ _ (by decide)).trans (extract_append_high _ _)
  have h3 : BitVec.extractLsb' 0 4 (w ++ 9#4 : BitVec 6) = 9#4 := extract_append_low _ _
  have h4 : BitVec.extractLsb' 4 2 (w ++ 9#4 : BitVec 6) = w := extract_append_high _ _
  simp only [rawMaj26, h0, h1, h2, h3, h4]
  try rfl
theorem vfneg (d : Reg) (a : Reg) (m : Vm) : Statement (.vfneg d a m) := by
  intro hw
  obtain ⟨w, p, hb, ha⟩ := m
  obtain rfl : hb = 0#1 := by
    simp [wellFormed, noHoldB] at hw
    simp [hw]
  refine decode_pack (by decide) rfl ?_ hw
  change rawMaj26 (p ++ 0#1 ++ ha) (w ++ 10#4) 0#5 a d = _
  have h0 : BitVec.extractLsb' 0 1 (p ++ 0#1 ++ ha : BitVec 4) = ha := extract_append_low _ _
  have h1 : BitVec.extractLsb' 1 1 (p ++ 0#1 ++ ha : BitVec 4) = 0#1 := (extract_append_in_high _ _ (by decide)).trans (extract_append_low _ _)
  have h2 : BitVec.extractLsb' 2 2 (p ++ 0#1 ++ ha : BitVec 4) = p := (extract_append_in_high _ _ (by decide)).trans (extract_append_high _ _)
  have h3 : BitVec.extractLsb' 0 4 (w ++ 10#4 : BitVec 6) = 10#4 := extract_append_low _ _
  have h4 : BitVec.extractLsb' 4 2 (w ++ 10#4 : BitVec 6) = w := extract_append_high _ _
  simp only [rawMaj26, h0, h1, h2, h3, h4]
  try rfl
theorem vfcmpEq (d : Reg) (a : Reg) (b : Reg) (m : Vm) : Statement (.vfcmpEq d a b m) := by
  intro hw
  refine decode_pack (by decide) rfl ?_ hw
  change rawMaj26 (m.pred ++ m.hb ++ m.ha) (m.w ++ 11#4) b a d = _
  have h0 : BitVec.extractLsb' 0 1 (m.pred ++ m.hb ++ m.ha : BitVec 4) = m.ha := extract_append_low _ _
  have h1 : BitVec.extractLsb' 1 1 (m.pred ++ m.hb ++ m.ha : BitVec 4) = m.hb := (extract_append_in_high _ _ (by decide)).trans (extract_append_low _ _)
  have h2 : BitVec.extractLsb' 2 2 (m.pred ++ m.hb ++ m.ha : BitVec 4) = m.pred := (extract_append_in_high _ _ (by decide)).trans (extract_append_high _ _)
  have h3 : BitVec.extractLsb' 0 4 (m.w ++ 11#4 : BitVec 6) = 11#4 := extract_append_low _ _
  have h4 : BitVec.extractLsb' 4 2 (m.w ++ 11#4 : BitVec 6) = m.w := extract_append_high _ _
  simp only [rawMaj26, h0, h1, h2, h3, h4]
  try rfl
theorem vfcmpLt (d : Reg) (a : Reg) (b : Reg) (m : Vm) : Statement (.vfcmpLt d a b m) := by
  intro hw
  refine decode_pack (by decide) rfl ?_ hw
  change rawMaj26 (m.pred ++ m.hb ++ m.ha) (m.w ++ 12#4) b a d = _
  have h0 : BitVec.extractLsb' 0 1 (m.pred ++ m.hb ++ m.ha : BitVec 4) = m.ha := extract_append_low _ _
  have h1 : BitVec.extractLsb' 1 1 (m.pred ++ m.hb ++ m.ha : BitVec 4) = m.hb := (extract_append_in_high _ _ (by decide)).trans (extract_append_low _ _)
  have h2 : BitVec.extractLsb' 2 2 (m.pred ++ m.hb ++ m.ha : BitVec 4) = m.pred := (extract_append_in_high _ _ (by decide)).trans (extract_append_high _ _)
  have h3 : BitVec.extractLsb' 0 4 (m.w ++ 12#4 : BitVec 6) = 12#4 := extract_append_low _ _
  have h4 : BitVec.extractLsb' 4 2 (m.w ++ 12#4 : BitVec 6) = m.w := extract_append_high _ _
  simp only [rawMaj26, h0, h1, h2, h3, h4]
  try rfl
theorem vfcmpLe (d : Reg) (a : Reg) (b : Reg) (m : Vm) : Statement (.vfcmpLe d a b m) := by
  intro hw
  refine decode_pack (by decide) rfl ?_ hw
  change rawMaj26 (m.pred ++ m.hb ++ m.ha) (m.w ++ 13#4) b a d = _
  have h0 : BitVec.extractLsb' 0 1 (m.pred ++ m.hb ++ m.ha : BitVec 4) = m.ha := extract_append_low _ _
  have h1 : BitVec.extractLsb' 1 1 (m.pred ++ m.hb ++ m.ha : BitVec 4) = m.hb := (extract_append_in_high _ _ (by decide)).trans (extract_append_low _ _)
  have h2 : BitVec.extractLsb' 2 2 (m.pred ++ m.hb ++ m.ha : BitVec 4) = m.pred := (extract_append_in_high _ _ (by decide)).trans (extract_append_high _ _)
  have h3 : BitVec.extractLsb' 0 4 (m.w ++ 13#4 : BitVec 6) = 13#4 := extract_append_low _ _
  have h4 : BitVec.extractLsb' 4 2 (m.w ++ 13#4 : BitVec 6) = m.w := extract_append_high _ _
  simp only [rawMaj26, h0, h1, h2, h3, h4]
  try rfl
theorem vfcmpUn (d : Reg) (a : Reg) (b : Reg) (m : Vm) : Statement (.vfcmpUn d a b m) := by
  intro hw
  refine decode_pack (by decide) rfl ?_ hw
  change rawMaj26 (m.pred ++ m.hb ++ m.ha) (m.w ++ 14#4) b a d = _
  have h0 : BitVec.extractLsb' 0 1 (m.pred ++ m.hb ++ m.ha : BitVec 4) = m.ha := extract_append_low _ _
  have h1 : BitVec.extractLsb' 1 1 (m.pred ++ m.hb ++ m.ha : BitVec 4) = m.hb := (extract_append_in_high _ _ (by decide)).trans (extract_append_low _ _)
  have h2 : BitVec.extractLsb' 2 2 (m.pred ++ m.hb ++ m.ha : BitVec 4) = m.pred := (extract_append_in_high _ _ (by decide)).trans (extract_append_high _ _)
  have h3 : BitVec.extractLsb' 0 4 (m.w ++ 14#4 : BitVec 6) = 14#4 := extract_append_low _ _
  have h4 : BitVec.extractLsb' 4 2 (m.w ++ 14#4 : BitVec 6) = m.w := extract_append_high _ _
  simp only [rawMaj26, h0, h1, h2, h3, h4]
  try rfl
theorem vfclass (d : Reg) (a : Reg) (m : Vm) : Statement (.vfclass d a m) := by
  intro hw
  obtain ⟨w, p, hb, ha⟩ := m
  obtain rfl : hb = 0#1 := by
    simp [wellFormed, noHoldB] at hw
    simp [hw]
  refine decode_pack (by decide) rfl ?_ hw
  change rawMaj26 (p ++ 0#1 ++ ha) (w ++ 15#4) 0#5 a d = _
  have h0 : BitVec.extractLsb' 0 1 (p ++ 0#1 ++ ha : BitVec 4) = ha := extract_append_low _ _
  have h1 : BitVec.extractLsb' 1 1 (p ++ 0#1 ++ ha : BitVec 4) = 0#1 := (extract_append_in_high _ _ (by decide)).trans (extract_append_low _ _)
  have h2 : BitVec.extractLsb' 2 2 (p ++ 0#1 ++ ha : BitVec 4) = p := (extract_append_in_high _ _ (by decide)).trans (extract_append_high _ _)
  have h3 : BitVec.extractLsb' 0 4 (w ++ 15#4 : BitVec 6) = 15#4 := extract_append_low _ _
  have h4 : BitVec.extractLsb' 4 2 (w ++ 15#4 : BitVec 6) = w := extract_append_high _ _
  simp only [rawMaj26, h0, h1, h2, h3, h4]
  try rfl
theorem vfredsum (d : Reg) (a : Reg) (m : Vm) : Statement (.vfredsum d a m) := by
  intro hw
  obtain ⟨w, p, hb, ha⟩ := m
  obtain rfl : hb = 0#1 := by
    simp [wellFormed, noHoldB] at hw
    simp [hw]
  refine decode_pack (by decide) rfl ?_ hw
  change rawMaj27 (p ++ 0#1 ++ ha) (w ++ 0#4) 0#5 a d = _
  have h0 : BitVec.extractLsb' 0 1 (p ++ 0#1 ++ ha : BitVec 4) = ha := extract_append_low _ _
  have h1 : BitVec.extractLsb' 2 2 (p ++ 0#1 ++ ha : BitVec 4) = p := (extract_append_in_high _ _ (by decide)).trans (extract_append_high _ _)
  have h2 : BitVec.extractLsb' 0 4 (w ++ 0#4 : BitVec 6) = 0#4 := extract_append_low _ _
  have h3 : BitVec.extractLsb' 4 2 (w ++ 0#4 : BitVec 6) = w := extract_append_high _ _
  simp only [rawMaj27, h0, h1, h2, h3]
  try rfl
theorem vfredmax (d : Reg) (a : Reg) (m : Vm) : Statement (.vfredmax d a m) := by
  intro hw
  obtain ⟨w, p, hb, ha⟩ := m
  obtain rfl : hb = 0#1 := by
    simp [wellFormed, noHoldB] at hw
    simp [hw]
  refine decode_pack (by decide) rfl ?_ hw
  change rawMaj27 (p ++ 0#1 ++ ha) (w ++ 1#4) 0#5 a d = _
  have h0 : BitVec.extractLsb' 0 1 (p ++ 0#1 ++ ha : BitVec 4) = ha := extract_append_low _ _
  have h1 : BitVec.extractLsb' 2 2 (p ++ 0#1 ++ ha : BitVec 4) = p := (extract_append_in_high _ _ (by decide)).trans (extract_append_high _ _)
  have h2 : BitVec.extractLsb' 0 4 (w ++ 1#4 : BitVec 6) = 1#4 := extract_append_low _ _
  have h3 : BitVec.extractLsb' 4 2 (w ++ 1#4 : BitVec 6) = w := extract_append_high _ _
  simp only [rawMaj27, h0, h1, h2, h3]
  try rfl
theorem vfredmin (d : Reg) (a : Reg) (m : Vm) : Statement (.vfredmin d a m) := by
  intro hw
  obtain ⟨w, p, hb, ha⟩ := m
  obtain rfl : hb = 0#1 := by
    simp [wellFormed, noHoldB] at hw
    simp [hw]
  refine decode_pack (by decide) rfl ?_ hw
  change rawMaj27 (p ++ 0#1 ++ ha) (w ++ 2#4) 0#5 a d = _
  have h0 : BitVec.extractLsb' 0 1 (p ++ 0#1 ++ ha : BitVec 4) = ha := extract_append_low _ _
  have h1 : BitVec.extractLsb' 2 2 (p ++ 0#1 ++ ha : BitVec 4) = p := (extract_append_in_high _ _ (by decide)).trans (extract_append_high _ _)
  have h2 : BitVec.extractLsb' 0 4 (w ++ 2#4 : BitVec 6) = 2#4 := extract_append_low _ _
  have h3 : BitVec.extractLsb' 4 2 (w ++ 2#4 : BitVec 6) = w := extract_append_high _ _
  simp only [rawMaj27, h0, h1, h2, h3]
  try rfl
theorem vfdiv (d : Reg) (a : Reg) (b : Reg) (w : BitVec 2) (l : BitVec 4) : Statement (.vfdiv d a b w l) := by
  intro hw
  refine decode_pack (by decide) rfl ?_ hw
  change rawMaj2A l (w ++ 0#4) b a d = _
  have h0 : BitVec.extractLsb' 0 4 (w ++ 0#4 : BitVec 6) = 0#4 := extract_append_low _ _
  have h1 : BitVec.extractLsb' 4 2 (w ++ 0#4 : BitVec 6) = w := extract_append_high _ _
  simp only [rawMaj2A, h0, h1]
  try rfl
theorem vfsqrt (d : Reg) (a : Reg) (w : BitVec 2) (l : BitVec 4) : Statement (.vfsqrt d a w l) := by
  intro hw
  refine decode_pack (by decide) rfl ?_ hw
  change rawMaj2A l (w ++ 1#4) 0#5 a d = _
  have h0 : BitVec.extractLsb' 0 4 (w ++ 1#4 : BitVec 6) = 1#4 := extract_append_low _ _
  have h1 : BitVec.extractLsb' 4 2 (w ++ 1#4 : BitVec 6) = w := extract_append_high _ _
  simp only [rawMaj2A, h0, h1]
  try rfl
theorem vfrcpa (d : Reg) (a : Reg) (w : BitVec 2) (l : BitVec 4) : Statement (.vfrcpa d a w l) := by
  intro hw
  refine decode_pack (by decide) rfl ?_ hw
  change rawMaj2A l (w ++ 2#4) 0#5 a d = _
  have h0 : BitVec.extractLsb' 0 4 (w ++ 2#4 : BitVec 6) = 2#4 := extract_append_low _ _
  have h1 : BitVec.extractLsb' 4 2 (w ++ 2#4 : BitVec 6) = w := extract_append_high _ _
  simp only [rawMaj2A, h0, h1]
  try rfl
theorem vfrsqa (d : Reg) (a : Reg) (w : BitVec 2) (l : BitVec 4) : Statement (.vfrsqa d a w l) := by
  intro hw
  refine decode_pack (by decide) rfl ?_ hw
  change rawMaj2A l (w ++ 3#4) 0#5 a d = _
  have h0 : BitVec.extractLsb' 0 4 (w ++ 3#4 : BitVec 6) = 3#4 := extract_append_low _ _
  have h1 : BitVec.extractLsb' 4 2 (w ++ 3#4 : BitVec 6) = w := extract_append_high _ _
  simp only [rawMaj2A, h0, h1]
  try rfl
theorem vexp2a (d : Reg) (a : Reg) (w : BitVec 2) (l : BitVec 4) : Statement (.vexp2a d a w l) := by
  intro hw
  refine decode_pack (by decide) rfl ?_ hw
  change rawMaj2A l (w ++ 4#4) 0#5 a d = _
  have h0 : BitVec.extractLsb' 0 4 (w ++ 4#4 : BitVec 6) = 4#4 := extract_append_low _ _
  have h1 : BitVec.extractLsb' 4 2 (w ++ 4#4 : BitVec 6) = w := extract_append_high _ _
  simp only [rawMaj2A, h0, h1]
  try rfl
theorem vlog2a (d : Reg) (a : Reg) (w : BitVec 2) (l : BitVec 4) : Statement (.vlog2a d a w l) := by
  intro hw
  refine decode_pack (by decide) rfl ?_ hw
  change rawMaj2A l (w ++ 5#4) 0#5 a d = _
  have h0 : BitVec.extractLsb' 0 4 (w ++ 5#4 : BitVec 6) = 5#4 := extract_append_low _ _
  have h1 : BitVec.extractLsb' 4 2 (w ++ 5#4 : BitVec 6) = w := extract_append_high _ _
  simp only [rawMaj2A, h0, h1]
  try rfl
theorem vgauss (d : Reg) (a : Reg) (b : Reg) (l : BitVec 4) : Statement (.vgauss d a b l) :=
  fun hw => decode_pack (by decide) rfl rfl hw
theorem vsel (d : Reg) (a : Reg) (b : Reg) (m : Vm) : Statement (.vsel d a b m) := by
  intro hw
  refine decode_pack (by decide) rfl ?_ hw
  change rawMaj28 (m.pred ++ m.hb ++ m.ha) (m.w ++ 0#4) b a d = _
  have h0 : BitVec.extractLsb' 0 1 (m.pred ++ m.hb ++ m.ha : BitVec 4) = m.ha := extract_append_low _ _
  have h1 : BitVec.extractLsb' 1 1 (m.pred ++ m.hb ++ m.ha : BitVec 4) = m.hb := (extract_append_in_high _ _ (by decide)).trans (extract_append_low _ _)
  have h2 : BitVec.extractLsb' 2 2 (m.pred ++ m.hb ++ m.ha : BitVec 4) = m.pred := (extract_append_in_high _ _ (by decide)).trans (extract_append_high _ _)
  have h3 : BitVec.extractLsb' 0 4 (m.w ++ 0#4 : BitVec 6) = 0#4 := extract_append_low _ _
  have h4 : BitVec.extractLsb' 4 2 (m.w ++ 0#4 : BitVec 6) = m.w := extract_append_high _ _
  simp only [rawMaj28, h0, h1, h2, h3, h4]
  try rfl
theorem vperm (d : Reg) (a : Reg) (b : Reg) (m : Vm) : Statement (.vperm d a b m) := by
  intro hw
  refine decode_pack (by decide) rfl ?_ hw
  change rawMaj28 (m.pred ++ m.hb ++ m.ha) (m.w ++ 1#4) b a d = _
  have h0 : BitVec.extractLsb' 0 1 (m.pred ++ m.hb ++ m.ha : BitVec 4) = m.ha := extract_append_low _ _
  have h1 : BitVec.extractLsb' 1 1 (m.pred ++ m.hb ++ m.ha : BitVec 4) = m.hb := (extract_append_in_high _ _ (by decide)).trans (extract_append_low _ _)
  have h2 : BitVec.extractLsb' 2 2 (m.pred ++ m.hb ++ m.ha : BitVec 4) = m.pred := (extract_append_in_high _ _ (by decide)).trans (extract_append_high _ _)
  have h3 : BitVec.extractLsb' 0 4 (m.w ++ 1#4 : BitVec 6) = 1#4 := extract_append_low _ _
  have h4 : BitVec.extractLsb' 4 2 (m.w ++ 1#4 : BitVec 6) = m.w := extract_append_high _ _
  simp only [rawMaj28, h0, h1, h2, h3, h4]
  try rfl
theorem vbcast (d : Reg) (a : Reg) (m : Vm) : Statement (.vbcast d a m) := by
  intro hw
  obtain ⟨w, p, hb, ha⟩ := m
  obtain ⟨rfl, rfl⟩ : hb = 0#1 ∧ ha = 0#1 := by
    simp [wellFormed, noHold] at hw
    simp [hw]
  refine decode_pack (by decide) rfl ?_ hw
  change rawMaj28 (p ++ 0#2) (w ++ 2#4) 0#5 a d = _
  have h0 : BitVec.extractLsb' 0 1 (p ++ 0#2 : BitVec 4) = 0#1 := (extract_append_in_low _ _ (by decide)).trans (by decide)
  have h1 : BitVec.extractLsb' 1 1 (p ++ 0#2 : BitVec 4) = 0#1 := (extract_append_in_low _ _ (by decide)).trans (by decide)
  have h2 : BitVec.extractLsb' 2 2 (p ++ 0#2 : BitVec 4) = p := extract_append_high _ _
  have h3 : BitVec.extractLsb' 0 4 (w ++ 2#4 : BitVec 6) = 2#4 := extract_append_low _ _
  have h4 : BitVec.extractLsb' 4 2 (w ++ 2#4 : BitVec 6) = w := extract_append_high _ _
  simp only [rawMaj28, h0, h1, h2, h3, h4]
  try rfl
theorem vbcastL (d : Reg) (a : Reg) (k : BitVec 5) (m : Vm) : Statement (.vbcastL d a k m) := by
  intro hw
  obtain ⟨w, p, hb, ha⟩ := m
  obtain rfl : hb = 0#1 := by
    simp [wellFormed, noHoldB] at hw
    simp [hw]
  refine decode_pack (by decide) rfl ?_ hw
  change rawMaj28 (p ++ 0#1 ++ ha) (w ++ 3#4) k a d = _
  have h0 : BitVec.extractLsb' 0 1 (p ++ 0#1 ++ ha : BitVec 4) = ha := extract_append_low _ _
  have h1 : BitVec.extractLsb' 1 1 (p ++ 0#1 ++ ha : BitVec 4) = 0#1 := (extract_append_in_high _ _ (by decide)).trans (extract_append_low _ _)
  have h2 : BitVec.extractLsb' 2 2 (p ++ 0#1 ++ ha : BitVec 4) = p := (extract_append_in_high _ _ (by decide)).trans (extract_append_high _ _)
  have h3 : BitVec.extractLsb' 0 4 (w ++ 3#4 : BitVec 6) = 3#4 := extract_append_low _ _
  have h4 : BitVec.extractLsb' 4 2 (w ++ 3#4 : BitVec 6) = w := extract_append_high _ _
  simp only [rawMaj28, h0, h1, h2, h3, h4]
  try rfl
theorem vslideUp (d : Reg) (a : Reg) (b : Reg) (m : Vm) : Statement (.vslideUp d a b m) := by
  intro hw
  obtain ⟨w, p, hb, ha⟩ := m
  obtain rfl : hb = 0#1 := by
    simp [wellFormed, noHoldB] at hw
    simp [hw]
  refine decode_pack (by decide) rfl ?_ hw
  change rawMaj28 (p ++ 0#1 ++ ha) (w ++ 4#4) b a d = _
  have h0 : BitVec.extractLsb' 0 1 (p ++ 0#1 ++ ha : BitVec 4) = ha := extract_append_low _ _
  have h1 : BitVec.extractLsb' 1 1 (p ++ 0#1 ++ ha : BitVec 4) = 0#1 := (extract_append_in_high _ _ (by decide)).trans (extract_append_low _ _)
  have h2 : BitVec.extractLsb' 2 2 (p ++ 0#1 ++ ha : BitVec 4) = p := (extract_append_in_high _ _ (by decide)).trans (extract_append_high _ _)
  have h3 : BitVec.extractLsb' 0 4 (w ++ 4#4 : BitVec 6) = 4#4 := extract_append_low _ _
  have h4 : BitVec.extractLsb' 4 2 (w ++ 4#4 : BitVec 6) = w := extract_append_high _ _
  simp only [rawMaj28, h0, h1, h2, h3, h4]
  try rfl
theorem vslideDn (d : Reg) (a : Reg) (b : Reg) (m : Vm) : Statement (.vslideDn d a b m) := by
  intro hw
  obtain ⟨w, p, hb, ha⟩ := m
  obtain rfl : hb = 0#1 := by
    simp [wellFormed, noHoldB] at hw
    simp [hw]
  refine decode_pack (by decide) rfl ?_ hw
  change rawMaj28 (p ++ 0#1 ++ ha) (w ++ 5#4) b a d = _
  have h0 : BitVec.extractLsb' 0 1 (p ++ 0#1 ++ ha : BitVec 4) = ha := extract_append_low _ _
  have h1 : BitVec.extractLsb' 1 1 (p ++ 0#1 ++ ha : BitVec 4) = 0#1 := (extract_append_in_high _ _ (by decide)).trans (extract_append_low _ _)
  have h2 : BitVec.extractLsb' 2 2 (p ++ 0#1 ++ ha : BitVec 4) = p := (extract_append_in_high _ _ (by decide)).trans (extract_append_high _ _)
  have h3 : BitVec.extractLsb' 0 4 (w ++ 5#4 : BitVec 6) = 5#4 := extract_append_low _ _
  have h4 : BitVec.extractLsb' 4 2 (w ++ 5#4 : BitVec 6) = w := extract_append_high _ _
  simp only [rawMaj28, h0, h1, h2, h3, h4]
  try rfl
theorem vext (d : Reg) (a : Reg) (b : Reg) (m : Vm) : Statement (.vext d a b m) := by
  intro hw
  obtain ⟨w, p, hb, ha⟩ := m
  obtain ⟨rfl, rfl⟩ : p = 0#2 ∧ hb = 0#1 := by
    simp [wellFormed, noHoldB] at hw
    simp [hw]
  refine decode_pack (by decide) rfl ?_ hw
  change rawMaj28 (0#3 ++ ha) (w ++ 6#4) b a d = _
  have h0 : BitVec.extractLsb' 0 1 (0#3 ++ ha : BitVec 4) = ha := extract_append_low _ _
  have h1 : BitVec.extractLsb' 1 1 (0#3 ++ ha : BitVec 4) = 0#1 := (extract_append_in_high _ _ (by decide)).trans (by decide)
  have h2 : BitVec.extractLsb' 2 2 (0#3 ++ ha : BitVec 4) = 0#2 := (extract_append_in_high _ _ (by decide)).trans (by decide)
  have h3 : BitVec.extractLsb' 0 4 (w ++ 6#4 : BitVec 6) = 6#4 := extract_append_low _ _
  have h4 : BitVec.extractLsb' 4 2 (w ++ 6#4 : BitVec 6) = w := extract_append_high _ _
  simp only [rawMaj28, h0, h1, h2, h3, h4]
  try rfl
theorem vins (d : Reg) (a : Reg) (b : Reg) (m : Vm) : Statement (.vins d a b m) := by
  intro hw
  obtain ⟨w, p, hb, ha⟩ := m
  obtain ⟨rfl, rfl⟩ : hb = 0#1 ∧ ha = 0#1 := by
    simp [wellFormed, noHold] at hw
    simp [hw]
  refine decode_pack (by decide) rfl ?_ hw
  change rawMaj28 (p ++ 0#2) (w ++ 7#4) b a d = _
  have h0 : BitVec.extractLsb' 0 1 (p ++ 0#2 : BitVec 4) = 0#1 := (extract_append_in_low _ _ (by decide)).trans (by decide)
  have h1 : BitVec.extractLsb' 1 1 (p ++ 0#2 : BitVec 4) = 0#1 := (extract_append_in_low _ _ (by decide)).trans (by decide)
  have h2 : BitVec.extractLsb' 2 2 (p ++ 0#2 : BitVec 4) = p := extract_append_high _ _
  have h3 : BitVec.extractLsb' 0 4 (w ++ 7#4 : BitVec 6) = 7#4 := extract_append_low _ _
  have h4 : BitVec.extractLsb' 4 2 (w ++ 7#4 : BitVec 6) = w := extract_append_high _ _
  simp only [rawMaj28, h0, h1, h2, h3, h4]
  try rfl
theorem vcvtFN (d : Reg) (a : Reg) (f : BitVec 4) (q : BitVec 2) (m : Vm) : Statement (.vcvtFN d a f q m) := by
  intro hw
  obtain ⟨w, p, hb, ha⟩ := m
  obtain ⟨rfl, rfl⟩ : w = 0#2 ∧ hb = 0#1 := by
    simp [wellFormed, okCvtF, noHoldB] at hw
    simp [hw]
  refine decode_pack (by decide) rfl ?_ hw
  change rawMaj29 (p ++ 0#1 ++ ha) (0#4 ++ q) (0#1 ++ f) a d = _
  have h0 : BitVec.extractLsb' 0 1 (p ++ 0#1 ++ ha : BitVec 4) = ha := extract_append_low _ _
  have h1 : BitVec.extractLsb' 2 2 (p ++ 0#1 ++ ha : BitVec 4) = p := (extract_append_in_high _ _ (by decide)).trans (extract_append_high _ _)
  have h2 : BitVec.extractLsb' 0 2 (0#4 ++ q : BitVec 6) = q := extract_append_low _ _
  have h3 : BitVec.extractLsb' 2 2 (0#4 ++ q : BitVec 6) = 0#2 := (extract_append_in_high _ _ (by decide)).trans (by decide)
  have h4 : BitVec.extractLsb' 4 2 (0#4 ++ q : BitVec 6) = 0#2 := (extract_append_in_high _ _ (by decide)).trans (by decide)
  have h5 : BitVec.extractLsb' 0 4 (0#1 ++ f : BitVec 5) = f := extract_append_low _ _
  have h6 : BitVec.extractLsb' 4 1 (0#1 ++ f : BitVec 5) = 0#1 := extract_append_high _ _
  simp only [rawMaj29, h0, h1, h2, h3, h4, h5, h6]
  try rfl
theorem vcvtFW (d : Reg) (a : Reg) (f : BitVec 4) (q : BitVec 2) (m : Vm) : Statement (.vcvtFW d a f q m) := by
  intro hw
  obtain ⟨w, p, hb, ha⟩ := m
  obtain ⟨rfl, rfl⟩ : w = 0#2 ∧ hb = 0#1 := by
    simp [wellFormed, okCvtF, noHoldB] at hw
    simp [hw]
  refine decode_pack (by decide) rfl ?_ hw
  change rawMaj29 (p ++ 0#1 ++ ha) (0#4 ++ q) (1#1 ++ f) a d = _
  have h0 : BitVec.extractLsb' 0 1 (p ++ 0#1 ++ ha : BitVec 4) = ha := extract_append_low _ _
  have h1 : BitVec.extractLsb' 2 2 (p ++ 0#1 ++ ha : BitVec 4) = p := (extract_append_in_high _ _ (by decide)).trans (extract_append_high _ _)
  have h2 : BitVec.extractLsb' 0 2 (0#4 ++ q : BitVec 6) = q := extract_append_low _ _
  have h3 : BitVec.extractLsb' 2 2 (0#4 ++ q : BitVec 6) = 0#2 := (extract_append_in_high _ _ (by decide)).trans (by decide)
  have h4 : BitVec.extractLsb' 4 2 (0#4 ++ q : BitVec 6) = 0#2 := (extract_append_in_high _ _ (by decide)).trans (by decide)
  have h5 : BitVec.extractLsb' 0 4 (1#1 ++ f : BitVec 5) = f := extract_append_low _ _
  have h6 : BitVec.extractLsb' 4 1 (1#1 ++ f : BitVec 5) = 1#1 := extract_append_high _ _
  simp only [rawMaj29, h0, h1, h2, h3, h4, h5, h6]
  try rfl
theorem vcvtIN (d : Reg) (a : Reg) (i : BitVec 3) (q : BitVec 2) (m : Vm) : Statement (.vcvtIN d a i q m) := by
  intro hw
  obtain ⟨w, p, hb, ha⟩ := m
  obtain ⟨rfl, rfl⟩ : w = 0#2 ∧ hb = 0#1 := by
    simp [wellFormed, okCvtI, noHoldB] at hw
    simp [hw]
  refine decode_pack (by decide) rfl ?_ hw
  change rawMaj29 (p ++ 0#1 ++ ha) (1#4 ++ q) (0#2 ++ i) a d = _
  have h0 : BitVec.extractLsb' 0 1 (p ++ 0#1 ++ ha : BitVec 4) = ha := extract_append_low _ _
  have h1 : BitVec.extractLsb' 2 2 (p ++ 0#1 ++ ha : BitVec 4) = p := (extract_append_in_high _ _ (by decide)).trans (extract_append_high _ _)
  have h2 : BitVec.extractLsb' 0 2 (1#4 ++ q : BitVec 6) = q := extract_append_low _ _
  have h3 : BitVec.extractLsb' 2 2 (1#4 ++ q : BitVec 6) = 1#2 := (extract_append_in_high _ _ (by decide)).trans (by decide)
  have h4 : BitVec.extractLsb' 4 2 (1#4 ++ q : BitVec 6) = 0#2 := (extract_append_in_high _ _ (by decide)).trans (by decide)
  have h5 : BitVec.extractLsb' 0 3 (0#2 ++ i : BitVec 5) = i := extract_append_low _ _
  have h6 : BitVec.extractLsb' 3 2 (0#2 ++ i : BitVec 5) = 0#2 := extract_append_high _ _
  have h7 : BitVec.extractLsb' 4 1 (0#2 ++ i : BitVec 5) = 0#1 := (extract_append_in_high _ _ (by decide)).trans (by decide)
  simp only [rawMaj29, h0, h1, h2, h3, h4, h5, h6, h7]
  try rfl
theorem vcvtIW (d : Reg) (a : Reg) (i : BitVec 3) (q : BitVec 2) (m : Vm) : Statement (.vcvtIW d a i q m) := by
  intro hw
  obtain ⟨w, p, hb, ha⟩ := m
  obtain ⟨rfl, rfl⟩ : w = 0#2 ∧ hb = 0#1 := by
    simp [wellFormed, okCvtI, noHoldB] at hw
    simp [hw]
  refine decode_pack (by decide) rfl ?_ hw
  change rawMaj29 (p ++ 0#1 ++ ha) (1#4 ++ q) (1#2 ++ i) a d = _
  have h0 : BitVec.extractLsb' 0 1 (p ++ 0#1 ++ ha : BitVec 4) = ha := extract_append_low _ _
  have h1 : BitVec.extractLsb' 2 2 (p ++ 0#1 ++ ha : BitVec 4) = p := (extract_append_in_high _ _ (by decide)).trans (extract_append_high _ _)
  have h2 : BitVec.extractLsb' 0 2 (1#4 ++ q : BitVec 6) = q := extract_append_low _ _
  have h3 : BitVec.extractLsb' 2 2 (1#4 ++ q : BitVec 6) = 1#2 := (extract_append_in_high _ _ (by decide)).trans (by decide)
  have h4 : BitVec.extractLsb' 4 2 (1#4 ++ q : BitVec 6) = 0#2 := (extract_append_in_high _ _ (by decide)).trans (by decide)
  have h5 : BitVec.extractLsb' 0 3 (1#2 ++ i : BitVec 5) = i := extract_append_low _ _
  have h6 : BitVec.extractLsb' 3 2 (1#2 ++ i : BitVec 5) = 1#2 := extract_append_high _ _
  have h7 : BitVec.extractLsb' 4 1 (1#2 ++ i : BitVec 5) = 0#1 := (extract_append_in_high _ _ (by decide)).trans (by decide)
  simp only [rawMaj29, h0, h1, h2, h3, h4, h5, h6, h7]
  try rfl
theorem vcvtX (d : Reg) (a : Reg) (t : BitVec 2) (q : BitVec 2) (m : Vm) : Statement (.vcvtX d a t q m) := by
  intro hw
  obtain ⟨w, p, hb, ha⟩ := m
  obtain rfl : hb = 0#1 := by
    simp [wellFormed, okCvtX, noHoldB] at hw
    simp [hw]
  refine decode_pack (by decide) rfl ?_ hw
  change rawMaj29 (p ++ 0#1 ++ ha) (w ++ 1#2 ++ q) (4#3 ++ t) a d = _
  have h0 : BitVec.extractLsb' 0 1 (p ++ 0#1 ++ ha : BitVec 4) = ha := extract_append_low _ _
  have h1 : BitVec.extractLsb' 2 2 (p ++ 0#1 ++ ha : BitVec 4) = p := (extract_append_in_high _ _ (by decide)).trans (extract_append_high _ _)
  have h2 : BitVec.extractLsb' 0 2 (w ++ 1#2 ++ q : BitVec 6) = q := extract_append_low _ _
  have h3 : BitVec.extractLsb' 2 2 (w ++ 1#2 ++ q : BitVec 6) = 1#2 := (extract_append_in_high _ _ (by decide)).trans (extract_append_low _ _)
  have h4 : BitVec.extractLsb' 4 2 (w ++ 1#2 ++ q : BitVec 6) = w := (extract_append_in_high _ _ (by decide)).trans (extract_append_high _ _)
  have h5 : BitVec.extractLsb' 0 2 (4#3 ++ t : BitVec 5) = t := extract_append_low _ _
  have h6 : BitVec.extractLsb' 3 2 (4#3 ++ t : BitVec 5) = 2#2 := (extract_append_in_high _ _ (by decide)).trans (by decide)
  have h7 : BitVec.extractLsb' 4 1 (4#3 ++ t : BitVec 5) = 1#1 := (extract_append_in_high _ _ (by decide)).trans (by decide)
  simp only [rawMaj29, h0, h1, h2, h3, h4, h5, h6, h7]
  try rfl
theorem vcvtXu (d : Reg) (a : Reg) (t : BitVec 2) (q : BitVec 2) (m : Vm) : Statement (.vcvtXu d a t q m) := by
  intro hw
  obtain ⟨w, p, hb, ha⟩ := m
  obtain rfl : hb = 0#1 := by
    simp [wellFormed, okCvtX, noHoldB] at hw
    simp [hw]
  refine decode_pack (by decide) rfl ?_ hw
  change rawMaj29 (p ++ 0#1 ++ ha) (w ++ 1#2 ++ q) (6#3 ++ t) a d = _
  have h0 : BitVec.extractLsb' 0 1 (p ++ 0#1 ++ ha : BitVec 4) = ha := extract_append_low _ _
  have h1 : BitVec.extractLsb' 2 2 (p ++ 0#1 ++ ha : BitVec 4) = p := (extract_append_in_high _ _ (by decide)).trans (extract_append_high _ _)
  have h2 : BitVec.extractLsb' 0 2 (w ++ 1#2 ++ q : BitVec 6) = q := extract_append_low _ _
  have h3 : BitVec.extractLsb' 2 2 (w ++ 1#2 ++ q : BitVec 6) = 1#2 := (extract_append_in_high _ _ (by decide)).trans (extract_append_low _ _)
  have h4 : BitVec.extractLsb' 4 2 (w ++ 1#2 ++ q : BitVec 6) = w := (extract_append_in_high _ _ (by decide)).trans (extract_append_high _ _)
  have h5 : BitVec.extractLsb' 0 2 (6#3 ++ t : BitVec 5) = t := extract_append_low _ _
  have h6 : BitVec.extractLsb' 3 2 (6#3 ++ t : BitVec 5) = 3#2 := (extract_append_in_high _ _ (by decide)).trans (by decide)
  have h7 : BitVec.extractLsb' 4 1 (6#3 ++ t : BitVec 5) = 1#1 := (extract_append_in_high _ _ (by decide)).trans (by decide)
  simp only [rawMaj29, h0, h1, h2, h3, h4, h5, h6, h7]
  try rfl
theorem vqnt (d : Reg) (a : Reg) (b : Reg) (q : BitVec 2) (m : Vm) : Statement (.vqnt d a b q m) := by
  intro hw
  obtain ⟨w, p, hb, ha⟩ := m
  obtain rfl : hb = 0#1 := by
    simp [wellFormed, noHoldB] at hw
    simp [hw]
  refine decode_pack (by decide) rfl ?_ hw
  change rawMaj29 (p ++ 0#1 ++ ha) (w ++ 2#2 ++ q) b a d = _
  have h0 : BitVec.extractLsb' 0 1 (p ++ 0#1 ++ ha : BitVec 4) = ha := extract_append_low _ _
  have h1 : BitVec.extractLsb' 2 2 (p ++ 0#1 ++ ha : BitVec 4) = p := (extract_append_in_high _ _ (by decide)).trans (extract_append_high _ _)
  have h2 : BitVec.extractLsb' 0 2 (w ++ 2#2 ++ q : BitVec 6) = q := extract_append_low _ _
  have h3 : BitVec.extractLsb' 2 2 (w ++ 2#2 ++ q : BitVec 6) = 2#2 := (extract_append_in_high _ _ (by decide)).trans (extract_append_low _ _)
  have h4 : BitVec.extractLsb' 4 2 (w ++ 2#2 ++ q : BitVec 6) = w := (extract_append_in_high _ _ (by decide)).trans (extract_append_high _ _)
  simp only [rawMaj29, h0, h1, h2, h3, h4]
  try rfl
theorem vdqnt (d : Reg) (a : Reg) (b : Reg) (q : BitVec 2) (m : Vm) : Statement (.vdqnt d a b q m) := by
  intro hw
  obtain ⟨w, p, hb, ha⟩ := m
  obtain rfl : hb = 0#1 := by
    simp [wellFormed, noHoldB] at hw
    simp [hw]
  refine decode_pack (by decide) rfl ?_ hw
  change rawMaj29 (p ++ 0#1 ++ ha) (w ++ 3#2 ++ q) b a d = _
  have h0 : BitVec.extractLsb' 0 1 (p ++ 0#1 ++ ha : BitVec 4) = ha := extract_append_low _ _
  have h1 : BitVec.extractLsb' 2 2 (p ++ 0#1 ++ ha : BitVec 4) = p := (extract_append_in_high _ _ (by decide)).trans (extract_append_high _ _)
  have h2 : BitVec.extractLsb' 0 2 (w ++ 3#2 ++ q : BitVec 6) = q := extract_append_low _ _
  have h3 : BitVec.extractLsb' 2 2 (w ++ 3#2 ++ q : BitVec 6) = 3#2 := (extract_append_in_high _ _ (by decide)).trans (extract_append_low _ _)
  have h4 : BitVec.extractLsb' 4 2 (w ++ 3#2 ++ q : BitVec 6) = w := (extract_append_in_high _ _ (by decide)).trans (extract_append_high _ _)
  simp only [rawMaj29, h0, h1, h2, h3, h4]
  try rfl
theorem pand (d : Reg) (a : Reg) (b : Reg) : Statement (.pand d a b) :=
  fun hw => decode_pack (by decide) rfl rfl hw
theorem por (d : Reg) (a : Reg) (b : Reg) : Statement (.por d a b) :=
  fun hw => decode_pack (by decide) rfl rfl hw
theorem pnot (d : Reg) (a : Reg) : Statement (.pnot d a) :=
  fun hw => decode_pack (by decide) rfl rfl hw
theorem pset (d : Reg) (a : Reg) : Statement (.pset d a) :=
  fun hw => decode_pack (by decide) rfl rfl hw
theorem pcount (d : Reg) (a : Reg) (w : BitVec 5) : Statement (.pcount d a w) :=
  fun hw => decode_pack (by decide) rfl rfl hw
theorem engW (a : Reg) (g : BitVec 2) (e : BitVec 4) : Statement (.engW a g e) := by
  intro hw
  refine decode_pack (by decide) rfl ?_ hw
  change rawMaj2C 0#4 (g ++ e) 0#5 a 0#5 = _
  have h0 : BitVec.extractLsb' 0 4 (g ++ e : BitVec 6) = e := extract_append_low _ _
  have h1 : BitVec.extractLsb' 4 2 (g ++ e : BitVec 6) = g := extract_append_high _ _
  simp only [rawMaj2C, h0, h1]
  try rfl
theorem engR (d : Reg) (g : BitVec 2) (e : BitVec 4) (l : BitVec 4) : Statement (.engR d g e l) := by
  intro hw
  refine decode_pack (by decide) rfl ?_ hw
  change rawMaj2C l (g ++ e) 1#5 0#5 d = _
  have h0 : BitVec.extractLsb' 0 4 (g ++ e : BitVec 6) = e := extract_append_low _ _
  have h1 : BitVec.extractLsb' 4 2 (g ++ e : BitVec 6) = g := extract_append_high _ _
  have he : e.toNat ≠ 14 := by simp [wellFormed] at hw; exact hw.2
  have n14 : (g ++ e : BitVec 6).toNat ≠ 14 := by clear hw h0 h1; revert g e; decide
  have n30 : (g ++ e : BitVec 6).toNat ≠ 30 := by clear hw h0 h1; revert g e; decide
  have n46 : (g ++ e : BitVec 6).toNat ≠ 46 := by clear hw h0 h1; revert g e; decide
  simp only [rawMaj2C, h0, h1, n14, n30, n46, if_false]
  try rfl
theorem copyLaunch (d : Reg) (l : BitVec 4) : Statement (.copyLaunch d l) :=
  fun hw => decode_pack (by decide) rfl rfl hw
theorem gatherLaunch (d : Reg) (l : BitVec 4) : Statement (.gatherLaunch d l) :=
  fun hw => decode_pack (by decide) rfl rfl hw
theorem exchangeLaunch (d : Reg) (l : BitVec 4) : Statement (.exchangeLaunch d l) :=
  fun hw => decode_pack (by decide) rfl rfl hw
theorem engWait (d : Reg) (a : Reg) (l : BitVec 4) : Statement (.engWait d a l) :=
  fun hw => decode_pack (by decide) rfl rfl hw
theorem engPoll (d : Reg) (a : Reg) (l : BitVec 4) : Statement (.engPoll d a l) :=
  fun hw => decode_pack (by decide) rfl rfl hw
theorem msgSend (d : Reg) (a : Reg) (l : BitVec 4) : Statement (.msgSend d a l) :=
  fun hw => decode_pack (by decide) rfl rfl hw
theorem msgRecv (d : Reg) (a : Reg) (b : Reg) (l : BitVec 4) : Statement (.msgRecv d a b l) :=
  fun hw => decode_pack (by decide) rfl rfl hw
theorem msgPush (d : Reg) (a : Reg) (b : Reg) (l : BitVec 4) : Statement (.msgPush d a b l) :=
  fun hw => decode_pack (by decide) rfl rfl hw
theorem msgSret (d : Reg) (a : Reg) (b : Reg) (l : BitVec 4) : Statement (.msgSret d a b l) :=
  fun hw => decode_pack (by decide) rfl rfl hw
theorem rankRd (d : Reg) (a : Reg) (s : BitVec 5) (l : BitVec 4) : Statement (.rankRd d a s l) :=
  fun hw => decode_pack (by decide) rfl rfl hw
theorem rankMove (d : Reg) (a : Reg) (b : Reg) (l : BitVec 4) : Statement (.rankMove d a b l) :=
  fun hw => decode_pack (by decide) rfl rfl hw
theorem gangMma (d : BitVec 3) (oa : BitVec 6) (ob : BitVec 6) (l : BitVec 4) : Statement (.gangMma d oa ob l) := by
  intro hw
  refine decode_pack (by decide) rfl ?_ hw
  change rawMaj2E l 0#6 (ob.extractLsb' 0 5) (oa.extractLsb' 0 5) (ob.extractLsb' 5 1 ++ oa.extractLsb' 5 1 ++ d) = _
  have h0 : BitVec.extractLsb' 0 3 (ob.extractLsb' 5 1 ++ oa.extractLsb' 5 1 ++ d : BitVec 5) = d := extract_append_low _ _
  have h1 : BitVec.extractLsb' 3 1 (ob.extractLsb' 5 1 ++ oa.extractLsb' 5 1 ++ d : BitVec 5) = oa.extractLsb' 5 1 := (extract_append_in_high _ _ (by decide)).trans (extract_append_low _ _)
  have h2 : BitVec.extractLsb' 4 1 (ob.extractLsb' 5 1 ++ oa.extractLsb' 5 1 ++ d : BitVec 5) = ob.extractLsb' 5 1 := (extract_append_in_high _ _ (by decide)).trans (extract_append_high _ _)
  have job : (ob.extractLsb' 5 1 ++ ob.extractLsb' 0 5 : BitVec 6) = ob := joinBits2 (m := 1) (n := 5) ob
  have joa : (oa.extractLsb' 5 1 ++ oa.extractLsb' 0 5 : BitVec 6) = oa := joinBits2 (m := 1) (n := 5) oa
  simp only [rawMaj2E, h0, h1, h2, job, joa]
  try rfl
theorem gangMmaSh (d : BitVec 3) (oa : BitVec 6) (ob : BitVec 6) (src : BitVec 3) (l : BitVec 4) : Statement (.gangMmaSh d oa ob src l) := by
  intro hw
  refine decode_pack (by decide) rfl ?_ hw
  change rawMaj2E l (1#3 ++ src) (ob.extractLsb' 0 5) (oa.extractLsb' 0 5) (ob.extractLsb' 5 1 ++ oa.extractLsb' 5 1 ++ d) = _
  have h0 : BitVec.extractLsb' 0 3 (1#3 ++ src : BitVec 6) = src := extract_append_low _ _
  have h1 : BitVec.extractLsb' 3 3 (1#3 ++ src : BitVec 6) = 1#3 := extract_append_high _ _
  have h2 : BitVec.extractLsb' 0 3 (ob.extractLsb' 5 1 ++ oa.extractLsb' 5 1 ++ d : BitVec 5) = d := extract_append_low _ _
  have h3 : BitVec.extractLsb' 3 1 (ob.extractLsb' 5 1 ++ oa.extractLsb' 5 1 ++ d : BitVec 5) = oa.extractLsb' 5 1 := (extract_append_in_high _ _ (by decide)).trans (extract_append_low _ _)
  have h4 : BitVec.extractLsb' 4 1 (ob.extractLsb' 5 1 ++ oa.extractLsb' 5 1 ++ d : BitVec 5) = ob.extractLsb' 5 1 := (extract_append_in_high _ _ (by decide)).trans (extract_append_high _ _)
  have job : (ob.extractLsb' 5 1 ++ ob.extractLsb' 0 5 : BitVec 6) = ob := joinBits2 (m := 1) (n := 5) ob
  have joa : (oa.extractLsb' 5 1 ++ oa.extractLsb' 0 5 : BitVec 6) = oa := joinBits2 (m := 1) (n := 5) oa
  simp only [rawMaj2E, h0, h1, h2, h3, h4, job, joa]
  try rfl
theorem mxFill (slot : BitVec 6) (h : Reg) (a : Reg) (l : BitVec 4) : Statement (.mxFill slot h a l) := by
  intro hw
  refine decode_pack (by decide) rfl ?_ hw
  change rawMaj2E l (8#5 ++ slot.extractLsb' 5 1) h a (slot.extractLsb' 0 5) = _
  have h0 : BitVec.extractLsb' 0 1 (8#5 ++ slot.extractLsb' 5 1 : BitVec 6) = slot.extractLsb' 5 1 := extract_append_low _ _
  have h1 : BitVec.extractLsb' 1 5 (8#5 ++ slot.extractLsb' 5 1 : BitVec 6) = 8#5 := extract_append_high _ _
  have h2 : BitVec.extractLsb' 3 3 (8#5 ++ slot.extractLsb' 5 1 : BitVec 6) = 2#3 := (extract_append_in_high _ _ (by decide)).trans (by decide)
  have jslot : (slot.extractLsb' 5 1 ++ slot.extractLsb' 0 5 : BitVec 6) = slot := joinBits2 (m := 1) (n := 5) slot
  simp only [rawMaj2E, h0, h1, h2, jslot]
  try rfl
theorem mxFillCol (slot : BitVec 6) (h : Reg) (a : Reg) (l : BitVec 4) : Statement (.mxFillCol slot h a l) := by
  intro hw
  refine decode_pack (by decide) rfl ?_ hw
  change rawMaj2E l (12#5 ++ slot.extractLsb' 5 1) h a (slot.extractLsb' 0 5) = _
  have h0 : BitVec.extractLsb' 0 1 (12#5 ++ slot.extractLsb' 5 1 : BitVec 6) = slot.extractLsb' 5 1 := extract_append_low _ _
  have h1 : BitVec.extractLsb' 1 5 (12#5 ++ slot.extractLsb' 5 1 : BitVec 6) = 12#5 := extract_append_high _ _
  have h2 : BitVec.extractLsb' 3 3 (12#5 ++ slot.extractLsb' 5 1 : BitVec 6) = 3#3 := (extract_append_in_high _ _ (by decide)).trans (by decide)
  have jslot : (slot.extractLsb' 5 1 ++ slot.extractLsb' 0 5 : BitVec 6) = slot := joinBits2 (m := 1) (n := 5) slot
  simp only [rawMaj2E, h0, h1, h2, jslot]
  try rfl
theorem mxAcld (d : BitVec 3) (a : Reg) (h : Reg) (l : BitVec 4) : Statement (.mxAcld d a h l) := by
  intro hw
  refine decode_pack (by decide) rfl ?_ hw
  change rawMaj2E l 32#6 h a (0#2 ++ d) = _
  have h0 : BitVec.extractLsb' 0 3 (0#2 ++ d : BitVec 5) = d := extract_append_low _ _
  have h1 : BitVec.extractLsb' 3 1 (0#2 ++ d : BitVec 5) = 0#1 := (extract_append_in_high _ _ (by decide)).trans (by decide)
  have h2 : BitVec.extractLsb' 4 1 (0#2 ++ d : BitVec 5) = 0#1 := (extract_append_in_high _ _ (by decide)).trans (by decide)
  simp only [rawMaj2E, h0, h1, h2]
  try rfl
theorem mxAcst (d : BitVec 3) (a : Reg) (h : Reg) (l : BitVec 4) : Statement (.mxAcst d a h l) := by
  intro hw
  refine decode_pack (by decide) rfl ?_ hw
  change rawMaj2E l 33#6 h a (0#2 ++ d) = _
  have h0 : BitVec.extractLsb' 0 3 (0#2 ++ d : BitVec 5) = d := extract_append_low _ _
  have h1 : BitVec.extractLsb' 3 1 (0#2 ++ d : BitVec 5) = 0#1 := (extract_append_in_high _ _ (by decide)).trans (by decide)
  have h2 : BitVec.extractLsb' 4 1 (0#2 ++ d : BitVec 5) = 0#1 := (extract_append_in_high _ _ (by decide)).trans (by decide)
  simp only [rawMaj2E, h0, h1, h2]
  try rfl
theorem mxZero (d : BitVec 3) (l : BitVec 4) : Statement (.mxZero d l) := by
  intro hw
  refine decode_pack (by decide) rfl ?_ hw
  change rawMaj2E l 34#6 0#5 0#5 (0#2 ++ d) = _
  have h0 : BitVec.extractLsb' 0 3 (0#2 ++ d : BitVec 5) = d := extract_append_low _ _
  have h1 : BitVec.extractLsb' 3 1 (0#2 ++ d : BitVec 5) = 0#1 := (extract_append_in_high _ _ (by decide)).trans (by decide)
  have h2 : BitVec.extractLsb' 4 1 (0#2 ++ d : BitVec 5) = 0#1 := (extract_append_in_high _ _ (by decide)).trans (by decide)
  simp only [rawMaj2E, h0, h1, h2]
  try rfl
theorem mxClaim (slot : BitVec 6) (l : BitVec 4) : Statement (.mxClaim slot l) := by
  intro hw
  refine decode_pack (by decide) rfl ?_ hw
  change rawMaj2E l (18#5 ++ slot.extractLsb' 5 1) 0#5 0#5 (slot.extractLsb' 0 5) = _
  have h0 : BitVec.extractLsb' 0 1 (18#5 ++ slot.extractLsb' 5 1 : BitVec 6) = slot.extractLsb' 5 1 := extract_append_low _ _
  have h1 : BitVec.extractLsb' 1 5 (18#5 ++ slot.extractLsb' 5 1 : BitVec 6) = 18#5 := extract_append_high _ _
  have h2 : BitVec.extractLsb' 3 3 (18#5 ++ slot.extractLsb' 5 1 : BitVec 6) = 4#3 := (extract_append_in_high _ _ (by decide)).trans (by decide)
  have jslot : (slot.extractLsb' 5 1 ++ slot.extractLsb' 0 5 : BitVec 6) = slot := joinBits2 (m := 1) (n := 5) slot
  simp only [rawMaj2E, h0, h1, h2, jslot]
  try rfl
theorem mxRel (slot : BitVec 6) (l : BitVec 4) : Statement (.mxRel slot l) := by
  intro hw
  refine decode_pack (by decide) rfl ?_ hw
  change rawMaj2E l (19#5 ++ slot.extractLsb' 5 1) 0#5 0#5 (slot.extractLsb' 0 5) = _
  have h0 : BitVec.extractLsb' 0 1 (19#5 ++ slot.extractLsb' 5 1 : BitVec 6) = slot.extractLsb' 5 1 := extract_append_low _ _
  have h1 : BitVec.extractLsb' 1 5 (19#5 ++ slot.extractLsb' 5 1 : BitVec 6) = 19#5 := extract_append_high _ _
  have h2 : BitVec.extractLsb' 3 3 (19#5 ++ slot.extractLsb' 5 1 : BitVec 6) = 4#3 := (extract_append_in_high _ _ (by decide)).trans (by decide)
  have jslot : (slot.extractLsb' 5 1 ++ slot.extractLsb' 0 5 : BitVec 6) = slot := joinBits2 (m := 1) (n := 5) slot
  simp only [rawMaj2E, h0, h1, h2, jslot]
  try rfl
theorem mxRegen (od : BitVec 6) (os : BitVec 6) (l : BitVec 4) : Statement (.mxRegen od os l) := by
  intro hw
  refine decode_pack (by decide) rfl ?_ hw
  change rawMaj2E l 40#6 (0#3 ++ os.extractLsb' 5 1 ++ od.extractLsb' 5 1) (os.extractLsb' 0 5) (od.extractLsb' 0 5) = _
  have h0 : BitVec.extractLsb' 0 1 (0#3 ++ os.extractLsb' 5 1 ++ od.extractLsb' 5 1 : BitVec 5) = od.extractLsb' 5 1 := extract_append_low _ _
  have h1 : BitVec.extractLsb' 1 1 (0#3 ++ os.extractLsb' 5 1 ++ od.extractLsb' 5 1 : BitVec 5) = os.extractLsb' 5 1 := (extract_append_in_high _ _ (by decide)).trans (extract_append_low _ _)
  have jos : (os.extractLsb' 5 1 ++ os.extractLsb' 0 5 : BitVec 6) = os := joinBits2 (m := 1) (n := 5) os
  have jod : (od.extractLsb' 5 1 ++ od.extractLsb' 0 5 : BitVec 6) = od := joinBits2 (m := 1) (n := 5) od
  simp only [rawMaj2E, h0, h1, jos, jod]
  try rfl
theorem mxRegenE (od : BitVec 6) (os : BitVec 6) (l : BitVec 4) : Statement (.mxRegenE od os l) := by
  intro hw
  refine decode_pack (by decide) rfl ?_ hw
  change rawMaj2E l 41#6 (0#3 ++ os.extractLsb' 5 1 ++ od.extractLsb' 5 1) (os.extractLsb' 0 5) (od.extractLsb' 0 5) = _
  have h0 : BitVec.extractLsb' 0 1 (0#3 ++ os.extractLsb' 5 1 ++ od.extractLsb' 5 1 : BitVec 5) = od.extractLsb' 5 1 := extract_append_low _ _
  have h1 : BitVec.extractLsb' 1 1 (0#3 ++ os.extractLsb' 5 1 ++ od.extractLsb' 5 1 : BitVec 5) = os.extractLsb' 5 1 := (extract_append_in_high _ _ (by decide)).trans (extract_append_low _ _)
  have jos : (os.extractLsb' 5 1 ++ os.extractLsb' 0 5 : BitVec 6) = os := joinBits2 (m := 1) (n := 5) os
  have jod : (od.extractLsb' 5 1 ++ od.extractLsb' 0 5 : BitVec 6) = od := joinBits2 (m := 1) (n := 5) od
  simp only [rawMaj2E, h0, h1, jos, jod]
  try rfl
theorem mxRegenT (od : BitVec 6) (os : BitVec 6) (l : BitVec 4) : Statement (.mxRegenT od os l) := by
  intro hw
  refine decode_pack (by decide) rfl ?_ hw
  change rawMaj2E l 42#6 (0#3 ++ os.extractLsb' 5 1 ++ od.extractLsb' 5 1) (os.extractLsb' 0 5) (od.extractLsb' 0 5) = _
  have h0 : BitVec.extractLsb' 0 1 (0#3 ++ os.extractLsb' 5 1 ++ od.extractLsb' 5 1 : BitVec 5) = od.extractLsb' 5 1 := extract_append_low _ _
  have h1 : BitVec.extractLsb' 1 1 (0#3 ++ os.extractLsb' 5 1 ++ od.extractLsb' 5 1 : BitVec 5) = os.extractLsb' 5 1 := (extract_append_in_high _ _ (by decide)).trans (extract_append_low _ _)
  have jos : (os.extractLsb' 5 1 ++ os.extractLsb' 0 5 : BitVec 6) = os := joinBits2 (m := 1) (n := 5) os
  have jod : (od.extractLsb' 5 1 ++ od.extractLsb' 0 5 : BitVec 6) = od := joinBits2 (m := 1) (n := 5) od
  simp only [rawMaj2E, h0, h1, jos, jod]
  try rfl
theorem mxRegenET (od : BitVec 6) (os : BitVec 6) (l : BitVec 4) : Statement (.mxRegenET od os l) := by
  intro hw
  refine decode_pack (by decide) rfl ?_ hw
  change rawMaj2E l 43#6 (0#3 ++ os.extractLsb' 5 1 ++ od.extractLsb' 5 1) (os.extractLsb' 0 5) (od.extractLsb' 0 5) = _
  have h0 : BitVec.extractLsb' 0 1 (0#3 ++ os.extractLsb' 5 1 ++ od.extractLsb' 5 1 : BitVec 5) = od.extractLsb' 5 1 := extract_append_low _ _
  have h1 : BitVec.extractLsb' 1 1 (0#3 ++ os.extractLsb' 5 1 ++ od.extractLsb' 5 1 : BitVec 5) = os.extractLsb' 5 1 := (extract_append_in_high _ _ (by decide)).trans (extract_append_low _ _)
  have jos : (os.extractLsb' 5 1 ++ os.extractLsb' 0 5 : BitVec 6) = os := joinBits2 (m := 1) (n := 5) os
  have jod : (od.extractLsb' 5 1 ++ od.extractLsb' 0 5 : BitVec 6) = od := joinBits2 (m := 1) (n := 5) od
  simp only [rawMaj2E, h0, h1, jos, jod]
  try rfl
theorem gangForm (d : Reg) : Statement (.gangForm d) :=
  fun hw => decode_pack (by decide) rfl rfl hw
theorem gangSplit : Statement (.gangSplit) :=
  fun hw => decode_pack (by decide) rfl rfl hw
theorem prmOpen (d : Reg) (a : Reg) (n : Reg) (l : BitVec 4) : Statement (.prmOpen d a n l) :=
  fun hw => decode_pack (by decide) rfl rfl hw
theorem prmRedeem (d : Reg) (a : Reg) (n : Reg) (l : BitVec 4) : Statement (.prmRedeem d a n l) :=
  fun hw => decode_pack (by decide) rfl rfl hw
theorem prmRedeemT (d : Reg) (a : Reg) (n : Reg) (l : BitVec 4) : Statement (.prmRedeemT d a n l) :=
  fun hw => decode_pack (by decide) rfl rfl hw
theorem prmCancel (d : Reg) (a : Reg) (l : BitVec 4) : Statement (.prmCancel d a l) :=
  fun hw => decode_pack (by decide) rfl rfl hw
theorem prmQuery (d : Reg) (a : Reg) (s : BitVec 5) (l : BitVec 4) : Statement (.prmQuery d a s l) :=
  fun hw => decode_pack (by decide) rfl rfl hw
theorem optCard (d : Reg) (a : Reg) (n : Reg) (l : BitVec 4) : Statement (.optCard d a n l) :=
  fun hw => decode_pack (by decide) rfl rfl hw
theorem optLdr (a : Reg) (n : Reg) (k : BitVec 3) (l : BitVec 4) : Statement (.optLdr a n k l) := by
  intro hw
  refine decode_pack (by decide) rfl ?_ hw
  change rawMaj2F l 9#6 n a (0#2 ++ k) = _
  have h0 : BitVec.extractLsb' 0 3 (0#2 ++ k : BitVec 5) = k := extract_append_low _ _
  simp only [rawMaj2F, h0]
  try rfl
theorem optWait (d : Reg) (a : Reg) (l : BitVec 4) : Statement (.optWait d a l) :=
  fun hw => decode_pack (by decide) rfl rfl hw
theorem cntRd (d : Reg) (a : Reg) (h : BitVec 5) : Statement (.cntRd d a h) :=
  fun hw => decode_pack (by decide) rfl rfl hw
theorem trcMark (a : Reg) (i : BitVec 5) : Statement (.trcMark a i) :=
  fun hw => decode_pack (by decide) rfl rfl hw
theorem prfRd (d : Reg) (a : Reg) (s : BitVec 5) : Statement (.prfRd d a s) :=
  fun hw => decode_pack (by decide) rfl rfl hw
theorem gangJoinInstruction (d : Reg) (l : BitVec 4) : Statement (.gangJoinInstruction d l) :=
  fun hw => decode_pack (by decide) rfl rfl hw
theorem powerOn : Statement .powerOn := nofun
theorem coldReset : Statement .coldReset := nofun
theorem warmReset : Statement .warmReset := nofun
theorem thermalTrip : Statement .thermalTrip := nofun
theorem thermalClear : Statement .thermalClear := nofun
theorem hostLinkDown : Statement .hostLinkDown := nofun
theorem owncas : Statement .owncas := nofun
theorem denied : Statement .denied := nofun
theorem arm : Statement .arm := nofun
theorem evpop : Statement .evpop := nofun
theorem bar2Write : Statement .bar2Write := nofun
theorem registerWrite : Statement .registerWrite := nofun
theorem fwmin : Statement .fwmin := nofun
theorem create : Statement .create := nofun
theorem sealPart : Statement .sealPart := nofun
theorem bind : Statement .bind := nofun
theorem preempt : Statement .preempt := nofun
theorem resume : Statement .resume := nofun
theorem debug : Statement .debug := nofun
theorem dbgcont : Statement .dbgcont := nofun
theorem map : Statement .map := nofun
theorem unmap : Statement .unmap := nofun
theorem pgresp : Statement .pgresp := nofun
theorem jobopen : Statement .jobopen := nofun
theorem jobmap : Statement .jobmap := nofun
theorem jobseal : Statement .jobseal := nofun
theorem jobclose : Statement .jobclose := nofun
theorem hload : Statement .hload := nofun
theorem snap : Statement .snap := nofun
theorem recread : Statement .recread := nofun
theorem idkey : Statement .idkey := nofun
theorem retire : Statement .retire := nofun
theorem trace : Statement .trace := nofun
theorem tfilter : Statement .tfilter := nofun
theorem taskStart : Statement .taskStart := nofun
theorem windowClose : Statement .windowClose := nofun
theorem windowResultDelivery : Statement .windowResultDelivery := nofun
theorem quantumDeadlock : Statement .quantumDeadlock := nofun
theorem watchdog : Statement .watchdog := nofun
theorem timer : Statement .timer := nofun
theorem ticketGap : Statement .ticketGap := nofun
theorem tfenceGapExpiry : Statement .tfenceGapExpiry := nofun
theorem tktLoadGapExpiry : Statement .tktLoadGapExpiry := nofun
theorem optWaitGapExpiry : Statement .optWaitGapExpiry := nofun
theorem sendStall : Statement .sendStall := nofun
theorem clockGate : Statement .clockGate := nofun
theorem decodeTrap : Statement .decodeTrap := nofun
theorem handlerEntry : Statement .handlerEntry := nofun
theorem fatalStop : Statement .fatalStop := nofun
theorem userInterruptDelivery : Statement .userInterruptDelivery := nofun
theorem preEmption : Statement .preEmption := nofun
theorem haltComplete : Statement .haltComplete := nofun
theorem spill : Statement .spill := nofun
theorem restore : Statement .restore := nofun
theorem coreFailure : Statement .coreFailure := nofun
theorem rowRemap : Statement .rowRemap := nofun
theorem laneFailure : Statement .laneFailure := nofun
theorem flitReceive : Statement .flitReceive := nofun
theorem retransmissionRequest : Statement .retransmissionRequest := nofun
theorem messageArrival : Statement .messageArrival := nofun
theorem messageRetry : Statement .messageRetry := nofun
theorem pushApply : Statement .pushApply := nofun
theorem slotReturn : Statement .slotReturn := nofun
theorem copyComplete : Statement .copyComplete := nofun
theorem gatherComplete : Statement .gatherComplete := nofun
theorem exchangeComplete : Statement .exchangeComplete := nofun
theorem enginePageFault : Statement .enginePageFault := nofun
theorem engineGranuleWaitEnd : Statement .engineGranuleWaitEnd := nofun
theorem lockWaitEnd : Statement .lockWaitEnd := nofun
theorem fullEmptyWaitEnd : Statement .fullEmptyWaitEnd := nofun
theorem versionWaitEnd : Statement .versionWaitEnd := nofun
theorem reclaimWaitEnd : Statement .reclaimWaitEnd := nofun
theorem barrierRelease : Statement .barrierRelease := nofun
theorem phaseWaitEnd : Statement .phaseWaitEnd := nofun
theorem eventSignalLanding : Statement .eventSignalLanding := nofun
theorem ticketArrival : Statement .ticketArrival := nofun
theorem ticketRetry : Statement .ticketRetry := nofun
theorem instructionCompletion : Statement .instructionCompletion := nofun
theorem recordPoolAnswer : Statement .recordPoolAnswer := nofun
theorem gangMmaCompletion : Statement .gangMmaCompletion := nofun
theorem cardStart : Statement .cardStart := nofun
theorem cardComplete : Statement .cardComplete := nofun
theorem strainerAction : Statement .strainerAction := nofun
theorem traceFilterRun : Statement .traceFilterRun := nofun
theorem interlockedResult : Statement .interlockedResult := nofun
theorem homeBankAccess : Statement .homeBankAccess := nofun
theorem mutexRetry : Statement .mutexRetry := nofun

end Sys2Proof.Laws.RoundTrip
end

