-- ==== Sys2Proof/Laws/Scalar.lean ====
section
/-! SUPPORT. The integer results of R111 as arithmetic, and the bodies of the integer instructions. -/

namespace Sys2Proof.Machine

theorem aSlt_eq (a b : Word) : aSlt a b = if decide (a.toInt < b.toInt) then 1#32 else 0#32 := by
  simp [aSlt, BitVec.slt_iff_toInt_lt]

theorem aSltu_eq (a b : Word) : aSltu a b = if decide (a.toNat < b.toNat) then 1#32 else 0#32 := by
  simp [aSltu, BitVec.ult_iff_toNat_lt]

theorem aMin_eq (a b : Word) : aMin a b = BitVec.ofInt 32 (min a.toInt b.toInt) := by
  unfold aMin
  by_cases h : a.toInt < b.toInt
  · rw [if_pos (BitVec.slt_iff_toInt_lt.2 h), min_eq_left (Int.le_of_lt h), BitVec.ofInt_toInt]
  · rw [if_neg (mt BitVec.slt_iff_toInt_lt.1 h), min_eq_right (Int.not_lt.1 h), BitVec.ofInt_toInt]

theorem aMax_eq (a b : Word) : aMax a b = BitVec.ofInt 32 (max a.toInt b.toInt) := by
  unfold aMax
  by_cases h : a.toInt < b.toInt
  · rw [if_pos (BitVec.slt_iff_toInt_lt.2 h), max_eq_right (Int.le_of_lt h), BitVec.ofInt_toInt]
  · rw [if_neg (mt BitVec.slt_iff_toInt_lt.1 h), max_eq_left (Int.not_lt.1 h), BitVec.ofInt_toInt]

theorem aMinu_eq (a b : Word) : aMinu a b = BitVec.ofNat 32 (min a.toNat b.toNat) := by
  unfold aMinu
  by_cases h : a.toNat < b.toNat
  · rw [if_pos (BitVec.ult_iff_toNat_lt.2 h), min_eq_left (Nat.le_of_lt h), BitVec.ofNat_toNat, BitVec.setWidth_eq]
  · rw [if_neg (mt BitVec.ult_iff_toNat_lt.1 h), min_eq_right (Nat.not_lt.1 h), BitVec.ofNat_toNat, BitVec.setWidth_eq]

theorem aMaxu_eq (a b : Word) : aMaxu a b = BitVec.ofNat 32 (max a.toNat b.toNat) := by
  unfold aMaxu
  by_cases h : a.toNat < b.toNat
  · rw [if_pos (BitVec.ult_iff_toNat_lt.2 h), max_eq_right (Nat.le_of_lt h), BitVec.ofNat_toNat, BitVec.setWidth_eq]
  · rw [if_neg (mt BitVec.ult_iff_toNat_lt.1 h), max_eq_left (Nat.not_lt.1 h), BitVec.ofNat_toNat, BitVec.setWidth_eq]

theorem shiftLeft_eq (a : Word) (k : Nat) : a <<< k = BitVec.ofNat 32 (a.toNat * 2 ^ k) := by
  apply BitVec.eq_of_toNat_eq
  simp [BitVec.toNat_shiftLeft, Nat.shiftLeft_eq]

theorem shiftRight_eq (a : Word) (k : Nat) : a >>> k = BitVec.ofNat 32 (a.toNat / 2 ^ k) := by
  apply BitVec.eq_of_toNat_eq
  have h : a.toNat / 2 ^ k < 2 ^ 32 := Nat.lt_of_le_of_lt (Nat.div_le_self _ _) a.isLt
  rw [BitVec.toNat_ushiftRight, Nat.shiftRight_eq_div_pow, BitVec.toNat_ofNat, Nat.mod_eq_of_lt h]

theorem sshiftRight_eq (a : Word) (k : Nat) : a.sshiftRight k = BitVec.ofInt 32 (a.toInt / 2 ^ k) := by
  unfold BitVec.sshiftRight
  rw [Int.shiftRight_eq_div_pow]
  norm_num

theorem aSll_eq (a b : Word) : aSll a b = BitVec.ofNat 32 (a.toNat * 2 ^ (b.toNat % 32)) := shiftLeft_eq _ _
theorem aSrl_eq (a b : Word) : aSrl a b = BitVec.ofNat 32 (a.toNat / 2 ^ (b.toNat % 32)) := shiftRight_eq _ _
theorem aSra_eq (a b : Word) : aSra a b = BitVec.ofInt 32 (a.toInt / 2 ^ (b.toNat % 32)) := sshiftRight_eq _ _

/-- The quotient of the overflow case (R111). -/
theorem aDiv_eq (a b : Word) : aDiv a b = if b = 0#32 then 0xFFFFFFFF#32
    else if a = 0x80000000#32 ∧ b = 0xFFFFFFFF#32 then 0x80000000#32 else BitVec.ofInt 32 (a.toInt.tdiv b.toInt) := by
  unfold aDiv
  split
  · rfl
  · split
    · rename_i h
      rw [h.1, h.2]
      decide
    · rfl

theorem aRem_eq (a b : Word) : aRem a b = if b = 0#32 then a
    else if a = 0x80000000#32 ∧ b = 0xFFFFFFFF#32 then 0#32 else BitVec.ofInt 32 (a.toInt.tmod b.toInt) := by
  unfold aRem
  split
  · rfl
  · split
    · rename_i h
      rw [h.1, h.2]
      decide
    · rfl

/-- The length of the run before the first place where p holds. -/
theorem takeWhile_range' (p : Nat → Bool) (n lo : Nat) :
    lo + ((List.range' lo n).takeWhile (fun k => !p k)).length = ((List.range' lo n).find? p).getD (lo + n) := by
  induction n generalizing lo with
  | zero => simp
  | succ n ih =>
    rw [List.range'_succ]
    cases h : p lo
    · have := ih (lo + 1)
      simp only [List.takeWhile_cons, List.find?_cons, h, Bool.not_false, if_true, List.length_cons]
      rw [show lo + (n + 1) = lo + 1 + n by omega, ← this]
      omega
    · simp [h]

theorem aCtz_eq (a : Word) : aCtz a = BitVec.ofNat 32 ((List.range 32).takeWhile (fun k => !a.getLsbD k)).length := by
  have := takeWhile_range' (fun k => a.getLsbD k) 32 0
  rw [Nat.zero_add, Nat.zero_add, ← List.range_eq_range'] at this
  unfold aCtz word
  rw [this]

theorem aPopc_eq (a : Word) : aPopc a = BitVec.ofNat 32 ((List.range 32).filter (fun k => a.getLsbD k)).length := by
  unfold aPopc word
  rw [List.countP_eq_length_filter]

/-- The length of the run before m, where p holds first. -/
theorem takeWhile_range (p : Nat → Bool) {n m : Nat} (hm : m < n) (h1 : p m = true) (h0 : ∀ k < m, p k = false) :
    ((List.range n).takeWhile (fun k => !p k)).length = m := by
  have h := takeWhile_range' p n 0
  rw [Nat.zero_add, Nat.zero_add, ← List.range_eq_range'] at h
  rw [h]
  have : (List.range n).find? p = some m := by
    rw [List.find?_range_eq_some]
    exact ⟨h1, by simpa using hm, fun j hj => by simp [h0 j hj]⟩
  simp [this]

theorem aClz_eq (a : Word) : aClz a = BitVec.ofNat 32 ((List.range 32).takeWhile (fun k => !a.getLsbD (31 - k))).length := by
  unfold aClz word
  split
  · rename_i h
    subst h
    decide
  · rename_i h
    have hn : a.toNat ≠ 0 := fun e => h (BitVec.eq_of_toNat_eq e)
    have hl : a.toNat.log2 < 32 := (Nat.log2_lt hn).2 a.isLt
    rw [takeWhile_range (fun k => a.getLsbD (31 - k)) (m := 31 - a.toNat.log2) (by omega)]
    · show a.toNat.testBit (31 - (31 - a.toNat.log2)) = true
      rw [show 31 - (31 - a.toNat.log2) = a.toNat.log2 by omega]
      exact Nat.testBit_log2 hn
    · intro k hk
      show a.toNat.testBit (31 - k) = false
      exact Nat.testBit_lt_two_pow (Nat.lt_of_lt_of_le Nat.lt_log2_self (Nat.pow_le_pow_right (by omega) (by omega)))

end Sys2Proof.Machine
end

