-- ==== Sys2Proof/Laws/Trap.lean ====
section
/-! SUPPORT. What taking a trap leaves: the core's program counter, level and task before the entry, and the entry itself. -/

namespace Sys2Proof.Machine

/-- Completion of results leaves what a trap saves. -/
theorem finish_keeps (c : Core) (p : Pending) :
    (finish c p).pc = c.pc ∧ (finish c p).priv = c.priv ∧ (finish c p).task = c.task := by
  unfold finish
  dsimp only
  have h : ∀ (ws : List Write) (c : Core), (ws.foldl applyWrite c).pc = c.pc ∧ (ws.foldl applyWrite c).priv = c.priv ∧
      (ws.foldl applyWrite c).task = c.task := by
    intro ws
    induction ws with
    | nil => exact fun c => ⟨rfl, rfl, rfl⟩
    | cons w ws ih =>
      intro c
      rw [List.foldl_cons]
      obtain ⟨h1, h2, h3⟩ := ih (applyWrite c w)
      rw [h1, h2, h3]
      cases w <;> simp [applyWrite]
  exact h _ _

theorem completeIf_keeps (f : Pending → Bool) (c : Core) :
    (completeIf f c).pc = c.pc ∧ (completeIf f c).priv = c.priv ∧ (completeIf f c).task = c.task := by
  unfold completeIf
  dsimp only
  have h : ∀ (l : List Pending) (c : Core), (l.foldl finish c).pc = c.pc ∧ (l.foldl finish c).priv = c.priv ∧
      (l.foldl finish c).task = c.task := by
    intro l
    induction l with
    | nil => exact fun c => ⟨rfl, rfl, rfl⟩
    | cons p l ih =>
      intro c
      rw [List.foldl_cons]
      obtain ⟨h1, h2, h3⟩ := ih (finish c p)
      obtain ⟨g1, g2, g3⟩ := finish_keeps c p
      rw [h1, h2, h3, g1, g2, g3]
      exact ⟨rfl, rfl, rfl⟩
  exact h _ _

/-- A request at the record-pool controller stays: no core completes it by itself. -/
theorem completeIf_pool (c : Core) : pendingKind (completeIf forcible c) .pool = pendingKind c .pool := by
  unfold pendingKind completeIf
  rw [List.any_map]
  congr 1
  funext p
  cases h : p.kind <;> simp [Function.comp, forcible, h]

@[simp] theorem coreAt_dropSent (s : State) (n m : Nat) : coreAt (dropSent s n) m = coreAt s m := by
  unfold dropSent; split <;> rfl

@[simp] theorem ctxAt_dropSent (s : State) (n c : Nat) : ctxAt (dropSent s n) c = ctxAt s c := by
  unfold dropSent; split <;> rfl

/-- The core that a withdrawn instruction leaves: what a trap saves, and what its entry looks at, is unchanged. -/
theorem withdraw_core (s : State) (n : Nat) :
    (coreAt (withdraw s n) n).pc = (coreAt s n).pc ∧ (coreAt (withdraw s n) n).priv = (coreAt s n).priv ∧
      (coreAt (withdraw s n) n).task = (coreAt s n).task ∧ (coreAt (withdraw s n) n).inflight = (coreAt s n).inflight ∧
      (coreAt (withdraw s n) n).count = (coreAt s n).count ∧ (coreAt (withdraw s n) n).cr = (coreAt s n).cr := by
  have h1 : ∀ s : State, (coreAt (dropUnjoined s n) n).pc = (coreAt s n).pc ∧ (coreAt (dropUnjoined s n) n).priv = (coreAt s n).priv ∧
      (coreAt (dropUnjoined s n) n).task = (coreAt s n).task ∧ (coreAt (dropUnjoined s n) n).inflight = (coreAt s n).inflight ∧
      (coreAt (dropUnjoined s n) n).count = (coreAt s n).count ∧ (coreAt (dropUnjoined s n) n).cr = (coreAt s n).cr := by
    intro s
    unfold dropUnjoined
    split
    · unfold releaseLocks
      dsimp only
      rw [coreAt_updCtx]
      have : ∀ (t : State) (m : Table Cluster), coreAt { t with clusters := m } n = coreAt t n := fun _ _ => rfl
      rw [this, coreAt_updCore]
      exact ⟨rfl, rfl, rfl, rfl, rfl, rfl⟩
    · exact ⟨rfl, rfl, rfl, rfl, rfl, rfl⟩
  have h2 : ∀ s : State, (coreAt (leaveMutexes s n) n).pc = (coreAt s n).pc ∧ (coreAt (leaveMutexes s n) n).priv = (coreAt s n).priv ∧
      (coreAt (leaveMutexes s n) n).task = (coreAt s n).task ∧ (coreAt (leaveMutexes s n) n).inflight = (coreAt s n).inflight ∧
      (coreAt (leaveMutexes s n) n).count = (coreAt s n).count ∧ (coreAt (leaveMutexes s n) n).cr = (coreAt s n).cr := by
    intro s
    unfold coreAt leaveMutexes tgetD
    dsimp only
    generalize s.cores = t
    induction t with
    | nil => exact ⟨rfl, rfl, rfl, rfl, rfl, rfl⟩
    | cons e t ih =>
      obtain ⟨k, c⟩ := e
      rw [List.map_cons]
      dsimp only
      by_cases hm : (c.mutexq.any fun q => q.2 == n) = true
      · rw [if_pos hm]
        by_cases hk : k = n
        · simp only [tget, hk, if_true, Option.getD_some]
          exact ⟨trivial, trivial, trivial, trivial, trivial, trivial⟩
        · simpa only [tget, hk, if_false] using ih
      · rw [if_neg hm]
        by_cases hk : k = n
        · simp only [tget, hk, if_true, Option.getD_some]
          exact ⟨trivial, trivial, trivial, trivial, trivial, trivial⟩
        · simpa only [tget, hk, if_false] using ih
  have h3 : ∀ s : State, (coreAt (leaveQueues s n) n).pc = (coreAt s n).pc ∧ (coreAt (leaveQueues s n) n).priv = (coreAt s n).priv ∧
      (coreAt (leaveQueues s n) n).task = (coreAt s n).task ∧ (coreAt (leaveQueues s n) n).inflight = (coreAt s n).inflight ∧
      (coreAt (leaveQueues s n) n).count = (coreAt s n).count ∧ (coreAt (leaveQueues s n) n).cr = (coreAt s n).cr := by
    intro s
    unfold leaveQueues
    split
    · split
      · exact h2 s
      · exact ⟨rfl, rfl, rfl, rfl, rfl, rfl⟩
    · exact ⟨rfl, rfl, rfl, rfl, rfl, rfl⟩
  obtain ⟨a1, a2, a3, a4, a5, a6⟩ := h1 (dropSent s n)
  rw [coreAt_dropSent] at a1 a2 a3 a4 a5 a6
  obtain ⟨b1, b2, b3, b4, b5, b6⟩ := h3 (dropUnjoined (dropSent s n) n)
  unfold withdraw
  dsimp only
  split
  · exact ⟨b1.trans a1, b2.trans a2, b3.trans a3, b4.trans a4, b5.trans a5, b6.trans a6⟩
  · rw [coreAt_updCore]
    exact ⟨b1.trans a1, b2.trans a2, b3.trans a3, b4.trans a4, b5.trans a5, b6.trans a6⟩

/-! ## The state at the entry -/

theorem prune_keeps (c : Core) : (prune c).pc = c.pc ∧ (prune c).priv = c.priv ∧ (prune c).task = c.task := ⟨rfl, rfl, rfl⟩

theorem pendingKind_prune (c : Core) (k : PKind) : pendingKind (prune c) k = pendingKind c k := by
  unfold pendingKind prune
  simp only [List.any_filter]
  congr 1; funext p
  cases p.done <;> simp

theorem withdraw_ctx (s : State) (n c : Nat) : ∀ x, ctxAt s c = some x → ∃ y, ctxAt (withdraw s n) c = some y ∧ y.runs = x.runs ∧ y.pbase = x.pbase ∧ y.hmask = x.hmask ∧ y.debug = x.debug ∧ y.det = x.det := by
  intro x hx
  have hs : ctxAt (dropSent s n) c = some x := by rw [ctxAt_dropSent]; exact hx
  have h1 : ∃ y, ctxAt (dropUnjoined (dropSent s n) n) c = some y ∧ y.runs = x.runs ∧ y.pbase = x.pbase ∧ y.hmask = x.hmask ∧ y.debug = x.debug ∧ y.det = x.det := by
    unfold dropUnjoined
    split
    · rename_i e he
      unfold releaseLocks
      dsimp only
      by_cases hc : c = e.2.ctx
      · subst hc
        rw [ctxAt_updCtx]
        have : ∀ (t : State) (m : Table Cluster), ctxAt { t with clusters := m } e.2.ctx = ctxAt t e.2.ctx := fun _ _ => rfl
        rw [this, ctxAt_updCore, hs]
        exact ⟨_, rfl, rfl, rfl, rfl, rfl, rfl⟩
      · rw [ctxAt_updCtx_other _ _ hc]
        exact ⟨x, hs, rfl, rfl, rfl, rfl, rfl⟩
    · exact ⟨x, hs, rfl, rfl, rfl, rfl, rfl⟩
  have h2 : ∀ t : State, ctxAt (leaveQueues t n) c = ctxAt t c := by
    intro t; unfold leaveQueues; split
    · split <;> rfl
    · rfl
  have h3 : ∀ (t : State) (m : Table CountTest), ctxAt { t with counting := m } c = ctxAt t c := fun _ _ => rfl
  unfold withdraw
  dsimp only
  split
  · rw [h3, h2]; exact h1
  · rw [ctxAt_updCore, h3, h2]; exact h1

theorem taskEnv_some {s : State} {n : Nat} {t x u} (h : taskEnv s n = some (t, x, u)) :
    (coreAt s n).task = some t ∧ ctxAt s t.ctx = some x ∧ runAt x t.ridx = some u := by
  unfold taskEnv at h
  split at h
  · cases h
  · split at h
    · cases h
    · split at h
      · cases h
      · rename_i a _ _ b _ _ c
        simp only [Option.some.injEq, Prod.mk.injEq] at h
        obtain ⟨rfl, rfl, rfl⟩ := h
        exact ⟨a, b, c⟩

theorem taskEnv_of {s : State} {n : Nat} {t x u} (h1 : (coreAt s n).task = some t) (h2 : ctxAt s t.ctx = some x) (h3 : runAt x t.ridx = some u) :
  taskEnv s n = some (t, x, u) := by simp [taskEnv, h1, h2, h3]

@[simp] theorem ctxAt_dissolve (s : State) (n c : Nat) : ctxAt (dissolve s n) c = ctxAt s c := by
  unfold dissolve; split <;> rfl

@[simp] theorem coreAt_dissolve (s : State) (n c : Nat) : coreAt (dissolve s n) c = coreAt s c := by
  unfold dissolve; split <;> rfl

theorem taskEnv_dissolve (s : State) (n : Nat) : taskEnv (dissolve s n) n = taskEnv s n := by
  unfold taskEnv
  rw [coreAt_dissolve]
  simp only [ctxAt_dissolve]

/-- At the entry of a trap the core still stands in its task and its record. -/
theorem enter_env (s : State) (n : Nat) (t x u) (h : taskEnv s n = some (t, x, u)) :
   ∃ y, taskEnv (updCore (updCore (withdraw (dissolve s n) n) n (completeIf forcible)) n prune) n = some (t, y, u) ∧ y.pbase = x.pbase ∧ y.hmask = x.hmask ∧ y.debug = x.debug := by
  rw [← taskEnv_dissolve] at h
  generalize dissolve s n = s at h ⊢
  obtain ⟨a, b, c⟩ := taskEnv_some h
  obtain ⟨y, hy, h1, h2, h3, h4, _⟩ := withdraw_ctx s n _ x b
  refine ⟨y, taskEnv_of ?_ ?_ ?_, h2, h3, h4⟩
  · rw [coreAt_updCore, coreAt_updCore]
    exact (completeIf_keeps _ _).2.2.trans ((withdraw_core s n).2.2.1.trans a)
  · rw [ctxAt_updCore, ctxAt_updCore, hy]
  · unfold runAt; rw [h1]; exact c

/-- A result of a window close stays pending: no core completes it by itself. -/
theorem completeIf_window (c : Core) : pendingKind (completeIf forcible c) .window = pendingKind c .window := by
  unfold pendingKind completeIf
  rw [List.any_map]
  congr 1
  funext p
  cases h : p.kind <;> simp [Function.comp, forcible, h]

/-- The settled core waits for a trap's entry where the core itself does. -/
theorem entryWaits_settled (s : State) (n : Nat) (r : TrapReq) :
    entryWaits (updCore (withdraw (dissolve s n) n) n (completeIf forcible)) n r = entryWaits s n r := by
  have h : (coreAt (withdraw (dissolve s n) n) n).inflight = (coreAt s n).inflight :=
    (withdraw_core (dissolve s n) n).2.2.2.1.trans (by rw [coreAt_dissolve])
  unfold entryWaits
  rw [coreAt_updCore, completeIf_pool, completeIf_window]
  unfold pendingKind
  rw [h]

/-- A trap whose entry waits for nothing enters. -/
theorem takeTrap_enter {s : State} {n : Nat} (r : TrapReq) (h : entryWaits s n r = false) :
    takeTrap s n r = enterTrap (updCore (updCore (withdraw (dissolve s n) n) n (completeIf forcible)) n prune) n r := by
  unfold takeTrap
  dsimp only
  rw [entryWaits_settled, h]
  rfl

/-- A trap whose entry waits is kept, and the core stalls or waits. -/
theorem takeTrap_kept {s : State} {n : Nat} (r : TrapReq) (h : entryWaits s n r = true) :
    let s1 := updCore (withdraw (dissolve s n) n) n (completeIf forcible)
    takeTrap s n r = updCore s1 n (fun c => { c with trap := some r, wait := entryStall s1 n }) := by
  unfold takeTrap
  dsimp only
  rw [entryWaits_settled, h]
  rfl

end Sys2Proof.Machine
end

