-- ==== Sys2Proof/Laws/Vector.lean ====
section
/-! SUPPORT. Lanes of a packed vector register, and the bodies of the vector instructions. -/

namespace Sys2Proof.Machine

/-- The number that lanes make, the first least significant. -/
def packNat (w : Nat) (l : List Nat) : Nat := l.foldr (fun x acc => x % 2 ^ w + 2 ^ w * acc) 0

theorem packNat_lt (w : Nat) (l : List Nat) : packNat w l < 2 ^ (w * l.length) := by
  induction l with
  | nil => simp [packNat]
  | cons x l ih =>
    have h : packNat w (x :: l) = x % 2 ^ w + 2 ^ w * packNat w l := rfl
    have hx : x % 2 ^ w < 2 ^ w := Nat.mod_lt _ (Nat.two_pow_pos w)
    have h2 : (packNat w l + 1) * 2 ^ w ≤ 2 ^ (w * l.length) * 2 ^ w := Nat.mul_le_mul_right _ ih
    have h3 : 2 ^ (w * (l.length + 1)) = 2 ^ (w * l.length) * 2 ^ w := by rw [Nat.mul_succ, Nat.pow_add]
    have h4 : (packNat w l + 1) * 2 ^ w = 2 ^ w * packNat w l + 2 ^ w := by ring
    rw [h, List.length_cons, h3]
    omega

/-- Lane i of what lanes make. -/
theorem packNat_lane (w : Nat) (l : List Nat) (i : Nat) : packNat w l / 2 ^ (w * i) % 2 ^ w = l.getD i 0 % 2 ^ w := by
  induction l generalizing i with
  | nil => simp [packNat]
  | cons x l ih =>
    have h : packNat w (x :: l) = x % 2 ^ w + 2 ^ w * packNat w l := rfl
    cases i with
    | zero => rw [h]; simp
    | succ i =>
      have h1 : 2 ^ (w * (i + 1)) = 2 ^ w * 2 ^ (w * i) := by rw [Nat.mul_succ, Nat.add_comm, Nat.pow_add]
      have h2 : (x % 2 ^ w + 2 ^ w * packNat w l) / 2 ^ w = packNat w l := by
        rw [Nat.add_mul_div_left _ _ (Nat.two_pow_pos w), Nat.div_eq_of_lt (Nat.mod_lt _ (Nat.two_pow_pos w)), Nat.zero_add]
      rw [h, h1, ← Nat.div_div_eq_div_mul, h2, ih]
      rfl

/-- Lane i of a vector register that packs lanes which fit. -/
theorem laneOf_packLanes (w : Nat) (l : List Nat) (i : Nat) (h : w * l.length ≤ 256) :
    laneOf (packLanes w l) w i = l.getD i 0 % 2 ^ w := by
  have h1 : packNat w l < 2 ^ 256 := Nat.lt_of_lt_of_le (packNat_lt w l) (Nat.pow_le_pow_right (by decide) h)
  have h2 : (packLanes w l).toNat = packNat w l := by
    unfold packLanes
    rw [BitVec.toNat_ofNat]
    exact Nat.mod_eq_of_lt h1
  unfold laneOf
  rw [h2, packNat_lane]

theorem laneOf_lt (v : VReg) (w i : Nat) : laneOf v w i < 2 ^ w := Nat.mod_lt _ (Nat.two_pow_pos w)

/-- A lane of a result: what its function gives where the predicate has it active, the old lane elsewhere (R185). -/
theorem laneOf_mapLanes (w : Nat) (p : Word) (old : VReg) (f : Nat → Nat) {i : Nat} (hi : i < 256 / w) :
    laneOf (mapLanes w p old f) w i = if activeLane p w i then f i % 2 ^ w else laneOf old w i := by
  unfold mapLanes
  rw [laneOf_packLanes _ _ _ (by rw [List.length_map, List.length_range]; exact Nat.mul_div_le 256 w)]
  rw [List.getD_eq_getElem?_getD, List.getElem?_map, List.getElem?_range hi]
  simp only [Option.map_some, Option.getD_some]
  split
  · rfl
  · exact Nat.mod_eq_of_lt (laneOf_lt _ _ _)

/-- A VEC instruction that sets no flag completes at its issue: its result is pending, its sources are held. -/
theorem vecDone_quiet (k : PKind) (l : BitVec 4) (r : VRes) (s : State) (h : r.flags = []) :
    vecDone k l r s = .ok (pend s s.cur k l r.writes 0#5 (if (me s).priv then [] else r.counts)) := by
  unfold vecDone fpxOf orFlags
  simp [h]

end Sys2Proof.Machine
end

