-- ==== Sys2Proof/Tests/Slice0.lean ====
section
/-! SUPPORT. Tests: ill-formed instructions, words from the specification, single steps on small states, and for each statement
that has hypotheses a concrete state and operands that meet them. -/

open Sys2Proof Sys2Proof.Machine

set_option maxRecDepth 4096

namespace Sys2Proof.Tests

/-! ## States -/

/-- The machine with instruction i placed on core 0, in a DET context of one cluster with one running record. -/
def at_ (i : Instr) : State := State.reset.withFetchWord 32 (encodeWord i).toNat

/-- The same with its core, context and run changed. -/
def place (i : Instr) (fc : Core → Core) (fx : Ctx → Ctx) (fu : Run → Run) : State :=
  updCore (setCtx (at_ i) 0 (fx (placeCtx (fu placeRun)))) 0 fc

/-- With core registers set: a list of register and value. -/
def regs (l : List (Nat × Word)) (c : Core) : Core := l.foldl (fun c e => wrS c e.1 e.2) c

def nodet (x : Ctx) : Ctx := { x with det := false }

/-- Group 0 holds the context's first n cores. -/
def withGroup (n : Nat) (x : Ctx) : Ctx := { x with groups := [(0, [0x00010000#32, BitVec.ofNat 32 (0x80000000 + n)])] }

def oneGroup : Ctx → Ctx := withGroup 1

/-- The identity bank permutation. -/
def bank : Word := 0x00FAC688#32

/-- Entries: 0 plain FP32, 1 plain INT32, 2 full-empty FP32, 3 versioned FP32, 4 ticketed INT32 of two updates, each of 64 elements; 5 a
slot buffer of 4 slots of 8 words; 6 a tile of 32 by 32 FP32; 7 a tile of 32 by 32 pair words; 8 FP32 in DRAM; 9 INT32 of core 0's slice as
shared; 10 INT32 of 8 descriptor words; 11 and 12 tiles of 2 by 2 FP32 that do not overlap; 13 to 17
the weights, guess, inputs, patch and gradient of a promise on one weight. -/
def layouts : Table Word :=
  let e := fun (k : Nat) (ext str : Nat × Nat) (w10 w11 w12 w13 : Word) =>
    [(16 * k + 2, BitVec.ofNat 32 ext.1), (16 * k + 3, BitVec.ofNat 32 ext.2), (16 * k + 4, 1#32), (16 * k + 5, 1#32),
     (16 * k + 6, BitVec.ofNat 32 str.1), (16 * k + 7, BitVec.ofNat 32 str.2), (16 * k + 10, w10), (16 * k + 11, w11), (16 * k + 12, w12),
     (16 * k + 13, w13)]
  (e 0 (64, 1) (32, 0) 0#32 bank 0#32 0#32 ++ e 1 (64, 1) (32, 0) 0xA0#32 bank 0#32 0#32) ++
  (e 2 (64, 1) (32, 0) 0x100#32 bank 0#32 0#32 ++ e 3 (64, 1) (32, 0) 0x200#32 (0x01000000#32 ||| bank) 0#32 0#32) ++
  (e 4 (64, 1) (32, 0) 0x4A4#32 bank 0#32 0x00020000#32 ++ e 5 (8, 4) (32, 256) 0x101#32 bank 0x0000FFFF#32 0#32) ++
  (e 6 (32, 32) (32, 1024) 1#32 bank 0#32 0#32 ++ e 7 (32, 32) (32, 1024) 0xC1#32 bank 0#32 0#32) ++
  (e 8 (64, 1) (32, 0) 8#32 bank 0#32 0#32 ++ e 9 (64, 1) (32, 0) 0xA4#32 bank 0#32 0#32) ++ e 10 (8, 1) (32, 0) 0xA0#32 bank 0#32 0#32 ++
  (e 11 (2, 2) (32, 1024) 1#32 bank 0#32 0#32 ++ ([(192, 0x00000400#32)] ++ e 12 (2, 2) (32, 1024) 1#32 bank 0#32 0#32)) ++
  (([(208, 0x00000800#32)] ++ e 13 (1, 1) (32, 0) 0x200#32 (0x01000000#32 ||| bank) 0#32 0#32) ++
   ([(224, 0x00000840#32)] ++ e 14 (1, 1) (32, 0) 0#32 bank 0#32 0#32) ++ ([(240, 0x00000880#32)] ++ e 15 (1, 1) (32, 0) 0#32 bank 0#32 0#32) ++
   ([(256, 0x000008C0#32)] ++ e 16 (1, 1) (32, 1024) 1#32 bank 0#32 0#32) ++
   ([(272, 0x00000900#32)] ++ e 17 (1, 1) (32, 0) 0#32 bank 0#32 0#32))

def laid (u : Run) : Run := { u with layouts := layouts }

/-- With the entries above. -/
def withLayouts (i : Instr) (fc : Core → Core) : State := place i fc id laid

/-- The state in which instruction i issues, if it does. -/
def go (i : Instr) (sh : Shape) (s : State) : State :=
  match issueCheck i sh s s.cur with
  | .go t => t
  | _ => s

def goes (i : Instr) (sh : Shape) (s : State) : Bool :=
  match issueCheck i sh s s.cur with
  | .go _ => true
  | _ => false

theorem issues_of {i : Instr} {sh : Shape} {s : State} (h : goes i sh s = true) : Issues i sh s (go i sh s) := by
  unfold Issues go
  unfold goes at h
  split at h
  · rename_i h1
    rw [h1]
  · cases h

/-- The state after the bank unit has taken an update. -/
def takenOf (r : BankAnswer) : State :=
  match r with
  | .taken t => t
  | _ => State.reset

def isTaken (r : BankAnswer) : Bool :=
  match r with
  | .taken _ => true
  | _ => false

theorem taken_of {r : BankAnswer} (h : isTaken r = true) : r = .taken (takenOf r) := by
  cases r <;> first | rfl | cases h

/-- The next state of an outcome. -/
def nextOf (o : Out) : State :=
  match o with
  | .next t => t
  | _ => State.reset

/-- The core that moves after one step. -/
def after (s : State) : Core := coreAt (nextOf (step s)) s.cur

/-- A step of the module with an input. -/
def event (s : State) (i : Instr) (x : Input) : State := nextOf (exec i { s with input := x })

/-! ## Ill-formed instructions are refused -/

def vm0 : Vm := ⟨0#2, 0#2, 0#1, 0#1⟩
def vm2 : Vm := ⟨2#2, 0#2, 0#1, 0#1⟩

theorem smoke_width : wellFormed (.vadd 1#5 2#5 3#5 ⟨3#2, 0#2, 0#1, 0#1⟩) = false ∧ wellFormed (.vadd 1#5 2#5 3#5 vm2) = true := by decide
theorem smoke_predicate : wellFormed (.vcmpEq 4#5 2#5 3#5 vm2) = false ∧ wellFormed (.pand 1#5 4#5 1#5) = false ∧
    wellFormed (.pset 5#5 1#5) = false ∧ wellFormed (.pcount 3#5 4#5 2#5) = false := by decide
theorem smoke_hold : wellFormed (.vfabs 1#5 2#5 ⟨2#2, 0#2, 1#1, 0#1⟩) = false ∧ wellFormed (.vbcast 1#5 2#5 ⟨2#2, 0#2, 0#1, 1#1⟩) = false := by decide
theorem smoke_lane : wellFormed (.vbcastL 1#5 2#5 8#5 vm2) = decide (8 < laneCount 2#2) ∧ wellFormed (.vbcastL 1#5 2#5 8#5 vm0) = false := by decide
theorem smoke_vext : wellFormed (.vext 1#5 2#5 3#5 ⟨2#2, 1#2, 0#1, 0#1⟩) = false := by decide
theorem smoke_cvt : wellFormed (.vcvtFN 1#5 2#5 0#4 0#2 vm0) = false ∧ wellFormed (.vcvtFN 1#5 2#5 1#4 2#2 vm0) = false ∧
    wellFormed (.vcvtIN 1#5 2#5 2#3 0#2 vm0) = false ∧ wellFormed (.vcvtX 1#5 2#5 3#2 0#2 vm0) = false := by decide
theorem smoke_pair : wellFormed (.amoCas 3#5 1#5 0#5 0#4) = false ∧ wellFormed (.tamoFadd 0#5 1#5 0#5 0#4) = false := by decide
theorem smoke_engine : wellFormed (.engW 1#5 3#2 0#4) = false ∧ wellFormed (.engW 1#5 2#2 4#4) = false ∧ wellFormed (.engR 1#5 0#2 14#4 0#4) = false := by
  decide
theorem smoke_other : wellFormed (.layWr 1#5 10#4 0#5 0#4) = false ∧ wellFormed (.grpRd 1#5 2#5 3#5) = false ∧ wellFormed (.cMv 0#5 0#5) = false ∧
    wellFormed .powerOn = false := by decide

/-! ## Words of the specification -/

theorem word_add : decodeWord 0x00083283#32 = .instr (.add 5#5 3#5 4#5) := by decide
theorem word_addi : decodeWord 0xFFFA4205#32 = .instr (.addi 4#5 4#5 (-3)) := by decide
theorem word_lui : decodeWord 0x12345193#32 = .instr (.lui 3#5 0x12345#20) := by decide
theorem word_blt : decodeWord 0x01083415#32 = .instr (.blt 3#5 4#5 8#12) := by decide
theorem word_jal : decodeWord 0x00064097#32 = .instr (.jal 1#5 100#20) := by decide
theorem word_crc : decodeWord 0xC002601B#32 = .instr (.crc 0#5 6#5 1#12) := by decide
theorem word_taskEnd : decodeWord 0x0100001D#32 = .instr .taskEnd := by decide

/-- Words written out in the specification's examples and the instruction each stands for: scalar, memory and synchronization families. -/
def exampleWordsA : List (Word × Instr) :=
  [(0x08C042C1#32, .amoAdd 5 4 3 1 0), (0x018022C7#32, .annAmoAdd 5 2 6 0), (0x060002C5#32, .barArr 5 0 0),
   (0x06820045#32, .barSync 0 1), (0x06405045#32, .barWait 5 0), (0x000032E1#32, .cntRd 5 3 0), (0x00820C1B#32, .crr 24 0x41),
   (0x4081A01B#32, .crw 26 0x40), (0x04003045#32, .evWait 3), (0x04404045#32, .evSig 4 0 0), (0x05003145#32, .mtxLock 3 2),
   (0x02403343#32, .tamoFadd 6 3 9 0), (0x00883343#32, .tamoSkip 6 3 2 0), (0x02500043#32, .tfence 0 9), (0x00524061#32, .trcMark 4 9),
   (0x00803C61#32, .prfRd 24 3 0), (0x020E3245#32, .waitCnt 3 7 4), (0x314832A1#32, .ld 5 3 4 5 3),
   (0x00CE4341#32, .amoCas 6 4 3 0), (0x00D242C1#32, .amoIncw 5 4 3 0)]

/-- The same for the vector, engine, matrix, message and promise families. -/
def exampleWordsB : List (Word × Instr) :=
  [(0x008620CB#32, .vcmpLt 1 2 3 vm0), (0x40149455#32, .vfdiv 8 9 10 0 4), (0x20C063D5#32, .vfrsqa 7 6 0 2),
   (0x024C4553#32, .vqnt 10 4 6 1 vm0), (0x018021CB#32, .vredsum 3 2 vm0), (0x800411D1#32, .vsel 3 1 2 ⟨0, 2, 0, 0⟩),
   (0x000620D7#32, .pand 1 2 3), (0x01041257#32, .pcount 4 1 2), (0x238204D9#32, .copyLaunch 9 2), (0x02008059#32, .engW 8 0 8),
   (0x06C07059#32, .engW 7 1 11), (0x000695D9#32, .engPoll 11 9 0), (0x0C80035D#32, .gangJoinInstruction 6 0),
   (0x0206205D#32, .gangMmaSh 0 2 3 0 0), (0x084C505D#32, .mxAcst 0 5 6 0), (0x0900015D#32, .mxClaim 2 0), (0x0408015D#32, .mxFill 2 4 0 0),
   (0x0A4022DD#32, .mxRegenE 5 2 0), (0x008C525B#32, .msgPush 4 5 6 0), (0x0052535B#32, .msgRecv 6 5 9 0), (0x024C54DB#32, .rankMove 9 5 6 0),
   (0x0204445F#32, .optCard 8 4 2 0), (0x024440DF#32, .optLdr 4 2 1 0), (0x028084DF#32, .optWait 9 8 0), (0x00C0535F#32, .prmCancel 6 5 0),
   (0x000642DF#32, .prmOpen 5 4 3 0), (0x004E535F#32, .prmRedeem 6 5 7 0)]

def decodesTo (l : List (Word × Instr)) : Bool := l.all fun e => decide (decodeWord e.1 = .instr e.2)

theorem words_scalar : decodesTo exampleWordsA = true := by decide
theorem words_other : decodesTo exampleWordsB = true := by decide

/-! ## Integer instructions, branches, control registers and traps -/

theorem witness_ScalarResults : ∃ (i : Instr) (s s1 : State) (sh : Shape) (d : Reg) (x : Word),
    Spec.scalarRow i (coreAt s1 s.cur) = some (sh, d, x) ∧ Issues i sh s s1 :=
  ⟨.add 5 3 4, at_ (.add 5 3 4), _, sh3 5 3 4, 5, _, rfl, issues_of (by decide)⟩

theorem witness_MulDivResults : ∃ (i : Instr) (s s1 : State) (sh : Shape) (d : Reg) (x : Word),
    Spec.mulDivRow i (coreAt s1 s.cur) = some (sh, d, x) ∧ Issues i sh s s1 :=
  ⟨.div 5 3 4, at_ (.div 5 3 4), _, sh3 5 3 4, 5, _, rfl, issues_of (by decide)⟩

theorem witness_Branches : ∃ (i : Instr) (s s1 : State) (sh : Shape) (off : Word) (taken : Bool),
    Spec.branchRow i (coreAt s1 s.cur) = some (sh, off, taken) ∧ Issues i sh s s1 :=
  ⟨.beq 3 4 8, at_ (.beq 3 4 8), _, shB 3 4, _, _, rfl, issues_of (by decide)⟩

theorem witness_Jumps : ∃ (i : Instr) (s s1 : State) (sh : Shape) (d : Reg) (pc : Word),
    Spec.jumpRow i (coreAt s1 s.cur) = some (sh, d, pc) ∧ Issues i sh s s1 :=
  ⟨.jal 1 100, at_ (.jal 1 100), _, { names := [nS 1] }, 1, _, rfl, issues_of (by decide)⟩

theorem witness_ControlRegisters : ∃ (i : Instr) (s s1 : State) (sh : Shape) (k : BitVec 12) (d : Reg) (new : Option Word) (info : CrInfo),
    Spec.crRow i (coreAt s1 s.cur) = some (sh, k, d, new) ∧ Issues i sh s s1 ∧ crInfo k.toNat = some info ∧
    (info.priv = true → (coreAt s1 s.cur).priv = true) ∧ (new ≠ none → info.ro = false) ∧
    (new ≠ none → k = 0x02B#12 → detOf s1 s.cur = false) :=
  ⟨.crw 3 8, at_ (.crw 3 8), _, _, 8, 0, _, _, rfl, issues_of (by decide), rfl, by decide, by decide, by decide⟩

/-- An unlisted register; a privileged one at user level; a read-only one that is written; QUANT in a DET context. -/
theorem witness_ControlRegisterTraps :
    (∃ (i : Instr) (s s1 : State) (sh : Shape) (k : BitVec 12) (d : Reg) (new : Option Word),
      Spec.crRow i (coreAt s1 s.cur) = some (sh, k, d, new) ∧ Issues i sh s s1 ∧ crInfo k.toNat = none) ∧
    (∃ (i : Instr) (s s1 : State) (sh : Shape) (k : BitVec 12) (d : Reg) (new : Option Word) (info : CrInfo),
      Spec.crRow i (coreAt s1 s.cur) = some (sh, k, d, new) ∧ Issues i sh s s1 ∧ crInfo k.toNat = some info ∧ info.priv = true ∧
      (coreAt s1 s.cur).priv = false) ∧
    (∃ (i : Instr) (s s1 : State) (sh : Shape) (k : BitVec 12) (d : Reg) (new : Option Word) (info : CrInfo),
      Spec.crRow i (coreAt s1 s.cur) = some (sh, k, d, new) ∧ Issues i sh s s1 ∧ crInfo k.toNat = some info ∧
      (info.priv = true → (coreAt s1 s.cur).priv = true) ∧ info.ro = true ∧ new ≠ none) ∧
    ∃ (i : Instr) (s s1 : State) (sh : Shape) (k : BitVec 12) (d : Reg) (new : Option Word) (info : CrInfo),
      Spec.crRow i (coreAt s1 s.cur) = some (sh, k, d, new) ∧ Issues i sh s s1 ∧ crInfo k.toNat = some info ∧
      (info.priv = true → (coreAt s1 s.cur).priv = true) ∧ k = 0x02B#12 ∧ new ≠ none ∧ detOf s1 s.cur = true :=
  ⟨⟨.crr 3 0xFFF, at_ (.crr 3 0xFFF), _, _, 0xFFF, 3, _, rfl, issues_of (by decide), rfl⟩,
   ⟨.crr 3 0x40, at_ (.crr 3 0x40), _, _, 0x40, 3, _, _, rfl, issues_of (by decide), rfl, rfl, by decide⟩,
   ⟨.crw 3 0x20, at_ (.crw 3 0x20), _, _, 0x20, 0, _, _, rfl, issues_of (by decide), rfl, by decide, rfl, by decide⟩,
   ⟨.crw 3 0x2B, place (.crw 3 0x2B) (fun c => { c with priv := true }) id id, _, _, 0x2B, 0, _, _, rfl, issues_of (by decide), rfl, by decide, rfl, by decide,
     by decide⟩⟩

theorem witness_ControlRegisterValues : (0x008, 0xFF#32) ∈ Spec.writable ∧ (0x02A, 0x01000000#32) ∈ Spec.budgets ∧ (8 : Nat) ≠ 9 := by decide

theorem witness_SoftwareTraps : (∃ (a : Reg) (s s1 : State), Issues (.trap a) { names := [nS a], sys := true } s s1) ∧
    ∃ (s s1 : State), Issues .brk { sys := true } s s1 :=
  ⟨⟨3, at_ (.trap 3), _, issues_of (by decide)⟩, ⟨at_ .brk, _, issues_of (by decide)⟩⟩

theorem mayEnter_idle {s : State} {n : Nat} {r : TrapReq} (h : (coreAt s n).inflight = []) : Spec.mayEnter s n r := by
  simp [Spec.mayEnter, h]

/-- A request at the record-pool controller. -/
def poolResult : Pending :=
  { kind := .pool, pidx := 0, look := 0, dist := 0, regs := [], writes := [.s 5 0#32 false], flags := 0, counts := [], done := false }

/-- A result of a window close that is pending for s5. -/
def windowResult : Pending :=
  { kind := .window, pidx := 0, look := 0, dist := 0, regs := [nS 5], writes := [.s 5 0#32 false], flags := 0, counts := [], done := false }

/-- The trap enters its handler; a request at the record-pool controller is pending; the core holds open the window of a result that it awaits. -/
theorem witness_TrapToHandler :
    (∃ (s : State) (n : Nat) (r : TrapReq) (t : Task) (x : Ctx) (u : Run), taskEnv s n = some (t, x, u) ∧ (coreAt s n).priv = false ∧
      masked x r.cause = true ∧ ¬(r.cause = .brk ∧ x.debug = true) ∧ Spec.mayEnter s n r) ∧
    (∃ (s : State) (n : Nat) (r : TrapReq) (t : Task) (x : Ctx) (u : Run), taskEnv s n = some (t, x, u) ∧ (coreAt s n).priv = false ∧
      masked x r.cause = true ∧ ¬(r.cause = .brk ∧ x.debug = true) ∧ ¬Spec.mayEnter s n r) ∧
    ∃ (s : State) (n : Nat) (r : TrapReq) (t : Task) (x : Ctx) (u : Run), taskEnv s n = some (t, x, u) ∧ (coreAt s n).priv = false ∧
      masked x r.cause = true ∧ ¬(r.cause = .brk ∧ x.debug = true) ∧ ¬Spec.mayEnter s n r ∧ x.det = true ∧ (coreAt s n).trap = none ∧
      ∃ p ∈ (coreAt s n).inflight, p.done = false ∧ p.kind = .window ∧ (coreAt s n).count < (p.win + 1) * (coreAt s n).cr.quant.toNat :=
  ⟨⟨place (.trap 3) id (fun x => { x with hmask := 0xFFFFFFFF }) id, 0, { cause := .trap, info := 7 }, _, _, _, rfl, by decide, by decide,
    by decide, mayEnter_idle (by decide)⟩,
   ⟨place (.trap 3) (fun c => { c with inflight := [poolResult] }) (fun x => { x with hmask := 0xFFFFFFFF }) id, 0, { cause := .trap, info := 7 },
    _, _, _, rfl, by decide, by decide, by decide, fun h => h.1 poolResult (by decide) rfl rfl⟩,
   ⟨place (.trap 3) (fun c => { c with inflight := [windowResult] }) (fun x => { x with hmask := 0xFFFFFFFF }) id, 0, { cause := .trap, info := 7 },
    _, _, _, rfl, by decide, by decide, by decide, fun h => h.2.elim (by decide) (fun h => h windowResult (by decide) rfl rfl), by decide, rfl,
    windowResult, by decide, rfl, rfl, by decide⟩⟩

/-- The mask bit is clear; the core is at the privileged level. -/
theorem witness_TrapFatal :
    (∃ (s : State) (n : Nat) (r : TrapReq) (t : Task) (x : Ctx) (u : Run), taskEnv s n = some (t, x, u) ∧
      r.cause ≠ .timer ∧ ¬(r.cause = .brk ∧ x.debug = true ∧ (coreAt s n).priv = false) ∧ masked x r.cause = false ∧ Spec.mayEnter s n r) ∧
    ∃ (s : State) (n : Nat) (r : TrapReq) (t : Task) (x : Ctx) (u : Run), taskEnv s n = some (t, x, u) ∧
      r.cause ≠ .timer ∧ ¬(r.cause = .brk ∧ x.debug = true ∧ (coreAt s n).priv = false) ∧ (coreAt s n).priv = true ∧ Spec.mayEnter s n r :=
  ⟨⟨at_ (.trap 3), 0, { cause := .trap, info := 7 }, _, _, _, rfl, by decide, by decide, by decide, mayEnter_idle (by decide)⟩,
   ⟨place (.trap 3) (fun c => { c with priv := true }) id id, 0, { cause := .trap, info := 7 }, _, _, _, rfl, by decide, by decide, by decide,
    mayEnter_idle (by decide)⟩⟩

theorem witness_Eret : (∃ (s s1 : State), Issues .eret { sys := true } s s1 ∧ (coreAt s1 s.cur).priv = true) ∧
    (∃ (s s1 : State), Issues .eret { sys := true } s s1 ∧ (coreAt s1 s.cur).priv = false ∧ (coreAt s1 s.cur).iact = true) ∧
    ∃ (s s1 : State), Issues .eret { sys := true } s s1 ∧ (coreAt s1 s.cur).priv = false ∧ (coreAt s1 s.cur).iact = false :=
  ⟨⟨place .eret (fun c => { c with priv := true }) id id, _, issues_of (by decide), by decide⟩,
   ⟨place .eret (fun c => { c with iact := true }) id id, _, issues_of (by decide), by decide, by decide⟩,
   ⟨at_ .eret, _, issues_of (by decide), by decide, by decide⟩⟩

/-- In a DET context; in another after the window has closed; and at the first attempt. -/
theorem witness_Yield : (∃ (s s1 : State), Issues .yield { sys := true, wp := true } s s1 ∧ detOf s1 s.cur = true) ∧
    (∃ (s s1 : State) (w : Waiting), Issues .yield { sys := true, wp := true } s s1 ∧ detOf s1 s.cur = false ∧
      (coreAt s1 s.cur).wait = some w ∧ w.kind = .yield ∧ w.mark < unclosedWindow s1 s.cur) ∧
    ∃ (s s1 : State), Issues .yield { sys := true, wp := true } s s1 ∧ detOf s1 s.cur = false ∧ (coreAt s1 s.cur).wait = none :=
  ⟨⟨at_ .yield, _, issues_of (by decide), by decide⟩,
   ⟨place .yield (fun c => { c with wait := some { kind := .yield, cycles := 1, mark := 0, gated := false } }) nodet (fun u => { u with window := 1 }), _, _, issues_of (by decide), by decide, rfl, rfl, by decide⟩,
   ⟨place .yield id nodet id, _, issues_of (by decide), by decide, rfl⟩⟩

/-- Core 1 runs task 1 of the same wave and waits at an array join. -/
def joining (s : State) : State :=
  updCore s 1 fun c => { c with task := (coreAt s 0).task.map (fun t => { t with t := 1, c0 := 1 }), join := some (sampleJoin c false 0#32) }

/-- No core of the cluster waits at an array join; core 1 does. -/
theorem witness_TaskEndCompletes :
    (∃ (i : Instr) (sh : Shape) (s s1 : State),
      (i = .taskEnd ∧ sh = { sys := true } ∨ i = .cEnd ∧ sh = { len := 2, sys := true }) ∧ Issues i sh s s1 ∧
      pendingKind (coreAt s1 s.cur) .window = false ∧ (coreAt s1 s.cur).cmds = [] ∧ cardsOf s1 s.cur = [] ∧
      (coreAt s1 s.cur).afaults = [] ∧ (coreAt s1 s.cur).priv = false ∧
      ∀ m ∈ clusterCores (clusterOf s.cur), joinOf (coreAt (endTask s1 s.cur) m) false = none) ∧
    ∃ (i : Instr) (sh : Shape) (s s1 : State) (t : Task) (m : Nat),
      (i = .taskEnd ∧ sh = { sys := true } ∨ i = .cEnd ∧ sh = { len := 2, sys := true }) ∧ Issues i sh s s1 ∧
      pendingKind (coreAt s1 s.cur) .window = false ∧ (coreAt s1 s.cur).cmds = [] ∧ cardsOf s1 s.cur = [] ∧
      (coreAt s1 s.cur).afaults = [] ∧ (coreAt s1 s.cur).priv = false ∧ (coreAt s1 s.cur).task = some t ∧
      mayHold (endTask s1 s.cur) t s.cur = false ∧ (clusterCores (clusterOf s.cur)).filter (fun k =>
        holdsWave (endTask s1 s.cur) t k && (joinOf (coreAt (endTask s1 s.cur) k) false).isSome) = [m] :=
  ⟨⟨.taskEnd, _, at_ .taskEnd, _, .inl ⟨rfl, rfl⟩, issues_of (by decide), by decide, by decide, by decide, by decide, by decide, by decide⟩,
   ⟨.taskEnd, _, joining (at_ .taskEnd), _, _, 1, .inl ⟨rfl, rfl⟩, issues_of (by decide), by decide, by decide, by decide, by decide, by decide, rfl,
    by decide, by decide⟩⟩

/-- A record of tasks of which one has ended; a task of a wave that ran again, after which the core stood in wave 1. -/
theorem witness_TaskEndEffect : (∃ (s : State) (n : Nat) (t : Task) (x : Ctx) (u : Run),
    taskEnv s n = some (t, x, u) ∧ recNdone s t.ctx x t.ridx + 1 < 2 ^ 24 ∧
    recNdone s t.ctx x t.ridx + 1 ≠ tileCount (fun i => u.copy.getD i 0#32) ∧ t.after = []) ∧
    ∃ (s : State) (n : Nat) (t : Task) (x : Ctx) (u : Run), taskEnv s n = some (t, x, u) ∧ recNdone s t.ctx x t.ridx + 1 < 2 ^ 24 ∧
    recNdone s t.ctx x t.ridx + 1 ≠ tileCount (fun i => u.copy.getD i 0#32) ∧ t.after = [(1, true)] :=
  ⟨⟨at_ .taskEnd, 0, _, _, _, rfl, by decide, by decide, rfl⟩,
   ⟨place .taskEnd (fun c => { c with task := c.task.map (fun t => { t with after := [(1, true)] }) }) id id, 0, _, _, _, rfl, by decide, by decide, rfl⟩⟩

/-! ## Vectors, accesses and layouts -/

theorem witness_VectorCompletes : ∃ (i : Instr) (s s1 : State) (sh : Shape) (k : PKind) (l : BitVec 4) (hold : Core → Core) (f : Core → VRes),
    Spec.vecRow i = some (sh, k, l, hold, f) ∧ Issues i sh s s1 ∧ fpxOf (coreAt s1 s.cur).cr.fctl (f (coreAt s1 s.cur)) = none :=
  ⟨.vadd 3 1 2 vm2, at_ (.vadd 3 1 2 vm2), _, _, _, _, _, _, rfl, issues_of (by decide), by decide⟩

/-- A division by zero in every lane with that trap enabled. -/
theorem witness_VectorFpx : ∃ (i : Instr) (s s1 : State) (sh : Shape) (k : PKind) (l : BitVec 4) (hold : Core → Core) (f : Core → VRes) (r : TrapReq),
    Spec.vecRow i = some (sh, k, l, hold, f) ∧ Issues i sh s s1 ∧ fpxOf (coreAt s1 s.cur).cr.fctl (f (coreAt s1 s.cur)) = some r :=
  ⟨.vfdiv 3 1 2 0 0, place (.vfdiv 3 1 2 0 0) (fun c => wrV { c with cr := { c.cr with fctl := 0x1F0 } } 1 1#256) id id, _, _, _, _, _, _, _, rfl,
    issues_of (by decide), rfl⟩

theorem witness_VectorIntegerLanes : ∃ (i : Instr) (sh : Shape) (k : PKind) (l : BitVec 4) (hold : Core → Core) (f : Core → VRes) (d a b : Reg)
    (m : Vm) (g : Nat → Nat → Nat → Nat), Spec.vecRow i = some (sh, k, l, hold, f) ∧ Spec.laneRow i = some (d, a, b, m, g) :=
  ⟨.vadds 3 1 2 vm0, _, _, _, _, _, _, _, _, _, _, rfl, rfl⟩

theorem witness_VectorCompareBits : ∃ (i : Instr) (sh : Shape) (k : PKind) (l : BitVec 4) (hold : Core → Core) (f : Core → VRes) (d a b : Reg)
    (m : Vm) (g : Nat → Nat → Nat → Bool), Spec.vecRow i = some (sh, k, l, hold, f) ∧ Spec.compareRow i = some (d, a, b, m, g) ∧ m.w.toNat < 3 :=
  ⟨.vcmpLt 3 1 2 vm2, _, _, _, _, _, _, _, _, _, _, rfl, rfl, by decide⟩

theorem witness_PredicateResults : ∃ (i : Instr) (s s1 : State) (sh : Shape) (w : Write),
    Spec.predRow i (coreAt s1 s.cur) = some (sh, w) ∧ Issues i sh s s1 :=
  ⟨.pcount 4 1 2, at_ (.pcount 4 1 2), _, _, _, rfl, issues_of (by decide)⟩

/-- Lanes of FP32: 1.0, a NaN and zeros in v1, 2.0, 3.0 and zeros in v2; of p1 the first two lanes are active. -/
def floats : Core := wrP (wrV (wrV Core.reset 1 0x7FC000003F800000#256) 2 0x4040000040000000#256) 1 0xFF#32
def vm1 : Vm := ⟨0#2, 1#2, 0#1, 0#1⟩

/-- A fused product of finite lanes, of a NaN, and of an inactive lane; and a quotient. -/
theorem witness_VectorArithmetic :
    (∃ (sh : Shape) (k : PKind) (l : BitVec 4) (hold : Core → Core) (f : Core → VRes) (g : Int → Int → Int → Int → Int × Int) (p q t : Int),
      Spec.vecRow (.vfma 3 1 2 vm1) = some (sh, k, l, hold, f) ∧ Spec.arithRow (.vfma 3 1 2 vm1) = some (3, 1, 2, vm1, true, g) ∧ vm1.w.toNat < 3 ∧
      floats.cr.fctl.extractLsb' 0 4 = 0#4 ∧ (rdP floats 1).getLsbD 0 = true ∧ (rdP floats 1).getLsbD 8 = false ∧
      Spec.isNaN 8 23 (laneOf (rdV floats 1) 32 1) ∧ Spec.units 8 23 (laneOf (rdV floats 1) 32 0) = some p ∧
      Spec.units 8 23 (laneOf (rdV floats 2) 32 0) = some q ∧ Spec.units 8 23 (laneOf (rdV floats 3) 32 0) = some t) ∧
    ∃ (sh : Shape) (k : PKind) (l' : BitVec 4) (hold : Core → Core) (f : Core → VRes) (p q : Int),
      Spec.vecRow (.vfdiv 3 1 2 0 0) = some (sh, k, l', hold, f) ∧ (0#2 : BitVec 2).toNat < 3 ∧
      Spec.units 8 23 (laneOf (rdV floats 1) 32 0) = some p ∧ Spec.units 8 23 (laneOf (rdV floats 2) 32 0) = some q ∧ q ≠ 0 ∧
      Spec.isNaN 8 23 (laneOf (rdV floats 1) 32 1) :=
  ⟨⟨_, _, _, _, _, _, _, _, _, rfl, rfl, by decide, by decide, by decide, by decide, ⟨by decide, by decide⟩, rfl, rfl, rfl⟩,
   ⟨_, _, _, _, _, _, _, rfl, by decide, rfl, rfl, by decide, ⟨by decide, by decide⟩⟩⟩

theorem witness_VectorOrder :
    (∃ (sh : Shape) (k : PKind) (l : BitVec 4) (hold : Core → Core) (f : Core → VRes) (g : Int → Int → Int) (p q : Int),
      Spec.vecRow (.vfmin 3 1 2 vm1) = some (sh, k, l, hold, f) ∧ Spec.extremeRow (.vfmin 3 1 2 vm1) = some (3, 1, 2, vm1, g) ∧
      vm1.w.toNat < 3 ∧ floats.cr.fctl.getLsbD 2 = false ∧ (rdP floats 1).getLsbD 0 = true ∧ (rdP floats 1).getLsbD 8 = false ∧
      Spec.units 8 23 (laneOf (rdV floats 1) 32 0) = some p ∧ Spec.units 8 23 (laneOf (rdV floats 2) 32 0) = some q) ∧
    (∃ (sh : Shape) (k : PKind) (l : BitVec 4) (hold : Core → Core) (f : Core → VRes) (g : Int → Int → Bool),
      Spec.vecRow (.vfcmpLt 3 1 2 vm1) = some (sh, k, l, hold, f) ∧ Spec.orderRow (.vfcmpLt 3 1 2 vm1) = some (3, 1, 2, vm1, g)) ∧
    ∃ (sh : Shape) (k : PKind) (l : BitVec 4) (hold : Core → Core) (f : Core → VRes) (g : Nat → Nat → Nat),
      Spec.vecRow (.vfabs 3 1 vm1) = some (sh, k, l, hold, f) ∧ Spec.signRow (.vfabs 3 1 vm1) = some (3, 1, vm1, g) :=
  ⟨⟨_, _, _, _, _, _, _, _, rfl, rfl, by decide, by decide, by decide, by decide, rfl, rfl⟩, ⟨_, _, _, _, _, _, rfl, rfl⟩, ⟨_, _, _, _, _, _, rfl, rfl⟩⟩

/-- A permutation with an active lane and an inactive one; vext of lane 0. -/
theorem witness_VectorMoves :
    (∃ (sh : Shape) (k : PKind) (l : BitVec 4) (hold : Core → Core) (f : Core → VRes) (g : Nat → Nat → Nat → Nat) (o : Option Reg),
      Spec.vecRow (.vperm 3 1 2 vm1) = some (sh, k, l, hold, f) ∧ Spec.moveRow (.vperm 3 1 2 vm1) floats = some (3, vm1, g, o) ∧
      (rdP floats 1).getLsbD 0 = true ∧ (rdP floats 1).getLsbD 8 = false) ∧
    ∃ (sh : Shape) (k : PKind) (l : BitVec 4) (hold : Core → Core) (f : Core → VRes),
      Spec.vecRow (.vext 3 1 0 vm0) = some (sh, k, l, hold, f) ∧ (rdS floats 0).toNat < 256 / intWidth vm0.w :=
  ⟨⟨_, _, _, _, _, _, _, rfl, rfl, by decide, by decide⟩, ⟨_, _, _, _, _, rfl, by decide⟩⟩

/-- A narrowing of FP32 to BF16 in part 1, with FCTL clear, of a number; and one to E4M3 of a NaN. -/
theorem witness_VectorConversions : (∃ (sh : Shape) (k : PKind) (l : BitVec 4) (hold : Core → Core) (f : Core → VRes) (good : Nat → Nat → Prop) (u : Int),
    Spec.vecRow (.vcvtFN 3 1 2 1 vm0) = some (sh, k, l, hold, f) ∧ Spec.convRow (.vcvtFN 3 1 2 1 vm0) floats = some (3, 1, vm0, 1, 32, 16, good) ∧
    wellFormed (.vcvtFN 3 1 2 1 vm0) = true ∧
    floats.cr.fctl.extractLsb' 0 4 = 0#4 ∧ (rdP floats 0).getLsbD (2 * 8) = true ∧ Spec.partLane 8 16 1 8 = some 0 ∧ Spec.partLane 8 16 1 7 = none ∧
    Spec.units 8 23 (laneOf (rdV floats 1) 32 0) = some u) ∧
    ∃ (sh : Shape) (k : PKind) (l : BitVec 4) (hold : Core → Core) (f : Core → VRes) (good : Nat → Nat → Prop),
    Spec.vecRow (.vcvtFN 3 1 3 0 vm0) = some (sh, k, l, hold, f) ∧ Spec.convRow (.vcvtFN 3 1 3 0 vm0) floats = some (3, 1, vm0, 0, 32, 8, good) ∧
    wellFormed (.vcvtFN 3 1 3 0 vm0) = true ∧ Spec.isNaN 8 23 (laneOf (rdV floats 1) 32 1) :=
  ⟨⟨_, _, _, _, _, _, _, rfl, rfl, by decide, by decide, by decide, by decide, by decide, rfl⟩, ⟨_, _, _, _, _, _, rfl, rfl, by decide, by decide, by decide⟩⟩

/-- The codes of the formats of R131, R134 and R144: the largest numbers, and the conversions of the table of R144. -/
theorem test_formats : Spec.number 3 0x7E = some (448 * 2 ^ 9, 9) ∧ Spec.number 3 0x7F = none ∧ Spec.number 4 0x7B = some (57344 * 2 ^ 16, 16) ∧
    Spec.number 5 0x1F = some (28 * 2 ^ 4, 4) ∧ Spec.number 6 0x1F = some (60, 3) ∧ Spec.number 7 0x7 = some (12, 1) ∧ Spec.number 8 0x00 = some (256, 7) ∧
    Spec.number 8 0x24 = some (40, 7) := by decide

/-- Active lanes that are finite or NaN, for the reductions of v1; and lanes that are not active. -/
theorem witness_VectorReductions : (∃ (sh : Shape) (k : PKind) (l : BitVec 4) (hold : Core → Core) (f : Core → VRes),
      Spec.vecRow (.vfredmax 4 1 vm1) = some (sh, k, l, hold, f) ∧ vm1.w.toNat < 3 ∧
      (∀ j ∈ (List.range 8).filter (fun j => (rdP floats 1).getLsbD (4 * j)), Spec.isNaN 8 23 (laneOf (rdV floats 1) 32 j) ∨
        ((Spec.units 8 23 (laneOf (rdV floats 1) 32 j)).map (· * 2 ^ 0)).isSome = true)) ∧
    (∃ (sh : Shape) (k : PKind) (l : BitVec 4) (hold : Core → Core) (f : Core → VRes), Spec.vecRow (.vfredsum 4 1 vm1) = some (sh, k, l, hold, f)) ∧
    (∃ (sh : Shape) (k : PKind) (l : BitVec 4) (hold : Core → Core) (f : Core → VRes), Spec.vecRow (.vredsum 4 1 vm1) = some (sh, k, l, hold, f)) ∧
    ∃ (sh : Shape) (k : PKind) (l : BitVec 4) (hold : Core → Core) (f : Core → VRes), Spec.vecRow (.vredmax 4 1 vm1) = some (sh, k, l, hold, f) :=
  ⟨⟨_, _, _, _, _, rfl, by decide, fun j h => by
      have h : j ∈ [0, 1] := h
      fin_cases h
      · exact .inr (by decide)
      · exact .inl ⟨by decide, by decide⟩⟩,
   ⟨_, _, _, _, _, rfl⟩, ⟨_, _, _, _, _, rfl⟩, ⟨_, _, _, _, _, rfl⟩⟩

/-- A class; the root, the reciprocal and the rest of 1.0; a Gaussian sample. -/
theorem witness_VectorFunctions : (∃ (sh : Shape) (k : PKind) (l : BitVec 4) (hold : Core → Core) (f : Core → VRes),
      Spec.vecRow (.vfclass 3 1 vm1) = some (sh, k, l, hold, f) ∧ vm1.w.toNat < 3) ∧
    (∃ (sh : Shape) (k : PKind) (l' : BitVec 4) (hold : Core → Core) (f : Core → VRes) (p : Int),
      Spec.vecRow (.vfsqrt 3 1 0 0) = some (sh, k, l', hold, f) ∧ floats.cr.fctl.extractLsb' 0 4 = 0#4 ∧
      Spec.units 8 23 (laneOf (rdV floats 1) 32 0) = some p ∧ 0 < p) ∧
    (∃ (sh : Shape) (k : PKind) (l' : BitVec 4) (hold : Core → Core) (f : Core → VRes) (g : Nat → Nat → Prop),
      Spec.vecRow (.vexp2a 3 1 1 0) = some (sh, k, l', hold, f) ∧ Spec.approxRow (.vexp2a 3 1 1 0) = some (3, 1, 1, g) ∧ (1#2 : BitVec 2).toNat < 3) ∧
    ∃ (sh : Shape) (k : PKind) (l' : BitVec 4) (hold : Core → Core) (f : Core → VRes), Spec.vecRow (.vgauss 3 1 5 0) = some (sh, k, l', hold, f) :=
  ⟨⟨_, _, _, _, _, rfl, by decide⟩, ⟨_, _, _, _, _, _, rfl, by decide, rfl, by decide⟩, ⟨_, _, _, _, _, _, rfl, rfl, by decide⟩, ⟨_, _, _, _, _, rfl⟩⟩

/-- A load and a store of plain elements of the core's own slice. -/
theorem witness_AccessCompletes :
    (∃ (i : Instr) (A : Spec.Acc) (s s1 : State) (t : Task) (x : Ctx) (u : Run),
      Spec.accRow i = some A ∧ Issues i (accShape A.k A.vec A.d A.a A.b A.h) s s1 ∧ taskEnv s1 s.cur = some (t, x, u) ∧
      Spec.AccFree s1 A (Spec.env s1 t x u) ∧ A.k.load = true) ∧
    ∃ (i : Instr) (A : Spec.Acc) (s s1 : State) (t : Task) (x : Ctx) (u : Run),
      Spec.accRow i = some A ∧ Issues i (accShape A.k A.vec A.d A.a A.b A.h) s s1 ∧ taskEnv s1 s.cur = some (t, x, u) ∧
      Spec.AccFree s1 A (Spec.env s1 t x u) ∧ A.k.load = false :=
  ⟨⟨.vld 3 1 0 0 0, _, withLayouts (.vld 3 1 0 0 0) id, _, _, _, _, rfl, issues_of (by decide), rfl,
     ⟨⟨⟨by decide, by decide, by decide, by decide, by decide, by decide, fun _ _ _ _ h => absurd h (by decide)⟩, fun _ => rfl⟩, by decide, trivial,
       by decide⟩, rfl⟩,
   ⟨.st 3 1 0 0 0, _, withLayouts (.st 3 1 0 0 0) id, _, _, _, _, rfl, issues_of (by decide), rfl,
     ⟨⟨⟨by decide, by decide, by decide, by decide, by decide, by decide, fun _ _ h => absurd h (by decide)⟩, fun h => absurd h (by decide)⟩, by decide,
       trivial, by decide⟩, rfl⟩⟩

theorem witness_AccessLayoutTrap : ∃ (i : Instr) (A : Spec.Acc) (s s1 : State) (t : Task) (x : Ctx) (u : Run) (r : TrapReq),
    Spec.accRow i = some A ∧ Issues i (accShape A.k A.vec A.d A.a A.b A.h) s s1 ∧ taskEnv s1 s.cur = some (t, x, u) ∧
    accLayout (Spec.env s1 t x u) A.k (A.entry (Spec.env s1 t x u))
      (accCoords (Spec.env s1 t x u) A.k A.vec (A.entry (Spec.env s1 t x u)) A.a A.b) = some r :=
  ⟨.ld 3 1 0 0 0, _, withLayouts (.ld 3 1 0 0 0) (regs [(1, 64)]), _, _, _, _, _, rfl, issues_of (by decide), rfl, rfl⟩

theorem witness_LayoutControl : (∃ (s s1 : State) (t : Task) (x : Ctx) (u : Run), taskEnv s1 s.cur = some (t, x, u) ∧
      Issues (.layRd 3 2 0 0) { names := [nH 0, nS 3] } s s1) ∧
    (∃ (s s1 : State) (t : Task) (x : Ctx) (u : Run), taskEnv s1 s.cur = some (t, x, u) ∧ Issues (.layWr 3 9 0 0) { names := [nH 0, nS 3] } s s1) ∧
    ∃ (s s1 : State) (t : Task) (x : Ctx) (u : Run), taskEnv s1 s.cur = some (t, x, u) ∧
      Issues (.laySel 3 1 2 6 0) { names := [nH 6, nS 3, nS 1, nS 2] } s s1 ∧ entryOk (Spec.env s1 t x u) (handleEntry (Spec.env s1 t x u) 6) = true :=
  ⟨⟨withLayouts (.layRd 3 2 0 0) id, _, _, _, _, rfl, issues_of (by decide)⟩,
   ⟨withLayouts (.layWr 3 9 0 0) id, _, _, _, _, rfl, issues_of (by decide)⟩,
   ⟨withLayouts (.laySel 3 1 2 6 0) (regs [(1, 4), (2, 5)]), _, _, _, _, rfl, issues_of (by decide), by decide⟩⟩

theorem witness_ReclaimCompletes : ∃ (s s1 : State) (a h : Reg) (l : BitVec 4) (t : Task) (x : Ctx) (u : Run) (m : Nat),
    taskEnv s1 s.cur = some (t, x, u) ∧ Issues (.reclaim a h l) { names := [nH h, nS a] } s s1 ∧
    entryOk (Spec.env s1 t x u) (handleEntry (Spec.env s1 t x u) h.toNat) = true ∧ (handleEntry (Spec.env s1 t x u) h.toNat).ver = true ∧
    homeOf x s.cur (handleEntry (Spec.env s1 t x u) h.toNat) ≠ .bad ∧
    groupIndex x (handleEntry (Spec.env s1 t x u) h.toNat).group (prel x s.cur) = some m ∧
    m < (handleEntry (Spec.env s1 t x u) h.toNat).readers ∧
    clusterOf (logical x (handleEntry (Spec.env s1 t x u) h.toNat).prod) = clusterOf s.cur ∧
    m ∉ (rtrackOf x (handleEntry (Spec.env s1 t x u) h.toNat).num).rmask ∧
    ((rdS (coreAt s1 s.cur) a.toNat).toNat % 128 + 128 - (rtrackOf x (handleEntry (Spec.env s1 t x u) h.toNat).num).rver % 128) % 128 = 1 :=
  ⟨place (.reclaim 3 3 0) (regs [(3, 1)]) oneGroup laid, _, 3, 3, 0, _, _, _, 0, rfl, issues_of (by decide), by decide, by decide, by decide, by decide, by decide,
    by decide, by decide, by decide⟩

/-- A store to a line that its own phase has read, and one that nothing forbids; of entry 0 in group 0. -/
def stamped (w : Word) : State := { place (.st 3 1 0 0 0) id oneGroup laid with conf := if w = 0#32 then [] else [(0, w)] }

theorem witness_AccessConflicts :
    (∃ (A : Spec.Acc) (s1 : State) (t : Task) (x : Ctx) (u : Run), Spec.accRow (.st 3 1 0 0 0) = some A ∧
      Issues (.st 3 1 0 0 0) (accShape A.k A.vec A.d A.a A.b A.h) (stamped 0x8000#32) s1 ∧ taskEnv s1 0 = some (t, x, u) ∧
      A.stamp (Spec.env s1 t x u) 0 0x8000#16 ∧ Spec.AccReached s1 A (Spec.env s1 t x u) ∧
      (A.bytes (Spec.env s1 t x u)).find? (fun b => decide (A.half (sget 0#32 s1.conf (A.line (Spec.env s1 t x u) 0 b)) = 0x8000#16)) = some 0) ∧
    ∃ (A : Spec.Acc) (s1 r : State) (t : Task) (x : Ctx) (u : Run), Spec.accRow (.st 3 1 0 0 0) = some A ∧
      Issues (.st 3 1 0 0 0) (accShape A.k A.vec A.d A.a A.b A.h) (stamped 0#32) s1 ∧ taskEnv s1 0 = some (t, x, u) ∧
      A.stamp (Spec.env s1 t x u) 0 0x8000#16 ∧ Spec.AccFree s1 A (Spec.env s1 t x u) ∧ exec (.st 3 1 0 0 0) (stamped 0#32) = .next r :=
  ⟨⟨_, _, _, _, _, rfl, issues_of (by decide), rfl, ⟨by decide, by decide, 0#16, true, by decide, by decide⟩,
     ⟨⟨by decide, by decide, by decide, by decide, by decide, by decide, fun _ _ h => absurd h (by decide)⟩, fun h => absurd h (by decide)⟩, by decide⟩,
   ⟨_, _, _, _, _, _, rfl, issues_of (by decide), rfl, ⟨by decide, by decide, 0#16, true, by decide, by decide⟩,
     ⟨⟨⟨by decide, by decide, by decide, by decide, by decide, by decide, fun _ _ h => absurd h (by decide)⟩, fun h => absurd h (by decide)⟩, by decide, trivial,
       by decide⟩, rfl⟩⟩

/-- A load of a poisoned granule; a vector store over one. -/
theorem witness_AccessPoison :
    (∃ (A : Spec.Acc) (s s1 : State) (t : Task) (x : Ctx) (u : Run), Spec.accRow (.ld 3 1 0 0 0) = some A ∧
      Issues (.ld 3 1 0 0 0) (accShape A.k A.vec A.d A.a A.b A.h) s s1 ∧ taskEnv s1 s.cur = some (t, x, u) ∧
      A.home (Spec.env s1 t x u) = .slice 0 ∧ A.k.load = true ∧ Spec.AccReached s1 A (Spec.env s1 t x u) ∧ Spec.metaReady s1 A (Spec.env s1 t x u) ∧
      0 ∈ A.bytes (Spec.env s1 t x u) ∧ A.poisoned s1 (Spec.env s1 t x u) 0 0) ∧
    ∃ (A : Spec.Acc) (s s1 r : State) (t : Task) (x : Ctx) (u : Run), Spec.accRow (.vst 3 1 0 0 0) = some A ∧
      Issues (.vst 3 1 0 0 0) (accShape A.k A.vec A.d A.a A.b A.h) s s1 ∧ taskEnv s1 s.cur = some (t, x, u) ∧
      A.home (Spec.env s1 t x u) = .slice 0 ∧ A.k.load = false ∧ Spec.AccFree s1 A (Spec.env s1 t x u) ∧ exec (.vst 3 1 0 0 0) s = .next r ∧
      A.whole (Spec.env s1 t x u) 0 :=
  ⟨⟨_, { withLayouts (.ld 3 1 0 0 0) id with poison := [0] }, _, _, _, _, rfl, issues_of (by decide), rfl, by decide, rfl,
     ⟨⟨by decide, by decide, by decide, by decide, by decide, by decide, fun _ _ _ _ h => absurd h (by decide)⟩, fun _ => rfl⟩, trivial, by decide,
     by unfold Spec.Acc.poisoned; decide⟩,
   ⟨_, { withLayouts (.vst 3 1 0 0 0) id with poison := [0] }, _, _, _, _, _, rfl, issues_of (by decide), rfl, by decide, rfl,
     ⟨⟨⟨by decide, by decide, by decide, by decide, by decide, by decide, fun _ _ h => absurd h (by decide)⟩, fun h => absurd h (by decide)⟩, by decide, trivial,
       by decide⟩, rfl, by unfold Spec.Acc.whole; decide⟩⟩

/-! ## Synchronization -/

/-- A non-DET context and a post form in a DET one. -/
theorem witness_AtomicsComplete :
    (∃ (i : Instr) (A : Spec.Atomic) (s s1 : State) (t : Task) (x : Ctx) (u : Run) (p : Spot),
      Spec.atomicRow i = some A ∧ Issues i A.shape s s1 ∧ taskEnv s1 s.cur = some (t, x, u) ∧
      spotOf (Spec.env s1 t x u) (plainForm A.fmts) A.h A.a = .inr p ∧ Spec.SpotFree s1 (Spec.env s1 t x u) p true true ∧ x.det = false) ∧
    ∃ (i : Instr) (A : Spec.Atomic) (s s1 : State) (t : Task) (x : Ctx) (u : Run) (p : Spot),
      Spec.atomicRow i = some A ∧ Issues i A.shape s s1 ∧ taskEnv s1 s.cur = some (t, x, u) ∧
      spotOf (Spec.env s1 t x u) (plainForm A.fmts) A.h A.a = .inr p ∧ Spec.SpotFree s1 (Spec.env s1 t x u) p true true ∧
      A.post = true ∧ remoteHome s.cur p.home = false ∧ conflictGuard s1 (Spec.env s1 t x u) p.e p.home [p.a] true = none :=
  ⟨⟨.amoCas 5 4 1 0, _, place (.amoCas 5 4 1 0) id nodet laid, _, _, _, _, _, rfl, issues_of (by decide), rfl, rfl,
     ⟨by decide, by decide, by decide, by decide⟩, rfl⟩,
   ⟨.amoAdd 5 4 1 1 0, _, withLayouts (.amoAdd 5 4 1 1 0) id, _, _, _, _, _, rfl, issues_of (by decide), rfl, rfl,
     ⟨by decide, by decide, by decide, by decide⟩, rfl, by decide, by decide⟩⟩

theorem witness_TicketedComplete : ∃ (i : Instr) (op : TOp) (fmts : Option (List Nat)) (d a h : Reg) (l : BitVec 4) (s s1 s2 : State) (t : Task)
    (x : Ctx) (u : Run) (p : Spot),
    Spec.ticketRow i = some (op, fmts, d, a, h, l) ∧ Issues i (amoPair d a h) s s1 ∧ taskEnv s1 s.cur = some (t, x, u) ∧
    spotOf (Spec.env s1 t x u) (ticketForm fmts) h a = .inr p ∧ remoteHome (Spec.env s1 t x u).n p.home = false ∧
    bothMembers (Spec.env s1 t x u) p.e p.home = true ∧ lockGuard s1 (Spec.env s1 t x u) p.e p.home [p.a] true = none ∧
    carried (Spec.env s1 t x u) p.e (remoteHome (Spec.env s1 t x u).n p.home) = some (0, true) ∧
    conflictByte s1 p.e p.core [p.a] true (stampOf 0) = none ∧
    field (rdS (Spec.env s1 t x u).c (d.toNat + 1)) 15 0 < p.e.round ∧ arrive s1 (Spec.arrival (Spec.env s1 t x u) op d p) = .taken s2 :=
  ⟨.tamoOr 6 3 4 0, _, _, _, _, _, _, place (.tamoOr 6 3 4 0) (regs [(6, 5)]) oneGroup laid, _, _, _, _, _, _, rfl, issues_of (by decide), rfl, rfl,
    by decide, by decide, by decide, by decide, by decide, by decide, taken_of (by decide)⟩

/-- Update i of round q, of rounds of n, to granule 0 of core 0. -/
def update (q i n : Nat) : Arrival :=
  { home := 0, gran := 0, bitAdr := 0, bankp := 0xFAC688, fmt := 5, q := q, i := i, n := n, op := .or, x := 1, replay := false }

/-- Core 0 changed. -/
def core0 (f : Core → Core) : State := updCore State.reset 0 f

/-- An update that is past, the next one, one ahead of its turn with room, and one with none. -/
theorem witness_TicketArrival : 128 ≤ ((update 0 0 2).q + 256 - roundOf { State.reset with gmeta := [(0, 1#8)] } (update 0 0 2).key) % 256 ∧
    ((update 0 0 2).i = expectedIdx State.reset (update 0 0 2).key ∧ bankTrackers State.reset 0 0 < 16) ∧
    ((update 0 1 2).i ≠ expectedIdx State.reset (update 0 1 2).key ∧ bankHeld State.reset 0 0 < 48) ∧
    48 ≤ bankHeld (core0 (fun c => { c with rob := List.replicate 48 (update 0 5 9) })) 0 0 := by decide

/-- An update that is not the last of its round, and one that is. -/
theorem witness_TicketApplied :
    (∃ (s s' : State) (a : Arrival) (k : Tracker), trackerOf s a.home a.gran = some k ∧ anyHeld s a.home a.gran = false ∧ a.gran < 2 ^ 17 ∧
      a.q = roundOf s a.key ∧ a.i = k.next ∧ arrive s a = .taken s' ∧ a.i + 1 ≠ k.n) ∧
    ∃ (s s' : State) (a : Arrival) (k : Tracker), trackerOf s a.home a.gran = some k ∧ anyHeld s a.home a.gran = false ∧ a.gran < 2 ^ 17 ∧
      a.q = roundOf s a.key ∧ a.i = k.next ∧ arrive s a = .taken s' ∧ a.i + 1 = k.n :=
  ⟨⟨core0 (fun c => { c with trackers := [{ gran := 0, n := 2, next := 0 }] }), _, update 0 0 2, _, rfl, by decide, by decide, by decide, rfl,
     taken_of (by decide), by decide⟩,
   ⟨core0 (fun c => { c with trackers := [{ gran := 0, n := 2, next := 1 }] }), _, update 0 1 2, _, rfl, by decide, by decide, by decide, rfl,
     taken_of (by decide), by decide⟩⟩

/-- No tracker holds a granule and no update is held, so every granule has passed the round that is named. -/
theorem witness_TfenceCompletes : ∃ (s s1 : State) (a h : Reg) (t : Task) (x : Ctx) (u : Run) (core : Nat),
    taskEnv s1 s.cur = some (t, x, u) ∧ Issues (.tfence a h) { names := [nH h, nS a] } s s1 ∧
    entryOk (Spec.env s1 t x u) (handleEntry (Spec.env s1 t x u) h.toNat) = true ∧ (handleEntry (Spec.env s1 t x u) h.toNat).tkt = true ∧
    homeOf x s.cur (handleEntry (Spec.env s1 t x u) h.toNat) = .slice core ∧ (coreAt s1 core).trackers = [] ∧ (coreAt s1 core).rob = [] :=
  ⟨place (.tfence 0 4) id oneGroup laid, _, 0, 4, _, _, _, _, rfl, issues_of (by decide), by decide, by decide, rfl, by decide, by decide⟩

theorem witness_AnnouncedComplete : ∃ (i : Instr) (op : AnnOp) (fmts : List Nat) (d a h : Reg) (s s1 : State) (t : Task) (x : Ctx) (u : Run) (p : Spot),
    Spec.annRow i = some (op, fmts, d, a, h) ∧ Issues i (amoShape d a h) s s1 ∧ taskEnv s1 s.cur = some (t, x, u) ∧
    spotOf (Spec.env s1 t x u) (plainForm fmts) h a = .inr p ∧ Spec.SpotFree s1 (Spec.env s1 t x u) p true false :=
  ⟨.annAmoAdd 5 2 1 0, _, _, _, _, _, withLayouts (.annAmoAdd 5 2 1 0) id, _, _, _, _, _, rfl, issues_of (by decide), rfl, rfl,
    ⟨by decide, by decide, by decide, by decide⟩⟩

/-- Core 0 of group 0, which has two members, so that an arrival does not end the phase. -/
def member (i : Instr) (f : Core → Core) : State :=
  place i (fun c => f { c with cr := { c.cr with grp := c.cr.grp.setIfInBounds 0 0x80000000 } }) (withGroup 2) laid

theorem witness_BarriersComplete : ∃ (s1 s2 s3 s4 : State) (t : Task) (x : Ctx) (u : Run), taskEnv s1 0 = some (t, x, u) ∧
    Spec.groupReg (coreAt s1 0) 0 = some 0 ∧
    Issues (.barArr 5 0 0) { names := [nS 5, nGrp 0], bytes := groupBytes 0 } (member (.barArr 5 0 0) id) s1 ∧ (coreAt s1 0).cmds = [] ∧
    (coreAt s1 0).afaults = [] ∧ phaseOf x 0 (prel x 0) = releaseOf x 0 ∧
    Issues (.barWait 5 0) { names := [nS 5, nGrp 0], wp := true, bytes := groupBytes 0 } (member (.barWait 5 0) id) s2 ∧
    (releaseOf x 0 - (rdS (coreAt s2 0) 5).extractLsb' 0 16).toNat < 2 ^ 15 ∧
    Issues (.barSync 5 0) { names := [nS 5, nGrp 0], wp := true, bytes := groupBytes 0 }
      (member (.barSync 5 0) (fun c => { c with arrived := [(false, 0#32)] })) s3 ∧ ((coreAt s3 0).priv, (coreAt s3 0).pc) ∈ (coreAt s3 0).arrived ∧
    (releaseOf x 0 - phaseOf x 0 (prel x 0)).toNat < 2 ^ 15 ∧
    Issues (.barPhase 5 0 0) { names := [nS 5, nGrp 0], bytes := groupBytes 0 } (member (.barPhase 5 0 0) id) s4 :=
  ⟨_, _, _, _, _, _, _, rfl, by decide, issues_of (by decide), by decide, by decide, by decide, issues_of (by decide), by decide,
    issues_of (by decide), by decide, by decide, issues_of (by decide)⟩

/-- Core 0 with s3 at n, its cluster changed. -/
def clustered (i : Instr) (r n : Word) (f : Cluster → Cluster) : State := updCluster (place i (regs [(3, r), (4, n)]) id laid) 0 f

/-- A signal without a threshold, one that is parked, and a wait whose count is reached. -/
theorem witness_EventsComplete : ∃ (s1 s2 s3 : State) (t : Task) (x : Ctx) (u : Run), taskEnv s1 0 = some (t, x, u) ∧
    Issues (.evSig 3 0 0) { names := [nS 3, nS 0] } (clustered (.evSig 3 0 0) 0 0 id) s1 ∧
    clBase (fun k => u.copy.getD k 0#32) ≤ 0 ∧ 0 < clBase (fun k => u.copy.getD k 0#32) + clCount (fun k => u.copy.getD k 0#32) ∧
    Issues (.evSig 3 4 0) { names := [nS 3, nS 4] } (clustered (.evSig 3 4 0) 0 0x00010000 id) s2 ∧
    ¬(tgetD (clusterAt s2 0).events 0 0#16 - BitVec.ofNat 16 1).toNat < 2 ^ 15 ∧ (clusterAt s2 0).parked.length < 8 ∧
    Issues (.evWait 3) { names := [nS 3], wp := true } (clustered (.evWait 3) 0 0 id) s3 ∧
    (tgetD (clusterAt s3 0).events 0 0#16 - BitVec.ofNat 16 0).toNat < 2 ^ 15 :=
  ⟨_, _, _, _, _, _, rfl, issues_of (by decide), by decide, by decide, issues_of (by decide), by decide, by decide, issues_of (by decide), by decide⟩

theorem witness_EventLanding : ∃ (s : State) (g : Signal), (clusterAt s s.input.who).flying[s.input.sub]? = some g ∧
    (clusterAt s s.input.who).holder = some (0, 0) ∧ (ctxAt s 0).map moving = some true :=
  ⟨clustered (.evWait 3) 0 0 (fun k => { k with flying := [⟨0, 5, 0, 0⟩] }), _, rfl, by decide, by decide⟩

/-- The test of core 0's wait, which its home bank has found to hold. -/
def metTest : CountTest := { home := 0, bitAdr := 0, bankp := 0xFAC688, thresh := 0, met := true }

/-- Outside a DET context at once, and after its home bank has found it so; in one after a window close. -/
theorem witness_CountedWait :
    (∃ (s s1 : State) (a b h : Reg) (t : Task) (x : Ctx) (u : Run) (p : Spot), taskEnv s1 s.cur = some (t, x, u) ∧
      Issues (.waitCnt a b h) { names := [nH h, nS a, nS b], wp := true, bytes := packedBytes h a } s s1 ∧
      spotOf (Spec.env s1 t x u) (plainForm [fmtINT32]) h a = .inr p ∧ x.det = false ∧ (coreAt s1 s.cur).cwait = none ∧
      Spec.SpotFree s1 (Spec.env s1 t x u) p false false ∧ (word (Spec.elem s1 p 32) - rdS (coreAt s1 s.cur) b.toNat).toNat < 2 ^ 31) ∧
    (∃ (s s1 : State) (a b h : Reg) (t : Task) (x : Ctx) (u : Run) (p : Spot) (q : CountTest), taskEnv s1 s.cur = some (t, x, u) ∧
      Issues (.waitCnt a b h) { names := [nH h, nS a, nS b], wp := true, bytes := packedBytes h a } s s1 ∧
      spotOf (Spec.env s1 t x u) (plainForm [fmtINT32]) h a = .inr p ∧ x.det = false ∧ (coreAt s1 s.cur).cwait = none ∧
      tget s1.counting s.cur = some q ∧ q.met = true) ∧
    ∃ (s s1 : State) (a b h : Reg) (t : Task) (x : Ctx) (u : Run) (p : Spot) (q : CountWait) (w : Nat), taskEnv s1 s.cur = some (t, x, u) ∧
      Issues (.waitCnt a b h) { names := [nH h, nS a, nS b], wp := true, bytes := packedBytes h a } s s1 ∧
      spotOf (Spec.env s1 t x u) (plainForm [fmtINT32]) h a = .inr p ∧ (coreAt s1 s.cur).cwait = some q ∧ q.res = some (.pass w) ∧ q.ready = true :=
  ⟨⟨place (.waitCnt 3 7 1) id nodet laid, _, 3, 7, 1, _, _, _, _, rfl, issues_of (by decide), rfl, rfl, by decide,
     ⟨by decide, by decide, by decide, by decide⟩, by decide⟩,
   ⟨{ place (.waitCnt 3 7 1) id nodet laid with counting := [(0, metTest)] }, _, 3, 7, 1, _, _, _, _, _, rfl, issues_of (by decide), rfl, rfl, by decide, rfl, rfl⟩,
   ⟨withLayouts (.waitCnt 3 7 1) (fun c => { c with cwait := some ⟨0, 0, 0, 0xFAC688, 0, true, some (.pass 0), true⟩ }), _, 3, 7, 1, _, _, _, _, _, _, rfl,
     issues_of (by decide), rfl, rfl, rfl, rfl⟩⟩

/-- A free word that is locked, and a held one that is unlocked. -/
theorem witness_MutexesComplete :
    (∃ (s s1 : State) (t : Task) (x : Ctx) (u : Run) (p : Spot), taskEnv s1 s.cur = some (t, x, u) ∧ x.det = false ∧
      spotOf (Spec.env s1 t x u) (plainForm [fmtINT32]) 1 3 = .inr p ∧ Spec.SpotFree s1 (Spec.env s1 t x u) p true false ∧
      Issues (.mtxLock 3 1) { names := [nH 1, nS 3], bytes := packedBytes 1 3 } s s1 ∧ word (Spec.elem s1 p 32) = 0#32 ∧
      (coreAt s1 p.core).mutexq = []) ∧
    ∃ (s s1 : State) (t : Task) (x : Ctx) (u : Run) (p : Spot), taskEnv s1 s.cur = some (t, x, u) ∧ x.det = false ∧
      spotOf (Spec.env s1 t x u) (plainForm [fmtINT32]) 1 3 = .inr p ∧ Spec.SpotFree s1 (Spec.env s1 t x u) p true false ∧
      Issues (.mtxUnlock 3 1 0) { names := [nH 1, nS 3], bytes := packedBytes 1 3 } s s1 ∧ field (word (Spec.elem s1 p 32)) 29 24 = t.ctx ∧
      (word (Spec.elem s1 p 32)).getLsbD 31 = true ∧ field (word (Spec.elem s1 p 32)) 15 0 = prel x s.cur :=
  ⟨⟨place (.mtxLock 3 1) id nodet laid, _, _, _, _, _, rfl, rfl, rfl, ⟨by decide, by decide, by decide, by decide⟩, issues_of (by decide),
     by decide, by decide⟩,
   ⟨{ place (.mtxUnlock 3 1 0) id nodet laid with slice := [(3, 0x80#8)] }, _, _, _, _, _, rfl, rfl, rfl, ⟨by decide, by decide, by decide, by decide⟩,
     issues_of (by decide), by decide, by decide, by decide⟩⟩

theorem witness_FencesComplete : ∃ (i : Instr) (s s1 : State), (i = .fenceT ∨ i = .fenceC ∨ i = .fenceG) ∧ Issues i { sys := true } s s1 :=
  ⟨.fenceT, at_ .fenceT, _, .inl rfl, issues_of (by decide)⟩

/-- A step of the module with context 0's run at window count n of core 0. -/
def counted (n : Nat) : State := place (.add 1 1 1) (fun c => { c with count := n }) id id

theorem witness_WindowClose : (∃ (s : State) (x : Ctx) (u : Run), ctxAt s s.input.who = some x ∧ runAt x s.input.sub = some u ∧ windowReady s x u = true) ∧
    ∃ (s : State) (x : Ctx) (u : Run), ctxAt s s.input.who = some x ∧ runAt x s.input.sub = some u ∧ windowReady s x u = false :=
  ⟨⟨counted 100000, _, _, rfl, rfl, by decide⟩, ⟨counted 0, _, _, rfl, rfl, by decide⟩⟩

/-- A core that has waited n cycles in the way k. -/
def waiting (k : WaitKind) (n : Nat) (c : Core) : Core := { c with wait := some { kind := k, cycles := n, gated := false } }

/-- A stall at a window that may not be issued in, one for a result, one of a trap for its entry, and a core that has none of it. -/
theorem witness_QuantumDeadlock :
    (∃ (s : State) (t : Task) (x : Ctx) (u : Run) (w : Waiting), taskEnv s s.input.who = some (t, x, u) ∧ (coreAt s s.input.who).wait = some w ∧
      mayGoOn s s.input.who = true ∧ x.det = true ∧ (coreAt s s.input.who).priv = false ∧ w.kind = .window ∧ (coreAt s s.input.who).trap = none ∧
      u.window + 2 ≤ (coreAt s s.input.who).count / (coreAt s s.input.who).cr.quant.toNat ∧ (coreAt s s.input.who).cr.qwd.toNat ≤ w.cycles) ∧
    (∃ (s : State) (t : Task) (x : Ctx) (u : Run) (w : Waiting) (p : Pending), taskEnv s s.input.who = some (t, x, u) ∧
      (coreAt s s.input.who).wait = some w ∧ mayGoOn s s.input.who = true ∧ x.det = true ∧ (coreAt s s.input.who).priv = false ∧
      w.kind = .windowResult ∧ (coreAt s s.input.who).trap = none ∧ nS 5 ∈ w.need ∧ p ∈ (coreAt s s.input.who).inflight ∧ p.done = false ∧ p.kind = .window ∧ nS 5 ∈ p.regs ∧
      (coreAt s s.input.who).cr.qwd.toNat ≤ w.cycles) ∧
    (∃ (s : State) (t : Task) (x : Ctx) (u : Run) (w : Waiting) (p : Pending), taskEnv s s.input.who = some (t, x, u) ∧
      (coreAt s s.input.who).wait = some w ∧ mayGoOn s s.input.who = true ∧ x.det = true ∧ (coreAt s s.input.who).priv = false ∧
      w.kind = .windowResult ∧ (coreAt s s.input.who).trap ≠ none ∧ p ∈ (coreAt s s.input.who).inflight ∧ p.done = false ∧ p.kind = .window ∧
      (coreAt s s.input.who).count < (p.win + 1) * (coreAt s s.input.who).cr.quant.toNat ∧ (coreAt s s.input.who).cr.qwd.toNat ≤ w.cycles) ∧
    ∃ (s : State) (t : Task) (x : Ctx) (u : Run) (w : Waiting), taskEnv s s.input.who = some (t, x, u) ∧ (coreAt s s.input.who).wait = some w ∧
      x.det = false :=
  ⟨⟨place (.add 1 1 1) (fun c => { c with count := 100000, wait := some { kind := .window, cycles := 100000000, gated := false } }) id id, _, _, _, _, rfl, rfl,
     by decide, rfl, by decide, rfl, rfl, by decide, by decide⟩,
   ⟨place (.add 1 1 1) (fun c => { c with inflight := [windowResult], wait := some { kind := .windowResult, cycles := 100000000, need := [nS 5], gated := false } }) id id,
     _, _, _, _, windowResult, rfl, rfl, by decide, rfl, by decide, rfl, rfl, by decide, by decide, rfl, rfl, by decide, by decide⟩,
   ⟨place (.add 1 1 1) (fun c => { waiting .windowResult 100000000 c with inflight := [windowResult], trap := some { cause := .trap, info := 7 } }) id id,
     _, _, _, _, windowResult, rfl, rfl, by decide, rfl, by decide, rfl, by decide, by decide, rfl, rfl, by decide, by decide⟩,
   ⟨place (.add 1 1 1) (fun c => { c with wait := some { kind := .window, cycles := 1, gated := false } }) nodet id, _, _, _, _, rfl, rfl, rfl⟩⟩

/-! ## Engines and the array -/

/-- Shadow registers of engine g. -/
def shadows (g : Nat) (l : List (Nat × Word)) (c : Core) : Core := { c with shadow := l.foldl (fun t e => tset t (16 * g + e.1) e.2) c.shadow }

/-- A block that copies the 2 by 2 tile of entry 11 to entry 12. -/
def copyBlock : Core → Core := shadows 0 [(0, 11), (1, 12), (8, 2), (9, 2), (10, 0x00010001)]

theorem witness_EngineRegisters : ∃ (s1 s2 s3 s4 : State) (t : Task) (x : Ctx) (u : Run) (y : Ctx) (v : Run), taskEnv s1 0 = some (t, x, u) ∧
    Issues (.engW 3 1 2) { names := [nS 3] } (at_ (.engW 3 1 2)) s1 ∧ Issues (.engR 3 1 2 0) { names := [nS 3] } (at_ (.engR 3 1 2 0)) s2 ∧
    Issues (.engR 3 1 0xD 0) { names := [nS 3] } (place (.engR 3 1 0xD 0) id nodet id) s3 ∧ taskEnv s3 0 = some (t, y, v) ∧ y.det = false ∧
    Issues (.engR 3 1 0xD 0) { names := [nS 3] } (at_ (.engR 3 1 0xD 0)) s4 ∧ x.det = true :=
  ⟨_, _, _, _, _, _, _, _, _, rfl, issues_of (by decide), issues_of (by decide), issues_of (by decide), rfl, rfl, issues_of (by decide), rfl⟩

theorem witness_LaunchCompletes : ∃ (i : Instr) (kind : CmdKind) (d : Reg) (l : BitVec 4) (s s1 : State) (t : Task) (x : Ctx) (u : Run),
    Spec.launchRow i = some (kind, d, l) ∧ kind ≠ .exchange ∧ Issues i { names := [nS d], bytes := launchBytes kind } s s1 ∧
    taskEnv s1 s.cur = some (t, x, u) ∧
    (∀ r ∈ sidesOf x s.cur (Spec.command (Spec.env s1 t x u) kind), sideTrap (Spec.env s1 t x u) r = none) ∧
    refusalOf (Spec.command (Spec.env s1 t x u) kind) (sidesOf x s.cur (Spec.command (Spec.env s1 t x u) kind)) = none ∧
    launchNondet s1 (Spec.env s1 t x u) (Spec.command (Spec.env s1 t x u) kind) (sidesOf x s.cur (Spec.command (Spec.env s1 t x u) kind)) = none ∧
    (∀ r ∈ sidesOf x s.cur (Spec.command (Spec.env s1 t x u) kind), clashAt s1 x s.cur r = none) ∧
    tableRoom s1 x (sidesOf x s.cur (Spec.command (Spec.env s1 t x u) kind)) = true ∧
    slotFree (coreAt s1 s.cur) (Spec.command (Spec.env s1 t x u) kind) = true :=
  ⟨.copyLaunch 9 0, _, _, _, withLayouts (.copyLaunch 9 0) copyBlock, _, _, _, _, rfl, by decide, issues_of (by decide), rfl, by decide, by decide,
    by decide, by decide, by decide, by decide⟩

/-- A copy between two formats. -/
theorem witness_LaunchRefused : ∃ (i : Instr) (kind : CmdKind) (d : Reg) (l : BitVec 4) (s s1 : State) (t : Task) (x : Ctx) (u : Run) (reason : Nat),
    Spec.launchRow i = some (kind, d, l) ∧ Issues i { names := [nS d], bytes := launchBytes kind } s s1 ∧ taskEnv s1 s.cur = some (t, x, u) ∧
    kind ≠ .exchange ∧ (∀ r ∈ sidesOf x s.cur (Spec.command (Spec.env s1 t x u) kind), sideTrap (Spec.env s1 t x u) r = none) ∧
    refusalOf (Spec.command (Spec.env s1 t x u) kind) (sidesOf x s.cur (Spec.command (Spec.env s1 t x u) kind)) = some reason ∧
    slotFree (coreAt s1 s.cur) (Spec.command (Spec.env s1 t x u) kind) = true :=
  ⟨.copyLaunch 9 0, _, _, _, withLayouts (.copyLaunch 9 0) (shadows 0 [(0, 0), (1, 1), (8, 2), (9, 1), (10, 0x00010001)]), _, _, _, _, 1, rfl,
    issues_of (by decide), rfl, by decide, by decide, by decide, by decide⟩

/-- A command of core n: a copy of the tile of entry 11 to entry 12, or an exchange. -/
def cmd (kind : CmdKind) (seq next : Nat) (joined : Bool) : Cmd :=
  { kind := kind, ctx := 0, seq := seq, pc := 0, block := [(0, 11), (1, 12), (8, 2), (9, 2), (10, 0x00010001)], hbase := 0
    src := (11, (List.range 16).map (fun i => sget 0#32 layouts (176 + i))), dst := (12, (List.range 16).map (fun i => sget 0#32 layouts (192 + i)))
    idx := (0, []), next := next, ninv := 0, noor := 0, partly := false, fault := none, group := none, handler := none, joined := joined, count := 1 }

/-- Every core of the cluster has core 0's state, then changed by f. -/
def eight (s : State) (f : Nat → Core → Core) : State := (List.range 8).foldl (fun t n => setCore t n (f n (coreAt s 0))) s

/-- An exchange that has joined with its partners; and the last of eight to come. -/
theorem witness_ExchangeLaunch :
    (∃ (s s1 : State) (t : Task) (x : Ctx) (u : Run) (k : Cmd), Issues (.exchangeLaunch 9 0) { names := [nS 9], bytes := launchBytes .exchange } s s1 ∧
      taskEnv s1 s.cur = some (t, x, u) ∧ joinedNow (coreAt s1 s.cur) = some k) ∧
    ∃ (s s1 : State) (t : Task) (x : Ctx) (u : Run) (k : Cmd), Issues (.exchangeLaunch 9 0) { names := [nS 9], bytes := launchBytes .exchange } s s1 ∧
      taskEnv s1 s.cur = some (t, x, u) ∧ joinedNow (coreAt s1 s.cur) = none ∧ unjoined (coreAt s1 s.cur) = some k ∧
      ∀ m ∈ clusterCores (clusterOf s.cur), holdsWave s1 t m = true ∧ (unjoined (coreAt s1 m)).map (·.count) = some k.count :=
  ⟨⟨withLayouts (.exchangeLaunch 9 0) (fun c => { c with cmds := [(1, cmd .exchange 1 0 true)] }), _, _, _, _, _, issues_of (by decide), rfl, rfl⟩,
   ⟨eight (withLayouts (.exchangeLaunch 9 0) (fun c => { c with cmds := [(1, cmd .exchange 1 0 false)] })) (fun _ c => c), _, _, _, _, _,
     issues_of (by decide), rfl, rfl, rfl, by decide⟩⟩

/-- Id 0 with nothing outstanding; an id that was never issued; a poll outside a DET context. -/
theorem witness_EngineWaits : ∃ (s1 s2 s3 : State) (t : Task) (x y : Ctx) (u v : Run), taskEnv s1 0 = some (t, x, u) ∧
    Issues (.engWait 3 0 0) { names := [nS 3, nS 0], wp := true } (at_ (.engWait 3 0 0)) s1 ∧ (coreAt s1 0).afaults = [] ∧
    rdS (coreAt s1 0) 0 = 0#32 ∧ (coreAt s1 0).cmds = [] ∧ cardsOf s1 0 = [] ∧
    Issues (.engWait 3 4 0) { names := [nS 3, nS 4], wp := true } (place (.engWait 3 4 0) (regs [(4, 5)]) id id) s2 ∧ (coreAt s2 0).afaults = [] ∧
    rdS (coreAt s2 0) 4 ≠ 0#32 ∧ unknownId (coreAt s2 0) (rdS (coreAt s2 0) 4) = true ∧
    Issues (.engPoll 3 4 0) { names := [nS 3, nS 4], wp := true } (place (.engPoll 3 4 0) (regs [(4, 5)]) nodet id) s3 ∧
    taskEnv s3 0 = some (t, y, v) ∧ y.det = false :=
  ⟨_, _, _, _, _, _, _, _, rfl, issues_of (by decide), by decide, by decide, by decide, by decide, issues_of (by decide), by decide, by decide, by decide,
    issues_of (by decide), rfl, rfl⟩

/-- A step for core 0's command 1. -/
def commanded (k : Cmd) : State :=
  { withLayouts (.add 1 1 1) (fun c => { c with cmds := [(k.seq, k)], seq := 1 }) with input := { who := 0, sub := k.seq } }

theorem witness_EngineCompletion : ∃ (s : State) (k : Cmd) (x : Ctx), tget (coreAt s s.input.who).cmds s.input.sub = some k ∧ k.seq = s.input.sub ∧
    k.kind = .copy ∧ ctxAt s k.ctx = some x ∧ issuing x = true ∧ k.fault = none ∧ k.total ≤ k.next ∧ k.seq < 2 ^ 30 ∧
    (coreAt s s.input.who).seq < k.seq + 64 :=
  ⟨commanded (cmd .copy 1 4 true), _, _, rfl, rfl, rfl, rfl, by decide, rfl, by decide, by decide, by decide⟩

theorem witness_EngineMove : ∃ (s s' : State) (n q : Nat) (k : Cmd) (x : Ctx) (v : Nat) (bad : Bool) (p : List Place) (m : Nat),
    tget (coreAt s n).cmds q = some k ∧ k.seq = q ∧ k.kind = .copy ∧ ctxAt s k.ctx = some x ∧ walkStep s n k = .go s' ∧
    k.dstE.plain = true ∧ k.srcE.fmt = k.dstE.fmt ∧ homeOf x n k.dstE = .slice m ∧ bankpOk k.dstE.bankp = true ∧
    0 < k.dstE.width ∧ takeElem s x n k k.next = .code v bad p :=
  ⟨commanded (cmd .copy 1 0 true), _, 0, 1, _, _, _, _, _, _, rfl, rfl, rfl, rfl, rfl, by decide, by decide, rfl, by decide, by decide, rfl⟩

/-- Core 0 with slot 2 claimed, full of pair words, and slot 3 claimed. -/
def slotted (i : Instr) : State :=
  withLayouts i (fun c => { c with tags := [(2, { words := [0xC000000C#32, 0#32, 0#32, 0#32, 0#32] }), (3, { words := [0x80000000#32, 0#32, 0#32, 0#32, 0#32] })] })

theorem witness_SlotClaims : ∃ s1 s2 s3 s4 : State, Issues (.mxClaim 4 0) { names := [nSlot 4] } (slotted (.mxClaim 4 0)) s1 ∧ tagClm (coreAt s1 0) 4 = false ∧
    Issues (.mxClaim 3 0) { names := [nSlot 3] } (slotted (.mxClaim 3 0)) s2 ∧ tagClm (coreAt s2 0) 3 = true ∧
    Issues (.mxRel 3 0) { names := [nSlot 3] } (slotted (.mxRel 3 0)) s3 ∧ tagClm (coreAt s3 0) 3 = true ∧
    Issues (.mxRel 4 0) { names := [nSlot 4] } (slotted (.mxRel 4 0)) s4 ∧ tagClm (coreAt s4 0) 4 = false :=
  ⟨_, _, _, _, issues_of (by decide), by decide, issues_of (by decide), by decide, issues_of (by decide), by decide, issues_of (by decide), by decide⟩

theorem witness_FillsComplete : ∃ (i : Instr) (rows : Bool) (k : BitVec 6) (h a : Reg) (l : BitVec 4) (s s1 : State) (t : Task) (x : Ctx) (u : Run),
    ((i = .mxFill k h a l ∧ rows = true) ∨ (i = .mxFillCol k h a l ∧ rows = false)) ∧ Issues i (fillShape rows k h a) s s1 ∧
    taskEnv (slotPath s1) s.cur = some (t, x, u) ∧
    (let E := Spec.env (slotPath s1) t x u
     let T := tileOf E h a rows (fun e => 1024 / fmtWidth e.fmt)
     tileLayout E slotFmts (blockFmt T.e.fmt && (!rows || decide (T.c0 % 24 ≠ 0))) T = none ∧ tileReadGuard (slotPath s1) E T = .pass ∧
     tagClm E.c k.toNat = true) :=
  ⟨.mxFill 3 11 0 0, true, 3, 11, 0, 0, slotted (.mxFill 3 11 0 0), _, _, _, _, .inl ⟨rfl, rfl⟩, issues_of (by decide), rfl, by decide, rfl, by decide⟩

theorem witness_SlotElements : (2 : Nat) < 64 ∧ fmtFP32 ∈ slotFmts ∧ (∀ n < 32, ((fun _ : Nat => [1]) n).length ≤ 1024 / fmtWidth fmtFP32) ∧
    0 < ((fun _ : Nat => [1]) 0).length := by decide

theorem witness_TilesComplete : ∃ (s1 s2 s3 : State) (t : Task) (x : Ctx) (u : Run) (t' : Task) (x' : Ctx) (u' : Run),
    taskEnv (slotPath s1) 0 = some (t, x, u) ∧ Issues (.mxAcld 1 0 11 0) (accTileShape 1 0 11) (withLayouts (.mxAcld 1 0 11 0) id) s1 ∧
    (let E := Spec.env (slotPath s1) t x u
     let T := tileOf E 11 0 true (fun _ => 32)
     tileLayout E [fmtFP32] false T = none ∧ tileReadGuard (slotPath s1) E T = .pass ∧ poisonGuard (slotPath s1) E T.e (.slice 0) T.locs = none) ∧
    taskEnv (slotPath s2) 0 = some (t', x', u') ∧ Issues (.mxAcst 1 0 11 0) (accTileShape 1 0 11) (withLayouts (.mxAcst 1 0 11 0) id) s2 ∧
    (let E := Spec.env (slotPath s2) t' x' u'
     let T := tileOf E 11 0 true (fun _ => 32)
     tileLayout E [fmtFP32, fmtFP16, fmtBF16] false T = none ∧ accNondet E .st T.e (.slice 0) = none ∧
     markGuard (slotPath s2) E T.e (.slice 0) T.locs = none ∧ clashAt (slotPath s2) x' 0 (T.side E true) = none ∧
     tableRoom (slotPath s2) x' [T.side E true] = true ∧ conflictGuard (slotPath s2) E T.e (.slice 0) T.locs true = none ∧ 1 ∉ E.c.accPoison ∧
     T.locs.Pairwise (fun a b => a + T.e.width ≤ b ∨ b + T.e.width ≤ a) ∧ T.c0 + 1 < T.e.ext 0 ∧ T.c1 + 1 < T.e.ext 1 ∧ T.e.fmt = 0) ∧
    Spec.halfFmt 2#4 = some (8, 7, 2 ^ 16) ∧
    Issues (.mxZero 1 0) { names := [nAcc 1] } (withLayouts (.mxZero 1 0) id) s3 :=
  ⟨_, _, _, _, _, _, _, _, _, rfl, issues_of (by decide), ⟨by decide, rfl, by decide⟩, rfl, issues_of (by decide),
    ⟨by decide, by decide, by decide, by decide, by decide, by decide, by decide, by decide, by decide, by decide, by decide⟩, rfl, issues_of (by decide)⟩

theorem witness_RegenComplete : ∃ (i : Instr) (tr eps : Bool) (od os : BitVec 6) (l : BitVec 4) (s s1 : State),
    Spec.regenRow i = some (tr, eps, od, os, l) ∧ Issues i (regenShape od os) s s1 ∧ tagClm (coreAt (slotPath s1) s.cur) os.toNat = true ∧
    tagFull (coreAt (slotPath s1) s.cur) os.toNat = true ∧ tagFmt (coreAt (slotPath s1) s.cur) os.toNat = fmtPair ∧
    tagPois (coreAt (slotPath s1) s.cur) os.toNat = false ∧ tagClm (coreAt (slotPath s1) s.cur) od.toNat = true :=
  ⟨.mxRegenT 3 2 0, _, _, _, _, _, slotted (.mxRegenT 3 2 0), _, rfl, issues_of (by decide), by decide, by decide, by decide, by decide, by decide⟩

/-- A slot of zeros in FP32. -/
def zeros : Operand := { core := Core.reset, slot := 0, fmt := 0, scp := 0, seedlo := 0, seedhi := 0, memb := 0 }

theorem zeros_elem (n k : Nat) : slotElem zeros.core zeros.slot zeros.fmt n k = 0 := by
  have h : ∀ l : List Nat, l.foldr (fun b acc => (zeros.core.slots.read (4096 * zeros.slot + 128 * n + b)).toNat + 256 * acc) 0 = 0 := by
    intro l
    induction l with
    | nil => rfl
    | cons b l ih => rw [List.foldr_cons, ih]; rfl
  unfold slotElem readBits
  rw [h, Nat.zero_div, Nat.zero_mod]

theorem witness_ProductTile : Spec.macRow zeros.fmt = some (32, 149) ∧ ∀ n < 32, ∀ k < 32 * 1, Spec.ElementIs zeros 149 n k 0 :=
  ⟨rfl, fun n _ k _ => by
    unfold Spec.ElementIs
    rw [if_neg (by decide), zeros_elem]
    refine ⟨0, rfl, 127, rfl, ?_⟩
    rw [if_neg (by decide)]⟩

/-- Seven cores wait at gang.join for the eighth. -/
theorem witness_ArrayJoins : ∃ (i : Instr) (args : Option MmaArgs) (d : Reg) (l : BitVec 4) (sh : Shape) (s s1 : State) (t : Task) (x : Ctx) (u : Run)
    (depth cls : Nat), Spec.joinRow i (coreAt s s.cur) = some (args, d, l, sh) ∧ Issues i sh s s1 ∧ taskEnv s1 s.cur = some (t, x, u) ∧
    (∀ m ∈ clusterCores (clusterOf s.cur), holdsWave s1 t m = true ∧ (m ≠ s.cur → atArray s1 m = true)) ∧ s.cur ∈ clusterCores (clusterOf s.cur) ∧
    joinChecks (registerJoin s1 s.cur false (encodeWord i)) (clusterOf s.cur) args = .accept depth cls :=
  ⟨.gangJoinInstruction 6 0, _, _, _, _,
    eight (at_ (.gangJoinInstruction 6 0)) (fun n c => if n = 0 then c else { c with join := some (sampleJoin c false (encodeWord (.gangJoinInstruction 6 0))) }),
    _, _, _, _, _, _, rfl, issues_of (by decide), rfl, by decide, by decide, rfl⟩

/-- The core is the only one of its wave; a gang stands. -/
theorem witness_GangsComplete : ∃ (s1 s2 s3 : State) (t : Task) (x : Ctx) (u : Run) (g : Gang), taskEnv s1 0 = some (t, x, u) ∧
    Issues (.gangForm 3) { names := [nS 3] } (updCluster (at_ (.gangForm 3)) 0 (fun k => { k with gang := some { leader := 0, members := [0] } })) s1 ∧
    gangOf s1 0 = some g ∧ Issues (.gangForm 3) { names := [nS 3] } (at_ (.gangForm 3)) s2 ∧ gangOf s2 0 = none ∧
    0 ∈ clusterCores (clusterOf 0) ∧ mayHold s2 t 0 = true ∧
    (∀ m ∈ (clusterCores (clusterOf 0)).filter (mayHold s2 t), holdsWave s2 t m = true ∧ (coreAt s2 m).gcount = (coreAt s2 0).gcount ∧
      (coreAt s2 m).pc = (coreAt s2 0).pc ∧ (m ≠ 0 → (joinOf (coreAt s2 m) true).isSome = true)) ∧
    Issues .gangSplit {} (at_ .gangSplit) s3 :=
  ⟨_, _, _, _, _, _, _, rfl, issues_of (by decide), rfl, issues_of (by decide), by decide, by decide, by decide, by decide, issues_of (by decide)⟩

/-! ## Promises and cards -/

/-- Bytes of 32-bit words from an offset of slice 0 on, those that are not zero. -/
def wordsAt (o : Nat) (ws : List Word) : Memory :=
  (ws.zipIdx.flatMap (fun e => (List.range 4).map (fun b => (sliceKey 0 (physOff bank.toNat (o + 4 * e.2 + b)), e.1.extractLsb' (8 * b) 8)))).filter
    (fun e => decide (e.2 ≠ 0#8))

/-- The descriptor of a promise on entries 13 to 16: EXP 0, LATE 0, DEADLINE 1, ticket 0. -/
def openDesc : Memory := wordsAt 0 [0x100F0E0D#32, 0x3F800000#32, 0x3F800000#32, 1#32, 0#32, 7#32, 0#32, 0#32]

/-- The descriptor of a card on entries 13 and 14 with routine 0. -/
def cardDesc : Memory := wordsAt 0 [0x00000E0D#32]

/-- Instruction i with entry 10's first eight words in memory. -/
def described (i : Instr) (m : Memory) : State := { place i id oneGroup laid with slice := m }

/-- What core s.cur moves with. -/
def envOf (s : State) : Env :=
  match taskEnv s s.cur with
  | some (t, x, u) => Spec.env s t x u
  | none => Spec.env s { ctx := 0, ridx := 0, t := 0, wave := 0, c0 := 0, c1 := 0, c2 := 0, c3 := 0 } (placeCtx placeRun) placeRun

/-- The descriptor that an instruction with registers a and n reads. -/
def descOf (s : State) (a n : Reg) : Spec.Desc :=
  let e := handleEntry (envOf s) n.toNat
  let cs := descCoords (envOf s) e a
  { e := e, locs := cs.map (bitAddr e), w := descWords s (envOf s) e cs }

theorem atRest_of {s : State} {n : Nat} {o : OptUnit} (hc : cardsOf s n = []) (hr : o.regions = []) : Spec.AtRest s n o :=
  ⟨hc, by simp [hr]⟩

/-- The same descriptor with W an entry that is not laid out. -/
def badDesc : Memory := wordsAt 0 [0x100F0E12#32, 0x3F800000#32, 0x3F800000#32, 1#32, 0#32, 7#32, 0#32, 0#32]

/-- The promise is opened; its first entry is not well formed. -/
theorem witness_PromiseOpens : (∃ (s s1 : State) (d a n : Reg) (l : BitVec 4) (t : Task) (x : Ctx) (u : Run) (D : Spec.Desc) (j : Nat),
    Issues (.prmOpen d a n l) (descShape (some false) [nS d] a n) s s1 ∧ taskEnv s1 s.cur = some (t, x, u) ∧ t.rerun = false ∧
    (let E := Spec.env s1 t x u
     let o := Spec.unit E
     let ents := D.ents E
     Spec.DescFree s1 E a n D ∧ Spec.AtRest s1 s.cur o ∧
     disagrees E (capEntry ents 0) (capEntry ents 1) (capEntry ents 2) (capEntry ents 3) = none ∧ badOpenWord D.w = none ∧
     (capEntry ents 0).prod = prel x s.cur ∧ ticketTaken o (capEntry ents 0).num (field (D.w.getD 4 0#32) 15 0) = false ∧
     freeEntry o (slotOf s.cur) = some j ∧ clashAt s1 x s.cur (wholeSide x s.cur (capEntry ents 1) false) = none ∧
     clashAt s1 x s.cur (wholeSide x s.cur (capEntry ents 2) false) = none)) ∧
    ∃ (s s1 : State) (d a n : Reg) (l : BitVec 4) (t : Task) (x : Ctx) (u : Run) (D : Spec.Desc) (e : Entry),
    Issues (.prmOpen d a n l) (descShape (some false) [nS d] a n) s s1 ∧ taskEnv s1 s.cur = some (t, x, u) ∧ t.rerun = false ∧
    (let E := Spec.env s1 t x u
     Spec.DescFree s1 E a n D ∧ Spec.AtRest s1 s.cur (Spec.unit E) ∧
     Spec.FirstMalformed E ((D.ents E).map (fun c => { num := c.1, words := c.2 })) e) :=
  ⟨⟨described (.prmOpen 5 4 10 0) openDesc, _, 5, 4, 10, 0, _, _, _,
    descOf (go (.prmOpen 5 4 10 0) (descShape (some false) [nS 5] 4 10) (described (.prmOpen 5 4 10 0) openDesc)) 4 10, 0, issues_of (by decide), rfl, rfl,
    ⟨rfl, rfl, rfl, by decide, by decide, by decide, by decide⟩, atRest_of (by decide) (by decide), by decide, by decide, by decide, by decide, by decide,
    by decide, by decide⟩,
   ⟨described (.prmOpen 5 4 10 0) badDesc, _, 5, 4, 10, 0, _, _, _,
    descOf (go (.prmOpen 5 4 10 0) (descShape (some false) [nS 5] 4 10) (described (.prmOpen 5 4 10 0) badDesc)) 4 10, _, issues_of (by decide), rfl, rfl,
    ⟨rfl, rfl, rfl, by decide, by decide, by decide, by decide⟩, atRest_of (by decide) (by decide), [], _, rfl, by decide, by decide⟩⟩

/-- Entry k as it is captured; a promise on entries 13 to 16 with gradient 17; core 0's context with such a unit. -/
def captured (k : Nat) : Nat × List Word := (k, (List.range 16).map (fun i => sget 0#32 layouts (16 * k + i)))

def promise (st : PState) (pend : Bool) : Promise :=
  { Promise.reset with state := st, pend := pend, gen := 1, deadline := 1, we := 13, ge := 14, he := 15, pe := 16
                       ents := [captured 13, captured 14, captured 15, captured 16, captured 17] }

def withUnit (o : OptUnit) (x : Ctx) : Ctx := { oneGroup x with opt := [(0, o)], rtrack := [(13, { rver := 0, rmask := [] })] }

def promised (st : PState) : OptUnit := { OptUnit.reset with promises := [(0, promise st false)] }

theorem witness_PromiseRedeems : ∃ (i : Instr) (kind : CardKind) (s s1 : State) (d a n : Reg) (l : BitVec 4) (t : Task) (x : Ctx) (u : Run) (j : Nat),
    Spec.redeemRow i = some (kind, d, a, n, l) ∧ Issues i { names := [nH n, nS d, nS a] } s s1 ∧ taskEnv s1 s.cur = some (t, x, u) ∧
    t.rerun = false ∧
    (let E := Spec.env s1 t x u
     let o := Spec.unit E
     let p := promiseAt o j
     let g := handleEntry E n.toNat
     liveEntry o s.cur (rdS E.c a.toNat) = some j ∧ p.pend = false ∧ p.state = .open_ ∧ regionOk E g false = true ∧
     g.count = (capEntry p.ents 0).count ∧ (capEntry p.ents 0).prod = prel x s.cur ∧ clashAt s1 x s.cur (wholeSide x s.cur g false) = none ∧
     o.queue.length + o.running.toList.length < 16) :=
  ⟨.prmRedeem 6 5 17 0, _, place (.prmRedeem 6 5 17 0) (regs [(5, 64)]) (withUnit (promised .open_)) laid, _, _, _, _, _, _, _, _, 0, rfl, issues_of (by decide),
    rfl, rfl, by decide, by decide, by decide, by decide, by decide, by decide, by decide, by decide⟩

/-- A live handle of an open promise, and one that names none. -/
theorem witness_PromiseAnswers : ∃ (s1 s2 : State) (t : Task) (x : Ctx) (u : Run), taskEnv s1 0 = some (t, x, u) ∧ t.rerun = false ∧ Spec.AtRest s1 0 (Spec.unit (envOf s1)) ∧
    Issues (.prmQuery 6 5 3 0) { names := [nS 6, nS 5] } (place (.prmQuery 6 5 3 0) (regs [(5, 64)]) (withUnit (promised .open_)) laid) s1 ∧
    Issues (.prmCancel 6 5 0) { names := [nS 6, nS 5] } (place (.prmCancel 6 5 0) (regs [(5, 64)]) (withUnit (promised .open_)) laid) s2 ∧
    liveEntry (Spec.unit (envOf s2)) 0 (rdS (coreAt s2 0) 5) = some 0 ∧ (promiseAt (Spec.unit (envOf s2)) 0).state = .open_ :=
  ⟨_, _, _, _, _, rfl, rfl, atRest_of (by decide) (by decide), issues_of (by decide), issues_of (by decide), by decide, by decide⟩

def carded (m : Memory) : State := { place (.optCard 8 4 10 0) id (withUnit OptUnit.reset) laid with slice := m }

/-- A card that joins the queue; one whose routine field is malformed is refused; one whose weights are an entry that is not well formed. -/
theorem witness_CardsIssue : (∃ s1, Issues (.optCard 8 4 10 0) (descShape (some true) [nS 8] 4 10) (carded cardDesc) s1 ∧
      Spec.DescFree s1 (envOf s1) 4 10 (descOf s1 4 10) ∧
      cardRefusal (envOf s1) (descOf s1 4 10).w (capEntry [captured 13] 0) [capEntry [captured 14] 0]
        (cardSides (envOf s1).x { newCard (envOf s1) .card with ents := [captured 13, captured 14] }) = none ∧
      (routineAt (Spec.unit (envOf s1)) 0).rgen % 128 = 0 ∧ (capEntry [captured 13] 0).prod = prel (envOf s1).x 0) ∧
    (∃ s1, Issues (.optCard 8 4 10 0) (descShape (some true) [nS 8] 4 10) (carded (wordsAt 0 [0x00000E0D#32, 0#32, 0#32, 0#32, 0#32, 8#32])) s1 ∧
      Spec.DescFree s1 (envOf s1) 4 10 (descOf s1 4 10) ∧
      cardRefusal (envOf s1) (descOf s1 4 10).w (capEntry [captured 13] 0) [capEntry [captured 14] 0]
        (cardSides (envOf s1).x { newCard (envOf s1) .card with ents := [captured 13, captured 14] }) = some 0x05 ∧
      ∀ e ∈ [capEntry [captured 13] 0, capEntry [captured 14] 0], entryOk (envOf s1) e = true) ∧
    ∃ s1, Issues (.optCard 8 4 10 0) (descShape (some true) [nS 8] 4 10) (carded (wordsAt 0 [0x00000E12#32])) s1 ∧
      Spec.DescFree s1 (envOf s1) 4 10 (descOf s1 4 10) ∧
      Spec.FirstMalformed (envOf s1) [capEntry [captured 18] 0, capEntry [captured 14] 0] (capEntry [captured 18] 0) :=
  ⟨⟨_, issues_of (by decide), ⟨rfl, rfl, rfl, by decide, by decide, by decide, by decide⟩, by decide, by decide, by decide⟩,
   ⟨_, issues_of (by decide), ⟨rfl, rfl, rfl, by decide, by decide, by decide, by decide⟩, by decide, by decide⟩,
   ⟨_, issues_of (by decide), ⟨rfl, rfl, rfl, by decide, by decide, by decide, by decide⟩, [], _, rfl, by decide, by decide⟩⟩

/-- opt.ldr of END alone; opt.wait of id 0, of an id never issued and of one that is over; the fences. -/
theorem witness_OptimiserWaits : ∃ s1 s2 s3 s4 s5 s6,
    Issues (.optLdr 4 10 0 0) (descShape none [] 4 10) (described (.optLdr 4 10 0 0) (wordsAt 0 [0x0000D000#32])) s1 ∧
    Spec.DescFree s1 (envOf s1) 4 10 (descOf s1 4 10) ∧ (0#3).toNat = slotOf s1.cur ∧ badHalfword (halfwords (descOf s1 4 10).w) = none ∧
    Issues (.optWait 9 0 0) { names := [nS 9, nS 0] } (at_ (.optWait 9 0 0)) s2 ∧ (coreAt s2 0).afaults = [] ∧ cardsOf s2 0 = [] ∧
    Issues (.optWait 9 8 0) { names := [nS 9, nS 8] } (place (.optWait 9 8 0) (regs [(8, 4)]) id id) s3 ∧ (rdS (coreAt s3 0) 8).toNat % 4 ≠ 3 ∧
    Issues (.optWait 9 8 0) { names := [nS 9, nS 8] } (place (.optWait 9 8 0) (fun c => { regs [(8, 7)] c with seq := 1 }) id id) s4 ∧
    ¬((rdS (coreAt s4 0) 8).toNat % 4 ≠ 3 ∨ (rdS (coreAt s4 0) 8).toNat / 4 = 0 ∨ (coreAt s4 0).seq < (rdS (coreAt s4 0) 8).toNat / 4 ∨
      64 ≤ (coreAt s4 0).seq - (rdS (coreAt s4 0) 8).toNat / 4) ∧ cardsOf s4 0 = [] ∧ heldCard (Spec.unit (envOf s4)) 0 (rdS (coreAt s4 0) 8) = none ∧
    Issues .fenceE {} (at_ .fenceE) s5 ∧ (coreAt s5 0).cmds = [] ∧ cardsOf s5 0 = [] ∧ (coreAt s5 0).afaults = [] ∧
    Issues .fenceSp { sys := true } (at_ .fenceSp) s6 :=
  ⟨_, _, _, _, _, _, issues_of (by decide), ⟨rfl, rfl, rfl, by decide, by decide, by decide, by decide⟩, by decide, by decide, issues_of (by decide), by decide,
    by decide, issues_of (by decide), by decide, issues_of (by decide), by decide, by decide, by decide, issues_of (by decide), by decide, by decide, by decide,
    issues_of (by decide)⟩

/-- A card on entries 13 and 14 from element n on. -/
def card (n : Nat) : Card :=
  { ref := { core := 0, ridx := 0, accNo := 0, t := 0, xid := 7, pc := 0 }, kind := .card, ents := [captured 13, captured 14, (0, []), (0, [])]
    params := [0, 0, 0, 0], mmode := 0, vmode := 0, routine := [0xD000#16], fctl := 0, promise := 0, next := n, wrote := n, ninv := 0, spoiled := [], fault := false
    settled := false, due := [] }

/-- A step of cluster 0's unit, at region 13. -/
def unitStep (o : OptUnit) : State := { place (.add 1 1 1) id (withUnit o) laid with input := { who := 0, sub := 0, off := 13 } }

/-- The lock of an open promise on its guess, entry 14. -/
def guessLock : Lock := { place := 0, lo := 2112, hi := 2115, bankp := 0xFAC688, dst := false, owner := 0, seq := 0 }

/-- A card that starts, one whose weights an open promise reads, a redemption, and no card. -/
theorem witness_CardStarts : (∃ (s : State) (x : Ctx) (q : Card) (rest : List Card), ctxAt s s.input.who = some x ∧
      (optAt x s.input.sub).running = none ∧ (optAt x s.input.sub).queue = q :: rest ∧ q.kind = .card ∧ issuing x = true ∧
      (regionAt (optAt x s.input.sub) (cardRegion (optAt x s.input.sub) q)).work = none ∧
      (∀ r ∈ cardSides x q, clashAt s x q.ref.core r = none) ∧ promiseLocks x s.input.sub = [] ∧ tableRoom s x (cardSides x q) = true) ∧
    (∃ (s : State) (x : Ctx) (q : Card) (rest : List Card), ctxAt s s.input.who = some x ∧
      (optAt x s.input.sub).running = none ∧ (optAt x s.input.sub).queue = q :: rest ∧ q.kind = .card ∧ issuing x = true ∧
      (regionAt (optAt x s.input.sub) (cardRegion (optAt x s.input.sub) q)).work = none ∧
      (∃ r ∈ cardSides x q, r.dst = true ∧ ∃ m ∈ sourceLocks x s.input.sub, r.home = .slice m.place ∧
        locksMeet r.home (r.lock q.ref.core 0) m = true) ∧ sameTask s s.input.who q.ref = true ∧
      (coreAt s q.ref.core).seq < q.ref.xid.toNat / 4 + 64) ∧
    (∃ (s : State) (x : Ctx) (q : Card) (rest : List Card), ctxAt s s.input.who = some x ∧ (optAt x s.input.sub).running = none ∧
      (optAt x s.input.sub).queue = q :: rest ∧ q.kind ≠ .card ∧ issuing x = true ∧
      (let o := optAt x s.input.sub
       let p := promiseAt o q.promise
       p.state = .open_ ∧ overdue p (regionAt o p.we).wver = false ∧ (regionAt o p.we).work = none ∧
       (∀ r ∈ redeemSides x p, clashAt s x q.ref.core r = none) ∧
       (∀ r ∈ redeemSides x p, r.dst = true → ∀ m ∈ promiseLocks x s.input.sub, r.home = .slice m.place →
         locksMeet r.home (r.lock q.ref.core 0) m = false) ∧ tableRoom s x (redeemSides x p) = true)) ∧
    ∃ (s : State) (x : Ctx), ctxAt s s.input.who = some x ∧ (optAt x s.input.sub).queue = [] :=
  ⟨⟨unitStep { OptUnit.reset with queue := [card 0] }, _, _, _, rfl, rfl, rfl, rfl, by decide, by decide, by decide, by decide, by decide⟩,
   ⟨unitStep { OptUnit.reset with promises := [(0, { promise .open_ false with locks := [guessLock] })], queue := [{ card 0 with ents := [captured 14, captured 13, (0, []), (0, [])] }] }, _, _, _, rfl, rfl, rfl, rfl, by decide,
     by decide, by decide, by decide, by decide⟩,
   ⟨unitStep { promised .open_ with queue := [{ card 0 with kind := .redeem }] }, _, _, _, rfl, rfl, rfl, by decide, by decide,
     ⟨by decide, by decide, by decide, by decide, by decide, by decide⟩⟩,
   ⟨unitStep OptUnit.reset, _, rfl, rfl⟩⟩

theorem witness_CardCompletes : ∃ (s : State) (x : Ctx) (q : Card), ctxAt s s.input.who = some x ∧
    (optAt x s.input.sub).running = some q ∧ q.kind = .card ∧ q.settled = false ∧ q.fault = false ∧ issuing x = true ∧
    (capEntry q.ents 0).count ≤ q.next ∧ overdueOf (let o := optAt x s.input.sub
      let we := (capEntry q.ents 0).num
      { o with regions := tset o.regions we { regionAt o we with wver := nextVer (regionAt o we) } }) (capEntry q.ents 0).num = [] :=
  ⟨unitStep { OptUnit.reset with running := some (card 1) }, _, _, rfl, rfl, rfl, rfl, rfl, by decide, by decide, by decide⟩

/-- An action on region 13. -/
def action (ph : List Phase) (n : Nat) (st : PState) : State :=
  let w : Work := { j := 0, todo := ph, next := n, wrote := n, rows := 0, ninv := 0, spoiled := [], late := false, retire := false }
  unitStep { promised st with regions := [(13, { wver := 0, cur := 0, work := some w })] }

theorem witness_StrainerActions : (∃ s : State, (regionAt (unitOf s s.input.who s.input.sub) s.input.off).work = none) ∧
    ∃ (s : State) (x : Ctx) (w : Work), ctxAt s s.input.who = some x ∧
      (let o := unitOf s s.input.who s.input.sub
       (regionAt o s.input.off).work = some w ∧ w.todo = [.revert] ∧ (capEntry (promiseAt o w.j).ents 0).count ≤ w.next ∧ issuing x = true ∧
       w.late = false ∧ (promiseAt o w.j).state = .expired ∧ (promiseAt o w.j).lateDue = false ∧ (promiseAt o w.j).card = none) :=
  ⟨⟨unitStep OptUnit.reset, rfl⟩,
   ⟨action [.revert] 1 .expired, _, _, rfl, rfl, rfl, by decide, by decide, rfl, by decide, by decide, rfl⟩⟩

theorem witness_StrainerElements :
    (∃ (s : State) (x : Ctx) (w : Work), ctxAt s 0 = some x ∧
      (let o := optAt x 0
       let r := regionAt o 13
       let at_ := areaOf x (promiseAt o w.j).opener (promiseAt o w.j).ents
       r.work = some w ∧ issuing x = true ∧ w.todo.head? = some .correct ∧ bankpOk (at_ 0).e.bankp = true ∧ w.next < (at_ 0).e.count ∧
       (∀ j < (at_ 0).e.count, ∀ g ∈ (at_ 0).grans j, isPast s (nextVer r) g = false) ∧ versionHeld s x 13 r (at_ 0) w.next = false ∧
       (at_ 0).bad s w.next = false ∧ (at_ 1).bad s w.next = false ∧ (at_ 4).bad s w.next = false)) ∧
    ∃ (s : State) (x : Ctx) (w : Work), ctxAt s 0 = some x ∧
      (let o := optAt x 0
       let at_ := areaOf x (promiseAt o w.j).opener (promiseAt o w.j).ents
       let m := (at_ 2).e.count
       (regionAt o 13).work = some w ∧ issuing x = true ∧ w.todo.head? = some .train ∧ bankpOk (at_ 3).e.bankp = true ∧ w.next < (at_ 0).e.count * m ∧
       (at_ 3).bad s w.next = false ∧ (at_ 1).bad s (w.next / m) = false ∧ (at_ 4).bad s (w.next / m) = false ∧ (at_ 2).bad s (w.next % m) = false) :=
  ⟨⟨action [.correct, .train] 0 .redeemed, _, _, rfl, rfl, by decide, by decide, by decide, by decide, by decide, by decide, by decide, by decide, by decide⟩,
   ⟨action [.train] 0 .redeemed, _, _, rfl, rfl, by decide, by decide, by decide, by decide, by decide, by decide, by decide, by decide⟩⟩

/-! ## Other modules -/

/-- A message from rank 0 to itself; one that is in core 0's store. -/
def message (n : Nat) : Packet := { src := 0, dst := 0, seq := BitVec.ofNat 32 n, body := .msg 0#256 }

/-- Accepted elsewhere; and accepted by a store of this module. -/
theorem witness_SendCompletes : ∃ (s1 s2 : State) (t : Task) (x y : Ctx) (u v : Run), taskEnv s1 0 = some (t, x, u) ∧
    Issues (.msgSend 4 5 0) { names := [nV 4, nS 5] } (place (.msgSend 4 5 0) (fun c => { c with reply := some (.answered .accepted 0) }) id id) s1 ∧
    validRank x (rdS (coreAt s1 0) 5) = true ∧ (coreAt s1 0).reply = some (.answered .accepted 0) ∧ taskEnv s2 0 = some (t, y, v) ∧
    Issues (.msgSend 4 5 0) { names := [nV 4, nS 5] } (place (.msgSend 4 5 0) (fun c => { c with reply := some .sent }) id id) s2 ∧
    validRank y (rdS (coreAt s2 0) 5) = true ∧ (coreAt s2 0).reply = some .sent ∧ rankMod (rdS (coreAt s2 0) 5) = moduleId y ∧
    behind s2 0 (ownRank y 0) (rdS (coreAt s2 0) 5) s2.packets.length = false ∧ inTransit y (rdS (coreAt s2 0) 5) = false ∧ moving y = true ∧
    (coreAt s2 (placeCore y (rdS (coreAt s2 0) 5))).recvs.length < 16 ∧ duplicate y (message 0) = false :=
  ⟨_, _, _, _, _, _, _, rfl, issues_of (by decide), by decide, rfl, rfl, issues_of (by decide), by decide, rfl, by decide, by decide, by decide, by decide,
    by decide, by decide⟩

theorem witness_RecvCompletes : ∃ (s s1 : State) (d a b : Reg) (l : BitVec 4) (t : Task) (x : Ctx) (u : Run) (i : Nat) (p : Packet) (v : VReg),
    taskEnv s1 s.cur = some (t, x, u) ∧ Issues (.msgRecv d a b l) { names := [nV d, nS a, nS b] } s s1 ∧
    rdS (coreAt s1 s.cur) a.toNat ≠ 0xFFFFFFFF#32 ∧ validRank x (rdS (coreAt s1 s.cur) a.toNat) = true ∧
    localRank x (rdS (coreAt s1 s.cur) b.toNat) = true ∧ placeCore x (rdS (coreAt s1 s.cur) b.toNat) = s.cur ∧
    (coreAt s1 s.cur).recvs.findIdx? (fun p => decide (p.dst = rdS (coreAt s1 s.cur) b.toNat) &&
      (decide (rdS (coreAt s1 s.cur) a.toNat = 0xFFFFFFFF#32) || decide (p.src = rdS (coreAt s1 s.cur) a.toNat))) = some i ∧
    (coreAt s1 s.cur).recvs[i]? = some p ∧ p.body = .msg v :=
  ⟨place (.msgRecv 6 5 9 0) (fun c => { c with recvs := [message 0] }) id id, _, 6, 5, 9, 0, _, _, _, 0, _, _, rfl, issues_of (by decide), by decide, by decide,
    by decide, by decide, by decide, rfl, rfl⟩

/-- A push with a free credit; a full slot that is returned. -/
theorem witness_SlotsComplete : ∃ (s1 s2 : State) (t : Task) (x : Ctx) (u : Run), taskEnv s1 0 = some (t, x, u) ∧
    validRank x (rdS (coreAt s1 0) 5) = true ∧ Issues (.msgPush 4 5 6 0) { names := [nV 4, nS 5, nS 6] } (withLayouts (.msgPush 4 5 6 0) id) s1 ∧
    field (rdS (coreAt s1 0) 6) 31 24 = 0 ∧ field (rdS (coreAt s1 0) 6) 15 6 = 0 ∧ creditFor (coreAt s1 0) (rdS (coreAt s1 0) 5) 0 = some (0, 0) ∧
    Issues (.msgSret 5 6 7 0) { names := [nH 5, nS 6, nS 7], bytes := slotBytes 5 7 }
      (setFull (withLayouts (.msgSret 5 6 7 0) id) [0, 1, 2, 3] true) s2 ∧
    (let e := handleEntry (envOf s2) 5
     layoutCheck (envOf s2) sretForm e (slotCoords (envOf s2) e 7) = none ∧
     ∀ k ∈ granulesOf e 0 (slotRow e (rdS (coreAt s2 0) 7).toNat), fullBit s2 k = true) :=
  ⟨_, _, _, _, _, rfl, by decide, issues_of (by decide), by decide, by decide, by decide, issues_of (by decide), by decide, by decide⟩

theorem witness_RanksComplete : ∃ (s1 s2 : State) (t : Task) (x : Ctx) (u : Run), taskEnv s1 0 = some (t, x, u) ∧
    Issues (.rankRd 8 5 3 0) { names := [nS 8, nS 5] } (at_ (.rankRd 8 5 3 0)) s1 ∧ localRank x (rdS (coreAt s1 0) 5) = true ∧
    Issues (.rankMove 9 5 6 0) { names := [nS 9, nS 5, nS 6] } (at_ (.rankMove 9 5 6 0)) s2 ∧ localRank x (rdS (coreAt s2 0) 5) = true ∧
    placeCore x (rdS (coreAt s2 0) 5) = 0 ∧ (rdS (coreAt s2 0) 6).toNat < pcores x ∧ s2.packets = [] ∧ logical x (rdS (coreAt s2 0) 6).toNat = 0 :=
  ⟨_, _, _, _, _, rfl, issues_of (by decide), by decide, issues_of (by decide), by decide, by decide, by decide, by decide, by decide⟩

/-- Link 0 in service, with a flit in hand. -/
def linked (f : Flit) : State :=
  { State.reset with links := [(0, { Link.reset with up := true })]
                     input := { who := 0, flit := some f } }

theorem witness_LinkSteps :
    ((linkAt (linked ⟨0, true, false, none, none⟩) 0).up = true ∧ (0#16 : BitVec 16) = (linkAt (linked ⟨0, true, false, none, none⟩) 0).rxSeq) ∧
    (linkAt (linked ⟨1, true, false, none, none⟩) 0).up = true ∧ (1#16 : BitVec 16) ≠ (linkAt (linked ⟨1, true, false, none, none⟩) 0).rxSeq := by decide

/-- The mesh with one packet. -/
def travelling (p : Packet) (fc : Core → Core) : State := { withLayouts (.add 1 1 1) fc with packets := [(0, p)] }

theorem witness_PacketsLand :
    (∃ (s : State) (p : Packet) (x : Ctx) (en slot : Nat) (v : VReg) (ref : CardRef) (ri : Nat) (u : Run),
      s.packets[s.input.who]? = some (0, p) ∧ ctxAt s 0 = some x ∧ behind s 0 p.src p.dst s.input.who = false ∧ inTransit x p.dst = false ∧
      moving x = true ∧ duplicate x p = false ∧ p.body = .push en slot v ref ∧
      (clusterAt s (clusterOf (placeCore x p.dst))).holder = some (0, ri) ∧ runAt x ri = some u ∧
      (let e := releaseEntry u en
       wellFormedEntry e (pcores x) (releaseEntry u e.scaleh).fmt = true ∧ slotBuffer e = true ∧ slot < e.ext 1)) ∧
    ∃ (s : State) (p : Packet) (x : Ctx) (e k : Nat) (q : Nat × List Nat), s.packets[s.input.who]? = some (0, p) ∧ ctxAt s 0 = some x ∧
      behind s 0 p.src p.dst s.input.who = false ∧ inTransit x p.dst = false ∧ moving x = true ∧ duplicate x p = false ∧ p.body = .sret e k ∧
      returnCredit x (coreAt s (logical x (rankCore p.dst))) p.src e k = some q :=
  ⟨⟨travelling { src := 0, dst := 0, seq := 0, body := .push 5 0 0#256 ⟨0, 0, 0, 0, 4, 0⟩ } id, _, _, _, _, _, _, 0, _, rfl, rfl, by decide, by decide, by decide,
     by decide, rfl, by decide, rfl, by decide, by decide, by decide⟩,
   ⟨travelling { src := 0, dst := 0, seq := 0, body := .sret 5 0 } (fun c => { c with credits := [(0, [0, 5, 1])] }), _, _, _, _, _, rfl, rfl, by decide,
     by decide, by decide, by decide, rfl, rfl⟩⟩

/-! ## Launching and observation -/

/-- A context of two records at byte 64 of its caddy, of which the second may be patched in word 8. -/
def recorded (i : Instr) (f : Core → Core) (g : Ctx → Ctx) : State :=
  { place i f (fun x => g { x with hdr := some (0#32 :: 2#32 :: 64#32 :: List.replicate 13 0#32) }) id with caddy := [(305, 1#8)] }

theorem witness_LaunchInstructions : ∃ (s1 s2 s3 s4 s5 s6 : State) (t : Task) (x : Ctx) (u : Run), taskEnv s1 0 = some (t, x, u) ∧
    Issues (.lrecRd 5 28) { names := [nS 5] } (recorded (.lrecRd 5 28) id id) s1 ∧
    Issues (.lrecPatch 3 4 8) { names := [nS 3, nS 4] } (recorded (.lrecPatch 3 4 8) (regs [(3, 1)]) id) s2 ∧
    (rdS (coreAt s2 0) 3).toNat < nrec x ∧ (recWord s2 0 x (rdS (coreAt s2 0) 3).toNat 28).getLsbD 8 = true ∧
    (rdS (coreAt s2 0) 3).toNat ≠ t.ridx ∧ liveState (recState s2 0 x (rdS (coreAt s2 0) 3).toNat) = false ∧
    Issues (.lrecArm 5 3 4) { names := [nS 5, nS 3, nS 4] } (recorded (.lrecArm 5 3 4) id id) s3 ∧ (rdS (coreAt s3 0) 3).toNat = t.ridx ∧
    Issues (.lrecArm 5 3 4) { names := [nS 5, nS 3, nS 4] } (recorded (.lrecArm 5 3 4) (regs [(3, 1)]) id) s4 ∧
    (rdS (coreAt s4 0) 3).toNat ≠ t.ridx ∧ liveState (recState s4 0 x (rdS (coreAt s4 0) 3).toNat) = false ∧
    Issues (.tqReq 5 3) { names := [nS 5, nS 3] } (recorded (.tqReq 5 3) (regs [(3, 255)]) id) s5 ∧
    1 ≤ (rdS (coreAt s5 0) 3).toNat ∧ (rdS (coreAt s5 0) 3).toNat ≤ 255 ∧
    Issues (.grpRd 5 3 2) { names := [nS 5, nS 3] } (recorded (.grpRd 5 3 2) id id) s6 :=
  ⟨_, _, _, _, _, _, _, _, _, rfl, issues_of (by decide), issues_of (by decide), by decide, by decide, by decide, by decide, issues_of (by decide),
    by decide, issues_of (by decide), by decide, by decide, issues_of (by decide), by decide, by decide, issues_of (by decide)⟩

/-- Past the last record; a word that the mask leaves out; the own record; a live one outside a DET context. -/
theorem witness_PatchTraps : ∃ (s1 s2 s3 s4 : State) (x y : Ctx),
    Issues (.lrecPatch 3 4 8) { names := [nS 3, nS 4] } (recorded (.lrecPatch 3 4 8) (regs [(3, 2)]) id) s1 ∧ ctxAt s1 0 = some x ∧
    nrec x ≤ (rdS (coreAt s1 0) 3).toNat ∧ nrec x ≤ 2 ^ 24 ∧
    Issues (.lrecPatch 3 4 9) { names := [nS 3, nS 4] } (recorded (.lrecPatch 3 4 9) (regs [(3, 1)]) id) s2 ∧
    (rdS (coreAt s2 0) 3).toNat < nrec x ∧ (recWord s2 0 x (rdS (coreAt s2 0) 3).toNat 28).getLsbD 9 = false ∧
    Issues (.lrecPatch 3 4 8) { names := [nS 3, nS 4] } { recorded (.lrecPatch 3 4 8) id id with caddy := [(177, 1#8)] } s3 ∧
    (recWord s3 0 x (rdS (coreAt s3 0) 3).toNat 28).getLsbD 8 = true ∧ (rdS (coreAt s3 0) 3).toNat = 0 ∧
    Issues (.lrecPatch 3 4 8) { names := [nS 3, nS 4] } { recorded (.lrecPatch 3 4 8) (regs [(3, 1)]) nodet with caddy := [(305, 1#8), (308, 1#8)] } s4 ∧
    ctxAt s4 0 = some y ∧ y.det = false ∧ (recWord s4 0 y (rdS (coreAt s4 0) 3).toNat 28).getLsbD 8 = true ∧
    liveState (recState s4 0 y (rdS (coreAt s4 0) 3).toNat) = true :=
  ⟨_, _, _, _, _, _, issues_of (by decide), rfl, by decide, by decide, issues_of (by decide), by decide, by decide, issues_of (by decide), by decide, by decide,
    issues_of (by decide), rfl, rfl, by decide, by decide⟩

theorem witness_PoolAnswers : (∃ (s : State) (x : Ctx), ctxAt s s.input.who = some x ∧ x.pool = []) ∧
    ∃ (s : State) (x : Ctx) (n : Nat) (rest : List Nat), ctxAt s s.input.who = some x ∧ x.pool = n :: rest :=
  ⟨⟨at_ (.add 1 1 1), _, rfl, rfl⟩, ⟨place (.add 1 1 1) id (fun x => { x with pool := [0] }) id, _, _, _, rfl, rfl⟩⟩

theorem witness_Observation : ∃ (s1 s2 s3 s4 s5 s6 s7 : State) (t : Task) (x y z : Ctx) (u : Run), taskEnv s1 0 = some (t, x, u) ∧
    Issues (.cntRd 5 3 2) { names := [nS 5, nS 3], sys := true } (place (.cntRd 5 3 2) (regs [(3, 58)]) id id) s1 ∧
    (rdS (coreAt s1 0) 3).toNat % 64 < 59 ∧
    Issues (.cntRd 5 3 2) { names := [nS 5, nS 3], sys := true } (place (.cntRd 5 3 2) (regs [(3, 59)]) id id) s2 ∧
    59 ≤ (rdS (coreAt s2 0) 3).toNat % 64 ∧
    Issues (.prfRd 24 3 0) { names := [nS 24, nS 3] } (place (.prfRd 24 3 0) (fun c => { c with cr := { c.cr with detm := 1 } }) id id) s3 ∧
    (coreAt s3 0).cr.detm.getLsbD 0 = true ∧ (coreAt s3 0).priv = false ∧
    Issues (.prfRd 24 3 0) { names := [nS 24, nS 3] } (place (.prfRd 24 3 0) (fun c => { c with cr := { c.cr with detm := 0 } }) id id) s4 ∧
    (coreAt s4 0).cr.detm.getLsbD 0 = false ∧
    Issues (.trcMark 4 9) { names := [nS 4] } (at_ (.trcMark 4 9)) s5 ∧ x.tracing = false ∧
    Issues (.trcMark 4 9) { names := [nS 4] } (place (.trcMark 4 9) id (fun x => { x with tracing := true }) id) s6 ∧ ctxAt s6 0 = some y ∧
    y.tracing = true ∧ (coreAt s6 0).traceq.length < 16 ∧
    Issues (.trcMark 4 9) { names := [nS 4] } (place (.trcMark 4 9) (fun c => { c with traceq := List.replicate 16 [] }) (fun x => { x with tracing := true }) id) s7 ∧
    ctxAt s7 0 = some z ∧ z.tracing = true ∧ 16 ≤ (coreAt s7 0).traceq.length :=
  ⟨_, _, _, _, _, _, _, _, _, _, _, _, rfl, issues_of (by decide), by decide, issues_of (by decide), by decide, issues_of (by decide), by decide, by decide,
    issues_of (by decide), by decide, issues_of (by decide), rfl, issues_of (by decide), rfl, rfl, by decide, issues_of (by decide), rfl, rfl, by decide⟩

/-- Phodiver runs. -/
def managed (s : State) : State := { s with mcores := ⟨#[Mcore.reset .phodiver, Mcore.reset .phodiver, Mcore.reset .phodiver, Mcore.reset .phodiver], rfl⟩ }

/-- A record of context 0 in core 0's queue, with the context's filter. -/
def traced (f : Option (List Word)) : State :=
  place (.add 1 1 1) (fun c => { c with traceq := [List.replicate 8 0#32] }) (fun x => { x with tracing := true, filter := f }) id

/-- No filter; a filter that keeps its record and stops; Phodiver does not run. -/
theorem witness_TraceFilters : (∃ (s : State) (r : List Word) (q : List (List Word)) (x : Ctx), phodiverRuns s = true ∧
      (coreAt s s.input.who).traceq = r :: q ∧ ctxAt s (field (r.getD 6 0#32) 29 24) = some x ∧ x.filter = none) ∧
    (∃ (s : State) (r rest : List Word) (q : List (List Word)) (x : Ctx) (w : Word), phodiverRuns s = true ∧
      (coreAt s s.input.who).traceq = r :: q ∧ ctxAt s (field (r.getD 6 0#32) 29 24) = some x ∧ x.filter = some (w :: rest) ∧ fOp w = 12) ∧
    phodiverRuns (traced none) = false :=
  ⟨⟨managed (traced none), _, _, _, by decide, rfl, rfl, rfl⟩, ⟨managed (traced (some [0x0C000000#32])), _, _, _, _, _, by decide, rfl, rfl, rfl, by decide⟩,
   by decide⟩

/-! ## The module -/

/-- The module with power-on done and the management complex as owner. -/
def owned (s : State) : State := { s with mgmt := { s.mgmt with ready := true, ownerId := 8#4 } }

theorem witness_PowerOn : (State.reset.mgmt.stage = 0#4 ∧ State.reset.mgmt.fail = false) ∧
    ({ State.reset with mgmt := { Mgmt.reset with stage := 9#4 } } : State).mgmt.stage ≠ 0#4 := by decide

/-- A step with an input from master m at offset off. -/
def request (s : State) (m off width : Nat) (v : BitVec 64) : State := { s with input := { who := m, off := off, width := width, value := v } }

/-- A warm reset in a stage, which is the next step. -/
def warmAt (k : BitVec 4) : State :=
  managed { State.reset with agenda := [.stage], mgmt := { Mgmt.reset with warm := true, stage := k, ownerId := 8#4 } }

theorem witness_Resets : (let s := request (owned State.reset) 8 0 4 1
      s.mgmt.ready = true ∧ isOwner s s.input.who = true ∧ s.input.value.getLsbD 0 = true) ∧
    (let s := request (owned State.reset) 8 0 4 2
     s.mgmt.ready = true ∧ isOwner s s.input.who = true ∧ s.input.value.getLsbD 0 = false) ∧
    (let s := request (owned State.reset) 2 0 4 1
     isOwner s s.input.who = false) ∧
    (let s := warmAt 5#4
     s.agenda = [.stage] ∧ s.mgmt.warm = true ∧ s.mgmt.ready = false ∧ phodiverRuns s = true ∧ s.mgmt.stage = 5#4) ∧
    (warmAt 6#4).mgmt.stage = 6#4 ∧ (warmAt 7#4).mgmt.stage = 7#4 ∧ (warmAt 8#4).mgmt.stage = 8#4 ∧ (warmAt 9#4).mgmt.stage = 9#4 ∧
    (warmAt 6#4).boot.dramOk = true ∧ (warmAt 8#4).boot.zeroOk = true := by decide

/-- A record of the one context that runs; the caddy of no other is written. -/
theorem witness_WarmRecords : ∃ (x : Ctx) (u : Run), ctxAt (at_ (.add 1 1 1)) 0 = some x ∧
    (∀ e ∈ (at_ (.add 1 1 1)).ctxs, e = (0, x) ∨ e.2.runs = []) ∧ tget x.runs 0 = some u :=
  ⟨_, _, rfl, by intro e h; exact .inl (List.mem_singleton.1 h), rfl⟩

/-- 105 °C, 104 °C, 94 °C and 95 °C, while Phodiver runs. -/
theorem witness_Thermal : ∃ (s : State) (x : Ctx), 105 ≤ (request s 0 0 0 105).input.value.toNat ∧ phodiverRuns s = true ∧ s.mgmt.therm = false ∧
    ctxAt s 0 = some x ∧ x.runs ≠ [] ∧ (request s 0 0 0 104).input.value.toNat < 105 ∧ (request s 0 0 0 94).input.value.toNat < 95 ∧
    95 ≤ (request s 0 0 0 95).input.value.toNat ∧ ({ s with mgmt := { s.mgmt with therm := true } } : State).mgmt.therm = true ∧
    phodiverRuns State.reset = false :=
  ⟨managed (at_ (.add 1 1 1)), _, by decide, by decide, by decide, rfl, by decide, by decide, by decide, by decide, rfl, by decide⟩

/-- The owner gives the module to host function 0, whose ID is 1; a master that is not the owner may not; a reserved bit is set; a function that is
not present. -/
theorem witness_Ownership :
    (let s := request (owned State.reset) 8 0xC 4 0x18
     s.mgmt.ready = true ∧ (s.input.value.truncate 32 : Word).toNat < 256 ∧ (s.input.value.truncate 32 : Word).toNat % 16 = s.mgmt.ownerId.toNat ∧
       (s.input.value.truncate 32 : Word).toNat % 16 = s.input.who ∧ 0 ∈ s.boot.functions) ∧
    (let s := request (owned State.reset) 2 0xC 4 0x10
     (s.input.value.truncate 32 : Word).toNat % 16 ≠ s.mgmt.ownerId.toNat) ∧
    (let s := request (owned State.reset) 8 0xC 4 0x118
     ¬(s.input.value.truncate 32 : Word).toNat < 256) ∧ 4 ∉ (owned State.reset).boot.functions := by decide

/-- The link of function 0 of a module that is its; a module that the management complex owns; no module READY. -/
theorem witness_OwnerLoss :
    (let s := managed { State.reset with mgmt := { Mgmt.reset with ownerId := 1#4 }, input := { who := 0 } }
     s.input.who < 4 ∧ s.mgmt.ownerId.toNat = s.input.who + 1 ∧ phodiverRuns s = true) ∧
    (owned State.reset).mgmt.ownerId.toNat ≠ 0 + 1 ∧ State.reset.mgmt.ready = false := by decide

theorem witness_RegisterWrites : (let s := { request (owned State.reset) 8 0x100 8 0 with input := { who := 8, off := 0x100, width := 8, flag := true } }
      s.input.off < 0x108 ∧ 0x100 < s.input.off + s.input.width ∧ s.input.flag = decide (s.input.off = 0x100 ∧ s.input.width = 8)) ∧
    (let s := { request (owned State.reset) 8 0x104 4 0 with input := { who := 8, off := 0x104, width := 4, flag := false } }
     s.input.off < 0x108 ∧ 0x100 < s.input.off + s.input.width ∧ s.input.flag = decide (s.input.off = 0x100 ∧ s.input.width = 8)) ∧
    (let s := request (owned State.reset) 8 0x400 4 0
     ¬(s.input.off < 0x108 ∧ 0x100 < s.input.off + s.input.width) ∧ s.input.off ≠ 0x304 ∧ ¬(s.input.off < 0x300)) ∧
    (let s := request (owned State.reset) 8 0x208 4 0x82
     s.input.width = 4 ∧ s.mgmt.ready = true ∧ 0x204 ≤ s.input.off ∧ s.input.off < 0x300 ∧ s.input.off % 4 = 0) ∧
    (let s := { request (owned State.reset) 8 0x200 4 1 with masters := [(8, { Master.reset with mbox := [(2, 0x82#32)] })] }
     s.mboxq = [] ∧ mboxWord s 8 0 = 0#32 ∧ (s.input.value.truncate 32 : Word) = 1#32 ∧ mboxListed (mboxWord s 8 2) = true) ∧
    (let s := { request (owned State.reset) 8 0x304 4 1 with masters := [(8, { Master.reset with events := [[]] })] }
     s.mgmt.ready = true ∧ (s.input.value.truncate 32 : Word).getLsbD 0 = true ∧ (masterAt s 8).events = [[]]) ∧
    State.reset.mgmt.ready = false := by decide

/-- A caddy of one context: words from a byte on. -/
def caddyWords (o : Nat) (ws : List Word) : Memory :=
  (ws.zipIdx.flatMap (fun e => (List.range 4).map (fun b => (o + 4 * e.2 + b, e.1.extractLsb' (8 * b) 8)))).filter (fun e => decide (e.2 ≠ 0#8))

/-- A context of one record at byte 64, ready to arm. -/
def armable (check : Word) (q : BitVec 64) : State :=
  let s := recorded (.add 1 1 1) id (fun x => { x with hdr := some (0#32 :: 1#32 :: 64#32 :: List.replicate 13 0#32) })
  { owned s with caddy := caddyWords 188 [check], input := { who := 8, value := q, flag := true, width := 8 } }

/-- Before READY; malformed; by no owner; too warm; of no context; of one without a seal; past the last record; with a wrong checksum; and accepted. -/
theorem witness_Arming : ∃ x : Ctx, State.reset.mgmt.ready = false ∧
    (armable 0 0x40).input.value.toNat / 64 % 4 ≠ 0 ∧ isOwner { armable 0 0 with mgmt := Mgmt.reset } 8 = false ∧
    ctxAt (armable 0 1) 1 = none ∧ (ctxAt (place (.add 1 1 1) id (fun x => { x with hdr := none }) id) 0).map (·.hdr.isNone) = some true ∧ ctxAt (armable 0 0) 0 = some x ∧ x.hdr.isSome = true ∧ nrec x ≤ (0x100 : Nat) / 256 % 2 ^ 24 ∧ 0 < nrec x ∧
    liveState (recState (armable 0 0) 0 x 0) = false ∧ recWord (armable 0 0) 0 x 0 0 = 0#32 ∧
    crc32c (wordsBytes (recWords (armable 0 0) 0 x 0)) ≠ recWord (armable 0 0) 0 x 0 31 ∧
    crc32c (wordsBytes (recWords (armable (crc32c (List.replicate 116 0#8)) 0) 0 x 0)) = recWord (armable (crc32c (List.replicate 116 0#8)) 0) 0 x 0 31 :=
  ⟨_, by decide, by decide, by decide, by decide, by decide, rfl, rfl, by decide, by decide, by decide, by decide, by decide +kernel, by decide +kernel⟩

/-- Function 0 writes two bytes of a caddy that is its, and one of which the first is a byte of STATUS; and of one that is not. -/
theorem witness_CaddyWrites : ∃ (s : State) (x y z : Ctx), ctxAt s 0 = some x ∧ boundTo x 1 = true ∧
    (∀ k < 2, 100 + k < x.clen ∧ liveCode x (100 + k) = false) ∧ ctxAt s 1 = none ∧ ctxAt (at_ (.add 1 1 1)) 0 = some y ∧ boundTo y 1 = false ∧
    ctxAt (recorded (.add 1 1 1) id id) 0 = some z ∧ statusByte z (64 + 0x74) = true :=
  ⟨place (.add 1 1 1) id (fun x => { x with func := some 0 }) id, _, _, _, rfl, by decide, by decide, by decide, rfl, by decide, rfl, by decide⟩

/-- A write of a byte at the start of the code of the record that runs. -/
theorem witness_Bar2Writes : ∃ (s : State) (x : Ctx) (e : Nat × Run), ctxAt s (s.input.off / 2 ^ 30) = some x ∧ e ∈ x.runs ∧
    ∃ k < s.input.bytes.length, codeoff x + e.2.kernel.kcode ≤ s.input.off % 2 ^ 30 + k ∧
      s.input.off % 2 ^ 30 + k < codeoff x + e.2.kernel.kcode + 2 * e.2.kernel.klen :=
  ⟨{ at_ (.add 1 1 1) with input := { who := 1, off := 0, bytes := [1#8] } }, _, _, rfl, List.mem_singleton.2 rfl, 0, by decide, by decide, by decide⟩

/-- A command with its arguments by the owner. -/
def issued (code : Word) (args : List Word) (s : State) : State :=
  { owned s with masters := [(8, { Master.reset with mbox := (2, code) :: args.zipIdx.map (fun e => (3 + e.2, e.1)) })], mboxq := [8] }

/-- The same by host function 2, which is bound to nothing. -/
def issuedBy3 (code : Word) (s : State) : State := { owned s with masters := [(3, { Master.reset with mbox := [(2, code)] })], mboxq := [3] }

/-- No command waits; the master may not issue it; no such context. -/
theorem witness_MailboxProtocol : Spec.commandRow .bind = some (0x12, .owner, true) ∧ (owned State.reset).mboxq = [] ∧
    (issuedBy3 0x12 State.reset).mboxq = [3] ∧ (issuedBy3 0x12 State.reset).mgmt.serving = none ∧ (issuedBy3 0x12 State.reset).mgmt.ready = true ∧
    (mboxWord (issuedBy3 0x12 State.reset) 3 2).toNat = 0x12 ∧ isOwner (issuedBy3 0x12 State.reset) 3 = false ∧
    isOwner (issued 0x12 [] State.reset) 8 = true ∧ ctxAt (issued 0x12 [] State.reset) (Spec.arg (issued 0x12 [] State.reset) 8 0).toNat = none :=
  ⟨rfl, by decide, by decide, rfl, by decide, by decide, by decide, by decide, by decide⟩

/-- The module with core 0's context, which is at rest: it runs nothing. -/
def resting (f : Ctx → Ctx) : State :=
  let s := place (.add 1 1 1) id (fun x => f { x with runs := [] }) id
  updCluster (updCore s 0 (fun c => { c with task := none, next := none })) 0 (fun k => { k with holder := none })

/-- A header of one record, one kernel and four halfwords of code. -/
def header : Memory :=
  caddyWords 0 [0x43414459#32, 1#32, 128#32, 1#32, 256#32, 320#32, 16704#32, 20800#32, 8#32]

def fwminS : State := let s := issued 0x01 [] State.reset
  { s with boot := { s.boot with image0 := none, image1 := none } }
def createS (c : Word) : State := issued 0x10 [c, 0x00010000#32, 0xF0#32, 65536#32] State.reset
def sealS : State := { issued 0x11 [0#32] (resting id) with caddy := header }
def hloadS : State :=
  { issued 0x60 [0#32, 0#32, 1#32, 0#32] (resting (fun x => { x with hdr := some ((List.range 9).map (fun k => BitVec.ofNat 32 (readLE header (4 * k) 4))) })) with
    caddy := header }

/-- FWMIN, CREATE, SEAL, BIND, DEBUG, DBGCONT and HLOAD by the owner, each with its checks passed. -/
theorem witness_ContextCommands :
    (Spec.Served .fwmin fwminS 8 0x01 .owner false ∧ fwminS.boot.fusedMin ≠ fwminS.boot.version ∧ fwminS.boot.fuseWriteOk = true) ∧
    (Spec.Served .create (createS 1) 8 0x10 .owner false ∧ createStatus (createS 1) (Spec.arg (createS 1) 8) = 0) ∧
    (Spec.Served .create (createS 0xFF) 8 0x10 .owner false ∧ createStatus (createS 0xFF) (Spec.arg (createS 0xFF) 8) = 0 ∧
      ctxAt (createS 0xFF) 0 = none) ∧
    (∃ x, Spec.Served .sealPart sealS 8 0x11 .ownerOrBound true ∧ ctxAt sealS 0 = some x ∧ anyLive x = false ∧
      sealStatus x (fun k => caddyW sealS 0 (4 * k)) (fun g k => caddyW sealS 0 ((caddyW sealS 0 24).toNat + 16 * g + 4 * k)) = 0) ∧
    (∃ s x, Spec.Served .bind s 8 0x12 .owner true ∧ ctxAt s (Spec.arg s 8 0).toNat = some x ∧ (Spec.arg s 8 1).toNat = 0xF ∧ anyLive x = false) ∧
    (∃ s x, Spec.Served .debug s 8 0x30 .owner true ∧ ctxAt s (Spec.arg s 8 0).toNat = some x ∧ Spec.arg s 8 1 = 1#32) ∧
    (∃ s x, Spec.Served .dbgcont s 8 0x31 .owner true ∧ ctxAt s (Spec.arg s 8 0).toNat = some x ∧ x.saved = none ∧
      (Spec.arg s 8 1).toNat < pcores x ∧ (coreAt s (logical x (Spec.arg s 8 1).toNat)).dbgHeld = true) ∧
    ∃ x, Spec.Served .hload hloadS 8 0x60 .owner true ∧ ctxAt hloadS 0 = some x ∧ anyLive x = false ∧ 1 ≤ (Spec.arg hloadS 8 2).toNat ∧
      (Spec.arg hloadS 8 2).toNat ≤ 2048 ∧ (Spec.arg hloadS 8 1).toNat % 2 = 0 ∧
      (Spec.arg hloadS 8 1).toNat + 2 * (Spec.arg hloadS 8 2).toNat ≤ codelen x :=
  ⟨⟨⟨rfl, ⟨[], rfl⟩, rfl, rfl, by decide, rfl⟩, by decide, rfl⟩, ⟨⟨rfl, ⟨[], rfl⟩, rfl, rfl, by decide, rfl⟩, by decide⟩,
   ⟨⟨rfl, ⟨[], rfl⟩, rfl, rfl, by decide, rfl⟩, by decide, by decide⟩,
   ⟨_, ⟨rfl, ⟨[], rfl⟩, rfl, rfl, by decide, .inl rfl⟩, rfl, by decide, by decide⟩,
   ⟨issued 0x12 [0#32, 0xF#32] (resting id), _, ⟨rfl, ⟨[], rfl⟩, rfl, rfl, by decide, rfl⟩, rfl, by decide, by decide⟩,
   ⟨issued 0x30 [0#32, 1#32] (resting id), _, ⟨rfl, ⟨[], rfl⟩, rfl, rfl, by decide, rfl⟩, rfl, by decide⟩,
   ⟨issued 0x31 [0#32, 0#32] (place (.add 1 1 1) (fun c => { c with dbgHeld := true }) id id), _, ⟨rfl, ⟨[], rfl⟩, rfl, rfl, by decide, rfl⟩, rfl, rfl, by decide,
     by decide⟩,
   ⟨_, ⟨rfl, ⟨[], rfl⟩, rfl, rfl, by decide, rfl⟩, rfl, by decide, by decide, by decide, by decide, by decide⟩⟩

def recreadS : State := { issued 0x81 [5#32, 0#32, 0#32] State.reset with signed := [{ number := 5, ctx := none, bytes := [1#8] }] }

/-- PREEMPT of a context that runs, that has halted, and that is held already; RESUME of one that is held and one that is not; SNAP, RECREAD, IDKEY in
and past the certificate, and RETIRE. -/
theorem witness_LifeCommands :
    (∃ s x, Spec.Served .preempt s 8 0x20 .owner true ∧ ctxAt s (Spec.arg s 8 0).toNat = some x ∧ moving x = true) ∧
    (∃ s x, Spec.Served .preempt s 8 0x20 .owner true ∧ ctxAt s (Spec.arg s 8 0).toNat = some x ∧ moving x = false ∧ HoldBy.preempt ∉ x.holds) ∧
    (∃ s x, Spec.Served .preempt s 8 0x20 .owner true ∧ ctxAt s (Spec.arg s 8 0).toNat = some x ∧ moving x = false ∧ HoldBy.preempt ∈ x.holds) ∧
    (∃ s x, Spec.Served .resume s 8 0x21 .owner true ∧ ctxAt s (Spec.arg s 8 0).toNat = some x ∧ HoldBy.preempt ∈ x.holds) ∧
    (∃ s x, Spec.Served .resume s 8 0x21 .owner true ∧ ctxAt s (Spec.arg s 8 0).toNat = some x ∧ HoldBy.preempt ∉ x.holds) ∧
    (∃ s x, Spec.Served .snap s 8 0x80 .ownerOrBound true ∧ ctxAt s (Spec.arg s 8 0).toNat = some x ∧ x.runs = [] ∧ cardsHeld s x = false) ∧
    (Spec.Served .recread recreadS 8 0x81 .any false ∧ isOwner recreadS 8 = true ∧ ∃ r, recreadS.signed.find? (fun r => decide (r.number =
      ofWords (Spec.arg recreadS 8 0) (Spec.arg recreadS 8 1))) = some r ∧ (Spec.arg recreadS 8 2).toNat * 128 < r.bytes.length) ∧
    (∃ s, Spec.Served .idkey s 8 0x82 .any false ∧ (Spec.arg s 8 0).toNat < 8) ∧ (∃ s, Spec.Served .idkey s 8 0x82 .any false ∧ 8 ≤ (Spec.arg s 8 0).toNat) ∧
    (∃ s x y, Spec.Served .retire s 8 0x83 .owner true ∧ ctxAt s (Spec.arg s 8 0).toNat = some x ∧
      ctxAt (withUnits s 0 (fun s => retireStop s 0)) 0 = some y ∧ enginesBusy (withUnits s 0 (fun s => retireStop s 0)) 0 y = false) ∧
    ∃ s x y, Spec.Served .retire s 8 0x83 .owner true ∧ ctxAt s (Spec.arg s 8 0).toNat = some x ∧
      ctxAt (withUnits s 0 (fun s => retireStop s 0)) 0 = some y ∧ enginesBusy (withUnits s 0 (fun s => retireStop s 0)) 0 y = true :=
  ⟨⟨issued 0x20 [0#32] (at_ (.add 1 1 1)), _, ⟨rfl, ⟨[], rfl⟩, rfl, rfl, by decide, rfl⟩, rfl, by decide⟩,
   ⟨issued 0x20 [0#32] (resting (fun x => { x with halt := .held })), _, ⟨rfl, ⟨[], rfl⟩, rfl, rfl, by decide, rfl⟩, rfl, by decide, by decide⟩,
   ⟨issued 0x20 [0#32] (resting (fun x => { x with halt := .held, holds := [.preempt] })), _, ⟨rfl, ⟨[], rfl⟩, rfl, rfl, by decide, rfl⟩, rfl, by decide, by decide⟩,
   ⟨issued 0x21 [0#32] (resting (fun x => { x with halt := .held, holds := [.preempt] })), _, ⟨rfl, ⟨[], rfl⟩, rfl, rfl, by decide, rfl⟩, rfl, by decide⟩,
   ⟨issued 0x21 [0#32] (resting id), _, ⟨rfl, ⟨[], rfl⟩, rfl, rfl, by decide, rfl⟩, rfl, by decide⟩,
   ⟨issued 0x80 [0#32] (resting id), _, ⟨rfl, ⟨[], rfl⟩, rfl, rfl, by decide, .inl rfl⟩, rfl, rfl, by decide⟩,
   ⟨⟨rfl, ⟨[], rfl⟩, rfl, rfl, by decide, trivial⟩, by decide, _, rfl, by decide⟩,
   ⟨issued 0x82 [7#32] State.reset, ⟨rfl, ⟨[], rfl⟩, rfl, rfl, by decide, trivial⟩, by decide⟩,
   ⟨issued 0x82 [8#32] State.reset, ⟨rfl, ⟨[], rfl⟩, rfl, rfl, by decide, trivial⟩, by decide⟩,
   ⟨issued 0x83 [0#32] (resting id), _, _, ⟨rfl, ⟨[], rfl⟩, rfl, rfl, by decide, rfl⟩, rfl, rfl, by decide⟩,
   ⟨issued 0x83 [0#32] { resting id with cores := [(0, { Core.reset with cmds := [(1, { cmd .copy 1 0 true with fault := some 1 })] })] }, _, _,
     ⟨rfl, ⟨[], rfl⟩, rfl, rfl, by decide, rfl⟩, rfl, rfl, by decide⟩⟩

/-- The page of space s that a MAP of these arguments names. -/
def pageOf (s : State) : Page :=
  { space := (Spec.arg s 8 1).toNat, entry := Spec.arg s 8 5 ++ Spec.arg s 8 4 ++ Spec.arg s 8 3 ++ Spec.arg s 8 2 }

def aPage : Page := { space := 3, entry := 0x00000000000000008000000000000000 }
def aJob (sealed : Bool) : Job := { id := 1, nonce := 0, modules := 2, own := 0, map := [(0, 1)], sealed := sealed, neigh := [] }

/-- MAP of a free page, of a malformed one and of one that meets another; UNMAP without and with a far lock; PGRESP of a fault. -/
theorem witness_PageCommands :
    (∃ s x, Spec.Served .map s 8 0x40 .ownerOrBound true ∧ ctxAt s (Spec.arg s 8 0).toNat = some x ∧ malformedPage (Spec.arg s 8 1).toNat (pageOf s) = false ∧
      pageRefused s x (pageOf s) = false) ∧
    (∃ s x, Spec.Served .map s 8 0x40 .ownerOrBound true ∧ ctxAt s (Spec.arg s 8 0).toNat = some x ∧ malformedPage (Spec.arg s 8 1).toNat (pageOf s) = true) ∧
    (∃ s x, Spec.Served .map s 8 0x40 .ownerOrBound true ∧ ctxAt s (Spec.arg s 8 0).toNat = some x ∧ malformedPage (Spec.arg s 8 1).toNat (pageOf s) = false ∧
      pageRefused s x (pageOf s) = true) ∧
    (∃ s x p, Spec.Served .unmap s 8 0x41 .ownerOrBound true ∧ ctxAt s (Spec.arg s 8 0).toNat = some x ∧
      x.pages.find? (fun p => decide (p.space = (Spec.arg s 8 1).toNat ∧ pageBase p = (Spec.arg s 8 2).toNat * 2 ^ 16)) = some p ∧ x.far = []) ∧
    (∃ s x p, Spec.Served .unmap s 8 0x41 .ownerOrBound true ∧ ctxAt s (Spec.arg s 8 0).toNat = some x ∧
      x.pages.find? (fun p => decide (p.space = (Spec.arg s 8 1).toNat ∧ pageBase p = (Spec.arg s 8 2).toNat * 2 ^ 16)) = some p ∧
      ∃ l ∈ x.far, l.place = (Spec.arg s 8 1).toNat ∧ l.lo / 64 * 64 < pageBase p + pageLen p ∧ pageBase p ≤ l.hi) ∧
    ∃ s x f k, Spec.Served .pgresp s 8 0x42 .ownerOrBound true ∧ ctxAt s (Spec.arg s 8 0).toNat = some x ∧ x.saved = none ∧ (Spec.arg s 8 2).toNat < 2 ∧
      x.faults.find? (fun f => decide (f.number = (Spec.arg s 8 1).toNat)) = some f ∧ tget (coreAt s f.core).cmds f.seq = some k :=
  ⟨⟨issued 0x40 [0#32, 3#32, 0#32, 0x80000000#32] (resting id), _, ⟨rfl, ⟨[], rfl⟩, rfl, rfl, by decide, .inl rfl⟩, rfl, by decide, by decide⟩,
   ⟨issued 0x40 [0#32, 1#32, 0#32, 0x80000000#32] (resting id), _, ⟨rfl, ⟨[], rfl⟩, rfl, rfl, by decide, .inl rfl⟩, rfl, by decide⟩,
   ⟨issued 0x40 [0#32, 3#32, 0#32, 0x80000000#32] (resting (fun x => { x with pages := [aPage] })), _, ⟨rfl, ⟨[], rfl⟩, rfl, rfl, by decide, .inl rfl⟩, rfl, by decide,
     by decide⟩,
   ⟨issued 0x41 [0#32, 3#32, 0#32] (resting (fun x => { x with pages := [aPage] })), _, _, ⟨rfl, ⟨[], rfl⟩, rfl, rfl, by decide, .inl rfl⟩, rfl, rfl, rfl⟩,
   ⟨issued 0x41 [0#32, 3#32, 0#32] (resting (fun x => { x with pages := [aPage], far := [{ place := 3, lo := 0, hi := 63, bankp := 0, dst := true, owner := 0, seq := 1 }] })), _, _,
     ⟨rfl, ⟨[], rfl⟩, rfl, rfl, by decide, .inl rfl⟩, rfl, rfl, by decide⟩,
   ⟨issued 0x42 [0#32, 1#32, 0#32] (place (.add 1 1 1) (fun c => { c with cmds := [(1, cmd .copy 1 0 true)] })
      (fun x => { x with faults := [{ number := 1, core := 0, seq := 1 }] }) id), _, _, _, ⟨rfl, ⟨[], rfl⟩, rfl, rfl, by decide, .inl rfl⟩, rfl, rfl, by decide, rfl, rfl⟩⟩

def jobmapS : State := issued 0x51 [0#32, 1#32, 2#32, 0#32, 1#32] (resting (fun x => { x with job := some (aJob false) }))

theorem jobmap_pairs : mapPairs (Spec.arg jobmapS 8) = [(1#32, 2#64)] := by decide

/-- JOBOPEN, JOBMAP, JOBSEAL in both its steps, JOBCLOSE, TRACE, and TFILTER of a program that is taken and of one that is not. -/
theorem witness_JobCommands :
    (∃ s x, Spec.Served .jobopen s 8 0x50 .owner false ∧ ctxAt s (Spec.arg s 8 0).toNat = some x ∧ x.job = none ∧ anyLive x = false ∧
      2 ≤ (Spec.arg s 8 4).toNat ∧ (Spec.arg s 8 4).toNat ≤ 65535) ∧
    (∃ s x j t, Spec.Served .jobmap s 8 0x51 .owner false ∧ ctxAt s (Spec.arg s 8 0).toNat = some x ∧ x.job = some j ∧ j.sealed = false ∧
      1 ≤ (Spec.arg s 8 1).toNat ∧ (Spec.arg s 8 1).toNat ≤ 19 ∧ (∀ e ∈ mapPairs (Spec.arg s 8), e.1.toNat < 65536) ∧
      addPairs j.modules (mapPairs (Spec.arg s 8)) j.map = some t) ∧
    (∃ s x j own, Spec.Served .jobseal s 8 0x52 .owner false ∧ ctxAt s (Spec.arg s 8 0).toNat = some x ∧ x.job = some j ∧ j.sealed = false ∧
      j.calling = false ∧ s.mgmt.links.getLsbD 0 = true ∧ j.map.find? (fun e => decide (e.2 = s.serial)) = some (own, s.serial)) ∧
    (∃ s x j own, Spec.Served .jobseal s 8 0x52 .owner false ∧ ctxAt s (Spec.arg s 8 0).toNat = some x ∧ x.job = some j ∧ j.sealed = false ∧
      j.calling = true ∧ s.input.value = 0#64 ∧ j.map.find? (fun e => decide (e.2 = s.serial)) = some (own, s.serial)) ∧
    (∃ s x, Spec.Served .jobclose s 8 0x53 .owner false ∧ ctxAt s (Spec.arg s 8 0).toNat = some x ∧ x.job ≠ none ∧ anyLive x = false) ∧
    (∃ s x, Spec.Served .trace s 8 0x84 .owner true ∧ ctxAt s (Spec.arg s 8 0).toNat = some x ∧ (Spec.arg s 8 1).toNat < 2) ∧
    (∃ s x, Spec.Served .tfilter s 8 0x85 .owner true ∧ ctxAt s (Spec.arg s 8 0).toNat = some x ∧
      filterRefused (filterProgram (Spec.arg s 8) s.input.bytes) = false) ∧
    ∃ s x, Spec.Served .tfilter s 8 0x85 .owner true ∧ ctxAt s (Spec.arg s 8 0).toNat = some x ∧
      filterRefused (filterProgram (Spec.arg s 8) s.input.bytes) = true :=
  ⟨⟨issued 0x50 [0#32, 1#32, 0#32, 0#32, 2#32] (resting id), _, ⟨rfl, ⟨[], rfl⟩, rfl, rfl, by decide, rfl⟩, rfl, rfl, by decide, by decide, by decide⟩,
   ⟨jobmapS, _, _, [(0, 1), (1, 2)], ⟨rfl, ⟨[], rfl⟩, rfl, rfl, by decide, rfl⟩, rfl, rfl, rfl, by decide, by decide, by rw [jobmap_pairs]; simp, by decide⟩,
   ⟨(let s := issued 0x52 [0#32] (resting (fun x => { x with job := some (aJob false) }))
     { s with mgmt := { s.mgmt with links := 1 } }), _, _, 0, ⟨rfl, ⟨[], rfl⟩, rfl, rfl, by decide, rfl⟩, rfl, rfl, rfl, rfl, by decide, by decide⟩,
   ⟨issued 0x52 [0#32] (resting (fun x => { x with job := some { aJob false with calling := true } })), _, _, 0, ⟨rfl, ⟨[], rfl⟩, rfl, rfl, by decide, rfl⟩, rfl, rfl, rfl,
     rfl, rfl, by decide⟩,
   ⟨issued 0x53 [0#32] (resting (fun x => { x with job := some (aJob true) })), _, ⟨rfl, ⟨[], rfl⟩, rfl, rfl, by decide, rfl⟩, rfl, by decide, by decide⟩,
   ⟨issued 0x84 [0#32, 1#32] (resting id), _, ⟨rfl, ⟨[], rfl⟩, rfl, rfl, by decide, rfl⟩, rfl, by decide⟩,
   ⟨issued 0x85 [0#32, 1#32, 0x09000000#32] (resting id), _, ⟨rfl, ⟨[], rfl⟩, rfl, rfl, by decide, rfl⟩, rfl, by decide⟩,
   ⟨issued 0x85 [0#32, 1#32, 0#32] (resting id), _, ⟨rfl, ⟨[], rfl⟩, rfl, rfl, by decide, rfl⟩, rfl, by decide⟩⟩

/-! ## Steps of cores and of contexts -/

theorem at_instr_of {s : State} {n : Nat} {i : Instr} {w : Word}
    (h : decide ((coreAt s n).trap = none) && canRun s n && (boundary s n).isNone && decide (gangOf s n = none) && decide (fetchWord s n = some w) &&
      decide (decodeWord w = .instr i) = true) : Spec.AtInstr s n i w := by
  simp only [Bool.and_eq_true, decide_eq_true_eq, Option.isNone_iff_eq_none] at h
  exact ⟨h.1.1.1.1.1, h.1.1.1.1.2, h.1.1.1.2, h.1.1.2, h.1.2, h.2⟩

/-- A core that waits otherwise, one that waits so, and one whose watchdog has run out. -/
theorem witness_WaitEnds : ∃ (s1 s2 : State) (w1 w2 : Waiting), Spec.waitRow .ticketArrival = some ([.bank], none) ∧ s1.input.arr = none ∧
    (coreAt s1 s1.input.who).wait = some w1 ∧ w1.kind ∈ [WaitKind.bank] ∧
    Spec.AtInstr { s1 with cur := s1.input.who } s1.input.who (.ld 3 1 0 0 0) (encodeWord (.ld 3 1 0 0 0)) ∧ Spec.mayWait (.ld 3 1 0 0 0) = true ∧
    (coreAt s1 s1.input.who).wait.all (fun w => decide (w.kind ∉ [WaitKind.lock, WaitKind.launch])) = true ∧
    Spec.waitRow .ticketGap = some ([.ticket], some (fun c => c.cr.tfwd)) ∧ (coreAt s2 s2.input.who).wait = some w2 ∧ w2.kind = .ticket ∧
    (coreAt s2 s2.input.who).cr.tfwd.toNat ≤ w2.cycles ∧
    Spec.AtInstr { s2 with cur := s2.input.who } s2.input.who (.tamoOr 6 3 4 0) (encodeWord (.tamoOr 6 3 4 0)) ∧ Spec.mayWait (.tamoOr 6 3 4 0) = true :=
  ⟨withLayouts (.ld 3 1 0 0 0) (waiting .bank 3), withLayouts (.tamoOr 6 3 4 0) (waiting .ticket 100000000), _, _, rfl, rfl, rfl, by decide,
    at_instr_of (by decide), rfl, by decide, rfl, rfl, rfl, by decide, at_instr_of (by decide), rfl⟩

/-- Core 0 with update 5 of a round of 9 held for granule 0, at an instruction that has waited long. -/
def behindUpdate (i : Instr) (k : WaitKind) (l : List (Nat × Word)) (n : Nat) : State :=
  place i (fun c => { waiting k 100000000 (regs l c) with rob := List.replicate n (update 0 5 9) }) oneGroup laid

theorem behind_update_holds {s : State} {e : Entry} {q g : Nat} (ht : (coreAt s 0).trackers = []) (hr : (coreAt s 0).rob = [update 0 5 9])
    (h : Spec.holdsBack s e 0 q g) : g = 0 := by
  obtain ⟨⟨t, h⟩ | h, -, -⟩ := h
  · simp [trackerOf, ht] at h
  · simpa [anyHeld, hr, update, eq_comm] using h

theorem carried_is {o : Option (BitVec 16 × Bool)} {P : BitVec 16 → Prop} (k : BitVec 16) (b : Bool) (h : o = some (k, b)) (hp : P k) :
    ∀ p, o = some (p, true) → P p := by
  intro p hq
  rw [h] at hq
  cases hq
  exact hp

def isRefused (r : BankAnswer) : Bool :=
  match r with
  | .refused => true
  | _ => false

theorem refused_of {r : BankAnswer} (h : isRefused r = true) : r = .refused := by
  cases r <;> first | rfl | cases h

/-- An update that finds its bank unit full. -/
theorem witness_WatchdogTraps :
    (∃ (s s1 : State) (t : Task) (x : Ctx) (u : Run) (w : Waiting) (p : Spot), s.input.who = 0 ∧
      Spec.AtInstr { s with cur := 0 } 0 (.tamoOr 6 3 4 0) (encodeWord (.tamoOr 6 3 4 0)) ∧ taskEnv s1 0 = some (t, x, u) ∧ (coreAt s 0).wait = some w ∧
      Issues (.tamoOr 6 3 4 0) (amoPair 6 3 4) { s with cur := 0 } s1 ∧
      (let E := Spec.env s1 t x u
       spotOf E (ticketForm (some [fmtINT32, fmtE8M0])) 4 3 = .inr p ∧ (x.det = true → bothMembers E p.e p.home = true) ∧
       lockGuard s1 E p.e p.home [p.a] true = none ∧ (∀ k, carried E p.e (remoteHome E.n p.home) = some (k, true) → conflictByte s1 p.e p.core [p.a] true (stampOf k) = none) ∧
       field (rdS E.c 7) 15 0 < p.e.round ∧ arrive s1 (Spec.arrival E .or 6 p) = .refused) ∧
      w.kind = .ticket ∧ (coreAt s 0).cr.tfwd.toNat ≤ w.cycles) :=
  ⟨behindUpdate (.tamoOr 6 3 4 0) .ticket [(6, 5), (7, 1)] 48, _, _, _, _, _, _, rfl, at_instr_of (by decide), rfl, rfl, issues_of (by decide),
     ⟨rfl, by decide, by decide, carried_is 0 true (by decide) (by decide), by decide, refused_of (by decide)⟩, rfl, by decide⟩

/-- A fence behind a granule for which an update is held. -/
theorem witness_WatchdogFences : (∃ (s s1 : State) (t : Task) (x : Ctx) (u : Run) (w : Waiting), s.input.who = 0 ∧
      Spec.AtInstr { s with cur := 0 } 0 (.tfence 3 4) (encodeWord (.tfence 3 4)) ∧ taskEnv s1 0 = some (t, x, u) ∧ (coreAt s 0).wait = some w ∧
      Issues (.tfence 3 4) { names := [nH 4, nS 3] } { s with cur := 0 } s1 ∧
      (let E := Spec.env s1 t x u
       let e := handleEntry E 4
       let q := (rdS E.c 3).toNat % 256
       entryOk E e = true ∧ e.tkt = true ∧ homeOf x 0 e = .slice 0 ∧ Spec.holdsBack s1 e 0 q 0 ∧
       (∀ k, k < 2 ^ 17 → Spec.holdsBack s1 e 0 q k → k ≠ 0 → logGran e.bankp 0 < logGran e.bankp k) ∧
       (∀ k ∈ (coreAt s1 0).trackers, k.gran < 2 ^ 17) ∧ (∀ k ∈ (coreAt s1 0).rob, k.gran < 2 ^ 17)) ∧
      w.kind = .tfence ∧ (coreAt s 0).cr.tfwd.toNat ≤ w.cycles) :=
  ⟨behindUpdate (.tfence 3 4) .tfence [(3, 0)] 1, _, _, _, _, _, rfl, at_instr_of (by decide), rfl, rfl, issues_of (by decide),
     ⟨by decide, by decide, by decide, ⟨.inr (by decide), by decide, by decide⟩, fun k _ h hk => absurd (behind_update_holds rfl rfl h) hk, by decide, by decide⟩,
     rfl, by decide⟩

/-- A load from it. -/
theorem witness_WatchdogLoads : ∃ (s s1 : State) (t : Task) (x : Ctx) (u : Run) (w : Waiting) (A : Spec.Acc), s.input.who = 0 ∧
      Spec.AtInstr { s with cur := 0 } 0 (.ld 3 1 0 4 0) (encodeWord (.ld 3 1 0 4 0)) ∧ taskEnv s1 0 = some (t, x, u) ∧ (coreAt s 0).wait = some w ∧
      Spec.accRow (.ld 3 1 0 4 0) = some A ∧ A.k = .ld ∧ Issues (.ld 3 1 0 4 0) (accShape A.k A.vec A.d A.a A.b A.h) { s with cur := 0 } s1 ∧
      (let E := Spec.env s1 t x u
       Spec.AccBefore s1 A E ∧ A.home E = .slice 0 ∧ (A.entry E).tkt = true ∧ (x.det = true ∨ (A.entry E).chk = true) ∧
       (granulesOf (A.entry E) 0 (A.locs E)).find? (trackedGran s1) = some 0) ∧
      w.kind = .ticketLoad ∧ (coreAt s 0).cr.tfwd.toNat ≤ w.cycles :=
  ⟨behindUpdate (.ld 3 1 0 4 0) .ticketLoad [] 1, _, _, _, _, _, _, rfl, at_instr_of (by decide), rfl, rfl, rfl, rfl, issues_of (by decide),
     ⟨⟨by decide, by decide, by decide, by decide, by decide, by decide, fun _ p _ _ _ => carried_is (P := fun k => reached _ k = true) 0 true (by decide) (by decide) p⟩, by decide, by decide, by decide, by decide⟩, rfl, by decide⟩

/-- An opt.wait on a card of a promise that is held; a message that is refused. -/
theorem witness_WatchdogSends :
    (∃ (s s1 : State) (t : Task) (x : Ctx) (u : Run) (w : Waiting) (p : Promise), s.input.who = 0 ∧
      Spec.AtInstr { s with cur := 0 } 0 (.optWait 9 8 0) (encodeWord (.optWait 9 8 0)) ∧ taskEnv s1 0 = some (t, x, u) ∧ (coreAt s 0).wait = some w ∧
      Issues (.optWait 9 8 0) { names := [nS 9, nS 8] } { s with cur := 0 } s1 ∧
      (let E := Spec.env s1 t x u
       let id := rdS E.c 8
       id.toNat % 4 = 3 ∧ 0 < id.toNat / 4 ∧ id.toNat / 4 ≤ E.c.seq ∧ E.c.seq < id.toNat / 4 + 64 ∧ (∀ q ∈ cardsOf s1 0, q.ref.xid ≠ id) ∧
       heldCard (optAt x (clusterOf 0)) 0 id = some p) ∧
      w.kind = .heldCard ∧ (coreAt s 0).cr.tfwd.toNat ≤ w.cycles) ∧
    ∃ (s s1 : State) (t : Task) (x : Ctx) (u : Run) (w : Waiting), s.input.who = 0 ∧
      Spec.AtInstr { s with cur := 0 } 0 (.msgSend 4 5 0) (encodeWord (.msgSend 4 5 0)) ∧ taskEnv s1 0 = some (t, x, u) ∧ (coreAt s 0).wait = some w ∧
      Issues (.msgSend 4 5 0) { names := [nV 4, nS 5] } { s with cur := 0 } s1 ∧ validRank x (rdS (coreAt s1 0) 5) = true ∧
      (behind s1 t.ctx (ownRank x (prel x 0)) (rdS (coreAt s1 0) 5) s1.packets.length = false ∧ storeMessage s1 t.ctx
        { src := ownRank x (prel x 0), dst := rdS (coreAt s1 0) 5, seq := sendSeq x (ownRank x (prel x 0)) (rdS (coreAt s1 0) 5)
          body := .msg (rdV (coreAt s1 0) 4), kept := true } = .refused) ∧
      (coreAt s1 0).reply = some (.answered .refused 0) ∧ w.kind = .send ∧ (coreAt s 0).cr.swd.toNat ≤ w.cycles :=
  ⟨⟨place (.optWait 9 8 0) (fun c => { waiting .heldCard 100000000 (regs [(8, 7)] c) with seq := 1 })
      (withUnit { OptUnit.reset with promises := [(0, { promise .open_ false with card := some (card 0) })] }) laid, _, _, _, _, _, _, rfl,
     at_instr_of (by decide), rfl, rfl, issues_of (by decide), ⟨by decide, by decide, by decide, by decide, by decide, rfl⟩, rfl, by decide⟩,
   ⟨place (.msgSend 4 5 0) (fun c => { waiting .send 100000000 c with reply := some (.answered .refused 0), recvs := List.replicate 16 (message 0) }) id id,
     _, _, _, _, _, rfl, at_instr_of (by decide), rfl, rfl, issues_of (by decide), by decide, ⟨by decide, rfl⟩, rfl, rfl, by decide⟩⟩

theorem witness_ResultsArrive : ∃ (s : State) (k : Nat) (p : Pending), Spec.completionRow .instructionCompletion = some .long ∧
    (coreAt s s.input.who).inflight.findIdx? (fun p => decide (p.kind = .long) && !p.done) = some k ∧ (coreAt s s.input.who).inflight[k]? = some p :=
  ⟨nextOf (step (withLayouts (.ld 3 1 0 0 0) id)), 0, _, rfl, by decide, rfl⟩

/-- A core that has a task to start. -/
theorem witness_TaskStart : ∃ (s : State) (t : Task) (x : Ctx) (u : Run), (coreAt s s.input.who).task = none ∧ (coreAt s s.input.who).next = some t ∧
    ctxAt s t.ctx = some x ∧ runAt x t.ridx = some u ∧ issuing x = true ∧ s.input.who ∉ s.failed ∧ u.running = true ∧
    (∀ v, u.stopw = some v → windowOf x u (coreAt s s.input.who) ≤ v) ∧
    (coreAt State.reset 0).next = none :=
  ⟨place (.add 1 1 1) (fun c => { c with next := c.task, task := none }) id id, _, _, _, rfl, rfl, rfl, rfl, by decide, by decide, by decide,
   by intro v h; simp [placeRun] at h, by decide⟩

theorem undecided_of {s : State} {n : Nat} (h : (coreAt s n).cwait = none) (h1 : tget s.counting n = none) (h2 : (coreAt s n).cmds = [])
    (h3 : (coreAt s n).reply = none) : Spec.undecided s n :=
  ⟨fun _ hq => absurd (h.symm.trans hq) (by simp), fun _ hq => absurd (h1.symm.trans hq) (by simp), by simp [h2], by simp [h3]⟩

/-- A fetch outside the code; a word that is no instruction; one that is; a trap that waited; a timer; a completion with a handler, outside a DET
context and at a wait point of one; a fault of an engine. -/
theorem witness_Boundaries : ∃ s1 s2 s3 s4 s5 s6 s7 s8 : State,
    (canRun { s1 with cur := 0 } 0 = true ∧ fetchWord { s1 with cur := 0 } 0 = none) ∧
    (canRun { s2 with cur := 0 } 0 = true ∧ fetchWord { s2 with cur := 0 } 0 = some 0xFFFFFFFF#32 ∧ decodeWord 0xFFFFFFFF#32 = .pool) ∧
    (canRun { s3 with cur := 0 } 0 = true ∧ fetchWord { s3 with cur := 0 } 0 = some (encodeWord (.add 1 1 1)) ∧
      decodeWord (encodeWord (.add 1 1 1)) = .instr (.add 1 1 1)) ∧
    ((coreAt s3 0).trap = none ∧ (coreAt s4 0).trap.isSome = true) ∧
    (canRun s5 0 = true ∧ (coreAt s5 0).timerDue = true ∧ (coreAt s5 0).priv = false) ∧ Spec.undecided s5 0 ∧
    (canRun s6 0 = true ∧ detOf s6 0 = false ∧ (coreAt s6 0).priv = false ∧ (coreAt s6 0).iact = false ∧ (coreAt s6 0).intr = [(4#32, 2)] ∧
      (coreAt s6 0).wait = none ∧ fetchWord s6 0 = some (encodeWord (.add 1 1 1)) ∧ decodeWord (encodeWord (.add 1 1 1)) = .instr (.add 1 1 1)) ∧ Spec.undecided s6 0 ∧
    (canRun s7 0 = true ∧ fetchWord s7 0 = some (encodeWord (.engWait 3 0 0)) ∧ decodeWord (encodeWord (.engWait 3 0 0)) = .instr (.engWait 3 0 0) ∧
      waitPoint (.engWait 3 0 0) = true ∧ (coreAt s7 0).cmds = [] ∧ (coreAt s7 0).priv = false ∧ (coreAt s7 0).iact = false ∧
      (coreAt s7 0).intr = [(4#32, 2)] ∧ (coreAt s7 0).wait = none) ∧ Spec.undecided s7 0 ∧
    (s8.agenda = [] ∧ s8.cur = 0 ∧ (coreAt s8 0).task ≠ none ∧ (coreAt s8 0).trap = none ∧ canRun s8 0 = true ∧ (coreAt s8 0).timerDue = false ∧
      detOf s8 0 = false ∧ (coreAt s8 0).afaults.find? (fun f => decide (f.cause = .engine)) = some ⟨.engine, 0, 7, 0, none⟩) ∧ Spec.undecided s8 0 :=
  ⟨place (.add 1 1 1) (fun c => { c with pc := 0x10000 }) id id, place (.add 1 1 1) (fun c => { c with imem := [(0, 0xFFFF#16), (1, 0xFFFF#16)] }) id id,
   at_ (.add 1 1 1), place (.add 1 1 1) (fun c => { c with trap := some { cause := .trap, info := 0 } }) id id,
   place (.add 1 1 1) (fun c => { c with timerDue := true }) id id, place (.add 1 1 1) (fun c => { c with intr := [(4#32, 2)] }) nodet id,
   place (.engWait 3 0 0) (fun c => { c with intr := [(4#32, 2)] }) id id,
   place (.add 1 1 1) (fun c => { c with afaults := [⟨.engine, 0, 7, 0, none⟩] }) nodet id,
   by decide, by decide, by decide, by decide, by decide, undecided_of rfl rfl rfl rfl, by decide, undecided_of rfl rfl rfl rfl, by decide,
   undecided_of rfl rfl rfl rfl, by decide, undecided_of rfl rfl rfl rfl⟩

/-- Core 0 at an lrec.patch of a live record; and one whose wait is short. -/
theorem witness_QuietWatchdog :
    (∃ (s : State) (w : Waiting) (i : Nat) (t : Task) (x : Ctx) (u : Run), (coreAt s s.input.who).wait = some w ∧ taskEnv s s.input.who = some (t, x, u) ∧
      canRun s s.input.who = true ∧ w.kind = .quiet ∧ (coreAt s s.input.who).cr.qwd.toNat ≤ w.cycles ∧ quietRecord s s.input.who = some i ∧
      liveState (recState s t.ctx x i) = true) ∧
    ∃ (s : State) (w : Waiting), (coreAt s s.input.who).wait = some w ∧ w.kind ≠ .quiet :=
  ⟨⟨{ recorded (.lrecPatch 3 4 8) (fun c => waiting .quiet 100000000 (regs [(3, 1)] c)) id with caddy := [(305, 1#8), (308, 1#8)] }, _, 1, _, _, _, rfl, rfl,
     by decide, rfl, by decide, by decide, by decide⟩, ⟨place (.add 1 1 1) (waiting .lock 1) id id, _, rfl, by decide⟩⟩

/-- A core whose result of a window close for register r of a bank waits for a delivery. -/
def delivered (r : Nat) (bank : Bool) : State :=
  place (.add 1 1 1) (fun c => { c with inflight := [{ windowResult with regs := [], writes := [.s r 0#32 bank] }] })
    id (fun u => { u with deliver := [{ core := 0, dest := r, bank := bank, val := 9 }] })

/-- One delivery to a core whose result waits for it, in either bank; a fatal record whose only core has stopped. -/
theorem witness_RecordSteps :
    (∃ (s : State) (x : Ctx) (u : Run) (e : Delivery) (p : Pending), ctxAt s s.input.who = some x ∧ runAt x s.input.sub = some u ∧ moving x = true ∧
      u.deliver = [e] ∧ (coreAt s (logical x e.core)).inflight = [p] ∧ p.kind = .window ∧ p.done = false ∧ p.writes = [.s e.dest 0#32 e.bank] ∧
      e.bank = false ∧ 0 < e.dest ∧ e.dest < 32) ∧
    (∃ (s : State) (x : Ctx) (u : Run) (e : Delivery) (p : Pending), ctxAt s s.input.who = some x ∧ runAt x s.input.sub = some u ∧ moving x = true ∧
      u.deliver = [e] ∧ (coreAt s (logical x e.core)).inflight = [p] ∧ p.kind = .window ∧ p.done = false ∧ p.writes = [.s e.dest 0#32 e.bank] ∧
      e.bank = true ∧ 24 ≤ e.dest ∧ e.dest < 32) ∧
    ∃ (s : State) (x : Ctx) (u : Run) (f : Fatal), ctxAt s s.input.who = some x ∧ runAt x s.input.sub = some u ∧ leastFatal u.fatals = some f ∧
      x.halt = .running ∧ runQuiet s s.input.who s.input.sub x u = true ∧ (∀ n ∈ runCores x u, coreStopped s x u n = true ∧ (coreAt s n).cmds = [] ∧ recordCards x s.input.sub u n = false) :=
  ⟨⟨delivered 5 false, _, _, _, _, rfl, rfl, by decide, rfl, rfl, rfl, rfl, rfl, rfl, by decide, by decide⟩,
   ⟨delivered 24 true, _, _, _, _, rfl, rfl, by decide, rfl, rfl, rfl, rfl, rfl, rfl, by decide, by decide⟩,
   ⟨place (.add 1 1 1) (fun c => { c with task := none }) id (fun u => { u with fatals := [⟨0, 0, 0, 0, 0, 0, 0, 0, false⟩] }), _, _, _, rfl, rfl, rfl, rfl, by decide,
     by decide⟩⟩

def contextual (f : Ctx → Ctx) : State :=
  let s := managed (place (.add 1 1 1) id f id)
  { s with mgmt := { s.mgmt with ready := true } }

/-- Context 1 on the same cluster, spilled, with a record of level 8. -/
def rivalled (f : Ctx → Ctx) : State :=
  setCtx (contextual f) 1 { placeCtx { placeRun with copy := placeRun.copy.set 1 0x80#32 } with active := false, halt := .spilled }

/-- A request of the mailbox; of a rival that pre-empts, and of one that does not; halts of a context that is to be spilled and of one that is not, and one too early; a
spill; restorations of a context in place and of a spilled one; and one that may not go on. -/
theorem witness_Preemption : (∃ (s : State) (x : Ctx), ctxAt s s.input.who = some x ∧ x.preq = [.preempt] ∧ x.halt = .running) ∧
    (∃ (s : State) (x : Ctx), ctxAt s s.input.who = some x ∧ x.preq = [.context] ∧ outranked s s.input.who x = true ∧ x.halt = .running) ∧
    (∃ (s : State) (x : Ctx), ctxAt s s.input.who = some x ∧ x.preq = [.context] ∧ outranked s s.input.who x = false) ∧
    (∃ (s : State) (x : Ctx), ctxAt s s.input.who = some x ∧ x.halt = .freezing ∧ 24 ≤ x.froze ∧ HoldBy.lane ∉ x.holds ∧ x.pool = [] ∧ x.active = true ∧
      x.holds = [.context]) ∧
    (∃ (s : State) (x : Ctx), ctxAt s s.input.who = some x ∧ x.halt = .freezing ∧ 24 ≤ x.froze ∧ HoldBy.lane ∉ x.holds ∧ x.pool = [] ∧ x.holds = [.preempt]) ∧
    (∃ (s : State) (x : Ctx), ctxAt s s.input.who = some x ∧ x.halt = .freezing ∧ x.froze < 24) ∧
    (∃ (s : State) (x : Ctx), ctxAt s s.input.who = some x ∧ phodiverRuns s = true ∧ x.halt = .halted ∧ toSpill x = true) ∧
    (∃ (s : State) (x : Ctx), ctxAt s s.input.who = some x ∧ phodiverRuns s = true ∧ mayRestore s s.input.who x = true ∧ x.saved = none) ∧
    (∃ (s : State) (x : Ctx) (v : Saved), ctxAt s s.input.who = some x ∧ phodiverRuns s = true ∧ mayRestore s s.input.who x = true ∧ x.saved = some v) ∧
    ∃ (s : State) (x : Ctx), ctxAt s s.input.who = some x ∧ mayRestore s s.input.who x = false ∧ (x.halt ≠ .halted ∨ toSpill x = false) :=
  ⟨⟨contextual (fun x => { x with preq := [.preempt] }), _, rfl, rfl, rfl⟩,
   ⟨rivalled (fun x => { x with preq := [.context] }), _, rfl, rfl, by decide, rfl⟩,
   ⟨contextual (fun x => { x with preq := [.context] }), _, rfl, rfl, by decide⟩,
   ⟨contextual (fun x => { x with halt := .freezing, froze := 24, holds := [.context] }), _, rfl, rfl, by decide, by decide, rfl, rfl, rfl⟩,
   ⟨contextual (fun x => { x with halt := .freezing, froze := 24, holds := [.preempt] }), _, rfl, rfl, by decide, by decide, rfl, rfl⟩,
   ⟨contextual (fun x => { x with halt := .freezing, froze := 23 }), _, rfl, rfl, by decide⟩,
   ⟨contextual (fun x => { x with halt := .halted, holds := [.context] }), _, rfl, by decide, rfl, by decide⟩,
   ⟨contextual (fun x => { x with halt := .held }), _, rfl, by decide, by decide, rfl⟩,
   ⟨contextual (fun x => { x with halt := .spilled, saved := some ⟨[], [], [], [], [], [], []⟩, active := false }), _, _, rfl, by decide, by decide, rfl⟩,
   ⟨contextual id, _, rfl, by decide, by decide⟩⟩

/-- Core 0 fails with and without a spare row; its row is replaced once its context has halted. -/
theorem witness_Failures : ∃ s1 s2 s3 : State, (0 ∉ s1.failed ∧ tgetD s1.spares (dieOf 0) [] = [] ∧ phodiverRuns s1 = true) ∧
    (∃ x, ctxAt s1 0 = some x ∧ touchesRow x 0 = true) ∧ (0 ∉ s2.failed ∧ tgetD s2.spares (dieOf 0) [] ≠ [] ∧ phodiverRuns s2 = true) ∧
    phodiverRuns s3 = true ∧ (∃ p rest, tgetD s3.spares (dieOf 0) [] = p :: rest ∧ rest ≠ []) ∧ 0 ∈ s3.failed ∧
    (∀ e ∈ s3.ctxs, touchesRow e.2 0 = true → moving e.2 = false) ∧ (∃ k x u, taskEnv s3 0 = some (k, x, u)) ∧ (coreAt s3 0).acount = 0 ∧
    (∀ m ∈ s3.failed, m ≠ 0 → rowOf m ≠ rowOf 0) :=
  ⟨contextual id, { contextual id with spares := [(0, [32])] }, { contextual (fun x => { x with halt := .held }) with spares := [(0, [32, 33])], failed := [0] },
   by decide, ⟨_, rfl, by decide⟩, by decide, by decide, ⟨_, _, rfl, by decide⟩, by decide, by decide, ⟨_, _, _, rfl⟩, by decide, by decide⟩

/-- A DRAM lane that a moving context uses, and one that a held one uses; a link with a spare lane, and one with none in that direction. -/
theorem witness_LaneFailures : ∃ s1 s2 s3 s4 : State,
    (phodiverRuns s1 = true ∧ s1.input.flag = true ∧ ∃ e ∈ s1.ctxs, usesLane s1 (true, 0, 0) e.1 e.2 = true ∧ moving e.2 = true) ∧
    (phodiverRuns s2 = true ∧ s2.input.flag = true ∧ ∀ e ∈ s2.ctxs, usesLane s2 (true, 0, 0) e.1 e.2 = true → moving e.2 = false) ∧
    (phodiverRuns s3 = true ∧ s3.input.flag = false ∧ 0 < (linkAt s3 0).spareOut ∧ ∀ e ∈ s3.ctxs, usesLane s3 (false, 0, 0) e.1 e.2 = true → moving e.2 = false) ∧
    (phodiverRuns s4 = true ∧ s4.input.flag = false ∧ (linkAt s4 0).spareOut = 0) :=
  ⟨{ contextual id with input := { flag := true } }, { contextual (fun x => { x with halt := .held }) with input := { flag := true } },
   { contextual id with links := [(0, { Link.reset with up := true, spareOut := 1 })] },
   { contextual id with links := [(0, { Link.reset with up := true, spareOut := 0 })] },
   ⟨by decide, by decide, _, List.mem_singleton.2 rfl, by decide, by decide⟩, by decide, by decide, by decide⟩

/-- A tile of 256 by 32 FP32 at byte o of a slice; an exchange from one at 0 to one at 0x8000. -/
def wide (o : Word) : List Word :=
  [o, 0#32, 256#32, 32#32, 1#32, 1#32, 32#32, 8192#32, 0#32, 0#32, 1#32, bank, 0#32, 0#32, 0#32, 0#32]

def exchanged (tr : Word) : Cmd := { cmd .exchange 1 0 true with src := (20, wide 0#32), dst := (21, wide 0x8000#32), block := [(11, tr)] }

theorem exchanged_apart : Spec.Apart (exchanged 0#32) := by
  have h : ∀ b r c, blockAt (exchanged 0#32).dstE (exchanged 0#32).dstO b r c = 262144 + (32 * b + c) * 32 + r * 8192 := fun b r c => by
    have hr : (exchanged 0#32).dstE.rank = 2 := by decide
    have hb : (exchanged 0#32).dstE.base = 32768 := by decide
    have h0 : (exchanged 0#32).dstE.str 0 = 32 := by decide
    have h1 : (exchanged 0#32).dstE.str 1 = 8192 := by decide
    have ho : (exchanged 0#32).dstO = [0, 0, 0, 0] := by decide
    simp [blockAt, bitAddr, coordsL, coordsOf, hr, hb, h0, h1, ho, List.range_succ, Nat.add_assoc]
  intro b r c b' r' c' hb hr hc hb' hr' hc'
  have hw : (exchanged 0#32).dstE.width = 32 := by decide
  simp only [h, hw, ne_eq, Prod.mk.injEq]
  omega

/-- The exchanges that wait in the eight cores of a cluster. -/
def exchanges (s : State) (cl : Nat) : List (Nat × Cmd) :=
  (clusterCores cl).filterMap (fun n =>
    ((coreAt s n).cmds.find? (fun e => decide (e.2.kind = .exchange) && e.2.joined && decide (e.1 ≤ (coreAt s n).seq))).map (fun e => (n, e.2)))

def exchanging (tr : Nat → Word) : State :=
  eight (withLayouts (.add 1 1 1) (fun c => { c with seq := 1 })) (fun n c => { c with cmds := [(1, exchanged (tr n))] })

/-- Fewer than eight launched exchanges; eight of which one transposes; and eight that match. -/
theorem witness_EngineSteps : (exchanges (at_ (.add 1 1 1)) 0).length ≠ 8 ∧
    (∃ (s : State) (ks : List (Nat × Cmd)) (x : Ctx), s.input.who = 0 ∧ ks = exchanges s 0 ∧ ks.length = 8 ∧ (∀ e ∈ ks, ctxAt s e.2.ctx = some x) ∧
      (∀ e ∈ ks, e.2.seq < 2 ^ 30 ∧ (coreAt s e.1).seq < e.2.seq + 64) ∧
      ∃ a ∈ ks, ∃ b ∈ ks, a.2.srcE.width ≠ b.2.srcE.width ∨ a.2.tr ≠ b.2.tr) ∧
    ∃ (s : State) (ks : List (Nat × Cmd)) (x : Ctx), s.input.who = 0 ∧ ks = exchanges s 0 ∧ ks.length = 8 ∧
      (∀ e ∈ ks, ctxAt s e.2.ctx = some x ∧ e.2.srcE.width = 32 ∧ e.2.dstE.width = 32 ∧ e.2.tr = false) ∧
      (∀ e ∈ ks, e.2.seq < 2 ^ 30 ∧ (coreAt s e.1).seq < e.2.seq + 64) ∧
      (∀ e ∈ ks, bankpOk e.2.srcE.bankp = true ∧ bankpOk e.2.dstE.bankp = true ∧ Spec.Apart e.2) ∧ s.poison = [] ∧
      ∀ e ∈ ks, e.2.ninv = 0 ∧ e.2.noor = 0 :=
  ⟨by decide,
   ⟨exchanging (fun n => if n = 0 then 1 else 0), _, placeCtx (laid placeRun), rfl, rfl, rfl, by decide, by decide, by decide⟩,
   ⟨exchanging (fun _ => 0), (List.range 8).map (fun n => (n, exchanged 0#32)), placeCtx (laid placeRun), rfl, by decide, rfl, by decide, by decide,
    fun e h => by
      obtain ⟨n, -, rfl⟩ := List.mem_map.1 h
      exact ⟨(by decide : bankpOk (exchanged 0#32).srcE.bankp = true), (by decide : bankpOk (exchanged 0#32).dstE.bankp = true), exchanged_apart⟩, rfl, by decide⟩⟩

/-- A copy at a page that is not mapped, one that can go on and one whose context is halted. -/
theorem witness_EnginePageFault :
    (∃ (s : State) (k : Cmd) (f : WalkFault) (x : Ctx), tget (coreAt s 0).cmds 1 = some k ∧ k.seq = 1 ∧ walkStep s 0 k = .fault f ∧ ctxAt s k.ctx = some x ∧
      f.caddy = false) ∧
    (∃ (s s' : State) (k : Cmd), tget (coreAt s 0).cmds 1 = some k ∧ k.seq = 1 ∧ walkStep s 0 k = .go s') ∧
    ∃ (s : State) (k : Cmd), tget (coreAt s 0).cmds 1 = some k ∧ k.seq = 1 ∧ walkStep s 0 k = .blocked :=
  ⟨⟨commanded { cmd .copy 1 0 true with src := (8, (List.range 16).map (fun i => sget 0#32 layouts (128 + i))) }, _, _, _, rfl, rfl, rfl, rfl, rfl⟩,
   ⟨commanded (cmd .copy 1 0 true), _, _, rfl, rfl, rfl⟩,
   ⟨{ place (.add 1 1 1) (fun c => { c with cmds := [(1, cmd .copy 1 0 true)] }) (fun x => { x with halt := .held }) laid with cur := 0 }, _, rfl, rfl, rfl⟩⟩

/-- A copy of four elements from byte 0x400 to a granule of entry e. -/
def granular (e : Nat) : Cmd :=
  { cmd .copy 1 0 true with
    src := (0, 0x400#32 :: (List.range 15).map (fun i => sget 0#32 layouts (i + 1)))
    dst := (e, (List.range 16).map (fun i => sget 0#32 layouts (16 * e + i)))
    block := [(0, 0), (1, BitVec.ofNat 32 e), (8, 4), (9, 1), (10, 0x00010001), (11, 2)] }

/-- To an empty granule of a full-empty entry, to a full one, and to a granule of a versioned entry whose version is not reclaimed. -/
theorem witness_EngineGranules :
    (∃ (s : State) (k : Cmd) (x : Ctx), s.input.who = 0 ∧ s.input.sub = 1 ∧ tget (coreAt s 0).cmds 1 = some k ∧ k.seq = 1 ∧ k.kind = .copy ∧
      ctxAt s k.ctx = some x ∧ issuing x = true ∧ k.fault = none ∧ k.next < k.total ∧ k.dstE.fe = true ∧ k.dstE.ver = false ∧
      homeOf x 0 k.dstE = .slice 0 ∧ bankpOk k.dstE.bankp = true ∧ 0 < k.dstE.width ∧
      (∀ j < k.total, spansGranules k.dstE (k.dstAt j) = false ∧ k.dstAt j + k.dstE.width ≤ 2 ^ 24) ∧ (∀ j < k.next, k.granAt 0 j ≠ k.granAt 0 k.next) ∧
      (∀ j ∈ Spec.together k 0 k.next, ∃ p, takeElem s x 0 k j = .code 0 false p) ∧ fullBit s (k.granAt 0 k.next) = false ∧
      (∀ j ∈ Spec.together k 0 k.next, ∀ l ∈ Spec.together k 0 k.next, ∀ b ∈ elemBytes (k.srcAt j) k.srcE.width, ∀ d ∈ elemBytes (k.dstAt l) k.dstE.width,
        Spec.keyOf (placeOf x k.srcE (homeOf x 0 k.srcE) b) ≠ Spec.keyOf (placeOf x k.dstE (.slice 0) d)) ∧
      (Spec.together k 0 k.next).Pairwise (fun a b => k.dstAt a + k.dstE.width ≤ k.dstAt b ∨ k.dstAt b + k.dstE.width ≤ k.dstAt a)) ∧
    (∃ (s : State) (k : Cmd), tget (coreAt s 0).cmds 1 = some k ∧ k.dstE.fe = true ∧ fullBit s (k.granAt 0 k.next) = true) ∧
    ∃ (s : State) (k : Cmd) (x : Ctx), tget (coreAt s 0).cmds 1 = some k ∧ ctxAt s k.ctx = some x ∧ k.dstE.ver = true ∧
      reclaimed x k.dstE.num (k.vers + 127) = false :=
  ⟨⟨commanded (granular 2), _, _, rfl, rfl, rfl, rfl, rfl, rfl, by decide, rfl, by decide, by decide, by decide, by decide, by decide, by decide, by decide,
     by decide, fun j h => by
      have h : j ∈ [0, 1, 2, 3] := h
      fin_cases h <;> exact ⟨_, rfl⟩, by decide, by decide, by decide⟩,
   ⟨setFull (commanded (granular 2)) [0] true, _, rfl, by decide, by decide⟩,
   ⟨commanded { granular 3 with block := [(11, 4)] }, _, _, rfl, rfl, by decide, by decide⟩⟩

/-- A context of two modules with module 1 over link 0; a message from there. -/
def joined (x : Ctx) : Ctx := { x with job := some { aJob true with routes := [(1, 0)] } }

def fromAfar : Packet := { message 0 with src := 0x00010000, port := some 0 }

/-- A message from this module and one from another at a store with room; and one at a full store. -/
theorem witness_MessageSteps :
    (∃ (s : State) (p : Packet) (v : VReg) (x : Ctx), s.input.flag = false ∧ s.packets[s.input.who]? = some (0, p) ∧ p.body = .msg v ∧ ctxAt s 0 = some x ∧
      behind s 0 p.src p.dst s.input.who = false ∧ inTransit x p.dst = false ∧ moving x = true ∧ duplicate x p = false ∧ p.port = none ∧
      (coreAt s (placeCore x p.dst)).recvs.length < 16) ∧
    (∃ (s : State) (p : Packet) (v : VReg) (x : Ctx) (j : Job), s.input.flag = false ∧ s.packets[s.input.who]? = some (0, p) ∧ p.body = .msg v ∧
      ctxAt s 0 = some x ∧ behind s 0 p.src p.dst s.input.who = false ∧ inTransit x p.dst = false ∧ moving x = true ∧ duplicate x p = false ∧
      rankMod p.src ≠ moduleId x ∧ p.port = some 0 ∧ sealedJob x = some j ∧ tget j.routes (rankMod p.src) = some 0 ∧
      (coreAt s (placeCore x p.dst)).recvs.length < 16) ∧
    ∃ (s : State) (p : Packet) (x : Ctx), s.packets[s.input.who]? = some (0, p) ∧ ctxAt s 0 = some x ∧ ¬(coreAt s (placeCore x p.dst)).recvs.length < 16 :=
  ⟨⟨travelling (message 0) id, _, _, _, rfl, rfl, rfl, rfl, by decide, by decide, by decide, by decide, rfl, by decide⟩,
   ⟨{ place (.add 1 1 1) id joined id with packets := [(0, fromAfar)] }, _, _, _, _, rfl, rfl, rfl, rfl, by decide, by decide, by decide, by decide, by decide, rfl,
     rfl, rfl, by decide⟩,
   ⟨travelling (message 0) (fun c => { c with recvs := List.replicate 16 (message 0) }), _, _, rfl, rfl, by decide⟩⟩

/-- The answer to the message of core 0, which waits; an answer to none; a message that was refused and one that is held, to be sent again. -/
theorem witness_MessageAnswers :
    (∃ (s : State) (p : Packet) (x : Ctx) (w : Waiting), s.input.flag = false ∧ s.packets[s.input.who]? = some (0, p) ∧ p.body = .reply 0 .held 0 ∧
      ctxAt s 0 = some x ∧ (coreAt s (logical x (rankCore p.dst))).reply.isSome = true ∧
      Spec.sending s (logical x (rankCore p.dst)) 0 p.dst p.src 0 ∧
      (coreAt s (logical x (rankCore p.dst))).wait = some w ∧ w.kind = .send) ∧
    (∃ (s : State) (p : Packet) (x : Ctx), s.packets[s.input.who]? = some (0, p) ∧ p.body = .reply 0 .held 0 ∧ ctxAt s 0 = some x ∧
      (coreAt s (logical x (rankCore p.dst))).reply = none) ∧
    (∃ (s : State) (w : Waiting) (t : Task) (x : Ctx) (u : Run), Spec.AtInstr s s.input.who (.msgSend 4 5 0) (encodeWord (.msgSend 4 5 0)) ∧
      taskEnv s s.input.who = some (t, x, u) ∧ (coreAt s s.input.who).wait = some w ∧ w.kind = .send ∧
      (coreAt s s.input.who).reply = some (.answered .refused 0) ∧ rankMod (rdS (coreAt s s.input.who) 5) ≠ moduleId x) ∧
    ∃ (s : State) (w : Waiting) (t : Task) (x : Ctx) (u : Run), Spec.AtInstr s s.input.who (.msgSend 4 5 0) (encodeWord (.msgSend 4 5 0)) ∧
      taskEnv s s.input.who = some (t, x, u) ∧ (coreAt s s.input.who).wait = some w ∧
      w.kind = .sendHeld ∧ (coreAt s s.input.who).reply = some (.answered .held 0) ∧ rankMod (rdS (coreAt s s.input.who) 5) ≠ moduleId x :=
  ⟨⟨{ place (.msgSend 4 5 0) (fun c => { waiting .send 1 (regs [(5, 0x00010000)] c) with reply := some .sent }) joined id with
        packets := [(0, { fromAfar with body := .reply 0 .held 0 })] }, _, _, _, rfl, rfl, rfl, rfl, rfl,
     ⟨encodeWord (.msgSend 4 5 0), 4, 5, 0, _, _, _, by decide, by decide, rfl, rfl, by decide, by decide, by decide⟩, rfl, rfl⟩,
   ⟨travelling { message 0 with body := .reply 0 .held 0 } id, _, _, rfl, rfl, rfl, rfl⟩,
   ⟨place (.msgSend 4 5 0) (fun c => { waiting .send 1 (regs [(5, 0x00010000)] c) with reply := some (.answered .refused 0) }) joined id, _, _, _, _,
     at_instr_of (by decide), rfl, rfl, rfl, rfl, by decide⟩,
   ⟨place (.msgSend 4 5 0) (fun c => { waiting .sendHeld 1 (regs [(5, 0x00010000)] c) with reply := some (.answered .held 0) }) joined id, _, _, _, _,
     at_instr_of (by decide), rfl, rfl, rfl, rfl, by decide⟩⟩

/-- A core alone at an instruction; a step of the module; a gang. -/
theorem witness_StepRunsDecoded : ∃ (s1 s2 s3 : State) (g : Gang), s1.agenda = [] ∧ s1.cur < 8192 ∧
    Spec.AtInstr s1 s1.cur (.add 1 1 1) (encodeWord (.add 1 1 1)) ∧ s2.agenda = [.event .powerOn {}] ∧ encodeWord .powerOn = 0#32 ∧
    s3.agenda = [] ∧ (coreAt s3 s3.cur).trap = none ∧ canRun s3 s3.cur = true ∧ gangOf s3 s3.cur = some g ∧
    ∀ k ∈ slotOf s3.cur :: g.members, (coreAt s3 (8 * clusterOf s3.cur + k)).trap = none ∧
      (canRun s3 (8 * clusterOf s3.cur + k) = true → boundary s3 (8 * clusterOf s3.cur + k) = none) :=
  ⟨at_ (.add 1 1 1), State.reset, updCluster (at_ (.add 1 1 1)) 0 (fun k => { k with gang := some { leader := 0, members := [0, 1] } }), _, rfl, by decide,
    at_instr_of (by decide), rfl, by decide, rfl, rfl, by decide, rfl, fun k h => by
      have h : k ∈ [0, 0, 1] := h
      fin_cases h
      · exact ⟨rfl, fun _ => rfl⟩
      · exact ⟨rfl, fun _ => rfl⟩
      · exact ⟨rfl, fun _ => rfl⟩⟩

theorem witness_RoundTrip : wellFormed (.addi 4 4 (-3)) = true := by decide
theorem witness_DecodeUnique : decodeWord 0x00083283#32 = .instr (.add 5 3 4) := by decide
theorem witness_MemoriesKept : ∃ s t : State, MemoriesWf s ∧ step s = .next t :=
  ⟨at_ (.add 1 1 1), _, ⟨by decide, by decide, by decide, by decide, by decide, by decide, by decide⟩, rfl⟩

/-- With everything declared; with a handle that the kernel does not declare; behind a load with lookahead; in a window that may not be issued in. -/
theorem witness_IssueRules :
    (∃ (s : State) (t : Task) (x : Ctx) (u : Run), Spec.Ready (sh3 5 3 4) s 0 t x u ∧ (coreAt s 0).priv = false ∧ Spec.AllDeclared (sh3 5 3 4) u.kernel ∧
      ∀ p ∈ (coreAt s 0).inflight, p.dist < p.look → ∀ r ∈ (sh3 5 3 4).names, r ∉ p.regs) ∧
    (∃ (s : State) (t : Task) (x : Ctx) (u : Run), Spec.Ready (sh3 5 3 20) s 0 t x u ∧ (coreAt s 0).priv = false ∧ ¬Spec.AllDeclared (sh3 5 3 20) u.kernel) ∧
    (∃ (s : State) (t : Task) (x : Ctx) (u : Run), Spec.Ready (sh3 5 3 4) s 0 t x u ∧ (coreAt s 0).priv = false ∧ Spec.AllDeclared (sh3 5 3 4) u.kernel ∧
      ∃ p ∈ (coreAt s 0).inflight, p.dist < p.look ∧ ∃ r ∈ (sh3 5 3 4).names, r ∈ p.regs) ∧
    ∃ (s : State) (t : Task) (x : Ctx) (u : Run), taskEnv s 0 = some (t, x, u) ∧ canRun s 0 = true ∧ x.det = true ∧ (coreAt s 0).priv = false ∧
      u.window + 2 ≤ (coreAt s 0).count / (coreAt s 0).cr.quant.toNat :=
  ⟨⟨at_ (.add 5 3 4), _, _, _, ⟨rfl, by decide, by decide, by decide, by decide⟩, by decide, by unfold Spec.AllDeclared; decide, by decide⟩,
   ⟨place (.add 5 3 20) id id (fun u => { u with kernel := { u.kernel with nsreg := 16 } }), _, _, _, ⟨rfl, by decide, by decide, by decide, by decide⟩, by decide, by unfold Spec.AllDeclared; decide⟩,
   ⟨nextOf (step (withLayouts (.ld 3 1 0 0 3) id)), _, _, _, ⟨rfl, by decide, by decide, by decide, by decide⟩, by decide, by unfold Spec.AllDeclared; decide, by decide⟩,
   ⟨place (.add 5 3 4) (fun c => { c with count := 100000 }) id id, _, _, _, rfl, by decide, rfl, by decide, by decide⟩⟩

theorem witness_IssueFrames : ∃ (i : Instr) (sh : Shape) (s s1 : State), Issues i sh s s1 := ⟨.add 5 3 4, sh3 5 3 4, at_ (.add 5 3 4), _, issues_of (by decide)⟩
theorem witness_RegisterFiles : (0 : Nat) < 32 ∧ 31 < 32 ∧ 3 < 4 ∧ ({ Core.reset with priv := true } : Core).priv = true ∧ 24 ≤ 24 := by decide

theorem witness_AccessMemory : (∃ (s s1 r : State) (t : Task) (x : Ctx) (u : Run),
      Issues (.st 3 1 0 0 0) (accShape .st false 3 1 0 0) s s1 ∧ taskEnv s1 s.cur = some (t, x, u) ∧
      Spec.AccFree s1 ⟨.st, false, 3, 1, 0, 0, 0⟩ (Spec.env s1 t x u) ∧ exec (.st 3 1 0 0 0) s = .next r) ∧
    ∃ (s s1 r : State) (t : Task) (x : Ctx) (u : Run) (A : Spec.Acc), A = ⟨.st, true, 3, 1, 0, 0, 0⟩ ∧
      Issues (.vst 3 1 0 0 0) (accShape .st true 3 1 0 0) s s1 ∧ taskEnv s1 s.cur = some (t, x, u) ∧
      Spec.AccFree s1 A (Spec.env s1 t x u) ∧ exec (.vst 3 1 0 0 0) s = .next r ∧ A.home (Spec.env s1 t x u) = .slice 0 ∧
      (A.locs (Spec.env s1 t x u)).Pairwise (fun a b => a + (A.entry (Spec.env s1 t x u)).width ≤ b ∨
        b + (A.entry (Spec.env s1 t x u)).width ≤ a) ∧ 7 < (A.locs (Spec.env s1 t x u)).length :=
  ⟨⟨withLayouts (.st 3 1 0 0 0) id, _, _, _, _, _, issues_of (by decide), rfl,
     ⟨⟨⟨by decide, by decide, by decide, by decide, by decide, by decide, fun _ _ h => absurd h (by decide)⟩, fun h => absurd h (by decide)⟩, by decide,
       trivial, by decide⟩, rfl⟩,
   ⟨withLayouts (.vst 3 1 0 0 0) id, _, _, _, _, _, _, rfl, issues_of (by decide), rfl,
     ⟨⟨⟨by decide, by decide, by decide, by decide, by decide, by decide, fun _ _ h => absurd h (by decide)⟩, fun h => absurd h (by decide)⟩, by decide,
       trivial, by decide⟩, rfl, by decide, by decide, by decide⟩⟩

/-- A group of two, with both arrived and with one. -/
theorem witness_BarrierRelease : ∃ (s s' : State) (x x' : Ctx) (r r' : GroupRun), ctxAt s s.input.who = some x ∧ tget x.gruns s.input.sub = some r ∧
    r.arrived.length = gCount (groupWord x s.input.sub 1) ∧ moving x = true ∧ ctxAt s' s'.input.who = some x' ∧ tget x'.gruns s'.input.sub = some r' ∧
    r'.arrived.length ≠ gCount (groupWord x' s'.input.sub 1) :=
  ⟨place (.add 1 1 1) id (fun x => { withGroup 2 x with gruns := [(0, { g := 0, arrived := [0, 1] })] }) id,
   place (.add 1 1 1) id (fun x => { withGroup 2 x with gruns := [(0, { g := 0, arrived := [0] })] }) id, _, _, _, _, rfl, rfl, by decide, by decide, rfl, rfl,
   by decide⟩

/-! ## Single steps

The expected values are the specification's own, where a rule or a worked example states them, and are worked out by hand from the rule
otherwise. -/

/-- The core after one step of instruction i, with every pending result written. -/
def ran (i : Instr) (f : Core → Core) : Core := completeIf (fun _ => true) (after (withLayouts i f))

/-- The same outside a DET context. -/
def ranFree (i : Instr) (f : Core → Core) : Core := completeIf (fun _ => true) (after (place i f nodet laid))

/-- The trap cause of a fatal trap of core 0's run after one step. -/
def fatalOf (s : State) : Option (Word × Word) :=
  match ctxAt (nextOf (step s)) 0 with
  | some x => (runAt x 0).bind (fun u => u.fatals.head?.map (fun f => (f.ecause, f.einfo)))
  | none => none

def vec (l : List (Nat × VReg)) (c : Core) : Core := l.foldl (fun c e => wrV c e.1 e.2) c

/-- R111: sums wrap, and a shift distance is taken modulo 32. -/
theorem test_add_wraps : rdS (ran (.add 5 3 4) (regs [(3, 0xFFFFFFFF), (4, 3)])) 5 = 2#32 := by decide
theorem test_sub : rdS (ran (.sub 5 3 4) (regs [(3, 1), (4, 3)])) 5 = 0xFFFFFFFE#32 := by decide
theorem test_sra : rdS (ran (.sra 5 3 4) (regs [(3, 0x80000000), (4, 36)])) 5 = 0xF8000000#32 := by decide
theorem test_sltu : rdS (ran (.sltu 5 3 4) (regs [(3, 1), (4, 0x80000000)])) 5 = 1#32 := by decide
theorem test_slt : rdS (ran (.slt 5 3 4) (regs [(3, 1), (4, 0x80000000)])) 5 = 0#32 := by decide

/-- R111: the corners that the table states. -/
theorem test_div_by_zero : rdS (ran (.div 5 3 4) (regs [(3, 7)])) 5 = 0xFFFFFFFF#32 := by decide
theorem test_div_overflow : rdS (ran (.div 5 3 4) (regs [(3, 0x80000000), (4, 0xFFFFFFFF)])) 5 = 0x80000000#32 := by decide
theorem test_rem_sign : rdS (ran (.rem 5 3 4) (regs [(3, 0xFFFFFFF9), (4, 2)])) 5 = 0xFFFFFFFF#32 := by decide
theorem test_mulh : rdS (ran (.mulh 5 3 4) (regs [(3, 0xFFFFFFFF), (4, 2)])) 5 = 0xFFFFFFFF#32 := by decide
theorem test_clz_zero : rdS (ran (.clz 5 3) id) 5 = 32#32 := by decide

/-- R112, R114: the examples. -/
theorem test_addi : rdS (ran (.addi 4 4 (-3)) (regs [(4, 1)])) 4 = 0xFFFFFFFE#32 := by decide
theorem test_lui : rdS (ran (.lui 3 0x12345) id) 3 = 0x12345000#32 := by decide

/-- R101: s0 discards writes. -/
theorem test_s0 : rdS (ran (.addi 0 0 7) id) 0 = 0#32 := by decide

/-- R115, R116: a taken branch goes 8 parcels on, one that is not taken goes on; a jump links. -/
theorem test_branch_taken : (ran (.blt 3 4 8) (regs [(3, 0xFFFFFFFF)])).pc = 16#32 := by decide
theorem test_branch_not_taken : (ran (.bltu 3 4 8) (regs [(3, 0xFFFFFFFF)])).pc = 4#32 := by decide
theorem test_jal_links : rdS (ran (.jal 1 100) id) 1 = 4#32 ∧ (ran (.jal 1 100) id).pc = 200#32 := by decide

/-- R107, R118: crc clears the flags that its source has set. -/
theorem test_crc : (ran (.crc 0 6 1) (fun c => { regs [(6, 5)] c with cr := { c.cr with fflg := 0x1F } })).cr.fflg = 0x1A#32 := by decide

/-- R79, R118, R350: PRIV of a privileged register, and ILL of one that is not listed, with no handler. -/
theorem test_crr_priv : (fatalOf (at_ (.crr 3 0x40))).map Prod.snd = some 0x40#32 := by decide
theorem test_crr_ill : (fatalOf (at_ (.crr 3 0xFFF))).map Prod.snd = some (encodeWord (.crr 3 0xFFF)) := by decide

/-- R119, R346: a trap that the mask sends to the handler. -/
theorem test_trap_handler : (after (place (.trap 3) (regs [(3, 9)]) (fun x => { x with hmask := 0xFFFFFFFF }) id)).cr.einfo = 9#32 ∧
    (after (place (.trap 3) (regs [(3, 9)]) (fun x => { x with hmask := 0xFFFFFFFF }) id)).priv = true := by decide

/-- R124: the only task ends. -/
theorem test_task_end : (after (at_ .taskEnd)).task = none := by decide

/-- R189: lanes do not carry into each other; a saturating sum stops at the greatest lane. -/
theorem test_vadd : rdV (ran (.vadd 3 1 2 vm2) (vec [(1, 0x01FF#256), (2, 0x0101#256)])) 3 = 0x0200#256 := by decide
theorem test_vadds : rdV (ran (.vadds 3 1 2 vm2) (vec [(1, 0x7F#256), (2, 0x01#256)])) 3 = 0x7F#256 := by decide

/-- R190: equal lanes of 8 bits are bits of the predicate. -/
theorem test_vcmp : rdP (ran (.vcmpEq 1 2 3 vm2) (vec [(2, 0xFFFF#256), (3, 0xFF00#256)])) 1 = 0xFFFFFFFE#32 := by decide

/-- R197, the worked program of chapter 9: 18.25, 11.25, 11.25, 6.25, 5, 4, 4 and 4 add up to 64. -/
theorem test_vfredsum : rdS (ran (.vfredsum 5 10 vm0) (vec [(10, 0x40800000408000004080000040A0000040C80000413400004134000041920000#256)])) 5 = 0x42800000#32 := by decide

/-- R205, the worked example of chapter 8: eight lanes, quantised by 2.0, in bytes 8 to 15; OF, UF and NX are set. -/
theorem test_vqnt : rdV (ran (.vqnt 10 4 6 1 vm0) (fun c => vec [(4, 0x43E00000800000007FC00000447A00003A83126F43FA0000C06000003F800000#256), (10, 0x1111111111111111111111111111111111111111111111111111111111111111#256)] (regs [(6, 0x40000000)] c))) 10 =
    0x1111111111111111111111111111111176807F7E0078BE301111111111111111#256 := by decide
theorem test_vqnt_flags : (ran (.vqnt 10 4 6 1 vm0) (fun c => vec [(4, 0x43E00000800000007FC00000447A00003A83126F43FA0000C06000003F800000#256)] (regs [(6, 0x40000000)] c))).cr.fflg = 0x1C#32 := by decide

/-- R192: 1.25 + 1.75 = 3.0, the first lane of the worked program of chapter 9. -/
theorem test_vfadd : rdV (ran (.vfadd 6 6 8 vm0) (vec [(6, 0x3FA00000#256), (8, 0x3FE00000#256)])) 6 = 0x40400000#256 := by decide

/-- R198: 1 / 0 is an infinity with DZ. -/
theorem test_vfdiv : laneOf (rdV (ran (.vfdiv 3 1 2 0 0) (vec [(1, 0x3F800000#256)])) 3) 32 0 = 0x7F800000 := by decide

/-- R196, the worked program of chapter 14: the class of +infinity in FP16 is 0x0080. -/
theorem test_vfclass : laneOf (rdV (ran (.vfclass 3 1 ⟨1#2, 0#2, 0#1, 0#1⟩) (vec [(1, 0x7C00#256)])) 3) 16 0 = 0x80 := by decide

/-- R207: pcount counts lanes of 32 bits, by the first bit of each. -/
theorem test_pcount : rdS (ran (.pcount 4 1 2) (fun c => wrP c 1 0x0000F010)) 4 = 2#32 := by decide

/-- R161, R180: an element reads as it was stored. -/
theorem test_store : (nextOf (step (withLayouts (.st 3 1 0 0 0) (regs [(3, 0x12345678), (1, 1)])))).slice.read 4 = 0x78#8 := by decide
theorem test_load : rdS (completeIf (fun _ => true) (after { withLayouts (.ld 3 1 0 0 0) (regs [(1, 1)]) with slice := [(4, 0x78#8), (5, 0x56#8)] })) 3 =
    0x5678#32 := by decide

/-- R165: an index past the extent is LAYOUT (cause 0x03), and nothing is stored. -/
theorem test_layout : (nextOf (step (withLayouts (.st 3 1 0 0 0) (regs [(3, 7), (1, 64)])))).slice = [] := by decide

/-- R286: amo.cas writes s[D+1] where the old value is s[D], and gives the old value; amo.incw wraps at its bound. -/
theorem test_cas : rdS (ranFree (.amoCas 6 4 1 0) (regs [(6, 0), (7, 9)])) 6 = 0#32 ∧
    (nextOf (step (place (.amoCas 6 4 1 0) (regs [(6, 0), (7, 9)]) nodet laid))).slice = [(0, 9#8)] := by decide
theorem test_incw : (nextOf (step { place (.amoIncw 5 4 1 0) (regs [(5, 8)]) nodet laid with slice := [(0, 7#8)] })).slice = [] := by decide

/-- R288: in a DET context an atomic with a result is NONDET, and changes nothing. -/
theorem test_det_amo : (nextOf (step (withLayouts (.amoAdd 5 4 1 0 0) (regs [(5, 8)])))).slice = [] := by decide

/-- R310: the lock word of context 0's core 0 has HELD alone. -/
theorem test_lock : (nextOf (step (place (.mtxLock 3 1) id nodet laid))).slice = [(3, 0x80#8)] := by decide

/-- R300: an arrival gives the new phase. -/
theorem test_arrive : rdS (completeIf (fun _ => true) (after (member (.barArr 5 0 0) id))) 5 = 1#32 := by decide

/-- R215, the worked program of chapter 14: SEQ 1 of engine G 0 is 4. -/
theorem test_launch : rdS (ran (.copyLaunch 9 0) copyBlock) 9 = 4#32 := by decide

/-- R252: a claim sets CLM and raises GEN. -/
theorem test_claim : tagWord (ran (.mxClaim 2 0) id) 2 0 = 0x80010000#32 := by decide

/-- R399: a counter past 58 is PRIV. R324, R325: core 0 of a module without a job has rank 0. -/
theorem test_cnt_rd : (fatalOf (place (.cntRd 5 3 0) (regs [(3, 59)]) id id)).map Prod.snd = some 0x0B01003B#32 := by decide
theorem test_rank_rd : rdS (ran (.rankRd 8 0 0 0) id) 8 = 0#32 := by decide

/-- R366, R383: the first promise of a slot has generation 1 and entry 0. -/
theorem test_prm_open : rdS (completeIf (fun _ => true) (after (described (.prmOpen 5 4 10 0) openDesc))) 5 = 64#32 := by decide

theorem step_power_on {s : State} (h : s.agenda = [.event .powerOn {}]) (h0 : s.mgmt.stage = 0#4) (hf : s.mgmt.fail = false) :
    step s = .next (powerOn { s with agenda := [], input := {} }) := by
  have hm : isModuleStep .powerOn = true := rfl
  simp [step, stepWith, h, moveWith, exec, execPowerOn, h0, hf, hm]

/-- R9: power-on ends READY at stage 9. -/
theorem test_power_on : (nextOf (step State.reset)).mgmt.ready = true ∧ (nextOf (step State.reset)).mgmt.stage = 9#4 := by
  rewrite [step_power_on rfl rfl rfl, nextOf]
  exact powerOn_healthy _ rfl

/-- R15: OWNCAS of the expected owner takes effect and raises EPOCH. -/
theorem test_owncas : (event (owned State.reset) .owncas { who := 8, value := 0x18 }).mgmt.ownerId = 1#4 ∧
    (event (owned State.reset) .owncas { who := 8, value := 0x18 }).mgmt.epoch = 1#16 := by decide

end Sys2Proof.Tests
end

section
/-! PROOF. A step never refuses, and faults only for a core that the module does not have (O55; R1, R2). Every meaning of an
instruction goes on to a next state: an instruction of a core because its issue does (issue_next), a step of the module because
what serves it does. A move passes that on, from the run it is given to the core, to its gang and to the step. -/

namespace Sys2Proof.Machine

/-- The machine goes on to a next state: it neither stops with a fault nor refuses. -/
def GoesOn (o : Out) : Prop := ∃ t : State, o = .next t

@[simp] theorem goesOn_next (t : State) : GoesOn (.next t) := ⟨t, rfl⟩

theorem goesOn_ite {p : Prop} [Decidable p] {a b : Out} (ha : GoesOn a) (hb : GoesOn b) : GoesOn (if p then a else b) := by
  split
  · exact ha
  · exact hb

theorem goesOn_issue (i : Instr) (sh : Shape) (body : State → Body) (s : State) : GoesOn (issue i sh body s) :=
  issue_next i sh body s

theorem goesOn_keepCur (n : Nat) {o : Out} (h : GoesOn o) : GoesOn (keepCur n o) := by
  obtain ⟨t, rfl⟩ := h
  exact goesOn_next _

/-! ## Commands of the management complex (R22) -/

theorem goesOn_serveOr (s : State) (code : Nat) (who : Who) (withCtx : Bool)
    (f : State → Nat → (Nat → Word) → State × Option (Nat × List Word)) : GoesOn (serveOr s code who withCtx f) := by
  unfold serveOr
  split
  · exact goesOn_next s
  · refine goesOn_ite (goesOn_next _) (goesOn_ite (goesOn_next _) (goesOn_ite (goesOn_next _) ?_))
    split <;> exact goesOn_next _

theorem goesOn_serve (s : State) (code : Nat) (who : Who) (withCtx : Bool)
    (f : State → Nat → (Nat → Word) → State × Nat × List Word) : GoesOn (serve s code who withCtx f) :=
  goesOn_serveOr s code who withCtx _

theorem goesOn_jobCommandOr (s : State) (code : Nat) (f : State → Nat → Ctx → (Nat → Word) → State × Option Nat) :
    GoesOn (jobCommandOr s code f) :=
  goesOn_serveOr s code .owner false _

theorem goesOn_jobCommand (s : State) (code : Nat) (f : State → Nat → Ctx → (Nat → Word) → State × Nat) :
    GoesOn (jobCommand s code f) :=
  goesOn_jobCommandOr s code _

/-! ## Moves of a core, whatever instructions mean (R89, R90) -/

section
variable {run : Instr → State → Out} (hrun : ∀ (i : Instr) (s : State), GoesOn (run i s))
include hrun

theorem goesOn_runFetched (s : State) (n : Nat) : GoesOn (runFetched run s n) := by
  unfold runFetched
  refine goesOn_ite (goesOn_next _) ?_
  split
  · exact goesOn_next _
  · split
    · exact hrun _ _
    · exact goesOn_next _

theorem goesOn_runMembers (ms : List Nat) (s : State) : GoesOn (runMembers run ms s) := by
  induction ms generalizing s with
  | nil => exact goesOn_next s
  | cons n rest ih =>
    obtain ⟨t, ht⟩ := goesOn_runFetched hrun s n
    simp only [runMembers, ht]
    exact goesOn_ite (ih s) (ih _)

theorem goesOn_runJoined (s : State) (n : Nat) (ms : List Nat) : GoesOn (runJoined run s n ms) := by
  obtain ⟨s1, h1⟩ := goesOn_runMembers hrun ms s
  simp only [runJoined, h1]
  split
  · exact goesOn_next _
  next hne =>
    obtain ⟨s2, h2⟩ := goesOn_runMembers hrun _ s1
    exact (hne s2 h2).elim

theorem goesOn_runGang (s : State) (n : Nat) (g : Gang) : GoesOn (runGang run s n g) :=
  goesOn_ite (goesOn_next _) (goesOn_runJoined hrun s n _)

theorem goesOn_coreMove (s : State) (n : Nat) : GoesOn (coreMove run s n) := by
  unfold coreMove
  refine goesOn_ite (goesOn_next _) (goesOn_ite (goesOn_next _) (goesOn_ite (goesOn_next _) ?_))
  split
  · exact goesOn_next _
  · split
    · split
      · exact goesOn_next _
      · split
        · exact goesOn_next _
        · exact goesOn_runGang hrun _ n _
    · exact goesOn_runFetched hrun _ n

theorem goesOn_coreAgain (s : State) (n : Nat) : GoesOn (coreAgain run s n) := by
  unfold coreAgain
  refine goesOn_ite (goesOn_next _) (goesOn_ite (goesOn_next _) ?_)
  split
  · exact goesOn_next _
  · split
    · exact goesOn_runJoined hrun _ n [n]
    · exact goesOn_runFetched hrun _ n

/-- The only move that does not go on is that of a core above 8,191 (R1, R2). -/
theorem moveWith_goesOn_or_noSuchCore (m : Move) (s : State) :
    GoesOn (moveWith run m s) ∨ ∃ n : Nat, m = .core n ∧ 8192 ≤ n ∧ moveWith run m s = .fault (.noSuchCore n) := by
  cases m with
  | core n =>
    by_cases hn : n < 8192
    · exact .inl (by simpa only [moveWith, if_pos hn] using goesOn_coreMove hrun s n)
    · exact .inr ⟨n, rfl, Nat.le_of_not_lt hn, if_neg hn⟩
  | event i x => exact .inl (goesOn_ite (hrun i _) (goesOn_next _))
  | elapse | engine | optim | stage | softError | eccError | bar2Read | privateAccess => exact .inl (goesOn_next _)

end

/-! ## Ends of waits (R63, R167 to R170, R230, R294, R310, R326) -/

/-- An instruction that waits issues again; one that never waits leaves the state as it is. -/
theorem goesOn_waitExec (i : Instr) (s : State) : GoesOn (waitExec i s) := by
  cases i
  case ld | st | ldFe | ldFeClr | stFe | stFeForce | ldV | stV | vld | vst | vldFe | vldFeClr | vstFe | vstFeForce | vldV
      | vstV | reclaim | amoAdd | amoAnd | amoOr | amoXor | amoMin | amoMax | amoSwap | amoCas | amoIncb | amoIncw | amoDecnz
      | amoAddlim | tamoFadd | tamoFmax | tamoFmin | tamoOr | tamoSkip | tfence | annAmoAdd | annAmoAnd | annAmoOr
      | annAmoXor | annAmoMin | annAmoMax | annAmoSwap | annLd | waitCnt | mtxLock | mtxUnlock | copyLaunch | gatherLaunch
      | exchangeLaunch | msgSend | msgSret | mxFill | mxFillCol | mxAcld | mxAcst | prmOpen | prmRedeem | prmRedeemT
      | optCard | optLdr | optWait | prmCancel | prmQuery | barArr | barWait | barSync | evWait | evSig | fenceE | engWait
      | gangForm | gangMma | gangMmaSh | gangJoinInstruction | msgRecv | msgPush | rankMove | lrecPatch | lrecArm | yield
      | taskEnd | cEnd => exact goesOn_issue _ _ _ _
  all_goals exact goesOn_next s

theorem goesOn_resume (ks : List WaitKind) (s : State) (n : Nat) : GoesOn (resume ks s n) :=
  goesOn_ite (goesOn_keepCur _ (goesOn_coreAgain goesOn_waitExec s n)) (goesOn_next s)

theorem goesOn_expire (ks : List WaitKind) (s : State) : GoesOn (expire ks s) :=
  goesOn_ite (goesOn_resume ks s _) (goesOn_next s)

/-! ## Steps of the module that choose what they do -/

theorem goesOn_hostLinkDown (s : State) : GoesOn (execHostLinkDown s) := goesOn_ite (goesOn_next _) (goesOn_next s)

theorem goesOn_powerOn (s : State) : GoesOn (execPowerOn s) := goesOn_ite (goesOn_next _) (goesOn_next s)

theorem goesOn_flitReceive (s : State) : GoesOn (execFlitReceive s) := by
  unfold execFlitReceive
  split <;> exact goesOn_next _

theorem goesOn_ticketArrival (s : State) : GoesOn (execTicketArrival s) := by
  unfold execTicketArrival
  split
  · exact goesOn_next _
  · exact goesOn_resume _ s _

theorem goesOn_messageArrival (s : State) : GoesOn (execMessageArrival s) :=
  goesOn_ite (goesOn_resume _ s _) (goesOn_next _)

theorem goesOn_messageRetry (s : State) : GoesOn (execMessageRetry s) := by
  unfold execMessageRetry
  extract_lets n again
  clear_value again
  refine goesOn_ite ?_ (goesOn_next s)
  split
  · exact goesOn_next _
  · exact goesOn_resume _ s _

theorem goesOn_sendStall (s : State) : GoesOn (execSendStall s) := goesOn_ite (goesOn_resume _ s _) (goesOn_next s)

theorem goesOn_decodeTrap (s : State) : GoesOn (execDecodeTrap s) :=
  goesOn_keepCur _ (goesOn_runFetched (fun _ t => goesOn_next t) s _)

/-! ## The dispatch -/

/-- No instruction and no step of the module stops the machine. -/
theorem goesOn_exec (i : Instr) (s : State) : GoesOn (exec i s) := by
  cases i
  case powerOn => exact goesOn_powerOn s
  case hostLinkDown => exact goesOn_hostLinkDown s
  case flitReceive => exact goesOn_flitReceive s
  case ticketArrival => exact goesOn_ticketArrival s
  case messageArrival => exact goesOn_messageArrival s
  case messageRetry => exact goesOn_messageRetry s
  case sendStall => exact goesOn_sendStall s
  case decodeTrap => exact goesOn_decodeTrap s
  -- commands of the management complex
  case preempt | retire =>
    dsimp only [exec]
    exact goesOn_serveOr _ _ _ _ _
  case fwmin | create | sealPart | bind | resume | debug | dbgcont | map | unmap | pgresp | hload | snap | recread | idkey | trace
      | tfilter =>
    dsimp only [exec]
    exact goesOn_serve _ _ _ _ _
  case jobseal =>
    dsimp only [exec]
    exact goesOn_jobCommandOr _ _ _
  case jobopen | jobmap | jobclose =>
    dsimp only [exec]
    exact goesOn_jobCommand _ _ _
  -- ends of waits
  case homeBankAccess | ticketRetry | mutexRetry | fullEmptyWaitEnd | versionWaitEnd | reclaimWaitEnd | phaseWaitEnd | lockWaitEnd =>
    exact goesOn_resume _ s _
  -- watchdogs of waits
  case ticketGap | tfenceGapExpiry | tktLoadGapExpiry | optWaitGapExpiry => exact goesOn_expire _ s
  -- steps that are a function of the state
  case coldReset | warmReset | thermalTrip | thermalClear | owncas | denied | arm | evpop | bar2Write | registerWrite | taskStart
      | windowClose | windowResultDelivery | quantumDeadlock | watchdog | timer | clockGate | handlerEntry | fatalStop
      | userInterruptDelivery | preEmption | haltComplete | spill | restore | coreFailure | rowRemap | laneFailure
      | retransmissionRequest | pushApply | slotReturn | copyComplete | gatherComplete | exchangeComplete | enginePageFault
      | engineGranuleWaitEnd | barrierRelease | eventSignalLanding | instructionCompletion | recordPoolAnswer | gangMmaCompletion
      | cardStart | cardComplete | strainerAction | traceFilterRun | interlockedResult => exact goesOn_next _
  -- the instructions of a core
  all_goals exact goesOn_issue _ _ _ _

/-- Settles O55: the step is a move with the meanings of exec, all of which go on. -/
theorem stepsComplete : Obligations.StepsComplete := by
  intro s
  unfold step stepWith
  cases hs : s.agenda with
  | nil =>
    obtain h | ⟨n, hm, hn, hf⟩ := moveWith_goesOn_or_noSuchCore goesOn_exec (.core s.cur) s
    · exact .inl h
    · exact .inr ⟨n, hn, hf, .inl ⟨rfl, (Move.core.inj hm).symm⟩⟩
  | cons m rest =>
    obtain h | ⟨n, rfl, hn, hf⟩ := moveWith_goesOn_or_noSuchCore goesOn_exec m { s with agenda := rest }
    · exact .inl h
    · exact .inr ⟨n, hn, hf, .inr rfl⟩

end Sys2Proof.Machine
end

section
/-! PROOF. Every step keeps the memories in canonical form (O57; R11, R25). One lemma per operation of the state, of an instruction's
part or of the module: from canonical memories it leaves canonical memories. Only the lemmas over wf_setSlice to wf_setSram look at a
memory, and they rest on the laws of its own operations (Memory.wf_write and the like); all others compose. The step puts them
together through the dispatch (wf_exec). -/

namespace Sys2Proof.Machine

/-- The memories stay canonical whatever becomes of the rest of the state. -/
theorem wf_others {s : State} {mgmt boot mcores masters mboxq moduleq snapSeq serial signed softErr rows spares failed lanes dspare
    links ctxs clusters cores conf poison dpoison rowOpen marks counting packets agenda cur input fresh} (h : MemoriesWf s) :
    MemoriesWf { s with
      mgmt := mgmt, boot := boot, mcores := mcores, masters := masters, mboxq := mboxq, moduleq := moduleq, snapSeq := snapSeq
      serial := serial, signed := signed, softErr := softErr, rows := rows, spares := spares, failed := failed, lanes := lanes
      dspare := dspare, links := links, ctxs := ctxs, clusters := clusters, cores := cores, conf := conf, poison := poison
      dpoison := dpoison, rowOpen := rowOpen, marks := marks, counting := counting, packets := packets, agenda := agenda, cur := cur
      input := input, fresh := fresh } := h

/-- Every state that an instruction's own part leaves has canonical memories. -/
def BodyWf : Body → Prop
  | .ok s | .jump s _ | .counts s _ | .done s | .fault s _ | .wait _ s => MemoriesWf s
  | .trap _ => True

/-- The next state, if a step goes on to one, has canonical memories. -/
def OutWf (o : Out) : Prop := ∀ t, o = .next t → MemoriesWf t

theorem outWf_next {t : State} (h : MemoriesWf t) : OutWf (.next t) := by
  rintro _ ⟨⟩
  exact h

theorem wf_ite {p : Prop} [Decidable p] {a b : State} (ha : MemoriesWf a) (hb : MemoriesWf b) : MemoriesWf (if p then a else b)
    := by
  split
  · exact ha
  · exact hb

theorem wf_foldl {α : Type} {f : State → α → State} {l : List α} {s : State} (h : MemoriesWf s)
    (hf : ∀ s a, MemoriesWf s → MemoriesWf (f s a)) : MemoriesWf (l.foldl f s) := by
  induction l generalizing s with
  | nil => exact h
  | cons a l ih => exact ih (hf s a h)

theorem wf_of_fst {α : Type} {p : State × α} {t : State} {a : α} (e : p = (t, a)) (h : MemoriesWf p.1) : MemoriesWf t := by
  subst e
  exact h

theorem outWf_of_eq {o : Out} {t : State} (e : o = .next t) (h : OutWf o) : MemoriesWf t := h t e

theorem bodyWf_ite {p : Prop} [Decidable p] {a b : Body} (ha : BodyWf a) (hb : BodyWf b) : BodyWf (if p then a else b) := by
  split
  · exact ha
  · exact hb

theorem outWf_ite {p : Prop} [Decidable p] {a b : Out} (ha : OutWf a) (hb : OutWf b) : OutWf (if p then a else b) := by
  split
  · exact ha
  · exact hb

section
variable {s : State}

/-- Whatever state x goes on to, as go says it, has canonical memories. -/
def GoesWf {α : Type} (go : State → α) (x : α) : Prop := ∀ t, x = go t → MemoriesWf t

theorem goesWf_ne {α : Type} {go : State → α} {x : α} (hx : ∀ t, x ≠ go t) : GoesWf go x := fun t e => (hx t e).elim

theorem goesWf_some (h : MemoriesWf s) : GoesWf some (some s) := by
  rintro _ ⟨⟩
  exact h

theorem goesWf_ite {α : Type} {go : State → α} {p : Prop} [Decidable p] {a b : α} (ha : GoesWf go a) (hb : GoesWf go b) :
    GoesWf go (if p then a else b) := by
  split
  · exact ha
  · exact hb

section
variable {m : Memory} (h : MemoriesWf s) (hm : Memory.wf m = true)
include h hm

theorem wf_setSlice : MemoriesWf { s with slice := m } := ⟨hm, h.2⟩

theorem wf_setGmeta : MemoriesWf { s with gmeta := m } := ⟨h.1, hm, h.2.2⟩

theorem wf_setDram : MemoriesWf { s with dram := m } := ⟨h.1, h.2.1, hm, h.2.2.2⟩

theorem wf_setCaddy : MemoriesWf { s with caddy := m } := ⟨h.1, h.2.1, h.2.2.1, hm, h.2.2.2.2⟩

theorem wf_setHost : MemoriesWf { s with host := m } := ⟨h.1, h.2.1, h.2.2.1, h.2.2.2.1, hm, h.2.2.2.2.2⟩

theorem wf_setSpill : MemoriesWf { s with spill := m } := ⟨h.1, h.2.1, h.2.2.1, h.2.2.2.1, h.2.2.2.2.1, hm, h.2.2.2.2.2.2⟩

theorem wf_setSram : MemoriesWf { s with sram := m } := ⟨h.1, h.2.1, h.2.2.1, h.2.2.2.1, h.2.2.2.2.1, h.2.2.2.2.2.1, hm⟩

end

/-! ## Contexts, waves, traps and issue (R63, R94 to R104) -/

theorem wf_updCtx {c f} (h : MemoriesWf s) : MemoriesWf (updCtx s c f) := by
  unfold updCtx
  split <;> exact h

theorem wf_updRun {c r f} (h : MemoriesWf s) : MemoriesWf (updRun s c r f) := wf_updCtx h

theorem wf_updOpt {c k f} (h : MemoriesWf s) : MemoriesWf (updOpt s c k f) := wf_updCtx h

theorem wf_forwardGang {cl g} (h : MemoriesWf s) : MemoriesWf (forwardGang s cl g) := wf_foldl h (fun _ _ h => h)

theorem wf_dissolve {n} (h : MemoriesWf s) : MemoriesWf (dissolve s n) := by
  unfold dissolve
  split <;> exact h

theorem wf_addShadow {n} (h : MemoriesWf s) : MemoriesWf (addShadow s n) := by
  unfold addShadow
  split
  exacts [h, wf_updRun h]

theorem wf_fatalStop {n f} (h : MemoriesWf s) : MemoriesWf (fatalStop s n f) := by
  unfold fatalStop
  split
  exacts [h, wf_others (wf_dissolve (wf_updRun (wf_addShadow h)))]

theorem wf_releaseLocks {c n seq} (h : MemoriesWf s) : MemoriesWf (releaseLocks s c n seq) := wf_updCtx h

theorem wf_dropUnjoined {n} (h : MemoriesWf s) : MemoriesWf (dropUnjoined s n) := by
  unfold dropUnjoined
  split
  exacts [wf_releaseLocks h, h]

theorem wf_leaveQueues {n} (h : MemoriesWf s) : MemoriesWf (leaveQueues s n) := by
  unfold leaveQueues
  split
  exacts [wf_ite h h, h]

theorem wf_dropSent {n} (h : MemoriesWf s) : MemoriesWf (dropSent s n) := by
  unfold dropSent
  split <;> exact h

theorem wf_withdraw {n} (h : MemoriesWf s) : MemoriesWf (withdraw s n) := by
  unfold withdraw
  extract_lets s1 s2
  have h1 : MemoriesWf s1 := wf_leaveQueues (wf_dropUnjoined (wf_dropSent h))
  have h2 : MemoriesWf s2 := h1
  split <;> exact h2

theorem wf_enterTrap {n r} (h : MemoriesWf s) : MemoriesWf (enterTrap s n r) := by
  unfold enterTrap
  split
  exacts [h, wf_ite h (wf_ite (wf_fatalStop h) h)]

theorem wf_takeTrap {n r} (h : MemoriesWf s) : MemoriesWf (takeTrap s n r) :=
  wf_ite (wf_others (wf_others (wf_withdraw (wf_dissolve h)))) (wf_enterTrap (wf_others (wf_others (wf_withdraw (wf_dissolve h)))))

theorem wf_deliverInt {n} (h : MemoriesWf s) : MemoriesWf (deliverInt s n) := wf_others (wf_withdraw (wf_dissolve h))

theorem wf_stallAs {n sh k} (h : MemoriesWf s) : MemoriesWf (stallAs s n sh k) := wf_others h

theorem wf_issueCheck {i sh n} (h : MemoriesWf s) : GoesWf .deliver (issueCheck i sh s n) := by
  unfold issueCheck
  split
  · exact goesWf_ne (fun _ => nofun)
  · refine goesWf_ite (goesWf_ne (fun _ => nofun)) (goesWf_ite (goesWf_ne (fun _ => nofun)) (goesWf_ite ?_
      (goesWf_ite (goesWf_ne (fun _ => nofun)) (goesWf_ite (goesWf_ne (fun _ => nofun)) (goesWf_ite (goesWf_ne (fun _ => nofun))
          ?_)))))
    · rintro _ ⟨⟩
      exact wf_deliverInt h
    · extract_lets s1
      split
      · exact goesWf_ne (fun _ => nofun)
      · split
        · exact goesWf_ne (fun _ => nofun)
        · exact goesWf_ite (goesWf_ne (fun _ => nofun)) (goesWf_ne (fun _ => nofun))

theorem wf_settleBody {n len b} (h : MemoriesWf s) (hb : BodyWf b) : MemoriesWf (settleBody s n len b) := by
  cases b with
  | ok | jump | counts | done | wait => exact hb
  | trap r => exact wf_takeTrap h
  | fault s1 r => exact wf_takeTrap hb

theorem wf_issue {i sh body} (hbody : ∀ s, MemoriesWf s → BodyWf (body s)) (h : MemoriesWf s) : OutWf (issue i sh body s) := by
  unfold issue
  split
  · exact outWf_next h
  next e => exact outWf_next (wf_issueCheck h _ e)
  · exact outWf_next h
  · exact outWf_next (wf_takeTrap h)
  next e =>
    obtain rfl := go_state e
    exact outWf_next (wf_settleBody h (hbody _ h))

theorem wf_pendLock {n k l ws flags counts lock} (h : MemoriesWf s) : MemoriesWf (pendLock s n k l ws flags counts lock) := h

theorem wf_pend {n k l ws flags counts} (h : MemoriesWf s) : MemoriesWf (pend s n k l ws flags counts) := wf_pendLock h

theorem wf_interlock {ws} (h : MemoriesWf s) : BodyWf (interlock s ws) := wf_pend h

theorem wf_longRes {l ws} (h : MemoriesWf s) : BodyWf (longRes s l ws) := wf_pend h

/-! ## The management complex: masters, events and commands (R14 to R24) -/

theorem wf_countDenied {m} (h : MemoriesWf s) : MemoriesWf (countDenied s m) := h

theorem wf_setMcores {r} (h : MemoriesWf s) : MemoriesWf (setMcores s r) := h

theorem wf_postTo {m e} (h : MemoriesWf s) : MemoriesWf (postTo s m e) := h

theorem wf_postModule {e} (h : MemoriesWf s) : MemoriesWf (postModule s e) := wf_ite h (wf_postTo h)

theorem wf_postCtx {c e} (h : MemoriesWf s) : MemoriesWf (postCtx s c e) := by
  unfold postCtx
  extract_lets s1
  have h1 : MemoriesWf s1 := wf_postModule h
  split
  · split
    exacts [wf_ite h1 (wf_postTo h1), h1]
  · exact h1

theorem wf_handOver (h : MemoriesWf s) : MemoriesWf (handOver s) := wf_ite h (wf_foldl h (fun _ _ h => wf_postTo h))

theorem wf_evpopWrite {m v} (h : MemoriesWf s) : MemoriesWf (evpopWrite s m v) := wf_ite h h

theorem wf_setOwner {n} (h : MemoriesWf s) : MemoriesWf (setOwner s n) := wf_handOver h

theorem wf_owncasWrite {m w} (h : MemoriesWf s) : MemoriesWf (owncasWrite s m w) :=
  wf_ite (wf_countDenied h) (wf_ite (wf_setOwner h) (wf_countDenied h))

theorem wf_deniedWrite {m} (h : MemoriesWf s) : MemoriesWf (deniedWrite s m) := h

theorem wf_setMbox {m i w} (h : MemoriesWf s) : MemoriesWf (setMbox s m i w) := h

theorem wf_answerMbox {m status results} (h : MemoriesWf s) : MemoriesWf (answerMbox s m status results) :=
  wf_setMbox (wf_others (wf_foldl (wf_setMbox h) (fun _ _ h => wf_setMbox h)))

theorem wf_settleMbox {k} (h : MemoriesWf s) : MemoriesWf (settleMbox k s) := by
  induction k generalizing s with
  | zero => exact h
  | succ k ih =>
    unfold settleMbox
    split
    · exact h
    · exact wf_ite (ih (wf_answerMbox h)) h

theorem wf_serveOr {code who withCtx f} (h : MemoriesWf s) (hf : ∀ s, MemoriesWf s → ∀ m arg, MemoriesWf (f s m arg).1) :
    OutWf (serveOr s code who withCtx f) := by
  unfold serveOr
  split
  · exact outWf_next h
  next m _ _ =>
    refine outWf_ite (outWf_next h) (outWf_ite (outWf_next (wf_settleMbox (wf_answerMbox (wf_countDenied h))))
      (outWf_ite (outWf_next (wf_settleMbox (wf_answerMbox h))) ?_))
    split
    next e => exact outWf_next (wf_settleMbox (wf_answerMbox (wf_of_fst e (hf s h m _))))
    next e => exact outWf_next (wf_of_fst e (hf s h m _))

theorem wf_serve {code who withCtx f} (h : MemoriesWf s) (hf : ∀ s, MemoriesWf s → ∀ m arg, MemoriesWf (f s m arg).1) :
    OutWf (serve s code who withCtx f) :=
  wf_serveOr h hf

theorem wf_doorbell {m w} (h : MemoriesWf s) : MemoriesWf (doorbell s m w) :=
  wf_ite (wf_countDenied h) (wf_ite (wf_settleMbox (wf_setMbox h)) h)

/-! ## Power-on (R9 to R11) -/

theorem wf_bootFail {stage code} (h : MemoriesWf s) : MemoriesWf (bootFail s stage code) := wf_setMcores h

theorem wf_holdKey (h : MemoriesWf s) : MemoriesWf (holdKey s) := wf_setSram h (Memory.wf_writeBytes _ _ _ Memory.wf_nil)

theorem wf_calibrate (h : MemoriesWf s) : MemoriesWf (calibrate s) := h

theorem wf_powerOn (h : MemoriesWf s) : MemoriesWf (powerOn s) := by
  unfold powerOn
  extract_lets b
  refine wf_ite (wf_bootFail h) ?_
  split
  · exact wf_bootFail h
  · split
    · exact wf_bootFail h
    · refine wf_ite (wf_bootFail h) ?_
      have h1 : MemoriesWf (calibrate (holdKey (setMcores s .phodiver))) := wf_calibrate (wf_holdKey (wf_setMcores h))
      refine wf_ite (wf_bootFail h1) (wf_ite (wf_bootFail h1) (wf_ite (wf_bootFail h1) ?_))
      obtain ⟨-, -, -, -, hhost, -, hsram⟩ := h1
      exact ⟨Memory.wf_nil, Memory.wf_nil, Memory.wf_nil, Memory.wf_nil, hhost, Memory.wf_nil, hsram⟩

/-! ## The caddy and BAR2 (R25 to R29) -/

theorem wf_setCaddyW {c x w} (h : MemoriesWf s) : MemoriesWf (setCaddyW s c x w) :=
  wf_setCaddy h (Memory.wf_writeW _ _ _ h.2.2.2.1)

theorem wf_openCaddy {c x b n} (h : MemoriesWf s) : MemoriesWf (openCaddy s c x b n) := wf_foldl h (fun _ _ h => h)

theorem wf_setRecWord {c x i w v} (h : MemoriesWf s) : MemoriesWf (setRecWord s c x i w v) := wf_setCaddyW (wf_openCaddy h)

theorem wf_openRec {c x i} (h : MemoriesWf s) : MemoriesWf (openRec s c x i) := wf_openCaddy h

theorem wf_setStatus {c x i ndone cause st} (h : MemoriesWf s) : MemoriesWf (setStatus s c x i ndone cause st) :=
  wf_setRecWord h

theorem wf_sealCtx {c x} (h : MemoriesWf s) : MemoriesWf (sealCtx s c x).1 := by
  unfold sealCtx
  split
  · exact h
  · extract_lets _ _ _ s1
    have h1 : MemoriesWf s1 := wf_openCaddy (wf_openCaddy h)
    split <;> exact h1

theorem wf_cleanCaddy {c x b n} (h : MemoriesWf s) : MemoriesWf (cleanCaddy s c x b n) := h

theorem wf_writeOpen {x m k b l} (hm : Memory.wf m = true) : Memory.wf (writeOpen x m k b l) = true := by
  induction l generalizing m k b with
  | nil => exact hm
  | cons v l ih =>
    refine ih ?_
    split
    · exact hm
    · exact Memory.wf_write _ _ _ hm

theorem wf_bar2Write {m off bs} (h : MemoriesWf s) : MemoriesWf (bar2Write s m off bs) := by
  unfold bar2Write
  extract_lets c b
  split
  · exact wf_countDenied h
  · extract_lets s1 s2
    have h1 : MemoriesWf s1 := wf_cleanCaddy (wf_openCaddy (wf_setCaddy h (wf_writeOpen h.2.2.2.1)))
    have h2 : MemoriesWf s2 := wf_ite (wf_countDenied h1) h1
    exact wf_ite (wf_countDenied h) (wf_ite (wf_countDenied h) (wf_ite (wf_updCtx h2) h2))

theorem wf_bar2Access {m off n} (h : MemoriesWf s) : MemoriesWf (bar2Access s m off n) := by
  unfold bar2Access
  split
  exacts [wf_ite (wf_openCaddy h) h, h]

/-! ## Arming and the scheduler (R35, R52, R60) -/

theorem wf_testCounts (h : MemoriesWf s) : MemoriesWf (testCounts s) := h

theorem wf_writeAt {home bankp a w v} (h : MemoriesWf s) : MemoriesWf (writeAt s home bankp a w v) :=
  wf_testCounts (wf_foldl h (fun _ _ h => wf_setSlice h (Memory.wf_write _ _ _ h.1)))

theorem wf_acceptArm {c x i seq} (h : MemoriesWf s) : MemoriesWf (acceptArm s c x i seq) :=
  wf_others (wf_setStatus (wf_setRecWord h))

theorem wf_unmark {c r} (h : MemoriesWf s) : MemoriesWf (unmark s c r) :=
  wf_foldl h (fun _ _ h => wf_ite h (wf_ite (wf_setGmeta h (Memory.wf_write _ _ _ h.2.1)) h))

theorem wf_addShadows {c r x u} (h : MemoriesWf s) : MemoriesWf (addShadows s c r x u) :=
  wf_foldl h (fun _ _ h => wf_ite (wf_addShadow h) h)

theorem wf_freeRun {c x r u} (h : MemoriesWf s) : MemoriesWf (freeRun s c x r u) :=
  wf_foldl (wf_foldl (wf_unmark h) (fun _ _ h => wf_ite h h)) (fun _ _ h => wf_ite (wf_others (wf_withdraw h)) h)

theorem wf_failRecord {c i cause} (h : MemoriesWf s) : MemoriesWf (failRecord s c i cause) := by
  unfold failRecord
  split
  · exact h
  · extract_lets nd s2
    have h2 : MemoriesWf s2 := wf_setStatus h
    split
    exacts [h2, wf_updCtx (wf_freeRun (wf_addShadows h2))]

theorem wf_releaseRecord {c x i accNo k} (h : MemoriesWf s) : MemoriesWf (releaseRecord s c x i accNo k) :=
  wf_others (wf_setStatus h)

theorem wf_openRelease {c x i} (h : MemoriesWf s) : MemoriesWf (openRelease s c x i) :=
  wf_openCaddy (wf_openCaddy (wf_openRec h))

theorem wf_evalRecord {c j} (h : MemoriesWf s) : MemoriesWf (evalRecord s c j) := by
  unfold evalRecord
  split
  · exact h
  · extract_lets i held
    split
    · exact h
    · split
      · exact wf_ite h (wf_releaseRecord h)
      · split
        · exact wf_others (wf_openRec h)
        · split
          exacts [wf_releaseRecord (wf_openRelease (wf_openRec h)), wf_failRecord (wf_others (wf_openRelease (wf_openRec h)))]

theorem wf_evalPass {c} (h : MemoriesWf s) : MemoriesWf (evalPass s c) := by
  unfold evalPass
  split
  exacts [h, wf_foldl h (fun _ _ h => wf_evalRecord h)]

theorem wf_evalPasses {k c} (h : MemoriesWf s) : MemoriesWf (evalPasses k s c) := by
  induction k generalizing s with
  | zero => exact h
  | succ k ih => exact ih (wf_evalPass h)

theorem wf_loadCode {c x u n} (h : MemoriesWf s) : MemoriesWf (loadCode s c x u n) := wf_ite h (wf_others (wf_openCaddy h))

theorem wf_startRecord {c x r u} (h : MemoriesWf s) : MemoriesWf (startRecord s c x r u) :=
  wf_foldl (wf_foldl (wf_others (wf_setStatus h)) (fun _ _ h => h)) (fun _ _ h => wf_others (wf_others (wf_loadCode h)))

theorem wf_scanList {l held c} (h : MemoriesWf s) : MemoriesWf (scanList l held s c) := by
  induction l generalizing s held with
  | nil => exact h
  | cons r rest ih =>
    unfold scanList
    split
    · exact h
    · split
      · exact ih h
      · exact wf_ite (ih (wf_startRecord h)) (ih h)

theorem wf_scanCtx {c} (h : MemoriesWf s) : MemoriesWf (scanCtx s c) := by
  unfold scanCtx
  split
  exacts [h, wf_ite h (wf_ite (wf_scanList h) (wf_ite (wf_foldl h (fun _ _ h => wf_updCtx h)) h))]

theorem wf_scanAll (h : MemoriesWf s) : MemoriesWf (scanAll s) := wf_foldl h (fun _ _ h => wf_scanCtx h)

theorem wf_reschedule {c} (h : MemoriesWf s) : MemoriesWf (reschedule s c) := by
  unfold reschedule
  split
  exacts [wf_scanAll h, wf_scanAll (wf_evalPasses h)]

theorem wf_armRecord {c i seq} (h : MemoriesWf s) : MemoriesWf (armRecord s c i seq).1 := by
  unfold armRecord
  split
  · exact h
  · extract_lets r s1
    have h1 : MemoriesWf s1 := wf_ite (wf_openRec h) h
    split
    · exact wf_reschedule (wf_acceptArm h1)
    · exact h1

theorem wf_armReject {m cause} (h : MemoriesWf s) : MemoriesWf (armReject s m cause) := h

theorem wf_armWrite {m v aligned} (h : MemoriesWf s) : MemoriesWf (armWrite s m v aligned) := by
  unfold armWrite
  extract_lets c i x may
  refine wf_ite (wf_armReject (wf_countDenied h)) (wf_ite h (wf_ite (wf_armReject (wf_countDenied h)) (wf_ite h ?_)))
  clear_value may x
  split
  · exact h
  · refine wf_ite h ?_
    split
    next e =>
      have h1 := wf_of_fst e (wf_armRecord h)
      exact wf_ite h1 h1

theorem wf_doneRecord {c r} (h : MemoriesWf s) : MemoriesWf (doneRecord s c r) := by
  unfold doneRecord
  split
  · exact h
  · split
    exacts [h, wf_reschedule (wf_others (wf_freeRun (wf_setStatus h)))]

theorem wf_releaseMutexes {n} (h : MemoriesWf s) : MemoriesWf (releaseMutexes s n) := by
  unfold releaseMutexes
  exact wf_foldl h (fun _ _ h => wf_testCounts (wf_setSlice h (Memory.wf_write _ _ _ h.1)))

theorem wf_countSent {c n f change} (h : MemoriesWf s) : MemoriesWf (countSent s c n f change) := wf_updCtx h

theorem wf_passWaves {t n} (h : MemoriesWf s) : MemoriesWf (passWaves s t n) := by
  unfold passWaves
  split
  exacts [h, wf_countSent h]

theorem wf_endTask {n} (h : MemoriesWf s) : MemoriesWf (endTask s n) := by
  unfold endTask
  split
  · exact h
  · extract_lets s1 k ws j k1 s2
    have h2 : MemoriesWf s2 := wf_passWaves (wf_addShadow (wf_releaseMutexes (wf_dissolve h)))
    split
    · exact h2
    · exact wf_ite (wf_doneRecord (wf_setStatus h2)) (wf_setStatus h2)

theorem wf_freshReplay {n t u} (h : MemoriesWf s) : MemoriesWf (freshReplay s n t u) := wf_updOpt h

theorem wf_startTask {n} (h : MemoriesWf s) : MemoriesWf (startTask s n) := by
  unfold startTask
  extract_lets k
  split
  · split
    · exact h
    · split
      exacts [h, wf_ite (wf_others (wf_freshReplay h)) h]
  · exact h

theorem wf_deliverOne {n d} (h : MemoriesWf s) : MemoriesWf (deliverOne s n d) := h

theorem wf_deliverAll {c r} (h : MemoriesWf s) : MemoriesWf (deliverAll s c r) := by
  unfold deliverAll
  split
  · exact h
  · split
    · exact h
    · refine wf_ite h (wf_updRun (wf_foldl (wf_foldl h (fun _ _ h => wf_deliverOne h)) (fun s n h => ?_)))
      split
      · exact wf_ite h h
      · exact h

/-! ## Control, places and units -/

theorem wf_illegal {i} : BodyWf (illegal i) := trivial

theorem wf_crBody {i n d new} (h : MemoriesWf s) : BodyWf (crBody i n d new s) := by
  unfold crBody
  extract_lets c
  split
  · exact wf_illegal
  · split
    · trivial
    · split
      exacts [h, bodyWf_ite wf_illegal (bodyWf_ite trivial h)]

theorem wf_eretBody (h : MemoriesWf s) : BodyWf (eretBody s) := by
  unfold eretBody
  split
  exacts [h, trivial]

theorem wf_yieldBody (h : MemoriesWf s) : BodyWf (yieldBody s) := by
  unfold yieldBody
  extract_lets c
  split
  · exact h
  · split
    exacts [bodyWf_ite h h, h]

theorem wf_dropFault {n f} (h : MemoriesWf s) : MemoriesWf (dropFault s n f) := h

theorem wf_withEnv {f} (h : MemoriesWf s) (hf : ∀ a, BodyWf (f a)) : BodyWf (withEnv s f) := by
  unfold withEnv
  split
  exacts [hf _, h]

theorem wf_writePlace {p b} (h : MemoriesWf s) : MemoriesWf (writePlace s p b) := by
  cases p with
  | slice => exact wf_setSlice h (Memory.wf_write _ _ _ h.1)
  | dram => exact wf_setDram h (Memory.wf_write _ _ _ h.2.2.1)
  | host => exact wf_setHost h (Memory.wf_write _ _ _ h.2.2.2.2.1)
  | caddy | none => exact h

theorem wf_writeElem {c x e g a v} (h : MemoriesWf s) : MemoriesWf (writeElem s c x e g a v) :=
  wf_testCounts (wf_foldl h (fun _ _ h => wf_writePlace h))

theorem wf_writes {l : List (Nat × Byte)} {m : Memory} (hm : Memory.wf m = true) : Memory.wf (l.foldl (fun m e => m.write e.1
    e.2) m) = true := by
  induction l generalizing m with
  | nil => exact hm
  | cons e l ih => exact ih (Memory.wf_write _ _ _ hm)

theorem wf_putUnits {x v} (h : MemoriesWf s) : MemoriesWf (putUnits s x v) :=
  wf_others (wf_setGmeta (wf_setSlice h (wf_writes (swf_filter _ _ _ h.1))) (wf_writes (swf_filter _ _ _ h.2.1)))

theorem wf_clearUnits {x} (h : MemoriesWf s) : MemoriesWf (clearUnits s x) := h

theorem wf_withUnits {c f} (h : MemoriesWf s) (hf : ∀ s, MemoriesWf s → MemoriesWf (f s)) : MemoriesWf (withUnits s c f) := by
  unfold withUnits
  split
  · exact h
  · split
    exacts [hf _ h, wf_updCtx (wf_putUnits (hf _ (wf_putUnits h)))]

theorem wf_cntRdBody {d a g} (h : MemoriesWf s) : BodyWf (cntRdBody d a g s) :=
  bodyWf_ite trivial (bodyWf_ite (wf_interlock h) (bodyWf_ite (wf_interlock h) (bodyWf_ite (wf_interlock h) wf_illegal)))

theorem wf_prfRdBody {d a b} (h : MemoriesWf s) : BodyWf (prfRdBody d a b s) :=
  bodyWf_ite trivial (bodyWf_ite (wf_interlock h) (bodyWf_ite (wf_interlock h) (bodyWf_ite (wf_interlock h) (bodyWf_ite
      (wf_interlock h) wf_illegal))))

theorem wf_trcMarkBody {a i} (h : MemoriesWf s) : BodyWf (trcMarkBody a i s) :=
  wf_withEnv h (fun _ => bodyWf_ite h (bodyWf_ite h h))

theorem wf_traceRun {n} (h : MemoriesWf s) : MemoriesWf (traceRun s n) := by
  unfold traceRun
  split
  · exact h
  · extract_lets s1 c
    split
    · exact h
    · extract_lets v
      clear_value v
      split
      · exact h
      · exact h
      · exact wf_ite h h
      · exact wf_postCtx h

/-! ## Moves of a core and of its gang (R89, R90) -/

theorem wf_runFetched {run n} (hrun : ∀ i s, MemoriesWf s → OutWf (run i s)) (h : MemoriesWf s) : OutWf (runFetched run s n) := by
  unfold runFetched
  extract_lets s1
  have h1 : MemoriesWf s1 := h
  split
  · exact outWf_next h1
  · split
    · exact outWf_next (wf_takeTrap h1)
    · split
      exacts [hrun _ _ h1, outWf_next (wf_takeTrap h1)]

theorem wf_noteAhead {n} (h : MemoriesWf s) : MemoriesWf (noteAhead s n) := by
  unfold noteAhead
  split
  · exact h
  · split <;> exact h

theorem wf_noteTried {t n} (ht : MemoriesWf t) : MemoriesWf (noteTried s t n) := by
  unfold noteTried
  split
  exacts [wf_foldl ht (fun _ _ h => wf_noteAhead h), ht]

theorem wf_runMembers {run l} (hrun : ∀ i s, MemoriesWf s → OutWf (run i s)) (h : MemoriesWf s) : OutWf (runMembers run l s) := by
  induction l generalizing s with
  | nil => exact outWf_next h
  | cons n rest ih =>
    unfold runMembers
    refine outWf_ite (ih h) ?_
    split
    next e => exact ih (wf_noteTried (outWf_of_eq e (wf_runFetched hrun h)))
    · exact wf_runFetched hrun h

theorem wf_closeFused {n} (h : MemoriesWf s) : MemoriesWf (closeFused s n) := by
  unfold closeFused
  split
  exacts [h, wf_ite (wf_ite h (wf_dissolve h)) h]

theorem wf_holdPeers {run ns} (h : MemoriesWf s) : MemoriesWf (holdPeers run s ns) :=
  wf_foldl h (fun t n h => by
    split
    · exact h
    · exact wf_ite h h)

theorem wf_runJoined {run n ms} (hrun : ∀ i s, MemoriesWf s → OutWf (run i s)) (h : MemoriesWf s) : OutWf (runJoined run s n ms)
    := by
  unfold runJoined
  split
  next e1 =>
    have h1 := outWf_of_eq e1 (wf_runMembers hrun h)
    split
    next e2 => exact outWf_next (wf_closeFused (outWf_of_eq e2 (wf_runMembers hrun h1)))
    · exact wf_runMembers hrun h1
  · exact wf_runMembers hrun h

theorem wf_runGang {run n g} (hrun : ∀ i s, MemoriesWf s → OutWf (run i s)) (h : MemoriesWf s) : OutWf (runGang run s n g) :=
  outWf_ite (outWf_next (wf_holdPeers h)) (wf_runJoined hrun h)

theorem wf_handlerEntry {n} (h : MemoriesWf s) : MemoriesWf (handlerEntry s n) := by
  unfold handlerEntry
  split
  exacts [h, wf_takeTrap h]

theorem wf_boundary {n} (h : MemoriesWf s) : GoesWf some (boundary s n) := by
  unfold boundary
  extract_lets c
  refine goesWf_ite (goesWf_ne (fun _ => nofun)) (goesWf_ite (goesWf_some (wf_takeTrap h)) (goesWf_ite (goesWf_ne (fun _ =>
      nofun)) ?_))
  split
  · exact goesWf_some (wf_takeTrap (wf_dropFault h))
  · exact goesWf_ite (goesWf_some (wf_deliverInt h)) (goesWf_ne (fun _ => nofun))

theorem wf_coreMove {run n} (hrun : ∀ i s, MemoriesWf s → OutWf (run i s)) (h : MemoriesWf s) : OutWf (coreMove run s n) := by
  unfold coreMove
  extract_lets c s1
  have h1 : MemoriesWf s1 := h
  refine outWf_ite (outWf_next (wf_handlerEntry h1)) (outWf_ite (outWf_next (wf_startTask h1)) (outWf_ite (outWf_next h1) ?_))
  split
  next e => exact outWf_next (wf_boundary h1 _ e)
  · split
    · split
      · exact outWf_next (wf_handlerEntry h1)
      · split
        next e =>
          obtain ⟨m, -, hm⟩ := List.exists_of_findSome?_eq_some e
          split at hm
          · exact outWf_next (wf_boundary h1 _ hm)
          · cases hm
        · exact wf_runGang hrun h1
    · exact wf_runFetched hrun h1

theorem wf_coreAgain {run n} (hrun : ∀ i s, MemoriesWf s → OutWf (run i s)) (h : MemoriesWf s) : OutWf (coreAgain run s n) := by
  unfold coreAgain
  extract_lets c s1
  have h1 : MemoriesWf s1 := h
  refine outWf_ite (outWf_next (wf_handlerEntry h1)) (outWf_ite (outWf_next h1) ?_)
  split
  next e => exact outWf_next (wf_boundary h1 _ e)
  · split
    · exact wf_runJoined hrun h1
    · exact wf_runFetched hrun h1

/-! ## Records, windows and layouts (R105, R124 to R128) -/

theorem wf_lrecRdBody {d w} (h : MemoriesWf s) : BodyWf (lrecRdBody d w s) := by
  unfold lrecRdBody
  split
  · exact wf_illegal
  · split
    exacts [wf_interlock h, h]

theorem wf_poolRequest {c n ws} (h : MemoriesWf s) : MemoriesWf (poolRequest s c n ws) := wf_updCtx (wf_pend h)

theorem wf_patchRecord {c x i w v} (h : MemoriesWf s) : MemoriesWf (patchRecord s c x i w v) := wf_setRecWord (wf_setRecWord h)

theorem wf_lrecPatchBody {a b w} (h : MemoriesWf s) : BodyWf (lrecPatchBody a b w s) := by
  unfold lrecPatchBody
  extract_lets k i
  split
  exacts [h, bodyWf_ite trivial (bodyWf_ite (wf_openRec h) (bodyWf_ite (wf_openRec h) (bodyWf_ite (bodyWf_ite (wf_openRec h)
      (wf_openRec h)) (wf_poolRequest (wf_patchRecord h)))))]

theorem wf_lrecArmBody {d a b} (h : MemoriesWf s) : BodyWf (lrecArmBody d a b s) := by
  unfold lrecArmBody
  extract_lets k i
  split
  · exact h
  · refine bodyWf_ite (wf_poolRequest h) (bodyWf_ite (wf_openRec h) ?_)
    split
    next e => exact wf_poolRequest (wf_of_fst e (wf_armRecord h))

theorem wf_poolAnswer {c} (h : MemoriesWf s) : MemoriesWf (poolAnswer s c) := by
  unfold poolAnswer
  split
  · exact h
  · split
    exacts [h, wf_others h]

theorem wf_tqReqBody {d a} (h : MemoriesWf s) : BodyWf (tqReqBody d a s) := by
  unfold tqReqBody
  extract_lets k m
  split
  · exact wf_illegal
  · split
    exacts [h, wf_updRun (wf_pend h)]

theorem wf_grpRdBody {d a sel} (h : MemoriesWf s) : BodyWf (grpRdBody d a sel s) := by
  unfold grpRdBody
  extract_lets k g
  split
  exacts [h, bodyWf_ite wf_illegal (wf_interlock h)]

theorem wf_guarded {g go} (h : MemoriesWf s) (hgo : BodyWf go) : BodyWf (guarded s g go) := by
  unfold guarded
  split
  exacts [hgo, trivial, h]

/-! ## What an access leaves: stamps, full bits, versions, poison, open rows -/

theorem wf_stampLines {lines write st} (h : MemoriesWf s) : MemoriesWf (stampLines s lines write st) :=
  wf_foldl h (fun _ _ h => h)

theorem wf_stampAccess {E e g locs write} (h : MemoriesWf s) : MemoriesWf (stampAccess s E e g locs write) := by
  unfold stampAccess
  split
  · split
    exacts [wf_stampLines h, h]
  · exact h

theorem wf_setFull {gs b} (h : MemoriesWf s) : MemoriesWf (setFull s gs b) :=
  wf_foldl h (fun _ _ h => wf_setGmeta h (Memory.wf_write _ _ _ h.2.1))

theorem wf_setVersion {gs v} (h : MemoriesWf s) : MemoriesWf (setVersion s gs v) :=
  wf_foldl h (fun _ _ h => wf_setGmeta h (Memory.wf_write _ _ _ h.2.1))

theorem wf_clearPoison {e g locs} (h : MemoriesWf s) : MemoriesWf (clearPoison s e g locs) := by
  unfold clearPoison
  split
  exacts [wf_ite h h, h]

theorem wf_openRow {c p} (h : MemoriesWf s) : MemoriesWf (openRow s c p) := by
  unfold openRow
  split <;> exact h

theorem wf_openRows {c ps} (h : MemoriesWf s) : MemoriesWf (openRows s c ps) := wf_foldl h (fun _ _ h => wf_openRow h)

theorem wf_sweepRows {ks} (h : MemoriesWf s) : MemoriesWf (sweepRows s ks) := wf_foldl h (fun _ _ h => h)

theorem wf_noteReply {n path g} (h : MemoriesWf s) : MemoriesWf (noteReply s n path g) := wf_others h

theorem wf_noteHome {n g} (h : MemoriesWf s) : MemoriesWf (noteHome s n g) := by
  unfold noteHome
  split
  exacts [wf_ite h (wf_noteReply h), h]

/-! ## Commands of the engines (R223 to R236) -/

theorem wf_addLock {c n seq r} (h : MemoriesWf s) : MemoriesWf (addLock s c n seq r) := by
  unfold addLock
  split
  exacts [h, wf_updCtx h]

theorem wf_finishCmd {n k w} (h : MemoriesWf s) : MemoriesWf (finishCmd s n k w) := wf_others (wf_releaseLocks h)

theorem wf_joinAll {cl} (h : MemoriesWf s) : MemoriesWf (joinAll s cl) := wf_foldl h (fun _ _ h => h)

theorem wf_launched {E kind d l} (h : MemoriesWf s) : BodyWf (launched s E kind d l) := wf_pend h

theorem wf_exchangeWait {E d l} (h : MemoriesWf s) : BodyWf (exchangeWait s E d l) := by
  unfold exchangeWait
  extract_lets cl
  split
  exacts [h, bodyWf_ite (wf_launched (wf_finishCmd h)) (bodyWf_ite (wf_launched (wf_joinAll h)) h)]

theorem wf_register {E k rs} (h : MemoriesWf s) : MemoriesWf (register s E k rs) :=
  wf_others (wf_foldl h (fun _ _ h => wf_addLock h))

theorem wf_launchBody {kind d l} (h : MemoriesWf s) : BodyWf (launchBody kind d l s) := by
  refine wf_withEnv h (fun E => bodyWf_ite (wf_launched h) (bodyWf_ite (wf_exchangeWait h) ?_))
  extract_lets k rs
  split
  · trivial
  · split
    · exact bodyWf_ite (wf_launched (wf_finishCmd h)) h
    · split
      · trivial
      · split
        · exact bodyWf_ite trivial h
        · exact bodyWf_ite (bodyWf_ite (wf_exchangeWait (wf_register h)) (wf_launched (wf_register h))) h

theorem wf_engWBody {a g e} (h : MemoriesWf s) : BodyWf (engWBody a g e s) := wf_longRes h

theorem wf_engRBody {d g e l} (h : MemoriesWf s) : BodyWf (engRBody d g e l s) :=
  wf_withEnv h (fun _ => bodyWf_ite (bodyWf_ite trivial (wf_longRes h)) (wf_longRes h))

theorem wf_engWaitBody {d a l} (h : MemoriesWf s) : BodyWf (engWaitBody d a l s) := by
  unfold engWaitBody
  extract_lets c t
  split
  · split
    · split
      exacts [wf_dropFault h, wf_longRes h]
    · exact h
  · split
    · exact wf_longRes h
    · split
      · exact h
      · split
        exacts [wf_dropFault h, wf_longRes h]

theorem wf_engPollBody {d a l} (h : MemoriesWf s) : BodyWf (engPollBody d a l s) :=
  wf_withEnv h (fun _ => bodyWf_ite trivial (bodyWf_ite (wf_longRes h) (bodyWf_ite (wf_longRes h) (wf_longRes h))))

theorem wf_poisonPlace {a} (h : MemoriesWf s) : MemoriesWf (poisonPlace s a) := by
  unfold poisonPlace
  split <;> exact h

theorem wf_noteRead {n p} (h : MemoriesWf s) : MemoriesWf (noteRead s n p) := by
  unfold noteRead
  split
  · exact wf_ite h (wf_noteReply h)
  · exact wf_ite h (wf_noteReply h)
  · exact wf_ite h (wf_noteReply h)
  · exact wf_noteReply h
  · exact h

theorem wf_noteIdx {x n k i} (h : MemoriesWf s) : MemoriesWf (noteIdx s x n k i) := by
  unfold noteIdx
  split
  · split
    · exact wf_openRows (wf_noteRead h)
    · exact h
  · exact h

theorem wf_cleanTag {g} (h : MemoriesWf s) : MemoriesWf (cleanTag s g) := by
  unfold cleanTag
  split <;> exact h

theorem wf_putElem {x n k i} (h : MemoriesWf s) : MemoriesWf (putElem s x n k i) := by
  unfold putElem
  split
  · exact h
  · extract_lets e g a s1 s2 clean
    have h2 : MemoriesWf s2 := wf_openRows (wf_writeElem (wf_openRows (wf_noteRead h)))
    exact wf_ite (wf_foldl h2 (fun _ _ h => wf_poisonPlace h)) (wf_ite h2 (wf_foldl h2 (fun _ _ h => wf_cleanTag h)))

theorem wf_walkStep {n k} (h : MemoriesWf s) : GoesWf .go (walkStep s n k) := by
  unfold walkStep
  split
  · exact goesWf_ne (fun _ => nofun)
  · refine goesWf_ite (goesWf_ne (fun _ => nofun)) (goesWf_ite (goesWf_ne (fun _ => nofun)) ?_)
    extract_lets i e at_ core grp after fault news src k1 s1 s2
    clear_value fault
    split
    · exact goesWf_ne (fun _ => nofun)
    · refine goesWf_ite (goesWf_ne (fun _ => nofun)) (goesWf_ite (goesWf_ne (fun _ => nofun)) ?_)
      have h1 : MemoriesWf s1 := wf_foldl (wf_noteIdx h) (fun _ _ h => wf_putElem h)
      rintro _ ⟨⟩
      exact wf_ite (wf_setFull h1) (wf_ite (wf_setVersion h1) h1)

theorem wf_walkRun {m n q} (h : MemoriesWf s) : MemoriesWf (walkRun m s n q) := by
  induction m generalizing s with
  | zero => exact h
  | succ m ih =>
    unfold walkRun
    split
    · exact h
    · split
      next e => exact ih (wf_walkStep h _ e)
      · exact h

theorem wf_engineMove {n q m} (h : MemoriesWf s) : MemoriesWf (engineMove s n q m) := wf_walkRun h

theorem wf_tryFinish {n q} (h : MemoriesWf s) : MemoriesWf (tryFinish s n q) := by
  unfold tryFinish
  split
  · exact h
  · split
    exacts [wf_finishCmd h, h]

theorem wf_completeCmd {kind n q} (h : MemoriesWf s) : MemoriesWf (completeCmd kind s n q) := by
  unfold completeCmd
  split
  exacts [h, wf_ite (wf_tryFinish (wf_walkRun h)) h]

theorem wf_pageFault {n q} (h : MemoriesWf s) : MemoriesWf (pageFault s n q) := by
  unfold pageFault
  split
  · exact h
  · split
    exacts [wf_ite (wf_finishCmd (wf_postCtx h)) (wf_updCtx (wf_others (wf_postCtx h))), h]

theorem wf_sendBlock {t x nk nm kk km} (h : MemoriesWf s) : MemoriesWf (sendBlock t x s nk nm kk km) :=
  wf_foldl h (fun _ _ h => wf_ite (wf_foldl (wf_writeElem h) (fun _ _ h => wf_poisonPlace h)) (wf_writeElem h))

theorem wf_exchangeComplete {cl} (h : MemoriesWf s) : MemoriesWf (exchangeComplete s cl) := by
  unfold exchangeComplete
  extract_lets ks
  clear_value ks
  split
  · split
    · exact h
    · refine wf_ite h (wf_ite (wf_foldl h (fun _ _ h => wf_finishCmd h)) ?_)
      exact wf_foldl (wf_foldl (wf_foldl h (fun _ _ h => wf_clearPoison h))
        (fun _ _ h => wf_foldl h (fun _ _ h => wf_sendBlock h))) (fun _ _ h => wf_finishCmd h)
  · exact h

/-! ## Accesses (R165 to R183) -/

theorem wf_metaEffect {k grans v} (h : MemoriesWf s) : MemoriesWf (metaEffect s k grans v) := by
  unfold metaEffect
  split
  exacts [h, h, h, h, wf_setFull h, wf_setFull h, wf_setVersion h]

theorem wf_accEffect {E k vec e g d locs v l} (h : MemoriesWf s) : BodyWf (accEffect s E k vec e g d locs v l) := by
  have hstamp {w : Bool} : MemoriesWf (if k.checks (remoteHome E.n g) e.tkt then stampAccess (noteHome s E.n g) E e g locs w
      else noteHome s E.n g) := wf_ite (wf_stampAccess (wf_noteHome h)) (wf_noteHome h)
  exact bodyWf_ite (wf_longRes (wf_openRows (wf_metaEffect hstamp)))
    (wf_longRes (wf_clearPoison (wf_foldl (wf_metaEffect hstamp) (fun _ _ h => wf_writeElem h))))

theorem wf_accBody {k vec d a b g l} (h : MemoriesWf s) : BodyWf (accBody k vec d a b g l s) := by
  refine wf_withEnv h (fun E => ?_)
  extract_lets e css
  split
  · trivial
  · exact wf_guarded h (wf_accEffect h)

theorem wf_layRdBody {d w g l} (h : MemoriesWf s) : BodyWf (layRdBody d w g l s) := wf_withEnv h (fun _ => wf_longRes h)

theorem wf_layWrBody {a w g l} (h : MemoriesWf s) : BodyWf (layWrBody a w g l s) := wf_longRes h

theorem wf_laySelBody {d a b g l} (h : MemoriesWf s) : BodyWf (laySelBody d a b g l s) :=
  wf_withEnv h (fun _ => bodyWf_ite trivial (wf_longRes h))

theorem wf_reclaimBody {a g l} (h : MemoriesWf s) : BodyWf (reclaimBody a g l s) := by
  refine wf_withEnv h (fun E => ?_)
  extract_lets e f
  split
  · trivial
  · split
    · trivial
    · refine bodyWf_ite trivial (bodyWf_ite h ?_)
      split
      · trivial
      · exact h
      · exact wf_longRes (wf_updCtx h)

/-! ## Links and messages (R319 to R336) -/

theorem wf_noteAccepted {c p} (h : MemoriesWf s) : MemoriesWf (noteAccepted s c p) := wf_updCtx h

theorem wf_noteSent {c n src dst} (h : MemoriesWf s) : MemoriesWf (noteSent s c n src dst) := wf_others (wf_updCtx h)

theorem wf_updLink {l f} (h : MemoriesWf s) : MemoriesWf (updLink s l f) := h

theorem wf_putFlit {l pkt ident} (h : MemoriesWf s) : MemoriesWf (putFlit s l pkt ident) := wf_updLink h

theorem wf_sendFlit {l c p} (h : MemoriesWf s) : MemoriesWf (sendFlit s l c p) := wf_putFlit h

theorem wf_transmit {c p} (h : MemoriesWf s) : MemoriesWf (transmit s c p) := by
  unfold transmit
  split
  · exact h
  · split
    · exact h
    · split
      exacts [wf_sendFlit h, h]

theorem wf_takeSpare {l dir} (h : MemoriesWf s) : MemoriesWf (takeSpare s l dir) := wf_updLink h

theorem wf_reroute (h : MemoriesWf s) : MemoriesWf (reroute s) := h

theorem wf_linkOut {l} (h : MemoriesWf s) : MemoriesWf (linkOut s l) :=
  wf_foldl (wf_reroute (wf_updLink h)) (fun _ _ h => by
    split
    · exact wf_transmit h
    · exact h)

theorem wf_replaceLane {e} (h : MemoriesWf s) : MemoriesWf (replaceLane s e) := wf_ite h h

theorem wf_replaceLanes (h : MemoriesWf s) : MemoriesWf (replaceLanes s) :=
  wf_others (wf_foldl h (fun _ _ h => wf_replaceLane h))

theorem wf_receiveFlit {l f} (h : MemoriesWf s) : MemoriesWf (receiveFlit s l f) := by
  unfold receiveFlit
  extract_lets k
  split
  · exact h
  · split
    · exact wf_updLink h
    · split
      exacts [wf_ite (wf_transmit (wf_updLink h)) (wf_updLink h), wf_updLink h]

theorem wf_resendFrom {l q} (h : MemoriesWf s) : MemoriesWf (resendFrom s l q) := wf_updLink h

theorem wf_jobCommandOr {code f} (h : MemoriesWf s) (hf : ∀ s, MemoriesWf s → ∀ c x arg, MemoriesWf (f s c x arg).1) :
    OutWf (jobCommandOr s code f) := by
  refine wf_serveOr h (fun s h _ arg => ?_)
  dsimp only
  split
  · exact h
  · split
    · exact h
    · exact hf s h _ _ arg

theorem wf_jobCommand {code f} (h : MemoriesWf s) (hf : ∀ s, MemoriesWf s → ∀ c x arg, MemoriesWf (f s c x arg).1) :
    OutWf (jobCommand s code f) :=
  wf_jobCommandOr h hf

theorem wf_sendIdents {j} (h : MemoriesWf s) : MemoriesWf (sendIdents s j) := wf_foldl h (fun _ _ h => wf_ite (wf_putFlit h) h)

theorem wf_rankPriv {r} : BodyWf (rankPriv r) := trivial

theorem wf_noteMessage {E r g} (h : MemoriesWf s) : MemoriesWf (noteMessage s E r g) := wf_ite (wf_noteReply h) (wf_noteReply h)

theorem wf_refusedSend {E r} (h : MemoriesWf s) : BodyWf (refusedSend s E r) := by
  unfold refusedSend
  split
  exacts [bodyWf_ite trivial h, h]

theorem wf_acceptedSend {E r g l} (h : MemoriesWf s) : BodyWf (acceptedSend s E r g l) :=
  wf_longRes (wf_others (wf_noteSent (wf_noteMessage h)))

theorem wf_holdMessage {c n p} (h : MemoriesWf s) : MemoriesWf (holdMessage s c n p) := wf_others (wf_ite h h)

theorem wf_storeMessage {c p} (h : MemoriesWf s) : GoesWf .taken (storeMessage s c p) := by
  unfold storeMessage
  split
  · exact goesWf_ne (fun _ => nofun)
  · refine goesWf_ite (goesWf_ne (fun _ => nofun)) (goesWf_ite ?_ (goesWf_ite ?_ (goesWf_ne (fun _ => nofun))))
    · rintro _ ⟨⟩
      exact h
    · rintro _ ⟨⟩
      exact wf_noteAccepted h

theorem wf_localSend {E p l} (h : MemoriesWf s) : BodyWf (localSend s E p l) := by
  unfold localSend
  refine bodyWf_ite h ?_
  split
  next e => exact wf_acceptedSend (wf_storeMessage h _ e)
  · exact wf_refusedSend h
  · exact wf_holdMessage h

theorem wf_msgSendBody {d a l} (h : MemoriesWf s) : BodyWf (msgSendBody d a l s) := by
  refine wf_withEnv h (fun E => ?_)
  extract_lets r src p here
  refine bodyWf_ite trivial ?_
  split
  · exact wf_ite h (wf_transmit h)
  · exact wf_acceptedSend h
  · exact bodyWf_ite (wf_localSend h) h
  · exact bodyWf_ite (wf_localSend h) (wf_refusedSend h)
  · exact bodyWf_ite (wf_localSend h) h

theorem wf_msgRecvBody {d a b l} (h : MemoriesWf s) : BodyWf (msgRecvBody d a b l s) := by
  refine wf_withEnv h (fun E => bodyWf_ite trivial (bodyWf_ite trivial ?_))
  split
  · exact h
  · split
    · exact h
    · exact wf_longRes h

theorem wf_replyArrival {c p q a g} (h : MemoriesWf s) : MemoriesWf (replyArrival s c p q a g) := by
  unfold replyArrival
  split
  exacts [h, wf_ite h h]

theorem wf_answerMessage {c p a} (h : MemoriesWf s) : MemoriesWf (answerMessage s c p a) := by
  unfold answerMessage
  split
  · exact h
  · extract_lets back
    split
    exacts [wf_transmit h, wf_replyArrival h]

theorem wf_messageArrival {i} (h : MemoriesWf s) : MemoriesWf (messageArrival s i) := by
  unfold messageArrival
  split
  · exact h
  · split
    · refine wf_ite h ?_
      split
      next e =>
        have h1 := wf_storeMessage h _ e
        exact wf_answerMessage (s := dropPacket _ i) h1
      · exact wf_answerMessage h
      · exact wf_answerMessage (wf_ite h h)
    · exact wf_replyArrival h
    · exact h

theorem wf_msgPushBody {d a b l} (h : MemoriesWf s) : BodyWf (msgPushBody d a b l s) := by
  refine wf_withEnv h (fun E => bodyWf_ite trivial ?_)
  split
  · exact h
  · exact bodyWf_ite h (wf_longRes (wf_noteSent (n := E.n) (wf_transmit h)))

theorem wf_msgSretBody {d a b l} (h : MemoriesWf s) : BodyWf (msgSretBody d a b l s) := by
  refine wf_withEnv h (fun E => ?_)
  extract_lets e
  split
  · trivial
  · exact bodyWf_ite trivial (bodyWf_ite h (wf_longRes (wf_noteSent (wf_transmit (wf_setFull h)))))

theorem wf_writePush {c n x e i v} (h : MemoriesWf s) : MemoriesWf (writePush s c n x e i v) :=
  wf_clearPoison (wf_setFull (wf_foldl h (fun _ _ h => wf_writeElem h)))

theorem wf_pushApply {i} (h : MemoriesWf s) : MemoriesWf (pushApply s i) := by
  unfold pushApply
  split
  · exact h
  · split
    · extract_lets n
      split
      · exact h
      · split
        · exact h
        · split
          exacts [h, wf_ite (wf_writePush (wf_others (wf_noteAccepted h))) (wf_updCtx (wf_transmit (wf_others (wf_noteAccepted
              h))))]
    · exact h

theorem wf_slotReturn {i} (h : MemoriesWf s) : MemoriesWf (slotReturn s i) := by
  unfold slotReturn
  split
  · exact h
  · split
    · exact h
    · extract_lets n
      split
      · exact h
      · split
        exacts [wf_ite h (wf_others (wf_others (wf_noteAccepted h))), wf_ite h (wf_ite (wf_others (wf_others (wf_others
            (wf_noteAccepted h)))) (wf_others (wf_others (wf_noteAccepted h)))), h]

theorem wf_settlePacket {i} (h : MemoriesWf s) : MemoriesWf (settlePacket s i) := by
  unfold settlePacket
  split
  · exact h
  · split
    exacts [wf_messageArrival h, wf_messageArrival h, wf_pushApply h, wf_slotReturn h, wf_slotReturn h]

theorem wf_settlePackets {f k i} (h : MemoriesWf s) : MemoriesWf (settlePackets f k s i) := by
  induction k generalizing s i with
  | zero => exact h
  | succ k ih =>
    unfold settlePackets
    split
    · exact h
    · exact ih (wf_ite (wf_settlePacket h) h)

theorem wf_rankRdBody {d a k l} (h : MemoriesWf s) : BodyWf (rankRdBody d a k l s) :=
  wf_withEnv h (fun _ => bodyWf_ite wf_illegal (bodyWf_ite (wf_longRes h) (bodyWf_ite (wf_longRes h) (bodyWf_ite (wf_longRes h)
      (bodyWf_ite (wf_longRes h) wf_rankPriv)))))

theorem wf_setRank {c n w} (h : MemoriesWf s) : MemoriesWf (setRank s c n w) := wf_updCtx h

theorem wf_moveEntries {n m r} (h : MemoriesWf s) : MemoriesWf (moveEntries s n m r) := wf_ite h (wf_others h)

theorem wf_deliverHeld {c r} (h : MemoriesWf s) : MemoriesWf (deliverHeld s c r) := wf_others (wf_settlePackets h)

theorem wf_rankMoveBody {d a b l} (h : MemoriesWf s) : BodyWf (rankMoveBody d a b l s) :=
  wf_withEnv h (fun _ => bodyWf_ite wf_rankPriv (bodyWf_ite wf_rankPriv (bodyWf_ite (wf_setRank h) (bodyWf_ite (wf_moveEntries
      (wf_setRank h)) (wf_longRes (wf_deliverHeld (wf_setRank (wf_moveEntries (wf_setRank h)))))))))

/-! ## Vectors, atomics and tickets (R184 to R206, R286 to R296) -/

theorem wf_vecDone {kind l r} (h : MemoriesWf s) : BodyWf (vecDone kind l r s) := by
  unfold vecDone
  extract_lets c
  split
  exacts [trivial, bodyWf_ite (wf_others (wf_pend h)) (wf_pend h)]

theorem wf_vecBody {m a b f} (h : MemoriesWf s) : BodyWf (vecBody m a b f s) := wf_vecDone h

theorem wf_vlBody {l f} (h : MemoriesWf s) : BodyWf (vlBody l f s) := wf_vecDone h

theorem wf_withSpot {E f g a go} (hgo : ∀ a, BodyWf (go a)) : BodyWf (withSpot E f g a go) := by
  unfold withSpot
  split
  exacts [trivial, hgo _]

theorem wf_amoBody {f fmts post d a g l} (h : MemoriesWf s) : BodyWf (amoBody f fmts post d a g l s) :=
  wf_withEnv h (fun _ => wf_withSpot (fun _ => wf_guarded h (wf_longRes (wf_writeAt (wf_ite (wf_stampAccess (wf_noteHome h))
      (wf_noteHome h))))))

theorem wf_applyTicket {a} (h : MemoriesWf s) : MemoriesWf (applyTicket s a) := wf_writeAt h

theorem wf_advance {k home gran n e} (h : MemoriesWf s) : MemoriesWf (advance k s home gran n e) := by
  induction k generalizing s e with
  | zero => exact h
  | succ k ih =>
    unfold advance
    extract_lets key e1 full e2 s1 s2
    have h1 : MemoriesWf s1 := wf_ite (wf_setGmeta h (Memory.wf_write _ _ _ h.2.1)) h
    have h2 : MemoriesWf s2 := by
      unfold s2
      split <;> exact h1
    split
    · exact ih (wf_applyTicket h2)
    · exact wf_ite h2 h2

theorem wf_arrive {a} (h : MemoriesWf s) : GoesWf .taken (arrive s a) := by
  unfold arrive
  refine goesWf_ite (goesWf_ite (goesWf_ne (fun _ => nofun)) (goesWf_ne (fun _ => nofun)))
    (goesWf_ite (goesWf_ite ?_ (goesWf_ne (fun _ => nofun))) (goesWf_ite ?_ (goesWf_ne (fun _ => nofun))))
  · rintro _ ⟨⟩
    exact wf_advance (wf_applyTicket (wf_ite h h))
  · rintro _ ⟨⟩
    exact h

theorem wf_tamoBody {op fmts d a g l} (h : MemoriesWf s) : BodyWf (tamoBody op fmts d a g l s) := by
  refine wf_withEnv h (fun E => wf_withSpot (fun p => ?_))
  extract_lets tick q i arr gs counts accept
  have haccept : ∀ s1, MemoriesWf s1 → BodyWf (accept s1) := fun s1 h => by
    refine wf_pend (s := match ticketPhase E p with | some _ => _ | none => _) ?_
    split
    · exact wf_stampLines (wf_noteHome h)
    · exact wf_noteHome h
  refine bodyWf_ite trivial (wf_guarded h ?_)
  split
  · trivial
  · exact bodyWf_ite trivial h
  · exact haccept s h
  next e => exact haccept _ (wf_arrive h _ e)

theorem wf_replayArrival {a} (h : MemoriesWf s) : MemoriesWf (replayArrival s a) := by
  unfold replayArrival
  split
  · split
    next e => exact wf_arrive h _ e
    · exact h
  · exact h

theorem wf_tfenceBody {g a} (h : MemoriesWf s) : BodyWf (tfenceBody g a s) := by
  refine wf_withEnv h (fun E => ?_)
  extract_lets e
  split
  · trivial
  · split
    · exact wf_longRes h
    · exact bodyWf_ite trivial h

/-! ## Groups, events, windows and announced operations (R251, R301 to R312) -/

theorem wf_withGroup {g f} (h : MemoriesWf s) (hf : ∀ a b, BodyWf (f a b)) : BodyWf (withGroup s g f) :=
  wf_withEnv h (fun _ => bodyWf_ite (hf _ _) trivial)

theorem wf_countArrive {E g} (h : MemoriesWf s) : MemoriesWf (countArrive s E g) := wf_updCtx h

theorem wf_arriveOn {E g go} (h : MemoriesWf s) (hgo : ∀ s, MemoriesWf s → BodyWf (go s)) : BodyWf (arriveOn s E g go) := by
  unfold arriveOn
  split
  · exact h
  · split
    exacts [wf_dropFault h, bodyWf_ite (hgo _ (wf_countArrive h)) h]

theorem wf_barArrBody {d g l} (h : MemoriesWf s) : BodyWf (barArrBody d g l s) :=
  wf_withGroup h (fun _ _ => wf_arriveOn h (fun _ h => wf_longRes h))

theorem wf_barWaitBody {a g} (h : MemoriesWf s) : BodyWf (barWaitBody a g s) :=
  wf_withGroup h (fun _ _ => bodyWf_ite (wf_longRes h) h)

theorem wf_syncWait {E d k x} (h : MemoriesWf s) : BodyWf (syncWait s E d k x) := bodyWf_ite (wf_longRes h) h

theorem wf_barSyncBody {d g} (h : MemoriesWf s) : BodyWf (barSyncBody d g s) :=
  wf_withGroup h (fun E k => bodyWf_ite (wf_syncWait h) (wf_arriveOn h (fun s1 h => by
    extract_lets s2
    split
    · exact wf_syncWait (s := s2) h
    · exact h)))

theorem wf_barPhaseBody {d g l} (h : MemoriesWf s) : BodyWf (barPhaseBody d g l s) := wf_withGroup h (fun _ _ => wf_longRes h)

theorem wf_sweepRegion {e core st} (h : MemoriesWf s) : MemoriesWf (sweepRegion s e core st) := wf_foldl h (fun _ _ h => h)

theorem wf_sweepCore {E g st} (h : MemoriesWf s) : MemoriesWf (sweepCore s E g st) :=
  wf_foldl h (fun _ _ h => by
    extract_lets e
    split
    · split
      · exact wf_sweepRegion h
      · exact h
    · exact h)

theorem wf_sweep {c x g st} (h : MemoriesWf s) : MemoriesWf (sweep s c x g st) :=
  wf_foldl h (fun _ _ h => wf_foldl h (fun _ _ h => wf_sweepCore h))

theorem wf_releaseBarrier {c g} (h : MemoriesWf s) : MemoriesWf (releaseBarrier s c g) := by
  unfold releaseBarrier
  split
  · exact h
  · split
    exacts [h, wf_ite (wf_updCtx (wf_ite (wf_sweep h) h)) h]

theorem wf_evSigBody {a b l} (h : MemoriesWf s) : BodyWf (evSigBody a b l s) :=
  wf_withEnv h (fun _ => bodyWf_ite trivial (bodyWf_ite (wf_longRes (wf_others h)) (bodyWf_ite (wf_longRes (wf_others h)) h)))

theorem wf_evWaitBody {a} (h : MemoriesWf s) : BodyWf (evWaitBody a s) := wf_withEnv h (fun _ => bodyWf_ite (wf_longRes h) h)

theorem wf_landSignal {j i} (h : MemoriesWf s) : MemoriesWf (landSignal s j i) := by
  unfold landSignal
  extract_lets k halted
  split
  exacts [h, wf_ite h (wf_foldl h (fun _ _ h => h))]

theorem wf_waitCntBody {a b g} (h : MemoriesWf s) : BodyWf (waitCntBody a b g s) := by
  refine wf_withEnv h (fun E => wf_withSpot (fun p => ?_))
  extract_lets n
  split
  · split
    · exact wf_pend h
    · trivial
    · exact h
  · exact bodyWf_ite (wf_longRes h) (wf_guarded h (bodyWf_ite h (bodyWf_ite (wf_longRes h) h)))

theorem wf_countAll {x u w} (h : MemoriesWf s) : MemoriesWf (countAll s x u w) :=
  wf_foldl h (fun _ _ h => by split <;> exact h)

theorem wf_mtxLockBody {a g} (h : MemoriesWf s) : BodyWf (mtxLockBody a g s) :=
  wf_withEnv h (fun _ => wf_withSpot (fun _ => wf_guarded h (bodyWf_ite trivial (bodyWf_ite trivial (bodyWf_ite (wf_longRes
      (wf_others (wf_others (wf_writeAt h)))) (bodyWf_ite h h))))))

theorem wf_mtxUnlockBody {a g l} (h : MemoriesWf s) : BodyWf (mtxUnlockBody a g l s) :=
  wf_withEnv h (fun _ => wf_withSpot (fun _ => wf_guarded h (bodyWf_ite trivial (bodyWf_ite trivial (wf_longRes (wf_others
      (wf_writeAt h)))))))

theorem wf_setMark {E gs} (h : MemoriesWf s) : MemoriesWf (setMark s E gs) :=
  wf_foldl h (fun s g h => by
    have h1 : MemoriesWf { s with gmeta := s.gmeta.write g (s.gmeta.read g ||| 0x80#8) } := wf_setGmeta h (Memory.wf_write _ _ _
        h.2.1)
    exact wf_ite h1 h1)

theorem wf_annBody {op fmts d a g _l} (h : MemoriesWf s) : BodyWf (annBody op fmts d a g _l s) :=
  wf_withEnv h (fun _ => wf_withSpot (fun _ => wf_guarded h (wf_pend (wf_updRun (wf_setMark (wf_noteHome h))))))

theorem wf_applyAnns {l} (h : MemoriesWf s) : MemoriesWf (applyAnns l s).1 := by
  induction l generalizing s with
  | nil => exact h
  | cons q l ih => exact ih (wf_ite h (wf_writeAt h))

theorem wf_closeWindow {c r} (h : MemoriesWf s) : MemoriesWf (closeWindow s c r) := by
  unfold closeWindow
  split
  · exact h
  · split
    exacts [h, wf_ite (wf_ite (wf_countAll (wf_updRun (wf_applyAnns h))) (wf_updRun (wf_applyAnns h))) h]

theorem wf_fenceBody (h : MemoriesWf s) : BodyWf (fenceBody s) := wf_longRes h

theorem wf_quantumDeadlock {n} (h : MemoriesWf s) : MemoriesWf (quantumDeadlock s n) := by
  unfold quantumDeadlock
  split
  exacts [wf_ite (wf_takeTrap h) h, h]

/-! ## Promises and the strainer (R366 to R387) -/

theorem wf_updPromise {c k j f} (h : MemoriesWf s) : MemoriesWf (updPromise s c k j f) := wf_updOpt h

theorem wf_updRegion {c k we f} (h : MemoriesWf s) : MemoriesWf (updRegion s c k we f) := wf_updOpt h

theorem wf_credit {c who l} (h : MemoriesWf s) : MemoriesWf (credit s c who l) := wf_updCtx h

theorem wf_updReplay {c k r f} (h : MemoriesWf s) : MemoriesWf (updReplay s c k r f) := wf_updOpt h

theorem wf_faultCard {c k r cause info} (h : MemoriesWf s) : MemoriesWf (faultCard s c k r cause info) :=
  wf_ite (wf_others (wf_updReplay h)) (wf_updReplay h)

theorem wf_finishCard {c k r w} (h : MemoriesWf s) : MemoriesWf (finishCard s c k r w) :=
  wf_ite (wf_others (wf_updReplay (wf_releaseLocks h))) (wf_updReplay (wf_releaseLocks h))

theorem wf_endCard {c k r fault ninv} (h : MemoriesWf s) : MemoriesWf (endCard s c k r fault ninv) :=
  wf_ite (wf_faultCard (wf_finishCard h)) (wf_finishCard h)

theorem wf_expireOne {c k j r} (h : MemoriesWf s) : MemoriesWf (expireOne s c k j r) := by
  unfold expireOne
  extract_lets p s2 s3
  have h2 : MemoriesWf s2 := wf_updPromise h
  have h3 : MemoriesWf s3 := wf_credit h2
  split
  exacts [wf_ite (wf_faultCard h3) h3, h3]

theorem wf_closeOne {c k we j} (h : MemoriesWf s) : MemoriesWf (closeOne s c k we j) := wf_updRegion (wf_updPromise h)

theorem wf_strainLoop {retire f c k we} (h : MemoriesWf s) : MemoriesWf (strainLoop retire f s c k we) := by
  induction f generalizing s with
  | zero => exact h
  | succ f ih =>
    unfold strainLoop
    extract_lets o
    refine wf_ite h ?_
    split
    · exact h
    · refine wf_ite h ?_
      split
      · exact ih (wf_closeOne h)
      · exact wf_updRegion h

theorem wf_strain {c k we} (h : MemoriesWf s) : MemoriesWf (strain s c k we) := wf_strainLoop h

theorem wf_put {r : Area} {i v} (h : MemoriesWf s) : MemoriesWf (r.put s i v) := wf_writeAt h

theorem wf_poisonEvent {c r i} (h : MemoriesWf s) : MemoriesWf (poisonEvent s c r i) := wf_postCtx h

theorem wf_putWork {c k we w who bad out i v row} (h : MemoriesWf s) : MemoriesWf (putWork s c k we w who bad out i v row) := by
  unfold putWork
  extract_lets more s1 s2
  have h1 : MemoriesWf s1 := wf_ite h (wf_put h)
  exact wf_updRegion (wf_ite (wf_poisonEvent h1) h1)

theorem wf_workStep {c k we} (h : MemoriesWf s) : GoesWf .go (workStep s c k we) := by
  unfold workStep
  split
  · exact goesWf_ne (fun _ => nofun)
  · extract_lets o r
    split
    · exact goesWf_ne (fun _ => nofun)
    · extract_lets p at_ W G H P T i
      refine goesWf_ite (goesWf_ne (fun _ => nofun)) ?_
      split
      · exact goesWf_ne (fun _ => nofun)
      · refine goesWf_ite (goesWf_ne (fun _ => nofun)) ?_
        rintro _ ⟨⟩
        exact wf_putWork h
      · refine goesWf_ite (goesWf_ne (fun _ => nofun)) (goesWf_ite (goesWf_ne (fun _ => nofun)) (goesWf_ite (goesWf_ne (fun _ =>
          nofun)) ?_))
        rintro _ ⟨⟩
        exact wf_setVersion (wf_putWork h)

theorem wf_endWork {c k we w past} (h : MemoriesWf s) : MemoriesWf (endWork s c k we w past) := by
  unfold endWork
  extract_lets p s1 s2 s3 s4 s5 s6
  have h1 : MemoriesWf s1 := wf_updRegion h
  have h2 : MemoriesWf s2 := wf_ite h1 (wf_closeOne h1)
  have h4 : MemoriesWf s4 := wf_updOpt (wf_ite (wf_credit h2) h2)
  refine wf_strainLoop ?_
  unfold s6
  split
  · exact wf_endCard (wf_updOpt (wf_updPromise h4))
  · exact h4

theorem wf_endPhase {c k we w} (h : MemoriesWf s) : MemoriesWf (endPhase s c k we w) := by
  unfold endPhase
  extract_lets p
  split
  exacts [wf_endWork h, wf_ite (wf_endWork (wf_updRegion (wf_credit h))) (wf_updRegion (wf_credit h))]

theorem wf_workRun {f c k we j} (h : MemoriesWf s) : MemoriesWf (workRun f s c k we j) := by
  induction f generalizing s with
  | zero => exact h
  | succ f ih =>
    unfold workRun
    split
    · exact h
    · refine wf_ite h ?_
      split
      next e => exact ih (wf_workStep h _ e)
      · exact ih (wf_endPhase h)
      · exact wf_endWork h
      · exact h

theorem wf_workMove {c k we n} (h : MemoriesWf s) : MemoriesWf (workMove s c k we n) := by
  unfold workMove
  split
  exacts [h, wf_workRun h]

theorem wf_strainerAction {c k we} (h : MemoriesWf s) : MemoriesWf (strainerAction s c k we) := wf_workMove h

theorem wf_besides {c k q} (h : MemoriesWf s) : MemoriesWf (besides s c k q) := wf_ite h (wf_updPromise h)

theorem wf_settleCard {c k q past} (h : MemoriesWf s) : MemoriesWf (settleCard s c k q past) :=
  wf_strain (wf_updOpt (wf_foldl (wf_ite (wf_credit h) (wf_updRegion (wf_credit h))) (fun _ _ h => wf_expireOne h)))

theorem wf_cardStep {c k q} (h : MemoriesWf s) : GoesWf .go (cardStep s c k q) := by
  unfold cardStep
  split
  · exact goesWf_ne (fun _ => nofun)
  · refine goesWf_ite (goesWf_ne (fun _ => nofun)) (goesWf_ite (goesWf_ne (fun _ => nofun)) (goesWf_ite (goesWf_ne (fun _ =>
      nofun)) (goesWf_ite (goesWf_ne (fun _ => nofun)) ?_)))
    have hput : ∀ s (a : Area) v, MemoriesWf s → MemoriesWf (a.put s q.next v) := fun _ _ _ h => wf_put h
    have hlast : ∀ s p (a : Area) v, MemoriesWf s → MemoriesWf (if p = 2 then a.put s q.next v else s) :=
      fun _ _ _ _ h => wf_ite (wf_put h) h
    rintro _ ⟨⟩
    refine wf_updOpt (wf_setVersion ?_)
    have hevent {p : Prop} [Decidable p] {s} (h : MemoriesWf s) :
        MemoriesWf (if p then poisonEvent s c (some q.ref) q.next else s) := wf_ite (wf_poisonEvent h) h
    refine hevent (wf_ite ?_ ?_)
    · exact wf_ite (wf_ite h h) (wf_ite h h)
    · exact hlast _ _ _ _ (hlast _ _ _ _ (hput _ _ _ h))

theorem wf_cardRun {last f c k} (h : MemoriesWf s) : MemoriesWf (cardRun last f s c k) := by
  induction f generalizing s with
  | zero => exact h
  | succ f ih =>
    unfold cardRun
    split
    · exact h
    · refine wf_ite h ?_
      split
      next e => exact ih (wf_cardStep h _ e)
      · exact wf_ite (wf_settleCard h) h
      · exact wf_ite (wf_settleCard h) h
      · exact h

theorem wf_cardComplete {c k} (h : MemoriesWf s) : MemoriesWf (cardComplete s c k) := by
  unfold cardComplete
  split
  · exact h
  · extract_lets s1
    have h1 : MemoriesWf s1 := wf_cardRun h
    split
    exacts [h1, wf_ite (wf_endCard (wf_updOpt h1)) h1]

theorem wf_redeemStart {c k q} (h : MemoriesWf s) : MemoriesWf (redeemStart s c k q) := by
  unfold redeemStart
  extract_lets j p0 we s1 p drop leftQueue run
  have h1 : MemoriesWf s1 := wf_ite (wf_expireOne h) h
  have hrun : ∀ s, MemoriesWf s → MemoriesWf (run s) := fun s h => by
    unfold run
    extract_lets s2
    have h2 : MemoriesWf s2 := wf_strain h
    split
    · exact wf_ite (wf_updOpt h2) (wf_releaseLocks h2)
    · exact wf_releaseLocks h2
  refine wf_ite (hrun _ (wf_updPromise h1)) (wf_ite ?_ h1)
  split
  · exact wf_ite (hrun _ (wf_updRegion (wf_updPromise h1))) (hrun _ (wf_updPromise h1))
  · exact wf_strain (wf_finishCard (wf_updPromise h1))
  · exact wf_strain (wf_finishCard (wf_faultCard (wf_updPromise h1)))

theorem wf_refuseCard {c k q} (h : MemoriesWf s) : MemoriesWf (refuseCard s c k q) := wf_finishCard (wf_ite h (wf_updPromise h))

theorem wf_cardStart {c k} (h : MemoriesWf s) : MemoriesWf (cardStart s c k) := by
  unfold cardStart
  split
  · exact h
  · extract_lets o
    split
    · split
      · exact h
      · extract_lets taken sides rivals y
        have htaken2 : MemoriesWf taken := wf_updOpt h
        split
        · exact wf_refuseCard htaken2
        · split
          · exact h
          · split
            exacts [wf_redeemStart (wf_foldl htaken2 (fun _ _ h => wf_addLock h)), wf_redeemStart (wf_foldl htaken2 (fun _ _ h
                => wf_addLock h)), wf_updOpt (wf_foldl htaken2 (fun _ _ h => wf_addLock h))]
    · exact h

theorem wf_optimMove {c k we n} (h : MemoriesWf s) : MemoriesWf (optimMove s c k we n) := by
  unfold optimMove
  extract_lets o
  split
  · exact wf_workMove h
  · split
    exacts [wf_ite (wf_cardRun h) h, h]

theorem wf_setReplay {E r} (h : MemoriesWf s) : MemoriesWf (setReplay s E r) := wf_updOpt h

theorem wf_tookResult {E} (h : MemoriesWf s) : MemoriesWf (tookResult s E) := wf_setReplay h

theorem wf_noteResult {E w} (h : MemoriesWf s) : MemoriesWf (noteResult s E w) := wf_setReplay h

theorem wf_droppedCard {E} (h : MemoriesWf s) : GoesWf some (droppedCard s E) := by
  unfold droppedCard
  exact goesWf_ite (goesWf_some h) (goesWf_ne (fun _ => nofun))

theorem wf_withDesc {E a g go} (hgo : ∀ a b c, BodyWf (go a b c)) : BodyWf (withDesc s E a g go) := by
  unfold withDesc
  extract_lets e css
  split
  exacts [trivial, hgo _ _ _]

theorem wf_prmOpenBody {d a n l} (h : MemoriesWf s) : BodyWf (prmOpenBody d a n l s) := by
  refine wf_withEnv h (fun E => ?_)
  split
  · exact wf_pend (wf_tookResult h)
  · refine wf_withDesc (fun e locs x => bodyWf_ite h ?_)
    extract_lets k o hs ents W G H
    split
    · trivial
    · trivial
    · trivial
    · refine wf_guarded h (bodyWf_ite trivial ?_)
      split
      · trivial
      · refine wf_guarded h (wf_pend ?_)
        split
        · exact wf_noteResult (wf_updPromise h)
        · exact wf_updPromise h

theorem wf_enqueue {E q} (h : MemoriesWf s) : MemoriesWf (enqueue s E q) := wf_others (wf_updOpt (wf_setReplay h))

theorem wf_cardIssued {E d l} (h : MemoriesWf s) : BodyWf (cardIssued s E d l) := wf_longRes h

theorem wf_redeemBody {kind d a n l} (h : MemoriesWf s) : BodyWf (redeemBody kind d a n l s) := by
  refine wf_withEnv h (fun E => ?_)
  split
  next e => exact wf_cardIssued (wf_droppedCard h _ e)
  · extract_lets k o w priv
    split
    · trivial
    · exact bodyWf_ite trivial (bodyWf_ite trivial (bodyWf_ite trivial
        (wf_guarded h (bodyWf_ite (wf_cardIssued (wf_enqueue (wf_updPromise h))) h))))

theorem wf_drainedResult {d l f} (h : MemoriesWf s) (hf : ∀ E, MemoriesWf (f E).2) : BodyWf (drainedResult d l s f) := by
  refine wf_withEnv h (fun E => ?_)
  split
  · exact wf_longRes (wf_tookResult h)
  · refine bodyWf_ite h ?_
    split
    next e =>
      have h1 : MemoriesWf _ := congrArg Prod.snd e ▸ hf E
      split
      · exact wf_longRes (wf_noteResult h1)
      · exact wf_longRes h1

theorem wf_prmCancelBody {d a l} (h : MemoriesWf s) : BodyWf (prmCancelBody d a l s) := by
  refine wf_drainedResult h (fun E => ?_)
  dsimp only
  split
  · exact h
  · split
    · exact wf_strain (wf_updPromise h)
    · exact h

theorem wf_prmQueryBody {d a sel l} (h : MemoriesWf s) : BodyWf (prmQueryBody d a sel l s) := by
  refine bodyWf_ite trivial (wf_drainedResult h (fun E => ?_))
  dsimp only
  split <;> exact h

theorem wf_optCardBody {d a n l} (h : MemoriesWf s) : BodyWf (optCardBody d a n l s) := by
  refine wf_withEnv h (fun E => ?_)
  split
  next e => exact wf_cardIssued (wf_droppedCard h _ e)
  · refine wf_withDesc (fun e locs x => ?_)
    extract_lets o w mm vm cap ents q0 q W others no
    clear_value no
    refine wf_guarded h ?_
    split
    · exact bodyWf_ite (wf_cardIssued (wf_finishCard h)) h
    · exact wf_guarded h (bodyWf_ite (wf_cardIssued (wf_enqueue h)) h)

theorem wf_optLdrBody {a n k l} (h : MemoriesWf s) : BodyWf (optLdrBody a n k l s) := by
  refine wf_withEnv h (fun E => wf_withDesc (fun e locs x => ?_))
  extract_lets codes
  refine bodyWf_ite trivial ?_
  split
  · trivial
  · exact wf_guarded h (wf_longRes (wf_updOpt h))

theorem wf_optWaitBody {d a l} (h : MemoriesWf s) : BodyWf (optWaitBody d a l s) := by
  refine wf_withEnv h (fun E => ?_)
  extract_lets t o q done
  have hdone : ∀ f w, BodyWf (done f w) := fun f w => by
    unfold done
    split
    · exact wf_dropFault h
    · exact wf_longRes h
  refine bodyWf_ite (bodyWf_ite (hdone _ _) h) (bodyWf_ite (wf_longRes h) (bodyWf_ite h ?_))
  split
  · exact bodyWf_ite trivial h
  · exact hdone _ _

theorem wf_fenceEBody (h : MemoriesWf s) : BodyWf (fenceEBody s) := by
  unfold fenceEBody
  extract_lets c
  split
  · exact h
  · split
    exacts [wf_dropFault h, wf_longRes h]

/-! ## Pre-emption, spill and restore (R354 to R361) -/

theorem wf_openSpill {c n} (h : MemoriesWf s) : MemoriesWf (openSpill s c n) := h

theorem wf_spillArea {c n k} (h : MemoriesWf s) : Memory.wf (spillArea s c n k) = true := by
  refine Memory.wf_writeBytes _ _ _ ?_
  generalize corePart s n ++ slicePart s c n = l
  have hm : Memory.wf (eraseRange s.spill (spillBase c n) (2 ^ 21)) = true := Memory.wf_eraseRange _ _ _ h.2.2.2.2.2.1
  revert hm
  generalize eraseRange s.spill (spillBase c n) (2 ^ 21) = m
  intro hm
  induction l generalizing m with
  | nil => exact hm
  | cons e l ih => exact ih _ (Memory.wf_writeBytes _ _ _ hm)

theorem wf_writeSpill {c x k} (h : MemoriesWf s) : MemoriesWf (writeSpill s c x k) :=
  wf_others (wf_foldl h (fun _ _ h => wf_openSpill (wf_setSpill h (wf_spillArea h))))

theorem wf_readSpill {c x} (h : MemoriesWf s) : MemoriesWf (readSpill s c x) := wf_foldl h (fun _ _ h => wf_openSpill h)

theorem wf_zeroSpill {c} (h : MemoriesWf s) : MemoriesWf (zeroSpill s c) := wf_setSpill h (Memory.wf_eraseRange _ _ _ h.2.2.2.2.2.1)

theorem wf_settleCount {n} (h : MemoriesWf s) : MemoriesWf (settleCount s n) := by
  unfold settleCount
  split
  exacts [wf_ite (wf_noteAhead (wf_settleBody h (wf_pend h))) h, h]

theorem wf_settleJoin {n} (h : MemoriesWf s) : MemoriesWf (settleJoin s n) := by
  unfold settleJoin
  split
  exacts [wf_ite (wf_noteAhead (wf_settleBody h (wf_launched h))) h, h]

theorem wf_alignGang {cl} (h : MemoriesWf s) : MemoriesWf (alignGang s cl) := by
  unfold alignGang
  split
  · exact h
  · split
    exacts [h, wf_foldl h (fun _ _ h => h)]

theorem wf_reformGang {cl} (h : MemoriesWf s) : MemoriesWf (reformGang s cl) := by
  unfold reformGang
  split
  exacts [h, wf_others (wf_forwardGang h)]

theorem wf_settleCore {n} (h : MemoriesWf s) : MemoriesWf (settleCore s n) := by
  unfold settleCore
  split
  exacts [h, wf_handlerEntry (wf_others (wf_others (wf_withdraw (wf_settleJoin (wf_settleCount h)))))]

theorem wf_answerPreempt {c} (h : MemoriesWf s) : MemoriesWf (answerPreempt s c) := by
  unfold answerPreempt
  split
  exacts [h, wf_ite (wf_settleMbox (wf_answerMbox h)) h]

theorem wf_acceptPreempt {c} (h : MemoriesWf s) : MemoriesWf (acceptPreempt s c) := by
  unfold acceptPreempt
  split
  exacts [h, wf_ite h (wf_ite h (wf_ite (wf_answerPreempt h) h))]

theorem wf_haltComplete {c} (h : MemoriesWf s) : MemoriesWf (haltComplete s c) := by
  unfold haltComplete
  split
  · exact h
  · refine wf_ite ?_ h
    extract_lets s1 ks s2 s3 s4 s5
    have h1 : MemoriesWf s1 := wf_foldl h (fun _ _ h => wf_poolAnswer h)
    have h2 : MemoriesWf s2 := wf_foldl h1 (fun _ _ h => wf_settleCore h)
    have h3 : MemoriesWf s3 := wf_foldl (wf_foldl h2 (fun _ _ h => wf_exchangeComplete h)) (fun _ _ h => wf_alignGang h)
    have h5 : MemoriesWf s5 := wf_updCtx (wf_settlePackets h3)
    exact wf_replaceLanes (wf_ite (wf_answerPreempt h5) h5)

theorem wf_spillCtx {c} (h : MemoriesWf s) : MemoriesWf (spillCtx s c) := by
  unfold spillCtx
  split
  exacts [h, wf_ite (wf_scanAll (wf_others (wf_clearUnits (wf_writeSpill h)))) h]

theorem wf_reload {c x} (h : MemoriesWf s) : MemoriesWf (reload s c x) :=
  wf_foldl h (fun _ _ h => wf_ite (wf_foldl h (fun _ _ h => wf_others (wf_loadCode h))) h)

theorem wf_restoreCtx {c} (h : MemoriesWf s) : MemoriesWf (restoreCtx s c) := by
  unfold restoreCtx
  split
  · exact h
  · split
    · extract_lets s1 s2
      have h1 : MemoriesWf s1 := by
        unfold s1
        split
        · exact wf_putUnits (wf_readSpill h)
        · exact h
      have h2 : MemoriesWf s2 := wf_foldl h1 (fun _ _ h => wf_reformGang h)
      exact wf_reschedule (wf_updCtx (wf_reload h2))
    · exact h

/-! ## Heat, failures and remaps (R61, R67, R68) -/

theorem wf_thermalTrip {t} (h : MemoriesWf s) : MemoriesWf (thermalTrip s t) := wf_ite h (wf_ite h (wf_postModule h))

theorem wf_thermalClear {t} (h : MemoriesWf s) : MemoriesWf (thermalClear s t) := wf_ite h (wf_postModule h)

theorem wf_exhaustRow {n} (h : MemoriesWf s) : MemoriesWf (exhaustRow s n) := wf_postModule h

theorem wf_coreFailure {n} (h : MemoriesWf s) : MemoriesWf (coreFailure s n) :=
  wf_ite h (wf_ite h (wf_ite (wf_exhaustRow h) (wf_others h)))

theorem wf_rerunTask {n t} (h : MemoriesWf s) : MemoriesWf (rerunTask s n t) :=
  wf_updCtx (wf_others (wf_updRun (wf_foldl (wf_dissolve (wf_reformGang (wf_releaseMutexes (wf_others (wf_countSent h))))) (fun
      _ _ h => wf_releaseLocks h))))

theorem wf_rerunWave {n t} (h : MemoriesWf s) : MemoriesWf (rerunWave s n t) := by
  unfold rerunWave
  refine wf_ite (wf_rerunTask h) ?_
  split
  · exact h
  · refine wf_foldl h (fun s m h => ?_)
    extract_lets ws
    split
    · exact h
    · split
      · exact h
      · exact wf_ite h (wf_ite (wf_rerunTask h)
          (wf_ite h (wf_ite (wf_rerunTask h) (wf_setStatus (wf_rerunTask h)))))

theorem wf_recoverCore {f} (h : MemoriesWf s) : MemoriesWf (recoverCore s f) := by
  unfold recoverCore
  extract_lets s1
  have h1 : MemoriesWf s1 := by
    unfold s1
    split
    · exact wf_ite (wf_rerunWave h) h
    · exact h
  split
  exacts [wf_postCtx h1, wf_postModule h1]

theorem wf_rowRemap {n bad} (h : MemoriesWf s) : MemoriesWf (rowRemap s n bad) := by
  unfold rowRemap
  split
  exacts [h, wf_ite h (wf_others (wf_ite (wf_foldl (wf_foldl (wf_sweepRows h) (fun _ _ h => wf_recoverCore h)) (fun _ _ h =>
      wf_exhaustRow h)) (wf_foldl (wf_sweepRows h) (fun _ _ h => wf_recoverCore h))))]

theorem wf_laneFailure {dram l dir} (h : MemoriesWf s) : MemoriesWf (laneFailure s dram l dir) :=
  wf_ite (wf_linkOut h) (wf_replaceLanes (wf_others (wf_ite h (wf_takeSpare h))))

/-! ## The end of a context, and warm resets (R12, R13, R400) -/

theorem wf_zeroCaddy {c} (h : MemoriesWf s) : MemoriesWf (zeroCaddy s c) :=
  wf_others (wf_setCaddy h (Memory.wf_eraseRange _ _ _ h.2.2.2.1))

theorem wf_failAll {c x} (h : MemoriesWf s) : MemoriesWf (failAll s c x) := wf_foldl h (fun _ _ h => wf_failRecord h)

theorem wf_restOpt {f c k} (h : MemoriesWf s) : MemoriesWf (restOpt f s c k) := by
  induction f generalizing s with
  | zero => exact h
  | succ f ih => exact ih (wf_cardStart (wf_cardComplete (wf_foldl h (fun _ _ h => wf_strainerAction h))))

theorem wf_restEngines {c x} (h : MemoriesWf s) : MemoriesWf (restEngines s c x) :=
  wf_updCtx (wf_foldl (wf_foldl (wf_foldl (wf_updCtx h) (fun _ _ h => wf_foldl h (fun _ _ h => wf_completeCmd h))) (fun _ _ h =>
      wf_exchangeComplete h)) (fun _ _ h => wf_restOpt h))

theorem wf_retireRegion {f c k we} (h : MemoriesWf s) : MemoriesWf (retireRegion f s c k we) := by
  induction f generalizing s with
  | zero => exact h
  | succ f ih => exact ih (wf_strainerAction (wf_updRegion (wf_strainLoop h)))

theorem wf_retirePromises {c k} (h : MemoriesWf s) : MemoriesWf (retirePromises s c k) :=
  wf_foldl (wf_foldl h (fun _ _ h => wf_expireOne h)) (fun _ _ h => wf_retireRegion h)

theorem wf_zeroPages {x} (h : MemoriesWf s) : MemoriesWf (zeroPages s x) :=
  wf_foldl h (fun _ _ h => wf_ite (wf_others (wf_setDram h (swf_filter _ _ _ h.2.2.1)))
    (wf_setHost h (Memory.wf_eraseRange _ _ _ h.2.2.2.2.1)))

theorem wf_zeroSlices {f} (h : MemoriesWf s) : MemoriesWf (zeroSlices s f) :=
  wf_others (wf_setGmeta (wf_setSlice h (swf_filter _ _ _ h.1)) (swf_filter _ _ _ h.2.1))

theorem wf_retireStop {c} (h : MemoriesWf s) : MemoriesWf (retireStop s c) := by
  unfold retireStop
  split
  exacts [h, wf_restEngines (wf_failAll h)]

theorem wf_retireWork {c nonce} (h : MemoriesWf s) : MemoriesWf (retireWork s c nonce) := by
  unfold retireWork
  split
  · exact h
  · extract_lets s1
    have h1 : MemoriesWf s1 := wf_foldl h (fun _ _ h => wf_retirePromises h)
    split <;> exact h1

theorem wf_freeContext {c x} (h : MemoriesWf s) : MemoriesWf (freeContext s c x) :=
  wf_scanAll (wf_replaceLanes (wf_others (wf_others (wf_zeroSlices (wf_sweepRows (wf_zeroSpill (wf_zeroPages h)))))))

theorem wf_rearmRecords {c x} (h : MemoriesWf s) : MemoriesWf (rearmRecords s c x) := wf_foldl h (fun _ _ h => wf_setStatus h)

theorem wf_warmContexts (h : MemoriesWf s) : MemoriesWf (warmContexts s) :=
  wf_others (wf_foldl h (fun _ _ h => wf_rearmRecords h))

theorem wf_warmReset (h : MemoriesWf s) : MemoriesWf (warmReset s) :=
  wf_foldl (wf_others (wf_warmContexts h)) (fun _ _ h => wf_replaceLane h)

theorem wf_warmReady (h : MemoriesWf s) : MemoriesWf (warmReady s) := by
  unfold warmReady
  refine wf_foldl (wf_foldl (wf_others h) (fun _ _ h => wf_reschedule h)) (fun _ _ h => ?_)
  split
  · exact wf_ite (wf_answerPreempt h) h
  · exact h

theorem wf_warmStage (h : MemoriesWf s) : MemoriesWf (warmStage s) := by
  unfold warmStage
  refine wf_ite h ?_
  split
  · exact wf_reroute (wf_calibrate h)
  · exact wf_ite (wf_bootFail h) h
  · exact h
  · exact wf_ite (wf_bootFail h) (wf_others (wf_setGmeta (wf_setSlice h Memory.wf_nil) Memory.wf_nil))
  · exact wf_warmReady h

theorem wf_mctlWrite {m w} (h : MemoriesWf s) : MemoriesWf (mctlWrite s m w) :=
  wf_ite (wf_countDenied h) (wf_ite (wf_countDenied h) (wf_ite (wf_warmReset h) h))

theorem wf_registerWrite {m off width v} (h : MemoriesWf s) : MemoriesWf (registerWrite s m off width v) :=
  wf_ite (wf_armWrite h) (wf_ite h (wf_ite (wf_owncasWrite h) (wf_ite (wf_deniedWrite h) (wf_ite (wf_mctlWrite h) (wf_ite h
      (wf_ite (wf_doorbell h) (wf_ite (wf_setMbox h) (wf_ite (wf_evpopWrite h) h))))))))

/-! ## Branches, the matrix unit and gangs -/

theorem wf_branch {n} {t : Word → Word → Bool} {a b} {off : BitVec n} (h : MemoriesWf s) : BodyWf (branch t a b off s) := by
  unfold branch
  exact bodyWf_ite h h

theorem wf_predBody {d f} (h : MemoriesWf s) : BodyWf (predBody d f s) := wf_interlock h

theorem wf_genStep {n k} (h : MemoriesWf s) : MemoriesWf (genStep s n k) := wf_ite (wf_foldl h (fun _ _ h => h)) h

theorem wf_mxClaimBody {k l} (h : MemoriesWf s) : BodyWf (mxClaimBody k l s) :=
  bodyWf_ite trivial (wf_longRes (wf_others (wf_genStep h)))

theorem wf_mxRelBody {k l} (h : MemoriesWf s) : BodyWf (mxRelBody k l s) := bodyWf_ite trivial (wf_longRes h)

theorem wf_mxFillBody {rows k g a l} (h : MemoriesWf s) : BodyWf (mxFillBody rows k g a l s) := by
  unfold mxFillBody
  extract_lets s1
  have h1 : MemoriesWf s1 := h
  refine wf_withEnv h1 (fun E => ?_)
  extract_lets t e
  split
  · trivial
  · exact wf_guarded h1 (wf_pendLock (wf_genStep h1))

theorem wf_mxAcldBody {d a g l} (h : MemoriesWf s) : BodyWf (mxAcldBody d a g l s) := by
  unfold mxAcldBody
  extract_lets s1
  have h1 : MemoriesWf s1 := h
  refine wf_withEnv h1 (fun E => ?_)
  extract_lets t
  split
  · trivial
  · exact wf_guarded h1 (wf_pendLock h1)

theorem wf_mxAcstBody {d a g l} (h : MemoriesWf s) : BodyWf (mxAcstBody d a g l s) := by
  unfold mxAcstBody
  extract_lets s1
  have h1 : MemoriesWf s1 := h
  refine wf_withEnv h1 (fun E => ?_)
  extract_lets t e
  split
  · trivial
  · exact wf_guarded h1 (wf_pendLock (wf_clearPoison (wf_foldl (wf_stampAccess h1) (fun _ _ h => wf_writeElem h))))

theorem wf_mxZeroBody {d l} (h : MemoriesWf s) : BodyWf (mxZeroBody d l s) := wf_longRes h

theorem wf_mxRegenBody {tr eps1 od os l} (h : MemoriesWf s) : BodyWf (mxRegenBody tr eps1 od os l s) := by
  unfold mxRegenBody
  extract_lets s1 c j
  have h1 : MemoriesWf s1 := h
  split
  exacts [trivial, bodyWf_ite trivial (bodyWf_ite trivial (wf_pend (wf_genStep h1)))]

theorem wf_registerJoin {n form w} (h : MemoriesWf s) : MemoriesWf (registerJoin s n form w) := wf_ite h h

theorem wf_acceptMma {t cl a depth cls l k} (h : MemoriesWf s) : MemoriesWf (acceptMma t s cl a depth cls l k) := wf_pend h

theorem wf_acceptJoin {n d l} (h : MemoriesWf s) : MemoriesWf (acceptJoin s n d l) := wf_pend h

theorem wf_trapOthers {n ns r} (h : MemoriesWf s) : MemoriesWf (trapOthers s n ns r) := wf_foldl h (fun _ _ h => wf_takeTrap h)

theorem wf_arrayBody {w args d l} (h : MemoriesWf s) : BodyWf (arrayBody w args d l s) := by
  refine wf_withEnv h (fun E => ?_)
  extract_lets n cl ns s1 waiting mask
  have h1 : MemoriesWf s1 := wf_registerJoin h
  refine bodyWf_ite (wf_trapOthers h1) (bodyWf_ite h1 ?_)
  split
  · exact wf_trapOthers h1
  · split
    · refine wf_acceptMma (wf_foldl h1 (fun _ _ h => ?_))
      exact wf_settleBody h (wf_acceptMma h)
    · refine wf_acceptJoin (wf_foldl (wf_foldl h1 (fun _ _ h => h)) (fun _ _ h => ?_))
      exact wf_settleBody h (wf_acceptJoin h)

theorem wf_formed {n d members leader} (h : MemoriesWf s) : MemoriesWf (formed s n d members leader) := h

theorem wf_gangFormBody {w d} (h : MemoriesWf s) : BodyWf (gangFormBody w d s) := by
  refine wf_withEnv h (fun E => ?_)
  extract_lets n cl
  split
  · exact wf_formed h
  · have h1 : MemoriesWf (registerJoin s E.n true w) := wf_registerJoin h
    refine bodyWf_ite h1 (bodyWf_ite (wf_trapOthers h1) (wf_formed (wf_foldl h1 (fun _ _ h => ?_))))
    exact wf_settleBody h (wf_formed h)

theorem wf_leaveJoins {cl t} (h : MemoriesWf s) : MemoriesWf (leaveJoins s cl t) :=
  wf_ite h (wf_foldl h (fun _ _ h => wf_takeTrap h))

theorem wf_retireTask {n} (h : MemoriesWf s) : MemoriesWf (retireTask s n) := by
  unfold retireTask
  split
  exacts [wf_leaveJoins (wf_endTask h), wf_endTask h]

theorem wf_taskEndBody (h : MemoriesWf s) : BodyWf (taskEndBody s) := by
  unfold taskEndBody
  extract_lets c
  split
  · exact h
  · split
    exacts [wf_dropFault h, bodyWf_ite (wf_fatalStop (wf_releaseMutexes h)) (wf_retireTask h)]

/-- An instruction that waits issues again; one that never waits leaves the state as it is. -/
theorem wf_waitExec {i : Instr} (h : MemoriesWf s) : OutWf (waitExec i s) := by
  cases i
  case yield => exact wf_issue (fun _ h => wf_yieldBody h) h
  case taskEnd | cEnd => exact wf_issue (fun _ h => wf_taskEndBody h) h
  case lrecPatch => exact wf_issue (fun _ h => wf_lrecPatchBody h) h
  case lrecArm => exact wf_issue (fun _ h => wf_lrecArmBody h) h
  case ld | st | ldFe | ldFeClr | stFe | stFeForce | ldV | stV | vld | vst | vldFe | vldFeClr | vstFe | vstFeForce | vldV
      | vstV =>
    exact wf_issue (fun _ h => wf_accBody h) h
  case reclaim => exact wf_issue (fun _ h => wf_reclaimBody h) h
  case amoAdd | amoAnd | amoOr | amoXor | amoMin | amoMax | amoSwap | amoCas | amoIncb | amoIncw | amoDecnz | amoAddlim =>
    exact wf_issue (fun _ h => wf_amoBody h) h
  case tamoFadd | tamoFmax | tamoFmin | tamoOr | tamoSkip => exact wf_issue (fun _ h => wf_tamoBody h) h
  case tfence => exact wf_issue (fun _ h => wf_tfenceBody h) h
  case annAmoAdd | annAmoAnd | annAmoOr | annAmoXor | annAmoMin | annAmoMax | annAmoSwap | annLd =>
    exact wf_issue (fun _ h => wf_annBody h) h
  case fenceE => exact wf_issue (fun _ h => wf_fenceEBody h) h
  case waitCnt => exact wf_issue (fun _ h => wf_waitCntBody h) h
  case evWait => exact wf_issue (fun _ h => wf_evWaitBody h) h
  case evSig => exact wf_issue (fun _ h => wf_evSigBody h) h
  case mtxLock => exact wf_issue (fun _ h => wf_mtxLockBody h) h
  case mtxUnlock => exact wf_issue (fun _ h => wf_mtxUnlockBody h) h
  case barArr => exact wf_issue (fun _ h => wf_barArrBody h) h
  case barWait => exact wf_issue (fun _ h => wf_barWaitBody h) h
  case barSync => exact wf_issue (fun _ h => wf_barSyncBody h) h
  case copyLaunch | gatherLaunch | exchangeLaunch => exact wf_issue (fun _ h => wf_launchBody h) h
  case engWait => exact wf_issue (fun _ h => wf_engWaitBody h) h
  case msgSend => exact wf_issue (fun _ h => wf_msgSendBody h) h
  case msgRecv => exact wf_issue (fun _ h => wf_msgRecvBody h) h
  case msgPush => exact wf_issue (fun _ h => wf_msgPushBody h) h
  case msgSret => exact wf_issue (fun _ h => wf_msgSretBody h) h
  case rankMove => exact wf_issue (fun _ h => wf_rankMoveBody h) h
  case gangMma | gangMmaSh | gangJoinInstruction => exact wf_issue (fun _ h => wf_arrayBody h) h
  case mxFill | mxFillCol => exact wf_issue (fun _ h => wf_mxFillBody h) h
  case mxAcld => exact wf_issue (fun _ h => wf_mxAcldBody h) h
  case mxAcst => exact wf_issue (fun _ h => wf_mxAcstBody h) h
  case gangForm => exact wf_issue (fun _ h => wf_gangFormBody h) h
  case prmOpen => exact wf_issue (fun _ h => wf_prmOpenBody h) h
  case prmRedeem | prmRedeemT => exact wf_issue (fun _ h => wf_redeemBody h) h
  case prmCancel => exact wf_issue (fun _ h => wf_prmCancelBody h) h
  case prmQuery => exact wf_issue (fun _ h => wf_prmQueryBody h) h
  case optCard => exact wf_issue (fun _ h => wf_optCardBody h) h
  case optLdr => exact wf_issue (fun _ h => wf_optLdrBody h) h
  case optWait => exact wf_issue (fun _ h => wf_optWaitBody h) h
  all_goals exact outWf_next h

/-! ## Ends of waits and watchdogs -/

theorem wf_keepCur {cur o} (ho : OutWf o) : OutWf (keepCur cur o) := by
  unfold keepCur
  split
  · exact outWf_next (wf_others (ho _ rfl))
  · exact ho

theorem wf_resume {ks n} (h : MemoriesWf s) : OutWf (resume ks s n) :=
  outWf_ite (wf_keepCur (wf_coreAgain (fun _ _ h => wf_waitExec h) h)) (outWf_next h)

theorem wf_sendAgain {n} (h : MemoriesWf s) : GoesWf some (sendAgain s n) := by
  unfold sendAgain
  split
  · exact goesWf_ite (goesWf_ne (fun _ => nofun)) (goesWf_some (wf_transmit h))
  · exact (goesWf_ne (fun _ => nofun))

theorem wf_expire {ks} (h : MemoriesWf s) : OutWf (expire ks s) := outWf_ite (wf_resume h) (outWf_next h)

theorem wf_watchdog {n} (h : MemoriesWf s) : MemoriesWf (watchdog s n) := by
  unfold watchdog
  split
  · split
    exacts [wf_ite (wf_takeTrap h) h, h]
  · exact h

theorem wf_timerDeliver {n} (h : MemoriesWf s) : MemoriesWf (timerDeliver s n) := wf_ite (wf_takeTrap h) h

theorem wf_interruptDeliver {n} (h : MemoriesWf s) : MemoriesWf (interruptDeliver s n) := wf_ite (wf_deliverInt h) h

theorem wf_fatalStopRecord {c r} (h : MemoriesWf s) : MemoriesWf (fatalStopRecord s c r) := by
  unfold fatalStopRecord
  split
  · exact h
  · split
    · exact h
    · split
      exacts [h, wf_ite (wf_reschedule (wf_postCtx (wf_failRecord h))) h]

theorem wf_alu2i {f d a b} (h : MemoriesWf s) : BodyWf (alu2i f d a b s) := wf_interlock h

theorem wf_spoilUnit {u} (h : MemoriesWf s) : MemoriesWf (spoilUnit s u) := by
  unfold spoilUnit
  split <;> exact h

/-! ## A move -/

theorem wf_moveWith {run m} (hrun : ∀ i s, MemoriesWf s → OutWf (run i s)) (h : MemoriesWf s) : OutWf (moveWith run m s) := by
  cases m with
  | core => exact outWf_ite (wf_coreMove hrun h) (fun _ e => nomatch e)
  | event i x => exact outWf_ite (hrun i _ h) (outWf_next h)
  | elapse => exact outWf_next h
  | engine => exact outWf_next (wf_engineMove h)
  | optim => exact outWf_next (wf_optimMove h)
  | stage => exact outWf_next (wf_warmStage h)
  | softError => exact outWf_next h
  | eccError => exact outWf_next (wf_spoilUnit h)
  | bar2Read => exact outWf_next (wf_bar2Access h)
  | privateAccess => exact outWf_next (wf_ite h h)

theorem wf_stepWith {run} (hrun : ∀ i s, MemoriesWf s → OutWf (run i s)) (h : MemoriesWf s) : OutWf (stepWith run s) := by
  unfold stepWith
  split <;> exact wf_moveWith hrun h

/-! ## The commands of the management complex (R22) -/

theorem fst_ite {α : Type} {p : Prop} [Decidable p] {a b : State × α} (ha : MemoriesWf a.1) (hb : MemoriesWf b.1) :
    MemoriesWf (if p then a else b).1 := by
  split
  · exact ha
  · exact hb

theorem wf_reset : MemoriesWf State.reset := ⟨rfl, rfl, rfl, rfl, rfl, rfl, rfl⟩

theorem wf_execColdReset (h : MemoriesWf s) : OutWf (execColdReset s) :=
  outWf_next (wf_powerOn (wf_others (wf_setHost wf_reset h.2.2.2.2.1)))

theorem wf_execFwmin (h : MemoriesWf s) : OutWf (execFwmin s) :=
  wf_serve h (fun _ h _ _ => fst_ite h (fst_ite h h))

theorem wf_execCreate (h : MemoriesWf s) : OutWf (execCreate s) :=
  wf_serve h (fun _ h _ _ => fst_ite (wf_openCaddy (wf_others (wf_zeroCaddy h))) h)

theorem wf_execSealPart (h : MemoriesWf s) : OutWf (execSealPart s) :=
  wf_serve h (fun s h _ arg => by
    dsimp only
    split
    · exact h
    · exact wf_sealCtx h)

theorem wf_execBind (h : MemoriesWf s) : OutWf (execBind s) :=
  wf_serve h (fun s h _ arg => by
    dsimp only
    split
    · exact h
    · exact fst_ite h (fst_ite h h))

theorem wf_execPreempt (h : MemoriesWf s) : OutWf (execPreempt s) :=
  wf_serveOr h (fun s h _ arg => by
    dsimp only
    split
    · exact h
    · exact fst_ite (fst_ite h h) h)

theorem wf_execResume (h : MemoriesWf s) : OutWf (execResume s) :=
  wf_serve h (fun s h _ arg => by
    dsimp only
    split
    · exact h
    · exact fst_ite (wf_reschedule (wf_restoreCtx h)) h)

theorem wf_execDebug (h : MemoriesWf s) : OutWf (execDebug s) :=
  wf_serve h (fun s h _ arg => by
    dsimp only
    split
    · exact h
    · exact fst_ite h (fst_ite h (wf_updCtx (wf_withUnits h (fun _ h => wf_foldl h (fun _ _ h => h))))))

theorem wf_execDbgcont (h : MemoriesWf s) : OutWf (execDbgcont s) :=
  wf_serve h (fun s h _ arg => by
    dsimp only
    split
    · exact h
    · exact fst_ite (wf_withUnits h (fun _ h => h)) h)

theorem wf_execMap (h : MemoriesWf s) : OutWf (execMap s) :=
  wf_serve h (fun s h _ arg => by
    dsimp only
    split
    · exact h
    · exact fst_ite h (fst_ite h h))

theorem wf_execUnmap (h : MemoriesWf s) : OutWf (execUnmap s) :=
  wf_serve h (fun s h _ arg => by
    dsimp only
    split
    · exact h
    · refine fst_ite h ?_
      split
      · exact h
      · exact fst_ite h h)

theorem wf_execPgresp (h : MemoriesWf s) : OutWf (execPgresp s) :=
  wf_serve h (fun s h _ arg => by
    dsimp only
    split
    · exact h
    · refine fst_ite h ?_
      split
      · exact h
      · refine wf_withUnits h (fun s h => ?_)
        split
        · exact h
        · exact wf_ite h (wf_finishCmd h))

theorem wf_execJobopen (h : MemoriesWf s) : OutWf (execJobopen s) :=
  wf_jobCommand h (fun _ h _ _ _ => fst_ite h (fst_ite h h))

theorem wf_execJobmap (h : MemoriesWf s) : OutWf (execJobmap s) :=
  wf_jobCommand h (fun s h c x arg => by
    refine fst_ite h (fst_ite h ?_)
    split
    · exact h
    · refine fst_ite h ?_
      split
      · exact h
      · exact h)

theorem wf_execJobseal (h : MemoriesWf s) : OutWf (execJobseal s) :=
  wf_jobCommandOr h (fun s h c x _ => by
    dsimp only
    split
    · exact h
    · refine fst_ite h ?_
      split
      · exact h
      · exact fst_ite (wf_sendIdents h) (fst_ite h (fst_ite h (fst_ite h (wf_updCtx h)))))

theorem wf_execJobclose (h : MemoriesWf s) : OutWf (execJobclose s) :=
  wf_jobCommand h (fun _ h _ _ _ => fst_ite h (fst_ite h (wf_replaceLanes h)))

theorem wf_execHload (h : MemoriesWf s) : OutWf (execHload s) :=
  wf_serve h (fun s h _ arg => by
    dsimp only
    split
    · exact h
    · exact fst_ite h (fst_ite h (wf_foldl (wf_others (wf_openCaddy h)) (fun _ _ h => h))))

theorem wf_execSnap (h : MemoriesWf s) : OutWf (execSnap s) :=
  wf_serve h (fun s h _ arg => by
    dsimp only
    split
    · exact h
    · exact fst_ite h h)

theorem wf_execRecread (h : MemoriesWf s) : OutWf (execRecread s) :=
  wf_serve h (fun s h _ arg => by
    refine fst_ite (wf_countDenied h) ?_
    split
    · exact h
    · exact fst_ite h h)

theorem wf_execIdkey (h : MemoriesWf s) : OutWf (execIdkey s) :=
  wf_serve h (fun _ h _ _ => fst_ite h h)

theorem wf_execRetire (h : MemoriesWf s) : OutWf (execRetire s) :=
  wf_serveOr h (fun s h _ arg => by
    have h1 : MemoriesWf (withUnits s (arg 0).toNat (fun s => retireStop s (arg 0).toNat)) := wf_withUnits h (fun _ h =>
        wf_retireStop h)
    dsimp only
    split
    · exact h1
    · exact fst_ite h1 (wf_freeContext (wf_withUnits h1 (fun _ h => wf_retireWork h))))

theorem wf_execTrace (h : MemoriesWf s) : OutWf (execTrace s) :=
  wf_serve h (fun _ h _ _ => fst_ite h (wf_updCtx h))

theorem wf_execTfilter (h : MemoriesWf s) : OutWf (execTfilter s) :=
  wf_serve h (fun _ h _ _ => fst_ite h (wf_updCtx h))

/-! ## Steps of the module that choose what they do -/

theorem wf_execFlitReceive (h : MemoriesWf s) : OutWf (execFlitReceive s) := by
  unfold execFlitReceive
  split
  · exact outWf_next (wf_receiveFlit h)
  · exact outWf_next h

theorem wf_execTicketArrival (h : MemoriesWf s) : OutWf (execTicketArrival s) := by
  unfold execTicketArrival
  split
  · exact outWf_next (wf_replayArrival h)
  · exact wf_resume h

theorem wf_execMessageRetry (h : MemoriesWf s) : OutWf (execMessageRetry s) := by
  unfold execMessageRetry
  extract_lets n again
  have hagain : GoesWf some again := by
    unfold again
    split
    · exact wf_sendAgain h
    · exact wf_sendAgain h
    · exact goesWf_ne (fun _ => nofun)
  clear_value again
  refine outWf_ite ?_ (outWf_next h)
  split
  · exact outWf_next (hagain _ rfl)
  · exact wf_resume h

/-! ## The dispatch -/

/-- No instruction and no step of the module takes a memory out of its canonical form. -/
theorem wf_exec {i : Instr} (h : MemoriesWf s) : OutWf (exec i s) := by
  have hwait : OutWf (waitExec i s) := wf_waitExec h
  cases i
  -- instructions that can wait
  case ld | st | ldFe | ldFeClr | stFe | stFeForce | ldV | stV | vld | vst | vldFe | vldFeClr | vstFe | vstFeForce | vldV
      | vstV | reclaim | amoAdd | amoAnd | amoOr | amoXor | amoMin | amoMax | amoSwap | amoCas | amoIncb | amoIncw |
      amoDecnz | amoAddlim | tamoFadd | tamoFmax | tamoFmin | tamoOr | tamoSkip | tfence | annAmoAdd | annAmoAnd |
      annAmoOr | annAmoXor | annAmoMin | annAmoMax | annAmoSwap | annLd | waitCnt | mtxLock | mtxUnlock | copyLaunch |
      gatherLaunch | exchangeLaunch | msgSend | msgSret | mxFill | mxFillCol | mxAcld | mxAcst | prmOpen | prmRedeem |
      prmRedeemT | optCard | optLdr | optWait | prmCancel | prmQuery | barArr | barWait | barSync | evWait | evSig |
      fenceE | engWait | gangForm | gangMma | gangMmaSh | gangJoinInstruction | msgRecv | msgPush | rankMove | lrecPatch |
      lrecArm | yield | taskEnd | cEnd =>
    exact hwait
  -- the other instructions of a core
  case add | sub | and | or | xor | andn | sll | srl | sra | slt | sltu | min | max | minu | maxu | clz | ctz | popc |
      brev | addi | andi | ori | xori | slti | sltiu | slli | srli | srai | lui | jal | jalr | cMv | cAdd | cSub | cAnd |
      cOr | cXor | cAddi | cLi | cSlli | cSrli | cSrai | cSlt | cJr =>
    exact wf_issue (fun _ h => h) h
  case mul | mulh | mulhu | div | divu | rem | remu => exact wf_issue (fun _ h => wf_alu2i h) h
  case beq | bne | blt | bge | bltu | bgeu | cBeqz | cBnez => exact wf_issue (fun _ h => wf_branch h) h
  case crr | crw | crs | crc => exact wf_issue (fun _ h => wf_crBody h) h
  case trap | brk => exact wf_issue (fun _ h => trivial) h
  case eret => exact wf_issue (fun _ h => wf_eretBody h) h
  case lrecRd => exact wf_issue (fun _ h => wf_lrecRdBody h) h
  case tqReq => exact wf_issue (fun _ h => wf_tqReqBody h) h
  case grpRd => exact wf_issue (fun _ h => wf_grpRdBody h) h
  case layRd => exact wf_issue (fun _ h => wf_layRdBody h) h
  case layWr => exact wf_issue (fun _ h => wf_layWrBody h) h
  case laySel => exact wf_issue (fun _ h => wf_laySelBody h) h
  case fenceT | fenceC | fenceG => exact wf_issue (fun _ h => wf_fenceBody h) h
  case fenceSp => exact wf_issue (fun _ h => wf_longRes h) h
  case barPhase => exact wf_issue (fun _ h => wf_barPhaseBody h) h
  case vadd | vsub | vadds | vsubs | vmul | vmin | vmax | vand | vor | vxor | vsll | vsrl | vsra | vminu | vmaxu | vcmpEq
      | vcmpNe | vcmpLt | vcmpGe | vcmpLtu | vcmpGeu | vredsum | vredmax | vfadd | vfsub | vfmul | vfma | vfnma | vfmin |
      vfmax | vfminp | vfmaxp | vfabs | vfneg | vfcmpEq | vfcmpLt | vfcmpLe | vfcmpUn | vfclass | vfredsum | vfredmax |
      vfredmin | vsel | vperm | vbcast | vbcastL | vslideUp | vslideDn | vext | vins | vcvtFN | vcvtFW | vcvtIN | vcvtIW |
      vcvtX | vcvtXu | vqnt | vdqnt =>
    exact wf_issue (fun _ h => wf_vecBody h) h
  case vfdiv | vfsqrt | vfrcpa | vfrsqa | vexp2a | vlog2a | vgauss => exact wf_issue (fun _ h => wf_vlBody h) h
  case pand | por | pnot | pset => exact wf_issue (fun _ h => wf_predBody h) h
  case pcount => exact wf_issue (fun _ h => wf_interlock h) h
  case engW => exact wf_issue (fun _ h => wf_engWBody h) h
  case engR => exact wf_issue (fun _ h => wf_engRBody h) h
  case engPoll => exact wf_issue (fun _ h => wf_engPollBody h) h
  case rankRd => exact wf_issue (fun _ h => wf_rankRdBody h) h
  case mxZero => exact wf_issue (fun _ h => wf_mxZeroBody h) h
  case mxClaim => exact wf_issue (fun _ h => wf_mxClaimBody h) h
  case mxRel => exact wf_issue (fun _ h => wf_mxRelBody h) h
  case mxRegen | mxRegenE | mxRegenT | mxRegenET => exact wf_issue (fun _ h => wf_mxRegenBody h) h
  case gangSplit => exact wf_issue (fun _ h => wf_dissolve h) h
  case cntRd => exact wf_issue (fun _ h => wf_cntRdBody h) h
  case trcMark => exact wf_issue (fun _ h => wf_trcMarkBody h) h
  case prfRd => exact wf_issue (fun _ h => wf_prfRdBody h) h
  -- commands of the management complex, and steps that choose what they do
  case coldReset => exact wf_execColdReset h
  case fwmin => exact wf_execFwmin h
  case create => exact wf_execCreate h
  case sealPart => exact wf_execSealPart h
  case bind => exact wf_execBind h
  case preempt => exact wf_execPreempt h
  case resume => exact wf_execResume h
  case debug => exact wf_execDebug h
  case dbgcont => exact wf_execDbgcont h
  case map => exact wf_execMap h
  case unmap => exact wf_execUnmap h
  case pgresp => exact wf_execPgresp h
  case jobopen => exact wf_execJobopen h
  case jobmap => exact wf_execJobmap h
  case jobseal => exact wf_execJobseal h
  case jobclose => exact wf_execJobclose h
  case hload => exact wf_execHload h
  case snap => exact wf_execSnap h
  case recread => exact wf_execRecread h
  case idkey => exact wf_execIdkey h
  case retire => exact wf_execRetire h
  case trace => exact wf_execTrace h
  case tfilter => exact wf_execTfilter h
  case flitReceive => exact wf_execFlitReceive h
  case messageRetry => exact wf_execMessageRetry h
  case ticketArrival => exact wf_execTicketArrival h
  -- the other steps of the module
  case powerOn => exact outWf_ite (outWf_next (wf_powerOn h)) (outWf_next h)
  case warmReset => exact outWf_next (wf_mctlWrite h)
  case thermalTrip => exact outWf_next (wf_ite (wf_thermalTrip h) h)
  case thermalClear => exact outWf_next (wf_ite (wf_thermalClear h) h)
  case hostLinkDown => exact outWf_ite (outWf_next (wf_setOwner h)) (outWf_next h)
  case owncas => exact outWf_next (wf_owncasWrite h)
  case denied => exact outWf_next (wf_deniedWrite h)
  case arm => exact outWf_next (wf_armWrite h)
  case evpop => exact outWf_next (wf_evpopWrite h)
  case bar2Write => exact outWf_next (wf_bar2Write h)
  case registerWrite => exact outWf_next (wf_registerWrite h)
  case taskStart => exact outWf_next (wf_startTask h)
  case windowClose => exact outWf_next (wf_closeWindow h)
  case windowResultDelivery => exact outWf_next (wf_deliverAll h)
  case quantumDeadlock => exact outWf_next (wf_quantumDeadlock h)
  case watchdog => exact outWf_next (wf_watchdog h)
  case timer => exact outWf_next (wf_timerDeliver h)
  case ticketGap | tfenceGapExpiry | tktLoadGapExpiry | optWaitGapExpiry => exact wf_expire h
  case sendStall => exact outWf_ite (wf_resume h) (outWf_next h)
  case clockGate | instructionCompletion | gangMmaCompletion | interlockedResult => exact outWf_next h
  case decodeTrap => exact wf_keepCur (wf_runFetched (fun _ _ h => outWf_next h) h)
  case handlerEntry => exact outWf_next (wf_handlerEntry h)
  case fatalStop => exact outWf_next (wf_fatalStopRecord h)
  case userInterruptDelivery => exact outWf_next (wf_interruptDeliver h)
  case preEmption => exact outWf_next (wf_acceptPreempt h)
  case haltComplete => exact outWf_next (wf_haltComplete h)
  case spill => exact outWf_next (wf_ite (wf_spillCtx h) h)
  case restore => exact outWf_next (wf_ite (wf_restoreCtx h) h)
  case coreFailure => exact outWf_next (wf_coreFailure h)
  case rowRemap => exact outWf_next (wf_ite (wf_rowRemap h) h)
  case laneFailure => exact outWf_next (wf_ite (wf_laneFailure h) h)
  case retransmissionRequest => exact outWf_next (wf_resendFrom h)
  case messageArrival => exact outWf_ite (wf_resume h) (outWf_next (wf_messageArrival h))
  case pushApply => exact outWf_next (wf_pushApply h)
  case slotReturn => exact outWf_next (wf_slotReturn h)
  case copyComplete | gatherComplete => exact outWf_next (wf_completeCmd h)
  case exchangeComplete => exact outWf_next (wf_exchangeComplete h)
  case enginePageFault => exact outWf_next (wf_pageFault h)
  case engineGranuleWaitEnd => exact outWf_next (wf_engineMove h)
  case lockWaitEnd | fullEmptyWaitEnd | versionWaitEnd | reclaimWaitEnd | phaseWaitEnd | ticketRetry | homeBankAccess |
      mutexRetry =>
    exact wf_resume h
  case barrierRelease => exact outWf_next (wf_releaseBarrier h)
  case eventSignalLanding => exact outWf_next (wf_landSignal h)
  case recordPoolAnswer => exact outWf_next (wf_poolAnswer h)
  case cardStart => exact outWf_next (wf_cardStart h)
  case cardComplete => exact outWf_next (wf_cardComplete h)
  case strainerAction => exact outWf_next (wf_strainerAction h)
  case traceFilterRun => exact outWf_next (wf_ite (wf_traceRun h) h)

theorem wf_step (h : MemoriesWf s) : OutWf (step s) := wf_stepWith (fun _ _ h => wf_exec h) h

end

/-- Settles O57: the step is a move with the meanings of exec, and each of them keeps the memories canonical (wf_exec). -/
theorem memoriesKept : Obligations.MemoriesKept := fun _ t h e => wf_step h t e

end Sys2Proof.Machine
end

section
/-! PROOF. What reset leaves (O56): its fields are given by State.reset, and power-on of a healthy module ends READY (powerOn_healthy). -/

namespace Sys2Proof.Machine

/-- The first step after reset is power-on. -/
theorem step_reset : step State.reset = .next (powerOn { State.reset with agenda := [], input := {} }) := rfl

theorem fullBit_reset (k : Nat) : fullBit State.reset k = false := show (0#8).getLsbD 7 = false from rfl

/-- Settles O56: every part is read off State.reset, but for power-on (step_reset). -/
theorem resetState : Obligations.ResetState := by
  refine ⟨⟨rfl, rfl, rfl, rfl, rfl, rfl, rfl⟩, rfl, ?_, rfl, fun _ => rfl, fun _ => rfl, fun _ => ⟨rfl, rfl, rfl, rfl, rfl⟩,
    fun k => ⟨fullBit_reset k, rfl⟩, rfl, rfl, fun _ => ⟨rfl, rfl⟩, _, step_reset, powerOn_healthy _ rfl⟩
  intro m off hoff
  rcases hoff with rfl | rfl | rfl | rfl | rfl | rfl <;> rfl

end Sys2Proof.Machine
end

section
/-! SUPPORT. The masters' registers and queues after a write, a posted event and a change of owner (R14 to R24). -/

namespace Sys2Proof.Machine

@[simp] theorem masterAt_updMaster_same (s : State) (m : Nat) (f : Master → Master) : masterAt (updMaster s m f) m = f (masterAt s m) := by
  simp [masterAt, updMaster, tgetD]

theorem masterAt_updMaster_other (s : State) {m k : Nat} (f : Master → Master) (h : k ≠ m) : masterAt (updMaster s m f) k = masterAt s k := by
  simp [masterAt, updMaster, tgetD, tget_tset_other _ _ h]

/-- What a change of one master leaves of another part of the masters that it does not touch. -/
theorem masterAt_updMaster_proj {α : Type} (p : Master → α) (s : State) (m : Nat) (f : Master → Master) (hf : ∀ x, p (f x) = p x) (k : Nat) :
    p (masterAt (updMaster s m f) k) = p (masterAt s k) := by
  by_cases h : k = m
  · subst h
    rw [masterAt_updMaster_same, hf]
  · rw [masterAt_updMaster_other s f h]

/-- A counter of DENIED rises by one up to its greatest value (R14). -/
theorem satInc_eq (x : Word) : satInc x = BitVec.ofNat 32 (min (x.toNat + 1) 0xFFFFFFFF) := by
  apply BitVec.eq_of_toNat_eq
  unfold satInc
  split
  next h => simp [h]
  next h =>
    have hne : x.toNat ≠ 0xFFFFFFFF := fun e => h (BitVec.eq_of_toNat_eq e)
    have hlt := x.isLt
    rw [BitVec.toNat_add, BitVec.toNat_ofNat]
    simp
    omega

/-- The memories are the same when they are untouched. -/
theorem sameMemory_rfl (s : State) : SameMemory s s := ⟨fun _ => rfl, fun _ => rfl, fun _ => rfl, fun _ => rfl, fun _ => rfl, rfl, rfl, rfl⟩

/-- An event that joins a master's queue, or waits for room in it, leaves its DENIED. -/
theorem denied_postTo (s : State) (m : Nat) (e : Event) (k : Nat) : (masterAt (postTo s m e) k).denied = (masterAt s k).denied :=
  masterAt_updMaster_proj Master.denied s m _ (fun x => by split <;> rfl) k

/-- Events that join the queues of masters change the masters only. -/
theorem foldl_postTo_only (who : State → Nat) (l : List Event) (s : State) :
    ∃ ms, l.foldl (fun s e => postTo s (who s) e) s = { s with masters := ms } :=
  foldl_only (fun s ms => { s with masters := ms }) (fun _ _ _ => rfl) _ (fun _ _ => ⟨_, rfl⟩) (fun _ => ⟨_, rfl⟩) l s

theorem denied_foldl_postTo (who : State → Nat) (l : List Event) (s : State) (k : Nat) :
    (masterAt (l.foldl (fun s e => postTo s (who s) e) s) k).denied = (masterAt s k).denied := by
  induction l generalizing s with
  | nil => rfl
  | cons e l ih => exact (ih _).trans (denied_postTo s _ e k)

/-- Module events that waited for an owner go to the new one; nothing but the queues changes (R24). -/
theorem handOver_only (s : State) : ∃ ms q, handOver s = { s with masters := ms, moduleq := q } := by
  unfold handOver
  split
  · exact ⟨_, _, rfl⟩
  · obtain ⟨ms, e⟩ := foldl_postTo_only (fun s => s.mgmt.ownerId.toNat) s.moduleq { s with moduleq := [] }
    exact ⟨ms, [], e⟩

theorem denied_handOver (s : State) (k : Nat) : (masterAt (handOver s) k).denied = (masterAt s k).denied := by
  unfold handOver
  split
  · rfl
  · exact denied_foldl_postTo (fun s => s.mgmt.ownerId.toNat) s.moduleq { s with moduleq := [] } k

/-- A change of owner: OWNER and EPOCH, and the queues of events (R15, R24). -/
theorem setOwner_only (s : State) (n : Nat) : ∃ ms q, setOwner s n = { s with
    mgmt := { s.mgmt with ownerId := BitVec.ofNat 4 n, epoch := s.mgmt.epoch + 1#16 }, masters := ms, moduleq := q } :=
  handOver_only _

theorem denied_setOwner (s : State) (n k : Nat) : (masterAt (setOwner s n) k).denied = (masterAt s k).denied := denied_handOver _ k

/-! ## OWNCAS (R15) -/

theorem legalCas_iff (s : State) (m e n : Nat) : legalCas s m e n = true ↔ Spec.legal s m e n := by
  have hid : validId s n = true ↔ n = 8 ∨ ∃ f ∈ s.boot.functions, n = f + 1 := by
    rw [validId, Bool.or_eq_true, decide_eq_true_iff, List.any_eq_true]
    exact or_congr_right (exists_congr fun f => and_congr_right fun _ => decide_eq_true_iff.trans eq_comm)
  simp only [legalCas, Spec.legal, Bool.or_eq_true, Bool.and_eq_true, decide_eq_true_eq, hid, or_assoc, and_assoc]
  rw [and_comm (a := n = 8 ∨ _)]

/-- The other bits of an OWNCAS word are clear. -/
theorem extractLsb'_rest_eq_zero (w : Word) : w.extractLsb' 8 24 = 0#24 ↔ w.toNat < 256 := by
  rw [← BitVec.toNat_inj, BitVec.extractLsb'_toNat, Nat.shiftRight_eq_div_pow]
  have := w.isLt
  simp
  omega

/-- OWNCAS of a READY module (R15). -/
theorem owncasWrite_ready {s : State} (hr : s.mgmt.ready = true) (m : Nat) (w : Word) :
    owncasWrite s m w =
      if w.toNat < 256 ∧ w.toNat % 16 = s.mgmt.ownerId.toNat ∧ legalCas s m (w.toNat % 16) (w.toNat / 16 % 16) = true
      then setOwner s (w.toNat / 16 % 16) else countDenied s m := by
  have he : (w.extractLsb' 0 4).toNat = w.toNat % 16 := by simp [BitVec.extractLsb'_toNat]
  have hn : (w.extractLsb' 4 4).toNat = w.toNat / 16 % 16 := by simp [BitVec.extractLsb'_toNat, Nat.shiftRight_eq_div_pow]
  simp only [owncasWrite, hr, he, hn, ne_eq, extractLsb'_rest_eq_zero]
  by_cases h : w.toNat < 256 <;> simp [h]

end Sys2Proof.Machine
end

section
/-! PROOF. OWNCAS (O38; R15). -/

namespace Sys2Proof.Machine

/-- Settles O38: OWNCAS of a READY module is a change of owner when its word is good, else a count of DENIED (owncasWrite_ready). -/
theorem ownership : Obligations.Ownership := by
  intro s hr m w e n good
  have hgood : good ↔ w.toNat < 256 ∧ e = s.mgmt.ownerId.toNat ∧ legalCas s m e n = true := by rw [legalCas_iff]
  refine ⟨fun h => ?_, fun h => ?_, ?_⟩
  · have hx : exec .owncas s = .next (setOwner s n) := congrArg _ ((owncasWrite_ready hr m w).trans (if_pos (hgood.1 h)))
    have hd := denied_setOwner s n
    obtain ⟨ms, q, e⟩ := setOwner_only s n
    rw [e] at hx hd
    refine ⟨_, hx, rfl, BitVec.eq_of_toNat_eq (by simp [BitVec.toNat_add]), ?_, hd, rfl, sameMemory_rfl s⟩
    simp [readRegister, ownerOf, hr]
  · have hx : exec .owncas s = .next (countDenied s m) := congrArg _ ((owncasWrite_ready hr m w).trans (if_neg (h ∘ hgood.2)))
    refine ⟨_, hx, rfl, ?_, fun k hk => masterAt_updMaster_other s _ hk⟩
    rw [← satInc_eq]
    simp [countDenied]
  · simp [readRegister, hr]

end Sys2Proof.Machine
end

section
/-! SUPPORT. Commands of the management complex: what serving one does, and the words of the mailbox after a write and an answer (R16,
R22, R23). -/

namespace Sys2Proof.Machine

/-! ## Mailbox words -/

@[simp] theorem mboxWord_setMbox_same (s : State) (m i : Nat) (w : Word) : mboxWord (setMbox s m i w) m i = w := by
  simp [mboxWord, setMbox]

theorem mboxWord_setMbox_other (s : State) (m : Nat) {i j : Nat} (w : Word) (h : j ≠ i) :
    mboxWord (setMbox s m i w) m j = mboxWord s m j := by
  simp [mboxWord, setMbox, sget_sset_other _ _ _ h]

theorem masterAt_setMbox_other (s : State) {m k : Nat} (i : Nat) (w : Word) (h : k ≠ m) : masterAt (setMbox s m i w) k = masterAt s k :=
  masterAt_updMaster_other s _ h

/-- The results of a command go to the words from 3 on (R22). -/
def putResults (s : State) (m : Nat) (results : List Word) (n : Nat) : State :=
  (List.range n).foldl (fun s j => setMbox s m (3 + j) (results.getD j 0#32)) s

theorem putResults_succ (s : State) (m : Nat) (results : List Word) (n : Nat) :
    putResults s m results (n + 1) = setMbox (putResults s m results n) m (3 + n) (results.getD n 0#32) := by
  simp [putResults, List.range_succ]

theorem answerMbox_eq (s : State) (m status : Nat) (results : List Word) : answerMbox s m status results =
    setMbox { putResults (setMbox s m 1 (BitVec.ofNat 32 status)) m results results.length with
      mboxq := (putResults (setMbox s m 1 (BitVec.ofNat 32 status)) m results results.length).mboxq.filter (fun k => k != m) } m 0 0#32 :=
  rfl

theorem putResults_only (s : State) (m : Nat) (results : List Word) (n : Nat) : ∃ ms, putResults s m results n = { s with masters := ms } :=
  foldl_only (fun s ms => { s with masters := ms }) (fun _ _ _ => rfl) _ (fun _ _ => ⟨_, rfl⟩) (fun _ => ⟨_, rfl⟩) _ s

theorem masterAt_putResults_other (s : State) {m k : Nat} (results : List Word) (n : Nat) (h : k ≠ m) :
    masterAt (putResults s m results n) k = masterAt s k := by
  induction n with
  | zero => rfl
  | succ n ih => rw [putResults_succ, masterAt_setMbox_other _ _ _ h, ih]

theorem mboxWord_putResults_below (s : State) (m : Nat) (results : List Word) (n : Nat) {i : Nat} (h : i < 3) :
    mboxWord (putResults s m results n) m i = mboxWord s m i := by
  induction n with
  | zero => rfl
  | succ n ih => rw [putResults_succ, mboxWord_setMbox_other _ _ _ (by omega), ih]

theorem mboxWord_putResults (s : State) (m : Nat) (results : List Word) {n k : Nat} (h : k < n) :
    mboxWord (putResults s m results n) m (3 + k) = results.getD k 0#32 := by
  induction n with
  | zero => omega
  | succ n ih =>
    rw [putResults_succ]
    by_cases hk : k = n
    · subst hk
      exact mboxWord_setMbox_same _ _ _ _
    · rw [mboxWord_setMbox_other _ _ _ (by omega), ih (by omega)]

/-- An answer touches the masters and the queue of commands only. -/
theorem answerMbox_only (s : State) (m status : Nat) (results : List Word) :
    ∃ ms, answerMbox s m status results = { s with masters := ms, mboxq := s.mboxq.filter (fun k => k != m) } := by
  obtain ⟨ms, e⟩ := putResults_only (setMbox s m 1 (BitVec.ofNat 32 status)) m results results.length
  rw [answerMbox_eq, e]
  exact ⟨_, rfl⟩

theorem mboxWord_answerMbox_pos (s : State) (m status : Nat) (results : List Word) {i : Nat} (h : i ≠ 0) :
    mboxWord (answerMbox s m status results) m i =
      mboxWord (putResults (setMbox s m 1 (BitVec.ofNat 32 status)) m results results.length) m i := by
  rw [answerMbox_eq, mboxWord_setMbox_other _ _ _ h]
  rfl

theorem masterAt_answerMbox_other (s : State) {m k : Nat} (status : Nat) (results : List Word) (h : k ≠ m) :
    masterAt (answerMbox s m status results) k = masterAt s k := by
  rw [answerMbox_eq, masterAt_setMbox_other _ _ _ h]
  exact (masterAt_putResults_other _ _ _ h).trans (masterAt_setMbox_other _ _ _ h)

/-! ## Serving a command -/

/-- Every listed command is a command step with a meaning of its own (R23). -/
theorem exec_command {i : Instr} {code : Nat} {who : Who} {named : Bool} (h : Spec.commandRow i = some (code, who, named)) (s : State) :
    ∃ f, exec i s = serveOr s code who named f := by
  cases i
  case fwmin | create | sealPart | bind | preempt | resume | debug | dbgcont | map | unmap | pgresp | jobopen | jobmap | jobseal
      | jobclose | hload | snap | recread | idkey | retire | trace | tfilter =>
    obtain ⟨rfl, rfl, rfl⟩ := h
    dsimp only [exec, execFwmin, execCreate, execSealPart, execBind, execPreempt, execResume, execDebug, execDbgcont, execMap, execUnmap,
      execPgresp, execJobopen, execJobmap, execJobseal, execJobclose, execHload, execSnap, execRecread, execIdkey, execRetire, execTrace,
      execTfilter, jobCommand, jobCommandOr, serve]
    exact ⟨_, rfl⟩
  all_goals cases h

/-- A command step with nothing of its own to serve leaves the state. -/
theorem serveOr_idle {s : State} {code : Nat} {who : Who} {named : Bool} {f}
    (h : s.mboxq = [] ∨ s.mgmt.ready = false ∨ s.mgmt.serving ≠ none ∨ ∃ m l, s.mboxq = m :: l ∧ (mboxWord s m 2).toNat ≠ code) :
    serveOr s code who named f = .next s := by
  unfold serveOr
  split
  · rfl
  next m _ hq =>
    rw [if_pos]
    rcases h with h | h | h | ⟨n, l, hn, h⟩
    · exact absurd (hq.symm.trans h) (List.cons_ne_nil _ _)
    · exact .inl h
    · exact .inr (.inl (Option.isSome_iff_ne_none.2 h))
    · rw [hn] at hq
      cases hq
      exact .inr (.inr h)

/-- The context that a command names in argument 0. -/
def namedCtx (s : State) (m : Nat) (named : Bool) : Option Ctx := if named then ctxAt s (Spec.arg s m 0).toNat else none

/-- What serveOr asks of the issuing master. -/
def mayServe (s : State) (m : Nat) (who : Who) (x : Option Ctx) : Bool :=
  match who with
  | .owner => isOwner s m
  | .ownerOrBound => isOwner s m || (match x with
      | some x => boundTo x m
      | none => false)
  | .any => true

theorem mayServe_iff (s : State) (m : Nat) (who : Who) (x : Option Ctx) : mayServe s m who x = true ↔ Spec.mayIssue s m who x := by
  cases who with
  | owner => exact Iff.rfl
  | ownerOrBound => cases x <;> simp [mayServe, Spec.mayIssue]
  | any => simp [mayServe, Spec.mayIssue]

section
variable {s : State} {m : Nat} {l : List Nat} {code : Nat} {who : Who} {named : Bool}
  {f : State → Nat → (Nat → Word) → State × Option (Nat × List Word)}
  (hq : s.mboxq = m :: l) (hr : s.mgmt.ready = true) (hf : s.mgmt.serving = none) (hw : (mboxWord s m 2).toNat = code)
include hq hr hf hw

/-- The command at the head of the queue, of a READY module that serves none: refused, or without its context, or served. -/
theorem serveOr_head : serveOr s code who named f =
    if mayServe s m who (namedCtx s m named) = false then .next (Spec.answered s.mboxq.length (countDenied s m) m 0x03 [])
    else if named = true ∧ namedCtx s m named = none then .next (Spec.answered s.mboxq.length s m 0x82 [])
    else
      match f s m (Spec.arg s m) with
      | (s', some (st, res)) => .next (Spec.answered s.mboxq.length s' m st res)
      | (s', none) => .next s' := by
  unfold serveOr
  split
  next h => exact absurd (hq.symm.trans h) (List.cons_ne_nil _ _)
  next n _ h =>
    cases hq.symm.trans h
    exact if_neg (by simp [hr, hf, hw])

theorem serveOr_refused (h : ¬Spec.mayIssue s m who (namedCtx s m named)) :
    serveOr s code who named f = .next (Spec.answered s.mboxq.length (countDenied s m) m 0x03 []) := by
  rw [serveOr_head hq hr hf hw, if_pos (Bool.eq_false_iff.2 (fun e => h ((mayServe_iff ..).1 e)))]

theorem serveOr_no_ctx (h : Spec.mayIssue s m who (namedCtx s m named)) (hn : named = true) (hx : namedCtx s m named = none) :
    serveOr s code who named f = .next (Spec.answered s.mboxq.length s m 0x82 []) := by
  rw [serveOr_head hq hr hf hw, if_neg (by simp [(mayServe_iff ..).2 h]), if_pos ⟨hn, hx⟩]

end

/-- A command that its master may issue and whose context is there does what its own part says. -/
theorem serveOr_served {i : Instr} {s : State} {m code : Nat} {who : Who} {named : Bool}
    {f : State → Nat → (Nat → Word) → State × Option (Nat × List Word)} (h : Spec.Served i s m code who named)
    (hx : named = true → ∃ x, ctxAt s (Spec.arg s m 0).toNat = some x) : serveOr s code who named f =
      match f s m (Spec.arg s m) with
      | (s', some (st, res)) => .next (Spec.answered s.mboxq.length s' m st res)
      | (s', none) => .next s' := by
  obtain ⟨-, ⟨l, hq⟩, hr, hf, hw, hmay⟩ := h
  rw [serveOr_head hq hr hf hw, if_neg (by simp [(mayServe_iff s m who (namedCtx s m named)).2 hmay]), if_neg]
  rintro ⟨hn, e⟩
  obtain ⟨x, hx⟩ := hx hn
  simp [namedCtx, hn, hx] at e

/-- The same for a command that is answered at once. -/
theorem serve_served {i : Instr} {s : State} {m code : Nat} {who : Who} {named : Bool}
    {f : State → Nat → (Nat → Word) → State × Nat × List Word} (h : Spec.Served i s m code who named)
    (hx : named = true → ∃ x, ctxAt s (Spec.arg s m 0).toNat = some x) : serve s code who named f =
      .next (Spec.answered s.mboxq.length (f s m (Spec.arg s m)).1 m (f s m (Spec.arg s m)).2.1 (f s m (Spec.arg s m)).2.2) :=
  serveOr_served h hx

end Sys2Proof.Machine
end

section
/-! PROOF. The protocol of the mailbox (O42; R16, R22, R23). -/

namespace Sys2Proof.Machine

/-- Settles O42: every command step serves the head of the queue (exec_command), and an answer writes the mailbox (answerMbox_eq). -/
theorem mailboxProtocol : Obligations.MailboxProtocol := by
  refine ⟨fun i s code who named hrow => ?_, fun s m status results _ => ?_⟩
  · obtain ⟨f, e⟩ := exec_command hrow s
    rw [e]
    exact ⟨serveOr_idle, fun m l hq hr hf hw => ⟨serveOr_refused hq hr hf hw, serveOr_no_ctx hq hr hf hw⟩⟩
  · obtain ⟨ms, e⟩ := answerMbox_only s m status results
    refine ⟨by rw [answerMbox_eq, mboxWord_setMbox_same], ?_, fun k hk => ?_, by rw [e], by rw [e],
      fun k hk => masterAt_answerMbox_other s status results hk⟩
    · rw [mboxWord_answerMbox_pos _ _ _ _ (by omega), mboxWord_putResults_below _ _ _ _ (by omega), mboxWord_setMbox_same]
    · rw [mboxWord_answerMbox_pos _ _ _ _ (by omega), mboxWord_putResults _ _ _ hk]

end Sys2Proof.Machine
end

section
/-! SUPPORT. Register writes, and BAR2 accesses of a caddy (R6, R12, R18, R20, R24, R29). -/

namespace Sys2Proof.Machine

/-! ## Events leave their queue (R24) -/

/-- An event leaves the queue when EVPOP bit 0 is written to a READY module, and the oldest held one takes a place. -/
theorem evpopWrite_cons {s : State} {m : Nat} {v : Word} {e : Event} {rest : List Event} (hr : s.mgmt.ready = true)
    (hv : v.getLsbD 0 = true) (he : (masterAt s m).events = e :: rest) : ∃ f : Master → Master, evpopWrite s m v = updMaster s m f ∧
      (f (masterAt s m)).events = rest ++ (masterAt s m).held.take 1 ∧ (f (masterAt s m)).held = (masterAt s m).held.drop 1 := by
  refine ⟨_, if_pos (by simp [hr, hv]), ?_, ?_⟩ <;> simp only [he] <;> split <;> simp_all

theorem evpopWrite_idle {s : State} {m : Nat} {v : Word} (h : v.getLsbD 0 = false ∨ s.mgmt.ready = false) : evpopWrite s m v = s :=
  if_neg (by rcases h with h | h <;> rw [h] <;> simp)

/-! ## The doorbell (R22) -/

/-- A command that is listed, of a master with none waiting, waits at the head of an empty queue. -/
theorem doorbell_listed {s : State} {m : Nat} (hq : s.mboxq = []) (h0 : mboxWord s m 0 = 0#32) (hl : mboxListed (mboxWord s m 2) = true) :
    doorbell s m 1#32 = setMbox { s with mboxq := [m] } m 0 1#32 := by
  have hw : mboxWord (setMbox { s with mboxq := [m] } m 0 1#32) m 2 = mboxWord s m 2 := mboxWord_setMbox_other _ _ _ (by decide)
  have hset : settleMbox 1 (setMbox { s with mboxq := [m] } m 0 1#32) = setMbox { s with mboxq := [m] } m 0 1#32 :=
    if_neg (by rw [hw, hl]; simp)
  rw [doorbell, if_neg (by simp [h0]), if_pos rfl, hq]
  exact hset

/-! ## Rows that a caddy access opens -/

theorem openCaddy_only (s : State) (c : Nat) (x : Ctx) (b n : Nat) : ∃ r, openCaddy s c x b n = { s with rowOpen := r } :=
  foldl_only (fun s r => { s with rowOpen := r }) (fun _ _ _ => rfl) _ (fun _ _ => ⟨_, rfl⟩) (fun _ => ⟨_, rfl⟩) _ s

/-! ## A write of a caddy (R18, R29) -/

/-- Every byte of the write takes its value but those of STATUS and LASTSEQ; no other byte changes. -/
theorem read_writeOpen (x : Ctx) (mem : Memory) (k b : Nat) (bs : List Byte) (a : Nat) : (writeOpen x mem k b bs).read a =
    if k ≤ a ∧ a < k + bs.length ∧ statusByte x (b + (a - k)) = false then bs.getD (a - k) 0#8 else mem.read a := by
  induction bs generalizing mem k b with
  | nil => exact (if_neg (fun h => by simp at h; omega)).symm
  | cons v vs ih =>
    rw [writeOpen, ih]
    rcases Nat.lt_trichotomy a k with h | rfl | h
    · have h1 (P : Prop) : ¬(k + 1 ≤ a ∧ P) := fun h1 => by omega
      have h2 (P : Prop) : ¬(k ≤ a ∧ P) := fun h1 => by omega
      rw [if_neg (h1 _), if_neg (h2 _)]
      split
      · rfl
      · exact Memory.read_write_other _ _ (by omega)
    · rw [if_neg (fun h1 => by omega)]
      by_cases hs : statusByte x b = true <;> simp [hs]
    · have e1 : b + 1 + (a - (k + 1)) = b + (a - k) := by omega
      have e2 : (if statusByte x b = true then mem else mem.write k v).read a = mem.read a := by
        split
        · rfl
        · exact Memory.read_write_other _ _ (by omega)
      have e3 : (v :: vs).getD (a - k) 0#8 = vs.getD (a - (k + 1)) 0#8 := by
        rw [show a - k = a - (k + 1) + 1 by omega]
        rfl
      rw [e1, e2, e3]
      exact if_congr ⟨fun ⟨h1, h2, h3⟩ => ⟨by omega, by simp; omega, h3⟩, fun ⟨h1, h2, h3⟩ => ⟨by omega, by simp at h2; omega, h3⟩⟩ rfl rfl

section
variable {s : State} {m : Nat} {off : Nat} {bs : List Byte}

theorem bar2Write_none (h : ctxAt s (off / 2 ^ 30) = none) : bar2Write s m off bs = countDenied s m := by
  simp only [bar2Write, h]

variable {x : Ctx} (hx : ctxAt s (off / 2 ^ 30) = some x)
include hx

theorem bar2Write_dropped (h : boundTo x m = false ∨ ∃ k < bs.length, x.clen ≤ off % 2 ^ 30 + k ∨ liveCode x (off % 2 ^ 30 + k) = true) :
    bar2Write s m off bs = countDenied s m := by
  simp only [bar2Write, hx]
  by_cases h1 : boundTo x m = false ∨ ∃ k < bs.length, x.clen ≤ off % 2 ^ 30 + k
  · exact if_pos (h1.imp_right fun ⟨k, hk, e⟩ =>
      List.any_eq_true.2 ⟨_, List.mem_map.2 ⟨k, List.mem_range.2 hk, rfl⟩, decide_eq_true e⟩)
  · split
    · rfl
    · rcases h with h | ⟨k, hk, h | h⟩
      · exact absurd (.inl h) h1
      · exact absurd (.inr ⟨k, hk, h⟩) h1
      · exact if_pos (List.any_eq_true.2 ⟨_, List.mem_map.2 ⟨k, List.mem_range.2 hk, rfl⟩, h⟩)

/-- A write that the caddy takes, of no byte beyond it and none of the code of a released record. -/
theorem bar2Write_taken (hb : boundTo x m = true) (h : ∀ k < bs.length, off % 2 ^ 30 + k < x.clen ∧ liveCode x (off % 2 ^ 30 + k) = false) :
    (bar2Write s m off bs).caddy = writeOpen x s.caddy off (off % 2 ^ 30) bs ∧ (bar2Write s m off bs).slice = s.slice ∧
      (bar2Write s m off bs).dram = s.dram ∧ (bar2Write s m off bs).masters =
        if ((List.range bs.length).map (fun i => off % 2 ^ 30 + i)).any (statusByte x) = true then (countDenied s m).masters else s.masters := by
  have h1 : ¬(boundTo x m = false ∨ ((List.range bs.length).map (fun i => off % 2 ^ 30 + i)).any (fun o => decide (x.clen ≤ o)) = true) := by
    simp only [hb, List.any_map, List.any_eq_true, List.mem_range, Function.comp, decide_eq_true_eq]
    rintro (h1 | ⟨k, hk, h1⟩)
    · cases h1
    · exact absurd (h k hk).1 (Nat.not_lt.2 h1)
  have h2 : ¬((List.range bs.length).map (fun i => off % 2 ^ 30 + i)).any (liveCode x) = true := by
    simp only [List.any_map, List.any_eq_true, List.mem_range, Function.comp]
    rintro ⟨k, hk, h1⟩
    exact Bool.false_ne_true ((h k hk).2.symm.trans h1)
  obtain ⟨r, e⟩ := openCaddy_only { s with caddy := writeOpen x s.caddy off (off % 2 ^ 30) bs } (off / 2 ^ 30) x (off % 2 ^ 30) bs.length
  simp only [bar2Write, hx]
  rw [if_neg h1, if_neg h2, e]
  refine ⟨?_, ?_, ?_, ?_⟩
  · simp only [apply_ite State.caddy, updCtx_caddy, ite_self]
    exact ite_self _
  · simp only [apply_ite State.slice, updCtx_slice, ite_self]
    exact ite_self _
  · simp only [apply_ite State.dram, updCtx_dram, ite_self]
    exact ite_self _
  · simp only [apply_ite State.masters, updCtx_masters, ite_self]
    rfl

end

end Sys2Proof.Machine
end

section
/-! PROOF. Owner loss, register writes and BAR2 accesses (O39; R6, R8, R9, R12, R17, R18, R20, R22, R24, R29). -/

namespace Sys2Proof.Machine

theorem ownerLoss : Spec.OwnerLoss := by
  intro s m
  refine ⟨fun h => ?_, fun hm ho hp => ?_, fun h => ?_, ?_⟩
  · exact congrArg _ (if_pos (.inl h))
  · have hx : exec .hostLinkDown s = .next (setOwner s 0) := if_pos ⟨hp, hm, ho⟩
    exact ⟨_, hx, rfl, rfl, rfl, rfl, sameMemory_rfl s⟩
  · refine if_neg (fun ⟨hp, hm, ho⟩ => ?_)
    rcases h with h | h | h
    · exact absurd hm (Nat.not_lt.2 h)
    · exact h ho
    · exact Bool.false_ne_true (h.symm.trans hp)
  · exact ⟨_, rfl, by rw [deniedWrite, masterAt_updMaster_same], fun k hk => masterAt_updMaster_other s _ hk, rfl⟩

theorem registerWrites_window : Spec.RegisterWrites := by
  intro s m off v e arm word_
  have hexec : exec .registerWrite s = .next (registerWrite s m off s.input.width s.input.value) := rfl
  refine ⟨fun ha hf => ?_, fun hw => ⟨fun ho => ?_, fun ho => ?_, fun ho => ?_⟩, fun hw hr => ⟨fun ho => ?_, fun h1 h2 h3 => ?_,
    fun ho hq h0 hv hl => ?_⟩, fun ha hw => ?_, fun ha h1 h2 h3 h => ?_, fun h => ?_, fun f rest hr hv he => ?_⟩
  · show _ = Host.Outcome.next (armWrite s m s.input.value s.input.flag)
    rw [hexec, registerWrite, if_pos ha, hf]
  · rw [hexec, hw, ho]
    rfl
  · rw [hexec, hw, ho]
    rfl
  · rw [hexec, hw, ho]
    rfl
  · have hx : registerWrite s m 0x0304 4 s.input.value = evpopWrite s m v := by
      simp only [registerWrite, hr]
      rfl
    rw [hexec, hw, ho, hx]
    rfl
  · have hx : registerWrite s m off 4 s.input.value = setMbox s m ((off - 0x0200) / 4) v := by
      rw [registerWrite, if_neg (by omega), if_neg (by simp), if_neg (by omega), if_neg (by omega), if_neg (by omega),
        if_neg (by simp [hr]), if_neg (by omega), if_pos ⟨h1, h2, h3⟩]
    rw [hexec, hw, hx]
    exact ⟨_, rfl, mboxWord_setMbox_same _ _ _ _, rfl, sameMemory_rfl s⟩
  · have hx : registerWrite s m 0x0200 4 s.input.value = doorbell s m v := by
      simp only [registerWrite, hr]
      rfl
    rw [hexec, hw, ho, hx, hv, doorbell_listed hq h0 hl]
    exact ⟨_, rfl, rfl, mboxWord_setMbox_same _ _ _ _, sameMemory_rfl s⟩
  · rw [hexec, registerWrite, if_neg ha, if_pos hw]
  · rw [hexec, registerWrite, if_neg ha]
    by_cases hw : s.input.width ≠ 4
    · rw [if_pos hw]
    · rw [if_neg hw, if_neg h1, if_neg h2, if_neg h3]
      by_cases hr : s.mgmt.ready = false
      · rw [if_pos hr]
      · rw [if_neg hr]
        obtain ⟨h4, h5⟩ : off ≠ 0x0304 ∧ ¬word_ := h.resolve_right hr
        rw [if_neg (fun e => h5 ⟨by omega, by omega, by omega⟩), if_neg (fun e => h5 ⟨by omega, e.2⟩), if_neg h4]
  · exact congrArg _ (evpopWrite_idle h)
  · obtain ⟨g, e1, e2, e3⟩ := evpopWrite_cons hr hv he
    have hx : exec .evpop s = .next (updMaster s m g) := congrArg Host.Outcome.next e1
    refine ⟨_, hx, ?_, ?_, fun k hk => masterAt_updMaster_other s _ hk, sameMemory_rfl s⟩
    · rw [masterAt_updMaster_same, e2]
    · rw [masterAt_updMaster_same, e3]

theorem caddyWrites : Spec.CaddyWrites := by
  intro s m bs c b
  refine ⟨fun x hx hb h => ?_, fun h => congrArg _ (bar2Write_none h), fun x hx h => congrArg _ (bar2Write_dropped hx h), fun a => ?_⟩
  · obtain ⟨hc, hs, hd, hm⟩ := bar2Write_taken hx hb h
    have hoff (k : Nat) : s.input.off + k - s.input.off = k := by omega
    refine ⟨_, rfl, fun k hk => ?_, fun a ha => ?_, hs, hd, ?_⟩
    · rw [hc, read_writeOpen, hoff]
      by_cases hst : statusByte x (b + k) = true
      · rw [if_pos hst, if_neg (fun h => Bool.false_ne_true (h.2.2.symm.trans hst))]
      · rw [if_neg hst, if_pos ⟨by omega, by omega, Bool.eq_false_iff.2 hst⟩]
    · rw [hc, read_writeOpen, if_neg (fun h => by omega)]
    · have hany : ((List.range bs.length).map (fun i => b + i)).any (statusByte x) = true ↔ ∃ k < bs.length, statusByte x (b + k) = true := by
        simp
      unfold masterAt
      rw [hm]
      by_cases hst : ∃ k < bs.length, statusByte x (b + k) = true
      · rw [if_pos hst, if_pos (hany.2 hst)]
        exact congrArg Master.denied (masterAt_updMaster_same s m _)
      · rw [if_neg hst, if_neg (fun e => hst (hany.1 e))]
  · unfold bar2Read
    cases hx : ctxAt s (a / 2 ^ 30) with
    | none => simp
    | some x => simp

/-- Settles O39: by the lemma of each part. -/
theorem registerWrites : Obligations.RegisterWrites := ⟨ownerLoss, registerWrites_window, caddyWrites⟩

end Sys2Proof.Machine
end

section
/-! SUPPORT. Tables read after a change of every value, and events posted (R24). -/

namespace Sys2Proof.Machine

/-- A table whose values change by f reads alike under f. -/
theorem tget_map {α β : Type} (f : α → β) (t : Table α) (k : Nat) : tget (t.map (fun e => (e.1, f e.2))) k = (tget t k).map f := by
  induction t with
  | nil => rfl
  | cons e t ih =>
    obtain ⟨k', v⟩ := e
    by_cases h : k' = k <;> simp [tget, h, ih]

/-- A key that a table gives one value only reads it. -/
theorem tget_of_mem {α : Type} {t : Table α} {k : Nat} {v : α} (h : (k, v) ∈ t) (hu : ∀ e ∈ t, e.1 = k → e.2 = v) : tget t k = some v := by
  induction t with
  | nil => cases h
  | cons e t ih =>
    obtain ⟨k', w⟩ := e
    by_cases hk : k' = k
    · rw [tget, if_pos hk, show w = v from hu (k', w) List.mem_cons_self hk]
    · rw [tget, if_neg hk]
      rcases List.mem_cons.1 h with h | h
      · exact absurd (congrArg Prod.fst h).symm hk
      · exact ih h (fun e he => hu e (List.mem_cons_of_mem _ he))

theorem mem_of_tget {α : Type} {t : Table α} {k : Nat} {v : α} (h : tget t k = some v) : (k, v) ∈ t := by
  induction t with
  | nil => cases h
  | cons e t ih =>
    obtain ⟨k', w⟩ := e
    by_cases hk : k' = k
    · simp [tget, hk] at h
      simp [hk, h]
    · rw [tget, if_neg hk] at h
      exact List.mem_cons_of_mem _ (ih h)

theorem joins_postTo {s u : State} (h : u.masters = s.masters) (m : Nat) (e : Event) : Spec.Joins s (postTo u m e) m e := by
  have hm : masterAt u m = masterAt s m := by rw [masterAt, masterAt, h]
  unfold Spec.Joins postTo
  rw [masterAt_updMaster_same, hm]
  split
  next hq => exact ⟨rfl, hq.2⟩
  next => exact ⟨rfl, rfl⟩

/-- An event of the module goes to the owner or, while there is none, to the module queue. -/
theorem posted_postModule {s u : State} (hm : u.masters = s.masters) (hq : u.moduleq = s.moduleq) (ho : u.mgmt.ownerId = s.mgmt.ownerId)
    (e : Event) : Spec.Posted s (postModule u e) none e := by
  unfold postModule
  split
  next h0 => exact ⟨fun _ => congrArg (· ++ [e]) hq, fun h => absurd (ho ▸ h0) h, nofun⟩
  next h0 => exact ⟨fun h => absurd (ho.trans h) h0, fun _ => ⟨hq, ho ▸ joins_postTo hm _ e⟩, nofun⟩

/-- An event posted changes the queues of events only. -/
theorem postModule_only (s : State) (e : Event) : ∃ ms q, postModule s e = { s with masters := ms, moduleq := q } := by
  unfold postModule
  split <;> exact ⟨_, _, rfl⟩

/-! ## Holds of a context (R358) -/

theorem mem_requestHold (x : Ctx) (h : HoldBy) : h ∈ (requestHold x h).preq ∨ h ∈ (requestHold x h).holds := by
  unfold requestHold
  split
  next hc => simpa using hc
  next => simp

theorem not_mem_dropHold (x : Ctx) (h : HoldBy) : h ∉ (dropHold x h).preq ∧ h ∉ (dropHold x h).holds := by
  unfold dropHold
  dsimp only
  split <;> simp

end Sys2Proof.Machine
end

section
/-! SUPPORT. Power-on (R9 to R12, R60, R319). -/

namespace Sys2Proof.Machine

/-- The number whose bits below n are those of f. -/
def bitSum (f : Nat → Bool) (n : Nat) : Nat := (List.range n).foldl (fun a l => a + if f l then 2 ^ l else 0) 0

theorem bitSum_succ (f : Nat → Bool) (n : Nat) : bitSum f (n + 1) = 2 ^ n * (f n).toNat + bitSum f n := by
  cases h : f n <;> simp [bitSum, List.range_succ, h, Nat.add_comm]

theorem bitSum_lt (f : Nat → Bool) (n : Nat) : bitSum f n < 2 ^ n := by
  induction n with
  | zero => exact Nat.one_pos
  | succ n ih =>
    rw [bitSum_succ, Nat.pow_succ]
    cases f n <;> simp <;> omega

theorem testBit_bitSum (f : Nat → Bool) {n k : Nat} (h : k < n) : (bitSum f n).testBit k = f k := by
  induction n with
  | zero => omega
  | succ n ih =>
    rw [bitSum_succ, Nat.testBit_two_pow_mul_add _ (bitSum_lt f n)]
    by_cases hk : k < n
    · rw [if_pos hk, ih hk]
    · obtain rfl : k = n := by omega
      cases f k <;> simp

/-- Links in service are those that passed calibration (R319). -/
theorem links_calibrate (s : State) {l : Nat} (h : l < 16) : (calibrate s).mgmt.links.getLsbD l = Spec.linkPasses s l := by
  have hsum : ((List.range 16).map (fun l => (l, calibratedLink s l))).foldl (fun a e => a + if e.2.up then 2 ^ e.1 else 0) 0 =
      bitSum (fun l => (calibratedLink s l).up) 16 := by rw [List.foldl_map]; rfl
  have hup : (calibratedLink s l).up = Spec.linkPasses s l := by
    simp [calibratedLink, Spec.linkPasses, Bool.and_assoc, beq_eq_decide]
  show (BitVec.ofNat 16 _).getLsbD l = _
  rw [hsum, BitVec.getLsbD_ofNat, testBit_bitSum _ h, hup]
  simp [h]

/-- The logical map takes the first 32 good rows of each die (R60). -/
theorem tget_rowMap (good : List (List Nat)) {d i : Nat} (hd : d < good.length) (hi : i < 32) :
    tget (rowMap good) (32 * d + i) = some (34 * d + (good.getD d []).getD i 0) := by
  refine tget_of_mem ?_ ?_
  · exact List.mem_flatMap.2 ⟨d, List.mem_range.2 hd, List.mem_map.2 ⟨i, List.mem_range.2 hi, rfl⟩⟩
  · intro e he hk
    obtain ⟨d', -, he⟩ := List.mem_flatMap.1 he
    obtain ⟨i', hi', rfl⟩ := List.mem_map.1 he
    have hi' := List.mem_range.1 hi'
    obtain rfl : d' = d := by simp only at hk; omega
    obtain rfl : i' = i := by simp only at hk; omega
    rfl

theorem length_goodRows (b : Boot) : b.goodRows.length = 4 := by simp [Boot.goodRows]

/-- The checks after those of the image (stages 4 to 8). -/
def laterError (b : Boot) : Option (Nat × Nat) :=
  if b.phodiverOk = false then some (4, 0x06)
  else if b.dramOk = false then some (6, 0x07)
  else if b.goodRows.any (fun r => decide (r.length < 32)) = true then some (7, 0x08)
  else if b.zeroOk = false then some (8, 0x09)
  else none

theorem bootError_eq (b : Boot) : Spec.bootError b =
    if b.romOk = false then some (1, 0x01)
    else
      match b.image with
      | none => some (2, 0x02)
      | some l =>
        match imageError b l with
        | some e => some (3, e)
        | none => laterError b := by
  have hrows : (∃ r ∈ b.goodRows, r.length < 32) ↔ b.goodRows.any (fun r => decide (r.length < 32)) = true := by simp
  unfold Spec.bootError laterError
  by_cases hrom : b.romOk = false
  · rw [if_pos hrom, if_pos hrom]
  · rw [if_neg hrom, if_neg hrom]
    cases b.image with
    | none => rfl
    | some l =>
      dsimp only
      unfold imageError
      split
      · rfl
      · split
        · rfl
        · split
          · rfl
          · simp only [hrows]

/-- Phodiver has been started, the key is held and the links are calibrated (stages 4 and 5). -/
def started (s : State) : State := calibrate (holdKey (setMcores s .phodiver))

/-- DRAM has been initialised (stage 6). -/
def withDram (s : State) : State := { started s with mgmt := { (started s).mgmt with dramdeg := degraded (started s) } }

/-- The rows have been mapped (stage 7). -/
def withRows (s : State) : State := { withDram s with rows := rowMap s.boot.goodRows, spares := spareMap s.boot.goodRows }

/-- Every memory has been zeroed, and the module is READY (stages 8 and 9). -/
def booted (s : State) : State :=
  { withRows s with
    slice := [], gmeta := [], conf := [], poison := [], dram := [], dpoison := [], caddy := [], spill := [], ctxs := []
    clusters := [], cores := [], marks := [], counting := [], packets := [], rowOpen := []
    boot := { s.boot with zeroed := true }
    mgmt := { (withRows s).mgmt with stage := 9#4, ready := true } }

/-- What the stage that fails finds. -/
def atFailure (s : State) : Nat → State
  | 6 => started s
  | 7 => withDram s
  | 8 => withRows s
  | _ => s

theorem powerOn_eq (s : State) : powerOn s =
    match Spec.bootError s.boot with
    | some (stage, code) => bootFail (atFailure s stage) stage code
    | none => booted s := by
  rw [bootError_eq]
  unfold powerOn laterError
  extract_lets b
  split
  · rfl
  · cases b.image with
    | none => rfl
    | some l =>
      dsimp only
      cases imageError b l with
      | some e => rfl
      | none =>
        dsimp only
        split
        · rfl
        · split
          · rfl
          · split
            · rfl
            · split <;> rfl

end Sys2Proof.Machine
end

section
/-! PROOF. Power-on and over-temperature (O37; R5, R9 to R12, R60, R319). -/

namespace Sys2Proof.Machine

theorem atFailure_mgmt (s : State) (n : Nat) : (atFailure s n).mgmt.ready = s.mgmt.ready ∧ (atFailure s n).mgmt.ownerId = s.mgmt.ownerId := by
  unfold atFailure
  split <;> exact ⟨rfl, rfl⟩

theorem powerOn_spec : Spec.PowerOn := by
  intro s
  refine ⟨fun h0 hf => ⟨powerOn s, if_pos ⟨h0, hf⟩, ?_⟩, fun h => if_neg (fun ⟨h0, hf⟩ => ?_)⟩
  · rw [powerOn_eq]
    cases h : Spec.bootError s.boot with
    | none =>
      refine ⟨rfl, rfl, hf, rfl, rfl, fun l hl => links_calibrate (holdKey (setMcores s .phodiver)) hl, rfl, rfl, rfl, rfl, rfl, rfl,
        fun d hd i hi => tget_rowMap _ (by rwa [length_goodRows]) hi⟩
    | some e => exact ⟨(atFailure_mgmt s e.1).2, rfl, rfl, rfl, (atFailure_mgmt s e.1).1⟩
  · rcases h with h | h
    · exact h h0
    · exact Bool.false_ne_true (hf.symm.trans h)

/-- The contexts after a change of each of them. -/
theorem ctxAt_of_map {s t : State} {f : Ctx → Ctx} (h : t.ctxs = s.ctxs.map (fun e => (e.1, f e.2))) (c : Nat) :
    ctxAt t c = (ctxAt s c).map f := by
  rw [ctxAt, h, tget_map]
  rfl

/-- What a context does when a sensor reads 105 °C or more. -/
def heated (x : Ctx) : Ctx := if x.runs.isEmpty then x else requestHold x .thermal

theorem heated_holds {x : Ctx} (h : x.runs ≠ []) : HoldBy.thermal ∈ (heated x).preq ∨ HoldBy.thermal ∈ (heated x).holds := by
  rw [heated, if_neg (by simpa using h)]
  exact mem_requestHold x .thermal

/-- THERM is set and every context with released records is to be pre-empted. -/
def hot (s : State) : State := { s with mgmt := { s.mgmt with therm := true }, ctxs := s.ctxs.map (fun e => (e.1, heated e.2)) }

theorem thermalTrip_eq {s : State} {t : Nat} (h : 105 ≤ t) :
    thermalTrip s t = if s.mgmt.therm then hot s else postModule (hot s) (mkEvent [0x76#32, 1#32, word t]) := by
  have hc : s.ctxs.map (fun e => if e.2.runs.isEmpty then e else (e.1, requestHold e.2 .thermal)) =
      s.ctxs.map (fun e => (e.1, heated e.2)) := by
    refine List.map_congr_left (fun e _ => ?_)
    unfold heated
    split <;> rfl
  rw [thermalTrip, if_neg (Nat.not_lt.2 h), hc]
  rfl

/-- THERM is cleared and the holds of over-temperature end. -/
def cooled (s : State) : State :=
  { s with mgmt := { s.mgmt with therm := false }, ctxs := s.ctxs.map (fun e => (e.1, dropHold e.2 .thermal)) }

theorem thermalClear_eq {s : State} {t : Nat} (h : t < 95) (ht : s.mgmt.therm = true) :
    thermalClear s t = postModule (cooled s) (mkEvent [0x76#32, 0#32, word t]) := by
  rw [thermalClear, if_neg (fun e => e.elim (Nat.not_le.2 h) (fun e => Bool.false_ne_true (e.symm.trans ht)))]
  rfl

theorem thermal : Spec.Thermal := by
  intro s temp
  refine ⟨fun ht hp => ?_, fun h => ?_, fun ht hth hp => ?_, fun h => ?_⟩
  · have hx : exec .thermalTrip s = .next (thermalTrip s temp) := congrArg Host.Outcome.next (if_pos hp)
    have hpost := posted_postModule (s := s) (u := hot s) rfl rfl rfl (mkEvent [0x76#32, 1#32, word temp])
    obtain ⟨ms, q, e⟩ := postModule_only (hot s) (mkEvent [0x76#32, 1#32, word temp])
    rw [thermalTrip_eq ht, e] at hx
    rw [e] at hpost
    have hctx (t : State) (ht : t.ctxs = (hot s).ctxs) (c : Nat) (x : Ctx) (hx : ctxAt s c = some x) (hr : x.runs ≠ []) :
        ∃ y, ctxAt t c = some y ∧ (HoldBy.thermal ∈ y.preq ∨ HoldBy.thermal ∈ y.holds) :=
      ⟨heated x, by rw [ctxAt_of_map (f := heated) ht, hx]; rfl, heated_holds hr⟩
    cases hth : s.mgmt.therm with
    | true =>
      rw [if_pos hth] at hx
      exact ⟨_, hx, rfl, hctx _ rfl, nofun, sameMemory_rfl s⟩
    | false =>
      rw [if_neg (by simp [hth])] at hx
      exact ⟨_, hx, rfl, hctx _ rfl, fun _ => hpost, sameMemory_rfl s⟩
  · refine congrArg Host.Outcome.next ?_
    rcases h with h | h
    · rw [thermalTrip, if_pos h, ite_self]
    · rw [if_neg (by simp [h])]
  · have hx : exec .thermalClear s = .next (thermalClear s temp) := congrArg Host.Outcome.next (if_pos hp)
    have hpost := posted_postModule (s := s) (u := cooled s) rfl rfl rfl (mkEvent [0x76#32, 0#32, word temp])
    obtain ⟨ms, q, e⟩ := postModule_only (cooled s) (mkEvent [0x76#32, 0#32, word temp])
    rw [thermalClear_eq ht hth, e] at hx
    rw [e] at hpost
    refine ⟨_, hx, rfl, fun c y hy => ?_, hpost, sameMemory_rfl s⟩
    rw [ctxAt_of_map (s := s) (f := (dropHold · .thermal)) rfl] at hy
    obtain ⟨x, -, rfl⟩ := Option.map_eq_some_iff.1 hy
    exact not_mem_dropHold x .thermal
  · refine congrArg Host.Outcome.next ?_
    rcases h with h | h | h
    · rw [show thermalClear s temp = s from if_pos (.inl h), ite_self]
    · rw [show thermalClear s temp = s from if_pos (.inr h), ite_self]
    · rw [if_neg (by simp [h])]

end Sys2Proof.Machine
end

section
/-! SUPPORT. What the scheduler leaves: dependence evaluation and the start scan change STATUS words of records, and nothing of a context
but its runs, queues and armings' outcomes (R36, R52 to R57). -/

namespace Sys2Proof.Machine

/-- Address a of the caddies is a byte of the STATUS word of a record of context e. -/
def inStatus (e : Nat) (x : Ctx) (a : Nat) : Prop :=
  ∃ r k, k < 4 ∧ a = caddyKey e (recoff x + 128 * r + 4 * 29) + k

/-- What no step of the scheduler changes of a context. -/
structure KeptCtx (x y : Ctx) : Prop where
  hdr     : y.hdr = x.hdr
  nextAcc : y.nextAcc = x.nextAcc
  armings : y.journal.map (fun j => (j.number, j.ridx, j.seq)) = x.journal.map (fun j => (j.number, j.ridx, j.seq))

theorem KeptCtx.refl (x : Ctx) : KeptCtx x x := ⟨rfl, rfl, rfl⟩

theorem KeptCtx.trans {x y z : Ctx} (h : KeptCtx x y) (g : KeptCtx y z) : KeptCtx x z :=
  ⟨g.hdr.trans h.hdr, g.nextAcc.trans h.nextAcc, g.armings.trans h.armings⟩

/-- Entries of the journal change their outcome, dependences or copy only. -/
theorem keptCtx_journal (x : Ctx) {f : JEntry → JEntry} (h : ∀ j, ((f j).number, (f j).ridx, (f j).seq) = (j.number, j.ridx, j.seq)) :
    KeptCtx x { x with journal := x.journal.map f } :=
  ⟨rfl, rfl, by rw [List.map_map]; exact List.map_congr_left fun j _ => h j⟩

theorem KeptCtx.recoff {x y : Ctx} (h : KeptCtx x y) : recoff y = recoff x := by
  unfold Machine.recoff hdrWord
  rw [h.hdr]

theorem KeptCtx.inStatus {x y : Ctx} (h : KeptCtx x y) (e a : Nat) : inStatus e y a ↔ inStatus e x a := by
  unfold Machine.inStatus
  rw [h.recoff]

/-- What the scheduler leaves of a state. With o = some c the dependences of context c may be evaluated; with none records only start. -/
structure Sched (o : Option Nat) (s t : State) : Prop where
  rest  : t = { s with
    ctxs := t.ctxs, clusters := t.clusters, cores := t.cores, caddy := t.caddy, rowOpen := t.rowOpen, gmeta := t.gmeta, marks := t.marks
    packets := t.packets, counting := t.counting }
  gmeta : o = none → t.gmeta = s.gmeta
  caddy : ∀ a, (∀ e x, ctxAt s e = some x → o = some e ∨ x.runs ≠ [] → ¬inStatus e x a) → t.caddy.read a = s.caddy.read a
  ctx   : ∀ e x, ctxAt s e = some x → ∃ y, ctxAt t e = some y ∧ KeptCtx x y ∧ (o ≠ some e → x.runs = [] → y.runs = [])
  none_ : ∀ e, ctxAt s e = none → ctxAt t e = none

variable {o : Option Nat} {s t u : State}

theorem Sched.trans (h : Sched o s t) (g : Sched o t u) : Sched o s u where
  rest := by
    refine g.rest.trans ?_
    conv => lhs; rw [h.rest]
  gmeta e := (g.gmeta e).trans (h.gmeta e)
  caddy a ha := by
    refine (g.caddy a fun e y hy hr hs => ?_).trans (h.caddy a ha)
    cases hx : ctxAt s e with
    | none => rw [h.none_ e hx] at hy; cases hy
    | some x =>
      obtain ⟨y', hy', hk, hruns⟩ := h.ctx e x hx
      obtain rfl : y' = y := Option.some.inj (hy'.symm.trans hy)
      refine ha e x hx ?_ ((hk.inStatus e a).1 hs)
      by_cases ho : o = some e
      · exact .inl ho
      · exact .inr fun hx => (hr.resolve_left ho) (hruns ho hx)
  ctx e x hx := by
    obtain ⟨y, hy, hk, hr⟩ := h.ctx e x hx
    obtain ⟨z, hz, hk', hr'⟩ := g.ctx e y hy
    exact ⟨z, hz, hk.trans hk', fun ho hx => hr' ho (hr ho hx)⟩
  none_ e hx := g.none_ e (h.none_ e hx)

/-- Changes of the units alone: no context, no memory. -/
theorem Sched.of_units (h : t = { s with
    clusters := t.clusters, cores := t.cores, rowOpen := t.rowOpen, marks := t.marks, packets := t.packets, counting := t.counting }) :
    Sched o s t := by
  have hc : ∀ e, ctxAt t e = ctxAt s e := fun e => by rw [h]; rfl
  refine ⟨by rw [h], fun _ => by rw [h], fun a _ => by rw [h], fun e x hx => ⟨x, (hc e).trans hx, .refl x, fun _ h => h⟩,
    fun e hx => (hc e).trans hx⟩

theorem Sched.refl (s : State) : Sched o s s := .of_units rfl

theorem sched_foldl {α : Type} {f : State → α → State} (h : ∀ s a, Sched o s (f s a)) (l : List α) (s : State) : Sched o s (l.foldl f s) := by
  induction l generalizing s with
  | nil => exact .refl s
  | cons a l ih => exact (h s a).trans (ih (f s a))

/-! ## The operations that the scheduler is made of -/

theorem sched_setCore (n : Nat) (k : Core) : Sched o s (setCore s n k) := .of_units rfl

theorem sched_updCore (n : Nat) (f : Core → Core) : Sched o s (updCore s n f) := .of_units rfl

theorem sched_updCluster (n : Nat) (f : Cluster → Cluster) : Sched o s (updCluster s n f) := .of_units rfl

@[simp] theorem ctxAt_openCaddy (s : State) (c : Nat) (x : Ctx) (b n e : Nat) : ctxAt (openCaddy s c x b n) e = ctxAt s e := by
  obtain ⟨r, h⟩ := openCaddy_only s c x b n
  rw [h]
  rfl

theorem sched_openCaddy (c : Nat) (x : Ctx) (b n : Nat) : Sched o s (openCaddy s c x b n) := by
  obtain ⟨r, h⟩ := openCaddy_only s c x b n
  rw [h]
  exact .of_units rfl

@[simp] theorem ctxAt_openRelease (s : State) (c : Nat) (x : Ctx) (i e : Nat) : ctxAt (openRelease s c x i) e = ctxAt s e := by
  simp only [openRelease, openRec, ctxAt_openCaddy]

theorem sched_openRelease (s : State) (c : Nat) (x : Ctx) (i : Nat) : Sched o s (openRelease s c x i) :=
  ((sched_openCaddy c x _ _).trans (sched_openCaddy c x _ _)).trans (sched_openCaddy c x _ _)

/-- A context takes a new value that keeps what the scheduler keeps. -/
theorem sched_setCtx {c : Nat} {x y : Ctx} (hx : ctxAt s c = some x) (hk : KeptCtx x y) (hr : o ≠ some c → x.runs = [] → y.runs = []) :
    Sched o s (setCtx s c y) where
  rest := rfl
  gmeta _ := rfl
  caddy _ _ := rfl
  ctx e z hz := by
    by_cases he : e = c
    · subst he
      obtain rfl : x = z := Option.some.inj (hx.symm.trans hz)
      exact ⟨y, ctxAt_setCtx s e y, hk, hr⟩
    · exact ⟨z, (ctxAt_setCtx_other s y he).trans hz, .refl z, fun _ h => h⟩
  none_ e hz := by
    rw [ctxAt_setCtx_other s y (fun he => by rw [he, hx] at hz; cases hz)]
    exact hz

theorem sched_updCtx {c : Nat} {f : Ctx → Ctx} (hk : ∀ x, KeptCtx x (f x)) (hr : ∀ x, o ≠ some c → x.runs = [] → (f x).runs = []) :
    Sched o s (updCtx s c f) := by
  cases hx : ctxAt s c with
  | none => simp only [updCtx, hx]; exact .refl s
  | some x => simp only [updCtx, hx]; exact sched_setCtx hx (hk x) (hr x)

/-- STATUS of a record of a context that is judged, or that has runs. -/
theorem sched_setStatus {c : Nat} {x z : Ctx} (hx : ctxAt s c = some x) (hz : KeptCtx x z) (hr : o = some c ∨ x.runs ≠ []) (i nd cause st : Nat) :
    Sched o s (setStatus s c z i nd cause st) := by
  refine (sched_openCaddy c z _ 4).trans ⟨rfl, fun _ => rfl, fun a ha => ?_, fun e y hy => ⟨y, hy, .refl y, fun _ h => h⟩, fun _ h => h⟩
  rw [setStatus, setRecWord, setCaddyW]
  refine Memory.read_writeW_other _ _ _ _ ?_
  by_contra hn
  have hx' : ctxAt (openCaddy s c z (recoff z + 128 * i + 4 * 29) 4) c = some x := (ctxAt_openCaddy ..).trans hx
  refine ha c x hx' hr ⟨i, a - caddyKey c (recoff x + 128 * i + 4 * 29), ?_⟩
  rw [hz.recoff] at hn
  omega

theorem ctxAt_setStatus (s : State) (c : Nat) (x : Ctx) (i nd cause st e : Nat) : ctxAt (setStatus s c x i nd cause st) e = ctxAt s e :=
  ctxAt_openCaddy ..

/-! ## The start scan -/

theorem sched_loadCode (c : Nat) (x : Ctx) (v : Run) (n : Nat) : Sched o s (loadCode s c x v n) := by
  unfold loadCode
  dsimp only
  split
  · exact .refl s
  · exact (sched_openCaddy c x _ _).trans (sched_setCore n _)

theorem sched_startRecord {c r : Nat} {x : Ctx} {v : Run} (hx : ctxAt s c = some x) (hr : x.runs ≠ []) : Sched o s (startRecord s c x r v) := by
  have hstatus := sched_setStatus (o := o) hx (.refl x) (.inr hr) r 0 0 3
  have hctx : ctxAt (setStatus s c x r 0 0 3) c = some x := (ctxAt_setStatus ..).trans hx
  unfold startRecord
  dsimp only
  refine .trans ?_ (sched_foldl (fun s e => ?_) _ _)
  · refine .trans ?_ (sched_foldl (fun s k => ?_) _ _)
    · exact hstatus.trans (sched_setCtx hctx ⟨rfl, rfl, rfl⟩ fun _ h => absurd h hr)
    · exact sched_updCluster k _
  · exact ((sched_loadCode c x v e.1).trans (sched_updCore e.1 _)).trans (sched_updCore e.1 _)

theorem sched_scanList (l held : List Nat) (s : State) (c : Nat) : Sched o s (scanList l held s c) := by
  induction l generalizing held s with
  | nil => exact .refl s
  | cons r l ih =>
    cases hx : ctxAt s c with
    | none => simp only [scanList, hx]; exact .refl s
    | some x =>
      cases hu : runAt x r with
      | none => simp only [scanList, hx, hu]; exact ih held s
      | some v =>
        have hr : x.runs ≠ [] := fun h => by simp [runAt, h] at hu
        simp only [scanList, hx, hu]
        split
        · exact (sched_startRecord hx hr).trans (ih held _)
        · exact ih _ s

/-- Of contexts that the scan pre-empts, only the requests change. -/
theorem sched_scanCtx (s : State) (c : Nat) : Sched o s (scanCtx s c) := by
  unfold scanCtx
  split
  · exact .refl s
  · dsimp only
    split
    · exact .refl s
    · split
      · exact sched_scanList _ _ _ _
      · split
        · refine sched_foldl (fun s e => sched_updCtx (fun y => ?_) (fun y _ h => ?_)) _ _
          · split
            · exact .refl y
            · exact ⟨rfl, rfl, rfl⟩
          · split
            · exact h
            · exact h
        · exact .refl s

/-- A context as the scan finds it. -/
def idled (x : Ctx) : Ctx :=
  if x.runs = [] then
    { x with active := false, preq := x.preq.filter (fun h => decide (h ≠ .context)), holds := x.holds.filter (fun h => decide (h ≠ .context)) }
  else x

theorem idled_runs (x : Ctx) : (idled x).runs = x.runs := by
  unfold idled
  split <;> rfl

theorem keptCtx_idled (x : Ctx) : KeptCtx x (idled x) := by
  unfold idled
  split
  · exact ⟨rfl, rfl, rfl⟩
  · exact .refl x

theorem ctxAt_dropIdle (s : State) (e : Nat) : ctxAt (dropIdle s) e = (ctxAt s e).map idled := by
  refine ctxAt_of_map (List.map_congr_left fun e _ => ?_) e
  unfold idled
  split <;> rfl

theorem sched_dropIdle (s : State) : Sched o s (dropIdle s) where
  rest := rfl
  gmeta _ := rfl
  caddy _ _ := rfl
  ctx e x hx := ⟨idled x, by rw [ctxAt_dropIdle, hx]; rfl, keptCtx_idled x, fun _ h => (idled_runs x).trans h⟩
  none_ e hx := by rw [ctxAt_dropIdle, hx]; rfl

/-- The scan starts records of contexts that have some, and judges none. -/
theorem sched_scanAll (s : State) : Sched o s (scanAll s) :=
  (sched_dropIdle s).trans (sched_foldl sched_scanCtx _ _)

/-! ## Dependence evaluation -/

theorem sched_releaseLocks (c n seq : Nat) : Sched o s (releaseLocks s c n seq) := by
  unfold releaseLocks
  refine .trans ?_ (sched_updCtx (fun _ => ?_) (fun _ _ h => ?_))
  · exact .of_units rfl
  · exact ⟨rfl, rfl, rfl⟩
  · exact h

theorem sched_withdraw (s : State) (n : Nat) : Sched o s (withdraw s n) := by
  have hsent (s : State) : Sched o s (dropSent s n) := by
    unfold dropSent
    split
    · exact .refl s
    · exact .of_units rfl
  have hcmd (s : State) : Sched o s (dropUnjoined s n) := by
    unfold dropUnjoined
    split
    · exact (sched_updCore n _).trans (sched_releaseLocks _ _ _)
    · exact .refl s
  have hqueue (s : State) : Sched o s (leaveQueues s n) := by
    unfold leaveQueues
    split
    · split
      · exact .of_units rfl
      · exact .refl s
    · exact .refl s
  have h := (hsent s).trans ((hcmd _).trans (hqueue _))
  unfold withdraw
  dsimp only
  split
  · exact h.trans (.of_units rfl)
  · exact (h.trans (.of_units rfl)).trans (sched_updCore n _)

theorem sched_addShadow (s : State) (n : Nat) : Sched o s (addShadow s n) := by
  unfold addShadow
  split
  · exact .refl s
  · refine (sched_setCore n _).trans (sched_updCtx (fun x => ?_) (fun x _ h => ?_))
    · split
      · exact ⟨rfl, rfl, rfl⟩
      · exact .refl x
    · simp only [runAt, h, tget]

section
variable {c : Nat}

/-- Only the runs and their ends touch the full bits. -/
theorem sched_unmark (s : State) (r : Nat) : Sched (some c) s (unmark s c r) := by
  refine sched_foldl (fun s e => ?_) _ _
  dsimp only
  split
  · exact .refl s
  · split
    · exact ⟨rfl, nofun, fun _ _ => rfl, fun _ x hx => ⟨x, hx, .refl x, fun _ h => h⟩, fun _ h => h⟩
    · exact .of_units rfl

theorem sched_freeRun (s : State) (x : Ctx) (r : Nat) (v : Run) : Sched (some c) s (freeRun s c x r v) := by
  refine ((sched_unmark s r).trans (sched_foldl (fun s k => ?_) _ _)).trans (sched_foldl (fun s n => ?_) _ _)
  · split
    · exact sched_updCluster k _
    · exact .refl s
  · split
    · exact (sched_withdraw s n).trans (sched_updCore n _)
    · exact .refl s

theorem keptCtx_journalEnd (x : Ctx) (i : Nat) (e : Outcome3) : KeptCtx x (journalEnd x i e) :=
  keptCtx_journal x fun j => by split <;> rfl

theorem sched_failRecord (s : State) (i cause : Nat) : Sched (some c) s (failRecord s c i cause) := by
  unfold failRecord
  split
  · exact .refl s
  · rename_i x hx
    dsimp only
    have hstatus := sched_setStatus hx (.refl x) (.inl rfl) i (recNdone s c x i) cause 5
    have hctx : ctxAt (setStatus s c x i (recNdone s c x i) cause 5) c = some x := (ctxAt_setStatus ..).trans hx
    split
    · exact hstatus.trans (sched_setCtx hctx (keptCtx_journalEnd x i _) fun h => absurd rfl h)
    · refine hstatus.trans (((sched_foldl (fun s n => ?_) _ _).trans (sched_freeRun _ x i _)).trans (sched_updCtx (fun x => ?_) fun _ h => absurd rfl h))
      · split
        · exact sched_addShadow s n
        · exact .refl s
      · exact (keptCtx_journalEnd x i .failed).trans ⟨rfl, rfl, rfl⟩

theorem sched_releaseRecord {x y : Ctx} (hx : ctxAt s c = some x) (hk : KeptCtx x y) (i accNo : Nat) (k : Kept) :
    Sched (some c) s (releaseRecord s c y i accNo k) := by
  have hctx : ctxAt (setStatus s c y i 0 0 2) c = some x := (ctxAt_setStatus ..).trans hx
  refine (sched_setStatus hx hk (.inl rfl) i 0 0 2).trans (sched_setCtx hctx (hk.trans ?_) fun h => absurd rfl h)
  exact (keptCtx_journal y fun j => by split <;> rfl).trans ⟨rfl, rfl, rfl⟩

theorem sched_evalRecord (s : State) (j : JEntry) : Sched (some c) s (evalRecord s c j) := by
  unfold evalRecord
  split
  · exact .refl s
  · rename_i x hx
    dsimp only
    have hdeps : KeptCtx x (rememberDeps x j.ridx (recWord s c x j.ridx)) := keptCtx_journal x fun j => by split <;> rfl
    generalize rememberDeps x j.ridx (recWord s c x j.ridx) = y at hdeps
    have hopen : Sched (some c) s (openRec s c y j.ridx) := sched_openCaddy c y _ _
    have hctx : ctxAt (openRec s c y j.ridx) c = some x := (ctxAt_openCaddy ..).trans hx
    have hrelease := hopen.trans (sched_openRelease _ c y j.ridx)
    have hctx' : ctxAt (openRelease (openRec s c y j.ridx) c y j.ridx) c = some x := (ctxAt_openRelease ..).trans hctx
    split
    · exact .refl s
    · split
      · split
        · exact .refl s
        · exact sched_releaseRecord hx (.refl x) _ _ _
      · split
        · exact hopen.trans (sched_setCtx hctx hdeps fun h => absurd rfl h)
        · split
          · exact hrelease.trans (sched_releaseRecord hctx' hdeps _ _ _)
          · exact hrelease.trans ((sched_setCtx hctx' hdeps fun h => absurd rfl h).trans (sched_failRecord _ _ _))

theorem sched_evalPasses (k : Nat) (s : State) (c : Nat) : Sched (some c) s (evalPasses k s c) := by
  induction k generalizing s with
  | zero => exact .refl s
  | succ k ih =>
    refine Sched.trans ?_ (ih (evalPass s c))
    unfold evalPass
    split
    · exact .refl s
    · exact sched_foldl sched_evalRecord _ _

/-- Evaluation of the dependences of context c, then the start scan. -/
theorem sched_reschedule (s : State) (c : Nat) : Sched (some c) s (reschedule s c) := by
  unfold reschedule
  split
  · exact sched_scanAll s
  · exact (sched_evalPasses _ s c).trans (sched_scanAll _)

end

end Sys2Proof.Machine
end

section
/-! SUPPORT. A warm reset (R13, R66, R402). -/

namespace Sys2Proof.Machine

/-- What every step of a fold keeps, and one of them brings about, holds after it. -/
theorem foldl_brings {α : Type} {P : State → Prop} {g : State → α → State} {l : List α} {a : α} (ha : a ∈ l) (hb : ∀ s, P (g s a))
    (hk : ∀ s, ∀ b ∈ l, P s → P (g s b)) (s : State) : P (l.foldl g s) := by
  have keeps (l' : List α) (hl : ∀ b ∈ l', b ∈ l) (s : State) (h : P s) : P (l'.foldl g s) := by
    induction l' generalizing s with
    | nil => exact h
    | cons b l' ih => exact ih (fun b' h' => hl b' (.tail b h')) _ (hk s b (hl b (.head l')) h)
  obtain ⟨l1, l2, rfl⟩ := List.append_of_mem ha
  rw [List.foldl_append, List.foldl_cons]
  exact keeps l2 (fun b h => by simp [h]) _ (hb _)

/-- The caddies and the open rows of a state take new values. -/
def putCaddy (s : State) (b : Memory × Table Nat) : State := { s with caddy := b.1, rowOpen := b.2 }

/-- A fold of updates of the caddies and the open rows is one. -/
theorem foldl_putCaddy {α : Type} {g : State → α → State} (h : ∀ s a, ∃ b, g s a = putCaddy s b) (l : List α) (s : State) :
    ∃ b, l.foldl g s = putCaddy s b :=
  foldl_only putCaddy (fun _ _ _ => rfl) g h (fun s => ⟨(s.caddy, s.rowOpen), rfl⟩) l s

theorem setRecWord_only (s : State) (c : Nat) (x : Ctx) (i w : Nat) (q : Word) : ∃ b, setRecWord s c x i w q = putCaddy s b := by
  obtain ⟨r, h⟩ := openCaddy_only s c x (recoff x + 128 * i + 4 * w) 4
  rw [setRecWord, h]
  exact ⟨(_, r), rfl⟩

theorem setStatus_only (s : State) (c : Nat) (x : Ctx) (i nd cause st : Nat) : ∃ b, setStatus s c x i nd cause st = putCaddy s b :=
  setRecWord_only s c x i 29 _

theorem rearmRecords_only (s : State) (c : Nat) (x : Ctx) : ∃ b, rearmRecords s c x = putCaddy s b := by
  unfold rearmRecords
  refine foldl_putCaddy (fun s e => ?_) x.runs s
  exact setStatus_only s c x e.1 0 0 1

theorem warmContexts_only (s : State) :
    ∃ b, warmContexts s = { putCaddy s b with ctxs := s.ctxs.map (fun e => (e.1, warmCtx e.2)) } := by
  obtain ⟨b, h⟩ := foldl_putCaddy (fun s (e : Nat × Ctx) => rearmRecords_only s e.1 e.2) s.ctxs s
  exact ⟨b, by rw [warmContexts, h]; rfl⟩

/-- STATUS of record r after that of record i is set. -/
theorem recWord_setStatus (s : State) (c : Nat) (x : Ctx) (r i nd cause st : Nat) :
    recWord (setStatus s c x i nd cause st) c x r 29 =
      if r = i then BitVec.ofNat 32 (nd * 256 + cause * 16 + st) else recWord s c x r 29 := by
  obtain ⟨rows, h⟩ := openCaddy_only s c x (recoff x + 128 * i + 4 * 29) 4
  rw [setStatus, setRecWord, h]
  split
  · subst r
    exact readW_writeW _ _ _
  · refine congrArg (BitVec.ofNat 32) (readLE_congr _ _ fun j h1 h2 => Memory.read_writeW_other _ _ _ _ ?_)
    unfold caddyKey at h1 h2 ⊢
    omega

theorem recWord_rearmRecords {c r : Nat} {x : Ctx} {u : Run} (h : tget x.runs r = some u) (s : State) :
    recWord (rearmRecords s c x) c x r 29 = 1#32 := by
  refine foldl_brings (P := fun s => recWord s c x r 29 = 1#32) (mem_of_tget h) (fun s => ?_) (fun s e _ hs => ?_) s
  · rw [recWord_setStatus, if_pos rfl]
  · rw [recWord_setStatus]
    split
    · rfl
    · exact hs

theorem recWord_warmContexts {s : State} {c r : Nat} {x : Ctx} {u : Run} (hx : ctxAt s c = some x)
    (hs : ∀ e ∈ s.ctxs, e = (c, x) ∨ e.2.runs = []) (h : tget x.runs r = some u) : recWord (warmContexts s) c x r 29 = 1#32 := by
  refine foldl_brings (P := fun s => recWord s c x r 29 = 1#32) (mem_of_tget hx) (recWord_rearmRecords h) (fun t e he ht => ?_) s
  rcases hs e he with rfl | hr
  · exact recWord_rearmRecords h t
  · rw [rearmRecords, hr]
    exact ht

/-- A failed DRAM lane changes the spare lanes and DRAM-DEGRADED only. -/
def putLanes (s : State) (b : List Nat × Bool) : State := { s with dspare := b.1, mgmt := { s.mgmt with dramdeg := b.2 } }

theorem replaceLanes_only (l : List (Bool × Nat × Nat)) (s : State) : ∃ b, l.foldl replaceLane s = putLanes s b := by
  refine foldl_only putLanes (fun _ _ _ => rfl) _ (fun s e => ?_) (fun s => ⟨(s.dspare, s.mgmt.dramdeg), rfl⟩) l s
  unfold replaceLane
  split
  · exact ⟨(_, _), rfl⟩
  · exact ⟨(s.dspare, s.mgmt.dramdeg), rfl⟩

/-- STAGE, READY and WARM at the beginning of a warm reset. -/
def resetBegun (s : State) : State := { s with mgmt := { s.mgmt with stage := 5#4, ready := false, warm := true } }

/-- The units at the beginning of a warm reset. -/
def unitsIdled (s : State) : State :=
  { s with lanes := [], counting := [], packets := [], cores := s.cores.map (fun e => (e.1, idleCore e.2)) }

theorem warmReset_eq (s : State) :
    ∃ b, warmReset s = putLanes (unitsIdled (warmContexts (resetBegun s))) b :=
  replaceLanes_only _ _

end Sys2Proof.Machine
end

section
/-! PROOF. Cold and warm reset (O37; R8, R9, R13, R66, R402, R410). -/

namespace Sys2Proof.Machine

/-! ## A cold reset -/

theorem coldReset_spec (s : State) : ∃ t : State, exec .coldReset s = .next t ∧ t.ctxs = [] ∧ t.slice = [] ∧ t.dram = [] ∧ t.caddy = [] ∧
    t.spill = [] ∧ t.mgmt.ownerId = 0#4 ∧ t.boot.fusedMin = s.boot.fusedMin ∧ t.snapSeq = s.snapSeq ∧ t.serial = s.serial := by
  refine ⟨_, rfl, ?_⟩
  rw [powerOn_eq]
  split
  · rename_i stage code _
    unfold atFailure
    split <;> exact ⟨rfl, rfl, rfl, rfl, rfl, rfl, rfl, rfl, rfl⟩
  · exact ⟨rfl, rfl, rfl, rfl, rfl, rfl, rfl, rfl, rfl⟩

/-! ## The beginning of a warm reset -/

section
variable {s : State} {m : Nat} {w : Word}

theorem mctlWrite_denied (h : s.mgmt.ready = false ∨ isOwner s m = false) : mctlWrite s m w = countDenied s m := by
  unfold mctlWrite
  split
  · rfl
  next hr => exact if_pos (h.resolve_left hr)

theorem mctlWrite_owner (hr : s.mgmt.ready = true) (ho : isOwner s m = true) : mctlWrite s m w = if w.getLsbD 0 then warmReset s else s := by
  simp [mctlWrite, hr, ho]

end

theorem warmCtx_keeps (x : Ctx) : (warmCtx x).runs = [] ∧ (warmCtx x).pages = x.pages ∧
    (warmCtx x).journal.map (·.number) = x.journal.map (·.number) := by
  refine ⟨rfl, rfl, ?_⟩
  show (keepCopies x).map _ = _
  rw [keepCopies, List.map_map]
  refine List.map_congr_left fun j _ => ?_
  simp only [Function.comp]
  split
  · split <;> rfl
  · rfl

/-- What a warm reset leaves as it is, or sets. -/
theorem warmReset_begins (s : State) : let t := warmReset s
    t.mgmt.ready = false ∧ t.mgmt.warm = true ∧ t.mgmt.stage = 5#4 ∧ t.mgmt.therm = s.mgmt.therm ∧ t.mgmt.ownerId = s.mgmt.ownerId ∧
      t.mgmt.epoch = s.mgmt.epoch ∧ t.slice = s.slice ∧ t.dram = s.dram ∧ t.dpoison = s.dpoison ∧ t.masters = s.masters ∧
      t.ctxs = s.ctxs.map (fun e => (e.1, warmCtx e.2)) ∧ t.caddy = (warmContexts (resetBegun s)).caddy := by
  obtain ⟨b, h⟩ := warmReset_eq s
  obtain ⟨b', h'⟩ := warmContexts_only (resetBegun s)
  dsimp only
  rw [h, h']
  exact ⟨rfl, rfl, rfl, rfl, rfl, rfl, rfl, rfl, rfl, rfl, rfl, rfl⟩

/-! ## Its stages -/

/-- What the stages of a warm reset leave: owner, THERM, DRAM and the logical map. -/
structure StageKept (s t : State) : Prop where
  ownerId : t.mgmt.ownerId = s.mgmt.ownerId
  therm   : t.mgmt.therm = s.mgmt.therm
  dram    : t.dram = s.dram
  dpoison : t.dpoison = s.dpoison
  rows    : t.rows = s.rows

theorem StageKept.trans {s t u : State} (h : StageKept s t) (g : StageKept t u) : StageKept s u :=
  ⟨g.ownerId.trans h.ownerId, g.therm.trans h.therm, g.dram.trans h.dram, g.dpoison.trans h.dpoison, g.rows.trans h.rows⟩

theorem settleMbox_only (k : Nat) (s : State) : ∃ ms q, settleMbox k s = { s with masters := ms, mboxq := q } := by
  induction k generalizing s with
  | zero => exact ⟨s.masters, s.mboxq, rfl⟩
  | succ k ih =>
    unfold settleMbox
    split
    · exact ⟨s.masters, s.mboxq, rfl⟩
    · split
      · rename_i m _ _ _
        obtain ⟨ms, e⟩ := answerMbox_only s m 0x02 []
        obtain ⟨ms', q', e'⟩ := ih (answerMbox s m 0x02 [])
        rw [e', e]
        exact ⟨ms', q', rfl⟩
      · exact ⟨s.masters, s.mboxq, rfl⟩

theorem answerPreempt_keeps (s : State) (c : Nat) :
    StageKept s (answerPreempt s c) ∧ (answerPreempt s c).mgmt.ready = s.mgmt.ready := by
  unfold answerPreempt
  split
  · exact ⟨⟨rfl, rfl, rfl, rfl, rfl⟩, rfl⟩
  · split
    · rename_i m _ _ _
      obtain ⟨ms, e⟩ := answerMbox_only { s with mgmt := { s.mgmt with serving := none } } m 0x00 []
      obtain ⟨ms', q', e'⟩ := settleMbox_only s.mboxq.length (answerMbox { s with mgmt := { s.mgmt with serving := none } } m 0x00 [])
      rw [e', e]
      exact ⟨⟨rfl, rfl, rfl, rfl, rfl⟩, rfl⟩
    · exact ⟨⟨rfl, rfl, rfl, rfl, rfl⟩, rfl⟩

theorem reschedule_keeps (s : State) (c : Nat) : StageKept s (reschedule s c) ∧ (reschedule s c).mgmt.ready = s.mgmt.ready := by
  rw [(sched_reschedule s c).rest]
  exact ⟨⟨rfl, rfl, rfl, rfl, rfl⟩, rfl⟩

theorem foldl_keeps {α : Type} {g : State → α → State} (h : ∀ s a, StageKept s (g s a) ∧ (g s a).mgmt.ready = s.mgmt.ready)
    (l : List α) (s : State) : StageKept s (l.foldl g s) ∧ (l.foldl g s).mgmt.ready = s.mgmt.ready :=
  List.foldlRecOn l g (motive := fun t => StageKept s t ∧ t.mgmt.ready = s.mgmt.ready) ⟨⟨rfl, rfl, rfl, rfl, rfl⟩, rfl⟩
    fun t ht a _ => ⟨ht.1.trans (h t a).1, (h t a).2.trans ht.2⟩

theorem warmReady_keeps (s : State) : StageKept s (warmReady s) ∧ (warmReady s).mgmt.ready = true := by
  unfold warmReady
  extract_lets g t u
  have ht : StageKept s t ∧ t.mgmt.ready = true := ⟨⟨rfl, rfl, rfl, rfl, rfl⟩, rfl⟩
  have hu := foldl_keeps reschedule_keeps (t.ctxs.map Prod.fst) t
  have hv := foldl_keeps (g := fun s c => match ctxAt s c with
    | some x => if x.holds.contains .preempt then answerPreempt s c else s
    | none => s) (fun s c => ?_) (u.ctxs.map Prod.fst) u
  · exact ⟨(ht.1.trans hu.1).trans hv.1, hv.2.trans (hu.2.trans ht.2)⟩
  · split
    · split
      · exact answerPreempt_keeps s c
      · exact ⟨⟨rfl, rfl, rfl, rfl, rfl⟩, rfl⟩
    · exact ⟨⟨rfl, rfl, rfl, rfl, rfl⟩, rfl⟩

section
variable {s : State} (hw : warming s = true)
include hw

theorem warmStage_calibration (h : s.mgmt.stage = 5#4) : warmStage s = toStage (reroute (calibrate s)) 6#4 := by
  simp [warmStage, hw, h]

theorem warmStage_dram (h : s.mgmt.stage = 6#4) : warmStage s = if s.boot.dramOk = false then bootFail s 6 0x07
    else toStage { s with mgmt := { s.mgmt with dramdeg := degraded s }, rowOpen := [] } 7#4 := by
  simp [warmStage, hw, h]

theorem warmStage_map (h : s.mgmt.stage = 7#4) : warmStage s = toStage s 8#4 := by
  simp [warmStage, hw, h]

theorem warmStage_zero (h : s.mgmt.stage = 8#4) : warmStage s = if s.boot.zeroOk = false then bootFail s 8 0x09
    else toStage { s with slice := [], gmeta := [], conf := [], poison := [], clusters := [], marks := [] } 9#4 := by
  simp [warmStage, hw, h]

theorem warmStage_last (h : s.mgmt.stage = 9#4) : warmStage s = warmReady s := by
  simp [warmStage, hw, h]

theorem warmStage_keeps : StageKept s (warmStage s) := by
  unfold warmStage
  rw [if_neg (by simp [hw])]
  split
  · exact ⟨rfl, rfl, rfl, rfl, rfl⟩
  · split <;> exact ⟨rfl, rfl, rfl, rfl, rfl⟩
  · exact ⟨rfl, rfl, rfl, rfl, rfl⟩
  · split <;> exact ⟨rfl, rfl, rfl, rfl, rfl⟩
  · exact (warmReady_keeps s).1

end

theorem resets : Spec.Resets := by
  intro s
  refine ⟨coldReset_spec s, fun hr ho => ⟨fun hb => ?_, fun hb => ?_⟩, fun h => congrArg Host.Outcome.next (mctlWrite_denied h),
    fun l ha hwarm hr hp => ?_⟩
  · have hx : exec .warmReset s = .next (warmReset s) := congrArg Host.Outcome.next ((mctlWrite_owner hr ho).trans (if_pos (by simpa using hb)))
    obtain ⟨h1, h2, h3, h4, h5, h6, h7, h8, h9, h10, hctxs, hcaddy⟩ := warmReset_begins s
    refine ⟨_, hx, h1, h2, h3, h4, h5, h6, h7, h8, h9, h10, fun c x hc => ⟨⟨warmCtx x, ?_, warmCtx_keeps x⟩, fun hs r u hu => ?_⟩⟩
    · rw [ctxAt_of_map hctxs, hc]
      rfl
    · rw [recWord, caddyW, hcaddy]
      exact recWord_warmContexts (s := resetBegun s) hc hs hu
  · exact congrArg Host.Outcome.next ((mctlWrite_owner hr ho).trans (if_neg (by simpa using hb)))
  · have hstep : step s = .next (warmStage { s with agenda := l }) := by
      rw [step, stepWith, ha]
      rfl
    have hw : warming { s with agenda := l } = true := by
      rw [warming, hwarm, hr]
      exact hp
    obtain ⟨k1, k2, k3, k4, k5⟩ := warmStage_keeps hw
    refine ⟨_, hstep, k1, k2, k3, k4, k5, fun h => ?_, fun h => ?_, fun h => ?_, fun h => ?_, fun h => ?_⟩
    · rw [warmStage_calibration hw h]
      exact ⟨rfl, fun k hk => links_calibrate s hk, sameMemory_rfl s⟩
    · rw [warmStage_dram hw h]
      cases hd : s.boot.dramOk with
      | true => exact ⟨sameMemory_rfl s, rfl, rfl, rfl⟩
      | false => exact ⟨sameMemory_rfl s, rfl, rfl⟩
    · rw [warmStage_map hw h]
      exact ⟨rfl, sameMemory_rfl s⟩
    · rw [warmStage_zero hw h]
      cases hz : s.boot.zeroOk with
      | true => exact ⟨rfl, rfl, rfl, rfl, rfl⟩
      | false => exact ⟨rfl, rfl, rfl⟩
    · rw [warmStage_last hw h]
      exact (warmReady_keeps _).2

/-- Settles O37: power-on (powerOn_spec), the resets (resets) and over-temperature (thermal). -/
theorem powerAndResets : Obligations.PowerAndResets := ⟨powerOn_spec, resets, thermal⟩

end Sys2Proof.Machine
end

section
/-! PROOF. Arming by a write of ARM (O40; R12, R16, R20, R21, R35, R52, R410). -/

namespace Sys2Proof.Machine

/-! ## The arm procedure -/

section
variable {s : State} {c i : Nat} {x : Ctx} {q : Word}

theorem armCheck_sequence (h : nrec x ≤ i ∨ (liveState (recState s c x i) = true ∧ q = recWord s c x i 30) ∨
    (liveState (recState s c x i) = false ∧ q ≠ recWord s c x i 0)) : armCheck s c x i q = 6 := by
  unfold armCheck
  split
  · rfl
  · rename_i hn
    rcases h.resolve_left hn with ⟨hl, hq⟩ | ⟨hl, hq⟩
    · rw [if_pos hl, if_pos hq]
    · rw [if_neg (by simp [hl]), if_pos hq]

theorem armCheck_idle (hi : i < nrec x) (hl : liveState (recState s c x i) = false) (hq : q = recWord s c x i 0) :
    armCheck s c x i q = if crc32c (wordsBytes (recWords s c x i)) ≠ recWord s c x i 31 then 5 else 0 := by
  rw [armCheck, if_neg (Nat.not_le.2 hi), if_neg (by simp [hl]), if_neg (not_not_intro hq)]

theorem armRecord_rejected (hx : ctxAt s c = some x) {r : Nat} (hr : armCheck s c x i q = r) (h0 : r ≠ 0) :
    ∃ rows, armRecord s c i q = ({ s with rowOpen := rows }, r) := by
  subst hr
  simp only [armRecord, hx, if_neg h0]
  split
  · obtain ⟨rows, e⟩ := openCaddy_only s c x (recoff x + 128 * i) 128
    exact ⟨rows, by rw [openRec, e]⟩
  · exact ⟨s.rowOpen, rfl⟩

theorem armRecord_accepted (hx : ctxAt s c = some x) (hi : i < nrec x) (hr : armCheck s c x i q = 0) :
    armRecord s c i q = (reschedule (acceptArm (openRec s c x i) c x i q) c, 0) := by
  simp only [armRecord, hx, hr, if_pos hi, if_true]

/-- The entry of the journal that an accepted arming adds. -/
def armEntry (x : Ctx) (i : Nat) (q : Word) : JEntry := { number := x.nextAcc, ridx := i, seq := q, outcome := .pending, deps := [] }

/-- A context with an arming more. -/
def armed (x : Ctx) (i : Nat) (q : Word) : Ctx := { x with journal := x.journal ++ [armEntry x i q], nextAcc := x.nextAcc + 1 }

theorem acceptArm_eq (s : State) (c : Nat) (x : Ctx) (i : Nat) (q : Word) :
    acceptArm s c x i q = setCtx (setStatus (setRecWord s c x i 30 q) c x i 0 0 1) c (armed x i q) := rfl

theorem acceptArm_masters (s : State) (c : Nat) (x : Ctx) (i : Nat) (q : Word) (m : Nat) :
    masterAt (acceptArm (openRec s c x i) c x i q) m = masterAt s m := by
  obtain ⟨r, hr⟩ := openCaddy_only s c x (recoff x + 128 * i) 128
  obtain ⟨b, hb⟩ := setRecWord_only (openRec s c x i) c x i 30 q
  obtain ⟨b', hb'⟩ := setStatus_only (setRecWord (openRec s c x i) c x i 30 q) c x i 0 0 1
  rw [acceptArm_eq, hb', hb, openRec, hr]
  rfl

theorem recWord_setRecWord_same (s : State) (c : Nat) (x : Ctx) (i w : Nat) (q : Word) : recWord (setRecWord s c x i w q) c x i w = q :=
  readW_writeW _ _ _

theorem recWord_setRecWord_other (s : State) (c : Nat) (x : Ctx) (i : Nat) {w k : Nat} (q : Word) (h : w ≠ k) :
    recWord (setRecWord s c x i w q) c x i k = recWord s c x i k := by
  obtain ⟨rows, e⟩ := openCaddy_only s c x (recoff x + 128 * i + 4 * w) 4
  rw [setRecWord, e]
  refine congrArg (BitVec.ofNat 32) (readLE_congr _ _ fun j h1 h2 => Memory.read_writeW_other _ _ _ _ ?_)
  unfold caddyKey at h1 h2 ⊢
  omega

/-- LASTSEQ of an accepted arming is its SEQ. -/
theorem acceptArm_lastseq (s : State) (c : Nat) (x : Ctx) (i : Nat) (q : Word) : recWord (acceptArm s c x i q) c x i 30 = q := by
  change recWord (setStatus (setRecWord s c x i 30 q) c x i 0 0 1) c x i 30 = q
  rw [setStatus, recWord_setRecWord_other _ c x i _ (by decide), recWord_setRecWord_same]

/-- The scheduler leaves LASTSEQ of a record of the context whose dependences it judges, while no other has runs. -/
theorem Sched.lastseq {s t : State} {c : Nat} {x : Ctx} (h : Sched (some c) s t) (hx : ctxAt s c = some x)
    (hs : ∀ e y, ctxAt s e = some y → e ≠ c → y.runs = []) (i : Nat) : recWord t c x i 30 = recWord s c x i 30 := by
  refine congrArg (BitVec.ofNat 32) (readLE_congr _ _ fun a h1 h2 => h.caddy a fun e y hy hr ⟨r, k, hk, ha⟩ => ?_)
  by_cases he : e = c
  · subst he
    obtain rfl : x = y := Option.some.inj (hx.symm.trans hy)
    unfold caddyKey at h1 h2 ha
    omega
  · exact (hr.resolve_left fun h => he (Option.some.inj h).symm) (hs e y hy he)

/-- An arming that the context has taken is in its journal after the scan. -/
theorem KeptCtx.mem_journal {x y : Ctx} (h : KeptCtx x y) {j : JEntry} (hj : j ∈ x.journal) :
    ∃ k ∈ y.journal, k.number = j.number ∧ k.ridx = j.ridx ∧ k.seq = j.seq := by
  have := h.armings ▸ List.mem_map_of_mem (f := fun j : JEntry => (j.number, j.ridx, j.seq)) hj
  obtain ⟨k, hk, e⟩ := List.mem_map.1 this
  simp only [Prod.mk.injEq] at e
  exact ⟨k, hk, e⟩

end

/-! ## The write -/

section
variable {s : State} {m : Nat} {v : BitVec 64} {aligned : Bool}

theorem armWrite_notReady (h : s.mgmt.ready = false) : armWrite s m v aligned = armReject (countDenied s m) m 2 := if_pos h

/-- Who may arm records of context c (R16, R18). -/
def mayArm (s : State) (m c : Nat) : Prop := isOwner s m = true ∨ ∃ x, ctxAt s c = some x ∧ boundTo x m = true

/-- The fields of an ARM word, as numbers. -/
theorem armField_ctx (v : BitVec 64) : (v.extractLsb' 0 6).toNat = v.toNat % 64 := by simp [BitVec.extractLsb'_toNat]

theorem armField_record (v : BitVec 64) : (v.extractLsb' 8 24).toNat = v.toNat / 256 % 2 ^ 24 := by
  simp [BitVec.extractLsb'_toNat, Nat.shiftRight_eq_div_pow]

theorem armField_zero (v : BitVec 64) : v.extractLsb' 6 2 ≠ 0#2 ↔ v.toNat / 64 % 4 ≠ 0 := by
  rw [ne_eq, ← BitVec.toNat_inj]
  simp [BitVec.extractLsb'_toNat, Nat.shiftRight_eq_div_pow]

variable (hr : s.mgmt.ready = true)
include hr

theorem armWrite_malformed (h : aligned = false ∨ v.toNat / 64 % 4 ≠ 0) : armWrite s m v aligned = armReject s m 1 := by
  rw [armWrite, if_neg (by simp [hr]), if_pos (h.imp_right (armField_zero v).2)]

variable (ha : aligned = true) (hz : v.toNat / 64 % 4 = 0)
include ha hz

theorem armWrite_notAllowed (hm : ¬mayArm s m (v.toNat % 64)) : armWrite s m v aligned = armReject (countDenied s m) m 3 := by
  have hw : ¬(aligned = false ∨ v.extractLsb' 6 2 ≠ 0#2) := by rw [armField_zero]; simp [ha, hz]
  rw [armWrite, if_neg (by simp [hr]), if_neg hw, armField_ctx]
  unfold mayArm at hm
  cases hx : ctxAt s (v.toNat % 64) with
  | none => simp_all
  | some x => simp_all

variable (hm : mayArm s m (v.toNat % 64))
include hm

/-- A write that is allowed is judged by THERM, then by its context, then by the arm procedure. -/
theorem armWrite_allowed : armWrite s m v aligned =
    if s.mgmt.therm then armReject s m 2
    else
      match ctxAt s (v.toNat % 64) with
      | none => armReject s m 4
      | some x =>
        if x.hdr.isNone then armReject s m 4
        else
          let (s', r) := armRecord s (v.toNat % 64) (v.toNat / 256 % 2 ^ 24) (v.extractLsb' 32 32)
          if r = 0 then updMaster s' m (fun y => { y with ack := y.ack + 1#24 }) else armReject s' m r := by
  have hw : ¬(aligned = false ∨ v.extractLsb' 6 2 ≠ 0#2) := by rw [armField_zero]; simp [ha, hz]
  rw [armWrite, if_neg (by simp [hr]), if_neg hw, armField_ctx, armField_record]
  dsimp only
  unfold mayArm at hm
  refine if_neg (fun hf => ?_)
  cases hx : ctxAt s (v.toNat % 64) with
  | none => simp_all
  | some x => simp_all

theorem armWrite_hot (ht : s.mgmt.therm = true) : armWrite s m v aligned = armReject s m 2 := by
  rw [armWrite_allowed hr ha hz hm, if_pos ht]

variable (ht : s.mgmt.therm = false)
include ht

theorem armWrite_noContext (hx : ctxAt s (v.toNat % 64) = none) : armWrite s m v aligned = armReject s m 4 := by
  rw [armWrite_allowed hr ha hz hm, if_neg (by simp [ht]), hx]

variable {x : Ctx} (hx : ctxAt s (v.toNat % 64) = some x)
include hx

theorem armWrite_noSeal (hs : x.hdr = none) : armWrite s m v aligned = armReject s m 4 := by
  rw [armWrite_allowed hr ha hz hm, if_neg (by simp [ht]), hx]
  simp [hs]

theorem armWrite_judged (hs : x.hdr.isSome = true) {t : State} {r : Nat}
    (hj : armRecord s (v.toNat % 64) (v.toNat / 256 % 2 ^ 24) (v.extractLsb' 32 32) = (t, r)) :
    armWrite s m v aligned = if r = 0 then updMaster t m (fun y => { y with ack := y.ack + 1#24 }) else armReject t m r := by
  rw [armWrite_allowed hr ha hz hm, if_neg (by simp [ht]), hx]
  dsimp only
  rw [if_neg (by simpa [Option.isSome_iff_ne_none] using hs), hj]

end

theorem arming_accepted (s : State) (m c i : Nat) (x : Ctx) (q : Word) :
    let t := updMaster (reschedule (acceptArm (openRec s c x i) c x i q) c) m (fun y => { y with ack := y.ack + 1#24 })
    ∃ (y : Ctx) (j : JEntry), (masterAt t m).ack = (masterAt s m).ack + 1#24 ∧ ctxAt t c = some y ∧ y.nextAcc = x.nextAcc + 1 ∧
      j ∈ y.journal ∧ j.number = x.nextAcc ∧ j.ridx = i ∧ j.seq = q ∧
      ((∀ e y, ctxAt s e = some y → e ≠ c → y.runs = []) → recWord t c x i 30 = q) := by
  have hopen : ∀ e, ctxAt (openRec s c x i) e = ctxAt s e := ctxAt_openCaddy s c x _ _
  have haccept (e : Nat) : ctxAt (acceptArm (openRec s c x i) c x i q) e = if e = c then some (armed x i q) else ctxAt s e := by
    split
    · subst e
      exact ctxAt_setCtx _ _ _
    · rename_i he
      refine (ctxAt_setCtx_other _ _ he).trans ?_
      rw [ctxAt_setStatus, setRecWord]
      exact (ctxAt_openCaddy ..).trans (hopen e)
  have hsched := sched_reschedule (acceptArm (openRec s c x i) c x i q) c
  obtain ⟨y, hy, hk, -⟩ := hsched.ctx c (armed x i q) (by rw [haccept, if_pos rfl])
  obtain ⟨j, hj, hn, hi, hq⟩ := hk.mem_journal (j := armEntry x i q) (by simp [armed])
  refine ⟨y, j, ?_, hy, hk.nextAcc, hj, hn, hi, hq, fun hs => ?_⟩
  · rw [masterAt_updMaster_same, hsched.rest]
    change (masterAt (acceptArm (openRec s c x i) c x i q) m).ack + 1#24 = _
    rw [acceptArm_masters]
  · have hothers : ∀ e y, ctxAt (acceptArm (openRec s c x i) c x i q) e = some y → e ≠ c → y.runs = [] := by
      intro e y hy he
      rw [haccept, if_neg he] at hy
      exact hs e y hy he
    exact (hsched.lastseq ((haccept c).trans (if_pos rfl)) hothers i).trans (acceptArm_lastseq ..)

/-- Settles O40: the order of the checks is that of armWrite, and the scheduler keeps what an accepted arming has put (sched_reschedule). -/
theorem arming : Obligations.Arming := by
  intro s m v c i q reject may
  refine ⟨fun h => congrArg Host.Outcome.next (armWrite_notReady h), fun hr h => congrArg Host.Outcome.next (armWrite_malformed hr h),
    fun hr ha hz => ⟨fun hm => congrArg Host.Outcome.next (armWrite_notAllowed hr ha hz hm),
      fun hm ht => congrArg Host.Outcome.next (armWrite_hot hr ha hz hm ht),
      fun hm ht hx => congrArg Host.Outcome.next (armWrite_noContext hr ha hz hm ht hx),
      fun x hm ht hx hs => congrArg Host.Outcome.next (armWrite_noSeal hr ha hz hm ht hx hs), fun x hm ht hx hs => ?_⟩⟩
  have hreject {r : Nat} (h0 : r ≠ 0) (hj : armCheck s c x i q = r) :
      ∃ rows : Table Nat, exec .arm s = .next (reject { s with rowOpen := rows } r) := by
    obtain ⟨rows, e⟩ := armRecord_rejected hx hj h0
    exact ⟨rows, congrArg Host.Outcome.next ((armWrite_judged hr ha hz hm ht hx hs e).trans (if_neg h0))⟩
  refine ⟨fun h => hreject (by decide) (armCheck_sequence h), fun hi hl hq hcrc => hreject (by decide) ?_, fun hi hl hq hcrc => ?_⟩
  · rw [armCheck_idle hi hl hq, if_pos hcrc]
  · have hj : armCheck s c x i q = 0 := by rw [armCheck_idle hi hl hq, if_neg (not_not_intro hcrc)]
    have hx' := (armWrite_judged hr ha hz hm ht hx hs (armRecord_accepted hx hi hj)).trans (if_pos rfl)
    obtain ⟨y, j, h⟩ := arming_accepted s m c i x q
    exact ⟨_, y, j, congrArg Host.Outcome.next hx', h⟩

end Sys2Proof.Machine
end

section
/-! SUPPORT. What the parts of the context commands give (R23, R25, R28, R345). -/

namespace Sys2Proof.Machine

/-- A table without the entries of some keys. -/
theorem tget_filter {α : Type} (t : Table α) (p : Nat → Bool) (k : Nat) :
    tget (t.filter (fun e => p e.1)) k = if p k then tget t k else none := by
  induction t with
  | nil => simp [tget]
  | cons e t ih =>
    obtain ⟨k', v⟩ := e
    by_cases hk : k' = k
    · subst hk
      cases hp : p k' <;> simp_all [List.filter, tget]
    · cases hp : p k' <;> simp_all [List.filter, tget]

theorem read_filter (m : Memory) (p : Nat → Bool) (k : Nat) :
    Memory.read (m.filter (fun e => p e.1)) k = if p k then m.read k else 0#8 := by
  unfold Memory.read sget
  rw [tget_filter]
  split <;> rfl

theorem read_eraseRange (m : Memory) (a n k : Nat) :
    (eraseRange m a n).read k = if a ≤ k ∧ k < a + n then 0#8 else m.read k := by
  rw [eraseRange, read_filter m (fun k => !(decide (a ≤ k) && decide (k < a + n)))]
  by_cases h : a ≤ k ∧ k < a + n <;> simp [h]

/-- The results of CREATE for context n. -/
theorem createResults (n : Nat) : [word n] ++ twoWords (n * 2 ^ 30) ++ twoWords caddyVA =
    [word n, word (n * 2 ^ 30), word (n / 4), 0#32, 0x8000#32] := by
  have h : n * 2 ^ 30 / 2 ^ 32 = n / 4 := by omega
  simp only [twoWords, h]
  rfl

theorem freeCtx_eq {s : State} {n : Nat} (hn : n < 64) (h : ctxAt s n = none) (hk : ∀ k < n, ctxAt s k ≠ none) : freeCtx s = n := by
  have hf : (List.range 64).find? (fun c => (ctxAt s c).isNone) = some n := by
    rw [List.find?_range_eq_some]
    exact ⟨by simp [h], by simpa using hn, fun k hkn => by simpa [Option.isSome_iff_ne_none] using hk k hkn⟩
  rw [freeCtx, hf]
  rfl

end Sys2Proof.Machine
end

section
/-! PROOF. The commands that make and prepare contexts (O43; R10, R23, R25, R28, R50, R120, R345). -/

namespace Sys2Proof.Machine

section
variable {s : State} {m : Nat}

theorem exec_fwmin (h : Spec.Served .fwmin s m 0x01 .owner false) (hv : s.boot.fusedMin ≠ s.boot.version) (hw : s.boot.fuseWriteOk = true) :
    exec .fwmin s = .next (Spec.answered s.mboxq.length { s with boot := { s.boot with fusedMin := s.boot.version } } m 0x00 []) := by
  change execFwmin s = _
  rw [execFwmin, serve_served h nofun, if_neg hv, if_pos hw]

theorem exec_bind {x : Ctx} (h : Spec.Served .bind s m 0x12 .owner true) (hx : ctxAt s (Spec.arg s m 0).toNat = some x)
    (hf : (Spec.arg s m 1).toNat = 0xF ∨ (Spec.arg s m 1).toNat ∈ s.boot.functions) (hl : anyLive x = false) :
    exec .bind s = .next (Spec.answered s.mboxq.length
      (setCtx s (Spec.arg s m 0).toNat { x with func := if (Spec.arg s m 1).toNat = 0xF then none else some (Spec.arg s m 1).toNat }) m 0x00 []) := by
  have hfn : ¬((Spec.arg s m 1).toNat ≠ 0xF ∧ s.boot.functions.contains (Spec.arg s m 1).toNat = false) := fun ⟨h1, h2⟩ => by
    simp [hf.resolve_left h1] at h2
  change execBind s = _
  rw [execBind, serve_served h fun _ => ⟨x, hx⟩]
  simp only [hx, if_neg hfn, hl, Bool.false_eq_true, if_false]

theorem exec_debug {x : Ctx} (h : Spec.Served .debug s m 0x30 .owner true) (hx : ctxAt s (Spec.arg s m 0).toNat = some x)
    (h1 : Spec.arg s m 1 = 1#32) : exec .debug s = .next (Spec.answered s.mboxq.length
      (setCtx s (Spec.arg s m 0).toNat { x with debug := true }) m 0x00 []) := by
  change execDebug s = _
  rw [execDebug, serve_served h fun _ => ⟨x, hx⟩]
  simp only [hx, h1]
  rfl

theorem exec_dbgcont {x : Ctx} (h : Spec.Served .dbgcont s m 0x31 .owner true) (hx : ctxAt s (Spec.arg s m 0).toNat = some x)
    (hs : x.saved = none) (hk : (Spec.arg s m 1).toNat < pcores x) (hh : (coreAt s (logical x (Spec.arg s m 1).toNat)).dbgHeld = true) :
    exec .dbgcont s = .next (Spec.answered s.mboxq.length (updCore s (logical x (Spec.arg s m 1).toNat)
      (fun k => { k with dbgHeld := false, wait := none, pc := k.pc + 4#32 })) m 0x00 []) := by
  have hheld : heldAtBrk s x (logical x (Spec.arg s m 1).toNat) = true := by rw [heldAtBrk, hs]; exact hh
  have hgo : withUnits s (Spec.arg s m 0).toNat (fun t => debugGo t (logical x (Spec.arg s m 1).toNat)) =
      updCore s (logical x (Spec.arg s m 1).toNat) (fun k => { k with dbgHeld := false, wait := none, pc := k.pc + 4#32 }) := by
    simp only [withUnits, hx, hs, debugGo, updCore, if_pos hh]
  change execDbgcont s = _
  rw [execDbgcont, serve_served h fun _ => ⟨x, hx⟩]
  simp only [hx, if_pos (And.intro hk hheld)]
  rw [hgo]

/-! ## CREATE -/

/-- The context that CREATE makes as number n, with what holds it from its start. -/
def bornCtx (s : State) (n : Nat) (arg : Nat → Word) : Ctx :=
  let holds := birthHolds s n (newCtx arg)
  { newCtx arg with holds := holds, halt := if holds = [] then .running else .held }

theorem exec_create {n : Nat} (h : Spec.Served .create s m 0x10 .owner false) (hs : createStatus s (Spec.arg s m) = 0)
    (hn : ((Spec.arg s m 0).toNat ≠ 0xFF ∧ n = (Spec.arg s m 0).toNat) ∨
      ((Spec.arg s m 0).toNat = 0xFF ∧ ctxAt s n = none ∧ ∀ k < n, ctxAt s k ≠ none)) (h64 : n < 64) :
    ∃ rows, exec .create s = .next (Spec.answered s.mboxq.length
      { setCtx (zeroCaddy s n) n (bornCtx s n (Spec.arg s m)) with rowOpen := rows } m 0x00
      [word n, word (n * 2 ^ 30), word (n / 4), 0#32, 0x8000#32]) := by
  have hc : (if (Spec.arg s m 0).toNat = 0xFF then freeCtx s else (Spec.arg s m 0).toNat) = n := by
    rcases hn with ⟨h1, h2⟩ | ⟨h1, h2, h3⟩
    · rw [if_neg h1, h2]
    · rw [if_pos h1, freeCtx_eq h64 h2 h3]
  obtain ⟨rows, ho⟩ := openCaddy_only (setCtx (zeroCaddy s n) n (bornCtx s n (Spec.arg s m))) n (bornCtx s n (Spec.arg s m)) 0
    (bornCtx s n (Spec.arg s m)).clen
  refine ⟨rows, ?_⟩
  rw [← ho]
  change execCreate s = _
  rw [execCreate, serve_served h nofun]
  simp only [hs, if_true, hc, createResults]
  rfl

/-- The partition, the kind and the binding of a new context. -/
theorem bornCtx_fields (s : State) (n : Nat) (arg : Nat → Word) : let y := bornCtx s n arg
    y.pbase = (arg 1).toNat % 2 ^ 16 ∧ y.pcount = (arg 1).toNat / 2 ^ 16 ∧ y.det = !(arg 2).getLsbD 0 ∧ y.share = (arg 2).getLsbD 1 ∧
      y.cls = (arg 2).getLsbD 2 ∧ y.func = (if (arg 2).toNat / 16 % 16 = 0xF then none else some ((arg 2).toNat / 16 % 16)) ∧
      y.clen = (arg 3).toNat ∧ y.hdr = none ∧ y.runs = [] ∧ y.journal = [] := by
  refine ⟨?_, ?_, rfl, rfl, rfl, rfl, rfl, rfl, rfl, rfl⟩
  · exact congrArg (· % 2 ^ 16) (Nat.div_one _)
  · exact Nat.mod_eq_of_lt (Nat.div_lt_of_lt_mul (arg 1).isLt)

theorem read_zeroCaddy (s : State) (n a : Nat) : (zeroCaddy s n).caddy.read a = if a / 2 ^ 30 = n then 0#8 else s.caddy.read a := by
  change (eraseRange s.caddy (caddyKey n 0) (2 ^ 30)).read a = _
  rw [read_eraseRange]
  refine if_congr ?_ rfl rfl
  unfold caddyKey
  omega

/-! ## SEAL -/

/-- Context x as SEAL leaves it, with header words h and group words grp. -/
def sealedCtx (x : Ctx) (h : Nat → Word) (grp : Nat → Nat → Word) : Ctx :=
  { x with
    hdr := some ((List.range 16).map h)
    groups := (List.range 256).map (fun g => (g, [grp g 0, grp g 1]))
    gruns := ((List.range 256).filter (fun g => gValid (grp g 1))).map (fun g => (g, { g := 0#16, arrived := [] })), cps := [] }

theorem hdrWord_sealedCtx (x : Ctx) (h : Nat → Word) (grp : Nat → Nat → Word) {k : Nat} (hk : k < 16) :
    hdrWord (sealedCtx x h grp) k = (h k).toNat := by
  simp [hdrWord, sealedCtx, hk]

theorem groupWord_sealedCtx (x : Ctx) (h : Nat → Word) (grp : Nat → Nat → Word) {g k : Nat} (hg : g < 256) (hk : k < 2) :
    groupWord (sealedCtx x h grp) g k = grp g k := by
  have hw : tget (sealedCtx x h grp).groups g = some [grp g 0, grp g 1] := by
    refine tget_of_mem (List.mem_map.2 ⟨g, List.mem_range.2 hg, rfl⟩) fun e he hk => ?_
    obtain ⟨g', -, rfl⟩ := List.mem_map.1 he
    obtain rfl : g' = g := hk
    rfl
  rw [groupWord, tgetD, hw]
  match k, hk with
  | 0, _ => rfl
  | 1, _ => rfl

theorem gruns_sealedCtx {x : Ctx} {h : Nat → Word} {grp : Nat → Nat → Word} {g : Nat} {r : GroupRun}
    (hr : tget (sealedCtx x h grp).gruns g = some r) : r.g = 0#16 ∧ r.arrived = [] := by
  obtain ⟨g', -, e⟩ := List.mem_map.1 (mem_of_tget hr)
  cases e
  exact ⟨rfl, rfl⟩

/-- The words of the header and of the group table that SEAL reads. -/
def sealHeader (s : State) (c k : Nat) : Word := caddyW s c (4 * k)

def sealGroup (s : State) (c g k : Nat) : Word := caddyW s c ((caddyW s c 24).toNat + 16 * g + 4 * k)

theorem sealCtx_passed {c : Nat} {x : Ctx} (hl : anyLive x = false) (hs : sealStatus x (sealHeader s c) (sealGroup s c) = 0) :
    ∃ rows, sealCtx s c x = ({ setCtx s c (sealedCtx x (sealHeader s c) (sealGroup s c)) with rowOpen := rows }, 0) := by
  obtain ⟨r1, h1⟩ := openCaddy_only s c x 0 64
  obtain ⟨r2, h2⟩ := openCaddy_only (openCaddy s c x 0 64) c x (sealHeader s c 6).toNat 4096
  have he : sealCtx s c x = (setCtx (openCaddy (openCaddy s c x 0 64) c x (sealHeader s c 6).toNat 4096) c
      (sealedCtx x (sealHeader s c) (sealGroup s c)), 0) := (if_neg (by simp [hl])).trans (if_pos hs)
  exact ⟨r2, by rw [he, h2, h1]; rfl⟩

theorem exec_seal {x : Ctx} (h : Spec.Served .sealPart s m 0x11 .ownerOrBound true) (hx : ctxAt s (Spec.arg s m 0).toNat = some x)
    (hl : anyLive x = false) (hs : sealStatus x (sealHeader s (Spec.arg s m 0).toNat) (sealGroup s (Spec.arg s m 0).toNat) = 0) :
    ∃ rows, exec .sealPart s = .next (Spec.answered s.mboxq.length { setCtx s (Spec.arg s m 0).toNat
      (sealedCtx x (sealHeader s (Spec.arg s m 0).toNat) (sealGroup s (Spec.arg s m 0).toNat)) with rowOpen := rows } m 0x00 []) := by
  obtain ⟨rows, he⟩ := sealCtx_passed hl hs
  refine ⟨rows, ?_⟩
  change execSealPart s = _
  rw [execSealPart, serve_served h fun _ => ⟨x, hx⟩]
  simp only [hx, he]

/-! ## HLOAD -/

/-- The handler that HLOAD takes from the code area. -/
def handlerCode (s : State) (c : Nat) (x : Ctx) (off len : Nat) : List (BitVec 16) :=
  (List.range len).map (fun j => BitVec.ofNat 16 (readLE s.caddy (caddyKey c (codeoff x + off + 2 * j)) 2))

/-- Context x with what HLOAD has given it. -/
def handled (s : State) (c : Nat) (x : Ctx) (off len : Nat) (mask : Word) : Ctx :=
  { x with hcode := handlerCode s c x off len, hmask := mask }

theorem length_handlerCode (s : State) (c : Nat) (x : Ctx) (off len : Nat) : (handlerCode s c x off len).length = len := by
  simp [handlerCode]

theorem handlerCode_getD (s : State) (c : Nat) (x : Ctx) (off : Nat) {len j : Nat} (h : j < len) :
    (handlerCode s c x off len).getD j 0#16 = BitVec.ofNat 16 (readLE s.caddy (caddyKey c (codeoff x + off + 2 * j)) 2) := by
  simp [handlerCode, h]

/-- The handler memory of a core after loadHandler. -/
theorem hmem_loadHandler (s : State) (x : Ctx) (n : Nat) {j : Nat} (hj : j < x.hcode.length) :
    tget (coreAt (loadHandler s x n) n).hmem j = some (x.hcode.getD j 0#16) := by
  rw [loadHandler, coreAt_updCore]
  have hmem : ∀ e : Nat × BitVec 16, e ∈ x.hcode.zipIdx.map (fun e => (e.2, e.1)) ↔ x.hcode[e.1]? = some e.2 := by
    intro e
    rw [List.mem_map]
    constructor
    · rintro ⟨e', he, rfl⟩
      exact List.mem_zipIdx_iff_getElem?.1 he
    · exact fun he => ⟨(e.2, e.1), List.mem_zipIdx_iff_getElem?.2 he, rfl⟩
  have hj' : x.hcode[j]? = some (x.hcode.getD j 0#16) := by simp [hj]
  refine tget_of_mem ((hmem _).2 hj') fun e he hk => ?_
  have h := (hmem e).1 he
  rw [hk, hj'] at h
  exact (Option.some.inj h).symm

theorem hmem_loadHandlers (s : State) (x : Ctx) {n : Nat} (hn : n ∈ partCores x) {j : Nat} (hj : j < x.hcode.length) :
    tget (coreAt ((partCores x).foldl (fun s n => loadHandler s x n) s) n).hmem j = some (x.hcode.getD j 0#16) := by
  refine foldl_brings (P := fun s => tget (coreAt s n).hmem j = some (x.hcode.getD j 0#16)) hn (fun s => hmem_loadHandler s x n hj)
    (fun s k _ hs => ?_) s
  by_cases hk : n = k
  · subst hk
    exact hmem_loadHandler s x n hj
  · rw [loadHandler, coreAt_updCore_other _ _ hk]
    exact hs

theorem loadHandlers_only (s : State) (x : Ctx) (l : List Nat) : ∃ cores, l.foldl (fun s n => loadHandler s x n) s = { s with cores := cores } :=
  foldl_only (fun s b => { s with cores := b }) (fun _ _ _ => rfl) _ (fun _ _ => ⟨_, rfl⟩) (fun s => ⟨s.cores, rfl⟩) l s

theorem exec_hload {x : Ctx} (h : Spec.Served .hload s m 0x60 .owner true) (hx : ctxAt s (Spec.arg s m 0).toNat = some x)
    (hl : anyLive x = false) (h1 : 1 ≤ (Spec.arg s m 2).toNat) (h2 : (Spec.arg s m 2).toNat ≤ 2048) (he : (Spec.arg s m 1).toNat % 2 = 0)
    (hlen : (Spec.arg s m 1).toNat + 2 * (Spec.arg s m 2).toNat ≤ codelen x) :
    let c := (Spec.arg s m 0).toNat
    let y := handled s c x (Spec.arg s m 1).toNat (Spec.arg s m 2).toNat (Spec.arg s m 3)
    ∃ rows, exec .hload s = .next (Spec.answered s.mboxq.length
      ((partCores x).foldl (fun s n => loadHandler s y n) { setCtx s c y with rowOpen := rows }) m 0x00 []) := by
  obtain ⟨rows, ho⟩ := openCaddy_only s (Spec.arg s m 0).toNat x (codeoff x + (Spec.arg s m 1).toNat) (2 * (Spec.arg s m 2).toNat)
  refine ⟨rows, ?_⟩
  have hok : ¬((Spec.arg s m 2).toNat = 0 ∨ 2048 < (Spec.arg s m 2).toNat ∨ (Spec.arg s m 1).toNat % 2 ≠ 0 ∨
      codelen x < (Spec.arg s m 1).toNat + 2 * (Spec.arg s m 2).toNat) := by omega
  change execHload s = _
  rw [execHload, serve_served h fun _ => ⟨x, hx⟩]
  simp only [hx, hl, Bool.false_eq_true, if_false, if_neg hok]
  rw [ho]
  rfl

end

/-- Settles O43: each command does its own part (serve_served), and these parts give the contexts that R23 asks for. -/
theorem contextCommands : Obligations.ContextCommands := by
  intro s m q arg c
  refine ⟨exec_fwmin, fun n h hs hn h64 => ?_, fun x h hx hl hs => ?_, fun x h hx hf hl => exec_bind h hx hf hl,
    fun x h hx h1 => exec_debug h hx h1, fun x h hx hs hk hh => exec_dbgcont h hx hs hk hh, fun x h hx hl h1 h2 he hlen => ?_⟩
  · obtain ⟨rows, hx⟩ := exec_create h hs hn h64
    obtain ⟨y1, y2, y3, y4, y5, y6, y7, y8, y9, y10⟩ := bornCtx_fields s n (Spec.arg s m)
    refine ⟨_, bornCtx s n (Spec.arg s m), hx, ctxAt_setCtx .., y1, y2, y3, y4, y5, y6, y7, y8, y9, y10, fun k hk => ?_, fun b hb => ?_,
      fun a ha => ?_, rfl, rfl⟩
    · exact ctxAt_setCtx_other _ _ hk
    · exact (read_zeroCaddy s n _).trans (if_pos (by unfold caddyKey; omega))
    · exact (read_zeroCaddy s n a).trans (if_neg ha)
  · obtain ⟨rows, he⟩ := exec_seal h hx hl hs
    exact ⟨_, _, he, ctxAt_setCtx .., fun k hk => hdrWord_sealedCtx _ _ _ hk, fun g hg k hk => groupWord_sealedCtx _ _ _ hg hk,
      fun g r hr => gruns_sealedCtx hr, sameMemory_rfl s⟩
  · obtain ⟨rows, hx'⟩ := exec_hload h hx hl h1 h2 he hlen
    obtain ⟨cores, ho⟩ := loadHandlers_only { setCtx s c (handled s c x (arg 1).toNat (arg 2).toNat (arg 3)) with rowOpen := rows }
      (handled s c x (arg 1).toNat (arg 2).toNat (arg 3)) (partCores x)
    refine ⟨_, handled s c x (arg 1).toNat (arg 2).toNat (arg 3), hx', ?_, rfl, length_handlerCode .., fun j hj => handlerCode_getD _ _ _ _ hj,
      fun n hn j hj => ?_, ?_⟩
    · rw [ho]
      exact ctxAt_setCtx ..
    · exact hmem_loadHandlers _ (handled s c x (arg 1).toNat (arg 2).toNat (arg 3)) (List.mem_map.2 ⟨n, List.mem_range.2 hn, rfl⟩)
        (hj.trans_eq (length_handlerCode ..).symm)
    · rw [ho]
      exact sameMemory_rfl s

end Sys2Proof.Machine
end

section
/-! SUPPORT. What RETIRE frees (R404). -/

namespace Sys2Proof.Machine

/-! ## A memory without some of its bytes -/

/-- Bytes that are gone read zero, and no other does for it. -/
theorem read_filter_zero {m : Memory} {k : Nat} (h : m.read k = 0#8) (p : Nat → Bool) : Memory.read (m.filter (fun e => p e.1)) k = 0#8 := by
  rw [read_filter, h, ite_self]

/-- The pages of DRAM: a byte of channel core, in the 4 KiB unit u of the page's part of it. -/
def pageHit (x : Ctx) (p : Page) (key per unit : Nat) : Bool :=
  let core := key / per
  let first := logical x (pageCh p)
  let u := key % per / unit
  decide (first ≤ core ∧ core < first + pageN p ∧ pageOff p ≤ u ∧
    u < pageOff p + (pageLen p / 4096 + pageN p - 1 - (core - first)) / pageN p)

/-- The page p is zeroed. -/
def zeroPage (x : Ctx) (s : State) (p : Page) : State :=
  if p.space = 2 then
    { s with dram := s.dram.filter (fun e => !pageHit x p e.1 (2 ^ 25) 4096), dpoison := s.dpoison.filter (fun g => !pageHit x p g (2 ^ 21) 256) }
  else { s with host := eraseRange s.host (4096 * pageOff p) (pageLen p) }

theorem zeroPages_eq (s : State) (x : Ctx) : zeroPages s x = x.pages.foldl (zeroPage x) s := rfl

/-- The memories that zeroPages changes. -/
def putFar (s : State) (b : Memory × List Nat × Memory) : State := { s with dram := b.1, dpoison := b.2.1, host := b.2.2 }

theorem zeroPages_only (s : State) (x : Ctx) : ∃ b, zeroPages s x = putFar s b := by
  refine foldl_only putFar (fun _ _ _ => rfl) (zeroPage x) (fun s p => ?_) (fun s => ⟨(s.dram, s.dpoison, s.host), rfl⟩) x.pages s
  unfold zeroPage
  split
  · exact ⟨(_, _, s.host), rfl⟩
  · exact ⟨(s.dram, s.dpoison, _), rfl⟩

/-- Unit u of page p, of the pageLen p / 4096 that it has, is hit where R226 puts it: its units go round the channels. -/
theorem pageHit_unit (x : Ctx) (p : Page) {u k : Nat} (hu : u < pageLen p / 4096) (hk : k < 4096) (ho : pageOff p + u / pageN p < 2 ^ 13) :
    pageHit x p (dramKey (logical x (pageCh p + u % pageN p)) (4096 * (pageOff p + u / pageN p) + k)) (2 ^ 25) 4096 = true := by
  have hN : 0 < pageN p := Nat.succ_pos _
  have hj := Nat.mod_lt u hN
  have hdiv := Nat.div_add_mod u (pageN p)
  unfold pageHit dramKey logical
  generalize hL : pageLen p / 4096 = L at *
  generalize hn : pageN p = N at *
  generalize hq : u / N = q at *
  generalize hr : u % N = r at *
  have hcore : (2 ^ 25 * (8 * x.pbase + (pageCh p + r)) + (4096 * (pageOff p + q) + k)) / 2 ^ 25 = 8 * x.pbase + (pageCh p + r) := by omega
  have hunit : (2 ^ 25 * (8 * x.pbase + (pageCh p + r)) + (4096 * (pageOff p + q) + k)) % 2 ^ 25 / 4096 = pageOff p + q := by omega
  have hrest : 8 * x.pbase + (pageCh p + r) - (8 * x.pbase + pageCh p) = r := by omega
  simp only [hcore, hunit, hrest, decide_eq_true_eq]
  refine ⟨by omega, by omega, by omega, ?_⟩
  have hlast : q < (L + N - 1 - r) / N := by
    rw [Nat.lt_div_iff_mul_lt hN]
    rw [Nat.mul_comm]
    omega
  omega

theorem read_zeroPages {s : State} {x : Ctx} {p : Page} (hp : p ∈ x.pages) (h2 : p.space = 2) {u k : Nat} (hu : u < pageLen p / 4096)
    (hk : k < 4096) (ho : pageOff p + u / pageN p < 2 ^ 13) :
    (zeroPages s x).dram.read (dramKey (logical x (pageCh p + u % pageN p)) (4096 * (pageOff p + u / pageN p) + k)) = 0#8 := by
  have hit := pageHit_unit x p hu hk ho
  generalize dramKey (logical x (pageCh p + u % pageN p)) (4096 * (pageOff p + u / pageN p) + k) = a at hit
  rw [zeroPages_eq]
  refine foldl_brings (P := fun s => s.dram.read a = 0#8) hp (fun s => ?_) (fun s q _ hs => ?_) s
  · rw [zeroPage, if_pos h2]
    exact (read_filter s.dram (fun a => !pageHit x p a (2 ^ 25) 4096) a).trans (if_neg (by rw [hit]; exact Bool.false_ne_true))
  · unfold zeroPage
    split
    · exact read_filter_zero hs (fun a => !pageHit x q a (2 ^ 25) 4096)
    · exact hs

/-! ## What a context frees -/

/-- The state of RETIRE when the memories are zero and the context is gone, before the lanes and the scan. -/
def freed (s : State) (c : Nat) (x : Ctx) : State :=
  let s := sweepRows (zeroSpill (zeroPages s x) c) (partCores x)
  let s := clearClusters (zeroSlices s (ownClusters s c x)) (ownClusters s c x)
  { s with
    ctxs := tdel s.ctxs c, cores := s.cores.map (fun e => (e.1, forgetImage c e.2)), packets := s.packets.filter (fun e => decide (e.1 ≠ c)) }

theorem sweepRows_only (s : State) (l : List Nat) : ∃ b : Table Nat × Nat, sweepRows s l = { s with rowOpen := b.1, fresh := b.2 } := by
  obtain ⟨b, h⟩ := foldl_only (fun (s : State) (b : Table Nat) => { s with rowOpen := b }) (fun _ _ _ => rfl)
    (fun s k => { s with rowOpen := tset s.rowOpen k (Config.zeroedRow s.fresh k) }) (fun _ _ => ⟨_, rfl⟩) (fun s => ⟨s.rowOpen, rfl⟩) l
    { s with fresh := s.fresh + 1 }
  exact ⟨(b, s.fresh + 1), h⟩

/-- The clusters that context x of number c has to itself. -/
theorem ownClusters_of {s : State} {c : Nat} {x : Ctx} {n : Nat} (h : inPart x n = true)
    (hr : ∀ e ∈ rivals s c x, e.2.active = true → inPart e.2 n = false) : ownClusters s c x (clusterOf n) = true := by
  have hpart (y : Ctx) : partHas y (clusterOf n) = inPart y n := by
    unfold partHas inPart clusterOf
    exact decide_eq_decide.2 (by omega)
  rw [ownClusters, hpart, h]
  simp only [Bool.true_and, Bool.not_eq_true', List.any_eq_false, Bool.and_eq_true, not_and, Bool.not_eq_true, hpart]
  exact hr

section
variable (s : State) (c : Nat) (x : Ctx)

/-- The memories of the state that freed gives. -/
theorem freed_memories : let own := ownClusters s c x
    (freed s c x).dram = (zeroPages s x).dram ∧
      (freed s c x).spill = eraseRange s.spill (spillBase c 0) (8192 * 2 ^ 21) ∧
      (freed s c x).slice = s.slice.filter (fun e => !own (clusterOf (e.1 / 2 ^ 21))) ∧
      (freed s c x).gmeta = s.gmeta.filter (fun e => !own (clusterOf (e.1 / 2 ^ 17))) ∧
      (freed s c x).conf = s.conf.filter (fun e => !own (clusterOf (e.1 / 2 ^ 15))) ∧
      (freed s c x).poison = s.poison.filter (fun g => !own (clusterOf (g / 2 ^ 17))) := by
  obtain ⟨b, hb⟩ := zeroPages_only s x
  obtain ⟨b', hb'⟩ := sweepRows_only (zeroSpill (zeroPages s x) c) (partCores x)
  unfold freed
  dsimp only
  rw [hb', hb]
  exact ⟨rfl, rfl, rfl, rfl, rfl, rfl⟩

end

theorem tget_eq_none_iff {α : Type} (t : Table α) (k : Nat) : tget t k = none ↔ k ∉ t.map Prod.fst := by
  induction t with
  | nil => simp [tget]
  | cons e t ih =>
    obtain ⟨k', v⟩ := e
    by_cases hk : k' = k
    · simp [tget, hk]
    · rw [tget, if_neg hk, ih, List.map_cons, List.mem_cons, not_or]
      exact ⟨fun h => ⟨fun e => hk e.symm, h⟩, fun h => h.2⟩

/-- Lanes are replaced: the contexts keep their numbers, and the memories are as they were. -/
theorem replaceLanes_rest (s : State) : ∃ b lanes ctxs, replaceLanes s = { putLanes s b with lanes := lanes, ctxs := ctxs } ∧
    ctxs.map Prod.fst = s.ctxs.map Prod.fst := by
  obtain ⟨b, h⟩ := replaceLanes_only (s.lanes.filter fun e => s.ctxs.all fun k => !usesLane s e k.1 k.2 || !moving k.2)
    { s with lanes := s.lanes.filter fun e => !s.ctxs.all fun k => !usesLane s e k.1 k.2 || !moving k.2 }
  refine ⟨b, _, _, by rw [replaceLanes, h]; rfl, ?_⟩
  rw [List.map_map]
  refine List.map_congr_left fun k _ => ?_
  simp only [Function.comp]
  split <;> rfl

/-- The lanes and the scan that follow change no memory of the module, but for STATUS words, and make no context. -/
theorem freeContext_keeps (s : State) (c : Nat) (x : Ctx) : let t := freeContext s c x
    t.dram = (freed s c x).dram ∧ t.spill = (freed s c x).spill ∧ t.slice = (freed s c x).slice ∧ t.gmeta = (freed s c x).gmeta ∧
      t.conf = (freed s c x).conf ∧ t.poison = (freed s c x).poison ∧ ctxAt t c = none := by
  have hscan := sched_scanAll (o := none) (replaceLanes (freed s c x))
  have hgone : ctxAt (freed s c x) c = none := tget_tdel_same _ _
  obtain ⟨b, lanes, ctxs, h, hkeys⟩ := replaceLanes_rest (freed s c x)
  have hnone : ctxAt (replaceLanes (freed s c x)) c = none := by
    rw [h]
    rw [ctxAt, tget_eq_none_iff] at hgone ⊢
    rwa [hkeys]
  have hgmeta := hscan.gmeta rfl
  have hc := hscan.none_ c hnone
  intro t
  have ht : t = scanAll (replaceLanes (freed s c x)) := rfl
  rw [← ht] at hgmeta hc hscan
  rw [h] at hgmeta
  refine ⟨?_, ?_, ?_, hgmeta, ?_, ?_, hc⟩ <;> rw [hscan.rest, h] <;> rfl

end Sys2Proof.Machine
end

section
/-! PROOF. The commands that hold, attest and retire contexts (O44; R23, R56, R358, R361, R375, R400, R401, R402, R404). -/

namespace Sys2Proof.Machine

section
variable {s : State} {m : Nat} {x : Ctx}

/-! ## PREEMPT and RESUME -/

theorem exec_preempt (h : Spec.Served .preempt s m 0x20 .owner true) (hx : ctxAt s (Spec.arg s m 0).toNat = some x) :
    exec .preempt s =
      if moving x = true then
        .next (setCtx { s with mgmt := { s.mgmt with serving := some (Spec.arg s m 0).toNat } } (Spec.arg s m 0).toNat (requestHold x .preempt))
      else if HoldBy.preempt ∈ x.holds then .next (Spec.answered s.mboxq.length s m 0x38 [])
      else .next (Spec.answered s.mboxq.length (setCtx s (Spec.arg s m 0).toNat
        { x with holds := x.holds ++ [.preempt], preq := x.preq.filter (fun h => decide (h ≠ .preempt)) }) m 0x00 []) := by
  change execPreempt s = _
  rw [execPreempt, serveOr_served h fun _ => ⟨x, hx⟩]
  simp only [hx, stopped]
  by_cases hm : moving x = true
  · simp only [hm, Bool.not_true, Bool.false_eq_true, if_false, if_true]
  · by_cases hp : HoldBy.preempt ∈ x.holds
    · simp only [hm, hp, Bool.not_false, List.contains_eq_mem, decide_true, if_true, if_false, Bool.false_eq_true]
    · simp only [hm, hp, Bool.not_false, List.contains_eq_mem, decide_false, if_true, if_false, Bool.false_eq_true]

theorem exec_resume (h : Spec.Served .resume s m 0x21 .owner true) (hx : ctxAt s (Spec.arg s m 0).toNat = some x) :
    exec .resume s =
      if HoldBy.preempt ∈ x.holds then .next (Spec.answered s.mboxq.length
        (reschedule (restoreCtx (setCtx s (Spec.arg s m 0).toNat (dropHold x .preempt)) (Spec.arg s m 0).toNat) (Spec.arg s m 0).toNat) m 0x00 [])
      else .next (Spec.answered s.mboxq.length s m 0x39 []) := by
  change execResume s = _
  rw [execResume, serve_served h fun _ => ⟨x, hx⟩]
  simp only [hx]
  by_cases hp : HoldBy.preempt ∈ x.holds
  · simp only [hp, List.contains_eq_mem, decide_true, if_true]
  · simp only [hp, List.contains_eq_mem, decide_false, if_false, Bool.false_eq_true]

/-! ## Signed records -/

/-- The record that signRecord keeps. -/
def signedNow (s : State) (c : Nat) (body : Nat → List Byte) : Signed :=
  { number := s.snapSeq + 1, ctx := some c, bytes := body (s.snapSeq + 1) ++ recordSignature s (body (s.snapSeq + 1)) }

/-- Of the records that are kept, the new one is the last. -/
theorem getLast?_kept (l : List Signed) (r : Signed) (n : Nat) (h : 0 < n) : ((l ++ [r]).drop (l.length + 1 - n)).getLast? = some r := by
  rw [List.getLast?_drop, if_neg (by rw [List.length_append, List.length_singleton]; omega), List.getLast?_concat]

theorem getLast?_signRecord (s : State) (c : Nat) (body : Nat → List Byte) : (signRecord s c body).signed.getLast? = some (signedNow s c body) := by
  have h := getLast?_kept s.signed (signedNow s c body) 256 (by decide)
  unfold signedNow at h
  unfold signRecord signedNow
  dsimp only
  generalize recordSignature s (body (s.snapSeq + 1)) = l at h ⊢
  exact h

/-- The signature of R402 is ECDSA by the key of the management SRAM, with a nonce between 1 and the group's order less one. -/
theorem recordSignature_eq (s : State) (l : List Byte) : ∃ nonce, 1 ≤ nonce ∧ nonce < p384Order ∧
    recordSignature s l = (ecdsaSign (readLE s.sram 0 48) nonce (l.map (·.toNat))).map (BitVec.ofNat 8) := by
  refine ⟨1 + Config.ecdsaNonce s.fresh % (p384Order - 1), Nat.le_add_right .., ?_, rfl⟩
  have hp : 1 < p384Order := by decide
  have := Nat.mod_lt (Config.ecdsaNonce s.fresh) (Nat.sub_pos_of_lt hp)
  omega

theorem exec_snap (h : Spec.Served .snap s m 0x80 .ownerOrBound true) (hx : ctxAt s (Spec.arg s m 0).toNat = some x) (hr : x.runs = [])
    (hc : cardsHeld s x = false) : exec .snap s = .next (Spec.answered s.mboxq.length (signRecord s (Spec.arg s m 0).toNat
      (snapshotBytes s (Spec.arg s m 0).toNat x (ofWords (Spec.arg s m 1) (Spec.arg s m 2)) false)) m 0x00 (twoWords (s.snapSeq + 1))) := by
  change execSnap s = _
  rw [execSnap, serve_served h fun _ => ⟨x, hx⟩]
  simp only [hx, anyReleased, hr, hc]
  rfl

theorem exec_recread {r : Signed} (h : Spec.Served .recread s m 0x81 .any false) (ho : isOwner s m = true)
    (hr : s.signed.find? (fun r => decide (r.number = ofWords (Spec.arg s m 0) (Spec.arg s m 1))) = some r)
    (hl : (Spec.arg s m 2).toNat * 128 < r.bytes.length) :
    exec .recread s = .next (Spec.answered s.mboxq.length s m 0x00 (bytesWords (recordPart r (Spec.arg s m 2).toNat))) := by
  have hpart : ¬(r.bytes.length + 127) / 128 ≤ (Spec.arg s m 2).toNat := by omega
  change execRecread s = _
  rw [execRecread, serve_served h nofun]
  simp only [hr, ho, Bool.not_true, Bool.false_and, Bool.false_eq_true, if_false, if_neg hpart]

theorem exec_idkey (h : Spec.Served .idkey s m 0x82 .any false) : exec .idkey s =
    if 8 ≤ (Spec.arg s m 0).toNat then .next (Spec.answered s.mboxq.length s m 0x83 [])
    else .next (Spec.answered s.mboxq.length s m 0x00
      (bytesWords ((List.range 128).map (fun i => Config.identityByte (128 * (Spec.arg s m 0).toNat + i))))) := by
  change execIdkey s = _
  rw [execIdkey, serve_served h nofun]
  split
  next hp => rw [if_pos hp]
  next hp => rw [if_neg hp]

/-! ## RETIRE -/

theorem exec_retire (h : Spec.Served .retire s m 0x83 .owner true) (hx : ctxAt s (Spec.arg s m 0).toNat = some x) {y : Ctx}
    (hy : ctxAt (withUnits s (Spec.arg s m 0).toNat (fun t => retireStop t (Spec.arg s m 0).toNat)) (Spec.arg s m 0).toNat = some y) :
    let c := (Spec.arg s m 0).toNat
    let s1 := withUnits s c (fun t => retireStop t c)
    let s2 := withUnits s1 c (fun t => retireWork t c (ofWords (Spec.arg s m 1) (Spec.arg s m 2)))
    exec .retire s = if enginesBusy s1 c y = true then .next s1
      else .next (Spec.answered s.mboxq.length (freeContext s2 c y) m 0x00 (twoWords s2.snapSeq)) := by
  intro c s1 s2
  change execRetire s = _
  rw [execRetire, serveOr_served h fun _ => ⟨x, hx⟩]
  by_cases hb : enginesBusy s1 c y = true
  · simp only [hy, if_pos hb, s1, c]
  · simp only [hy, if_neg hb, s1, s2, c]

end

/-- What RETIRE leaves of context c: not the context, nothing in the slices and the metadata of clusters that no active rival has, nothing in
the DRAM of its pages, and nothing in its spill areas. -/
theorem freeContext_frees (s : State) (c : Nat) (y : Ctx) : let t := freeContext s c y
    ctxAt t c = none ∧
      (∀ n, inPart y n = true → (∀ e ∈ rivals s c y, e.2.active = true → inPart e.2 n = false) →
        (∀ a, a / 2 ^ 21 = n → t.slice.read a = 0#8) ∧ (∀ a, a / 2 ^ 17 = n → t.gmeta.read a = 0#8) ∧
          (∀ e ∈ t.conf, e.1 / 2 ^ 15 ≠ n) ∧ ∀ g ∈ t.poison, g / 2 ^ 17 ≠ n) ∧
      (∀ p ∈ y.pages, p.space = 2 → ∀ u < pageLen p / 4096, ∀ k < 4096, pageOff p + u / pageN p < 2 ^ 13 →
        t.dram.read (dramKey (logical y (pageCh p + u % pageN p)) (4096 * (pageOff p + u / pageN p) + k)) = 0#8) ∧
      ∀ a < 2 ^ 34, t.spill.read (spillBase c 0 + a) = 0#8 := by
  obtain ⟨hdram, hspill, hslice, hgmeta, hconf, hpoison⟩ := freed_memories s c y
  obtain ⟨kdram, kspill, kslice, kgmeta, kconf, kpoison, hnone⟩ := freeContext_keeps s c y
  refine ⟨hnone, fun n hn hr => ?_, fun p hp h2 u hu k hk ho => ?_, fun a ha => ?_⟩
  · have hown : ownClusters s c y (clusterOf n) = true := ownClusters_of hn hr
    refine ⟨fun a ha => ?_, fun a ha => ?_, fun e he ha => ?_, fun g hg ha => ?_⟩
    · rw [kslice, hslice, read_filter _ fun k => !ownClusters s c y (clusterOf (k / 2 ^ 21)), ha, hown]
      rfl
    · rw [kgmeta, hgmeta, read_filter _ fun k => !ownClusters s c y (clusterOf (k / 2 ^ 17)), ha, hown]
      rfl
    · rw [kconf, hconf] at he
      have hkept := (List.mem_filter.1 he).2
      rw [ha, hown] at hkept
      exact Bool.false_ne_true hkept
    · rw [kpoison, hpoison] at hg
      have hkept := (List.mem_filter.1 hg).2
      rw [ha, hown] at hkept
      exact Bool.false_ne_true hkept
  · rw [kdram, hdram]
    exact read_zeroPages hp h2 hu hk ho
  · rw [kspill, hspill, read_eraseRange]
    exact if_pos (by omega)

/-- Settles O44: the parts of the commands (exec_preempt to exec_retire), and what RETIRE frees (freeContext_frees). -/
theorem lifeCommands : Obligations.LifeCommands := by
  intro s m q arg c
  refine ⟨fun x h hx => ⟨fun hm => ?_, fun hm hp => ?_, fun hm hp => ?_⟩, fun x h hx => ⟨fun hp => ?_, fun hp => ?_⟩,
    fun x h hx hr hc => ?_, fun r h ho hr hl => exec_recread h ho hr hl, fun h => ⟨fun hp => ?_, fun hp => ?_⟩, fun x h hx => ?_⟩
  · exact ⟨_, requestHold x .preempt, (exec_preempt h hx).trans (if_pos hm), rfl, rfl, ctxAt_setCtx .., mem_requestHold x _, rfl, sameMemory_rfl s⟩
  · exact ⟨_, _, (exec_preempt h hx).trans ((if_neg (by simp [hm])).trans (if_neg hp)), ctxAt_setCtx .., List.mem_append_right _ (.head _), rfl,
      sameMemory_rfl s⟩
  · exact (exec_preempt h hx).trans ((if_neg (by simp [hm])).trans (if_pos hp))
  · exact ⟨(exec_resume h hx).trans (if_pos hp), (not_mem_dropHold x _).2⟩
  · exact (exec_resume h hx).trans (if_neg hp)
  · obtain ⟨nonce, h1, h2, he⟩ := recordSignature_eq s (snapshotBytes s c x (ofWords (arg 1) (arg 2)) false (s.snapSeq + 1))
    exact ⟨_, _, exec_snap h hx hr hc, getLast?_signRecord .., rfl, rfl,
      ⟨nonce, h1, h2, congrArg (snapshotBytes s c x (ofWords (arg 1) (arg 2)) false (s.snapSeq + 1) ++ ·) he⟩, rfl, rfl, sameMemory_rfl s⟩
  · exact ⟨_, List.length_map .., (exec_idkey h).trans (if_neg (Nat.not_le.2 hp))⟩
  · exact (exec_idkey h).trans (if_pos hp)
  · intro s1 s2 y hy
    exact ⟨fun hb => (exec_retire h hx hy).trans (if_pos hb), fun hb =>
      ⟨freeContext s2 c y, (exec_retire h hx hy).trans (if_neg (ne_true_of_eq_false hb)), freeContext_frees s2 c y⟩⟩

end Sys2Proof.Machine
end

section
/-! PROOF. Core failures (O50; R67, R358): a counterexample. -/

namespace Sys2Proof.Machine

/-- Task 0 of record 0 of context 0. -/
def taskZero : Task := { ctx := 0, ridx := 0, t := 0, wave := 0, c0 := 0, c1 := 0, c2 := 0, c3 := 0 }

/-- The context of a placed instruction, on cluster 0, held for the remap of its row. -/
def heldCtx : Ctx := { placeCtx placeRun with halt := .held, holds := [.remap] }

/-- Core 0, which has a task, stands twice among the failed cores; the contexts of its row have halted, and its die has two spare rows. -/
def failedTwice : State :=
  { State.reset with
    mcores := ⟨#[Mcore.reset .phodiver, Mcore.reset .phodiver, Mcore.reset .phodiver, Mcore.reset .phodiver], rfl⟩
    ctxs := [(0, heldCtx)], cores := [(0, { Core.reset with task := some taskZero })], spares := [(0, [32, 33])], failed := [0, 0] }

theorem phodiverRuns_failedTwice : phodiverRuns failedTwice = true := by decide

/-- The model remaps the row of core 0. -/
theorem exec_failedTwice : exec .rowRemap failedTwice = .next (rowRemap failedTwice 0 []) :=
  congrArg Host.Outcome.next (if_pos phodiverRuns_failedTwice)

/-- Each of the two entries posts event 0x73. -/
theorem length_moduleq_failedTwice : (rowRemap failedTwice 0 []).moduleq.length = 2 := by
  decide

/-- Refutes O50: for a failed core that stands twice among the failed cores, as the statement allows, ROW_REMAP posts event 0x73 twice, and not
once. -/
theorem not_failures : ¬Obligations.Failures := by
  intro h
  obtain ⟨-, -, hremap, -⟩ := h failedTwice
  obtain ⟨t, ht, -, -, -, -, -, hcore⟩ := hremap 32 [33] phodiverRuns_failedTwice (by decide) (by decide) (by decide)
  obtain ⟨-, -, hpost⟩ := hcore taskZero heldCtx placeRun rfl (by decide) (by decide)
  obtain ⟨e, ⟨hq, -⟩, -⟩ := hpost (by decide)
  have he : t = rowRemap failedTwice 0 [] := Host.Outcome.next.inj (ht.symm.trans exec_failedTwice)
  have hone : t.moduleq = [e] := hq rfl
  have htwo := length_moduleq_failedTwice
  rw [← he, hone] at htwo
  cases htwo

end Sys2Proof.Machine
end

section
/-! SUPPORT. The unit of the strainer and the optimiser engine of a cluster after an update: its promises, its regions and the records of task
attempts (R366 to R371, R388). -/

namespace Sys2Proof.Machine

/-! ## Tables, and the issue of an instruction -/

theorem mem_tset {α : Type} {t : Table α} {k : Nat} {v : α} {e : Nat × α} (h : e ∈ tset t k v) : e = (k, v) ∨ e ∈ t ∧ e.1 ≠ k :=
  (mem_tins h).imp_right fun he => ⟨(List.mem_filter.1 he).1, key_ne_of_mem_tdel he⟩

/-- The only element that satisfies a test is the one that is found. -/
theorem find?_eq_some_of_unique {α : Type} {p : α → Bool} {l : List α} {a : α} (ha : a ∈ l) (hp : p a = true)
    (hu : ∀ b ∈ l, p b = true → b = a) : l.find? p = some a := by
  cases h : l.find? p with
  | none => exact absurd hp (List.find?_eq_none.1 h a ha)
  | some b => rw [hu b (List.mem_of_find?_eq_some h) (List.find?_some h)]

/-- An instruction of four bytes that takes effect; the core that moves is named in the state in which it issues. -/
theorem issue_moves {i : Instr} {sh : Shape} {body : State → Body} {s s1 s2 : State} (h : Issues i sh s s1) (hl : sh.len = 4)
    (hb : body s1 = .ok s2) : issue i sh body s = .next (moveOn s1 s2 s1.cur 4) := by
  rw [issue_ok h hb, go_cur h, hl]
  rfl

/-! ## Updates of a unit -/

theorem unitOf_of {s : State} {c : Nat} {x : Ctx} (h : ctxAt s c = some x) (k : Nat) : unitOf s c k = optAt x k := by
  unfold unitOf
  rw [h]

theorem updOpt_only (s : State) (c k : Nat) (f : OptUnit → OptUnit) : ∃ ctxs, updOpt s c k f = { s with ctxs := ctxs } := by
  unfold updOpt updCtx
  split <;> exact ⟨_, rfl⟩

theorem unitOf_updOpt_same {s : State} {c : Nat} {x : Ctx} (h : ctxAt s c = some x) (k : Nat) (f : OptUnit → OptUnit) :
    unitOf (updOpt s c k f) c k = f (unitOf s c k) := by
  have hc : ctxAt (updOpt s c k f) c = some { x with opt := tset x.opt k (f (optAt x k)) } := by rw [updOpt, ctxAt_updCtx, h]; rfl
  rw [unitOf_of hc, unitOf_of h]
  exact tgetD_tset_same _ _ _ _

/-- An update of a unit leaves every other. -/
theorem unitOf_updOpt_other (s : State) {c k d j : Nat} (f : OptUnit → OptUnit) (h : ¬(d = c ∧ j = k)) :
    unitOf (updOpt s c k f) d j = unitOf s d j := by
  by_cases hd : d = c
  · subst hd
    have hj : j ≠ k := fun e => h ⟨rfl, e⟩
    unfold unitOf updOpt
    rw [ctxAt_updCtx]
    cases ctxAt s d with
    | none => rfl
    | some x => exact tgetD_tset_other _ _ _ hj
  · unfold unitOf updOpt
    rw [ctxAt_updCtx_other s _ hd]

/-- What an update keeps of a unit holds of every unit after it. -/
theorem unitOf_updOpt_keeps {Q : OptUnit → Prop} {f : OptUnit → OptUnit} (hf : ∀ o, Q o → Q (f o)) {s : State} {d j : Nat} (c k : Nat)
    (h : Q (unitOf s d j)) : Q (unitOf (updOpt s c k f) d j) := by
  by_cases hdj : d = c ∧ j = k
  · obtain ⟨rfl, rfl⟩ := hdj
    cases hx : ctxAt s d with
    | none => rwa [updOpt, updCtx, hx]
    | some x => rw [unitOf_updOpt_same hx]; exact hf _ h
  · rwa [unitOf_updOpt_other s f hdj]

/-! ## Promises of a unit -/

theorem promiseAt_tset_same (o : OptUnit) (j : Nat) (p : Promise) : promiseAt { o with promises := tset o.promises j p } j = p :=
  tgetD_tset_same _ _ _ _

theorem promiseAt_tset_other (o : OptUnit) {j k : Nat} (p : Promise) (h : k ≠ j) :
    promiseAt { o with promises := tset o.promises j p } k = promiseAt o k :=
  tgetD_tset_other _ _ _ h

/-- What a change of one promise keeps of it, it keeps of every promise. -/
theorem promiseAt_tset_keeps {Q : Promise → Prop} {f : Promise → Promise} (hf : ∀ p, Q p → Q (f p)) {o : OptUnit} {i : Nat} (j : Nat)
    (h : Q (promiseAt o i)) : Q (promiseAt { o with promises := tset o.promises j (f (promiseAt o j)) } i) := by
  by_cases hi : i = j
  · subst hi
    rw [promiseAt_tset_same]
    exact hf _ h
  · rwa [promiseAt_tset_other o _ hi]

/-- An update of a promise keeps of a unit what setting that promise keeps. -/
theorem unitOf_updPromise_keeps {Q : OptUnit → Prop} {f : Promise → Promise} {j : Nat}
    (hf : ∀ o, Q o → Q { o with promises := tset o.promises j (f (promiseAt o j)) }) {s : State} {d i : Nat} (c k : Nat)
    (h : Q (unitOf s d i)) : Q (unitOf (updPromise s c k j f) d i) :=
  unitOf_updOpt_keeps hf c k h

theorem unitOf_updRegion_keeps {Q : OptUnit → Prop} (hr : ∀ o we r, Q o → Q { o with regions := tset o.regions we r }) {s : State}
    {d i : Nat} (c k we : Nat) (f : Region → Region) (h : Q (unitOf s d i)) : Q (unitOf (updRegion s c k we f) d i) :=
  unitOf_updOpt_keeps (fun o => hr o we _) c k h

/-! ## The record of a task attempt (R388) -/

/-- The state in which result w of the task of core E.n is noted. -/
def noted (s : State) (E : Env) (w : Word) : State :=
  match taskEnv s E.n with
  | some (t, x, u) => noteResult s { E with t := t, x := x, u := u } w
  | none => s

theorem noteResult_only (s : State) (E : Env) (w : Word) : ∃ ctxs, noteResult s E w = { s with ctxs := ctxs } := by
  unfold noteResult setReplay
  apply updOpt_only

theorem promises_noteResult (s : State) (E : Env) (w : Word) (c k : Nat) :
    (unitOf (noteResult s E w) c k).promises = (unitOf s c k).promises := by
  refine unitOf_updOpt_keeps (Q := fun o => o.promises = (unitOf s c k).promises) ?_ E.t.ctx (clusterOf E.n) rfl
  exact fun _ h => h

theorem noted_only (s : State) (E : Env) (w : Word) : ∃ ctxs, noted s E w = { s with ctxs := ctxs } := by
  unfold noted
  split
  · exact noteResult_only _ _ _
  · exact ⟨_, rfl⟩

theorem promises_noted (s : State) (E : Env) (w : Word) (c k : Nat) : (unitOf (noted s E w) c k).promises = (unitOf s c k).promises := by
  unfold noted
  split
  · exact promises_noteResult _ _ _ _ _
  · rfl

theorem promiseAt_noted (s : State) (E : Env) (w : Word) (c k j : Nat) :
    promiseAt (unitOf (noted s E w) c k) j = promiseAt (unitOf s c k) j :=
  congrArg (tgetD · j Promise.reset) (promises_noted s E w c k)

theorem sameRegs_noted (s : State) (E : Env) (w : Word) (n : Nat) : SameRegs (coreAt s n) (coreAt (noted s E w) n) := by
  obtain ⟨ctxs, h⟩ := noted_only s E w
  rw [h]
  exact ⟨fun _ => rfl, fun _ => rfl, fun _ => rfl⟩

theorem sameMemory_noted (s : State) (E : Env) (w : Word) : SameMemory s (noted s E w) := by
  obtain ⟨ctxs, h⟩ := noted_only s E w
  rw [h]
  exact sameMemory_rfl s

/-- A task that does not run again takes no earlier result. -/
theorem earlier_first {E : Env} (h : E.t.rerun = false) : earlier E = none := if_neg (by rw [h]; exact Bool.false_ne_true)

theorem settledCards_atRest {s : State} {E : Env} {x : Ctx} (hx : ctxAt s E.t.ctx = some x) (h : Spec.AtRest s E.n (optAt x (clusterOf E.n))) :
    settledCards s E = true := by
  obtain ⟨hcards, hworks⟩ := h
  have hd : drained s E.n = true := by rw [drained, hcards]; rfl
  have hs : strained s E.t.ctx E.n = true := by
    rw [strained, unitOf_of hx, List.all_eq_true]
    intro e he
    cases hw : e.2.work with
    | none => rfl
    | some w => exact decide_eq_true (hworks e he w hw)
  rw [settledCards, hd, hs]
  rfl

/-! ## The strainer's loop (R371) -/

/-- A promise that the cursor has passed. -/
def cursorPassed (p : Promise) : Promise := { p with closed := true, locks := [] }

theorem closeOne_eq (s : State) (c k we j : Nat) : closeOne s c k we j =
    updRegion (updPromise s c k j cursorPassed) c k we (fun r => { r with cur := (r.cur + 1) % 65536 }) := rfl

section
variable {Q : OptUnit → Prop} (hp : ∀ o j, Q o → Q { o with promises := tset o.promises j (cursorPassed (promiseAt o j)) })
  (hr : ∀ o we r, Q o → Q { o with regions := tset o.regions we r })
include hp hr

theorem closeOne_keeps {s : State} {d i : Nat} (c k we j : Nat) (h : Q (unitOf s d i)) : Q (unitOf (closeOne s c k we j) d i) := by
  rw [closeOne_eq]
  exact unitOf_updRegion_keeps hr c k we _ (unitOf_updPromise_keeps (fun o => hp o j) c k h)

/-- The loop closes promises and sets regions, and keeps of a unit what these keep. -/
theorem strainLoop_keeps (retire : Bool) (n : Nat) {s : State} {d i : Nat} (c k we : Nat) (h : Q (unitOf s d i)) :
    Q (unitOf (strainLoop retire n s c k we) d i) := by
  induction n generalizing s with
  | zero => exact h
  | succ n ih =>
    unfold strainLoop
    dsimp only
    split
    · exact h
    · split
      · exact h
      · split
        · exact h
        · split
          · exact ih (closeOne_keeps hp hr c k we _ h)
          · exact unitOf_updRegion_keeps hr c k we _ h

end

theorem closeOne_only (s : State) (c k we j : Nat) : ∃ ctxs, closeOne s c k we j = { s with ctxs := ctxs } := by
  obtain ⟨a, ha⟩ := updOpt_only s c k fun o => { o with promises := tset o.promises j (cursorPassed (promiseAt o j)) }
  obtain ⟨b, hb⟩ := updOpt_only { s with ctxs := a } c k fun o =>
    { o with regions := tset o.regions we { regionAt o we with cur := ((regionAt o we).cur + 1) % 65536 } }
  exact ⟨b, by rw [closeOne_eq, updPromise, ha]; exact hb⟩

theorem strainLoop_only (retire : Bool) (n : Nat) (s : State) (c k we : Nat) :
    ∃ ctxs, strainLoop retire n s c k we = { s with ctxs := ctxs } := by
  induction n generalizing s with
  | zero => exact ⟨_, rfl⟩
  | succ n ih =>
    unfold strainLoop
    dsimp only
    split
    · exact ⟨_, rfl⟩
    · split
      · exact ⟨_, rfl⟩
      · split
        · exact ⟨_, rfl⟩
        · split
          · rename_i j p _ _ _ _
            obtain ⟨a, ha⟩ := closeOne_only s c k we j
            obtain ⟨b, hb⟩ := ih (closeOne s c k we j)
            exact ⟨b, by rw [hb, ha]⟩
          · exact updOpt_only _ _ _ _

/-- The loop keeps the state of every promise. -/
theorem state_strainLoop (retire : Bool) (n : Nat) (s : State) (c k we d i j : Nat) :
    (promiseAt (unitOf (strainLoop retire n s c k we) d i) j).state = (promiseAt (unitOf s d i) j).state := by
  refine strainLoop_keeps (Q := fun o => (promiseAt o j).state = (promiseAt (unitOf s d i) j).state) (fun o i h => ?_) (fun _ _ _ h => h)
    retire n c k we rfl
  exact promiseAt_tset_keeps (Q := fun p => p.state = _) (f := cursorPassed) (fun _ h => h) i h

/-- The loop opens no promise again that the cursor has passed. -/
theorem closed_strainLoop (retire : Bool) (n : Nat) {s : State} {d i j : Nat} (c k we : Nat) (h : (promiseAt (unitOf s d i) j).closed = true) :
    (promiseAt (unitOf (strainLoop retire n s c k we) d i) j).closed = true := by
  refine strainLoop_keeps (Q := fun o => (promiseAt o j).closed = true) (fun o i h => ?_) (fun _ _ _ h => h) retire n c k we h
  exact promiseAt_tset_keeps (Q := fun p => p.closed = true) (f := cursorPassed) (fun _ _ => rfl) i h

theorem closed_closeOne {s : State} {c : Nat} {x : Ctx} (h : ctxAt s c = some x) (k we j : Nat) :
    (promiseAt (unitOf (closeOne s c k we j) c k) j).closed = true := by
  rw [closeOne_eq]
  refine unitOf_updRegion_keeps (Q := fun o => (promiseAt o j).closed = true) (fun _ _ _ h => h) c k we _ ?_
  rw [updPromise, unitOf_updOpt_same h, promiseAt_tset_same]
  rfl

/-- A promise that stands at the cursor without an action to come is passed in the same event. -/
theorem strain_passes {s : State} {c k we j : Nat} {x : Ctx} {p : Promise} (hx : ctxAt s c = some x)
    (hw : (regionAt (unitOf s c k) we).work = none) (hj : atCursor (unitOf s c k) we = some (j, p)) (ho : p.state ≠ .open_)
    (hp : cursorPhases p = []) : (promiseAt (unitOf (strain s c k we) c k) j).closed = true := by
  have hs : strain s c k we = strainLoop false 64 (closeOne s c k we j) c k we := by
    unfold strain
    rw [strainLoop]
    simp only [hw, Option.isSome_none, Bool.false_eq_true, if_false, hj, ho, hp]
  rw [hs]
  exact closed_strainLoop false 64 c k we (closed_closeOne hx k we j)

end Sys2Proof.Machine
end

section
/-! PROOF. prm.open, prm.query and prm.cancel (O28; R46, R366 to R387). -/

namespace Sys2Proof.Machine

/-! ## The regions of a descriptor -/

theorem entryOk_of_regionOk {E : Env} {e : Entry} {ver : Bool} (h : regionOk E e ver = true) : entryOk E e = true := by
  unfold regionOk at h
  simp only [Bool.and_eq_true] at h
  tauto

/-- The four regions agree only where each is a region of its kind. -/
theorem regionsOk_of_agree {E : Env} {w g h p : Entry} (ha : disagrees E w g h p = none) :
    regionOk E w true = true ∧ regionOk E g false = true ∧ regionOk E h false = true ∧ regionOk E p false = true := by
  unfold disagrees at ha
  split at ha
  · cases ha
  next hw =>
    split at ha
    · cases ha
    next hg =>
      split at ha
      · cases ha
      next hh =>
        split at ha
        · cases ha
        next hp =>
          simp only [Bool.or_eq_true, not_or, Bool.not_eq_true', Bool.not_eq_false] at hw hg hh hp
          exact ⟨hw.1, hg.1, hh, hp.1⟩

theorem malformed_of_first {E : Env} {l : List Entry} {e : Entry} (h : Spec.FirstMalformed E l e) :
    malformed E l = some (Spec.malformedReq e) := by
  obtain ⟨l₁, l₂, rfl, hgood, hbad⟩ := h
  have hf : (l₁ ++ e :: l₂).find? (fun e => !entryOk E e) = some e := by
    rw [List.find?_append, List.find?_eq_none.2 (fun f hf => by simp [hgood f hf]), List.find?_cons_of_pos (by simp [hbad])]
    rfl
  rw [malformed, hf]
  rfl

theorem malformed_eq_none {E : Env} {l : List Entry} (h : ∀ e ∈ l, entryOk E e = true) : malformed E l = none := by
  rw [malformed, List.find?_eq_none.2 (fun e he => by simp [h e he])]
  rfl

/-- A descriptor that is there is read. -/
theorem withDesc_free {s : State} {E : Env} {a n : Reg} {D : Spec.Desc} (h : Spec.DescFree s E a n D)
    (go : Entry → List Nat → List Word → Body) : withDesc s E a n go = go D.e D.locs D.w := by
  have hl := h.layout
  rw [h.words, h.locs]
  rw [h.entry] at hl ⊢
  unfold withDesc
  dsimp only
  rw [hl]

theorem newRangeGuard_pass {s : State} {E : Env} {r : Side} (h : clashAt s E.x E.n r = none) : newRangeGuard s E r = .pass := by
  rw [newRangeGuard, h]

theorem prodGuard_pass {E : Env} {w : Entry} (h : E.x.det = true → w.prod = E.prel) : prodGuard E w = .pass :=
  if_neg fun ⟨hd, hn⟩ => hn (h hd)

/-! ## prm.open -/

/-- The promise that prm.open enters, with the locks of its two source ranges. -/
def opened (E : Env) (D : Spec.Desc) (j : Nat) : Promise :=
  openedPromise E (Spec.unit E) j D.w (D.ents E)
    [(wholeSide E.x E.n (capEntry (D.ents E) 1) false).lock E.n 0, (wholeSide E.x E.n (capEntry (D.ents E) 2) false).lock E.n 0]

theorem handleOf_opened (E : Env) (D : Spec.Desc) (j : Nat) :
    handleOf (opened E D j) j = BitVec.ofNat 32 (((promiseAt (Spec.unit E) j).gen + 1) % 1024 * 64 + j % 64) :=
  congrArg (fun g => word (g * 64 + j % 64)) (Nat.mod_mod _ 1024)

/-- The state with that promise entered and its handle noted. -/
def afterOpen (s : State) (E : Env) (D : Spec.Desc) (j : Nat) : State :=
  noted (updPromise s E.t.ctx (clusterOf E.n) j fun _ => opened E D j) E (handleOf (opened E D j) j)

theorem afterOpen_only (s : State) (E : Env) (D : Spec.Desc) (j : Nat) : ∃ ctxs, afterOpen s E D j = { s with ctxs := ctxs } := by
  obtain ⟨a, ha⟩ := updOpt_only s E.t.ctx (clusterOf E.n) fun o => { o with promises := tset o.promises j (opened E D j) }
  obtain ⟨b, hb⟩ := noted_only { s with ctxs := a } E (handleOf (opened E D j) j)
  exact ⟨b, by rw [afterOpen, updPromise, ha, hb]⟩

theorem promises_afterOpen {s : State} {E : Env} (D : Spec.Desc) (j : Nat) (hx : ctxAt s E.t.ctx = some E.x) :
    (unitOf (afterOpen s E D j) E.t.ctx (clusterOf E.n)).promises = tset (Spec.unit E).promises j (opened E D j) := by
  rw [afterOpen, promises_noted, updPromise, unitOf_updOpt_same hx, unitOf_of hx]
  rfl

section
variable {s : State} {t : Task} {x : Ctx} {u : Run} {E : Env} {a n : Reg} {D : Spec.Desc} (he : taskEnv s s.cur = some (t, x, u))
  (hE : E = Spec.env s t x u) (ht : E.t.rerun = false) (hD : Spec.DescFree s E a n D) (hs : settledCards s E = true)
include he hE ht hD hs

theorem prmOpenBody_malformed (d : Reg) (l : BitVec 4) {e : Entry}
    (hm : Spec.FirstMalformed E ((D.ents E).map fun c => { num := c.1, words := c.2 }) e) :
    prmOpenBody d a n l s = .trap (Spec.malformedReq e) := by
  have hm := malformed_of_first hm
  unfold prmOpenBody
  rw [withEnv_eq E he hE, earlier_first ht]
  dsimp only
  rw [withDesc_free hD, hs, if_neg Bool.noConfusion]
  simp only [Spec.Desc.ents, Spec.Desc.handle] at hm
  simp only [hm]

/-- prm.open with four regions that agree, no guard that holds it and a free entry. -/
theorem prmOpenBody_opens (d : Reg) (l : BitVec 4) {j : Nat}
    (hagree : disagrees E (capEntry (D.ents E) 0) (capEntry (D.ents E) 1) (capEntry (D.ents E) 2) (capEntry (D.ents E) 3) = none)
    (hword : badOpenWord D.w = none) (hprod : E.x.det = true → (capEntry (D.ents E) 0).prod = E.prel)
    (hticket : ticketTaken (Spec.unit E) (capEntry (D.ents E) 0).num (field (D.w.getD 4 0#32) 15 0) = false)
    (hfree : freeEntry (Spec.unit E) (slotOf E.n) = some j)
    (hg : clashAt s E.x E.n (wholeSide E.x E.n (capEntry (D.ents E) 1) false) = none)
    (hh : clashAt s E.x E.n (wholeSide E.x E.n (capEntry (D.ents E) 2) false) = none) :
    prmOpenBody d a n l s = .ok (pend (afterOpen s E D j) E.n .long l [sres E.c d (handleOf (opened E D j) j)] 0#5 (openCounts E.c)) := by
  have hm : malformed E ((D.ents E).map fun c => { num := c.1, words := c.2 }) = none := by
    obtain ⟨hw, hg, hh, hp⟩ := regionsOk_of_agree hagree
    refine malformed_eq_none fun e he => ?_
    simp only [Spec.Desc.ents, List.map_cons, List.map_nil, List.mem_cons, List.not_mem_nil, or_false] at he
    rcases he with rfl | rfl | rfl | rfl
    · exact entryOk_of_regionOk hw
    · exact entryOk_of_regionOk hg
    · exact entryOk_of_regionOk hh
    · exact entryOk_of_regionOk hp
  have hmark : descMark s E D.e D.locs = .pass := congrArg Guard.ofTrap hD.unmarked
  have hlock : descLock s E D.e D.locs = .pass := congrArg Guard.ofTrap hD.unlocked
  have hpoison : descPoison s E D.e D.locs = .pass := congrArg Guard.ofTrap hD.clean
  have hprod := prodGuard_pass hprod
  have hg := newRangeGuard_pass hg
  have hh := newRangeGuard_pass hh
  unfold prmOpenBody
  rw [withEnv_eq E he hE, earlier_first ht]
  dsimp only
  rw [withDesc_free hD, hs, if_neg Bool.noConfusion]
  simp only [Spec.Desc.ents, Spec.Desc.handle, Spec.unit] at hm hagree hprod hticket hg hh hfree
  simp only [hm, hagree, hword, hprod, hmark, hticket, hfree, hlock, hg, hh, hpoison, firstGuard, guarded]
  rfl

end

theorem promiseOpens : Spec.PromiseOpens := by
  intro s s1 d a n l t x u D j hi he ht
  rw [← go_cur hi] at he ⊢
  intro E o ents W w hD hr
  obtain ⟨-, hx, -⟩ := taskEnv_some he
  have hs : settledCards s1 E = true := settledCards_atRest hx hr
  refine ⟨fun e hm => ?_, fun hagree hword hprod hticket hfree hg hh => ?_⟩
  · rw [go_cur hi]
    exact issue_traps hi (prmOpenBody_malformed he rfl ht hD hs d l hm)
  · have hb := prmOpenBody_opens he rfl ht hD hs d l hagree hword hprod hticket hfree hg hh
    rw [handleOf_opened] at hb
    obtain ⟨ctxs, hunits⟩ := afterOpen_only s1 E D j
    have hp : (unitOf (afterOpen s1 E D j) t.ctx (clusterOf s1.cur)).promises = tset o.promises j (opened E D j) := promises_afterOpen D j hx
    refine ⟨afterOpen s1 E D j, opened E D j, issue_moves hi rfl hb, ?_, rfl, rfl, rfl, rfl, rfl, rfl, rfl, rfl, rfl, rfl, rfl, rfl,
      fun k hk => ?_, ?_, ?_⟩
    · rw [promiseAt, hp]
      exact tgetD_tset_same _ _ _ _
    · rw [promiseAt, hp]
      exact tgetD_tset_other _ _ _ hk
    · rw [hunits]
      exact ⟨fun _ => rfl, fun _ => rfl, fun _ => rfl⟩
    · rw [hunits]
      exact sameMemory_rfl s1

/-! ## prm.query and prm.cancel -/

/-- An instruction that returns a word with the core's cards drained and its promises at rest (R387). -/
theorem drainedResult_eq {s : State} {t : Task} {x : Ctx} {u : Run} {E : Env} (he : taskEnv s s.cur = some (t, x, u))
    (hE : E = Spec.env s t x u) (ht : E.t.rerun = false) (hs : settledCards s E = true) (d : Reg) (l : BitVec 4) (f : Env → Word × State) :
    drainedResult d l s f = longRes (noted (f E).2 E (f E).1) l [sres E.c d (f E).1] := by
  unfold drainedResult
  rw [withEnv_eq E he hE, earlier_first ht]
  dsimp only
  rw [hs, if_neg Bool.noConfusion]
  unfold noted
  cases taskEnv (f E).2 E.n <;> rfl

/-- The state in which promise j is cancelled (R375). -/
def cancelled (s : State) (c k j : Nat) : State := updPromise s c k j fun p => { p with state := .cancelled }

/-- The strainer's loop leaves a cancelled promise cancelled. -/
theorem state_cancelled {s : State} {c : Nat} {x : Ctx} (hx : ctxAt s c = some x) (k j we : Nat) :
    (promiseAt (unitOf (strain (cancelled s c k j) c k we) c k) j).state = .cancelled := by
  rw [strain, state_strainLoop, cancelled, updPromise, unitOf_updOpt_same hx, promiseAt_tset_same]

/-- A promise that stands alone at the cursor is passed when it is cancelled. -/
theorem closed_cancelled {s : State} {c k j : Nat} {x : Ctx} (hx : ctxAt s c = some x) {p : Promise} (hp : p = promiseAt (optAt x k) j)
    (hc : p.closed = false) (hw : (regionAt (optAt x k) p.we).work = none)
    (ht : p.ticket = (regionAt (optAt x k) p.we).cur)
    (hu : ∀ e ∈ (optAt x k).promises, e.2.state ≠ .free → e.2.we = p.we → e.2.ticket = p.ticket → e.2.closed = false → e.1 = j) :
    (promiseAt (unitOf (strain (cancelled s c k j) c k p.we) c k) j).closed = true := by
  have hunit : unitOf (cancelled s c k j) c k =
      { optAt x k with promises := tset (optAt x k).promises j { p with state := .cancelled } } := by
    rw [cancelled, updPromise, unitOf_updOpt_same hx, unitOf_of hx, hp]
  have hcur : atCursor (unitOf (cancelled s c k j) c k) p.we = some (j, { p with state := .cancelled }) := by
    rw [atCursor, hunit]
    refine find?_eq_some_of_unique (mem_of_tget (tget_tset_same _ _ _)) ?_ fun e he hpe => ?_
    · exact Bool.and_eq_true_iff.2 ⟨decide_eq_true ⟨PState.noConfusion, rfl, ht⟩, by rw [hc]; rfl⟩
    · rw [Bool.and_eq_true, decide_eq_true_eq, Bool.not_eq_true'] at hpe
      obtain ⟨⟨hfree, hwe, htick⟩, hclosed⟩ := hpe
      rcases mem_tset he with he | ⟨he, hj⟩
      · exact he
      · exact absurd (hu e he hfree hwe (htick.trans ht.symm) hclosed) hj
  obtain ⟨y, hy⟩ : ∃ y, ctxAt (cancelled s c k j) c = some y := ⟨_, by rw [cancelled, updPromise, updOpt, ctxAt_updCtx, hx]; rfl⟩
  refine strain_passes hy ?_ hcur (fun h => by cases h) rfl
  rw [hunit]
  exact hw

/-- prm.query's word of entry j (R387). -/
def queried (o : OptUnit) (sel : BitVec 5) (j : Nat) : Word :=
  let p := promiseAt o j
  let q := regionAt o p.we
  if sel = 0#5 then p.word0 else if sel = 1#5 then p.word4 else if sel = 2#5 then p.tag
  else BitVec.ofNat 32 (q.cur % 2 ^ 16 * 2 ^ 16 + q.wver % 2 ^ 7)

theorem queried_eq {o : OptUnit} {sel : BitVec 5} (h : sel.toNat < 4) (j : Nat) :
    (match sel.toNat with
      | 0 => (promiseAt o j).word0
      | 1 => (promiseAt o j).word4
      | 2 => (promiseAt o j).tag
      | _ => word ((regionAt o (promiseAt o j).we).cur % 2 ^ 16 * 2 ^ 16 + (regionAt o (promiseAt o j).we).wver % 2 ^ 7)) = queried o sel j := by
  have hsel : sel = 0#5 ∨ sel = 1#5 ∨ sel = 2#5 ∨ sel = 3#5 := by bv_omega
  rcases hsel with rfl | rfl | rfl | rfl <;> rfl

/-- What prm.cancel makes of the state, for the entry that its handle names. -/
def afterCancel (s : State) (E : Env) : Option Nat → State
  | none => s
  | some j =>
    let p := promiseAt (Spec.unit E) j
    if p.state = .open_ then strain (cancelled s E.t.ctx (clusterOf E.n) j) E.t.ctx (clusterOf E.n) p.we else s

section
variable {s : State} {E : Env} {j : Nat}

theorem afterCancel_open (h : (promiseAt (Spec.unit E) j).state = .open_) : afterCancel s E (some j) =
    strain (cancelled s E.t.ctx (clusterOf E.n) j) E.t.ctx (clusterOf E.n) (promiseAt (Spec.unit E) j).we := if_pos h

theorem afterCancel_kept (h : (promiseAt (Spec.unit E) j).state ≠ .open_) : afterCancel s E (some j) = s := if_neg h

end

theorem afterCancel_cur (s : State) (E : Env) (live : Option Nat) : (afterCancel s E live).cur = s.cur := by
  cases live with
  | none => rfl
  | some j =>
    unfold afterCancel
    dsimp only
    split
    · obtain ⟨a, ha⟩ := strainLoop_only false 65 (cancelled s E.t.ctx (clusterOf E.n) j) E.t.ctx (clusterOf E.n) (promiseAt (Spec.unit E) j).we
      rw [strain, ha]
      exact updCtx_cur _ _ _
    · rfl

/-- The word that prm.query or prm.cancel answers: all ones for a handle that is not live (R387). -/
def answerWord (f : Nat → Word) : Option Nat → Word
  | none => 0xFFFFFFFF#32
  | some j => f j

section
variable {s s1 : State} {t : Task} {x : Ctx} {u : Run} {E : Env} {d a : Reg} {l : BitVec 4} (he : taskEnv s1 s1.cur = some (t, x, u))
  (hE : E = Spec.env s1 t x u) (ht : E.t.rerun = false) (hs : settledCards s1 E = true)
include he hE ht hs

/-- An instruction that returns a word with the core's cards drained and its promises at rest completes (R387). -/
theorem drainedResult_moves {i : Instr} {sh : Shape} {body : State → Body} {f : Env → Word × State} (hi : Issues i sh s s1) (hl : sh.len = 4)
    (hb : body s1 = drainedResult d l s1 f) {w : Word} {s2 : State} (hf : f E = (w, s2)) (hc : s2.cur = s1.cur) :
    issue i sh body s = .next (moveOn s1 (pend (noted s2 E w) s1.cur .long l [sres E.c d w] 0#5 []) s1.cur 4) := by
  obtain ⟨ctxs, hn⟩ := noted_only s2 E w
  have hcur : (noted s2 E w).cur = s1.cur := by rw [hn]; exact hc
  refine issue_moves hi hl ?_
  rw [hb, drainedResult_eq he hE ht hs, hf, longRes, hcur]

theorem exec_prmQuery {sel : BitVec 5} (hi : Issues (.prmQuery d a sel l) { names := [nS d, nS a] } s s1) (hsel : sel.toNat < 4) :
    let w := answerWord (queried (Spec.unit E) sel) (liveEntry (Spec.unit E) E.n (rdS E.c a.toNat))
    exec (.prmQuery d a sel l) s = .next (moveOn s1 (pend (noted s1 E w) s1.cur .long l [sres E.c d w] 0#5 []) s1.cur 4) := by
  refine drainedResult_moves he hE ht hs hi rfl (if_neg (by omega)) ?_ rfl
  dsimp only
  cases hlive : liveEntry (Spec.unit E) E.n (rdS E.c a.toNat) with
  | none =>
    unfold Spec.unit at hlive
    rw [hlive]
    rfl
  | some j =>
    unfold Spec.unit at hlive
    rw [hlive]
    exact congrArg (·, s1) (queried_eq hsel j)

theorem exec_prmCancel (hi : Issues (.prmCancel d a l) { names := [nS d, nS a] } s s1) (hx : ctxAt s1 E.t.ctx = some E.x)
    {live : Option Nat} (hlive : liveEntry (Spec.unit E) E.n (rdS E.c a.toNat) = live) :
    ∃ r, exec (.prmCancel d a l) s = .next (moveOn s1 (pend r s1.cur .long l
        [sres E.c d (answerWord (fun j => (promiseAt (unitOf r E.t.ctx (clusterOf E.n)) j).word0) live)] 0#5 []) s1.cur 4) ∧
      ∀ c k j, promiseAt (unitOf r c k) j = promiseAt (unitOf (afterCancel s1 E live) c k) j := by
  refine ⟨_, ?_, promiseAt_noted (afterCancel s1 E live) E
    (answerWord (fun j => (promiseAt (unitOf (afterCancel s1 E live) E.t.ctx (clusterOf E.n)) j).word0) live)⟩
  simp only [promiseAt_noted]
  refine drainedResult_moves he hE ht hs hi rfl rfl ?_ (afterCancel_cur s1 E live)
  unfold Spec.unit at hlive
  dsimp only
  rw [hlive]
  cases live with
  | none => rfl
  | some j =>
    change _ = (Promise.word0 (promiseAt (unitOf (afterCancel s1 E (some j)) E.t.ctx (clusterOf E.n)) j), afterCancel s1 E (some j))
    by_cases h : (promiseAt (Spec.unit E) j).state = .open_
    · rw [afterCancel_open h]
      exact if_pos h
    · rw [afterCancel_kept h, unitOf_of hx]
      exact if_neg h

end

theorem promiseAnswers : Spec.PromiseAnswers := by
  intro s s1 d a sel l t x u he ht E o hr
  obtain ⟨-, hx, -⟩ := taskEnv_some he
  constructor
  · intro hi hsel
    rw [← go_cur hi] at he hr ⊢
    refine ⟨_, exec_prmQuery he rfl ht (settledCards_atRest hx hr) hi hsel, ?_, sameRegs_noted .., sameMemory_noted ..⟩
    exact (promises_noted ..).trans (congrArg OptUnit.promises (unitOf_of hx _))
  · intro hi
    rw [← go_cur hi] at he hr ⊢
    obtain ⟨r, hexec, hp⟩ := exec_prmCancel he rfl ht (settledCards_atRest hx hr) hi hx rfl
    refine ⟨r, hexec, fun j hj => ?_⟩
    intro p p'
    have hp' : p' = promiseAt (unitOf (afterCancel s1 E (some j)) t.ctx (clusterOf s1.cur)) j := by
      rw [← hj]
      exact hp _ _ j
    have hopen (ho : p.state = .open_) : afterCancel s1 E (some j) = strain (cancelled s1 t.ctx (clusterOf s1.cur) j) t.ctx (clusterOf s1.cur) p.we :=
      afterCancel_open ho
    refine ⟨fun ho => ?_, fun ho => ?_, fun ho hclosed hwork hticket hu => ?_⟩
    · rw [hp', afterCancel_kept ho, unitOf_of hx]
      rfl
    · rw [hp', hopen ho]
      exact state_cancelled hx _ j p.we
    · rw [hp', hopen ho]
      exact closed_cancelled hx rfl hclosed hwork hticket hu

/-- Settles O28: prm.open enters a promise (prmOpenBody_opens), and prm.query and prm.cancel answer the word of an entry (exec_prmQuery,
exec_prmCancel). -/
theorem promisesOpen : Obligations.PromisesOpen := ⟨promiseOpens, promiseAnswers⟩

end Sys2Proof.Machine
end

section
/-! PROOF. The start of a task (O47; R40, R57, R59, R350). -/

namespace Sys2Proof.Machine

/-- The strainer's record of the task concerns the contexts only. -/
theorem freshReplay_only (s : State) (n : Nat) (t : Task) (u : Run) : ∃ ctxs, freshReplay s n t u = { s with ctxs := ctxs } := by
  unfold freshReplay updOpt updCtx
  split <;> exact ⟨_, rfl⟩

theorem startTask_idle {s : State} {n : Nat} (h : (coreAt s n).next = none) : startTask s n = s := by
  unfold startTask
  dsimp only
  rw [h]
  cases (coreAt s n).task <;> rfl

theorem inStop_of {x : Ctx} {u : Run} {c : Core} (h : ∀ v, u.stopw = some v → windowOf x u c ≤ v) : inStop x u c = true := by
  unfold inStop
  split
  next v hv => exact decide_eq_true (h v hv)
  next => rfl

theorem startTask_starts {s : State} {n : Nat} {t : Task} {x : Ctx} {u : Run} (htask : (coreAt s n).task = none)
    (hnext : (coreAt s n).next = some t) (hx : ctxAt s t.ctx = some x) (hu : runAt x t.ridx = some u) (hi : issuing x = true)
    (hf : n ∉ s.failed) (hr : u.running = true) (hw : inStop x u (coreAt s n) = true) :
    startTask s n = setCore (freshReplay s n t u) n (startState (coreAt s n) x u t n) := by
  have hc : s.failed.contains n = false := by simpa using hf
  unfold startTask
  simp only [htask, hnext, hx, hu, hi, hc, hr, hw, and_self, if_true]

theorem getD_replicate {α : Type} (n k : Nat) (a : α) : (Vector.replicate n a).getD k a = a := by
  by_cases h : k < n <;> simp [Vector.getD, h]

/-- The scalar registers of a task that starts: s1 and s2 hold the tile coordinates C0 and C1 (R40). -/
theorem rdS_startState (k : Core) (x : Ctx) (u : Run) (t : Task) (n r : Nat) :
    rdS (startState k x u t n) r = if r = 1 then word t.c0 else if r = 2 then word t.c1 else 0#32 := by
  have hs : rdS (startState k x u t n) r =
      if r = 0 then 0#32 else (((Vector.replicate 32 0#32).setIfInBounds 1 (word t.c0)).setIfInBounds 2 (word t.c1)).getD r 0#32 := rfl
  rw [hs]
  by_cases h2 : r = 2
  · subst h2
    rw [getD_set_same _ 2 _ _ (by omega)]
    rfl
  by_cases h1 : r = 1
  · subst h1
    rw [getD_set_other _ _ _ (Ne.symm h2), getD_set_same _ 1 _ _ (by omega)]
    rfl
  rw [getD_set_other _ _ _ (Ne.symm h2), getD_set_other _ _ _ (Ne.symm h1), getD_replicate, if_neg h1, if_neg h2, ite_self]

theorem rdV_startState (k : Core) (x : Ctx) (u : Run) (t : Task) (n r : Nat) : rdV (startState k x u t n) r = 0#256 := getD_replicate ..

theorem rdP_startState (k : Core) (x : Ctx) (u : Run) (t : Task) (n : Nat) {r : Nat} (h : 0 < r) : rdP (startState k x u t n) r = 0#32 :=
  (if_neg (by omega)).trans (getD_replicate ..)

theorem taskStart : Spec.TaskStart := by
  intro s n
  refine ⟨fun h => congrArg Host.Outcome.next (startTask_idle h), fun t x u htask hnext hx hu hi hf hr hw => ?_⟩
  have hexec := startTask_starts htask hnext hx hu hi hf hr (inStop_of hw)
  obtain ⟨ctxs, hreplay⟩ := freshReplay_only s n t u
  refine ⟨setCore (freshReplay s n t u) n (startState (coreAt s n) x u t n), congrArg Host.Outcome.next hexec, ?_⟩
  rw [coreAt_setCore]
  refine ⟨rfl, rfl, rfl, ?_, ?_, fun k h1 h2 => ?_, rdV_startState _ x u t n, fun k => rdP_startState _ x u t n, rfl, rfl, rfl, rfl, rfl, rfl, rfl,
    fun m hm => ?_, ?_⟩
  · rw [rdS_startState, if_pos rfl]
  · rw [rdS_startState, if_neg (by omega), if_pos rfl]
  · rw [rdS_startState, if_neg h1, if_neg h2]
  · rw [coreAt_setCore_other _ _ hm, hreplay]
    rfl
  · rw [hreplay]
    exact sameMemory_rfl s

end Sys2Proof.Machine
end

section
/-! PROOF. Results of a window close (O47; R62, R346). -/

namespace Sys2Proof.Machine

/-- The results l of a window close reach their cores. -/
def delivered (s : State) (x : Ctx) (l : List Delivery) : State := l.foldl (fun s d => deliverOne s (logical x d.core) d) s

/-- Cores among l whose counted wait a close has decided know of it. -/
def readied (s : State) (l : List Nat) : State :=
  l.foldl (fun s n =>
    match (coreAt s n).cwait with
    | some q => if q.res.isSome then updCore s n (fun c => { c with cwait := some { q with ready := true } }) else s
    | none => s) s

/-- The state once all results of record r have reached their cores. -/
def allDelivered (s : State) (c r : Nat) (x : Ctx) (u : Run) : State :=
  updRun (readied (delivered s x u.deliver) (runCores x u)) c r (fun u => { u with deliver := [] })

theorem deliverAll_eq {s : State} {c r : Nat} {x : Ctx} {u : Run} (hx : ctxAt s c = some x) (hu : runAt x r = some u) (hm : moving x = true) :
    deliverAll s c r = allDelivered s c r x u := by
  unfold deliverAll
  simp only [hx, hu, hm, Bool.true_eq_false, if_false]
  rfl

theorem deliverAll_still {s : State} {c r : Nat} {x : Ctx} (hx : ctxAt s c = some x) (hm : moving x = false) : deliverAll s c r = s := by
  unfold deliverAll
  simp only [hx, hm, if_true]
  split <;> rfl

theorem delivered_only (s : State) (x : Ctx) (l : List Delivery) : ∃ cores, delivered s x l = { s with cores := cores } :=
  foldl_only (fun s cores => { s with cores := cores }) (fun _ _ _ => rfl) _ (fun _ _ => ⟨_, rfl⟩) (fun s => ⟨s.cores, rfl⟩) l s

theorem readied_only (s : State) (l : List Nat) : ∃ cores, readied s l = { s with cores := cores } := by
  refine foldl_only (fun s cores => { s with cores := cores }) (fun _ _ _ => rfl) _ (fun s n => ?_) (fun s => ⟨s.cores, rfl⟩) l s
  split
  · split <;> exact ⟨_, rfl⟩
  · exact ⟨_, rfl⟩

/-- Deliveries concern cores only. -/
theorem cores_delivered (s : State) (x : Ctx) (u : Run) :
    ∃ cores, readied (delivered s x u.deliver) (runCores x u) = { s with cores := cores } := by
  obtain ⟨a, ha⟩ := delivered_only s x u.deliver
  obtain ⟨b, hb⟩ := readied_only (delivered s x u.deliver) (runCores x u)
  exact ⟨b, by rw [hb, ha]⟩

/-- Of a core, readied changes the counted wait only. -/
theorem coreAt_readied (s : State) (l : List Nat) (m : Nat) : ∃ w, coreAt (readied s l) m = { coreAt s m with cwait := w } := by
  induction l generalizing s with
  | nil => exact ⟨_, rfl⟩
  | cons n l ih =>
    obtain ⟨w, hw⟩ := ih (readied s [n])
    have hone : ∃ w, coreAt (readied s [n]) m = { coreAt s m with cwait := w } := by
      unfold readied
      rw [List.foldl_cons, List.foldl_nil]
      split
      · split
        · by_cases hm : m = n
          · subst hm
            exact ⟨_, coreAt_updCore ..⟩
          · exact ⟨_, coreAt_updCore_other _ _ hm⟩
        · exact ⟨_, rfl⟩
      · exact ⟨_, rfl⟩
    obtain ⟨w', hw'⟩ := hone
    exact ⟨w, by rw [hw'] at hw; exact hw⟩

/-- The only result that a core waits for, of register d.dest in its bank, is written. -/
theorem coreAt_deliverOne {s : State} {n : Nat} {d : Delivery} {p : Pending} (hp : (coreAt s n).inflight = [p]) (hk : p.kind = .window)
    (hd : p.done = false) (hw : p.writes = [.s d.dest 0#32 d.bank]) :
    (coreAt (deliverOne s n d) n).s = (putS (coreAt s n) d.dest d.val d.bank).s ∧
      (coreAt (deliverOne s n d) n).bank = (putS (coreAt s n) d.dest d.val d.bank).bank := by
  unfold deliverOne
  rw [coreAt_updCore]
  simp only [hp, hk, hd, hw, List.findIdx?_cons, List.any_cons, decide_true, and_self, Bool.true_and, Bool.not_false, Bool.true_or, if_true,
    List.getD_cons_zero, List.map_cons, List.map_nil]
  exact ⟨rfl, rfl⟩

/-- A register below 32 of the task, or one of the banked s24 to s31, after a write (R101, R346). -/
theorem getD_putS (c : Core) {r : Nat} (v : Word) (h0 : 0 < r) (h32 : r < 32) :
    (putS c r v false).s.getD r 0#32 = v ∧ (24 ≤ r → (putS c r v true).bank.getD (r - 24) 0#32 = v) := by
  simp only [putS, if_neg (show r ≠ 0 by omega), Bool.false_eq_true, if_false, if_true]
  exact ⟨getD_set_same _ _ _ _ h32, fun h => getD_set_same _ _ _ _ (by omega)⟩

theorem updRun_only (s : State) (c r : Nat) (f : Run → Run) : ∃ ctxs, updRun s c r f = { s with ctxs := ctxs } := by
  unfold updRun updCtx
  split <;> exact ⟨_, rfl⟩

theorem sameMemory_allDelivered (s : State) (c r : Nat) (x : Ctx) (u : Run) : SameMemory s (allDelivered s c r x u) := by
  obtain ⟨a, ha⟩ := cores_delivered s x u
  obtain ⟨b, hb⟩ := updRun_only { s with cores := a } c r fun u => { u with deliver := [] }
  rw [allDelivered, ha, hb]
  exact sameMemory_rfl s

theorem ctxAt_allDelivered {s : State} {c r : Nat} {x : Ctx} {u : Run} (hx : ctxAt s c = some x) (hu : runAt x r = some u) :
    ctxAt (allDelivered s c r x u) c = some { x with runs := tset x.runs r { u with deliver := [] } } := by
  obtain ⟨a, ha⟩ := cores_delivered s x u
  rw [allDelivered, ha, updRun, ctxAt_updCtx, show ctxAt { s with cores := a } c = some x from hx, Option.map_some, hu]

/-- A core that waits for the only result has it in its register. -/
theorem register_allDelivered {s : State} {c r : Nat} {x : Ctx} {u : Run} {d : Delivery} {p : Pending} (hl : u.deliver = [d])
    (hp : (coreAt s (logical x d.core)).inflight = [p]) (hk : p.kind = .window) (hd : p.done = false)
    (hw : p.writes = [.s d.dest 0#32 d.bank]) (h0 : 0 < d.dest) (h32 : d.dest < 32) :
    (d.bank = false → (coreAt (allDelivered s c r x u) (logical x d.core)).s.getD d.dest 0#32 = d.val) ∧
    (d.bank = true → 24 ≤ d.dest → (coreAt (allDelivered s c r x u) (logical x d.core)).bank.getD (d.dest - 24) 0#32 = d.val) := by
  obtain ⟨w, hready⟩ := coreAt_readied (delivered s x [d]) (runCores x u) (logical x d.core)
  obtain ⟨hs, hbank⟩ := coreAt_deliverOne hp hk hd hw
  obtain ⟨hsame, hbanked⟩ := getD_putS (coreAt s (logical x d.core)) d.val h0 h32
  rw [allDelivered, updRun, coreAt_updCtx, hl, hready]
  refine ⟨fun hb => ?_, fun hb h24 => ?_⟩
  · exact (congrArg (·.getD d.dest 0#32) hs).trans (hb ▸ hsame)
  · exact (congrArg (·.getD (d.dest - 24) 0#32) hbank).trans (hb ▸ hbanked h24)

end Sys2Proof.Machine
end

section
/-! SUPPORT. A record that is over stays so while the scheduler goes on (R53, R54): no arming of it waits for judgement, so it is neither
released nor started. Sched tells nothing of runs and outcomes, so the operations of the scheduler are gone through for these. -/

namespace Sys2Proof.Machine

/-- Record r is over: it has no run, and no arming of it is pending. -/
def Over (r : Nat) (x : Ctx) : Prop := runAt x r = none ∧ ∀ j ∈ x.journal, j.outcome = .pending → j.ridx ≠ r

/-- The function bound to a context stays, and record r stays over. -/
structure StillOver (r : Nat) (x y : Ctx) : Prop where
  func : y.func = x.func
  ended : Over r x → Over r y

/-- Context c stays, with its function, and its record r stays over. -/
structure KeepsOver (c r : Nat) (s t : State) : Prop where
  ctx : ∀ x, ctxAt s c = some x → ∃ y, ctxAt t c = some y ∧ StillOver r x y

variable {c r : Nat} {s t u : State}

theorem StillOver.refl (x : Ctx) : StillOver r x x := ⟨rfl, id⟩

theorem StillOver.trans {x y z : Ctx} (h : StillOver r x y) (g : StillOver r y z) : StillOver r x z :=
  ⟨g.func.trans h.func, g.ended ∘ h.ended⟩

/-- Neither the runs nor the journal change. -/
theorem StillOver.of_eq {x y : Ctx} (hf : y.func = x.func) (hr : y.runs = x.runs) (hj : y.journal = x.journal) : StillOver r x y :=
  ⟨hf, fun ⟨h, g⟩ => ⟨by rwa [runAt, hr], by rwa [hj]⟩⟩

/-- A run of another record. -/
theorem stillOver_setRun (x : Ctx) {i : Nat} (h : runAt x i ≠ none ∨ i ≠ r) (v : Run) : StillOver r x { x with runs := tset x.runs i v } := by
  refine ⟨rfl, fun ⟨hrun, hj⟩ => ⟨?_, hj⟩⟩
  have hi : r ≠ i := fun e => h.elim (fun h => h (e ▸ hrun)) fun h => h e.symm
  exact (tget_tset_other _ _ hi).trans hrun

/-- Entries of the journal whose record and outcome stay, or whose outcome is no longer pending. -/
theorem stillOver_journal (x : Ctx) {f : JEntry → JEntry} (h : ∀ j, (f j).ridx = j.ridx ∧ ((f j).outcome = .pending → j.outcome = .pending)) :
    StillOver r x { x with journal := x.journal.map f } := by
  refine ⟨rfl, fun ⟨hrun, hj⟩ => ⟨hrun, fun j hm ho => ?_⟩⟩
  obtain ⟨k, hk, rfl⟩ := List.mem_map.1 hm
  rw [(h k).1]
  exact hj k hk ((h k).2 ho)

theorem stillOver_journalEnd (x : Ctx) (i : Nat) {o : Outcome3} (ho : o ≠ .pending) : StillOver r x (journalEnd x i o) := by
  refine stillOver_journal x fun j => ?_
  split
  · exact ⟨rfl, fun h => absurd h ho⟩
  · exact ⟨rfl, id⟩

/-- The record that ends is over once its run is gone. -/
theorem over_journalEnd {x : Ctx} (h : runAt x r = none) {o : Outcome3} (ho : o ≠ .pending) : Over r (journalEnd x r o) := by
  refine ⟨h, fun j hm hp hr => ?_⟩
  obtain ⟨k, -, rfl⟩ := List.mem_map.1 hm
  split at hp
  · exact ho hp
  next hk =>
    rw [if_neg hk] at hr
    exact hk ⟨hr, hp⟩

theorem stillOver_delRun (x : Ctx) (i : Nat) : StillOver r x { x with runs := tdel x.runs i } := by
  refine ⟨rfl, fun ⟨hrun, hj⟩ => ⟨?_, hj⟩⟩
  by_cases hi : r = i
  · exact hi ▸ tget_tdel_same ..
  · exact (tget_tdel_other _ hi).trans hrun

theorem stillOver_rememberDeps (x : Ctx) (i : Nat) (ws : Nat → Word) : StillOver r x (rememberDeps x i ws) := by
  refine stillOver_journal x fun j => ?_
  split <;> exact ⟨rfl, id⟩

theorem stillOver_idled (x : Ctx) : StillOver r x (idled x) := by
  unfold idled
  split
  · exact .of_eq rfl rfl rfl
  · exact .refl x

/-! ## States -/

theorem KeepsOver.of_ctxs (h : ctxAt t c = ctxAt s c) : KeepsOver c r s t := ⟨fun x hx => ⟨x, h.trans hx, .refl x⟩⟩

theorem KeepsOver.refl (s : State) : KeepsOver c r s s := .of_ctxs rfl

theorem KeepsOver.trans (h : KeepsOver c r s t) (g : KeepsOver c r t u) : KeepsOver c r s u := by
  refine ⟨fun x hx => ?_⟩
  obtain ⟨y, hy, hxy⟩ := h.ctx x hx
  obtain ⟨z, hz, hyz⟩ := g.ctx y hy
  exact ⟨z, hz, hxy.trans hyz⟩

theorem keepsOver_foldl {α : Type} {f : State → α → State} {l : List α} (h : ∀ s, ∀ a ∈ l, KeepsOver c r s (f s a)) (s : State) :
    KeepsOver c r s (l.foldl f s) := by
  induction l generalizing s with
  | nil => exact .refl s
  | cons a l ih => exact (h s a (.head l)).trans (ih (fun s b hb => h s b (.tail a hb)) _)

theorem keepsOver_setCtx {d : Nat} {x y : Ctx} (hx : ctxAt s d = some x) (h : StillOver r x y) : KeepsOver c r s (setCtx s d y) := by
  refine ⟨fun z hz => ?_⟩
  by_cases hd : c = d
  · subst hd
    obtain rfl : x = z := Option.some.inj (hx.symm.trans hz)
    exact ⟨y, ctxAt_setCtx s c y, h⟩
  · exact ⟨z, (ctxAt_setCtx_other s y hd).trans hz, .refl z⟩

theorem keepsOver_updCtx (d : Nat) {f : Ctx → Ctx} (h : ∀ x, StillOver r x (f x)) : KeepsOver c r s (updCtx s d f) := by
  unfold updCtx
  split
  next hx => exact keepsOver_setCtx hx (h _)
  next => exact .refl s

theorem keepsOver_updRun (d i : Nat) (f : Run → Run) : KeepsOver c r s (updRun s d i f) := by
  refine keepsOver_updCtx d fun x => ?_
  split
  next hu => exact stillOver_setRun x (.inl (by simp [hu])) _
  next => exact .refl x

theorem keepsOver_setStatus (d : Nat) (x : Ctx) (i nd cause st : Nat) : KeepsOver c r s (setStatus s d x i nd cause st) :=
  .of_ctxs (ctxAt_setStatus ..)

/-! ## The start scan -/

@[simp] theorem ctxAt_loadCode (s : State) (d : Nat) (x : Ctx) (v : Run) (n e : Nat) : ctxAt (loadCode s d x v n) e = ctxAt s e := by
  unfold loadCode
  dsimp only
  split
  · rfl
  · exact ctxAt_openCaddy ..

theorem keepsOver_startRecord {d i : Nat} {x : Ctx} {v : Run} (hx : ctxAt s d = some x) (hu : runAt x i = some v) :
    KeepsOver c r s (startRecord s d x i v) := by
  have hctx : ctxAt (setStatus s d x i 0 0 3) d = some x := (ctxAt_setStatus ..).trans hx
  unfold startRecord
  dsimp only
  refine .trans (.trans ?_ (keepsOver_foldl (fun s k _ => .of_ctxs (ctxAt_updCluster ..)) _)) (keepsOver_foldl (fun s e _ => .of_ctxs ?_) _)
  · refine (keepsOver_setStatus ..).trans (keepsOver_setCtx hctx ?_)
    exact (stillOver_setRun x (.inl (by simp [hu])) { v with running := true }).trans (.of_eq rfl rfl rfl)
  · exact ctxAt_loadCode ..

theorem keepsOver_scanList (l held : List Nat) (s : State) (d : Nat) : KeepsOver c r s (scanList l held s d) := by
  induction l generalizing held s with
  | nil => exact .refl s
  | cons i l ih =>
    cases hx : ctxAt s d with
    | none => simp only [scanList, hx]; exact .refl s
    | some x =>
      cases hu : runAt x i with
      | none => simp only [scanList, hx, hu]; exact ih held s
      | some v =>
        simp only [scanList, hx, hu]
        split
        · exact (keepsOver_startRecord hx hu).trans (ih held _)
        · exact ih _ s

theorem keepsOver_scanCtx (s : State) (d : Nat) : KeepsOver c r s (scanCtx s d) := by
  unfold scanCtx
  split
  · exact .refl s
  · dsimp only
    split
    · exact .refl s
    · split
      · exact keepsOver_scanList _ _ _ _
      · split
        · refine keepsOver_foldl (fun s e _ => keepsOver_updCtx e.1 fun y => ?_) _
          split
          · exact .refl y
          · exact .of_eq rfl rfl rfl
        · exact .refl s

theorem keepsOver_scanAll (s : State) : KeepsOver c r s (scanAll s) := by
  have hidle : KeepsOver c r s (dropIdle s) :=
    ⟨fun x hx => ⟨idled x, by rw [ctxAt_dropIdle, hx]; rfl, stillOver_idled x⟩⟩
  exact hidle.trans (keepsOver_foldl (fun s d _ => keepsOver_scanCtx s d) _)

/-! ## The end of a record -/

theorem keepsOver_releaseLocks (s : State) (d n seq : Nat) : KeepsOver c r s (releaseLocks s d n seq) := by
  unfold releaseLocks
  refine .trans (.of_ctxs ?_) (keepsOver_updCtx d fun x => ?_)
  · rfl
  · exact .of_eq rfl rfl rfl

theorem keepsOver_withdraw (s : State) (n : Nat) : KeepsOver c r s (withdraw s n) := by
  have hsent (s : State) : KeepsOver c r s (dropSent s n) := .of_ctxs (ctxAt_dropSent ..)
  have hcmd (s : State) : KeepsOver c r s (dropUnjoined s n) := by
    unfold dropUnjoined
    split
    · exact (KeepsOver.of_ctxs (ctxAt_updCore ..)).trans (keepsOver_releaseLocks ..)
    · exact .refl s
  have hqueue (s : State) : KeepsOver c r s (leaveQueues s n) := by
    unfold leaveQueues
    split
    · split
      · exact .of_ctxs rfl
      · exact .refl s
    · exact .refl s
  have h := (hsent s).trans ((hcmd _).trans (hqueue _))
  unfold withdraw
  dsimp only
  split
  · exact h.trans (.of_ctxs rfl)
  · exact h.trans (.of_ctxs rfl)

theorem keepsOver_addShadow (s : State) (n : Nat) : KeepsOver c r s (addShadow s n) := by
  unfold addShadow
  split
  · exact .refl s
  · exact .trans (.of_ctxs (ctxAt_setCore ..)) (keepsOver_updRun _ _ _)

theorem keepsOver_addShadows (s : State) (d i : Nat) (x : Ctx) (v : Run) : KeepsOver c r s (addShadows s d i x v) := by
  refine keepsOver_foldl (fun s n _ => ?_) s
  split
  · exact keepsOver_addShadow s n
  · exact .refl s

theorem keepsOver_freeRun (s : State) (d : Nat) (x : Ctx) (i : Nat) (v : Run) : KeepsOver c r s (freeRun s d x i v) := by
  have hmarks : KeepsOver c r s (unmark s d i) := by
    refine keepsOver_foldl (fun s e _ => .of_ctxs ?_) s
    dsimp only
    split
    · rfl
    · split <;> rfl
  refine (hmarks.trans (keepsOver_foldl (fun s k _ => ?_) _)).trans (keepsOver_foldl (fun s n _ => ?_) _)
  · split
    · exact .of_ctxs (ctxAt_updCluster ..)
    · exact .refl s
  · split
    · exact (keepsOver_withdraw s n).trans (.of_ctxs (ctxAt_updCore ..))
    · exact .refl s

theorem keepsOver_failRecord (s : State) (d i cause : Nat) : KeepsOver c r s (failRecord s d i cause) := by
  unfold failRecord
  split
  · exact .refl s
  next x hx =>
    dsimp only
    have hstatus : KeepsOver c r s (setStatus s d x i (recNdone s d x i) cause 5) := keepsOver_setStatus ..
    have hctx : ctxAt (setStatus s d x i (recNdone s d x i) cause 5) d = some x := (ctxAt_setStatus ..).trans hx
    split
    · exact hstatus.trans (keepsOver_setCtx hctx (stillOver_journalEnd x i Outcome3.noConfusion))
    · refine hstatus.trans ((keepsOver_addShadows ..).trans ((keepsOver_freeRun ..).trans (keepsOver_updCtx d fun x => ?_)))
      exact (stillOver_journalEnd x i Outcome3.noConfusion).trans ((stillOver_delRun _ i).trans (.of_eq rfl rfl rfl))

/-- A record that fails is over; the function bound to its context stays. -/
theorem failRecord_over {x : Ctx} (hx : ctxAt s c = some x) (cause : Nat) :
    ∃ y, ctxAt (failRecord s c r cause) c = some y ∧ y.func = x.func ∧ Over r y := by
  unfold failRecord
  rw [hx]
  dsimp only
  cases hu : runAt x r with
  | none => exact ⟨_, ctxAt_setCtx .., rfl, over_journalEnd hu Outcome3.noConfusion⟩
  | some v =>
    obtain ⟨y, hy, hxy⟩ := ((keepsOver_setStatus c x r (recNdone s c x r) cause 5).trans
      ((keepsOver_addShadows (c := c) (r := r) _ c r x v).trans (keepsOver_freeRun _ c x r v))).ctx x hx
    dsimp only
    rw [ctxAt_updCtx, hy]
    refine ⟨_, rfl, hxy.func, ?_⟩
    exact over_journalEnd (x := { y with runs := tdel y.runs r }) (tget_tdel_same ..) Outcome3.noConfusion

/-! ## Dependence evaluation -/

theorem keepsOver_releaseRecord {d i : Nat} {x y : Ctx} (hx : ctxAt s d = some x) (h : StillOver r x y) (hi : i ≠ r) (accNo : Nat) (k : Kept) :
    KeepsOver c r s (releaseRecord s d y i accNo k) := by
  have hctx : ctxAt (setStatus s d y i 0 0 2) d = some x := (ctxAt_setStatus ..).trans hx
  refine (keepsOver_setStatus ..).trans (keepsOver_setCtx hctx (h.trans ?_))
  have hj : StillOver r y { y with journal := y.journal.map fun j => if j.number = accNo then { j with kept := none } else j } := by
    refine stillOver_journal y fun j => ?_
    split <;> exact ⟨rfl, id⟩
  exact hj.trans ((stillOver_setRun _ (.inr hi) (newRun k accNo)).trans (.of_eq rfl rfl rfl))

/-- The judgement of an arming of another record. -/
theorem keepsOver_evalRecord (s : State) (d : Nat) {j : JEntry} (hj : j.ridx ≠ r) : KeepsOver c r s (evalRecord s d j) := by
  unfold evalRecord
  split
  · exact .refl s
  next x hx =>
    dsimp only
    have hdeps : StillOver r x (rememberDeps x j.ridx (recWord s d x j.ridx)) := stillOver_rememberDeps ..
    generalize rememberDeps x j.ridx (recWord s d x j.ridx) = y at hdeps
    have hctx : ctxAt (openRec s d y j.ridx) d = some x := (ctxAt_openCaddy ..).trans hx
    have hctx' : ctxAt (openRelease (openRec s d y j.ridx) d y j.ridx) d = some x := (ctxAt_openRelease ..).trans hctx
    have hopen : KeepsOver c r s (openRec s d y j.ridx) := .of_ctxs (ctxAt_openCaddy ..)
    have hrelease : KeepsOver c r s (openRelease (openRec s d y j.ridx) d y j.ridx) := hopen.trans (.of_ctxs (ctxAt_openRelease ..))
    split
    · exact .refl s
    · split
      · split
        · exact .refl s
        · exact keepsOver_releaseRecord hx (.refl x) hj _ _
      · split
        · exact hopen.trans (keepsOver_setCtx hctx hdeps)
        · split
          · exact hrelease.trans (keepsOver_releaseRecord hctx' hdeps hj _ _)
          · exact hrelease.trans ((keepsOver_setCtx hctx' hdeps).trans (keepsOver_failRecord ..))

/-- A context whose record r is over, after an evaluation of its dependences. -/
theorem evalPass_over {x : Ctx} (hx : ctxAt s c = some x) (ho : Over r x) : KeepsOver c r s (evalPass s c) := by
  unfold evalPass
  rw [hx]
  refine keepsOver_foldl (fun s j hj => keepsOver_evalRecord s c ?_) s
  obtain ⟨hm, hp⟩ := List.mem_filter.1 hj
  exact ho.2 j hm (of_decide_eq_true hp)

theorem evalPasses_over (k : Nat) {x : Ctx} (hx : ctxAt s c = some x) (ho : Over r x) : KeepsOver c r s (evalPasses k s c) := by
  induction k generalizing s x with
  | zero => exact .refl s
  | succ k ih =>
    have hpass := evalPass_over hx ho
    obtain ⟨y, hy, hxy⟩ := hpass.ctx x hx
    exact hpass.trans (ih hy (hxy.ended ho))

/-- The scheduler neither releases nor starts a record that is over. -/
theorem reschedule_over {x : Ctx} (hx : ctxAt s c = some x) (ho : Over r x) : KeepsOver c r s (reschedule s c) := by
  unfold reschedule
  rw [hx]
  exact (evalPasses_over _ hx ho).trans (keepsOver_scanAll _)

end Sys2Proof.Machine
end

section
/-! PROOF. The stop of a record with a fatal trap, and what settles O47 (R40, R57, R59, R62, R346, R350). -/

namespace Sys2Proof.Machine

/-! ## Events of a context (R24) -/

/-- Whether an event joins a master's queue depends on that master alone. -/
theorem joins_congr {s t s' t' : State} {m : Nat} {e : Event} (hs : masterAt s' m = masterAt s m) (ht : masterAt t' m = masterAt t m)
    (h : Spec.Joins s t m e) : Spec.Joins s' t' m e := by
  unfold Spec.Joins at h ⊢
  rwa [hs, ht]

theorem masterAt_postTo_other (s : State) {m k : Nat} (e : Event) (h : k ≠ m) : masterAt (postTo s m e) k = masterAt s k :=
  masterAt_updMaster_other s _ h

theorem masterAt_postModule_other (s : State) {k : Nat} (e : Event) (h : k ≠ s.mgmt.ownerId.toNat) :
    masterAt (postModule s e) k = masterAt s k := by
  unfold postModule
  split
  · rfl
  · exact masterAt_postTo_other s e h

/-- An event of a context goes where one of the module goes, and to the function bound to the context. -/
theorem posted_postCtx {s u : State} (hm : u.masters = s.masters) (hq : u.moduleq = s.moduleq) (ho : u.mgmt.ownerId = s.mgmt.ownerId)
    {c : Nat} {x : Ctx} (hx : ctxAt u c = some x) (e : Event) : Spec.Posted s (postCtx u c e) x.func e := by
  obtain ⟨hnone, hsome, -⟩ := posted_postModule hm hq ho e
  unfold postCtx
  rw [hx]
  dsimp only
  cases hf : x.func with
  | none => exact ⟨hnone, hsome, nofun⟩
  | some fn =>
    dsimp only
    split
    next h =>
      refine ⟨hnone, hsome, fun fn' he hne => absurd ?_ hne⟩
      rw [← ho, ← h, Option.some.inj he, masterOf]
    next h =>
      refine ⟨hnone, fun h0 => ⟨(hsome h0).1, joins_congr rfl (masterAt_postTo_other _ e ?_) (hsome h0).2⟩, fun fn' he _ => ?_⟩
      · rw [← ho]
        exact Ne.symm h
      · obtain rfl := Option.some.inj he
        refine joins_congr ?_ rfl (joins_postTo (s := postModule u e) rfl (fn + 1) e)
        rw [masterAt_postModule_other u e (k := fn + 1) h, masterAt, masterAt, hm]

/-- Events stay posted while no queue changes. -/
theorem posted_of_queues {s t u : State} {fn : Option Nat} {e : Event} (h : Spec.Posted s t fn e) (hm : u.masters = t.masters)
    (hq : u.moduleq = t.moduleq) : Spec.Posted s u fn e := by
  have hk (k : Nat) : masterAt u k = masterAt t k := by rw [masterAt, masterAt, hm]
  obtain ⟨hnone, hsome, hfn⟩ := h
  exact ⟨fun h0 => hq.trans (hnone h0), fun h0 => ⟨hq.trans (hsome h0).1, joins_congr rfl (hk _) (hsome h0).2⟩,
    fun fn he hne => joins_congr rfl (hk _) (hfn fn he hne)⟩

theorem ctxAt_postCtx (s : State) (c : Nat) (e : Event) (d : Nat) : ctxAt (postCtx s c e) d = ctxAt s d := by
  obtain ⟨ms, q, h⟩ := postModule_only s e
  have hd : ctxAt (postModule s e) d = ctxAt s d := by rw [h]; rfl
  unfold postCtx
  dsimp only
  split
  · split
    · split
      · exact hd
      · exact hd
    · exact hd
  · exact hd

/-! ## FATAL_STOP (R350) -/

/-- Every core of a run has stopped, and has no command of an engine and no card of the run left. -/
theorem coresStopped_iff (s : State) (x : Ctx) (r : Nat) (u : Run) :
    ((runCores x u).all (fun n => coreStopped s x u n && (coreAt s n).cmds.isEmpty && !recordCards x r u n) = true) ↔
      ∀ n ∈ runCores x u, coreStopped s x u n = true ∧ (coreAt s n).cmds = [] ∧ recordCards x r u n = false := by
  simp only [List.all_eq_true, Bool.and_eq_true, List.isEmpty_iff, Bool.not_eq_true', and_assoc]

section
variable {s : State} {c r : Nat} {x : Ctx} {u : Run} (hx : ctxAt s c = some x) (hu : runAt x r = some u)
include hx hu

theorem fatalStopRecord_stops {f : Fatal} (hf : leastFatal u.fatals = some f) (hh : x.halt = .running) (hq : runQuiet s c r x u = true)
    (hs : ∀ n ∈ runCores x u, coreStopped s x u n = true ∧ (coreAt s n).cmds = [] ∧ recordCards x r u n = false) :
    fatalStopRecord s c r = reschedule (postCtx (failRecord s c r 0x9) c (fatalEvent c r u f)) c := by
  unfold fatalStopRecord
  simp only [hx, hu, hf]
  exact if_pos ⟨hh, hq, (coresStopped_iff s x r u).2 hs⟩

theorem fatalStopRecord_waits (h : u.fatals = [] ∨ x.halt ≠ .running ∨ runQuiet s c r x u = false ∨
    ∃ n ∈ runCores x u, coreStopped s x u n = false) : fatalStopRecord s c r = s := by
  unfold fatalStopRecord
  simp only [hx, hu]
  cases hf : leastFatal u.fatals with
  | none => rfl
  | some f =>
    refine if_neg fun ⟨hh, hq, hs⟩ => ?_
    rcases h with h | h | h | ⟨n, hn, h⟩
    · rw [h] at hf
      cases hf
    · exact h hh
    · exact Bool.false_ne_true (h.symm.trans hq)
    · exact Bool.false_ne_true (h.symm.trans ((coresStopped_iff s x r u).1 hs n hn).1)

end

/-- The record is over and event 0x70 is posted. -/
theorem fatalStop_posts {s : State} {c : Nat} {x : Ctx} (hx : ctxAt s c = some x) (r : Nat) (e : Event) :
    ∃ y, ctxAt (reschedule (postCtx (failRecord s c r 0x9) c e) c) c = some y ∧ runAt y r = none ∧
      Spec.Posted s (reschedule (postCtx (failRecord s c r 0x9) c e) c) x.func e := by
  obtain ⟨y, hy, hfunc, hover⟩ := failRecord_over (r := r) hx 0x9
  have hpost : ctxAt (postCtx (failRecord s c r 0x9) c e) c = some y := (ctxAt_postCtx ..).trans hy
  obtain ⟨z, hz, hyz⟩ := (reschedule_over hpost hover).ctx y hpost
  have hfail := (sched_failRecord (c := c) s r 0x9).rest
  have hsched := (sched_reschedule (postCtx (failRecord s c r 0x9) c e) c).rest
  refine ⟨z, hz, (hyz.ended hover).1, ?_⟩
  rw [← hfunc]
  refine posted_of_queues (posted_postCtx ?_ ?_ ?_ hy e) ?_ ?_
  · rw [hfail]
  · rw [hfail]
  · rw [hfail]
  · rw [hsched]
  · rw [hsched]

/-- The first words of event 0x70. -/
theorem fatalEvent_words (c r : Nat) (u : Run) (f : Fatal) :
    (fatalEvent c r u f).take 5 = [0x70#32, BitVec.ofNat 32 (c % 64 * 2 ^ 24 + r), u.copy.getD 0 0#32, BitVec.ofNat 32 f.t,
      BitVec.ofNat 32 ((if f.privlvl then 2 ^ 31 else 0) + f.core % 2 ^ 16)] ∧
    ((fatalEvent c r u f).drop 6).take 3 = [f.epc, f.ecause, f.einfo] := ⟨rfl, rfl⟩

theorem recordSteps : Spec.RecordSteps := by
  intro s x u c r hx hu
  refine ⟨fun hm => ?_, fun hm => congrArg Host.Outcome.next (deliverAll_still hx hm), fun f hf hh hq hs => ?_,
    fun h => congrArg Host.Outcome.next (fatalStopRecord_waits hx hu h)⟩
  · refine ⟨_, _, _, congrArg Host.Outcome.next (deliverAll_eq hx hu hm), ctxAt_allDelivered hx hu, tget_tset_same .., rfl,
      sameMemory_allDelivered .., fun e p hl hp hk hd hw => ⟨fun hb h0 h32 => ?_, fun hb h24 h32 => ?_⟩⟩
    · exact (register_allDelivered hl hp hk hd hw h0 h32).1 hb
    · exact (register_allDelivered hl hp hk hd hw (by omega) h32).2 hb h24
  · obtain ⟨y, hy, hrun, hpost⟩ := fatalStop_posts hx r (fatalEvent c r u f)
    exact ⟨_, y, congrArg Host.Outcome.next (fatalStopRecord_stops hx hu hf hh hq hs), hy, hrun, hpost, fatalEvent_words c r u f⟩

/-- Settles O47: a task starts (taskStart), and a record's results are delivered or, once its cores have stopped, it is over and reported
(recordSteps). -/
theorem tasksAndRecords : Obligations.TasksAndRecords := ⟨taskStart, recordSteps⟩

end Sys2Proof.Machine
end

section
/-! PROOF. When an instruction issues, and the RESOURCE and LOOKAHEAD traps (O58; R63, R94, R97, R99, R100, R225). -/

namespace Sys2Proof.Machine

/-! ## The checks of R97 and R100 -/

/-- At user level the names of an instruction are those of its shape. -/
theorem atLevel_user {c : Core} (h : c.priv = false) (sh : Shape) : sh.atLevel c = sh := by
  simp [Shape.atLevel, h]

theorem declared_iff (k : Kernel) (r : RName) :
    declared k r = true ↔ ((r.file = .s ∨ r.file = .p) ∧ r.num = 0) ∨ r.num < limitOf k r.file := by
  simp [declared, constReg, and_comm]

theorem allDeclared_iff (sh : Shape) (k : Kernel) : Spec.AllDeclared sh k ↔ ∀ r ∈ sh.names, declared k r = true :=
  forall₂_congr fun r _ => (declared_iff k r).symm

theorem resourceCheck_declared {k : Kernel} {names : List RName} (h : ∀ r ∈ names, declared k r = true) : resourceCheck k names = none := by
  have hnone : names.find? (fun r => !declared k r) = none := List.find?_eq_none.2 fun r hr => by simp [h r hr]
  rw [resourceCheck, hnone]

/-- The first undeclared name is reported. -/
theorem resourceCheck_undeclared {k : Kernel} {names : List RName} (h : ¬∀ r ∈ names, declared k r = true) :
    ∃ (l₁ l₂ : List RName) (r : RName), names = l₁ ++ r :: l₂ ∧ (∀ q ∈ l₁, declared k q = true) ∧ ¬declared k r = true ∧
      resourceCheck k names = some { cause := .resource, info := resourceInfo (kindOf r.file) r.num } := by
  cases hf : names.find? (fun r => !declared k r) with
  | none => exact absurd (fun r hr => by simpa using List.find?_eq_none.1 hf r hr) h
  | some r =>
    obtain ⟨hr, l₁, l₂, hl, hfirst⟩ := List.find?_eq_some_iff_append.1 hf
    exact ⟨l₁, l₂, r, hl, fun q hq => by simpa using hfirst q hq, by simpa using hr, by rw [resourceCheck, hf]⟩

theorem lookaheadHit_eq_none_iff (names : List RName) (p : Pending) :
    lookaheadHit names p = none ↔ (p.dist < p.look → ∀ r ∈ names, r ∉ p.regs) := by
  unfold lookaheadHit
  by_cases hd : p.dist < p.look
  · rw [if_pos hd, forall_prop_of_true hd]
    cases hf : names.find? (fun r => p.regs.contains r) with
    | none => simpa using hf
    | some r =>
      refine iff_of_false (Option.some_ne_none _) fun h => h r (List.mem_of_find?_eq_some hf) ?_
      simpa using List.find?_some hf
  · simp [hd]

/-- The first of the follower's names that the instruction writes is reported. -/
theorem lookaheadHit_some {names : List RName} {p : Pending} {q : TrapReq} (h : lookaheadHit names p = some q) :
    p.dist < p.look ∧ ∃ (l₁ l₂ : List RName) (r : RName), names = l₁ ++ r :: l₂ ∧ (∀ q ∈ l₁, q ∉ p.regs) ∧ r ∈ p.regs ∧
      q = { cause := .lookahead, info := lookaheadInfo p.pidx r (p.dist + 1) } := by
  unfold lookaheadHit at h
  split at h
  next hd =>
    split at h
    next r hf =>
      obtain ⟨hr, l₁, l₂, hl, hfirst⟩ := List.find?_eq_some_iff_append.1 hf
      exact ⟨hd, l₁, l₂, r, hl, fun q hq => by simpa using hfirst q hq, by simpa using hr, (Option.some.inj h).symm⟩
    next => cases h
  next => cases h

theorem lookaheadCheck_clear {c : Core} {names : List RName} (h : ∀ p ∈ c.inflight, p.dist < p.look → ∀ r ∈ names, r ∉ p.regs) :
    lookaheadCheck c names = none :=
  List.findSome?_eq_none_iff.2 fun p hp => (lookaheadHit_eq_none_iff names p).2 (h p hp)

/-- The oldest instruction within its lookahead that writes one of the names is reported. -/
theorem lookaheadCheck_hit {c : Core} {names : List RName} (h : ∃ p ∈ c.inflight, p.dist < p.look ∧ ∃ r ∈ names, r ∈ p.regs) :
    ∃ (k₁ k₂ : List Pending) (p : Pending) (q : TrapReq), c.inflight = k₁ ++ p :: k₂ ∧
      (∀ q ∈ k₁, q.dist < q.look → ∀ r ∈ names, r ∉ q.regs) ∧ lookaheadHit names p = some q ∧ lookaheadCheck c names = some q := by
  cases hf : lookaheadCheck c names with
  | none =>
    obtain ⟨p, hp, hd, r, hr, hm⟩ := h
    exact absurd hm ((lookaheadHit_eq_none_iff names p).1 (List.findSome?_eq_none_iff.1 hf p hp) hd r hr)
  | some q =>
    obtain ⟨k₁, p, k₂, hl, hp, hfirst⟩ := List.findSome?_eq_some_iff.1 hf
    exact ⟨k₁, k₂, p, q, hl, fun q hq => (lookaheadHit_eq_none_iff names q).1 (hfirst q hq), hp, rfl⟩

/-! ## Issue at user level (R63, R94, R225) -/

section
variable {i : Instr} {sh : Shape} {s : State} {n : Nat} {t : Task} {x : Ctx} {u : Run}

/-- On a core that nothing holds back, the declarations are checked, then the lookahead. -/
theorem issueCheck_ready (h : Spec.Ready sh s n t x u) (hp : (coreAt s n).priv = false) (hb : ∀ v m, sh.bytes v m = none) :
    issueCheck i sh s n =
      ((resourceCheck u.kernel sh.names).or (lookaheadCheck (coreAt s n) sh.names)).elim (.go (Spec.settled sh s n)) .trap := by
  obtain ⟨henv, hrun, hhandler, hwindow, hpool⟩ := h
  have hsh := atLevel_user hp sh
  have hstill : x.det = true → sh.wp = true → (coreAt s n).intr = [] ∧ handlerDue (coreAt s n) = false := by
    intro hd hw
    obtain ⟨hi, hc⟩ := (hhandler hd hw).resolve_left (by simp [hp])
    exact ⟨hi, by simpa [handlerDue] using hc⟩
  have hdue : (x.det && sh.wp && !(coreAt s n).priv && !(coreAt s n).iact && handlerDue (coreAt s n)) = false := by
    by_contra hc
    simp only [Bool.not_eq_false, Bool.and_eq_true] at hc
    obtain ⟨⟨⟨⟨hd, hw⟩, -⟩, -⟩, hh⟩ := hc
    exact Bool.false_ne_true ((hstill hd hw).2.symm.trans hh)
  have hdeliver : (x.det && sh.wp && deliverable (coreAt s n)) = false := by
    by_contra hc
    simp only [Bool.not_eq_false, Bool.and_eq_true] at hc
    obtain ⟨⟨hd, hw⟩, hh⟩ := hc
    simp [deliverable, (hstill hd hw).1] at hh
  have hopen : windowHolds x u (coreAt s n) = false := by
    by_contra hc
    simp only [windowHolds, Bool.not_eq_false, Bool.and_eq_true, decide_eq_true_eq] at hc
    have := hwindow hc.1.1 hp
    omega
  rw [Spec.needed, hsh] at hpool
  have hresult : ((coreAt s n).inflight.filter (fun p => !p.done && neededBy sh p)).any
      (fun p => decide (p.kind = .window) && sh.names.any (fun r => p.regs.contains r)) = false := by
    simp only [List.any_eq_false, Bool.and_eq_true, decide_eq_true_eq, List.any_eq_true, List.contains_iff_mem]
    exact fun p hm ⟨hk, r, hr, hreg⟩ => (hpool p hm).2 hk r hr hreg
  have hanswer : ((coreAt s n).inflight.filter (fun p => !p.done && neededBy sh p)).any (fun p => decide (p.kind = .pool)) = false := by
    simp only [List.any_eq_false, decide_eq_true_eq]
    exact fun p hm => (hpool p hm).1
  unfold issueCheck Spec.settled
  rw [henv]
  dsimp only
  rw [hsh, if_neg (by simp [hrun]), hdue, hdeliver, hopen, hresult, hanswer]
  simp only [Bool.false_eq_true, if_false, hp, hb, Option.or_none, Bool.and_false, Bool.false_and]
  cases resourceCheck u.kernel sh.names with
  | some r => rfl
  | none =>
    cases lookaheadCheck (coreAt s n) sh.names with
    | some r => rfl
    | none => rfl

/-- In a DET context a core stalls at a window which may not be issued in. -/
theorem issueCheck_window (henv : taskEnv s n = some (t, x, u)) (hrun : canRun s n = true) (hd : x.det = true) (hw : sh.wp = false)
    (hp : (coreAt s n).priv = false) (h : u.window + 2 ≤ (coreAt s n).count / (coreAt s n).cr.quant.toNat) :
    issueCheck i sh s n = .stall .window := by
  have hclosed : windowHolds x u (coreAt s n) = true := by simp [windowHolds, hd, hp, h]
  unfold issueCheck
  rw [henv]
  dsimp only
  rw [atLevel_user hp, hclosed, hw]
  simp [hrun]

end

/-- Settles O58: on a core that nothing holds back the checks of R100 and R97 decide (issueCheck_ready), and a closed window stalls
(issueCheck_window). -/
theorem issueRules : Obligations.IssueRules := by
  refine ⟨fun i sh s n t x u hready hp hb => ⟨fun hall hclear => ?_, fun hsome => ?_, fun hall hhit => ?_⟩,
    fun i sh s n t x u => issueCheck_window⟩
  · rw [issueCheck_ready hready hp hb, resourceCheck_declared ((allDeclared_iff sh _).1 hall), lookaheadCheck_clear hclear]
    rfl
  · rw [allDeclared_iff] at hsome
    obtain ⟨l₁, l₂, r, hl, hfirst, hr, hcheck⟩ := resourceCheck_undeclared hsome
    refine ⟨l₁, l₂, r, hl, fun q hq => (declared_iff _ q).1 (hfirst q hq), fun h => hr ((declared_iff _ r).2 h), ?_⟩
    rw [issueCheck_ready hready hp hb, hcheck]
    rfl
  · obtain ⟨k₁, k₂, p, q, hk, hfirst, hp', hcheck⟩ := lookaheadCheck_hit hhit
    obtain ⟨hd, l₁, l₂, r, hl, hnames, hr, rfl⟩ := lookaheadHit_some hp'
    refine ⟨k₁, k₂, p, l₁, l₂, r, hk, hd, hfirst, hl, hnames, hr, ?_⟩
    rw [issueCheck_ready hready hp hb, resourceCheck_declared ((allDeclared_iff sh _).1 hall), hcheck]
    rfl

end Sys2Proof.Machine
end

section
/-! SUPPORT. What a context's pre-emption turns on: its halt, its holds and what is saved of it. The settling of cores, engines and packets leaves all
of it, and the scheduler leaves all but the holds by rivals and the clusters that a context without records gives up (R53 to R56, R69, R354). -/

namespace Sys2Proof.Machine

/-- The halt of a context and what is saved of it stay, and no hold is added. Where p holds it keeps its holds and its clusters too. -/
structure Steady (p : Prop) (x y : Ctx) : Prop where
  halt   : y.halt = x.halt
  saved  : y.saved = x.saved
  spills : y.spills = x.spills
  holds  : y.holds ⊆ x.holds
  kept   : p → y.holds = x.holds ∧ y.active = x.active

/-- Context c stays, and it is steady. -/
structure KeepsHalt (p : Prop) (c : Nat) (s t : State) : Prop where
  ctx : ∀ x, ctxAt s c = some x → ∃ y, ctxAt t c = some y ∧ Steady p x y

variable {p : Prop} {c : Nat} {s t u : State}

theorem Steady.of_eq {x y : Ctx} (h : (y.halt, y.saved, y.spills, y.holds, y.active) = (x.halt, x.saved, x.spills, x.holds, x.active)) :
    Steady p x y := by
  simp only [Prod.mk.injEq] at h
  obtain ⟨h1, h2, h3, h4, h5⟩ := h
  exact ⟨h1, h2, h3, h4 ▸ List.Subset.refl _, fun _ => ⟨h4, h5⟩⟩

theorem Steady.refl (x : Ctx) : Steady p x x := .of_eq rfl

theorem Steady.trans {x y z : Ctx} (h : Steady p x y) (g : Steady p y z) : Steady p x z :=
  ⟨g.halt.trans h.halt, g.saved.trans h.saved, g.spills.trans h.spills, List.Subset.trans g.holds h.holds,
    fun hp => ⟨(g.kept hp).1.trans (h.kept hp).1, (g.kept hp).2.trans (h.kept hp).2⟩⟩

theorem KeepsHalt.of_ctx (h : ctxAt t c = ctxAt s c) : KeepsHalt p c s t := ⟨fun x hx => ⟨x, h.trans hx, .refl x⟩⟩

theorem KeepsHalt.refl (s : State) : KeepsHalt p c s s := .of_ctx rfl

theorem KeepsHalt.trans (h : KeepsHalt p c s t) (g : KeepsHalt p c t u) : KeepsHalt p c s u := by
  refine ⟨fun x hx => ?_⟩
  obtain ⟨y, hy, hxy⟩ := h.ctx x hx
  obtain ⟨z, hz, hyz⟩ := g.ctx y hy
  exact ⟨z, hz, hxy.trans hyz⟩

theorem keepsHalt_foldl {α : Type} {f : State → α → State} (h : ∀ s a, KeepsHalt p c s (f s a)) (l : List α) (s : State) :
    KeepsHalt p c s (l.foldl f s) :=
  List.foldlRecOn l f (motive := KeepsHalt p c s) (.refl s) fun t ht a _ => ht.trans (h t a)

theorem keepsHalt_setCtx {d : Nat} {x y : Ctx} (hx : ctxAt s d = some x) (h : Steady p x y) : KeepsHalt p c s (setCtx s d y) := by
  refine ⟨fun z hz => ?_⟩
  by_cases hd : c = d
  · subst hd
    obtain rfl : x = z := Option.some.inj (hx.symm.trans hz)
    exact ⟨y, ctxAt_setCtx s c y, h⟩
  · exact ⟨z, (ctxAt_setCtx_other s y hd).trans hz, .refl z⟩

theorem keepsHalt_updCtx (d : Nat) {f : Ctx → Ctx} (h : ∀ x, Steady p x (f x)) : KeepsHalt p c s (updCtx s d f) := by
  unfold updCtx
  split
  next hx => exact keepsHalt_setCtx hx (h _)
  next => exact .refl s

theorem keepsHalt_updRun (d r : Nat) (f : Run → Run) : KeepsHalt p c s (updRun s d r f) := by
  refine keepsHalt_updCtx d fun x => ?_
  split
  · exact .of_eq rfl
  · exact .refl x

/-! ## Locks, withdrawn instructions and traps -/

theorem keepsHalt_releaseLocks (s : State) (d n seq : Nat) : KeepsHalt p c s (releaseLocks s d n seq) := by
  unfold releaseLocks
  refine .trans (.of_ctx ?_) (keepsHalt_updCtx d fun _ => .of_eq rfl)
  rfl

theorem keepsHalt_dropUnjoined (s : State) (n : Nat) : KeepsHalt p c s (dropUnjoined s n) := by
  unfold dropUnjoined
  split
  · exact (KeepsHalt.of_ctx (ctxAt_updCore ..)).trans (keepsHalt_releaseLocks ..)
  · exact .refl s

theorem ctxAt_leaveQueues (s : State) (n : Nat) : ctxAt (leaveQueues s n) c = ctxAt s c := by
  unfold leaveQueues
  split
  · split <;> rfl
  · rfl

theorem keepsHalt_withdraw (s : State) (n : Nat) : KeepsHalt p c s (withdraw s n) := by
  have h : KeepsHalt p c s (leaveQueues (dropUnjoined (dropSent s n) n) n) :=
    (KeepsHalt.of_ctx (ctxAt_dropSent ..)).trans ((keepsHalt_dropUnjoined ..).trans (.of_ctx (ctxAt_leaveQueues ..)))
  unfold withdraw
  dsimp only
  generalize leaveQueues (dropUnjoined (dropSent s n) n) n = t at h
  split
  · exact h.trans (.of_ctx rfl)
  · exact h.trans (.of_ctx rfl)

theorem keepsHalt_addShadow (s : State) (n : Nat) : KeepsHalt p c s (addShadow s n) := by
  unfold addShadow
  split
  · exact .refl s
  · exact (KeepsHalt.of_ctx (ctxAt_setCore ..)).trans (keepsHalt_updRun _ _ _)

theorem keepsHalt_fatalStop (s : State) (n : Nat) (f : Fatal) : KeepsHalt p c s (fatalStop s n f) := by
  unfold fatalStop
  split
  · exact .refl s
  · exact (keepsHalt_addShadow s n).trans ((keepsHalt_updRun _ _ _).trans (.of_ctx (ctxAt_dissolve ..)))

theorem keepsHalt_enterTrap (s : State) (n : Nat) (r : TrapReq) : KeepsHalt p c s (enterTrap s n r) := by
  unfold enterTrap
  split
  · exact .of_ctx rfl
  · dsimp only
    split
    · exact .of_ctx rfl
    · split
      · exact (KeepsHalt.of_ctx (ctxAt_updCore ..)).trans (keepsHalt_fatalStop ..)
      · exact .of_ctx rfl

theorem keepsHalt_takeTrap (s : State) (n : Nat) (r : TrapReq) : KeepsHalt p c s (takeTrap s n r) := by
  have h : KeepsHalt p c s (updCore (withdraw (dissolve s n) n) n (completeIf forcible)) :=
    (KeepsHalt.of_ctx (ctxAt_dissolve ..)).trans ((keepsHalt_withdraw ..).trans (.of_ctx (ctxAt_updCore ..)))
  unfold takeTrap
  dsimp only
  split
  · exact h.trans (.of_ctx (ctxAt_updCore ..))
  · exact h.trans ((KeepsHalt.of_ctx (ctxAt_updCore ..)).trans (keepsHalt_enterTrap ..))

theorem keepsHalt_handlerEntry (s : State) (n : Nat) : KeepsHalt p c s (handlerEntry s n) := by
  unfold handlerEntry
  split
  · exact .refl s
  · exact keepsHalt_takeTrap ..

/-! ## The end of the halt -/

theorem ctxAt_noteAhead (s : State) (n : Nat) : ctxAt (noteAhead s n) c = ctxAt s c := by
  unfold noteAhead
  split
  · rfl
  · split <;> rfl

theorem ctxAt_settleCount (s : State) (n : Nat) : ctxAt (settleCount s n) c = ctxAt s c := by
  unfold settleCount
  split
  · split
    · exact ctxAt_noteAhead ..
    · rfl
  · rfl

theorem ctxAt_settleJoin (s : State) (n : Nat) : ctxAt (settleJoin s n) c = ctxAt s c := by
  unfold settleJoin
  split
  · split
    · exact ctxAt_noteAhead ..
    · rfl
  · rfl

theorem keepsHalt_settleCore (s : State) (n : Nat) : KeepsHalt p c s (settleCore s n) := by
  unfold settleCore
  split
  · exact .refl s
  · have h : KeepsHalt p c s (settleJoin (settleCount s n) n) :=
      .of_ctx ((ctxAt_settleJoin ..).trans (ctxAt_settleCount ..))
    have hw := h.trans (keepsHalt_withdraw _ n)
    dsimp only
    generalize withdraw (settleJoin (settleCount s n) n) n = t at hw
    refine hw.trans (.trans (.of_ctx ?_) (keepsHalt_handlerEntry ..))
    rfl

theorem keepsHalt_poolAnswer (s : State) (d : Nat) : KeepsHalt p c s (poolAnswer s d) := by
  unfold poolAnswer
  split
  · exact .refl s
  next hx =>
    split
    · exact .refl s
    · refine .trans (keepsHalt_setCtx hx ?_) (.of_ctx (ctxAt_updCore ..))
      exact .of_eq rfl

theorem ctxAt_alignGang (s : State) (k : Nat) : ctxAt (alignGang s k) c = ctxAt s c := by
  unfold alignGang
  split
  · rfl
  · split
    · rfl
    · exact List.foldlRecOn _ _ (motive := fun t => ctxAt t c = ctxAt s c) rfl fun _ ht _ _ => ht

/-! ## Exchanges (R236) -/

theorem ctxAt_clearPoison (s : State) (e : Entry) (h : Home) (l : List Nat) : ctxAt (clearPoison s e h l) c = ctxAt s c := by
  obtain ⟨b, hb⟩ := clearPoison_only s e h l
  rw [hb]
  rfl

theorem ctxAt_writeElem (s : State) (d : Nat) (x : Ctx) (e : Entry) (h : Home) (a v : Nat) :
    ctxAt (writeElem s d x e h a v) c = ctxAt s c := by
  obtain ⟨m, hm⟩ := writeElem_only s d x e h a v
  rw [hm]
  rfl

theorem ctxAt_poisonPlace (s : State) (a : Place) : ctxAt (poisonPlace s a) c = ctxAt s c := by
  cases a <;> rfl

theorem ctxAt_sendBlock (t : State) (x : Ctx) (s : State) (m n : Nat) (j k : Cmd) : ctxAt (sendBlock t x s m n j k) c = ctxAt s c := by
  refine List.foldlRecOn _ _ (motive := fun t => ctxAt t c = ctxAt s c) rfl fun u hu i _ => ?_
  dsimp only
  split
  · exact List.foldlRecOn _ _ (motive := fun t => ctxAt t c = ctxAt s c) ((ctxAt_writeElem ..).trans hu)
      fun v hv b _ => (ctxAt_poisonPlace v _).trans hv
  · exact (ctxAt_writeElem ..).trans hu

theorem keepsHalt_finishCmd (s : State) (n : Nat) (k : Cmd) (w : Word) : KeepsHalt p c s (finishCmd s n k w) :=
  (keepsHalt_releaseLocks ..).trans (.of_ctx (ctxAt_updCore ..))

theorem keepsHalt_exchangeComplete (s : State) (k : Nat) : KeepsHalt p c s (exchangeComplete s k) := by
  unfold exchangeComplete
  dsimp only
  split
  · split
    · exact .refl s
    · split
      · exact .refl s
      · split
        · exact keepsHalt_foldl (fun s _ => keepsHalt_finishCmd s ..) _ _
        · refine (keepsHalt_foldl (fun s _ => .of_ctx (ctxAt_clearPoison s ..)) _ _).trans
            ((keepsHalt_foldl (fun s _ => ?_) _ _).trans (keepsHalt_foldl (fun s _ => keepsHalt_finishCmd s ..) _ _))
          exact keepsHalt_foldl (fun s _ => .of_ctx (ctxAt_sendBlock ..)) _ s
  · exact .refl s

/-! ## Packets on the mesh (R326 to R336) -/

theorem keepsHalt_noteAccepted (s : State) (d : Nat) (k : Packet) : KeepsHalt p c s (noteAccepted s d k) := by
  refine keepsHalt_updCtx d fun x => ?_
  split
  · exact .refl x
  · exact .of_eq rfl

theorem ctxAt_transmit (s : State) (d : Nat) (k : Packet) : ctxAt (transmit s d k) c = ctxAt s c := by
  unfold transmit
  split
  · rfl
  · split
    · rfl
    · split <;> rfl

theorem ctxAt_replyArrival (s : State) (d : Nat) (k : Packet) (q : Word) (a : Answer) (h : Nat) :
    ctxAt (replyArrival s d k q a h) c = ctxAt s c := by
  unfold replyArrival
  split
  · rfl
  · dsimp only
    split <;> rfl

theorem ctxAt_answerMessage (s : State) (d : Nat) (k : Packet) (a : Answer) : ctxAt (answerMessage s d k a) c = ctxAt s c := by
  unfold answerMessage
  split
  · rfl
  · dsimp only
    split
    · exact ctxAt_transmit ..
    · exact ctxAt_replyArrival ..

theorem keepsHalt_storeMessage {d : Nat} {k : Packet} (h : storeMessage s d k = .taken t) : KeepsHalt p c s t := by
  unfold storeMessage at h
  split at h
  · cases h
  · split at h
    · cases h
    · split at h
      · cases h
        exact .refl s
      · dsimp only at h
        split at h
        · cases h
          exact (KeepsHalt.of_ctx (ctxAt_updCore ..)).trans (keepsHalt_noteAccepted ..)
        · cases h

theorem keepsHalt_messageArrival (s : State) (i : Nat) : KeepsHalt p c s (messageArrival s i) := by
  unfold messageArrival
  split
  · exact .refl s
  · split
    · split
      · exact .refl s
      · split
        next h => exact (keepsHalt_storeMessage h).trans (.of_ctx (ctxAt_answerMessage ..))
        · exact .of_ctx (ctxAt_answerMessage ..)
        · refine .of_ctx ((ctxAt_answerMessage ..).trans ?_)
          split <;> rfl
    · exact .of_ctx (ctxAt_replyArrival ..)
    · exact .refl s

theorem ctxAt_writePush (s : State) (d n : Nat) (x : Ctx) (e : Entry) (i : Nat) (v : VReg) : ctxAt (writePush s d n x e i v) c = ctxAt s c := by
  unfold writePush
  dsimp only
  rw [ctxAt_clearPoison]
  obtain ⟨m, hm⟩ := setFull_only (((rowElems e i (256 / laneWidth e.width)).zipIdx).foldl
    (fun s q => writeElem s d x e (.slice n) q.1 (laneOf v (laneWidth e.width) q.2)) s)
    (granulesOf e n (rowElems e i (256 / laneWidth e.width))) true
  obtain ⟨w, hw⟩ := writeElems_only (rowElems e i (256 / laneWidth e.width)).zipIdx d x e (.slice n) Prod.fst
    (fun q => laneOf v (laneWidth e.width) q.2) s
  rw [hm, hw]
  rfl

theorem keepsHalt_pushApply (s : State) (i : Nat) : KeepsHalt p c s (pushApply s i) := by
  unfold pushApply
  split
  · exact .refl s
  · split
    · dsimp only
      split
      · exact .refl s
      · split
        · exact .of_ctx rfl
        · split
          · exact .refl s
          · have h (d : Nat) (k : Packet) : KeepsHalt p c s (dropPacket (noteAccepted s d k) i) :=
              (keepsHalt_noteAccepted s d k).trans (.of_ctx rfl)
            split
            · exact (h _ _).trans (.of_ctx (ctxAt_writePush ..))
            · exact (h _ _).trans ((KeepsHalt.of_ctx (ctxAt_transmit ..)).trans (keepsHalt_updCtx _ fun _ => .of_eq rfl))
    · exact .refl s

theorem keepsHalt_slotReturn (s : State) (i : Nat) : KeepsHalt p c s (slotReturn s i) := by
  have h (d n : Nat) (k : Packet) (x : Ctx) (e j : Nat) :
      KeepsHalt p c s (clearTaken (dropPacket (noteAccepted s d k) i) x n k.src e j) :=
    (keepsHalt_noteAccepted s d k).trans (.of_ctx (ctxAt_updCore ..))
  unfold slotReturn
  split
  · exact .refl s
  · split
    · exact .refl s
    · dsimp only
      split
      · exact .refl s
      · split
        · split
          · exact .of_ctx rfl
          · exact h ..
        · split
          · exact .of_ctx rfl
          · split
            · exact (h ..).trans (.of_ctx (ctxAt_updCore ..))
            · exact h ..
        · exact .refl s

theorem keepsHalt_settlePacket (s : State) (i : Nat) : KeepsHalt p c s (settlePacket s i) := by
  unfold settlePacket
  split
  · exact .refl s
  · split
    · exact keepsHalt_messageArrival s i
    · exact keepsHalt_messageArrival s i
    · exact keepsHalt_pushApply s i
    · exact keepsHalt_slotReturn s i
    · exact keepsHalt_slotReturn s i

theorem keepsHalt_settlePackets (f : Nat × Packet → Bool) (k : Nat) (s : State) (i : Nat) : KeepsHalt p c s (settlePackets f k s i) := by
  induction k generalizing s i with
  | zero => exact .refl s
  | succ k ih =>
    unfold settlePackets
    split
    · exact .refl s
    · refine KeepsHalt.trans ?_ (ih _ _)
      split
      · exact keepsHalt_settlePacket s i
      · exact .refl s

/-! ## The start scan (R52, R56, R57) -/

theorem keepsHalt_startRecord {d : Nat} {x : Ctx} (hx : ctxAt s d = some x) (r : Nat) (v : Run) : KeepsHalt False c s (startRecord s d x r v) := by
  have hctx : ctxAt (setStatus s d x r 0 0 3) d = some x := (ctxAt_setStatus ..).trans hx
  have hstatus : KeepsHalt False c s (setStatus s d x r 0 0 3) := .of_ctx (ctxAt_setStatus ..)
  unfold startRecord
  dsimp only
  generalize setStatus s d x r 0 0 3 = t at hctx hstatus
  refine .trans (.trans ?_ (keepsHalt_foldl (fun s k => .of_ctx (ctxAt_updCluster ..)) _ _)) (keepsHalt_foldl (fun s e => .of_ctx ?_) _ _)
  · exact hstatus.trans (keepsHalt_setCtx hctx ⟨rfl, rfl, rfl, List.Subset.refl _, False.elim⟩)
  · simp only [loadHandler, ctxAt_updCore, ctxAt_loadCode]

theorem keepsHalt_scanList (l held : List Nat) (s : State) (d : Nat) : KeepsHalt False c s (scanList l held s d) := by
  induction l generalizing held s with
  | nil => exact .refl s
  | cons i l ih =>
    unfold scanList
    split
    · exact .refl s
    next hx =>
      split
      · exact ih held s
      · dsimp only
        split
        · exact (keepsHalt_startRecord hx ..).trans (ih held _)
        · exact ih _ s

theorem keepsHalt_scanCtx (s : State) (d : Nat) : KeepsHalt False c s (scanCtx s d) := by
  unfold scanCtx
  split
  · exact .refl s
  · dsimp only
    split
    · exact .refl s
    · split
      · exact keepsHalt_scanList ..
      · split
        · refine keepsHalt_foldl (fun s e => keepsHalt_updCtx (Prod.fst e) fun y => ?_) _ s
          split
          · exact .refl y
          · exact .of_eq rfl
        · exact .refl s

/-- A context without records gives up its clusters and the holds by rivals. -/
theorem steady_idled (x : Ctx) : Steady False x (idled x) := by
  unfold idled
  split
  · exact ⟨rfl, rfl, rfl, List.filter_subset_self _, False.elim⟩
  · exact .refl x

theorem keepsHalt_scanAll (s : State) : KeepsHalt False c s (scanAll s) := by
  have hidle : KeepsHalt False c s (dropIdle s) := ⟨fun x hx => ⟨idled x, by rw [ctxAt_dropIdle, hx]; rfl, steady_idled x⟩⟩
  exact hidle.trans (keepsHalt_foldl keepsHalt_scanCtx _ _)

/-! ## Dependence evaluation (R53 to R55) -/

theorem keepsHalt_freeRun (s : State) (d : Nat) (x : Ctx) (r : Nat) (v : Run) : KeepsHalt p c s (freeRun s d x r v) := by
  have hmarks : KeepsHalt p c s (unmark s d r) := by
    refine keepsHalt_foldl (fun s e => .of_ctx ?_) _ s
    dsimp only
    split
    · rfl
    · split <;> rfl
  refine (hmarks.trans (keepsHalt_foldl (fun s k => ?_) _ _)).trans (keepsHalt_foldl (fun s n => ?_) _ _)
  · split
    · exact .of_ctx (ctxAt_updCluster ..)
    · exact .refl s
  · split
    · exact (keepsHalt_withdraw s n).trans (.of_ctx (ctxAt_updCore ..))
    · exact .refl s

theorem keepsHalt_failRecord (s : State) (d r cause : Nat) : KeepsHalt p c s (failRecord s d r cause) := by
  unfold failRecord
  split
  · exact .refl s
  next x hx =>
    dsimp only
    have hstatus : KeepsHalt p c s (setStatus s d x r (recNdone s d x r) cause 5) := .of_ctx (ctxAt_setStatus ..)
    split
    · exact hstatus.trans (keepsHalt_setCtx ((ctxAt_setStatus ..).trans hx) (.of_eq rfl))
    · refine hstatus.trans ((keepsHalt_foldl (fun s n => ?_) _ _).trans ((keepsHalt_freeRun ..).trans (keepsHalt_updCtx d fun _ => .of_eq rfl)))
      split
      · exact keepsHalt_addShadow s n
      · exact .refl s

theorem keepsHalt_releaseRecord {d : Nat} {x y : Ctx} (hx : ctxAt s d = some x) (h : Steady p x y) (i a : Nat) (k : Kept) :
    KeepsHalt p c s (releaseRecord s d y i a k) :=
  (KeepsHalt.of_ctx (ctxAt_setStatus ..)).trans (keepsHalt_setCtx ((ctxAt_setStatus ..).trans hx) (h.trans (.of_eq rfl)))

theorem keepsHalt_evalRecord (s : State) (d : Nat) (j : JEntry) : KeepsHalt p c s (evalRecord s d j) := by
  unfold evalRecord
  split
  · exact .refl s
  next x hx =>
    dsimp only
    have hdeps : Steady p x (rememberDeps x j.ridx (recWord s d x j.ridx)) := .of_eq rfl
    generalize rememberDeps x j.ridx (recWord s d x j.ridx) = y at hdeps
    have hctx : ctxAt (openRec s d y j.ridx) d = some x := (ctxAt_openCaddy ..).trans hx
    have hctx' : ctxAt (openRelease (openRec s d y j.ridx) d y j.ridx) d = some x := (ctxAt_openRelease ..).trans hctx
    have hopen : KeepsHalt p c s (openRec s d y j.ridx) := .of_ctx (ctxAt_openCaddy ..)
    have hrelease : KeepsHalt p c s (openRelease (openRec s d y j.ridx) d y j.ridx) := hopen.trans (.of_ctx (ctxAt_openRelease ..))
    split
    · exact .refl s
    · split
      · split
        · exact .refl s
        · exact keepsHalt_releaseRecord hx (.refl x) ..
      · split
        · exact hopen.trans (keepsHalt_setCtx hctx hdeps)
        · split
          · exact hrelease.trans (keepsHalt_releaseRecord hctx' hdeps ..)
          · exact hrelease.trans ((keepsHalt_setCtx hctx' hdeps).trans (keepsHalt_failRecord ..))

theorem keepsHalt_evalPasses (k : Nat) (s : State) (d : Nat) : KeepsHalt p c s (evalPasses k s d) := by
  induction k generalizing s with
  | zero => exact .refl s
  | succ k ih =>
    refine KeepsHalt.trans ?_ (ih _)
    unfold evalPass
    split
    · exact .refl s
    · exact keepsHalt_foldl (fun s j => keepsHalt_evalRecord s d j) _ s

theorem keepsHalt_reschedule (s : State) (d : Nat) : KeepsHalt False c s (reschedule s d) := by
  unfold reschedule
  split
  · exact keepsHalt_scanAll s
  · exact (keepsHalt_evalPasses _ s d).trans (keepsHalt_scanAll _)

end Sys2Proof.Machine
end

section
/-! PROOF. Pre-emption, halt, spill and restore (O49; R56, R69, R354, R358 to R361). -/

namespace Sys2Proof.Machine

/-! ## The requests (R354, R358) -/

/-- The requests for context c that are accepted: a rival's only where it still pre-empts the context. -/
def asked (s : State) (c : Nat) (x : Ctx) : List HoldBy := x.preq.filter (fun h => decide (h ≠ .context) || outranked s c x)

/-- Context c once its requests are accepted, but for its halt. -/
def requested (s : State) (c : Nat) (x : Ctx) : Ctx := { x with preq := [], holds := joinHolds x.holds (asked s c x) }

/-- Context c once its requests are accepted. -/
def accepted (s : State) (c : Nat) (x : Ctx) : Ctx :=
  if asked s c x ≠ [] ∧ x.halt = .running then { requested s c x with halt := .freezing, froze := 0 } else requested s c x

theorem mem_asked {s : State} {c : Nat} {x : Ctx} {h : HoldBy} (hm : h ∈ x.preq) (ha : h ≠ .context ∨ outranked s c x = true) :
    h ∈ asked s c x :=
  List.mem_filter.2 ⟨hm, by simpa using ha⟩

theorem asked_eq_nil {s : State} {c : Nat} {x : Ctx} (h : x.preq = [] ∨ x.preq = [.context] ∧ outranked s c x = false) : asked s c x = [] := by
  rcases h with h | ⟨h, ho⟩
  · simp [asked, h]
  · simp [asked, h, ho]

theorem mem_joinHolds (l m : List HoldBy) (h : HoldBy) : h ∈ joinHolds l m ↔ h ∈ l ∨ h ∈ m := by
  by_cases hl : h ∈ l <;> simp [joinHolds, hl]

theorem holds_accepted (s : State) (c : Nat) (x : Ctx) : (accepted s c x).holds = joinHolds x.holds (asked s c x) := by
  unfold accepted
  split <;> rfl

theorem preq_accepted (s : State) (c : Nat) (x : Ctx) : (accepted s c x).preq = [] := by
  unfold accepted
  split <;> rfl

theorem accepted_nothing {s : State} {c : Nat} {x : Ctx} (h : asked s c x = []) : accepted s c x = { x with preq := [] } := by
  simp [accepted, requested, h, joinHolds]

/-- The management complex, its masters and the queue of commands take new values. -/
def putMgmt (s : State) (b : Mgmt × Table Master × List Nat) : State := { s with mgmt := b.1, masters := b.2.1, mboxq := b.2.2 }

/-- The answer to a PREEMPT that is being served concerns the management complex only. -/
theorem answerPreempt_only (s : State) (c : Nat) : ∃ b, answerPreempt s c = putMgmt s b := by
  unfold answerPreempt
  split
  · exact ⟨(s.mgmt, s.masters, s.mboxq), rfl⟩
  next m _ _ =>
    split
    · obtain ⟨ms, h⟩ := answerMbox_only { s with mgmt := { s.mgmt with serving := none } } m 0x00 []
      obtain ⟨ms', q, h'⟩ := settleMbox_only s.mboxq.length (answerMbox { s with mgmt := { s.mgmt with serving := none } } m 0x00 [])
      exact ⟨(_, ms', q), by rw [h', h]; rfl⟩
    · exact ⟨(s.mgmt, s.masters, s.mboxq), rfl⟩

theorem ctxAt_answerPreempt (s : State) (d c : Nat) : ctxAt (answerPreempt s d) c = ctxAt s c := by
  obtain ⟨b, h⟩ := answerPreempt_only s d
  rw [h]
  rfl

theorem acceptPreempt_eq {s : State} {c : Nat} {x : Ctx} (hx : ctxAt s c = some x) : acceptPreempt s c =
    if asked s c x = [] then setCtx s c (requested s c x)
    else if x.halt = .running then setCtx s c { requested s c x with halt := .freezing, froze := 0 }
    else if (asked s c x).contains .preempt && !moving (requested s c x) then answerPreempt (setCtx s c (requested s c x)) c
    else setCtx s c (requested s c x) := by
  unfold acceptPreempt
  rw [hx]
  rfl

theorem acceptPreempt_only {s : State} {c : Nat} {x : Ctx} (hx : ctxAt s c = some x) :
    ∃ b, acceptPreempt s c = putMgmt (setCtx s c (accepted s c x)) b := by
  have still (y : Ctx) : ∃ b, setCtx s c y = putMgmt (setCtx s c y) b := ⟨(s.mgmt, s.masters, s.mboxq), rfl⟩
  rw [acceptPreempt_eq hx]
  by_cases ha : asked s c x = []
  · have hy : accepted s c x = requested s c x := if_neg fun g => g.1 ha
    rw [if_pos ha, hy]
    exact still _
  · by_cases hr : x.halt = .running
    · have hy : accepted s c x = { requested s c x with halt := .freezing, froze := 0 } := if_pos ⟨ha, hr⟩
      rw [if_neg ha, if_pos hr, hy]
      exact still _
    · have hy : accepted s c x = requested s c x := if_neg fun g => hr g.2
      rw [if_neg ha, if_neg hr, hy]
      split
      · exact answerPreempt_only ..
      · exact still _

/-! ## The end of the halt (R354) -/

/-- Context c settled: what is on its way has arrived, and its cores stand at an instruction boundary. -/
def haltSettled (s : State) (c : Nat) (x : Ctx) : State :=
  let s := (List.range x.pool.length).foldl (fun s _ => poolAnswer s c) s
  let ks := (partClusters x).filter (holdsCluster s c)
  let s := ((partCores x).filter (servesCtx s c)).foldl settleCore s
  let s := ks.foldl alignGang (ks.foldl exchangeComplete s)
  settlePackets (fun e => decide (e.1 = c)) (2 * s.packets.length) s 0

theorem keepsHalt_haltSettled {p : Prop} (s : State) (c : Nat) (x : Ctx) : KeepsHalt p c s (haltSettled s c x) :=
  (keepsHalt_foldl (fun s _ => keepsHalt_poolAnswer s c) _ s).trans ((keepsHalt_foldl keepsHalt_settleCore _ _).trans
    ((keepsHalt_foldl keepsHalt_exchangeComplete _ _).trans ((keepsHalt_foldl (fun s k => .of_ctx (ctxAt_alignGang s k)) _ _).trans
      (keepsHalt_settlePackets ..))))

/-- The context whose halt is complete. -/
def haltedCtx (x : Ctx) : Ctx := { x with halt := if toSpill x then .halted else .held }

theorem haltComplete_eq {s : State} {c : Nat} {x : Ctx} (hx : ctxAt s c = some x) (hf : x.halt = .freezing) (h24 : 24 ≤ x.froze) :
    haltComplete s c = replaceLanes (if x.holds.contains .preempt then answerPreempt (updCtx (haltSettled s c x) c haltedCtx) c
      else updCtx (haltSettled s c x) c haltedCtx) := by
  unfold haltComplete
  rw [hx]
  dsimp only
  rw [if_pos ⟨hf, h24⟩]
  rfl

theorem haltComplete_waits {s : State} {c : Nat} {x : Ctx} (hx : ctxAt s c = some x) (h : x.halt ≠ .freezing ∨ x.froze < 24) :
    haltComplete s c = s := by
  unfold haltComplete
  rw [hx]
  exact if_neg fun ⟨hf, h24⟩ => h.elim (fun h => h hf) (fun h => absurd h24 (by omega))

/-- Reading a table whose values change, each by a function of its key. -/
theorem tget_mapWithKey {α : Type} (f : Nat → α → α) (t : Table α) (k : Nat) : tget (t.map fun e => (e.1, f e.1 e.2)) k = (tget t k).map (f k) := by
  induction t with
  | nil => rfl
  | cons e t ih =>
    obtain ⟨j, v⟩ := e
    by_cases h : j = k
    · simp [tget, h]
    · simp [tget, h, ih]

/-- The replacement of lanes ends at most the hold of lanes. -/
theorem ctxAt_replaceLanes {s : State} {c : Nat} {x : Ctx} (hx : ctxAt s c = some x) :
    ∃ y, ctxAt (replaceLanes s) c = some y ∧ (y = x ∨ y = dropHold x .lane) := by
  unfold replaceLanes
  dsimp only
  obtain ⟨b, h⟩ := replaceLanes_only (s.lanes.filter fun e => s.ctxs.all fun k => !usesLane s e k.1 k.2 || !moving k.2)
    { s with lanes := s.lanes.filter fun e => !(s.ctxs.all fun k => !usesLane s e k.1 k.2 || !moving k.2) }
  rw [h]
  generalize hr : putLanes _ b = r
  have hctx : tget r.ctxs c = some x := by rw [← hr]; exact hx
  have hmap := tget_mapWithKey (fun d y => if r.lanes.any (fun e => usesLane r e d y) then y else dropHold y .lane) r.ctxs c
  rw [hctx] at hmap
  refine ⟨_, (congrArg (fun l => tget l c) (List.map_congr_left fun e _ => ?_)).trans hmap, ?_⟩
  · split <;> rfl
  · dsimp only
    split
    · exact .inl rfl
    · exact .inr rfl

theorem halt_dropHold {x : Ctx} {h : HoldBy} (hn : h ∉ x.holds) : (dropHold x h).halt = x.halt := by
  simp [dropHold, hn]

theorem halt_dropHold_stopped {x : Ctx} (h : HoldBy) (hx : x.halt = .halted ∨ x.halt = .held) :
    (dropHold x h).halt = .halted ∨ (dropHold x h).halt = .held := by
  unfold dropHold
  dsimp only
  split
  · exact .inl rfl
  · exact hx

theorem toSpill_iff (x : Ctx) : toSpill x = true ↔
    x.active = true ∧ HoldBy.context ∈ x.holds ∧ HoldBy.remap ∉ x.holds ∧ HoldBy.lane ∉ x.holds ∧ HoldBy.spares ∉ x.holds := by
  have hplace : inPlace x = false ↔ HoldBy.remap ∉ x.holds ∧ HoldBy.lane ∉ x.holds ∧ HoldBy.spares ∉ x.holds := by
    simp only [inPlace, List.any_eq_false, decide_eq_true_eq, not_or]
    exact ⟨fun h => ⟨fun g => (h _ g).1 rfl, fun g => (h _ g).2.1 rfl, fun g => (h _ g).2.2 rfl⟩,
      fun ⟨h1, h2, h3⟩ k hk => ⟨fun e => h1 (e ▸ hk), fun e => h2 (e ▸ hk), fun e => h3 (e ▸ hk)⟩⟩
  simp [toSpill, hplace, and_assoc]

theorem haltComplete_halts {s : State} {c : Nat} {x : Ctx} (hx : ctxAt s c = some x) (hf : x.halt = .freezing) (h24 : 24 ≤ x.froze) :
    ∃ y, ctxAt (haltComplete s c) c = some y ∧ (y.halt = .halted ∨ y.halt = .held) ∧
      (HoldBy.lane ∉ x.holds → y.halt = if toSpill x then .halted else .held) := by
  obtain ⟨z, hz, hsteady⟩ := (keepsHalt_haltSettled (p := True) s c x).ctx x hx
  obtain ⟨hholds, hactive⟩ := hsteady.kept trivial
  have hspill : toSpill z = toSpill x := by rw [toSpill, toSpill, inPlace, inPlace, hholds, hactive]
  have hctx : ctxAt (updCtx (haltSettled s c x) c haltedCtx) c = some (haltedCtx z) := by rw [ctxAt_updCtx, hz]; rfl
  have hstopped : (haltedCtx z).halt = .halted ∨ (haltedCtx z).halt = .held := by
    unfold haltedCtx
    dsimp only
    split
    · exact .inl rfl
    · exact .inr rfl
  rw [haltComplete_eq hx hf h24]
  obtain ⟨y, hy, hlane⟩ := ctxAt_replaceLanes (s := if x.holds.contains .preempt then answerPreempt (updCtx (haltSettled s c x) c haltedCtx) c
    else updCtx (haltSettled s c x) c haltedCtx) (c := c) (x := haltedCtx z) (by
      split
      · exact (ctxAt_answerPreempt ..).trans hctx
      · exact hctx)
  refine ⟨y, hy, ?_⟩
  rw [← hspill, ← hholds]
  rcases hlane with rfl | rfl
  · exact ⟨hstopped, fun _ => rfl⟩
  · exact ⟨halt_dropHold_stopped _ hstopped, fun hn => halt_dropHold (x := haltedCtx z) hn⟩

/-! ## Spill (R359) -/

theorem ctxAt_writeSpill (s : State) (c : Nat) (x : Ctx) (k d : Nat) : ctxAt (writeSpill s c x k) d = ctxAt s d :=
  List.foldlRecOn (List.range (pcores x)) _ (motive := fun t => ctxAt t d = ctxAt s d) rfl fun _ ht _ _ => ht

theorem spillCtx_spills {s : State} {c : Nat} {x : Ctx} (hx : ctxAt s c = some x) (hh : x.halt = .halted) (hs : toSpill x = true) :
    ∃ y, ctxAt (spillCtx s c) c = some y ∧ y.halt = .spilled ∧ y.saved = some (spillUnits s x) ∧ y.spills = x.spills + 1 := by
  unfold spillCtx
  rw [hx]
  dsimp only
  rw [if_pos ⟨hh, hs⟩]
  obtain ⟨y, hy, hsteady⟩ := (keepsHalt_scanAll _).ctx _ (ctxAt_setCtx (clearUnits (writeSpill s c x (x.spills + 1)) x) c
    { x with saved := some (spillUnits s x), halt := .spilled, active := false, spills := x.spills + 1 })
  exact ⟨y, hy, hsteady.halt, hsteady.saved, hsteady.spills⟩

theorem spillCtx_still {s : State} {c : Nat} {x : Ctx} (hx : ctxAt s c = some x) (h : x.halt ≠ .halted ∨ toSpill x = false) : spillCtx s c = s := by
  unfold spillCtx
  rw [hx]
  refine if_neg fun ⟨hh, hs⟩ => ?_
  rcases h with h | h
  · exact h hh
  · exact Bool.false_ne_true (h.symm.trans hs)

/-! ## Restore (R361) -/

/-- The cores, the clusters and the open rows take new values. -/
def putLoaded (s : State) (b : Table Core × Table Cluster × Table Nat) : State := { s with cores := b.1, clusters := b.2.1, rowOpen := b.2.2 }

theorem foldl_putLoaded {α : Type} {g : State → α → State} (h : ∀ s a, ∃ b, g s a = putLoaded s b) (l : List α) (s : State) :
    ∃ b, l.foldl g s = putLoaded s b :=
  foldl_only putLoaded (fun _ _ _ => rfl) g h (fun s => ⟨(s.cores, s.clusters, s.rowOpen), rfl⟩) l s

theorem readSpill_only (s : State) (c : Nat) (x : Ctx) : ∃ b, readSpill s c x = putLoaded s b :=
  foldl_putLoaded (fun s _ => ⟨(s.cores, s.clusters, _), rfl⟩) _ s

theorem forwardGang_only (s : State) (k : Nat) (g : Gang) : ∃ b, forwardGang s k g = putLoaded s b :=
  foldl_putLoaded (fun s _ => ⟨(_, s.clusters, s.rowOpen), rfl⟩) _ s

theorem reformGang_only (s : State) (k : Nat) : ∃ b, reformGang s k = putLoaded s b := by
  unfold reformGang
  split
  · exact ⟨(s.cores, s.clusters, s.rowOpen), rfl⟩
  next g _ =>
    obtain ⟨b, h⟩ := forwardGang_only s k g
    rw [h]
    exact ⟨(b.1, _, b.2.2), rfl⟩

theorem loadCode_only (s : State) (c : Nat) (x : Ctx) (v : Run) (n : Nat) : ∃ b, loadCode s c x v n = putLoaded s b := by
  unfold loadCode
  dsimp only
  split
  · exact ⟨(s.cores, s.clusters, s.rowOpen), rfl⟩
  · obtain ⟨r, h⟩ := openCaddy_only s c x (codeoff x + v.kernel.kcode) (2 * v.kernel.klen)
    rw [h]
    exact ⟨(_, s.clusters, r), rfl⟩

theorem reload_only (s : State) (c : Nat) (x : Ctx) : ∃ b, reload s c x = putLoaded s b := by
  refine foldl_putLoaded (fun s e => ?_) _ s
  split
  · refine foldl_putLoaded (fun s n => ?_) _ s
    obtain ⟨b, h⟩ := loadCode_only s c x e.2 n
    rw [h]
    exact ⟨(_, b.2.1, b.2.2), rfl⟩
  · exact ⟨(s.cores, s.clusters, s.rowOpen), rfl⟩

/-- The saved units, if there are any, stand again. -/
def savedBack (s : State) (c : Nat) (x : Ctx) : State :=
  match x.saved with
  | some v => putUnits (readSpill s c x) x v
  | none => s

/-- A context that goes on. -/
def resumed (x : Ctx) (y : Ctx) : Ctx :=
  { y with halt := .running, froze := 0, holds := [], saved := none, active := if x.halt = .spilled then !x.runs.isEmpty else x.active }

theorem ctxAt_savedBack (s : State) (c : Nat) (x : Ctx) (d : Nat) : ctxAt (savedBack s c x) d = ctxAt s d := by
  unfold savedBack
  split
  · obtain ⟨b, h⟩ := readSpill_only s c x
    rw [h]
    rfl
  · rfl

theorem slice_savedBack (s : State) (c : Nat) (x : Ctx) : (x.saved = none → (savedBack s c x).slice = s.slice) ∧
    ∀ v, x.saved = some v → (savedBack s c x).slice = (putUnits s x v).slice := by
  refine ⟨fun h => by rw [savedBack, h], fun v h => ?_⟩
  obtain ⟨b, hb⟩ := readSpill_only s c x
  rw [savedBack, h]
  dsimp only
  rw [hb]
  rfl

theorem restoreCtx_only {s : State} {c : Nat} {x : Ctx} (hx : ctxAt s c = some x) (h : mayRestore s c x = true) :
    ∃ b, restoreCtx s c = reschedule (updCtx (putLoaded (savedBack s c x) b) c (resumed x)) c := by
  have heq : restoreCtx s c = reschedule (updCtx
      (reload (((partClusters x).filter (holdsCluster (savedBack s c x) c)).foldl reformGang (savedBack s c x)) c x) c (resumed x)) c := by
    unfold restoreCtx
    rw [hx]
    dsimp only
    rw [if_pos h]
    rfl
  obtain ⟨b, hb⟩ := foldl_putLoaded reformGang_only ((partClusters x).filter (holdsCluster (savedBack s c x) c)) (savedBack s c x)
  obtain ⟨b', hb'⟩ := reload_only (putLoaded (savedBack s c x) b) c x
  rw [hb, hb'] at heq
  exact ⟨b', heq⟩

theorem restoreCtx_still {s : State} {c : Nat} {x : Ctx} (hx : ctxAt s c = some x) (h : mayRestore s c x = false) : restoreCtx s c = s := by
  unfold restoreCtx
  rw [hx]
  exact if_neg (by simp [h])

theorem restoreCtx_resumes {s : State} {c : Nat} {x : Ctx} (hx : ctxAt s c = some x) (h : mayRestore s c x = true) :
    (∃ y, ctxAt (restoreCtx s c) c = some y ∧ y.halt = .running ∧ y.saved = none ∧ y.holds = []) ∧
      (restoreCtx s c).slice = (savedBack s c x).slice := by
  obtain ⟨b, hb⟩ := restoreCtx_only hx h
  rw [hb]
  constructor
  · have hctx : ctxAt (updCtx (putLoaded (savedBack s c x) b) c (resumed x)) c = some (resumed x x) := by
      rw [ctxAt_updCtx, show ctxAt (putLoaded (savedBack s c x) b) c = some x from (ctxAt_savedBack ..).trans hx]
      rfl
    obtain ⟨y, hy, hsteady⟩ := (keepsHalt_reschedule _ c).ctx _ hctx
    exact ⟨y, hy, hsteady.halt, hsteady.saved, List.subset_nil.1 hsteady.holds⟩
  · rw [(sched_reschedule _ c).rest]
    exact updCtx_slice ..

/-! ## The steps -/

theorem exec_spill_still {s : State} (h : spillCtx s s.input.who = s) : exec .spill s = .next s := by
  change Host.Outcome.next (if phodiverRuns s then spillCtx s s.input.who else s) = _
  rw [h, ite_self]

theorem exec_restore_still {s : State} (h : restoreCtx s s.input.who = s) : exec .restore s = .next s := by
  change Host.Outcome.next (if phodiverRuns s then restoreCtx s s.input.who else s) = _
  rw [h, ite_self]

theorem exec_spill {s : State} (h : phodiverRuns s = true) : exec .spill s = .next (spillCtx s s.input.who) :=
  congrArg Host.Outcome.next (if_pos h)

theorem exec_restore {s : State} (h : phodiverRuns s = true) : exec .restore s = .next (restoreCtx s s.input.who) :=
  congrArg Host.Outcome.next (if_pos h)

/-- Settles O49: the requests accepted (acceptPreempt_only), the halt completed (haltComplete_halts), the units saved (spillCtx_spills) and put back
(restoreCtx_resumes). -/
theorem preemption : Obligations.Preemption := by
  intro s x c hx
  refine ⟨?_, fun hf h24 => ?_, fun h => congrArg Host.Outcome.next (haltComplete_waits hx h), fun hp hh hs => ?_,
    fun h => exec_spill_still (spillCtx_still hx h), fun hp hm => ?_, fun h => exec_restore_still (restoreCtx_still hx h)⟩
  · obtain ⟨b, hb⟩ := acceptPreempt_only hx
    refine ⟨_, accepted s c x, congrArg Host.Outcome.next hb, ctxAt_setCtx .., preq_accepted .., fun h hm ha => ⟨?_, fun hr => ?_⟩,
      fun h hm => ?_, fun h => accepted_nothing (asked_eq_nil h), rfl, ?_⟩
    · rw [holds_accepted, mem_joinHolds]
      exact .inr (mem_asked hm ha)
    · rw [accepted, if_pos ⟨List.ne_nil_of_mem (mem_asked hm ha), hr⟩]
      exact ⟨rfl, rfl⟩
    · rw [holds_accepted, mem_joinHolds]
      exact .inl hm
    · exact ⟨fun _ => rfl, fun _ => rfl, fun _ => rfl, fun _ => rfl, fun _ => rfl, rfl, rfl, rfl⟩
  · obtain ⟨y, hy, hstop, hspill⟩ := haltComplete_halts hx hf h24
    refine ⟨_, y, rfl, hy, hstop, fun hlane _ => (hspill hlane).trans (if_congr ?_ rfl rfl)⟩
    simp [toSpill_iff, hlane]
  · obtain ⟨y, hy, hhalt, hsaved, hspills⟩ := spillCtx_spills hx hh hs
    exact ⟨_, y, exec_spill hp, hy, hhalt, hsaved, hspills⟩
  · obtain ⟨⟨y, hy, hhalt, hsaved, hholds⟩, hslice⟩ := restoreCtx_resumes hx hm
    obtain ⟨hnone, hsome⟩ := slice_savedBack s c x
    exact ⟨_, y, exec_restore hp, hy, hhalt, hsaved, hholds, fun h => hslice.trans (hnone h), fun v h => hslice.trans (hsome v h)⟩

end Sys2Proof.Machine
end

section
/-! PROOF. The decoder and the encoder agree (O52, O53, O54; R74 to R80): on words by the lemma of each constructor, and on bytes by the two
lengths of an instruction. -/

namespace Sys2Proof.Laws

/-! ## Words -/

/-- The decoder reads every well-formed instruction back from its word. -/
theorem decodeWord_encodeWord (i : Instr) : wellFormed i = true → decodeWord (encodeWord i) = .instr i :=
  match i with
  | .add _ _ _ => RoundTrip.add _ _ _ | .sub _ _ _ => RoundTrip.sub _ _ _ | .and _ _ _ => RoundTrip.and _ _ _ | .or _ _ _ => RoundTrip.or _ _ _
  | .xor _ _ _ => RoundTrip.xor _ _ _ | .andn _ _ _ => RoundTrip.andn _ _ _ | .sll _ _ _ => RoundTrip.sll _ _ _
  | .srl _ _ _ => RoundTrip.srl _ _ _ | .sra _ _ _ => RoundTrip.sra _ _ _ | .slt _ _ _ => RoundTrip.slt _ _ _
  | .sltu _ _ _ => RoundTrip.sltu _ _ _ | .min _ _ _ => RoundTrip.min _ _ _ | .max _ _ _ => RoundTrip.max _ _ _
  | .minu _ _ _ => RoundTrip.minu _ _ _ | .maxu _ _ _ => RoundTrip.maxu _ _ _ | .mul _ _ _ => RoundTrip.mul _ _ _
  | .mulh _ _ _ => RoundTrip.mulh _ _ _ | .mulhu _ _ _ => RoundTrip.mulhu _ _ _ | .div _ _ _ => RoundTrip.div _ _ _
  | .divu _ _ _ => RoundTrip.divu _ _ _ | .rem _ _ _ => RoundTrip.rem _ _ _ | .remu _ _ _ => RoundTrip.remu _ _ _ | .clz _ _ => RoundTrip.clz _ _
  | .ctz _ _ => RoundTrip.ctz _ _ | .popc _ _ => RoundTrip.popc _ _ | .brev _ _ => RoundTrip.brev _ _ | .addi _ _ _ => RoundTrip.addi _ _ _
  | .andi _ _ _ => RoundTrip.andi _ _ _ | .ori _ _ _ => RoundTrip.ori _ _ _ | .xori _ _ _ => RoundTrip.xori _ _ _
  | .slti _ _ _ => RoundTrip.slti _ _ _ | .sltiu _ _ _ => RoundTrip.sltiu _ _ _ | .slli _ _ _ => RoundTrip.slli _ _ _
  | .srli _ _ _ => RoundTrip.srli _ _ _ | .srai _ _ _ => RoundTrip.srai _ _ _ | .lui _ _ => RoundTrip.lui _ _ | .beq _ _ _ => RoundTrip.beq _ _ _
  | .bne _ _ _ => RoundTrip.bne _ _ _ | .blt _ _ _ => RoundTrip.blt _ _ _ | .bge _ _ _ => RoundTrip.bge _ _ _
  | .bltu _ _ _ => RoundTrip.bltu _ _ _ | .bgeu _ _ _ => RoundTrip.bgeu _ _ _ | .jal _ _ => RoundTrip.jal _ _
  | .jalr _ _ _ => RoundTrip.jalr _ _ _ | .crr _ _ => RoundTrip.crr _ _ | .crw _ _ => RoundTrip.crw _ _ | .crs _ _ _ => RoundTrip.crs _ _ _
  | .crc _ _ _ => RoundTrip.crc _ _ _ | .trap _ => RoundTrip.trap _ | .eret => RoundTrip.eret | .brk => RoundTrip.brk | .yield => RoundTrip.yield
  | .taskEnd => RoundTrip.taskEnd | .lrecRd _ _ => RoundTrip.lrecRd _ _ | .lrecPatch _ _ _ => RoundTrip.lrecPatch _ _ _
  | .lrecArm _ _ _ => RoundTrip.lrecArm _ _ _ | .tqReq _ _ => RoundTrip.tqReq _ _ | .grpRd _ _ _ => RoundTrip.grpRd _ _ _
  | .cMv _ _ => RoundTrip.cMv _ _ | .cAdd _ _ => RoundTrip.cAdd _ _ | .cSub _ _ => RoundTrip.cSub _ _ | .cAnd _ _ => RoundTrip.cAnd _ _
  | .cOr _ _ => RoundTrip.cOr _ _ | .cXor _ _ => RoundTrip.cXor _ _ | .cAddi _ _ => RoundTrip.cAddi _ _ | .cLi _ _ => RoundTrip.cLi _ _
  | .cSlli _ _ => RoundTrip.cSlli _ _ | .cSrli _ _ => RoundTrip.cSrli _ _ | .cSrai _ _ => RoundTrip.cSrai _ _ | .cBeqz _ _ => RoundTrip.cBeqz _ _
  | .cBnez _ _ => RoundTrip.cBnez _ _ | .cSlt _ _ => RoundTrip.cSlt _ _ | .cJr _ => RoundTrip.cJr _ | .cEnd => RoundTrip.cEnd
  | .ld _ _ _ _ _ => RoundTrip.ld _ _ _ _ _ | .st _ _ _ _ _ => RoundTrip.st _ _ _ _ _ | .ldFe _ _ _ _ _ => RoundTrip.ldFe _ _ _ _ _
  | .ldFeClr _ _ _ _ _ => RoundTrip.ldFeClr _ _ _ _ _ | .stFe _ _ _ _ _ => RoundTrip.stFe _ _ _ _ _
  | .stFeForce _ _ _ _ _ => RoundTrip.stFeForce _ _ _ _ _ | .ldV _ _ _ _ _ => RoundTrip.ldV _ _ _ _ _ | .stV _ _ _ _ _ => RoundTrip.stV _ _ _ _ _
  | .vld _ _ _ _ _ => RoundTrip.vld _ _ _ _ _ | .vst _ _ _ _ _ => RoundTrip.vst _ _ _ _ _ | .vldFe _ _ _ _ _ => RoundTrip.vldFe _ _ _ _ _
  | .vldFeClr _ _ _ _ _ => RoundTrip.vldFeClr _ _ _ _ _ | .vstFe _ _ _ _ _ => RoundTrip.vstFe _ _ _ _ _
  | .vstFeForce _ _ _ _ _ => RoundTrip.vstFeForce _ _ _ _ _ | .vldV _ _ _ _ _ => RoundTrip.vldV _ _ _ _ _
  | .vstV _ _ _ _ _ => RoundTrip.vstV _ _ _ _ _ | .layRd _ _ _ _ => RoundTrip.layRd _ _ _ _ | .layWr _ _ _ _ => RoundTrip.layWr _ _ _ _
  | .reclaim _ _ _ => RoundTrip.reclaim _ _ _ | .laySel _ _ _ _ _ => RoundTrip.laySel _ _ _ _ _ | .amoAdd _ _ _ _ _ => RoundTrip.amoAdd _ _ _ _ _
  | .amoAnd _ _ _ _ _ => RoundTrip.amoAnd _ _ _ _ _ | .amoOr _ _ _ _ _ => RoundTrip.amoOr _ _ _ _ _
  | .amoXor _ _ _ _ _ => RoundTrip.amoXor _ _ _ _ _ | .amoMin _ _ _ _ _ => RoundTrip.amoMin _ _ _ _ _
  | .amoMax _ _ _ _ _ => RoundTrip.amoMax _ _ _ _ _ | .amoSwap _ _ _ _ _ => RoundTrip.amoSwap _ _ _ _ _
  | .amoCas _ _ _ _ => RoundTrip.amoCas _ _ _ _ | .amoIncb _ _ _ _ => RoundTrip.amoIncb _ _ _ _ | .amoIncw _ _ _ _ => RoundTrip.amoIncw _ _ _ _
  | .amoDecnz _ _ _ _ => RoundTrip.amoDecnz _ _ _ _ | .amoAddlim _ _ _ _ => RoundTrip.amoAddlim _ _ _ _
  | .tamoFadd _ _ _ _ => RoundTrip.tamoFadd _ _ _ _ | .tamoFmax _ _ _ _ => RoundTrip.tamoFmax _ _ _ _
  | .tamoFmin _ _ _ _ => RoundTrip.tamoFmin _ _ _ _ | .tamoOr _ _ _ _ => RoundTrip.tamoOr _ _ _ _
  | .tamoSkip _ _ _ _ => RoundTrip.tamoSkip _ _ _ _ | .tfence _ _ => RoundTrip.tfence _ _ | .annAmoAdd _ _ _ _ => RoundTrip.annAmoAdd _ _ _ _
  | .annAmoAnd _ _ _ _ => RoundTrip.annAmoAnd _ _ _ _ | .annAmoOr _ _ _ _ => RoundTrip.annAmoOr _ _ _ _
  | .annAmoXor _ _ _ _ => RoundTrip.annAmoXor _ _ _ _ | .annAmoMin _ _ _ _ => RoundTrip.annAmoMin _ _ _ _
  | .annAmoMax _ _ _ _ => RoundTrip.annAmoMax _ _ _ _ | .annAmoSwap _ _ _ _ => RoundTrip.annAmoSwap _ _ _ _
  | .annLd _ _ _ _ => RoundTrip.annLd _ _ _ _ | .fenceT => RoundTrip.fenceT | .fenceC => RoundTrip.fenceC | .fenceG => RoundTrip.fenceG
  | .fenceE => RoundTrip.fenceE | .fenceSp => RoundTrip.fenceSp | .waitCnt _ _ _ => RoundTrip.waitCnt _ _ _ | .evWait _ => RoundTrip.evWait _
  | .evSig _ _ _ => RoundTrip.evSig _ _ _ | .mtxLock _ _ => RoundTrip.mtxLock _ _ | .mtxUnlock _ _ _ => RoundTrip.mtxUnlock _ _ _
  | .barArr _ _ _ => RoundTrip.barArr _ _ _ | .barWait _ _ => RoundTrip.barWait _ _ | .barSync _ _ => RoundTrip.barSync _ _
  | .barPhase _ _ _ => RoundTrip.barPhase _ _ _ | .vadd _ _ _ _ => RoundTrip.vadd _ _ _ _ | .vsub _ _ _ _ => RoundTrip.vsub _ _ _ _
  | .vadds _ _ _ _ => RoundTrip.vadds _ _ _ _ | .vsubs _ _ _ _ => RoundTrip.vsubs _ _ _ _ | .vmul _ _ _ _ => RoundTrip.vmul _ _ _ _
  | .vmin _ _ _ _ => RoundTrip.vmin _ _ _ _ | .vmax _ _ _ _ => RoundTrip.vmax _ _ _ _ | .vand _ _ _ _ => RoundTrip.vand _ _ _ _
  | .vor _ _ _ _ => RoundTrip.vor _ _ _ _ | .vxor _ _ _ _ => RoundTrip.vxor _ _ _ _ | .vsll _ _ _ _ => RoundTrip.vsll _ _ _ _
  | .vsrl _ _ _ _ => RoundTrip.vsrl _ _ _ _ | .vsra _ _ _ _ => RoundTrip.vsra _ _ _ _ | .vminu _ _ _ _ => RoundTrip.vminu _ _ _ _
  | .vmaxu _ _ _ _ => RoundTrip.vmaxu _ _ _ _ | .vcmpEq _ _ _ _ => RoundTrip.vcmpEq _ _ _ _ | .vcmpNe _ _ _ _ => RoundTrip.vcmpNe _ _ _ _
  | .vcmpLt _ _ _ _ => RoundTrip.vcmpLt _ _ _ _ | .vcmpGe _ _ _ _ => RoundTrip.vcmpGe _ _ _ _ | .vcmpLtu _ _ _ _ => RoundTrip.vcmpLtu _ _ _ _
  | .vcmpGeu _ _ _ _ => RoundTrip.vcmpGeu _ _ _ _ | .vredsum _ _ _ => RoundTrip.vredsum _ _ _ | .vredmax _ _ _ => RoundTrip.vredmax _ _ _
  | .vfadd _ _ _ _ => RoundTrip.vfadd _ _ _ _ | .vfsub _ _ _ _ => RoundTrip.vfsub _ _ _ _ | .vfmul _ _ _ _ => RoundTrip.vfmul _ _ _ _
  | .vfma _ _ _ _ => RoundTrip.vfma _ _ _ _ | .vfnma _ _ _ _ => RoundTrip.vfnma _ _ _ _ | .vfmin _ _ _ _ => RoundTrip.vfmin _ _ _ _
  | .vfmax _ _ _ _ => RoundTrip.vfmax _ _ _ _ | .vfminp _ _ _ _ => RoundTrip.vfminp _ _ _ _ | .vfmaxp _ _ _ _ => RoundTrip.vfmaxp _ _ _ _
  | .vfabs _ _ _ => RoundTrip.vfabs _ _ _ | .vfneg _ _ _ => RoundTrip.vfneg _ _ _ | .vfcmpEq _ _ _ _ => RoundTrip.vfcmpEq _ _ _ _
  | .vfcmpLt _ _ _ _ => RoundTrip.vfcmpLt _ _ _ _ | .vfcmpLe _ _ _ _ => RoundTrip.vfcmpLe _ _ _ _ | .vfcmpUn _ _ _ _ => RoundTrip.vfcmpUn _ _ _ _
  | .vfclass _ _ _ => RoundTrip.vfclass _ _ _ | .vfredsum _ _ _ => RoundTrip.vfredsum _ _ _ | .vfredmax _ _ _ => RoundTrip.vfredmax _ _ _
  | .vfredmin _ _ _ => RoundTrip.vfredmin _ _ _ | .vfdiv _ _ _ _ _ => RoundTrip.vfdiv _ _ _ _ _ | .vfsqrt _ _ _ _ => RoundTrip.vfsqrt _ _ _ _
  | .vfrcpa _ _ _ _ => RoundTrip.vfrcpa _ _ _ _ | .vfrsqa _ _ _ _ => RoundTrip.vfrsqa _ _ _ _ | .vexp2a _ _ _ _ => RoundTrip.vexp2a _ _ _ _
  | .vlog2a _ _ _ _ => RoundTrip.vlog2a _ _ _ _ | .vgauss _ _ _ _ => RoundTrip.vgauss _ _ _ _ | .vsel _ _ _ _ => RoundTrip.vsel _ _ _ _
  | .vperm _ _ _ _ => RoundTrip.vperm _ _ _ _ | .vbcast _ _ _ => RoundTrip.vbcast _ _ _ | .vbcastL _ _ _ _ => RoundTrip.vbcastL _ _ _ _
  | .vslideUp _ _ _ _ => RoundTrip.vslideUp _ _ _ _ | .vslideDn _ _ _ _ => RoundTrip.vslideDn _ _ _ _ | .vext _ _ _ _ => RoundTrip.vext _ _ _ _
  | .vins _ _ _ _ => RoundTrip.vins _ _ _ _ | .vcvtFN _ _ _ _ _ => RoundTrip.vcvtFN _ _ _ _ _ | .vcvtFW _ _ _ _ _ => RoundTrip.vcvtFW _ _ _ _ _
  | .vcvtIN _ _ _ _ _ => RoundTrip.vcvtIN _ _ _ _ _ | .vcvtIW _ _ _ _ _ => RoundTrip.vcvtIW _ _ _ _ _
  | .vcvtX _ _ _ _ _ => RoundTrip.vcvtX _ _ _ _ _ | .vcvtXu _ _ _ _ _ => RoundTrip.vcvtXu _ _ _ _ _ | .vqnt _ _ _ _ _ => RoundTrip.vqnt _ _ _ _ _
  | .vdqnt _ _ _ _ _ => RoundTrip.vdqnt _ _ _ _ _ | .pand _ _ _ => RoundTrip.pand _ _ _ | .por _ _ _ => RoundTrip.por _ _ _
  | .pnot _ _ => RoundTrip.pnot _ _ | .pset _ _ => RoundTrip.pset _ _ | .pcount _ _ _ => RoundTrip.pcount _ _ _
  | .engW _ _ _ => RoundTrip.engW _ _ _ | .engR _ _ _ _ => RoundTrip.engR _ _ _ _ | .copyLaunch _ _ => RoundTrip.copyLaunch _ _
  | .gatherLaunch _ _ => RoundTrip.gatherLaunch _ _ | .exchangeLaunch _ _ => RoundTrip.exchangeLaunch _ _
  | .engWait _ _ _ => RoundTrip.engWait _ _ _ | .engPoll _ _ _ => RoundTrip.engPoll _ _ _ | .msgSend _ _ _ => RoundTrip.msgSend _ _ _
  | .msgRecv _ _ _ _ => RoundTrip.msgRecv _ _ _ _ | .msgPush _ _ _ _ => RoundTrip.msgPush _ _ _ _ | .msgSret _ _ _ _ => RoundTrip.msgSret _ _ _ _
  | .rankRd _ _ _ _ => RoundTrip.rankRd _ _ _ _ | .rankMove _ _ _ _ => RoundTrip.rankMove _ _ _ _ | .gangMma _ _ _ _ => RoundTrip.gangMma _ _ _ _
  | .gangMmaSh _ _ _ _ _ => RoundTrip.gangMmaSh _ _ _ _ _ | .mxFill _ _ _ _ => RoundTrip.mxFill _ _ _ _
  | .mxFillCol _ _ _ _ => RoundTrip.mxFillCol _ _ _ _ | .mxAcld _ _ _ _ => RoundTrip.mxAcld _ _ _ _ | .mxAcst _ _ _ _ => RoundTrip.mxAcst _ _ _ _
  | .mxZero _ _ => RoundTrip.mxZero _ _ | .mxClaim _ _ => RoundTrip.mxClaim _ _ | .mxRel _ _ => RoundTrip.mxRel _ _
  | .mxRegen _ _ _ => RoundTrip.mxRegen _ _ _ | .mxRegenE _ _ _ => RoundTrip.mxRegenE _ _ _ | .mxRegenT _ _ _ => RoundTrip.mxRegenT _ _ _
  | .mxRegenET _ _ _ => RoundTrip.mxRegenET _ _ _ | .gangForm _ => RoundTrip.gangForm _ | .gangSplit => RoundTrip.gangSplit
  | .prmOpen _ _ _ _ => RoundTrip.prmOpen _ _ _ _ | .prmRedeem _ _ _ _ => RoundTrip.prmRedeem _ _ _ _
  | .prmRedeemT _ _ _ _ => RoundTrip.prmRedeemT _ _ _ _ | .prmCancel _ _ _ => RoundTrip.prmCancel _ _ _
  | .prmQuery _ _ _ _ => RoundTrip.prmQuery _ _ _ _ | .optCard _ _ _ _ => RoundTrip.optCard _ _ _ _ | .optLdr _ _ _ _ => RoundTrip.optLdr _ _ _ _
  | .optWait _ _ _ => RoundTrip.optWait _ _ _ | .cntRd _ _ _ => RoundTrip.cntRd _ _ _ | .trcMark _ _ => RoundTrip.trcMark _ _
  | .prfRd _ _ _ => RoundTrip.prfRd _ _ _ | .gangJoinInstruction _ _ => RoundTrip.gangJoinInstruction _ _
  | .powerOn | .coldReset | .warmReset | .thermalTrip | .thermalClear | .hostLinkDown | .owncas | .denied | .arm | .evpop | .bar2Write
    | .registerWrite | .fwmin | .create | .sealPart | .bind | .preempt | .resume | .debug | .dbgcont | .map | .unmap | .pgresp
    | .jobopen | .jobmap | .jobseal | .jobclose | .hload | .snap | .recread | .idkey | .retire | .trace | .tfilter | .taskStart
    | .windowClose | .windowResultDelivery | .quantumDeadlock | .watchdog | .timer | .ticketGap | .tfenceGapExpiry | .tktLoadGapExpiry
    | .optWaitGapExpiry | .sendStall | .clockGate | .decodeTrap | .handlerEntry | .fatalStop | .userInterruptDelivery | .preEmption
    | .haltComplete | .spill | .restore | .coreFailure | .rowRemap | .laneFailure | .flitReceive | .retransmissionRequest
    | .messageArrival | .messageRetry | .pushApply | .slotReturn | .copyComplete | .gatherComplete | .exchangeComplete
    | .enginePageFault | .engineGranuleWaitEnd | .lockWaitEnd | .fullEmptyWaitEnd | .versionWaitEnd | .reclaimWaitEnd | .barrierRelease
    | .phaseWaitEnd | .eventSignalLanding | .ticketArrival | .ticketRetry | .instructionCompletion | .recordPoolAnswer
    | .gangMmaCompletion | .cardStart | .cardComplete | .strainerAction | .traceFilterRun | .interlockedResult | .homeBankAccess
    | .mutexRetry => nofun

/-- What decodes was selected by its groups, is well formed and encodes to the word. -/
theorem instr_of_decodeWord {w : Word} {i : Instr} (h : decodeWord w = .instr i) :
    rawDecode w = some i ∧ wellFormed i = true ∧ encodeWord i = w := by
  unfold decodeWord at h
  split at h
  · cases h
  split at h
  · cases h
  split at h
  next j hj =>
    split at h
    next hc =>
      obtain rfl := Decoded.instr.inj h
      obtain ⟨hw, he⟩ := Bool.and_eq_true_iff.1 hc
      exact ⟨hj, hw, of_decide_eq_true he⟩
    next => cases h
  next => cases h

/-- A compact form is encoded in its low parcel. -/
theorem high_zero_of_rawCompact {e : BitVec 1} {a d : BitVec 5} {o : BitVec 4} {i : Instr} (h : rawCompact e a d o = some i) :
    (encodeWord i).extractLsb' 16 16 = 0#16 := by
  unfold rawCompact at h
  split at h <;> cases h <;> exact extract_append_high _ _

/-- A word with bit 0 clear that decodes has its upper parcel zero (R74). -/
theorem high_zero_of_decodeWord {w : Word} {i : Instr} (h : decodeWord w = .instr i) (h0 : w.getLsbD 0 = false) :
    w.extractLsb' 16 16 = 0#16 := by
  obtain ⟨hr, -, rfl⟩ := instr_of_decodeWord h
  rw [rawDecode, h0] at hr
  exact high_zero_of_rawCompact hr

/-! ## Bytes -/

theorem parcelBytes_append (b1 b0 : Byte) : parcelBytes (b1 ++ b0) = [b0, b1] :=
  congrArg₂ (fun low high => [low, high]) (extract_append_low b1 b0) (extract_append_high b1 b0)

theorem join_parcelBytes (p : BitVec 16) : (p.extractLsb' 8 8 ++ p.extractLsb' 0 8 : BitVec 16) = p :=
  joinBits2 (m := 8) (n := 8) p

theorem encode_of_even {i : Instr} (h : (encodeWord i).getLsbD 0 = false) : encode i = parcelBytes ((encodeWord i).extractLsb' 0 16) := by
  simp only [encode, encodeParcels, h, Bool.false_eq_true, if_false, List.flatMap_cons, List.flatMap_nil, List.append_nil]

theorem encode_of_odd {i : Instr} (h : (encodeWord i).getLsbD 0 = true) :
    encode i = parcelBytes ((encodeWord i).extractLsb' 0 16) ++ parcelBytes ((encodeWord i).extractLsb' 16 16) := by
  simp only [encode, encodeParcels, h, if_true, List.flatMap_cons, List.flatMap_nil, List.append_nil]

/-- A compact parcel decodes by itself, whatever follows it. -/
theorem decodeBytes_of_even {lo : BitVec 16} {i : Instr} (rest : List Byte) (h0 : lo.getLsbD 0 = false)
    (h : decodeWord (0#16 ++ lo) = .instr i) : decodeBytes (parcelBytes lo ++ rest) = some (i, 2) := by
  simp only [parcelBytes, List.cons_append, List.nil_append, decodeBytes, join_parcelBytes, h0, joinParcels, parcelLength, h,
    Bool.false_eq_true, if_false]

/-- The two parcels of a long instruction decode together. -/
theorem decodeBytes_of_odd {lo hi : BitVec 16} {i : Instr} (rest : List Byte) (h0 : lo.getLsbD 0 = true)
    (h : decodeWord (hi ++ lo) = .instr i) : decodeBytes (parcelBytes lo ++ parcelBytes hi ++ rest) = some (i, 4) := by
  simp only [parcelBytes, List.cons_append, List.nil_append, decodeBytes, join_parcelBytes, h0, joinParcels, parcelLength, h, if_true]

/-- Bytes decode only as a compact parcel or as the two parcels of a long instruction. -/
theorem decodeBytes_cases {bs : List Byte} {i : Instr} {n : Nat} (h : decodeBytes bs = some (i, n)) :
    (∃ (lo : BitVec 16) (rest : List Byte), lo.getLsbD 0 = false ∧ bs = parcelBytes lo ++ rest ∧ decodeWord (0#16 ++ lo) = .instr i ∧ n = 2) ∨
    ∃ (lo hi : BitVec 16) (rest : List Byte), lo.getLsbD 0 = true ∧ bs = parcelBytes lo ++ parcelBytes hi ++ rest ∧
      decodeWord (hi ++ lo) = .instr i ∧ n = 4 := by
  match bs with
  | [] | [_] => cases h
  | b0 :: b1 :: rest =>
    simp only [decodeBytes] at h
    cases h0 : (b1 ++ b0 : BitVec 16).getLsbD 0 with
    | false =>
      simp only [h0, joinParcels, parcelLength, Bool.false_eq_true, if_false] at h
      split at h
      next j hj =>
        obtain ⟨rfl, rfl⟩ := Prod.mk.inj (Option.some.inj h)
        exact .inl ⟨b1 ++ b0, rest, h0, by rw [parcelBytes_append]; rfl, hj, rfl⟩
      next => cases h
    | true =>
      simp only [h0, joinParcels, parcelLength, if_true] at h
      match rest with
      | [] | [_] => cases h
      | b2 :: b3 :: rest =>
        dsimp only at h
        split at h
        next j hj =>
          obtain ⟨rfl, rfl⟩ := Prod.mk.inj (Option.some.inj h)
          exact .inr ⟨b1 ++ b0, b3 ++ b2, rest, h0, by rw [parcelBytes_append, parcelBytes_append]; rfl, hj, rfl⟩
        next => cases h

/-- Bit 0 of a word is bit 0 of its low parcel. -/
theorem lowParcel_bit0 (w : Word) : (w.extractLsb' 0 16).getLsbD 0 = w.getLsbD 0 := by
  simp

theorem joinWord (w : Word) : (w.extractLsb' 16 16 ++ w.extractLsb' 0 16 : Word) = w := joinBits2 (m := 16) (n := 16) w

theorem bit0_of_lowParcel {w : Word} {hi lo : BitVec 16} (h : w = hi ++ lo) : w.getLsbD 0 = lo.getLsbD 0 := by
  rw [← lowParcel_bit0, h, extract_append_low]

/-- The bytes of a compact instruction are those of its parcel. -/
theorem encode_of_decodes_even {lo : BitVec 16} {i : Instr} (h0 : lo.getLsbD 0 = false) (h : decodeWord (0#16 ++ lo) = .instr i) :
    encode i = parcelBytes lo := by
  obtain ⟨-, -, he⟩ := instr_of_decodeWord h
  rw [encode_of_even ((bit0_of_lowParcel he).trans h0), he, extract_append_low]

/-- The bytes of a long instruction are those of its two parcels. -/
theorem encode_of_decodes_odd {lo hi : BitVec 16} {i : Instr} (h0 : lo.getLsbD 0 = true) (h : decodeWord (hi ++ lo) = .instr i) :
    encode i = parcelBytes lo ++ parcelBytes hi := by
  obtain ⟨-, -, he⟩ := instr_of_decodeWord h
  rw [encode_of_odd ((bit0_of_lowParcel he).trans h0), he, extract_append_low, extract_append_high]

/-- Settles O53: the word decodes (decodeWord_encodeWord), and its bytes are those of one parcel or of two. -/
theorem roundTrip : Obligations.RoundTrip := by
  intro i rest hw
  have hd := decodeWord_encodeWord i hw
  cases h0 : (encodeWord i).getLsbD 0 with
  | false =>
    have hj : (0#16 ++ (encodeWord i).extractLsb' 0 16 : Word) = encodeWord i := by
      rw [← high_zero_of_decodeWord hd h0, joinWord]
    rw [encode_of_even h0]
    exact decodeBytes_of_even rest ((lowParcel_bit0 _).trans h0) (by rw [hj, hd])
  | true =>
    rw [encode_of_odd h0]
    exact decodeBytes_of_odd rest ((lowParcel_bit0 _).trans h0) (by rw [joinWord, hd])

/-- Settles O54: decodeWord accepts a word only where it is the encoding (instr_of_decodeWord), and bytes decode only by their parcels
(decodeBytes_cases). -/
theorem decodeUnique : Obligations.DecodeUnique := by
  refine ⟨fun w i h => ?_, fun bs i n h => ?_⟩
  · obtain ⟨-, hw, he⟩ := instr_of_decodeWord h
    exact ⟨he, hw⟩
  · obtain ⟨lo, rest, h0, rfl, hd, rfl⟩ | ⟨lo, hi, rest, h0, rfl, hd, rfl⟩ := decodeBytes_cases h
    · obtain ⟨-, hw, -⟩ := instr_of_decodeWord hd
      exact ⟨hw, by rw [encode_of_decodes_even h0 hd]; rfl⟩
    · obtain ⟨-, hw, -⟩ := instr_of_decodeWord hd
      exact ⟨hw, by rw [encode_of_decodes_odd h0 hd]; rfl⟩

/-- Settles O52: the seven words decode, and what decodes is the encoding of its instruction (instr_of_decodeWord). -/
theorem wordsDecode : Obligations.WordsDecode := by
  have hd : ∀ e ∈ Spec.words, decodeWord e.1 = .instr e.2 := by decide
  intro e he
  obtain ⟨-, -, hword⟩ := instr_of_decodeWord (hd e he)
  exact ⟨hd e he, hword⟩

end Sys2Proof.Laws
end

section
/-! PROOF. BAR2 writes do not reach the code of a released record (O41; R72). -/

namespace Sys2Proof.Machine

theorem liveCode_of_mem {x : Ctx} {e : Nat × Run} {b : Nat} (he : e ∈ x.runs) (hfirst : codeoff x + e.2.kernel.kcode ≤ b)
    (hlast : b < codeoff x + e.2.kernel.kcode + 2 * e.2.kernel.klen) : liveCode x b = true :=
  List.any_eq_true.2 ⟨e, he, decide_eq_true ⟨hfirst, hlast⟩⟩

/-- Settles O41: a write that meets the code of a released record is dropped (bar2Write_dropped), which is a count of DENIED. -/
theorem bar2Writes : Obligations.Bar2Writes := by
  intro s x e m first hx he ⟨k, hk, hfirst, hlast⟩
  have hdrop : exec .bar2Write s = .next (countDenied s m) :=
    congrArg Host.Outcome.next (bar2Write_dropped hx (.inr ⟨k, hk, .inr (liveCode_of_mem he hfirst hlast)⟩))
  refine ⟨_, hdrop, ?_, fun j hj => masterAt_updMaster_other s _ hj, rfl, rfl⟩
  rw [← satInc_eq]
  exact congrArg Master.denied (masterAt_updMaster_same s m _)

end Sys2Proof.Machine
end

section
/-! PROOF. A step runs the decoded instruction (O51; R70, R73, R74, R79, R89, R90). -/

namespace Sys2Proof.Machine

section
variable {s : State} {n : Nat}

theorem task_of_canRun (h : canRun s n = true) : (coreAt s n).task.isNone = false := by
  cases ht : (coreAt s n).task with
  | none => simp [canRun, mayGoOn, taskEnv, ht] at h
  | some t => rfl

theorem trap_of_canRun (h : canRun s n = true) : (coreAt s n).trap = none :=
  Option.isNone_iff_eq_none.1 (Bool.and_eq_true_iff.1 h).2

theorem step_core {k : Nat} (hidle : s.agenda = []) (hcur : s.cur = k) (hk : k < 8192) : step s = coreMove exec s k := by
  subst hcur
  rw [step, stepWith, hidle]
  exact if_pos hk

theorem step_event {i : Instr} {y : Input} {l : List Move} (hl : s.agenda = .event i y :: l) (hi : encodeWord i = 0#32) :
    step s = exec i { s with agenda := l, input := y } := by
  rw [step, stepWith, hl]
  exact if_pos (decide_eq_true hi)

variable {run : Instr → State → Out}

/-- What a core fetches and decodes, it runs. -/
theorem runFetched_instr {w : Word} {i : Instr} (hr : canRun { s with cur := n } n = true) (hf : fetchWord { s with cur := n } n = some w)
    (hd : decodeWord w = .instr i) : runFetched run s n = run i { s with cur := n } := by
  simp only [runFetched, hr, hf, hd, Bool.true_eq_false, if_false]

/-- What a boundary delivers comes before anything else of the move. -/
theorem coreMove_boundary {t : State} (hcur : s.cur = n) (hr : canRun s n = true) (hb : boundary s n = some t) :
    coreMove run s n = .next t := by
  subst hcur
  simp only [coreMove, trap_of_canRun hr, task_of_canRun hr, hr, hb, Option.isSome_none, Bool.false_eq_true, if_false,
    Bool.true_eq_false]

/-- A core in no gang, at a boundary at which nothing is delivered, runs what it fetches. -/
theorem coreMove_alone (hcur : s.cur = n) (hr : canRun s n = true) (hb : boundary s n = none) (hg : gangOf s n = none) :
    coreMove run s n = runFetched run s n := by
  subst hcur
  simp only [coreMove, trap_of_canRun hr, task_of_canRun hr, hr, hb, hg, Option.isSome_none, Bool.false_eq_true, if_false,
    Bool.true_eq_false]

/-- A gang runs its fused instruction once no member has a trap to enter and nothing is delivered to one. -/
theorem coreMove_gang {g : Gang} (hcur : s.cur = n) (hr : canRun s n = true) (hb : boundary s n = none) (hg : gangOf s n = some g)
    (htrap : ∀ m ∈ membersOf g n, (coreAt s m).trap = none) (hbs : ∀ m ∈ membersOf g n, canRun s m = true → boundary s m = none) :
    coreMove run s n = runGang run s n g := by
  subst hcur
  have hfind : (membersOf g s.cur).find? (fun m => (coreAt s m).trap.isSome) = none :=
    List.find?_eq_none.2 fun m hm => by rw [htrap m hm]; simp
  have hsome : (membersOf g s.cur).findSome? (fun m => if canRun s m then boundary s m else none) = none :=
    List.findSome?_eq_none_iff.2 fun m hm => by
      split
      next h => exact hbs m hm h
      next => rfl
  simp only [coreMove, trap_of_canRun hr, task_of_canRun hr, hr, hb, hg, hfind, hsome, Option.isSome_none, Bool.false_eq_true,
    if_false, Bool.true_eq_false]

end

/-- Settles O51: the step is the move of the core or of the agenda (step_core, step_event), which runs what the core fetches
(coreMove_alone, runFetched_instr), or the fused instruction of its gang (coreMove_gang). -/
theorem stepRunsDecoded : Obligations.StepRunsDecoded := by
  refine ⟨fun s i w hidle hlt h => ?_, fun s i y l hl hi => step_event hl hi, fun s g hidle hlt htrap hr hg hm => ?_⟩
  · rw [step_core hidle rfl hlt, coreMove_alone rfl h.runs h.nothing h.alone, runFetched_instr h.runs h.fetched h.decoded]
  · have hself : 8 * clusterOf s.cur + slotOf s.cur = s.cur := Nat.div_add_mod s.cur 8
    have hb : boundary s s.cur = none := by
      obtain ⟨-, hb⟩ := hm (slotOf s.cur) List.mem_cons_self
      rw [hself] at hb
      exact hb hr
    have hmember : ∀ m ∈ membersOf g s.cur, (coreAt s m).trap = none ∧ (canRun s m = true → boundary s m = none) := by
      intro m h
      obtain ⟨k, hk, rfl⟩ := List.mem_map.1 h
      exact hm k (List.mem_cons_of_mem _ hk)
    rw [step_core hidle rfl hlt, coreMove_gang rfl hr hb hg (fun m h => (hmember m h).1) (fun m h => (hmember m h).2)]

end Sys2Proof.Machine
end

section
/-! PROOF. task.end completes and ends the task (O6; R34, R59, R80, R124, R256, R257). -/

namespace Sys2Proof.Machine

/-! ## The state in which a task ends -/

/-- The state in which the task t of core n ends, before the core's own units are cleared (R124). -/
def settledTask (s : State) (n : Nat) (t : Task) : State := passWaves (addShadow (releaseMutexes (dissolve s n) n) n) t n

/-- The core that the end of its task leaves, with what it runs next (R40, R59). -/
def coreAfter (k : Core) (next : Option Task) : Core := { clearTask k with count := k.count + 1, next := next }

/-- Releasing mutexes changes bytes of slices, the tests of counted waits and the core. -/
theorem releaseMutexes_only (s : State) (n : Nat) :
    ∃ m c k, releaseMutexes s n = { s with slice := m, counting := c, cores := k } := by
  obtain ⟨b, h⟩ := foldl_only (fun s (b : Memory × Table CountTest) => { s with slice := b.1, counting := b.2 }) (fun _ _ _ => rfl)
    (fun s (m : Nat × Nat) => testCounts { s with slice := s.slice.write m.1 (s.slice.read m.1 &&& ~~~(1#8 <<< m.2)) })
    (fun s m => ⟨(_, _), rfl⟩) (fun s => ⟨(s.slice, s.counting), rfl⟩) ((coreAt s n).mutexes.foldr insertHeld []) s
  exact ⟨_, _, _, by rw [releaseMutexes, h]; rfl⟩

theorem addShadow_caddy (s : State) (n : Nat) : (addShadow s n).caddy = s.caddy := by
  unfold addShadow
  split
  · rfl
  · exact updCtx_caddy ..

theorem passWaves_caddy (s : State) (t : Task) (n : Nat) : (passWaves s t n).caddy = s.caddy := by
  unfold passWaves
  split
  · rfl
  · exact updCtx_caddy ..

theorem dissolve_caddy (s : State) (n : Nat) : (dissolve s n).caddy = s.caddy := by
  unfold dissolve
  split <;> rfl

theorem settledTask_caddy (s : State) (n : Nat) (t : Task) : (settledTask s n t).caddy = s.caddy := by
  obtain ⟨m, c, k, h⟩ := releaseMutexes_only (dissolve s n) n
  rw [settledTask, passWaves_caddy, addShadow_caddy, h]
  exact dissolve_caddy s n

theorem sched_passWaves {o : Option Nat} (s : State) (t : Task) (n : Nat) : Sched o s (passWaves s t n) := by
  unfold passWaves
  split
  · exact .refl s
  · exact sched_updCtx (fun _ => ⟨rfl, rfl, rfl⟩) fun _ _ h => h

/-- The context of the task stands where it stood, with its header. -/
theorem ctxAt_settledTask {s : State} {n : Nat} {t : Task} {x : Ctx} (hx : ctxAt s t.ctx = some x) :
    ∃ y, ctxAt (settledTask s n t) t.ctx = some y ∧ y.hdr = x.hdr := by
  have h : ctxAt (releaseMutexes (dissolve s n) n) t.ctx = some x := by
    obtain ⟨m, c, k, h⟩ := releaseMutexes_only (dissolve s n) n
    rw [h]
    exact (ctxAt_dissolve ..).trans hx
  obtain ⟨y, hy, hk, -⟩ := ((sched_addShadow (o := none) _ n).trans (sched_passWaves _ t n)).ctx t.ctx x h
  exact ⟨y, hy, hk.hdr⟩

theorem recNdone_congr {s s' : State} {x y : Ctx} (hc : s'.caddy = s.caddy) (hh : y.hdr = x.hdr) (c i : Nat) :
    recNdone s' c y i = recNdone s c x i := by
  simp only [recNdone, recWord, caddyW, recoff, hdrWord, hc, hh]

/-! ## The end of a task that is not its record's last (R34, R59, R124) -/

/-- The task's core is cleared and takes what it runs next, and STATUS counts the task. -/
theorem endTask_of_open {s : State} {n : Nat} {t : Task} {x : Ctx} {u : Run} (h : taskEnv s n = some (t, x, u))
    (hopen : recNdone s t.ctx x t.ridx + 1 ≠ tileCount (fun i => u.copy.getD i 0#32)) :
    ∃ y, y.hdr = x.hdr ∧ endTask s n =
      setStatus (setCore (settledTask s n t) n (coreAfter (coreAt (settledTask s n t) n)
        (nextTask t (fun i => u.copy.getD i 0#32) (prel x n - 8 * clBase (fun i => u.copy.getD i 0#32)))))
        t.ctx y t.ridx (recNdone s t.ctx x t.ridx + 1) 0 3 := by
  obtain ⟨-, hx, -⟩ := taskEnv_some h
  obtain ⟨y, hy, hh⟩ := ctxAt_settledTask (n := n) hx
  refine ⟨y, hh, ?_⟩
  have hn (k : Core) : recNdone (setCore (settledTask s n t) n k) t.ctx y t.ridx = recNdone s t.ctx x t.ridx :=
    recNdone_congr (settledTask_caddy s n t) hh _ _
  unfold endTask
  simp only [h]
  rw [← settledTask, ctxAt_setCore, hy]
  dsimp only
  rw [hn, if_neg fun ⟨hd, _⟩ => hopen hd]
  rfl

theorem coreAt_setStatus (s : State) (c : Nat) (x : Ctx) (i nd cause st n : Nat) : coreAt (setStatus s c x i nd cause st) n = coreAt s n := by
  obtain ⟨b, h⟩ := setStatus_only s c x i nd cause st
  rw [h]
  rfl

/-- NDONE of STATUS reads back. -/
theorem recNdone_setStatus (s : State) (c : Nat) (x : Ctx) (i : Nat) {nd cause st : Nat} (hn : nd < 2 ^ 24) (hc : cause < 16) (hs : st < 16) :
    recNdone (setStatus s c x i nd cause st) c x i = nd := by
  rw [recNdone, recWord_setStatus, if_pos rfl, BitVec.toNat_ofNat, Nat.mod_eq_of_lt (by omega)]
  omega

theorem taskEndEffect : Spec.TaskEndEffect := by
  intro s n t x u h h24 hopen
  obtain ⟨y, hh, he⟩ := endTask_of_open h hopen
  have hcore := (congrArg (fun r => coreAt r n) he).trans ((coreAt_setStatus ..).trans (coreAt_setCore ..))
  beta_reduce at hcore
  refine ⟨?_, by rw [hcore]; rfl, by rw [hcore]; rfl, fun ha => ?_, fun w b l ha => ?_⟩
  · rw [he]
    exact (recNdone_congr rfl hh.symm _ _).trans (recNdone_setStatus _ t.ctx y t.ridx h24 (by decide) (by decide))
  · rw [hcore, coreAfter, nextTask, ha]
  · rw [hcore, coreAfter, nextTask, ha]

/-! ## task.end itself (R80, R124, R256, R257) -/

theorem taskEndBody_ends {s : State} (hw : pendingKind (me s) .window = false) (hcmds : (me s).cmds = []) (hcards : cardsOf s s.cur = [])
    (hfaults : (me s).afaults = []) (hp : (me s).priv = false) : taskEndBody s = .done (retireTask s s.cur) := by
  simp [taskEndBody, hw, hcmds, hcards, hp, nextFault, hfaults]

/-- task.end and c.end are the same instruction but for their length. -/
theorem exec_taskEnd {i : Instr} {sh : Shape} {s s1 : State} {r : State}
    (hi : i = .taskEnd ∧ sh = { sys := true } ∨ i = .cEnd ∧ sh = { len := 2, sys := true }) (hgo : Issues i sh s s1)
    (hb : taskEndBody s1 = .done r) : exec i s = .next r := by
  rcases hi with ⟨rfl, rfl⟩ | ⟨rfl, rfl⟩
  · exact issue_done hgo hb
  · exact issue_done hgo hb

/-- Where no core waits at an array join, the end of a task raises nothing. -/
theorem leaveJoins_of_none {s : State} {cl : Nat} (t : Task) (h : ∀ m ∈ clusterCores cl, joinOf (coreAt s m) false = none) :
    leaveJoins s cl t = s := by
  have hnil : (clusterCores cl).filter (fun m => holdsWave s t m && atArray s m) = [] :=
    List.filter_eq_nil_iff.2 fun m hm => by simp [atArray, h m hm]
  unfold leaveJoins
  dsimp only
  rw [hnil, List.foldl_nil, ite_self]

/-- Where one core waits at an array join of a wave that has lost a participant, it traps (R256). -/
theorem leaveJoins_of_one {s : State} {cl k m : Nat} {t : Task} (hk : k ∈ clusterCores cl) (hout : mayHold s t k = false)
    (hone : (clusterCores cl).filter (fun m => holdsWave s t m && (joinOf (coreAt s m) false).isSome) = [m]) :
    leaveJoins s cl t = takeTrap s m (mismatchTrap 0x05 (slotMask (fun j => mayHold s t (8 * cl + j)))) := by
  have hall : ¬(clusterCores cl).all (mayHold s t) = true := fun h =>
    Bool.false_ne_true (hout.symm.trans (List.all_eq_true.1 h k hk))
  unfold leaveJoins
  dsimp only
  rw [if_neg hall, show (fun m => holdsWave s t m && atArray s m) = (fun m => holdsWave s t m && (joinOf (coreAt s m) false).isSome) from rfl,
    hone]
  rfl

theorem slotMask_eq_sum (f : Nat → Bool) : slotMask f = (((List.range 8).filter f).map (2 ^ ·)).sum := by
  rw [List.sum_eq_foldl, List.foldl_map, slotMask]

theorem slotMask_lt (f : Nat → Bool) : slotMask f < 256 := by
  have hsub : List.Sublist (((List.range 8).filter f).map (2 ^ ·)) ((List.range 8).map (2 ^ ·)) := List.filter_sublist.map _
  have hle := hsub.sum_le_sum fun a _ => Nat.zero_le a
  rw [slotMask_eq_sum]
  exact Nat.lt_of_le_of_lt hle (by decide)

theorem mem_clusterCores_clusterOf (n : Nat) : n ∈ clusterCores (clusterOf n) :=
  List.mem_map.2 ⟨n % 8, List.mem_range.2 (Nat.mod_lt n (by decide)), Nat.div_add_mod n 8⟩

theorem taskEndCompletes : Spec.TaskEndCompletes := by
  intro i sh s s1 hi hgo hw hcmds hcards hfaults hp
  have hcur : s1.cur = s.cur := go_cur hgo
  have hexec : exec i s = .next (retireTask s1 s.cur) := by
    refine exec_taskEnd hi hgo ?_
    rw [← hcur] at hw hcmds hcards hfaults hp ⊢
    exact taskEndBody_ends hw hcmds hcards hfaults hp
  refine ⟨_, hexec, fun hnone => ?_, fun t m ht hout hone => ?_⟩
  · unfold retireTask
    split
    · exact leaveJoins_of_none _ hnone
    · rfl
  · simp only [retireTask, ht]
    rw [leaveJoins_of_one (mem_clusterCores_clusterOf s.cur) hout hone, mismatchTrap, Nat.mod_eq_of_lt (slotMask_lt _), slotMask_eq_sum]
    rfl

/-- Settles O6: the body of task.end retires the task (taskEndBody_ends), which leaves the array joins of its wave (leaveJoins_of_none,
leaveJoins_of_one) and whose end is written out by endTask_of_open. -/
theorem taskEnd : Obligations.TaskEnd := ⟨taskEndCompletes, taskEndEffect⟩

end Sys2Proof.Machine
end

section
/-! PROOF. What comes at an instruction boundary (O48; R73, R79, R128, R225, R308, R342, R346, R348). -/

namespace Sys2Proof.Machine

/-! ## What a boundary looks at -/

section
variable {s : State} {n : Nat}

theorem hasJoined_eq_false {k : Core} (h : ∀ e ∈ k.cmds, e.2.kind = .exchange → e.2.joined = true → e.1 ≠ (k.seq + 1) % 2 ^ 30) :
    hasJoined k = false := by
  refine List.any_eq_false.2 fun e he hj => ?_
  simp only [Bool.and_eq_true, decide_eq_true_eq] at hj
  obtain ⟨⟨hkind, hjoined⟩, hseq⟩ := hj
  exact h e he hkind hjoined hseq

theorem wasAccepted_eq_false {k : Core} (h : ∀ b, k.reply ≠ some (.answered .accepted b)) : wasAccepted k = false := by
  unfold wasAccepted
  split
  next hr => exact absurd hr (h _)
  next => rfl

/-- Nothing is decided where the statements say so. -/
theorem countDecided_of_undecided (h : Spec.undecided s n) : countDecided s n = false := by
  obtain ⟨hwait, hmet, hjoin, hreply⟩ := h
  refine Bool.or_eq_false_iff.2 ⟨Bool.or_eq_false_iff.2 ⟨?_, ?_⟩, ?_⟩
  · rw [hasJoined_eq_false hjoin, wasAccepted_eq_false hreply]
    rfl
  · split
    next q hq => rw [hwait q hq]; rfl
    next => rfl
  · split
    next q hq => exact hmet q hq
    next => rfl

theorem endsTask_iff : endsTask s n = true ↔ ∃ w, fetchWord s n = some w ∧ (decodeWord w = .instr .taskEnd ∨ decodeWord w = .instr .cEnd) := by
  unfold endsTask
  cases fetchWord s n with
  | none => simp
  | some w =>
    simp only [Option.map_some, Option.some.injEq, exists_eq_left']
    split
    next h => exact iff_of_true rfl (.inl (Option.some.inj h))
    next h => exact iff_of_true rfl (.inr (Option.some.inj h))
    next h1 h2 => exact iff_of_false Bool.false_ne_true fun h => h.elim (fun h => h1 (congrArg some h)) fun h => h2 (congrArg some h)

theorem atWaitPoint_of {w : Word} {i : Instr} (hf : fetchWord s n = some w) (hd : decodeWord w = .instr i) (hw : waitPoint i = true) :
    atWaitPoint s n = true := by
  simp [atWaitPoint, hf, hd, hw]

theorem handlerDue_eq_false {k : Core} (h : ∀ e ∈ k.cmds, e.2.handler = none) : handlerDue k = false :=
  List.any_eq_false.2 fun e he => by simp [h e he]

/-- Outside a DET context the oldest fault of an engine is what a boundary without a timer delivers, at either level (R342). -/
theorem boundary_engineFault {f : AFault} (hu : Spec.undecided s n) (ht : (coreAt s n).timerDue = false ∨ (coreAt s n).priv = true)
    (hd : detOf s n = false) (hf : (coreAt s n).afaults.find? (fun f => decide (f.cause = .engine)) = some f) :
    boundary s n = some (takeTrap (dropFault s n f) n (asyncTrap f)) := by
  have htimer : ¬((coreAt s n).timerDue && !(coreAt s n).priv) = true := by
    rcases ht with ht | ht <;> simp [ht]
  unfold boundary
  simp only [countDecided_of_undecided hu, hd, hf]
  rw [if_neg Bool.false_ne_true, if_neg htimer, if_neg Bool.false_ne_true]

/-! ## The core that a withdrawn instruction leaves -/

/-- What a withdrawn instruction may change of its core: the places that it took (R179, R273, R348). -/
def Withdrawn (k k' : Core) : Prop :=
  ∃ cmds mutexq cwait join reply, k' = { k with cmds := cmds, mutexq := mutexq, cwait := cwait, join := join, reply := reply }

theorem Withdrawn.refl (k : Core) : Withdrawn k k := ⟨_, _, _, _, _, rfl⟩

theorem Withdrawn.trans {k k' k'' : Core} (h : Withdrawn k k') (g : Withdrawn k' k'') : Withdrawn k k'' := by
  obtain ⟨_, _, _, _, _, rfl⟩ := h
  obtain ⟨_, _, _, _, _, rfl⟩ := g
  exact ⟨_, _, _, _, _, rfl⟩

theorem withdrawn_dropUnjoined (s : State) (n : Nat) : Withdrawn (coreAt s n) (coreAt (dropUnjoined s n) n) := by
  unfold dropUnjoined
  split
  next e he =>
    have h (t : State) : coreAt (releaseLocks t e.2.ctx n e.2.seq) n = coreAt t n := coreAt_updCtx ..
    rw [h, coreAt_updCore]
    exact ⟨_, _, _, _, _, rfl⟩
  next => exact .refl _

/-- A core that is no waiter of any mutex. -/
def withoutWaiter (n : Nat) (k : Core) : Core :=
  if k.mutexq.any (fun q => q.2 == n) then { k with mutexq := k.mutexq.filter (fun q => q.2 != n) } else k

theorem leaveMutexes_cores (s : State) (n : Nat) : (leaveMutexes s n).cores = s.cores.map (fun e => (e.1, withoutWaiter n e.2)) :=
  List.map_congr_left fun e _ => by
    unfold withoutWaiter
    split <;> rfl

theorem withdrawn_withoutWaiter (n : Nat) (k : Core) : Withdrawn k (withoutWaiter n k) := by
  unfold withoutWaiter
  split
  · exact ⟨_, _, _, _, _, rfl⟩
  · exact .refl k

theorem withdrawn_leaveQueues (s : State) (n : Nat) : Withdrawn (coreAt s n) (coreAt (leaveQueues s n) n) := by
  unfold leaveQueues
  split
  · split
    · rw [coreAt, coreAt, tgetD, tgetD, leaveMutexes_cores, tget_map]
      cases tget s.cores n with
      | none => exact .refl _
      | some k => exact withdrawn_withoutWaiter n k
    · exact .refl _
  · exact .refl _

theorem withdrawn_withdraw (s : State) (n : Nat) : Withdrawn (coreAt s n) (coreAt (withdraw s n) n) := by
  have h : Withdrawn (coreAt s n) (coreAt (leaveQueues (dropUnjoined (dropSent s n) n) n) n) := by
    rw [← coreAt_dropSent s n n]
    exact (withdrawn_dropUnjoined _ n).trans (withdrawn_leaveQueues _ n)
  unfold withdraw
  dsimp only
  split
  · exact h
  · rw [coreAt_updCore]
    exact h.trans ⟨_, _, _, _, _, rfl⟩

/-- The core that enters its handler (R225), from the core that the withdrawn instruction leaves. -/
theorem coreAt_deliverInt {id : Word} {hp : Nat} {rest : List (Word × Nat)} (h : (coreAt s n).intr = (id, hp) :: rest) :
    ∃ k, Withdrawn (coreAt s n) k ∧ coreAt (deliverInt s n) n =
      { k with cr := { k.cr with iepc := k.pc, xid := id }, iact := true, wait := none, intr := rest
               pc := BitVec.ofNat 32 ((kernelOf s n).kcode + 2 * hp) } := by
  have hk := withdrawn_withdraw (dissolve s n) n
  rw [coreAt_dissolve] at hk
  refine ⟨_, hk, ?_⟩
  have hintr : (coreAt (withdraw (dissolve s n) n) n).intr = (id, hp) :: rest := by
    obtain ⟨_, _, _, _, _, hk⟩ := hk
    rw [hk]
    exact h
  unfold deliverInt
  dsimp only
  rw [coreAt_updCore]
  simp only [hintr]

/-! ## The steps -/

theorem handlerEntry_none (h : (coreAt s n).trap = none) : handlerEntry s n = s := by simp only [handlerEntry, h]

theorem handlerEntry_some {r : TrapReq} (h : (coreAt s n).trap = some r) : handlerEntry s n = takeTrap s n r := by
  simp only [handlerEntry, h]

/-- The conditions of a delivery, together (R225). -/
theorem interruptDeliver_eq (hr : canRun s n = true) (hc : deliverable (coreAt s n) = true) (hu : Spec.undecided s n)
    (he : endsTask s n = false) (hw : detOf s n = false ∨ atWaitPoint s n = true ∧ handlerDue (coreAt s n) = false) :
    interruptDeliver s n = deliverInt s n := by
  unfold interruptDeliver
  refine if_pos ?_
  rw [hr, hc, countDecided_of_undecided hu, he]
  rcases hw with hw | ⟨hw, hd⟩
  · simp [hw]
  · simp [hw, hd]

theorem interruptDeliver_still (h : deliverable (coreAt s n) = false ∨ endsTask s n = true) : interruptDeliver s n = s := by
  unfold interruptDeliver
  refine if_neg ?_
  rcases h with h | h <;> simp [h]

theorem timerDeliver_due (hr : canRun s n = true) (hu : Spec.undecided s n) (hd : (coreAt s n).timerDue = true)
    (hp : (coreAt s n).priv = false) : timerDeliver s n =
      takeTrap (updCore s n (fun k => { k with timerDue := false })) n { cause := .timer, info := 0#32, async := true } := by
  unfold timerDeliver
  refine if_pos ?_
  rw [hr, hd, hp, countDecided_of_undecided hu]
  rfl

theorem timerDeliver_still (h : (coreAt s n).timerDue = false ∨ (coreAt s n).priv = true) : timerDeliver s n = s := by
  unfold timerDeliver
  refine if_neg ?_
  rcases h with h | h <;> simp [h]

end

/-- A fetch outside the code traps (R73, R346). -/
theorem runFetched_outside {run : Instr → State → Out} {s : State} {n : Nat} (hr : canRun { s with cur := n } n = true)
    (hf : fetchWord { s with cur := n } n = none) :
    runFetched run s n = .next (takeTrap { s with cur := n } n { cause := .ill, info := 0xFFFFFFFF#32 }) := by
  simp only [runFetched, hr, hf, Bool.true_eq_false, if_false]

/-- A word that is no instruction traps (R79). -/
theorem runFetched_noInstr {run : Instr → State → Out} {s : State} {n : Nat} {w : Word} (hr : canRun { s with cur := n } n = true)
    (hf : fetchWord { s with cur := n } n = some w) (hd : ∀ i, decodeWord w ≠ .instr i) :
    runFetched run s n = .next (takeTrap { s with cur := n } n (decodeTrap w (decodeWord w))) := by
  simp only [runFetched, hr, hf, Bool.true_eq_false, if_false]

theorem exec_decodeTrap {s t : State} (h : runFetched (fun _ t => .next t) s s.input.who = .next t) :
    exec .decodeTrap s = .next { t with cur := s.cur } := congrArg (keepCur s.cur) h

/-- The cause and detail of a word that is no instruction (R79). -/
theorem decodeTrap_ill {w : Word} {d : Decoded} (hz : d ≠ .zero) (hp : d ≠ .pool) : decodeTrap w d = { cause := .ill, info := w } := by
  cases d with
  | zero => exact absurd rfl hz
  | pool => exact absurd rfl hp
  | instr | ill => rfl

theorem boundaryDeliveries : Spec.Boundaries := by
  intro s n c s0
  refine ⟨fun hr => ⟨fun hf => ?_, fun w hf hd => ?_, fun w i hf hd => ?_⟩, fun h => ?_, fun r h => ?_, fun hr hu hd hp => ?_, fun h => ?_,
    fun id hp rest hr hu he hw hp hi hintr => ?_, fun h => ?_, fun f ha hcur hn ht htrap hr hu hdue hd hf => ?_⟩
  -- DECODE_TRAP
  · exact exec_decodeTrap (runFetched_outside hr hf)
  · exact ⟨decodeTrap w (decodeWord w), exec_decodeTrap (runFetched_noInstr hr hf hd), fun h => by rw [h]; rfl, fun h => by rw [h]; rfl,
      decodeTrap_ill⟩
  · exact exec_decodeTrap (t := s0) (runFetched_instr hr hf hd)
  -- HANDLER_ENTRY
  · exact congrArg Host.Outcome.next (handlerEntry_none h)
  · exact congrArg Host.Outcome.next (handlerEntry_some h)
  -- TIMER
  · exact congrArg Host.Outcome.next (timerDeliver_due hr hu hd hp)
  · exact congrArg Host.Outcome.next (timerDeliver_still h)
  -- USER_INTERRUPT_DELIVERY
  · have hends : endsTask s n = false := Bool.eq_false_iff.2 fun h => by
      obtain ⟨w, hf, h⟩ := endsTask_iff.1 h
      exact h.elim (he w hf).1 (he w hf).2
    have hpoint : detOf s n = false ∨ atWaitPoint s n = true ∧ handlerDue (coreAt s n) = false :=
      hw.imp_right fun ⟨⟨w, i, hf, hd, hw⟩, hcmds⟩ => ⟨atWaitPoint_of hf hd hw, handlerDue_eq_false hcmds⟩
    have hc : deliverable (coreAt s n) = true := by
      unfold deliverable
      rw [hp, hi, hintr]
      rfl
    obtain ⟨_, ⟨_, _, _, _, _, rfl⟩, he⟩ := coreAt_deliverInt hintr
    refine ⟨deliverInt s n, congrArg Host.Outcome.next (interruptDeliver_eq hr hc hu hends hpoint), ?_⟩
    rw [he]
    exact ⟨rfl, rfl, rfl, rfl, rfl, fun _ => rfl, fun _ => rfl, fun _ => rfl⟩
  · refine congrArg Host.Outcome.next (interruptDeliver_still ?_)
    rw [endsTask_iff]
    rcases h with h | h | h | h
    · exact .inl (by unfold deliverable; rw [h]; simp)
    · exact .inl (by unfold deliverable; rw [h]; simp)
    · exact .inl (by unfold deliverable; rw [h]; rfl)
    · exact .inr h
  -- ENGINE
  · rw [step_core ha hcur hn]
    exact coreMove_boundary hcur hr (boundary_engineFault hu hdue hd hf)

/-! ## Watchdog and clock gate (R128, R308) -/

theorem overBudget_of {s : State} {n : Nat} {w : Waiting} {ks : List WaitKind} {budget : Core → Word} (hw : (coreAt s n).wait = some w)
    (hk : w.kind ∈ ks) (hb : (budget (coreAt s n)).toNat ≤ w.cycles) : overBudget s n ks budget = true := by
  simp [overBudget, hw, hk, hb]

theorem overBudget_eq_false {s : State} {n : Nat} {ks : List WaitKind} {budget : Core → Word}
    (h : ∀ w, (coreAt s n).wait = some w → w.kind ∉ ks ∨ w.cycles < (budget (coreAt s n)).toNat) : overBudget s n ks budget = false := by
  unfold overBudget
  split
  next w hw => rcases h w hw with h | h <;> simp [h]
  next => rfl

theorem gatedWait_iff (k : WaitKind) : gatedWait k = true ↔ k ∈ Spec.gatedKinds := by
  cases k <;> decide

section
variable {s : State} {n : Nat}

theorem watchdog_late {w : Waiting} {i : Nat} {t : Task} {x : Ctx} {u : Run} (hw : (coreAt s n).wait = some w)
    (henv : taskEnv s n = some (t, x, u)) (hr : canRun s n = true) (hk : w.kind = .quiet) (hb : (coreAt s n).cr.qwd.toNat ≤ w.cycles)
    (hi : quietRecord s n = some i) (hlive : liveState (recState s t.ctx x i) = true) :
    watchdog s n = takeTrap s n { cause := .watchdog, info := word i } := by
  have hover : overBudget s n [.quiet] (fun c => c.cr.qwd) = true := overBudget_of hw (by simp [hk]) hb
  simp only [watchdog, hover, hr, hi, henv, hlive, Bool.and_self, if_true]

theorem watchdog_still (h : ∀ w, (coreAt s n).wait = some w → w.kind ≠ .quiet ∨ w.cycles < (coreAt s n).cr.qwd.toNat) :
    watchdog s n = s := by
  have hover : overBudget s n [.quiet] (fun c => c.cr.qwd) = false :=
    overBudget_eq_false fun w hw => (h w hw).imp_left fun hk => by simpa using hk
  rw [watchdog, hover]
  rfl

/-- The clock gate concerns the wait of its core alone. -/
theorem coreAt_clockGate (s : State) (n : Nat) : ∃ w, coreAt (clockGate s n) n = { coreAt s n with wait := w } :=
  ⟨_, coreAt_updCore ..⟩

/-- A wait of R308 that has lasted 16 cycles has its clock stopped. -/
theorem clockGate_wait {w : Waiting} (hw : (coreAt s n).wait = some w) :
    (coreAt (clockGate s n) n).wait = some (if w.kind ∈ Spec.gatedKinds ∧ 16 ≤ w.cycles then { w with gated := true } else w) := by
  rw [clockGate, coreAt_updCore]
  simp only [hw, Option.map_some, gatedWait_iff]

end

theorem quietWatchdog : Spec.QuietWatchdog := by
  intro s n
  refine ⟨fun w i t x u hw henv hr hk hb hi hlive => congrArg Host.Outcome.next (watchdog_late hw henv hr hk hb hi hlive),
    fun h => congrArg Host.Outcome.next (watchdog_still h), clockGate s n, rfl, fun m hm => coreAt_updCore_other _ _ hm, ?_⟩
  obtain ⟨w, hcore⟩ := coreAt_clockGate s n
  refine ⟨?_, ?_, ?_, sameMemory_rfl s, fun w hw => clockGate_wait hw⟩
  · rw [hcore]
    exact ⟨fun _ => rfl, fun _ => rfl, fun _ => rfl⟩
  · rw [hcore]
  · rw [hcore]

/-- Settles O48: what each step of a boundary does (runFetched_outside, runFetched_noInstr, timerDeliver_due, interruptDeliver_eq with coreAt_deliverInt,
boundary_engineFault), and the watchdog and the clock gate (quietWatchdog). -/
theorem boundaries : Obligations.Boundaries := ⟨boundaryDeliveries, quietWatchdog⟩

end Sys2Proof.Machine
end

section
/-! PROOF. The integer instructions, branches and jumps (O1, O2; R80, R95, R111 to R117). An instruction that issues does its own part in
the state in which it issues, where it still is the core that moves (me_of_issues); one lemma per form of that part, and then a row of the
statements' tables names the form of each instruction and the arithmetic of its result. -/

namespace Sys2Proof.Machine

/-! ## The own part of an instruction that issues -/

section
variable {i : Instr} {sh : Shape} {body : State → Body} {s s1 s2 : State} (hi : Issues i sh s s1)
include hi

theorem me_of_issues : me s1 = coreAt s1 s.cur := congrArg (coreAt s1) (go_cur hi)

theorem issue_moveOn (hb : body s1 = .ok s2) : issue i sh body s = .next (moveOn s1 s2 s.cur sh.len) := issue_ok hi hb

theorem issue_moveTo {pc : Word} (hb : body s1 = .jump s2 pc) : issue i sh body s = .next (moveTo s1 s2 s.cur pc) := issue_jump hi hb

theorem issue_faults {r : TrapReq} (hb : body s1 = .fault s2 r) : issue i sh body s = .next (takeTrap s2 s.cur r) := by
  rw [issue_go hi, hb]
  rfl

theorem issue_okCore {c : Core} (hb : body s1 = okCore s1 c) :
    issue i sh body s = .next (moveOn s1 (setCore s1 s.cur c) s.cur sh.len) :=
  issue_moveOn hi (by rw [hb, okCore, go_cur hi])

theorem issue_interlock {ws : List Write} (hb : body s1 = interlock s1 ws) :
    issue i sh body s = .next (moveOn s1 (pend s1 s.cur .interlocked 0#4 ws 0#5 []) s.cur sh.len) :=
  issue_moveOn hi (by rw [hb, interlock, go_cur hi])

/-- A result of the single class from two registers. -/
theorem issue_alu2 {f : Word → Word → Word} {d a b : Reg} {x : Word}
    (hx : f (rdS (coreAt s1 s.cur) a.toNat) (rdS (coreAt s1 s.cur) b.toNat) = x) :
    issue i sh (alu2 f d a b) s = .next (moveOn s1 (setCore s1 s.cur (wrS (coreAt s1 s.cur) d.toNat x)) s.cur sh.len) :=
  issue_okCore hi (by rw [← hx, ← me_of_issues hi]; rfl)

/-- A result of the single class from one register. -/
theorem issue_alu1 {f : Word → Word} {d a : Reg} {x : Word} (hx : f (rdS (coreAt s1 s.cur) a.toNat) = x) :
    issue i sh (alu1 f d a) s = .next (moveOn s1 (setCore s1 s.cur (wrS (coreAt s1 s.cur) d.toNat x)) s.cur sh.len) :=
  issue_okCore hi (by rw [← hx, ← me_of_issues hi]; rfl)

/-- An interlocked result from two registers (R95). -/
theorem issue_alu2i {f : Word → Word → Word} {d a b : Reg} {x : Word}
    (hx : f (rdS (coreAt s1 s.cur) a.toNat) (rdS (coreAt s1 s.cur) b.toNat) = x) :
    issue i sh (alu2i f d a b) s =
      .next (moveOn s1 (pend s1 s.cur .interlocked 0#4 [sres (coreAt s1 s.cur) d x] 0#5 []) s.cur sh.len) :=
  issue_interlock hi (by rw [← hx, ← me_of_issues hi]; rfl)

/-- A conditional branch whose comparison is decided by taken (R115). -/
theorem issue_branch {n : Nat} {t : Word → Word → Bool} {a b : Reg} {off : BitVec n} {taken : Bool}
    (ht : t (rdS (coreAt s1 s.cur) a.toNat) (rdS (coreAt s1 s.cur) b.toNat) = taken) :
    issue i sh (branch t a b off) s =
      .next (if taken then moveTo s1 s1 s.cur ((coreAt s1 s.cur).pc + sext off * 2#32) else moveOn s1 s1 s.cur sh.len) := by
  cases taken with
  | true => exact issue_moveTo hi (by rw [branch, me_of_issues hi, ht]; rfl)
  | false => exact issue_moveOn hi (by rw [branch, me_of_issues hi, ht]; rfl)

theorem issue_jumpCore {c : Core} {pc : Word} (hb : body s1 = .jump (setCore s1 s1.cur c) pc) :
    issue i sh body s = .next (moveTo s1 (setCore s1 s.cur c) s.cur pc) :=
  issue_moveTo hi (by rw [hb, go_cur hi])

/-- A jump links before it goes on, to a target taken from the core as it was (R116, R117). -/
theorem issue_link {len : Nat} {d : Reg} {pc : Word} (hl : sh.len = len)
    (hb : body s1 = .jump (setCore s1 s1.cur (wrS (me s1) d.toNat (nextPc (me s1) len))) pc) :
    issue i sh body s = .next (moveTo s1
      (setCore s1 s.cur (wrS (coreAt s1 s.cur) d.toNat ((coreAt s1 s.cur).pc + BitVec.ofNat 32 sh.len))) s.cur pc) :=
  issue_jumpCore hi (by rw [hb, ← me_of_issues hi, hl]; rfl)

end

/-! ## The rows -/

/-- An immediate above twelve zeros (R114). -/
theorem append_zeros (k : BitVec 20) : k ++ 0#12 = BitVec.ofNat 32 (k.toNat * 4096) := by
  apply BitVec.eq_of_toNat_eq
  have hk : k.toNat * 4096 < 2 ^ 32 := by omega
  calc (k ++ 0#12).toNat = k.toNat <<< 12 ||| 0 := BitVec.toNat_append ..
    _ = k.toNat * 4096 := (Nat.or_zero _).trans (Nat.shiftLeft_eq _ _)
    _ = (BitVec.ofNat 32 (k.toNat * 4096)).toNat := (Nat.mod_eq_of_lt hk).symm

theorem scalarResults : Spec.ScalarResults := by
  intro i s s1 sh d x hrow hi
  cases i
  case add | sub | and | or | xor | andn | cAdd | cSub | cAnd | cOr | cXor => cases hrow; exact issue_alu2 hi rfl
  case cMv => cases hrow; exact issue_alu2 hi (BitVec.add_zero _)
  case sll => cases hrow; exact issue_alu2 hi (aSll_eq _ _)
  case srl => cases hrow; exact issue_alu2 hi (aSrl_eq _ _)
  case sra => cases hrow; exact issue_alu2 hi (aSra_eq _ _)
  case slt | cSlt => cases hrow; exact issue_alu2 hi (aSlt_eq _ _)
  case sltu => cases hrow; exact issue_alu2 hi (aSltu_eq _ _)
  case min => cases hrow; exact issue_alu2 hi (aMin_eq _ _)
  case max => cases hrow; exact issue_alu2 hi (aMax_eq _ _)
  case minu => cases hrow; exact issue_alu2 hi (aMinu_eq _ _)
  case maxu => cases hrow; exact issue_alu2 hi (aMaxu_eq _ _)
  case clz => cases hrow; exact issue_alu1 hi (aClz_eq _)
  case ctz => cases hrow; exact issue_alu1 hi (aCtz_eq _)
  case popc => cases hrow; exact issue_alu1 hi (aPopc_eq _)
  case brev | addi | andi | ori | xori | cAddi => cases hrow; exact issue_alu1 hi rfl
  case cLi => cases hrow; exact issue_alu1 hi (BitVec.zero_add _)
  case slti => cases hrow; exact issue_alu1 hi (by rw [aSlt_eq, sext, BitVec.toInt_signExtend_of_le (by decide)])
  case sltiu => cases hrow; exact issue_alu1 hi (aSltu_eq _ _)
  case slli | cSlli => cases hrow; exact issue_alu1 hi (shiftLeft_eq _ _)
  case srli | cSrli => cases hrow; exact issue_alu1 hi (shiftRight_eq _ _)
  case srai | cSrai => cases hrow; exact issue_alu1 hi (sshiftRight_eq _ _)
  case lui => cases hrow; exact issue_okCore hi (by rw [me_of_issues hi, append_zeros])
  all_goals cases hrow

theorem mulDivResults : Spec.MulDivResults := by
  intro i s s1 sh d x hrow hi
  cases i
  case div => cases hrow; exact issue_alu2i hi (aDiv_eq _ _)
  case rem => cases hrow; exact issue_alu2i hi (aRem_eq _ _)
  case mul | mulh | mulhu | divu | remu => cases hrow; exact issue_alu2i hi rfl
  all_goals cases hrow

theorem branches : Spec.Branches := by
  intro i s s1 sh off taken hrow hi
  cases i
  case beq | bne | cBeqz | cBnez => cases hrow; exact issue_branch hi rfl
  case blt => cases hrow; exact issue_branch hi BitVec.slt_eq_decide
  case bge => cases hrow; exact issue_branch hi (BitVec.sle_eq_not_slt.symm.trans BitVec.sle_eq_decide)
  case bltu => cases hrow; exact issue_branch hi BitVec.ult_eq_decide
  case bgeu => cases hrow; exact issue_branch hi ((BitVec.ule_eq_not_ult _ _).symm.trans BitVec.ule_eq_decide)
  all_goals cases hrow

/-- c.jr is jalr with the immediate 0 (R80). -/
theorem jalrTarget_zero (x : Word) : jalrTarget x 0#15 = x &&& 0xFFFFFFFE#32 := congrArg (· &&& _) (BitVec.add_zero x)

theorem jumps : Spec.Jumps := by
  intro i s s1 sh d pc hrow hi
  cases i
  case jal => cases hrow; exact issue_link hi rfl (by rw [← me_of_issues hi]; rfl)
  case jalr => cases hrow; exact issue_link hi rfl (by rw [← me_of_issues hi]; rfl)
  case cJr => cases hrow; exact issue_link hi rfl (by rw [← me_of_issues hi, ← jalrTarget_zero]; rfl)
  all_goals cases hrow

/-- Settles O1: each row names the form of its instruction (issue_alu2, issue_alu1, issue_alu2i) and the arithmetic of its result. -/
theorem integerInstructions : Obligations.IntegerInstructions := ⟨scalarResults, mulDivResults⟩

/-- Settles O2: a branch by its comparison (issue_branch), and a jump by its target and link (issue_link). -/
theorem controlTransfers : Obligations.ControlTransfers := ⟨branches, jumps⟩

end Sys2Proof.Machine
end

section
/-! PROOF. The frames of issue and the entry of a trap (O59, O5; R63, R94 to R104, R345 to R350). What the completion of results may
change of its core is said once (Written, Completed), and so is what the take of a trap may change of the machine (Trapped). -/

namespace Sys2Proof.Machine

/-! ## What results change of their core (R95, R96, R188) -/

/-- What the writes of results may change of their core. -/
def Written (k k' : Core) : Prop :=
  ∃ s bank v opbuf p acc accPoison slots tags, k' = { k with
    s := s, bank := bank, v := v, opbuf := opbuf, p := p, acc := acc, accPoison := accPoison, slots := slots, tags := tags }

theorem Written.refl (k : Core) : Written k k := ⟨_, _, _, _, _, _, _, _, _, rfl⟩

theorem Written.trans {k k' k'' : Core} (h : Written k k') (g : Written k' k'') : Written k k'' := by
  obtain ⟨_, _, _, _, _, _, _, _, _, rfl⟩ := h
  obtain ⟨_, _, _, _, _, _, _, _, _, rfl⟩ := g
  exact ⟨_, _, _, _, _, _, _, _, _, rfl⟩

theorem written_putS (k : Core) (r : Nat) (x : Word) (bank : Bool) : Written k (putS k r x bank) := by
  unfold putS
  split
  · exact .refl k
  · split <;> exact ⟨_, _, _, _, _, _, _, _, _, rfl⟩

theorem written_wrP (k : Core) (r : Nat) (x : Word) : Written k (wrP k r x) := by
  unfold wrP
  split
  · exact .refl k
  · exact ⟨_, _, _, _, _, _, _, _, _, rfl⟩

theorem written_applyWrite (k : Core) (w : Write) : Written k (applyWrite k w) := by
  cases w with
  | s r x bank => exact written_putS k r x bank
  | p r x => exact written_wrP k r x
  | v | acc | slot => exact ⟨_, _, _, _, _, _, _, _, _, rfl⟩

theorem written_foldl (ws : List Write) (k : Core) : Written k (ws.foldl applyWrite k) := by
  induction ws generalizing k with
  | nil => exact .refl k
  | cons w ws ih => exact (written_applyWrite k w).trans (ih _)

/-- What the completion of pending instructions may change of its core. -/
def Completed (k k' : Core) : Prop :=
  ∃ s bank v opbuf p acc accPoison slots tags fflg counters inflight, k' = { k with
    s := s, bank := bank, v := v, opbuf := opbuf, p := p, acc := acc, accPoison := accPoison, slots := slots, tags := tags
    cr := { k.cr with fflg := fflg }, counters := counters, inflight := inflight }

theorem Completed.trans {k k' k'' : Core} (h : Completed k k') (g : Completed k' k'') : Completed k k'' := by
  obtain ⟨_, _, _, _, _, _, _, _, _, _, _, _, rfl⟩ := h
  obtain ⟨_, _, _, _, _, _, _, _, _, _, _, _, rfl⟩ := g
  exact ⟨_, _, _, _, _, _, _, _, _, _, _, _, rfl⟩

/-- Which instructions are still in flight is part of what changes. -/
theorem completed_inflight (k : Core) (l : List Pending) : Completed k { k with inflight := l } :=
  ⟨_, _, _, _, _, _, _, _, _, _, _, _, rfl⟩

theorem Completed.refl (k : Core) : Completed k k := completed_inflight k k.inflight

theorem completed_finish (k : Core) (p : Pending) : Completed k (finish k p) := by
  obtain ⟨_, _, _, _, _, _, _, _, _, h⟩ := written_foldl p.writes k
  unfold finish
  rw [h]
  exact ⟨_, _, _, _, _, _, _, _, _, _, _, _, rfl⟩

theorem completed_foldl (l : List Pending) (k : Core) : Completed k (l.foldl finish k) := by
  induction l generalizing k with
  | nil => exact .refl k
  | cons p l ih => exact (completed_finish k p).trans (ih _)

theorem completed_completeIf (f : Pending → Bool) (k : Core) : Completed k (completeIf f k) :=
  (completed_foldl _ k).trans (completed_inflight _ _)

theorem completed_completeNeeded (sh : Shape) (k : Core) : Completed k (completeNeeded sh k) :=
  ((completed_foldl _ k).trans (completed_inflight _ _)).trans (completed_completeIf _ _)

theorem completed_prune (k : Core) : Completed k (prune k) := completed_inflight k _

/-! ## The frames of issue (R94 to R97) -/

/-- An instruction that has issued. -/
theorem moveOn_frame (s1 s2 : State) (n len : Nat) : let t := moveOn s1 s2 n len
    (coreAt t n).pc = (coreAt s1 n).pc + BitVec.ofNat 32 len ∧
    (coreAt t n).count = (coreAt s2 n).count + (if (coreAt s1 n).priv then 0 else 1) ∧ SameRegs (coreAt s2 n) (coreAt t n) ∧
    (coreAt t n).cr = (coreAt s2 n).cr ∧ (coreAt t n).acc = (coreAt s2 n).acc ∧ (coreAt t n).slots = (coreAt s2 n).slots ∧
    (∀ m, m ≠ n → coreAt t m = coreAt s2 m) ∧ t = { s2 with cores := t.cores } := by
  refine ⟨coreAt_retire_pc .., ?_, ⟨rdS_retire _ _ _ _ _ _, rdV_retire _ _ _ _ _ _, rdP_retire _ _ _ _ _ _⟩, coreAt_retire_cr ..,
    coreAt_retire_acc .., coreAt_retire_slots .., fun m hm => coreAt_retire_other _ _ _ _ _ hm, rfl⟩
  rw [moveOn, coreAt_retire_count]
  cases (coreAt s1 n).priv <;> rfl

/-- A result that becomes pending. -/
theorem pend_frame (s : State) (n : Nat) (k : PKind) (l : BitVec 4) (ws : List Write) (f : BitVec 5) (co : List (Nat × Nat)) :
    let t := pend s n k l ws f co
    SameRegs (coreAt s n) (coreAt t n) ∧ (coreAt t n).cr = (coreAt s n).cr ∧ (∀ m, m ≠ n → coreAt t m = coreAt s m) ∧
    t = { s with cores := t.cores } ∧ ∃ p : Pending, (coreAt t n).inflight = (coreAt s n).inflight ++ [p] ∧ p.kind = k ∧ p.writes = ws ∧
      p.look = l.toNat ∧ p.dist = 0 ∧ p.done = false ∧ p.regs = regsOf ws := by
  have hcore : ∃ p : Pending, coreAt (pend s n k l ws f co) n = { coreAt s n with inflight := (coreAt s n).inflight ++ [p] } ∧
      p.kind = k ∧ p.writes = ws ∧ p.look = l.toNat ∧ p.dist = 0 ∧ p.done = false ∧ p.regs = regsOf ws :=
    ⟨_, coreAt_updCore .., rfl, rfl, rfl, rfl, rfl, rfl⟩
  obtain ⟨p, hc, hp⟩ := hcore
  intro t
  have hc : coreAt t n = _ := hc
  rw [hc]
  exact ⟨⟨fun _ => rfl, fun _ => rfl, fun _ => rfl⟩, rfl, fun m hm => coreAt_updCore_other _ _ hm, rfl, p, rfl, hp⟩

/-- The results that are written before an instruction's own part. -/
theorem settled_frame {i : Instr} {sh : Shape} {s s1 : State} (hi : Issues i sh s s1) : s1 = Spec.settled sh s s.cur ∧ SameMemory s s1 ∧
    s1.ctxs = s.ctxs ∧ (coreAt s1 s.cur).pc = (coreAt s s.cur).pc ∧ (coreAt s1 s.cur).priv = (coreAt s s.cur).priv ∧
    ∀ m, m ≠ s.cur → coreAt s1 m = coreAt s m := by
  obtain rfl : s1 = Spec.settled sh s s.cur := go_state hi
  have hk : Completed (coreAt s s.cur) (coreAt (Spec.settled sh s s.cur) s.cur) := by
    rw [Spec.settled, coreAt_updCore]
    exact completed_completeNeeded _ _
  obtain ⟨_, _, _, _, _, _, _, _, _, _, _, _, hk⟩ := hk
  exact ⟨rfl, sameMemory_rfl s, rfl, by rw [hk], by rw [hk], fun m hm => coreAt_updCore_other _ _ hm⟩

/-! ## What a trap changes of the machine (R98, R345 to R350) -/

/-- What the take of a trap may change of the machine; no memory is among it. -/
def Trapped (s t : State) : Prop :=
  ∃ cores clusters ctxs counting packets,
    t = { s with cores := cores, clusters := clusters, ctxs := ctxs, counting := counting, packets := packets }

section
variable {s t u : State}

theorem Trapped.refl (s : State) : Trapped s s := ⟨_, _, _, _, _, rfl⟩

theorem Trapped.trans (h : Trapped s t) (g : Trapped t u) : Trapped s u := by
  obtain ⟨_, _, _, _, _, rfl⟩ := h
  obtain ⟨_, _, _, _, _, rfl⟩ := g
  exact ⟨_, _, _, _, _, rfl⟩

theorem Trapped.sameMemory (h : Trapped s t) : SameMemory s t := by
  obtain ⟨_, _, _, _, _, rfl⟩ := h
  exact sameMemory_rfl s

theorem trapped_setCore (s : State) (n : Nat) (k : Core) : Trapped s (setCore s n k) := ⟨_, _, _, _, _, rfl⟩

theorem trapped_updCore (s : State) (n : Nat) (f : Core → Core) : Trapped s (updCore s n f) := trapped_setCore s n _

theorem trapped_updCtx (s : State) (c : Nat) (f : Ctx → Ctx) : Trapped s (updCtx s c f) := by
  unfold updCtx
  split <;> exact ⟨_, _, _, _, _, rfl⟩

theorem trapped_dissolve (s : State) (n : Nat) : Trapped s (dissolve s n) := by
  unfold dissolve
  split <;> exact ⟨_, _, _, _, _, rfl⟩

theorem trapped_dropSent (s : State) (n : Nat) : Trapped s (dropSent s n) := by
  unfold dropSent
  split <;> exact ⟨_, _, _, _, _, rfl⟩

theorem trapped_dropUnjoined (s : State) (n : Nat) : Trapped s (dropUnjoined s n) := by
  unfold dropUnjoined
  split
  · have hlocks (t : State) (m : Table Cluster) : Trapped t { t with clusters := m } := ⟨_, _, _, _, _, rfl⟩
    exact (trapped_updCore s n _).trans ((hlocks _ _).trans (trapped_updCtx _ _ _))
  · exact .refl s

theorem trapped_leaveQueues (s : State) (n : Nat) : Trapped s (leaveQueues s n) := by
  unfold leaveQueues
  split
  · split
    · exact ⟨_, _, _, _, _, rfl⟩
    · exact .refl s
  · exact .refl s

theorem trapped_withdraw (s : State) (n : Nat) : Trapped s (withdraw s n) := by
  have h : Trapped s (leaveQueues (dropUnjoined (dropSent s n) n) n) :=
    ((trapped_dropSent s n).trans (trapped_dropUnjoined _ n)).trans (trapped_leaveQueues _ n)
  unfold withdraw
  dsimp only
  split <;> exact h.trans ⟨_, _, _, _, _, rfl⟩

theorem trapped_addShadow (s : State) (n : Nat) : Trapped s (addShadow s n) := by
  unfold addShadow
  split
  · exact .refl s
  · exact (trapped_setCore s n _).trans (trapped_updCtx _ _ _)

theorem trapped_fatalStop (s : State) (n : Nat) (f : Fatal) : Trapped s (fatalStop s n f) := by
  unfold fatalStop
  split
  · exact .refl s
  · exact (((trapped_addShadow s n).trans (trapped_updCtx _ _ _)).trans (trapped_dissolve _ n)).trans (trapped_updCore _ n _)

theorem trapped_enterTrap (s : State) (n : Nat) (r : TrapReq) : Trapped s (enterTrap s n r) := by
  unfold enterTrap
  split
  · exact trapped_updCore s n _
  · dsimp only
    split
    · exact trapped_updCore s n _
    · split
      · exact (trapped_updCore s n _).trans (trapped_fatalStop _ n _)
      · exact trapped_updCore s n _

theorem trapped_takeTrap (s : State) (n : Nat) (r : TrapReq) : Trapped s (takeTrap s n r) := by
  have h : Trapped s (updCore (withdraw (dissolve s n) n) n (completeIf forcible)) :=
    ((trapped_dissolve s n).trans (trapped_withdraw _ n)).trans (trapped_updCore _ n _)
  unfold takeTrap
  dsimp only
  split
  · exact h.trans (trapped_updCore _ n _)
  · exact h.trans ((trapped_updCore _ n _).trans (trapped_enterTrap _ n r))

end

/-! ## The other cores at a trap -/

section
variable {s : State} {n m : Nat}

theorem coreAt_dropUnjoined_other (s : State) (h : m ≠ n) : coreAt (dropUnjoined s n) m = coreAt s m := by
  unfold dropUnjoined
  split
  · have hlocks (t : State) (c k : Nat) : coreAt (releaseLocks t c n k) m = coreAt t m := coreAt_updCtx ..
    rw [hlocks, coreAt_updCore_other _ _ h]
  · rfl

/-- What a core that gives up its place leaves of any core: it is no waiter of that one's mutexes (R310). -/
theorem withdrawn_leaveQueues_at (s : State) (n m : Nat) : Withdrawn (coreAt s m) (coreAt (leaveQueues s n) m) := by
  unfold leaveQueues
  split
  · split
    · rw [coreAt, coreAt, tgetD, tgetD, leaveMutexes_cores, tget_map]
      cases tget s.cores m with
      | none => exact .refl _
      | some k => exact withdrawn_withoutWaiter n k
    · exact .refl _
  · exact .refl _

theorem withdrawn_withdraw_other (s : State) (h : m ≠ n) : Withdrawn (coreAt s m) (coreAt (withdraw s n) m) := by
  have hq : Withdrawn (coreAt s m) (coreAt (leaveQueues (dropUnjoined (dropSent s n) n) n) m) := by
    rw [← coreAt_dropSent s n m, ← coreAt_dropUnjoined_other _ h]
    exact withdrawn_leaveQueues_at _ n m
  unfold withdraw
  dsimp only
  split
  · exact hq
  · rw [coreAt_updCore_other _ _ h]
    exact hq

theorem coreAt_updRun (s : State) (c r : Nat) (f : Run → Run) (m : Nat) : coreAt (updRun s c r f) m = coreAt s m := coreAt_updCtx ..

theorem coreAt_fatalStop_other (s : State) (f : Fatal) (h : m ≠ n) : coreAt (fatalStop s n f) m = coreAt s m := by
  unfold fatalStop
  split
  · rfl
  · dsimp only
    rw [coreAt_updCore_other _ _ h, coreAt_dissolve, coreAt_updRun]
    unfold addShadow
    split
    · rfl
    · dsimp only
      rw [coreAt_updRun, coreAt_setCore_other _ _ h]

theorem coreAt_enterTrap_other (s : State) (r : TrapReq) (h : m ≠ n) : coreAt (enterTrap s n r) m = coreAt s m := by
  unfold enterTrap
  split
  · exact coreAt_updCore_other _ _ h
  · dsimp only
    split
    · exact coreAt_updCore_other _ _ h
    · split
      · exact (coreAt_fatalStop_other _ _ h).trans (coreAt_updCore_other _ _ h)
      · exact coreAt_updCore_other _ _ h

/-- Of another core a trap may take its places in the queues of mutexes only. -/
theorem withdrawn_takeTrap_other (s : State) (r : TrapReq) (h : m ≠ n) : Withdrawn (coreAt s m) (coreAt (takeTrap s n r) m) := by
  rw [← coreAt_dissolve s n m]
  have hk := withdrawn_withdraw_other (dissolve s n) h
  unfold takeTrap
  dsimp only
  split
  · rw [coreAt_updCore_other _ _ h, coreAt_updCore_other _ _ h]
    exact hk
  · rw [coreAt_enterTrap_other _ _ h, coreAt_updCore_other _ _ h, coreAt_updCore_other _ _ h]
    exact hk

theorem Withdrawn.sameRegs {k k' : Core} (h : Withdrawn k k') : SameRegs k k' := by
  obtain ⟨_, _, _, _, _, rfl⟩ := h
  exact ⟨fun _ => rfl, fun _ => rfl, fun _ => rfl⟩

end

theorem issueFrames_spec : Spec.IssueFrames :=
  ⟨moveOn_frame, pend_frame, fun _ _ _ _ hi => settled_frame hi,
    fun s n r => ⟨(trapped_takeTrap s n r).sameMemory, fun _ hm => (withdrawn_takeTrap_other s r hm).sameRegs⟩⟩

/-! ## The register files (R101, R104, R346) -/

theorem rdV_wrV (c : Core) (r q : Nat) (x : VReg) (h : r < 32) : rdV (wrV c r x) q = if q = r then x else rdV c q := by
  split
  next hq => rw [hq, rdV_wrV_same c r x h]
  next hq => exact rdV_wrV_other c x hq

theorem rdP_wrP (c : Core) (r q : Nat) (x : Word) (h : r < 4) :
    rdP (wrP c r x) q = if q = r then (if r = 0 then 0xFFFFFFFF#32 else x) else rdP c q := by
  split
  next hq =>
    rw [hq]
    split
    next h0 => rw [h0, rdP_zero]
    next h0 => exact rdP_wrP_same c r x h0 h
  next hq => exact rdP_wrP_other c x hq

/-- At the privileged level the upper registers are the banked ones (R346). -/
theorem wrS_privileged {c : Core} {r : Nat} (x : Word) (hp : c.priv = true) (hr : 24 ≤ r) : (wrS c r x).s = c.s := by
  have hb : banked c r = true := by simp [banked, hp, hr]
  rw [wrS, hb, putS, if_neg (by omega), if_pos rfl]

theorem registerFiles : Spec.RegisterFiles :=
  ⟨rdS_wrS, rdV_wrV, rdP_wrP, fun _ _ x hp hr => wrS_privileged x hp hr,
    fun c r x => ⟨wrS_v c r x, wrS_p c r x, wrS_cr c r x, wrS_pc c r x⟩, fun _ _ _ => ⟨rfl, rfl, rfl, rfl⟩,
    fun c r x => ⟨wrP_s c r x, wrP_v c r x, wrP_cr c r x, wrP_bank c r x⟩⟩

/-- Settles O59: the frames of an instruction that has issued (moveOn_frame, pend_frame, settled_frame) and of a trap
(trapped_takeTrap, withdrawn_takeTrap_other), and the register files (registerFiles). -/
theorem issueFrames : Obligations.IssueFrames := ⟨issueFrames_spec, registerFiles⟩

/-! ## The core at the entry of a trap (R98) -/

section
variable {s : State} {n : Nat} {r : TrapReq} {t : Task} {x : Ctx} {u : Run}

/-- The state in which a trap finds its core: the instruction is withdrawn, and what the core can complete by itself is written. -/
def completing (s : State) (n : Nat) : State := updCore (withdraw (dissolve s n) n) n (completeIf forcible)

/-- The state at the entry itself: the handler's instructions are no followers of what has completed (log 49). -/
def atEntry (s : State) (n : Nat) : State := updCore (completing s n) n prune

/-- What the core keeps until the trap enters. -/
structure EntryKept (k k' : Core) : Prop where
  pc    : k'.pc = k.pc
  priv  : k'.priv = k.priv
  task  : k'.task = k.task
  count : k'.count = k.count
  trap  : k'.trap = k.trap
  epc   : k'.cr.epc = k.cr.epc
  quant : k'.cr.quant = k.cr.quant

theorem Withdrawn.entryKept {k j k' : Core} (h : Withdrawn k j) (g : Completed j k') : EntryKept k k' := by
  obtain ⟨_, _, _, _, _, rfl⟩ := h
  obtain ⟨_, _, _, _, _, _, _, _, _, _, _, _, rfl⟩ := g
  exact ⟨rfl, rfl, rfl, rfl, rfl, rfl, rfl⟩

theorem withdrawn_at_trap (s : State) (n : Nat) : Withdrawn (coreAt s n) (coreAt (withdraw (dissolve s n) n) n) := by
  have h := withdrawn_withdraw (dissolve s n) n
  rwa [coreAt_dissolve] at h

theorem entryKept_completing (s : State) (n : Nat) : EntryKept (coreAt s n) (coreAt (completing s n) n) := by
  rw [completing, coreAt_updCore]
  exact (withdrawn_at_trap s n).entryKept (completed_completeIf _ _)

theorem entryKept_atEntry (s : State) (n : Nat) : EntryKept (coreAt s n) (coreAt (atEntry s n) n) := by
  rw [atEntry, coreAt_updCore, completing, coreAt_updCore]
  exact (withdrawn_at_trap s n).entryKept ((completed_completeIf _ _).trans (completed_prune _))

/-- A result that the core cannot complete by itself is still to come. -/
theorem mem_completing {p : Pending} (hp : p ∈ (coreAt s n).inflight) (hf : forcible p = false) : p ∈ (coreAt (completing s n) n).inflight := by
  obtain ⟨_, _, _, _, _, hk⟩ := withdrawn_at_trap s n
  rw [completing, coreAt_updCore, hk]
  exact List.mem_map.2 ⟨p, hp, by rw [hf]; rfl⟩

/-- The core still stands in its task and its record. -/
theorem taskEnv_completing (h : taskEnv s n = some (t, x, u)) : ∃ y, taskEnv (completing s n) n = some (t, y, u) ∧
    y.pbase = x.pbase ∧ y.hmask = x.hmask ∧ y.debug = x.debug ∧ y.det = x.det := by
  rw [← taskEnv_dissolve] at h
  obtain ⟨htask, hctx, hrun⟩ := taskEnv_some h
  obtain ⟨y, hy, hruns, hkeeps⟩ := withdraw_ctx _ n _ x hctx
  refine ⟨y, taskEnv_of ?_ hy ?_, hkeeps⟩
  · rw [(entryKept_completing s n).task, ← htask, coreAt_dissolve]
  · rw [runAt, hruns]
    exact hrun

theorem taskEnv_atEntry (h : taskEnv s n = some (t, x, u)) : ∃ y, taskEnv (atEntry s n) n = some (t, y, u) ∧
    y.pbase = x.pbase ∧ y.hmask = x.hmask ∧ y.debug = x.debug := by
  obtain ⟨y, hy, hbase, hmask, hdebug, -⟩ := taskEnv_completing h
  exact ⟨y, (taskEnv_updCore _ n prune rfl).trans hy, hbase, hmask, hdebug⟩

theorem pendingKind_eq_false_iff (k : Core) (kind : PKind) :
    pendingKind k kind = false ↔ ∀ p ∈ k.inflight, p.done = false → p.kind ≠ kind := by
  simp [pendingKind]

/-- The entry waits exactly where the statements say that it may not take place. -/
theorem entryWaits_eq_false_iff (s : State) (n : Nat) (r : TrapReq) : entryWaits s n r = false ↔ Spec.mayEnter s n r := by
  unfold entryWaits Spec.mayEnter
  rw [Bool.or_eq_false_iff, Bool.and_eq_false_iff, pendingKind_eq_false_iff, pendingKind_eq_false_iff]
  simp

theorem takeTrap_enters (h : Spec.mayEnter s n r) : takeTrap s n r = enterTrap (atEntry s n) n r :=
  takeTrap_enter r ((entryWaits_eq_false_iff s n r).2 h)

theorem takeTrap_waits (h : ¬Spec.mayEnter s n r) :
    takeTrap s n r = updCore (completing s n) n (fun c => { c with trap := some r, wait := entryStall (completing s n) n }) :=
  takeTrap_kept r (Bool.eq_true_of_not_eq_false (mt (entryWaits_eq_false_iff s n r).1 h))

/-! ## What the entry does (R346, R347, R349) -/

theorem enterTrap_handler (h : taskEnv s n = some (t, x, u)) (hp : (coreAt s n).priv = false) (hm : masked x r.cause = true)
    (hb : ¬(r.cause = .brk ∧ x.debug = true)) : enterTrap s n r = updCore s n (fun c => enterHandler c r) := by
  unfold enterTrap
  rw [h]
  dsimp only
  rw [if_neg (fun hd => hb ⟨hd.1, hd.2.1⟩), if_neg (by simp [hp, hm])]

theorem enterTrap_fatal (h : taskEnv s n = some (t, x, u)) (hb : ¬(r.cause = .brk ∧ x.debug = true ∧ (coreAt s n).priv = false))
    (hf : (coreAt s n).priv = true ∨ masked x r.cause = false) :
    enterTrap s n r = fatalStop (updCore s n (fun c => saveTrap c r)) n (fatalOf s n r) := by
  unfold enterTrap
  rw [h]
  dsimp only
  rw [if_neg hb, if_pos hf]

/-- What the report of a trap names (R350). -/
theorem fatalOf_names (h : taskEnv s n = some (t, x, u)) (r : TrapReq) : (fatalOf s n r).core = prel x n ∧
    (fatalOf s n r).ecause = ecauseOf r ∧ (fatalOf s n r).einfo = r.info ∧ (fatalOf s n r).epc = (coreAt s n).pc := by
  unfold fatalOf
  rw [h]
  exact ⟨rfl, rfl, rfl, rfl⟩

theorem taskEnv_saveTrap (s : State) (n : Nat) (r : TrapReq) : taskEnv (updCore s n (fun c => saveTrap c r)) n = taskEnv s n :=
  taskEnv_updCore s n _ rfl

theorem ctxAt_updRun {c i : Nat} (f : Run → Run) (hx : ctxAt s c = some x) (hu : runAt x i = some u) :
    ctxAt (updRun s c i f) c = some { x with runs := tset x.runs i (f u) } := by
  rw [updRun, ctxAt_updCtx, hx, Option.map_some, hu]

theorem runAt_tset_same (x : Ctx) (i : Nat) (u : Run) : runAt { x with runs := tset x.runs i u } i = some u := tget_tset_same _ _ _

/-- A core whose task a fatal trap has ended. -/
def taskEnded (c : Core) : Core :=
  { c with task := none, next := none, wait := none, trap := none, priv := false, iact := false, timerHnd := false, overlay := [] }

theorem fatalStop_eq (h : taskEnv s n = some (t, x, u)) (f : Fatal) : ∃ g : Run → Run, (∀ v, (g v).fatals = v.fatals ++ [f]) ∧
    fatalStop s n f = updCore (dissolve (updRun (addShadow s n) t.ctx t.ridx g) n) n taskEnded := by
  unfold fatalStop
  rw [h]
  exact ⟨_, fun _ => rfl, rfl⟩

theorem fatals_addShadow (h : taskEnv s n = some (t, x, u)) :
    ∃ y v, ctxAt (addShadow s n) t.ctx = some y ∧ runAt y t.ridx = some v ∧ v.fatals = u.fatals := by
  obtain ⟨-, hctx, hrun⟩ := taskEnv_some h
  unfold addShadow
  rw [h]
  exact ⟨_, _, ctxAt_updRun _ hctx hrun, runAt_tset_same _ _ _, rfl⟩

/-- A fatal trap ends the task of its core, and its report joins those of the record (R349, R350). -/
theorem fatalStop_ends (h : taskEnv s n = some (t, x, u)) (f : Fatal) :
    (coreAt (fatalStop s n f) n).task = none ∧ (coreAt (fatalStop s n f) n).next = none ∧
    ∃ y v, ctxAt (fatalStop s n f) t.ctx = some y ∧ runAt y t.ridx = some v ∧ v.fatals = u.fatals ++ [f] := by
  obtain ⟨g, hg, he⟩ := fatalStop_eq h f
  obtain ⟨y, v, hy, hv, hf⟩ := fatals_addShadow h
  rw [he, coreAt_updCore, ctxAt_updCore, ctxAt_dissolve, ctxAt_updRun g hy hv]
  exact ⟨rfl, rfl, _, _, rfl, runAt_tset_same _ _ _, by rw [hg, hf]⟩

/-- A core that holds open the window that it awaits stalls under R63 (log 12). -/
theorem entryStall_holdsOpen (h : taskEnv s n = some (t, x, u)) (ht : (coreAt s n).trap = none) (ho : holdsOpen x (coreAt s n) = true) :
    entryStall s n = some { kind := .windowResult, cycles := 0, gated := false, mark := openWindow s n } := by
  unfold entryStall
  dsimp only
  rw [if_neg (by simp [ht]), h, if_pos (by simpa using ho)]

theorem holdsOpen_of {k : Core} {p : Pending} (hd : x.det = true) (hp : p ∈ k.inflight) (hdone : p.done = false) (hk : p.kind = .window)
    (hc : k.count < (p.win + 1) * k.cr.quant.toNat) : holdsOpen x k = true := by
  rw [holdsOpen, hd, Bool.true_and]
  exact List.any_eq_true.2 ⟨p, hp, by simp [hdone, hk, hc]⟩

end

/-! ## The statements -/

theorem trapToHandler : Spec.TrapToHandler := by
  intro s n r t x u henv hp hm hb
  refine ⟨fun henter => ?_, fun hwait => ?_⟩
  · obtain ⟨y, hy, -, hmask, hdebug⟩ := taskEnv_atEntry henv
    have hk := entryKept_atEntry s n
    rw [takeTrap_enters henter, enterTrap_handler hy (hk.priv.trans hp) (by rwa [masked, hmask]) (by rwa [hdebug]), coreAt_updCore]
    generalize coreAt (atEntry s n) n = k at hk ⊢
    exact ⟨rfl, rfl, hk.pc, rfl, rfl, hk.task⟩
  · obtain ⟨y, hy, -, -, -, hdet⟩ := taskEnv_completing henv
    have hk := entryKept_completing s n
    rw [takeTrap_waits hwait, coreAt_updCore]
    refine ⟨rfl, hk.priv.trans hp, hk.pc, hk.epc, hk.task, fun p hmem hdone hkind hd hcount htrap => ?_⟩
    have hopen : holdsOpen y (coreAt (completing s n) n) = true :=
      holdsOpen_of (hdet.trans hd) (mem_completing hmem (by rw [forcible, hkind])) hdone hkind (by rwa [hk.count, hk.quant])
    exact ⟨_, entryStall_holdsOpen hy (hk.trap.trans htrap) hopen, rfl⟩

theorem trapFatal : Spec.TrapFatal := by
  intro s n r t x u henv _ hb hf henter
  obtain ⟨y, hy, hbase, hmask, hdebug⟩ := taskEnv_atEntry henv
  have hk := entryKept_atEntry s n
  obtain ⟨hcore, hcause, hinfo, hpc⟩ := fatalOf_names hy r
  obtain ⟨htask, hnext, z, v, hz, hv, hfatals⟩ := fatalStop_ends ((taskEnv_saveTrap _ n r).trans hy) (fatalOf (atEntry s n) n r)
  rw [takeTrap_enters henter, enterTrap_fatal hy (by rwa [hdebug, hk.priv]) (by rwa [hk.priv, masked, hmask])]
  exact ⟨htask, hnext, z, v, _, hz, hv, hfatals, hcore.trans (by rw [prel, prel, hbase]), hcause, hinfo, hpc.trans hk.pc⟩

/-- Settles O5: a trap finds its core as completing leaves it, and enters the handler (enterTrap_handler) or ends the task
(enterTrap_fatal, fatalStop_ends), unless its entry waits (takeTrap_kept, entryStall_holdsOpen). -/
theorem trapEntry : Obligations.TrapEntry := ⟨trapToHandler, trapFatal⟩

end Sys2Proof.Machine
end

section
/-! PROOF. Control-register access and the system instructions (O3, O4; R105 to R110, R118 to R122, R312, R349, R357). The four
control-register instructions are one body with a new value of their own (exec_crRow), which has one lemma per outcome. -/

namespace Sys2Proof.Machine

/-! ## The body of a control-register instruction (R118) -/

section
variable {i : Instr} {k : Nat} {d : Reg} {f : Core → Word → Option Word} {s : State} {info : CrInfo}

theorem crBody_unlisted (hinfo : crInfo k = none) : crBody i k d f s = illegal i := by
  unfold crBody
  rw [hinfo]

theorem crBody_listed (hinfo : crInfo k = some info) (hp : info.priv = true → (me s).priv = true) : crBody i k d f s =
    match f (me s) (readCr (me s) k) with
    | none => okCore s (wrS (me s) d.toNat (readCr (me s) k))
    | some x => if info.ro then illegal i else if k = 0x02B ∧ detOf s s.cur = true then raise .priv 0x02B#32
        else okCore s (wrS (writeCr (me s) k x) d.toNat (readCr (me s) k)) := by
  have hlevel : ¬(info.priv = true ∧ (me s).priv = false) := fun h => Bool.false_ne_true (h.2.symm.trans (hp h.1))
  unfold crBody
  rw [hinfo]
  exact if_neg hlevel

theorem crBody_privileged (hinfo : crInfo k = some info) (hp : info.priv = true) (hu : (me s).priv = false) :
    crBody i k d f s = raise .priv (word k) := by
  unfold crBody
  rw [hinfo]
  exact if_pos ⟨hp, hu⟩

theorem crBody_reads (hinfo : crInfo k = some info) (hp : info.priv = true → (me s).priv = true)
    (hf : f (me s) (readCr (me s) k) = none) : crBody i k d f s = okCore s (wrS (me s) d.toNat (readCr (me s) k)) := by
  rw [crBody_listed hinfo hp, hf]

theorem crBody_writes {x : Word} (hinfo : crInfo k = some info) (hp : info.priv = true → (me s).priv = true)
    (hf : f (me s) (readCr (me s) k) = some x) (hro : info.ro = false) (hq : k = 0x02B → detOf s s.cur = false) :
    crBody i k d f s = okCore s (wrS (writeCr (me s) k x) d.toNat (readCr (me s) k)) := by
  have hquant : ¬(k = 0x02B ∧ detOf s s.cur = true) := fun h => Bool.false_ne_true ((hq h.1).symm.trans h.2)
  rw [crBody_listed hinfo hp, hf]
  dsimp only
  rw [hro, if_neg Bool.false_ne_true, if_neg hquant]

theorem crBody_readOnly {x : Word} (hinfo : crInfo k = some info) (hp : info.priv = true → (me s).priv = true)
    (hf : f (me s) (readCr (me s) k) = some x) (hro : info.ro = true) : crBody i k d f s = illegal i := by
  rw [crBody_listed hinfo hp, hf]
  exact if_pos hro

theorem crBody_quant {x : Word} (hinfo : crInfo k = some info) (hp : info.priv = true → (me s).priv = true)
    (hf : f (me s) (readCr (me s) k) = some x) (hk : k = 0x02B) (hd : detOf s s.cur = true) :
    crBody i k d f s = raise .priv 0x02B#32 := by
  have hro : info.ro = false := by
    subst hk
    cases hinfo
    rfl
  rw [crBody_listed hinfo hp, hf]
  dsimp only
  rw [hro, if_neg Bool.false_ne_true, if_pos ⟨hk, hd⟩]

end

/-! ## The instructions of the row -/

/-- Each of the four is the one body, with the new value that its row gives. -/
theorem exec_crRow {i : Instr} {s s1 : State} {sh : Shape} {k : BitVec 12} {d : Reg} {new : Option Word}
    (hrow : Spec.crRow i (coreAt s1 s.cur) = some (sh, k, d, new)) (hi : Issues i sh s s1) : sh.len = 4 ∧ ∃ f : Core → Word → Option Word,
    exec i s = issue i sh (crBody i k.toNat d f) s ∧ f (me s1) (readCr (me s1) k.toNat) = new := by
  rw [← me_of_issues hi] at hrow
  cases i
  case crr | crw | crs | crc => cases hrow; exact ⟨rfl, _, rfl, rfl⟩
  all_goals cases hrow

theorem controlRegisters : Spec.ControlRegisters := by
  intro i s s1 sh k d new info hrow hi hinfo hp hro hq
  obtain ⟨hlen, f, he, hf⟩ := exec_crRow hrow hi
  rw [← me_of_issues hi] at hp ⊢
  rw [he, ← hlen]
  cases new with
  | none => exact issue_okCore hi (crBody_reads hinfo hp hf)
  | some x =>
    refine issue_okCore hi (crBody_writes hinfo hp hf (hro (Option.some_ne_none x)) fun hk => ?_)
    rw [go_cur hi]
    exact hq (Option.some_ne_none x) (BitVec.eq_of_toNat_eq hk)

theorem controlRegisterTraps : Spec.ControlRegisterTraps := by
  intro i s s1 sh k d new hrow hi
  obtain ⟨-, f, he, hf⟩ := exec_crRow hrow hi
  rw [he, ← me_of_issues hi]
  refine ⟨fun hinfo => issue_traps hi (crBody_unlisted hinfo), fun info hinfo => ⟨fun hp hu => ?_, fun hp hro hnew => ?_,
    fun hp hk hnew hd => ?_⟩⟩
  · exact issue_traps hi (crBody_privileged hinfo hp hu)
  · obtain ⟨x, rfl⟩ := Option.ne_none_iff_exists'.1 hnew
    exact issue_traps hi (crBody_readOnly hinfo hp hf hro)
  · obtain ⟨x, rfl⟩ := Option.ne_none_iff_exists'.1 hnew
    refine issue_traps hi (crBody_quant hinfo hp hf (congrArg BitVec.toNat hk) ?_)
    rw [go_cur hi]
    exact hd

/-! ## Reading back (R105 to R110, R357) -/

theorem readCr_writeCr_masked {n : Nat} {m : Word} (c : Core) (x : Word) (h : (n, m) ∈ Spec.writable) :
    readCr (writeCr c n x) n = x &&& m := by
  have hall : x = x &&& BitVec.allOnes 32 := (BitVec.and_allOnes).symm
  simp only [Spec.writable, List.mem_cons, List.not_mem_nil, or_false, Prod.mk.injEq] at h
  obtain ⟨rfl, rfl⟩ | ⟨rfl, rfl⟩ | ⟨rfl, rfl⟩ | ⟨rfl, rfl⟩ | ⟨rfl, rfl⟩ | ⟨rfl, rfl⟩ | ⟨rfl, rfl⟩ | ⟨rfl, rfl⟩ | ⟨rfl, rfl⟩ |
    ⟨rfl, rfl⟩ | ⟨rfl, rfl⟩ | ⟨rfl, rfl⟩ | ⟨rfl, rfl⟩ | ⟨rfl, rfl⟩ | ⟨rfl, rfl⟩ | ⟨rfl, rfl⟩ | ⟨rfl, rfl⟩ := h
  -- FCTL, FFLG, HBASE and MEMB keep some of their bits, the others all
  exacts [rfl, rfl, rfl, hall, hall, hall, hall, hall, hall, rfl, hall, hall, hall, hall, hall, hall, hall]

theorem readCr_writeCr_budget {n : Nat} {d : Word} (c : Core) (x : Word) (h : (n, d) ∈ Spec.budgets) :
    readCr (writeCr c n x) n = if x = 0#32 then d else x := by
  simp only [Spec.budgets, List.mem_cons, List.not_mem_nil, or_false, Prod.mk.injEq] at h
  obtain ⟨rfl, rfl⟩ | ⟨rfl, rfl⟩ | ⟨rfl, rfl⟩ := h <;> rfl

theorem toNat_clampQuant (x : Word) : (clampQuant x).toNat = max 256 (min x.toNat 65536) := by
  unfold clampQuant
  split
  · change 256 = max 256 (min x.toNat 65536)
    omega
  · split
    · change 65536 = max 256 (min x.toNat 65536)
      omega
    · omega

theorem tstatOf_eq (c : Core) : tstatOf c = (if c.iact then 2#32 else 0#32) + (if c.priv then 1#32 else 0#32) := by
  unfold tstatOf
  cases c.iact <;> cases c.priv <;> rfl

theorem controlRegisterValues : Spec.ControlRegisterValues :=
  ⟨fun c _ _ x h => readCr_writeCr_masked c x h, fun c _ _ x h => readCr_writeCr_budget c x h, fun _ x => toNat_clampQuant x,
    fun c _ _ x h => readCr_writeCr_other c x h, tstatOf_eq⟩

/-- A pending instruction's writes leave the control registers, to which its flags are then added. -/
theorem flagsAccrue : Spec.FlagsAccrue := by
  intro c p
  obtain ⟨_, _, _, _, _, _, _, _, _, h⟩ := written_foldl p.writes c
  unfold finish
  rw [h]

/-- Settles O3: the outcomes of the one body (exec_crRow, crBody_reads to crBody_quant), and the registers read back one by one. -/
theorem controlRegisterInstructions : Obligations.ControlRegisterInstructions :=
  ⟨controlRegisters, controlRegisterTraps, controlRegisterValues, flagsAccrue⟩

/-! ## Traps, returns, yield and fences (R119 to R122, R312, R349) -/

theorem softwareTraps : Spec.SoftwareTraps := by
  refine ⟨fun a s s1 hi => ?_, fun s s1 hi => issue_traps hi rfl⟩
  rw [← me_of_issues hi]
  exact issue_traps hi rfl

section
variable {s : State}

theorem eretBody_privileged (hp : (me s).priv = true) :
    eretBody s = .jump (setCore s s.cur { me s with priv := false, timerHnd := false }) ((me s).cr.epc &&& 0xFFFFFFFE#32) := by
  unfold eretBody returnFrom
  rw [if_pos hp]
  rfl

theorem eretBody_handler (hp : (me s).priv = false) (ha : (me s).iact = true) :
    eretBody s = .jump (setCore s s.cur { me s with iact := false }) ((me s).cr.iepc &&& 0xFFFFFFFE#32) := by
  unfold eretBody returnFrom
  rw [if_neg (ne_true_of_eq_false hp), if_pos ha]
  rfl

theorem eretBody_neither (hp : (me s).priv = false) (ha : (me s).iact = false) : eretBody s = raise .priv 0#32 := by
  unfold eretBody returnFrom
  rw [if_neg (ne_true_of_eq_false hp), if_neg (ne_true_of_eq_false ha)]

theorem yieldBody_det (hd : detOf s s.cur = true) :
    yieldBody s = .counts s ((me s).cr.quant.toNat - (me s).count % (me s).cr.quant.toNat) := if_pos hd

theorem yieldBody_closed {w : Waiting} (hd : detOf s s.cur = false) (hw : (me s).wait = some w) (hk : w.kind = .yield)
    (hm : w.mark < unclosedWindow s s.cur) : yieldBody s = .ok s := by
  unfold yieldBody
  dsimp only
  rw [hd, if_neg Bool.false_ne_true, hw]
  exact if_pos ⟨hk, hm⟩

theorem yieldBody_first (hd : detOf s s.cur = false) (hw : (me s).wait = none) : yieldBody s = .wait .yield s := by
  unfold yieldBody
  dsimp only
  rw [hd, if_neg Bool.false_ne_true, hw]

end

theorem eret_spec : Spec.Eret := by
  intro s s1 hi
  rw [← me_of_issues hi]
  exact ⟨fun hp => issue_jumpCore hi (eretBody_privileged hp), fun hp ha => issue_jumpCore hi (eretBody_handler hp ha),
    fun hp ha => issue_traps hi (eretBody_neither hp ha)⟩

theorem yield_spec : Spec.Yield := by
  intro s s1 hi
  have hcur : s1.cur = s.cur := go_cur hi
  have hme : me s1 = coreAt s1 s.cur := me_of_issues hi
  refine ⟨fun hd => issue_counts hi ?_, fun hd w hw hk hm => issue_moveOn hi ?_, fun hd hw => issue_waits hi ?_⟩
  · rw [yieldBody_det (by rwa [hcur]), hme]
  · exact yieldBody_closed (by rwa [hcur]) (by rwa [hme]) hk (by rwa [hcur])
  · exact yieldBody_first (by rwa [hcur]) (by rwa [hme])

theorem fencesComplete : Spec.FencesComplete := by
  rintro i s s1 (rfl | rfl | rfl) hi
  all_goals exact issue_moveOn hi (by rw [← go_cur hi]; rfl)

/-- Settles O4: the body of each instruction decides it (eretBody_privileged to eretBody_neither, yieldBody_det to yieldBody_first). -/
theorem systemInstructions : Obligations.SystemInstructions := ⟨softwareTraps, eret_spec, yield_spec, fencesComplete⟩

end Sys2Proof.Machine
end

section
/-! PROOF. The task and launch instructions and the record-pool controller (O35; R33, R64, R125 to R130, R410). One lemma per outcome of
an instruction's body; a patch is two writes of words of its record (patchRecord_word to patchRecord_read). -/

namespace Sys2Proof.Machine

/-! ## A patched record (R33, R126) -/

section
variable (s : State) (c : Nat) (x : Ctx) (i : Nat)

theorem read_setRecWord_other (w : Nat) (v : Word) {a : Nat}
    (h : ¬(caddyKey c (recoff x + 128 * i + 4 * w) ≤ a ∧ a < caddyKey c (recoff x + 128 * i + 4 * w) + 4)) :
    (setRecWord s c x i w v).caddy.read a = s.caddy.read a := by
  obtain ⟨rows, e⟩ := openCaddy_only s c x (recoff x + 128 * i + 4 * w) 4
  rw [setRecWord, e]
  exact Memory.read_writeW_other _ _ _ _ (by omega)

/-- CHECK is no covered word (R31). -/
theorem recWords_setRecWord_check (v : Word) : recWords (setRecWord s c x i 31 v) c x i = recWords s c x i :=
  List.map_congr_left fun k hk => recWord_setRecWord_other s c x i v (by have := List.mem_range.1 hk; omega)

variable {w : Nat} (v : Word)

/-- A patch writes the caddy and opens rows. -/
theorem patchRecord_only : patchRecord s c x i w v =
    { s with caddy := (patchRecord s c x i w v).caddy, rowOpen := (patchRecord s c x i w v).rowOpen } := by
  obtain ⟨b, hb⟩ := setRecWord_only s c x i w v
  obtain ⟨b', hb'⟩ := setRecWord_only (setRecWord s c x i w v) c x i 31 (crc32c (wordsBytes (recWords (setRecWord s c x i w v) c x i)))
  rw [patchRecord, hb', hb]
  rfl

theorem patchRecord_word (hw : w ≠ 31) : recWord (patchRecord s c x i w v) c x i w = v := by
  rw [patchRecord, recWord_setRecWord_other _ c x i _ (Ne.symm hw), recWord_setRecWord_same]

theorem patchRecord_check : recWord (patchRecord s c x i w v) c x i 31 = crc32c (wordsBytes (recWords (patchRecord s c x i w v) c x i)) := by
  rw [patchRecord, recWord_setRecWord_same, recWords_setRecWord_check]

theorem patchRecord_other {k : Nat} (hk : k ≠ w) (hc : k ≠ 31) : recWord (patchRecord s c x i w v) c x i k = recWord s c x i k := by
  rw [patchRecord, recWord_setRecWord_other _ c x i _ (Ne.symm hc), recWord_setRecWord_other _ c x i _ (Ne.symm hk)]

theorem patchRecord_read {a : Nat}
    (hw : ¬(caddyKey c (recoff x + 128 * i + 4 * w) ≤ a ∧ a < caddyKey c (recoff x + 128 * i + 4 * w) + 4))
    (hc : ¬(caddyKey c (recoff x + 128 * i + 4 * 31) ≤ a ∧ a < caddyKey c (recoff x + 128 * i + 4 * 31) + 4)) :
    (patchRecord s c x i w v).caddy.read a = s.caddy.read a := by
  rw [patchRecord, read_setRecWord_other _ c x i _ _ hc, read_setRecWord_other _ c x i _ _ hw]

theorem patchable_iff : patchable s c x i w = true ↔ (recWord s c x i 28).getLsbD w = true ∧ w ∉ [0, 1, 28, 29, 30, 31] := by
  rw [patchable, Bool.and_eq_true, Bool.not_eq_true', ← Bool.not_eq_true, List.contains_iff_mem]

end

/-! ## The bodies (R125 to R130) -/

/-- What grp.rd gives: a word of the group, or the index of core n in it (R130). -/
def groupRead (x : Ctx) (g n sel : Nat) : Word :=
  if sel < 2 then groupWord x g sel
  else match groupIndex x g n with
    | some i => word i
    | none => 0xFFFFFFFF#32

section
variable {s : State} {t : Task} {x : Ctx} {u : Run} {d a b : Reg} {w : BitVec 5} (henv : taskEnv s s.cur = some (t, x, u))
include henv

theorem lrecRdBody_reads (hw : w.toNat ≤ 28) : lrecRdBody d w s = interlock s [sres (me s) d (u.copy.getD w.toNat 0#32)] := by
  rw [lrecRdBody, if_neg (Nat.not_lt.2 hw), henv]

theorem lrecPatchBody_missing (hn : nrec x ≤ (rdS (me s) a.toNat).toNat) :
    lrecPatchBody a b w s = raise .priv (word (1 * 2 ^ 24 + (rdS (me s) a.toNat).toNat % 2 ^ 24)) := by
  unfold lrecPatchBody
  rw [henv]
  exact if_pos hn

/-- The checks of a record that exists, in their order (R126, R128). -/
theorem lrecPatchBody_listed {i : Nat} (hi : (rdS (me s) a.toNat).toNat = i) (hn : i < nrec x) : lrecPatchBody a b w s =
    if patchable s t.ctx x i w.toNat = false then .fault (openRec s t.ctx x i) { cause := .priv, info := word (2 * 2 ^ 24 + i) }
    else if i = t.ridx then .fault (openRec s t.ctx x i) { cause := .priv, info := word (3 * 2 ^ 24 + i) }
    else if liveState (recState s t.ctx x i) then
      if x.det then .wait .quiet (openRec s t.ctx x i) else .fault (openRec s t.ctx x i) { cause := .priv, info := word (4 * 2 ^ 24 + i) }
    else .ok (poolRequest (patchRecord s t.ctx x i w.toNat (rdS (me s) b.toNat)) t.ctx s.cur []) := by
  unfold lrecPatchBody
  rw [henv]
  dsimp only
  rw [hi, if_neg (Nat.not_le.2 hn)]

theorem lrecArmBody_own (hi : (rdS (me s) a.toNat).toNat = t.ridx) :
    lrecArmBody d a b s = .ok (poolRequest s t.ctx s.cur [sres (me s) d 3#32]) := by
  unfold lrecArmBody
  rw [henv]
  exact if_pos hi

theorem lrecArmBody_arms {i : Nat} (hi : (rdS (me s) a.toNat).toNat = i) (ho : i ≠ t.ridx)
    (hq : ¬(i < nrec x ∧ x.det = true ∧ liveState (recState s t.ctx x i) = true)) :
    lrecArmBody d a b s = .ok (poolRequest (armRecord s t.ctx i (rdS (me s) b.toNat)).1 t.ctx s.cur
      [sres (me s) d (word (armRecord s t.ctx i (rdS (me s) b.toNat)).2)]) := by
  unfold lrecArmBody
  rw [henv]
  dsimp only
  rw [hi, if_neg ho, if_neg hq]

theorem tqReqBody_asks {m : Nat} (hm : (rdS (me s) a.toNat).toNat = m) (h1 : 1 ≤ m) (h255 : m ≤ 255) :
    tqReqBody d a s = .ok (updRun (pend s s.cur .window 0#4 [sres (me s) d 0#32] 0#5 []) t.ctx t.ridx (fun r => { r with
      tqreqs := r.tqreqs ++
        [{ core := prel x s.cur, win := windowOf x u (me s), m := m, dest := d.toNat, bank := banked (me s) d.toNat }] })) := by
  unfold tqReqBody
  dsimp only
  rw [hm, if_neg (by omega), henv]

theorem grpRdBody_reads (hw : w.toNat < 3) : grpRdBody d a w s =
    interlock s [sres (me s) d (groupRead x ((rdS (me s) a.toNat).toNat % 256) (prel x s.cur) w.toNat)] := by
  unfold grpRdBody
  rw [henv]
  dsimp only
  rw [if_neg (Nat.not_le.2 hw)]
  match w.toNat, hw with
  | 0, _ | 1, _ | 2, _ => rfl

end

/-! ## The statements -/

theorem lrecPatch_patches {s s1 : State} {a b : Reg} {w : BitVec 5} {t : Task} {x : Ctx} {u : Run} {i : Nat}
    (henv : taskEnv s1 s.cur = some (t, x, u)) (hi : Issues (.lrecPatch a b w) { names := [nS a, nS b] } s s1)
    (hv : (rdS (coreAt s1 s.cur) a.toNat).toNat = i) (hn : i < nrec x) (hp : patchable s1 t.ctx x i w.toNat = true) (ho : i ≠ t.ridx)
    (hl : liveState (recState s1 t.ctx x i) = false) : exec (.lrecPatch a b w) s = .next (moveOn s1
      (poolRequest (patchRecord s1 t.ctx x i w.toNat (rdS (coreAt s1 s.cur) b.toNat)) t.ctx s.cur []) s.cur 4) := by
  refine issue_moveOn hi ?_
  rw [← me_of_issues hi] at hv ⊢
  rw [← go_cur hi] at henv ⊢
  rw [lrecPatchBody_listed henv hv hn, hp, if_neg (by decide), if_neg ho, hl, if_neg (by decide)]

theorem launchInstructions_complete : Spec.LaunchInstructions := by
  intro s s1 d a b w t x u henv c v
  refine ⟨fun hi hw => ?_, fun hi hn hpatch hw ho hl => ?_, fun hi => ⟨fun ho => ?_, fun ho hq => ?_⟩, fun hi h1 h255 => ?_, fun hi hw => ?_⟩
  · refine issue_interlock hi ?_
    rw [lrecRdBody_reads (by rwa [go_cur hi]) hw, me_of_issues hi]
  · have hcheck : w.toNat ≠ 31 := fun h => hw (by simp [h])
    refine ⟨(patchRecord s1 t.ctx x v.toNat w.toNat (rdS c b.toNat)).caddy, (patchRecord s1 t.ctx x v.toNat w.toNat (rdS c b.toNat)).rowOpen, ?_⟩
    intro r at_
    have hr : r = patchRecord s1 t.ctx x v.toNat w.toNat (rdS c b.toNat) := (patchRecord_only ..).symm
    rw [hr]
    exact ⟨lrecPatch_patches henv hi rfl hn ((patchable_iff ..).2 ⟨hpatch, hw⟩) ho hl, patchRecord_word _ _ _ _ _ hcheck,
      patchRecord_check .., fun k hk hc => patchRecord_other _ _ _ _ _ hk hc, fun k hk hc => patchRecord_read _ _ _ _ _ hk hc⟩
  · refine issue_moveOn hi ?_
    rw [lrecArmBody_own (by rwa [go_cur hi]) (by rwa [me_of_issues hi]), me_of_issues hi, go_cur hi]
  · refine issue_moveOn hi ?_
    rw [lrecArmBody_arms (by rwa [go_cur hi]) (by rw [me_of_issues hi]) ho hq, me_of_issues hi, go_cur hi]
  · refine issue_moveOn hi ?_
    rw [tqReqBody_asks (by rwa [go_cur hi]) (by rw [me_of_issues hi]) h1 h255, me_of_issues hi, go_cur hi]
    rfl
  · refine issue_interlock hi ?_
    rw [grpRdBody_reads (by rwa [go_cur hi]) hw, me_of_issues hi, go_cur hi]
    rfl

theorem patchTraps : Spec.PatchTraps := by
  intro s s1 a b w t x u henv hi i trap open_ read hmax
  have hlisted (h : i < nrec x) := lrecPatchBody_listed (a := a) (b := b) (w := w) (i := i) (by rwa [go_cur hi]) (by rw [me_of_issues hi]) h
  have hinfo (h : i < nrec x) : i % 2 ^ 24 = i := Nat.mod_eq_of_lt (Nat.lt_of_lt_of_le h hmax)
  have hopen : patchable s1 t.ctx x i w.toNat = true ↔ open_ := patchable_iff ..
  refine ⟨fun hn => ?_, fun hn ho => ?_, fun hn ho hown => ?_, fun hn ho hown hl hd => ?_⟩
  · refine issue_traps hi ?_
    rw [lrecPatchBody_missing (by rwa [go_cur hi]) (by rwa [me_of_issues hi]), me_of_issues hi]
    rfl
  · refine issue_faults hi ?_
    rw [hlisted hn, if_pos (Bool.eq_false_of_not_eq_true (mt hopen.1 ho)), hinfo hn]
  · refine issue_faults hi ?_
    rw [hlisted hn, hopen.2 ho, if_neg (by decide), if_pos hown, hinfo hn]
  · refine issue_faults hi ?_
    rw [hlisted hn, hopen.2 ho, if_neg (by decide), if_neg hown, if_pos hl, hd, if_neg (by decide), hinfo hn]

/-- The controller answers the oldest request (R126, R127). -/
theorem poolAnswer_oldest {s : State} {c n : Nat} {rest : List Nat} {x : Ctx} (hx : ctxAt s c = some x) (hp : x.pool = n :: rest) :
    poolAnswer s c = updCore (setCtx s c { x with pool := rest }) n answerCore := by
  unfold poolAnswer
  rw [hx]
  dsimp only
  rw [hp]

theorem poolAnswer_idle {s : State} {c : Nat} {x : Ctx} (hx : ctxAt s c = some x) (hp : x.pool = []) : poolAnswer s c = s := by
  unfold poolAnswer
  rw [hx]
  dsimp only
  rw [hp]

theorem poolAnswers : Spec.PoolAnswers := by
  intro s x hx
  refine ⟨fun hp => congrArg Host.Outcome.next (poolAnswer_idle hx hp), fun n rest hp => ?_⟩
  refine ⟨_, congrArg Host.Outcome.next (poolAnswer_oldest hx hp), ctxAt_setCtx .., coreAt_updCore .., fun m hm => ?_, sameMemory_rfl s⟩
  exact coreAt_updCore_other _ _ hm

/-- Settles O35: what each body leaves (lrecRdBody_reads to grpRdBody_reads, with the record of patchRecord), the checks of a patch in
their order (lrecPatchBody_missing, lrecPatchBody_listed), and the controller's answer (poolAnswer_oldest). -/
theorem launchInstructions : Obligations.LaunchInstructions := ⟨launchInstructions_complete, patchTraps, poolAnswers⟩

end Sys2Proof.Machine
end

section
/-! PROOF. Floating-point codes as numbers, and their rounding to nearest (R131, R132, R137, R141). A magnitude code is a significand at an
exponent (magUnits_scaled); the rounding of a number gives the code between whose midpoints it lies (NearMag, roundMag_near), and that is the
code which the statements ask for (Ieee.rounds_of_nearMag, Ieee.cvtFp_rounds). -/

namespace Sys2Proof.Machine

/-! ## The magnitudes of a format (R131) -/

/-- The number of magnitude code c of a format with mb fraction bits, in units of its least positive number (R131). -/
def magUnits (mb c : Nat) : Nat := if c < 2 ^ mb then c else (2 ^ mb + c % 2 ^ mb) * 2 ^ (c / 2 ^ mb - 1)

/-- A magnitude code as a significand r and the exponent d of its last place: r is below 2 to the power of mb only where d is 0. -/
theorem magUnits_scaled {mb d r : Nat} (hr : r ≤ 2 ^ (mb + 1)) (hd : d = 0 ∨ 2 ^ mb ≤ r) : magUnits mb (d * 2 ^ mb + r) = r * 2 ^ d := by
  have hpos := Nat.two_pow_pos mb
  have hdouble : 2 ^ (mb + 1) = 2 * 2 ^ mb := by rw [pow_succ, mul_comm]
  unfold magUnits
  by_cases hlow : r < 2 ^ mb
  · obtain rfl : d = 0 := hd.resolve_right (by omega)
    rw [if_pos (by omega)]
    omega
  rw [if_neg (by nlinarith)]
  by_cases htop : r = 2 ^ (mb + 1)
  · have hq : (d * 2 ^ mb + r) = (d + 2) * 2 ^ mb := by rw [htop, hdouble]; ring
    rw [hq, Nat.mul_mod_left, Nat.mul_div_cancel _ hpos, htop, show d + 2 - 1 = d + 1 from rfl, pow_succ 2 d, pow_succ 2 mb]
    ring
  · obtain ⟨f, rfl⟩ : ∃ f, r = 2 ^ mb + f := ⟨r - 2 ^ mb, by omega⟩
    have hf : f < 2 ^ mb := by omega
    have hq : d * 2 ^ mb + (2 ^ mb + f) = f + 2 ^ mb * (d + 1) := by ring
    rw [hq, Nat.add_mul_mod_self_left, Nat.mod_eq_of_lt hf, Nat.add_mul_div_left _ _ hpos, Nat.div_eq_of_lt hf]
    congr 2
    omega

/-- Every magnitude code has such a form, with room for the next one. -/
theorem exists_scaled (mb c : Nat) : ∃ d r, c = d * 2 ^ mb + r ∧ r < 2 ^ (mb + 1) ∧ (d = 0 ∨ 2 ^ mb ≤ r) := by
  have hdouble : 2 ^ (mb + 1) = 2 * 2 ^ mb := by rw [pow_succ, mul_comm]
  by_cases hc : c < 2 ^ (mb + 1)
  · exact ⟨0, c, by omega, hc, .inl rfl⟩
  · have hmod := Nat.mod_lt c (Nat.two_pow_pos mb)
    have hdiv := Nat.div_add_mod c (2 ^ mb)
    have h2 : 2 ≤ c / 2 ^ mb := (Nat.le_div_iff_mul_le (Nat.two_pow_pos mb)).2 (by omega)
    obtain ⟨d, hd⟩ : ∃ d, c / 2 ^ mb = d + 1 := ⟨c / 2 ^ mb - 1, by omega⟩
    refine ⟨d, 2 ^ mb + c % 2 ^ mb, ?_, by omega, .inr (by omega)⟩
    rw [hd] at hdiv
    rw [← hdiv, Nat.mul_add_mod, Nat.mod_mod]
    ring

theorem magUnits_strictMono (mb : Nat) : StrictMono (magUnits mb) := by
  refine strictMono_nat_of_lt_succ fun c => ?_
  obtain ⟨d, r, rfl, hr, hd⟩ := exists_scaled mb c
  have hnext := magUnits_scaled (mb := mb) (d := d) (r := r + 1) (by omega) (hd.imp_right (by omega))
  rw [Nat.add_assoc, hnext, magUnits_scaled hr.le hd]
  exact Nat.mul_lt_mul_of_pos_right (Nat.lt_succ_self r) (Nat.two_pow_pos d)

@[simp] theorem magUnits_zero (mb : Nat) : magUnits mb 0 = 0 := if_pos (Nat.two_pow_pos mb)

theorem magUnits_eq_zero {mb c : Nat} : magUnits mb c = 0 ↔ c = 0 := by
  constructor
  · intro h
    exact (magUnits_strictMono mb).injective (h.trans (magUnits_zero mb).symm)
  · rintro rfl
    exact magUnits_zero mb

/-! ## The nearest magnitude (R137) -/

/-- Magnitude code c is nearest to the number t, in units: t lies between the midpoints to the codes beside c, and on one of them only where
c is even. -/
structure NearMag (mb : Nat) (t : ℝ) (c : Nat) : Prop where
  upper     : 2 * t ≤ magUnits mb c + magUnits mb (c + 1)
  upperEven : 2 * t = magUnits mb c + magUnits mb (c + 1) → c % 2 = 0
  lower     : ∀ b, c = b + 1 → (magUnits mb b + magUnits mb c : ℝ) ≤ 2 * t
  lowerEven : ∀ b, c = b + 1 → (magUnits mb b + magUnits mb c : ℝ) = 2 * t → c % 2 = 0

section
variable {mb c : Nat} {t : ℝ}

theorem NearMag.upper_of_lt (h : NearMag mb t c) {z : Nat} (hz : c < z) :
    2 * t ≤ magUnits mb c + magUnits mb z ∧ (2 * t = magUnits mb c + magUnits mb z → c % 2 = 0) := by
  have hmono : (magUnits mb (c + 1) : ℝ) ≤ magUnits mb z := by exact_mod_cast (magUnits_strictMono mb).monotone hz
  exact ⟨h.upper.trans (by linarith), fun he => h.upperEven (le_antisymm h.upper (by linarith))⟩

theorem NearMag.lower_of_lt (h : NearMag mb t c) {z : Nat} (hz : z < c) :
    (magUnits mb z + magUnits mb c : ℝ) ≤ 2 * t ∧ ((magUnits mb z + magUnits mb c : ℝ) = 2 * t → c % 2 = 0) := by
  obtain ⟨b, rfl⟩ : ∃ b, c = b + 1 := ⟨c - 1, by omega⟩
  have hmono : (magUnits mb z : ℝ) ≤ magUnits mb b := by exact_mod_cast (magUnits_strictMono mb).monotone (Nat.le_of_lt_succ hz)
  have hlow := h.lower b rfl
  exact ⟨by linarith, fun he => h.lowerEven b rfl (by linarith)⟩

/-- No magnitude is nearer, and where another one is as near the code is even. -/
theorem NearMag.nearest (h : NearMag mb t c) (z : Nat) : |(magUnits mb c : ℝ) - t| ≤ |(magUnits mb z : ℝ) - t| ∧
    (magUnits mb z ≠ magUnits mb c → |(magUnits mb z : ℝ) - t| = |(magUnits mb c : ℝ) - t| → c % 2 = 0) := by
  rcases lt_trichotomy c z with hz | rfl | hz
  · obtain ⟨hle, heven⟩ := h.upper_of_lt hz
    have hlt : (magUnits mb c : ℝ) < magUnits mb z := by exact_mod_cast magUnits_strictMono mb hz
    have hpos : |(magUnits mb z : ℝ) - t| = magUnits mb z - t := abs_of_nonneg (by linarith)
    refine ⟨?_, fun _ he => heven ?_⟩
    · rw [hpos, abs_le]
      constructor <;> linarith
    · rw [hpos] at he
      rcases abs_choice ((magUnits mb c : ℝ) - t) with hc | hc <;> rw [hc] at he <;> linarith
  · exact ⟨le_rfl, fun hne => absurd rfl hne⟩
  · obtain ⟨hle, heven⟩ := h.lower_of_lt hz
    have hlt : (magUnits mb z : ℝ) < magUnits mb c := by exact_mod_cast magUnits_strictMono mb hz
    have hneg : |(magUnits mb z : ℝ) - t| = t - magUnits mb z := by rw [abs_sub_comm]; exact abs_of_nonneg (by linarith)
    refine ⟨?_, fun _ he => heven ?_⟩
    · rw [hneg, abs_le]
      constructor <;> linarith
    · rw [hneg] at he
      rcases abs_choice ((magUnits mb c : ℝ) - t) with hc | hc <;> rw [hc] at he <;> linarith

/-- A number that is a magnitude has that one's code. -/
theorem NearMag.eq_of_exact (h : NearMag mb t c) {z : Nat} (hz : t = magUnits mb z) : c = z := by
  have hn := (h.nearest z).1
  rw [hz, sub_self, abs_zero, abs_nonpos_iff, sub_eq_zero] at hn
  exact (magUnits_strictMono mb).injective (by exact_mod_cast hn)

theorem NearMag.nonneg (h : NearMag mb t c) : 0 ≤ t ∨ c = 0 := by
  rcases Nat.eq_zero_or_pos c with hc | hc
  · exact .inr hc
  · have := (h.lower_of_lt hc).1
    refine .inl ?_
    have h0 : (0 : ℝ) ≤ magUnits mb 0 := Nat.cast_nonneg _
    have h1 : (0 : ℝ) ≤ magUnits mb c := Nat.cast_nonneg _
    linarith

theorem nearMag_zero (mb : Nat) : NearMag mb 0 0 where
  upper := by rw [mul_zero]; positivity
  upperEven _ := rfl
  lower b hb := absurd hb (by omega)
  lowerEven b hb := absurd hb (by omega)

end

/-! ## A number that a significand stands for -/

/-- The significand m stands for the number x where a format has mb fraction bits: it is x, or, with its last bit set in place of all that x
has below the bit before it, it has three bits more than the format keeps and x lies beside it (R198). -/
def Sticky (mb m : Nat) (x : ℝ) : Prop := x = m ∨ (m % 2 = 1 ∧ mb + 3 ≤ bitLen m ∧ (m : ℝ) - 1 < x ∧ x < m + 1)

theorem Sticky.nonneg {mb m : Nat} {x : ℝ} (h : Sticky mb m x) : 0 ≤ x := by
  rcases h with rfl | ⟨hodd, -, hlt, -⟩
  · exact Nat.cast_nonneg m
  · have : (1 : ℝ) ≤ m := by exact_mod_cast (show 1 ≤ m by omega)
    linarith

theorem bitLen_bounds {m : Nat} (hm : m ≠ 0) : 2 ^ (bitLen m - 1) ≤ m ∧ m < 2 ^ bitLen m ∧ 0 < bitLen m := by
  unfold bitLen
  rw [if_neg hm]
  exact ⟨Nat.log2_self_le hm, Nat.lt_log2_self, Nat.succ_pos _⟩

/-- The number lies between the powers of two that the length of its significand gives. -/
theorem Sticky.bounds {mb m : Nat} {x : ℝ} (h : Sticky mb m x) (hm : m ≠ 0) : (2 : ℝ) ^ (bitLen m - 1) ≤ x ∧ x ≤ 2 ^ bitLen m := by
  obtain ⟨hlow, hhigh, -⟩ := bitLen_bounds hm
  have hhigh' : (m : ℝ) + 1 ≤ 2 ^ bitLen m := by exact_mod_cast hhigh
  rcases h with rfl | ⟨hodd, hlen, hlt, hgt⟩
  · exact ⟨by exact_mod_cast hlow, by linarith⟩
  · have heven : 2 ^ (bitLen m - 1) = 2 * 2 ^ (bitLen m - 2) := by rw [← pow_succ', show bitLen m - 2 + 1 = bitLen m - 1 by omega]
    have hlow' : ((2 ^ (bitLen m - 1) + 1 : Nat) : ℝ) ≤ m := by exact_mod_cast (show 2 ^ (bitLen m - 1) + 1 ≤ m by omega)
    push_cast at hlow'
    exact ⟨by linarith, by linarith⟩

/-! ## Rounding a significand (R137) -/

/-- The integer r is nearest to x / g, and even where two are. -/
structure NearGrid (x g : ℝ) (r : Nat) : Prop where
  upper     : 2 * x ≤ (2 * r + 1) * g
  upperEven : 2 * x = (2 * r + 1) * g → r % 2 = 0
  lower     : (2 * r - 1) * g ≤ 2 * x
  lowerEven : (2 * r - 1) * g = 2 * x → r % 2 = 0

theorem nearGrid_exact {x g : ℝ} {r : Nat} (hg : 0 < g) (h : x = r * g) : NearGrid x g r := by
  subst h
  constructor
  · linarith
  · intro h; exfalso; linarith
  · linarith
  · intro h; exfalso; linarith

/-- Scaling keeps the nearest multiple. -/
theorem NearGrid.scale {x g : ℝ} {r : Nat} (h : NearGrid x g r) {a : ℝ} (ha : 0 < a) : NearGrid (x * a) (g * a) r where
  upper := by have := mul_le_mul_of_nonneg_right h.upper ha.le; linarith
  upperEven he := h.upperEven (mul_right_cancel₀ ha.ne' (by linarith))
  lower := by have := mul_le_mul_of_nonneg_right h.lower ha.le; linarith
  lowerEven he := h.lowerEven (mul_right_cancel₀ ha.ne' (by linarith))

theorem pow2_cast {k : Int} (hk : 0 ≤ k) : ((pow2 k : Nat) : ℝ) = 2 ^ k := by
  obtain ⟨n, rfl⟩ := Int.eq_ofNat_of_zero_le hk
  simp [pow2]

/-- A number and the significand that stands for it lie on the same side of every even number, and of every number where they are one. -/
theorem sticky_lt_iff {m b : Nat} {x : ℝ} (h : x = m ∨ (m % 2 = 1 ∧ b % 2 = 0 ∧ (m : ℝ) - 1 < x ∧ x < m + 1)) :
    (x < b ↔ m < b) ∧ ((b : ℝ) < x ↔ b < m) := by
  rcases h with rfl | ⟨hodd, heven, hlow, hhigh⟩
  · exact ⟨Nat.cast_lt, Nat.cast_lt⟩
  · rcases lt_or_gt_of_ne (show m ≠ b by omega) with hlt | hlt
    · have : (m : ℝ) + 1 ≤ b := by exact_mod_cast hlt
      exact ⟨⟨fun _ => hlt, fun _ => by linarith⟩, ⟨fun _ => by linarith, fun _ => by omega⟩⟩
    · have : (b : ℝ) + 1 ≤ m := by exact_mod_cast hlt
      exact ⟨⟨fun _ => by linarith, fun _ => by omega⟩, ⟨fun _ => hlt, fun _ => by linarith⟩⟩

/-- Rounding to the nearest multiple of 2 * h: the quotient, or the next one where the rest is beyond half of it, or half with an odd
quotient (R137). -/
theorem nearGrid_div {m h : Nat} {x : ℝ} (hh : 0 < h) (hx : x = m ∨ (m % 2 = 1 ∧ h % 2 = 0 ∧ (m : ℝ) - 1 < x ∧ x < m + 1))
    (hrem : m % (2 * h) ≠ 0) :
    let r := m / (2 * h)
    let up := 2 * h < 2 * (m % (2 * h)) ∨ (2 * (m % (2 * h)) = 2 * h ∧ r % 2 = 1)
    ((up → NearGrid x (2 * h) (r + 1)) ∧ (¬up → NearGrid x (2 * h) r)) ∧ x ≠ r * (2 * h) ∧ x ≠ (r + 1 : Nat) * (2 * h) := by
  intro r up
  have hdiv : 2 * h * r + m % (2 * h) = m := Nat.div_add_mod m (2 * h)
  have hmod : m % (2 * h) < 2 * h := Nat.mod_lt _ (by omega)
  have hmul : 2 * h * r = 2 * (h * r) := by ring
  have cut (b : Nat) (hb : h % 2 = 0 → b % 2 = 0) : (x < b ↔ m < b) ∧ ((b : ℝ) < x ↔ b < m) :=
    sticky_lt_iff (hx.imp_right fun ⟨h1, h2, h3⟩ => ⟨h1, hb h2, h3⟩)
  have heven (a : Nat) : (h % 2 = 0 → a * h % 2 = 0) := fun he => by rw [Nat.mul_mod, he, Nat.mul_zero, Nat.zero_mod]
  have hbelow := (cut (2 * r * h) (heven _)).2.2 (by rw [Nat.mul_assoc, Nat.mul_comm r]; omega)
  have habove := (cut (2 * (r + 1) * h) (heven _)).1.2 (by rw [Nat.mul_assoc, Nat.mul_comm (r + 1), Nat.mul_add]; omega)
  have hmid := cut ((2 * r + 1) * h) (heven _)
  have hmidval : (2 * r + 1) * h = 2 * (h * r) + h := by ring
  have hh' : (0 : ℝ) < h := by exact_mod_cast hh
  push_cast at hbelow habove hmid
  refine ⟨⟨fun hup => ?_, fun hup => ?_⟩, by intro he; linarith, by intro he; push_cast at he; linarith⟩
  · have hle : (2 * r + 1 : ℝ) * h ≤ x := le_of_not_gt fun hlt => by have := hmid.1.1 hlt; omega
    have hodd (he : x ≤ (2 * r + 1 : ℝ) * h) : (r + 1) % 2 = 0 := by
      have : ¬(2 * r + 1) * h < m := fun hlt => absurd (hmid.2.2 hlt) (not_lt.2 he)
      omega
    constructor <;> push_cast
    · linarith
    · intro he; exfalso; linarith
    · linarith
    · intro he; exact hodd (by linarith)
  · have hle : x ≤ (2 * r + 1 : ℝ) * h := le_of_not_gt fun hlt => by have := hmid.2.1 hlt; omega
    have hodd (he : (2 * r + 1 : ℝ) * h ≤ x) : r % 2 = 0 := by
      have : ¬m < (2 * r + 1) * h := fun hlt => absurd (hmid.1.2 hlt) (not_lt.2 he)
      omega
    constructor
    · linarith
    · intro he; exact hodd (by linarith)
    · linarith
    · intro he; exfalso; linarith

/-- roundAt gives the nearest multiple of 2 to the power of q, and tells whether it differs (R137). -/
theorem roundAt_near {m : Nat} {x : ℝ} {e q : Int} (neg : Bool)
    (hx : x = m ∨ (m % 2 = 1 ∧ e + 2 ≤ q ∧ (m : ℝ) - 1 < x ∧ x < m + 1)) :
    NearGrid x (2 ^ (q - e)) (roundAt neg m e q .rne).1 ∧
      ((roundAt neg m e q .rne).2 = true ↔ x ≠ (roundAt neg m e q .rne).1 * 2 ^ (q - e)) := by
  by_cases hq : q ≤ e
  · obtain rfl : x = m := hx.resolve_right fun h => by omega
    have hr : roundAt neg m e q .rne = (m * pow2 (e - q), false) := by simp [roundAt, hq]
    have hval : (m : ℝ) = (m * pow2 (e - q) : Nat) * 2 ^ (q - e) := by
      push_cast
      rw [pow2_cast (by omega), mul_assoc, ← zpow_add₀ two_ne_zero, show e - q + (q - e) = 0 by omega, zpow_zero, mul_one]
    rw [hr]
    exact ⟨nearGrid_exact (by positivity) hval, by simp only [Bool.false_eq_true, false_iff, not_not]; exact hval⟩
  · obtain ⟨n, hn⟩ : ∃ n : Nat, q - e = n + 1 := ⟨(q - e - 1).toNat, by omega⟩
    have hd : pow2 (q - e) = 2 * 2 ^ n := by rw [hn]; show 2 ^ (n + 1) = _; rw [pow_succ, mul_comm]
    have hg : ((2 : ℝ) ^ (q - e)) = 2 * (2 ^ n : Nat) := by rw [← pow2_cast (by omega), hd]; push_cast; rfl
    have hx' : x = m ∨ (m % 2 = 1 ∧ 2 ^ n % 2 = 0 ∧ (m : ℝ) - 1 < x ∧ x < m + 1) :=
      hx.imp_right fun ⟨h1, h2, h3⟩ => ⟨h1, by obtain ⟨k, rfl⟩ : ∃ k, n = k + 1 := ⟨n - 1, by omega⟩
                                               rw [pow_succ, Nat.mul_mod_left], h3⟩
    rw [hg]
    unfold roundAt
    rw [if_neg hq, hd]
    dsimp only
    by_cases hrem : m % (2 * 2 ^ n) = 0
    · have hdiv := Nat.div_add_mod m (2 * 2 ^ n)
      obtain rfl : x = m := hx'.resolve_right fun h => by
        have : 2 * 2 ^ n * (m / (2 * 2 ^ n)) = 2 * (2 ^ n * (m / (2 * 2 ^ n))) := by ring
        omega
      have hval : (m : ℝ) = (m / (2 * 2 ^ n) : Nat) * (2 * (2 ^ n : Nat)) := by
        have hm : m = m / (2 * 2 ^ n) * (2 * 2 ^ n) := by rw [mul_comm]; omega
        exact_mod_cast hm
      rw [if_pos hrem]
      exact ⟨nearGrid_exact (by positivity) hval, by simp only [Bool.false_eq_true, false_iff, not_not]; exact hval⟩
    · obtain ⟨⟨hup, hdown⟩, hne, hne'⟩ := nearGrid_div (Nat.two_pow_pos n) hx' hrem
      rw [if_neg hrem]
      simp only [decide_eq_true_eq, true_iff]
      split
      · next h => exact ⟨hup h, hne'⟩
      · next h => exact ⟨hdown h, hne⟩

/-- The exponent of the last place of a format's least numbers: its least positive number is 2 to the power of it (R131). -/
def minExp (F : FFmt) : Int := 1 - F.bias - F.mb

/-- The multiple of a power of two nearest to t, of a significand that fills the format's places, is the nearest magnitude code (R137). -/
theorem nearMag_of_nearGrid {mb d r : Nat} {t : ℝ} (hmb : 1 ≤ mb) (hnear : NearGrid t (2 ^ d) r) (hmax : t ≤ 2 ^ (mb + 1) * 2 ^ d)
    (hmin : d = 0 ∨ (2 ^ mb * 2 ^ d : ℝ) ≤ t) : NearMag mb t (d * 2 ^ mb + r) ∧ (magUnits mb (d * 2 ^ mb + r) : ℝ) = r * 2 ^ d := by
  have hd : (0 : ℝ) < 2 ^ d := by positivity
  have hdouble : 2 ^ (mb + 1) = 2 * 2 ^ mb := by rw [pow_succ, mul_comm]
  have hpos := Nat.two_pow_pos mb
  have hr : r ≤ 2 ^ (mb + 1) := by
    have h : (2 * r - 1 : ℝ) ≤ 2 * 2 ^ (mb + 1) := le_of_mul_le_mul_right (by linarith [hnear.lower]) hd
    have h' : 2 * r ≤ 2 * 2 ^ (mb + 1) + 1 := by exact_mod_cast (show (2 * r : ℝ) ≤ 2 * 2 ^ (mb + 1) + 1 by linarith)
    omega
  have hfull : d = 0 ∨ 2 ^ mb ≤ r := hmin.imp_right fun h => by
    have h1 : (2 * 2 ^ mb : ℝ) ≤ 2 * r + 1 := le_of_mul_le_mul_right (by linarith [hnear.upper]) hd
    have h2 : 2 * 2 ^ mb ≤ 2 * r + 1 := by exact_mod_cast h1
    omega
  have hval : (magUnits mb (d * 2 ^ mb + r) : ℝ) = r * 2 ^ d := by rw [magUnits_scaled hr hfull]; push_cast; rfl
  have hparity : (d * 2 ^ mb + r) % 2 = r % 2 := by
    obtain ⟨k, rfl⟩ : ∃ k, mb = k + 1 := ⟨mb - 1, by omega⟩
    rw [pow_succ, ← mul_assoc, Nat.mul_add_mod_self_right]
  refine ⟨?_, hval⟩
  have hnext : (r + 1 : ℝ) * 2 ^ d ≤ magUnits mb (d * 2 ^ mb + r + 1) ∧
      ((magUnits mb (d * 2 ^ mb + r + 1) : ℝ) = (r + 1) * 2 ^ d ∨ (t : ℝ) ≤ r * 2 ^ d) := by
    rcases hr.eq_or_lt with htop | hlt
    · have h1 : d * 2 ^ mb + r + 1 = (d + 1) * 2 ^ mb + (2 ^ mb + 1) := by rw [htop, hdouble]; ring
      have h2 : (magUnits mb (d * 2 ^ mb + r + 1) : ℝ) = (r + 2) * 2 ^ d := by
        rw [h1, magUnits_scaled (by omega) (.inr (by omega)), htop, hdouble]
        push_cast
        ring
      refine ⟨by rw [h2]; linarith, .inr ?_⟩
      rw [htop]
      push_cast
      exact hmax
    · have h2 := magUnits_scaled (mb := mb) (d := d) (r := r + 1) hlt (hfull.imp_right (by omega))
      have h3 : (magUnits mb (d * 2 ^ mb + r + 1) : ℝ) = (r + 1) * 2 ^ d := by rw [Nat.add_assoc, h2]; push_cast; rfl
      exact ⟨h3.ge, .inl h3⟩
  have hprev (b : Nat) (hb : d * 2 ^ mb + r = b + 1) : (magUnits mb b : ℝ) = (r - 1) * 2 ^ d ∨
      ((magUnits mb b : ℝ) < r * 2 ^ d ∧ (r : ℝ) * 2 ^ d ≤ t) := by
    rcases hmin with rfl | hlow
    · obtain ⟨k, rfl⟩ : ∃ k, r = k + 1 := ⟨r - 1, by omega⟩
      refine .inl ?_
      obtain rfl : b = 0 * 2 ^ mb + k := by omega
      rw [magUnits_scaled (by omega) (.inl rfl)]
      push_cast
      ring
    · rcases hfull with h0 | hfull
      · subst h0
        obtain ⟨k, rfl⟩ : ∃ k, r = k + 1 := ⟨r - 1, by omega⟩
        refine .inl ?_
        obtain rfl : b = 0 * 2 ^ mb + k := by omega
        rw [magUnits_scaled (by omega) (.inl rfl)]
        push_cast
        ring
      · rcases hfull.eq_or_lt with hbot | hlt
        · refine .inr ⟨?_, by rw [← hbot]; push_cast; exact hlow⟩
          rw [← hval]
          exact_mod_cast magUnits_strictMono mb (by omega)
        · obtain ⟨k, rfl⟩ : ∃ k, r = k + 1 := ⟨r - 1, by omega⟩
          refine .inl ?_
          obtain rfl : b = d * 2 ^ mb + k := by omega
          rw [magUnits_scaled (by omega) (.inr (by omega))]
          push_cast
          ring
  obtain ⟨hnextle, hnexteq⟩ := hnext
  constructor
  · rw [hval]; linarith [hnear.upper]
  · rw [hval, hparity]
    intro he
    rcases hnexteq with h | h
    · exact hnear.upperEven (by linarith)
    · exfalso; linarith
  · intro b hb
    rw [hval]
    rcases hprev b hb with h | ⟨h, h'⟩
    · linarith [hnear.lower]
    · linarith
  · intro b hb
    rw [hval, hparity]
    intro he
    rcases hprev b hb with h | ⟨h, h'⟩
    · exact hnear.lowerEven (by linarith)
    · exfalso; linarith

/-- roundMag gives the nearest magnitude code, and tells whether it differs (R137). -/
theorem roundMag_near {F : FFmt} (hmb : 1 ≤ F.mb) (neg : Bool) {m : Nat} {e : Int} {x : ℝ} (hm : m ≠ 0) (hx : Sticky F.mb m x) :
    let t := x * 2 ^ (e - minExp F)
    let c := roundMag F neg m e .rne
    NearMag F.mb t c.1 ∧ (c.2 = true ↔ t ≠ magUnits F.mb c.1) := by
  intro t c
  obtain ⟨-, -, hlen⟩ := bitLen_bounds hm
  obtain ⟨hlow, hhigh⟩ := hx.bounds hm
  have hqdef : quantum F m e = max ((bitLen m : Nat) + e - F.mb - 1) (minExp F) := rfl
  set q := quantum F m e
  obtain ⟨d, hd⟩ : ∃ d : Nat, q - minExp F = d := ⟨(q - minExp F).toNat, by omega⟩
  obtain ⟨hgrid, hinexact⟩ := roundAt_near (e := e) (q := q) neg (x := x)
    (hx.imp_right fun ⟨h1, h2, h3⟩ => ⟨h1, by omega, h3⟩)
  have hc : c = (d * 2 ^ F.mb + (roundAt neg m e q .rne).1, (roundAt neg m e q .rne).2) := by
    show ((q - minExp F).toNat * 2 ^ F.mb + (roundAt neg m e q .rne).1, (roundAt neg m e q .rne).2) = _
    rw [hd, Int.toNat_natCast]
  set r := (roundAt neg m e q .rne).1
  have hscale : (2 : ℝ) ^ (q - e) * 2 ^ (e - minExp F) = 2 ^ d := by
    rw [← zpow_add₀ two_ne_zero, show q - e + (e - minExp F) = d by omega, zpow_natCast]
  have ha : (0 : ℝ) < 2 ^ (e - minExp F) := by positivity
  have hgrid' := hgrid.scale ha
  rw [hscale] at hgrid'
  have hmax : t ≤ 2 ^ (F.mb + 1) * 2 ^ d :=
    calc t ≤ 2 ^ bitLen m * 2 ^ (e - minExp F) := mul_le_mul_of_nonneg_right hhigh ha.le
      _ = 2 ^ ((bitLen m : Int) + (e - minExp F)) := by rw [zpow_add₀ two_ne_zero, zpow_natCast]
      _ ≤ 2 ^ (((F.mb + 1 : Nat) : Int) + d) := zpow_le_zpow_right₀ one_le_two (by omega)
      _ = 2 ^ (F.mb + 1) * 2 ^ d := by rw [zpow_add₀ two_ne_zero, zpow_natCast, zpow_natCast]
  have hmin : d = 0 ∨ (2 ^ F.mb * 2 ^ d : ℝ) ≤ t := by
    refine or_iff_not_imp_left.2 fun hd0 => ?_
    calc (2 : ℝ) ^ F.mb * 2 ^ d = 2 ^ (((bitLen m - 1 : Nat) : Int) + (e - minExp F)) := by
          rw [show ((bitLen m - 1 : Nat) : Int) + (e - minExp F) = (F.mb : Int) + d by omega, zpow_add₀ two_ne_zero, zpow_natCast, zpow_natCast]
      _ = 2 ^ (bitLen m - 1) * 2 ^ (e - minExp F) := by rw [zpow_add₀ two_ne_zero, zpow_natCast]
      _ ≤ t := mul_le_mul_of_nonneg_right hlow ha.le
  obtain ⟨hnear, hval⟩ := nearMag_of_nearGrid hmb hgrid' hmax hmin
  rw [hc]
  refine ⟨hnear, ?_⟩
  rw [hinexact, hval, ← hscale, ← mul_assoc]
  exact (mul_left_injective₀ ha.ne').ne_iff.symm

/-! ## Formats with an infinity (R131, R132) -/

/-- A format with infinities and NaNs is laid out by its two widths: they give the bias, the largest number and the canonical NaN. -/
structure Ieee (F : FFmt) : Prop where
  two_le_eb : 2 ≤ F.eb
  one_le_mb : 1 ≤ F.mb
  bias_succ : F.bias + 1 = 2 ^ (F.eb - 1)
  top       : F.maxMag + 1 = (2 ^ F.eb - 1) * 2 ^ F.mb
  hasInf    : F.hasInf = true
  hasNan    : F.hasNan = true
  canon_eq  : F.canon = Spec.quietNaN F.eb F.mb

theorem ieee_fp32 : Ieee (ffmt fmtFP32) := ⟨by decide, by decide, by decide, by decide, rfl, rfl, by decide⟩
theorem ieee_fp16 : Ieee (ffmt fmtFP16) := ⟨by decide, by decide, by decide, by decide, rfl, rfl, by decide⟩
theorem ieee_bf16 : Ieee (ffmt fmtBF16) := ⟨by decide, by decide, by decide, by decide, rfl, rfl, by decide⟩

/-- The three codes of W: FP32, FP16, and BF16 for any other (R192). -/
theorem fpFmt_cases (w : BitVec 2) : (w = 0#2 ∧ fpFmt w = fmtFP32) ∨ (w = 1#2 ∧ fpFmt w = fmtFP16) ∨
    (w ≠ 0#2 ∧ w ≠ 1#2 ∧ fpFmt w = fmtBF16) := by
  unfold fpFmt
  by_cases h0 : w = 0#2
  · exact .inl ⟨h0, if_pos h0⟩
  · by_cases h1 : w = 1#2
    · exact .inr (.inl ⟨h1, by rw [if_neg h0, if_pos h1]⟩)
    · exact .inr (.inr ⟨h0, h1, by rw [if_neg h0, if_neg h1]⟩)

theorem ieee_fpFmt (w : BitVec 2) : Ieee (ffmt (fpFmt w)) := by
  rcases fpFmt_cases w with ⟨-, h⟩ | ⟨-, h⟩ | ⟨-, -, h⟩ <;> rw [h]
  · exact ieee_fp32
  · exact ieee_fp16
  · exact ieee_bf16

theorem fpBits_eq (w : BitVec 2) : Spec.fpBits w = ((ffmt (fpFmt w)).eb, (ffmt (fpFmt w)).mb) := by
  unfold Spec.fpBits
  rcases fpFmt_cases w with ⟨hw, h⟩ | ⟨hw, h⟩ | ⟨h0, h1, h⟩ <;> rw [h]
  · rw [if_pos hw]; rfl
  · subst hw; rfl
  · rw [if_neg h0, if_neg h1]; rfl

theorem fpWidth_eq (w : BitVec 2) : fpWidth w = 1 + (ffmt (fpFmt w)).eb + (ffmt (fpFmt w)).mb := by
  unfold fpWidth
  rcases fpFmt_cases w with ⟨-, h⟩ | ⟨-, h⟩ | ⟨-, -, h⟩ <;> rw [h] <;> rfl

/-! ## Sign and magnitude of a code -/

section
variable {F : FFmt}

theorem magOf_lt (x : Nat) : magOf F x < 2 ^ (F.eb + F.mb) := Nat.mod_lt _ (Nat.two_pow_pos _)

theorem negative_eq (x : Nat) : Spec.negative F.eb F.mb x = signOf F x := (Nat.testBit_eq_decide_div_mod_eq).symm

theorem field_eq (x : Nat) : x / 2 ^ F.mb % 2 ^ F.eb = magOf F x / 2 ^ F.mb := by
  unfold magOf
  rw [Nat.add_comm, pow_add, Nat.mod_mul_right_div_self]

theorem fraction_eq (x : Nat) : x % 2 ^ F.mb = magOf F x % 2 ^ F.mb := by
  unfold magOf
  rw [Nat.mod_mod_of_dvd _ (pow_dvd_pow 2 (Nat.le_add_left F.mb F.eb))]

theorem signOf_withSign (neg : Bool) {mag : Nat} (h : mag < 2 ^ (F.eb + F.mb)) : signOf F (withSign F neg mag) = neg := by
  unfold signOf withSign
  cases neg
  · exact Nat.testBit_lt_two_pow h
  · rw [if_pos rfl, Nat.testBit_two_pow_add_eq, Nat.testBit_lt_two_pow h]
    rfl

theorem magOf_withSign (neg : Bool) {mag : Nat} (h : mag < 2 ^ (F.eb + F.mb)) : magOf F (withSign F neg mag) = mag := by
  unfold magOf withSign
  cases neg
  · exact Nat.mod_eq_of_lt h
  · rw [if_pos rfl, Nat.add_mod_left, Nat.mod_eq_of_lt h]

theorem withSign_lt (neg : Bool) {mag : Nat} (h : mag < 2 ^ (F.eb + F.mb)) : withSign F neg mag < 2 ^ (1 + F.eb + F.mb) := by
  rw [Nat.add_assoc, Nat.add_comm, pow_succ]
  unfold withSign
  split <;> omega

theorem withSign_sign_mag {x : Nat} (h : x < 2 ^ (1 + F.eb + F.mb)) : withSign F (signOf F x) (magOf F x) = x := by
  rw [Nat.add_assoc, Nat.add_comm, pow_succ] at h
  have hdiv := Nat.div_add_mod x (2 ^ (F.eb + F.mb))
  have hlt : x / 2 ^ (F.eb + F.mb) < 2 := (Nat.div_lt_iff_lt_mul (Nat.two_pow_pos _)).2 (by omega)
  have hsign : signOf F x = decide (x / 2 ^ (F.eb + F.mb) % 2 = 1) := Nat.testBit_eq_decide_div_mod_eq
  unfold withSign magOf
  rw [hsign]
  rcases Nat.lt_succ_iff_lt_or_eq.1 hlt with h0 | h1
  · have h0 : x / 2 ^ (F.eb + F.mb) = 0 := Nat.lt_one_iff.1 h0
    rw [h0, Nat.mul_zero] at hdiv
    simp only [h0, Nat.zero_mod, zero_ne_one, decide_false, Bool.false_eq_true, if_false]
    omega
  · rw [h1] at hdiv
    simp only [h1, Nat.mod_succ, decide_true, if_true]
    omega

/-- The sign that a sign bit stands for. -/
def signUnit (neg : Bool) : Int := if neg then -1 else 1

theorem signUnit_bne (a b : Bool) : signUnit (a != b) = signUnit a * signUnit b := by cases a <;> cases b <;> rfl

theorem signUnit_mul_natAbs (neg : Bool) (u : Nat) : (signUnit neg * u).natAbs = u := by cases neg <;> simp [signUnit]

theorem signUnit_mul_neg_iff (neg : Bool) {u : Nat} (hu : u ≠ 0) : signUnit neg * u < 0 ↔ neg = true := by
  cases neg
  · simp [signUnit]
  · simp [signUnit, Nat.pos_of_ne_zero hu]

theorem signUnit_not (a : Bool) : signUnit (!a) = -signUnit a := by cases a <;> rfl

end

section
variable {F : FFmt} (hF : Ieee F)
include hF

theorem Ieee.maxMag_lt : F.maxMag + 1 < 2 ^ (F.eb + F.mb) := by
  rw [hF.top, pow_add]
  exact Nat.mul_lt_mul_of_pos_right (Nat.sub_lt (Nat.two_pow_pos _) one_pos) (Nat.two_pow_pos _)

/-- The codes above the largest number are those with the highest exponent field. -/
theorem Ieee.maxMag_lt_magOf (x : Nat) : F.maxMag < magOf F x ↔ magOf F x / 2 ^ F.mb = 2 ^ F.eb - 1 := by
  have hlt := magOf_lt (F := F) x
  rw [pow_add] at hlt
  have htop : magOf F x / 2 ^ F.mb < 2 ^ F.eb := (Nat.div_lt_iff_lt_mul (Nat.two_pow_pos _)).2 hlt
  have hle : 2 ^ F.eb - 1 ≤ magOf F x / 2 ^ F.mb ↔ (2 ^ F.eb - 1) * 2 ^ F.mb ≤ magOf F x := Nat.le_div_iff_mul_le (Nat.two_pow_pos _)
  rw [← hF.top] at hle
  omega

/-- The number that a code stands for: its magnitude with its sign (R131). -/
theorem Ieee.units_eq (x : Nat) : Spec.units F.eb F.mb x =
    if F.maxMag < magOf F x then none else some (signUnit (signOf F x) * magUnits F.mb (magOf F x)) := by
  have hneg : x / 2 ^ (F.eb + F.mb) % 2 = 1 ↔ signOf F x = true := by
    rw [← negative_eq, Spec.negative, decide_eq_true_eq]
  have hmag : (if magOf F x / 2 ^ F.mb = 0 then magOf F x % 2 ^ F.mb
      else (2 ^ F.mb + magOf F x % 2 ^ F.mb) * 2 ^ (magOf F x / 2 ^ F.mb - 1)) = magUnits F.mb (magOf F x) := by
    unfold magUnits
    simp only [Nat.div_eq_zero_iff_lt (Nat.two_pow_pos F.mb)]
    split
    · next h => exact Nat.mod_eq_of_lt h
    · rfl
  unfold Spec.units signUnit
  dsimp only
  rw [field_eq, fraction_eq, hmag]
  simp only [hF.maxMag_lt_magOf, hneg]
  split
  · rfl
  · split <;> simp

theorem Ieee.units_withSign (neg : Bool) {mag : Nat} (h : mag ≤ F.maxMag) :
    Spec.units F.eb F.mb (withSign F neg mag) = some (signUnit neg * magUnits F.mb mag) := by
  have hlt : mag < 2 ^ (F.eb + F.mb) := by have := hF.maxMag_lt; omega
  rw [hF.units_eq, magOf_withSign neg hlt, signOf_withSign neg hlt, if_neg (Nat.not_lt.2 h)]

theorem Ieee.magOf_le_of_units {x : Nat} {p : Int} (h : Spec.units F.eb F.mb x = some p) :
    magOf F x ≤ F.maxMag ∧ p = signUnit (signOf F x) * magUnits F.mb (magOf F x) := by
  rw [hF.units_eq] at h
  split at h
  · cases h
  · next hle => exact ⟨Nat.not_lt.1 hle, (Option.some.inj h).symm⟩

theorem Ieee.infinity_eq (neg : Bool) : Spec.infinity F.eb F.mb neg = withSign F neg (F.maxMag + 1) := by
  unfold Spec.infinity withSign
  rw [hF.top]
  split <;> omega

theorem Ieee.units_infinity (neg : Bool) : Spec.units F.eb F.mb (Spec.infinity F.eb F.mb neg) = none := by
  rw [hF.infinity_eq, hF.units_eq, magOf_withSign neg hF.maxMag_lt, if_pos (Nat.lt_succ_self _)]

/-- The NaNs lie above the infinity (R131). -/
theorem Ieee.isNaN_iff (x : Nat) : Spec.isNaN F.eb F.mb x ↔ F.maxMag + 1 < magOf F x := by
  unfold Spec.isNaN
  have hiff := hF.maxMag_lt_magOf x
  rw [field_eq, fraction_eq, ← hiff]
  have hdiv := Nat.div_add_mod (magOf F x) (2 ^ F.mb)
  constructor
  · rintro ⟨hlt, hne⟩
    have hq := hiff.1 hlt
    rw [hq, Nat.mul_comm, ← hF.top] at hdiv
    omega
  · intro hlt
    have hq := hiff.1 (by omega)
    rw [hq, Nat.mul_comm, ← hF.top] at hdiv
    exact ⟨by omega, by omega⟩

/-! ## The value of a code -/

theorem Ieee.valOf_nan {x : Nat} (h : Spec.isNaN F.eb F.mb x) : ∃ sig, valOf F x = .nan sig := by
  rw [hF.isNaN_iff] at h
  unfold valOf
  dsimp only
  rw [if_pos (by omega), if_neg (by omega)]
  exact ⟨_, rfl⟩

theorem Ieee.valOf_inf {x : Nat} (h : magOf F x = F.maxMag + 1) : valOf F x = .inf (signOf F x) := by
  unfold valOf
  dsimp only
  rw [if_pos (by omega), if_pos ⟨hF.hasInf, h⟩]

theorem Ieee.valOf_infinity (neg : Bool) : valOf F (Spec.infinity F.eb F.mb neg) = .inf neg := by
  rw [hF.infinity_eq, hF.valOf_inf (magOf_withSign neg hF.maxMag_lt), signOf_withSign neg hF.maxMag_lt]

omit hF in
/-- A finite code has a significand of the format's places, at an exponent from that of its least numbers on. -/
theorem valOf_fin {x : Nat} (h : magOf F x ≤ F.maxMag) : ∃ (m : Nat) (e : Int), valOf F x = .fin (signOf F x) m e ∧
    (m : ℝ) * 2 ^ (e - minExp F) = magUnits F.mb (magOf F x) ∧ m < 2 ^ (F.mb + 1) ∧ minExp F ≤ e := by
  have hpos := Nat.two_pow_pos F.mb
  have hdouble : 2 ^ (F.mb + 1) = 2 * 2 ^ F.mb := by rw [pow_succ, mul_comm]
  unfold valOf magUnits
  dsimp only
  rw [if_neg (Nat.not_lt.2 h)]
  split
  · next hlow =>
    refine ⟨_, _, rfl, ?_, by omega, le_rfl⟩
    rw [show (1 - (F.bias : Int) - F.mb - minExp F) = 0 by unfold minExp; omega, zpow_zero, mul_one]
  · next hlow =>
    have hmod := Nat.mod_lt (magOf F x) hpos
    have hdiv : 0 < magOf F x / 2 ^ F.mb := Nat.div_pos (Nat.not_lt.1 hlow) hpos
    refine ⟨_, _, rfl, ?_, by omega, by unfold minExp; omega⟩
    rw [show ((magOf F x / 2 ^ F.mb : Nat) - (F.bias : Int) - F.mb - minExp F) = ((magOf F x / 2 ^ F.mb - 1 : Nat) : Int) by
      unfold minExp; omega, zpow_natCast]
    push_cast
    rfl

end

/-- The value is the finite number a. -/
def FVal.IsReal (v : FVal) (a : ℝ) : Prop := ∃ (neg : Bool) (m : Nat) (e : Int), v = .fin neg m e ∧ signUnit neg * m * 2 ^ e = a

/-- A finite code is read as a finite value: its number of units, with its sign. -/
theorem Ieee.valOf_of_units {F : FFmt} (hF : Ieee F) {x : Nat} {p : Int} (h : Spec.units F.eb F.mb x = some p) :
    ∃ (m : Nat) (e : Int), valOf F x = .fin (signOf F x) m e ∧ p = signUnit (signOf F x) * p.natAbs ∧
      (p.natAbs : ℝ) = m * 2 ^ (e - minExp F) ∧ m < 2 ^ (F.mb + 1) ∧ minExp F ≤ e := by
  obtain ⟨hle, rfl⟩ := hF.magOf_le_of_units h
  obtain ⟨m, e, hval, hmag, hm, he⟩ := valOf_fin hle
  rw [signUnit_mul_natAbs]
  exact ⟨m, e, hval, rfl, hmag.symm, hm, he⟩

/-- A number of units, from its sign and its magnitude. -/
theorem real_of_units {neg : Bool} {m : Nat} {e u p : Int} (hsign : p = signUnit neg * p.natAbs) (habs : (p.natAbs : ℝ) = m * 2 ^ (e - u)) :
    (signUnit neg * m * 2 ^ e : ℝ) = p * 2 ^ u := by
  rw [hsign, Int.cast_mul, Int.cast_natCast, habs, mul_assoc, mul_assoc, mul_assoc, ← zpow_add₀ two_ne_zero, sub_add_cancel]

theorem significand_eq_zero {m u : Nat} {e : Int} (h : (u : ℝ) = m * 2 ^ e) : m = 0 ↔ u = 0 := by
  rw [← Nat.cast_eq_zero (R := ℝ), ← Nat.cast_eq_zero (R := ℝ) (n := u), h, mul_eq_zero, or_iff_left (zpow_ne_zero e two_ne_zero)]

theorem Ieee.valOf_isReal {F : FFmt} (hF : Ieee F) {x : Nat} {p : Int} (h : Spec.units F.eb F.mb x = some p) :
    (valOf F x).IsReal (p * 2 ^ minExp F) := by
  obtain ⟨m, e, hval, hsign, habs, -⟩ := hF.valOf_of_units h
  exact ⟨_, m, e, hval, real_of_units hsign habs⟩

/-! ## A rounded number as a code (R137, R141) -/

section
variable {F : FFmt} (hF : Ieee F)
include hF

theorem Ieee.top_units : magUnits F.mb F.maxMag = Spec.maxUnits F.eb F.mb ∧
    magUnits F.mb F.maxMag + magUnits F.mb (F.maxMag + 1) = 2 * Spec.maxUnits F.eb F.mb + 2 ^ (2 ^ F.eb - 3) := by
  have hdouble : 2 ^ (F.mb + 1) = 2 * 2 ^ F.mb := by rw [pow_succ, mul_comm]
  have hpos := Nat.two_pow_pos F.mb
  have heb : 2 ^ 2 ≤ 2 ^ F.eb := Nat.pow_le_pow_right (by omega) hF.two_le_eb
  obtain ⟨d, hd⟩ : ∃ d, 2 ^ F.eb = d + 3 := ⟨2 ^ F.eb - 3, by omega⟩
  have htop : F.maxMag + 1 = d * 2 ^ F.mb + 2 ^ (F.mb + 1) := by
    rw [hF.top, hd, hdouble, show d + 3 - 1 = d + 2 from rfl]
    ring
  have h1 : magUnits F.mb F.maxMag = (2 ^ (F.mb + 1) - 1) * 2 ^ d := by
    rw [show F.maxMag = d * 2 ^ F.mb + (2 ^ (F.mb + 1) - 1) by omega]
    exact magUnits_scaled (by omega) (.inr (by omega))
  have h2 : magUnits F.mb (F.maxMag + 1) = 2 ^ (F.mb + 1) * 2 ^ d := by
    rw [htop]
    exact magUnits_scaled le_rfl (.inr (by omega))
  unfold Spec.maxUnits
  rw [hd, Nat.add_sub_cancel, h1, h2]
  refine ⟨rfl, ?_⟩
  obtain ⟨u, hu⟩ : ∃ u, 2 ^ (F.mb + 1) = u + 1 := ⟨2 ^ (F.mb + 1) - 1, by omega⟩
  rw [hu, Nat.add_sub_cancel]
  ring

/-- A finite code's number of units is at most that of the largest number. -/
theorem Ieee.natAbs_le_maxUnits {x : Nat} {p : Int} (hp : Spec.units F.eb F.mb x = some p) :
    p.natAbs ≤ Spec.maxUnits F.eb F.mb := by
  obtain ⟨hle, rfl⟩ := hF.magOf_le_of_units hp
  rw [signUnit_mul_natAbs, ← hF.top_units.1]
  exact (magUnits_strictMono F.mb).monotone hle

/-- A number is rounded beyond the largest one where it is not below the midpoint to the next. -/
theorem Ieee.maxMag_lt_iff {t : ℝ} {c : Nat} (h : NearMag F.mb t c) :
    F.maxMag < c ↔ ((2 * Spec.maxUnits F.eb F.mb + 2 ^ (2 ^ F.eb - 3) : Nat) : ℝ) ≤ 2 * t := by
  have hedge : ((2 * Spec.maxUnits F.eb F.mb + 2 ^ (2 ^ F.eb - 3) : Nat) : ℝ) =
      magUnits F.mb F.maxMag + magUnits F.mb (F.maxMag + 1) := by exact_mod_cast hF.top_units.2.symm
  have hmono := (magUnits_strictMono F.mb).monotone
  have hodd : F.maxMag % 2 = 1 := by
    have htop := hF.top
    obtain ⟨k, hk⟩ : ∃ k, F.mb = k + 1 := ⟨F.mb - 1, by have := hF.one_le_mb; omega⟩
    rw [hk, pow_succ, ← mul_assoc] at htop
    omega
  rw [hedge]
  constructor
  · intro hc
    have hc1 : (magUnits F.mb (F.maxMag + 1) : ℝ) ≤ magUnits F.mb c := by exact_mod_cast hmono hc
    linarith [(h.lower_of_lt hc).1]
  · intro hle
    by_contra hc
    obtain ⟨hup, heven⟩ := h.upper_of_lt (Nat.lt_succ_of_le (Nat.not_lt.1 hc))
    have hc1 : (magUnits F.mb c : ℝ) ≤ magUnits F.mb F.maxMag := by exact_mod_cast hmono (Nat.not_lt.1 hc)
    have hceq : c = F.maxMag := (magUnits_strictMono F.mb).injective (by exact_mod_cast (show (magUnits F.mb c : ℝ) = magUnits F.mb F.maxMag by
      linarith))
    have := heven (by push_cast at *; linarith)
    omega

/-- The code of a rounded number: its nearest magnitude with its sign, the infinity beyond the largest number. -/
def roundedCode (F : FFmt) (neg : Bool) (c : Nat) : Nat := withSign F neg (if F.maxMag < c then F.maxMag + 1 else c)

omit hF in
/-- A number of the other sign is no nearer than zero. -/
theorem nearest_signed {mb c : Nat} {t : ℝ} (ht : 0 ≤ t) (h : NearMag mb t c) (neg b : Bool) (z : Nat) :
    |(signUnit neg * magUnits mb c : ℝ) - signUnit neg * t| ≤ |(signUnit b * magUnits mb z : ℝ) - signUnit neg * t| ∧
    ((signUnit b * magUnits mb z : ℝ) ≠ signUnit neg * magUnits mb c →
      |(signUnit b * magUnits mb z : ℝ) - signUnit neg * t| = |(signUnit neg * magUnits mb c : ℝ) - signUnit neg * t| → c % 2 = 0) := by
  have habs (v : ℝ) : |(signUnit neg : ℝ) * v - signUnit neg * t| = |v - t| := by
    rw [← mul_sub, abs_mul]
    cases neg <;> simp [signUnit]
  by_cases hb : b = neg
  · subst hb
    rw [habs, habs]
    obtain ⟨hle, heven⟩ := h.nearest z
    exact ⟨hle, fun hne => heven fun he => hne (by rw [he])⟩
  · have hb' : b = !neg := by cases b <;> cases neg <;> simp_all
    have hopp : |(signUnit b : ℝ) * magUnits mb z - signUnit neg * t| = magUnits mb z + t := by
      rw [hb', signUnit_not, Int.cast_neg, neg_mul, ← mul_neg, habs, ← neg_add', abs_neg, abs_of_nonneg (by positivity)]
    obtain ⟨hle, heven⟩ := h.nearest 0
    rw [magUnits_zero, Nat.cast_zero, zero_sub, abs_neg, abs_of_nonneg ht] at hle
    rw [hopp, habs]
    have hz : (0 : ℝ) ≤ magUnits mb z := Nat.cast_nonneg _
    refine ⟨by linarith, fun hne he => ?_⟩
    have hz0 : (magUnits mb z : ℝ) = 0 := by linarith
    refine heven ?_ ?_
    · intro h0
      rw [magUnits_zero] at h0
      rw [hz0, ← h0] at hne
      simp at hne
    · rw [magUnits_zero, Nat.cast_zero, zero_sub, abs_neg, abs_of_nonneg ht]
      linarith

theorem Ieee.rounds_of_nearMag {neg : Bool} {t : ℝ} {c : Nat} {k n : Int} (hk : 0 < k) (ht : 0 ≤ t) (hn : (n : ℝ) = signUnit neg * t * k)
    (h : NearMag F.mb t c) : Spec.Rounds F.eb F.mb k n (roundedCode F neg c) ∧
      (Spec.Exact F.eb F.mb k n (roundedCode F neg c) ↔ c ≤ F.maxMag ∧ t = magUnits F.mb c) := by
  have hk' : (0 : ℝ) < k := by exact_mod_cast hk
  have hmag : (if F.maxMag < c then F.maxMag + 1 else c) < 2 ^ (F.eb + F.mb) := by
    have := hF.maxMag_lt
    split <;> omega
  have hnabs : ((n.natAbs : Nat) : ℝ) = t * k := by
    rw [Nat.cast_natAbs, Int.cast_abs, hn, abs_mul, abs_mul, abs_of_nonneg ht, abs_of_pos hk']
    cases neg <;> simp [signUnit]
  have hkabs : ((k.natAbs : Nat) : ℝ) = k := by rw [Nat.cast_natAbs, abs_of_pos hk]
  have hedge : (2 * Spec.maxUnits F.eb F.mb + 2 ^ (2 ^ F.eb - 3)) * k.natAbs ≤ 2 * n.natAbs ↔ F.maxMag < c := by
    rw [hF.maxMag_lt_iff h, ← Nat.cast_le (α := ℝ), Nat.cast_mul, Nat.cast_mul, hnabs, hkabs, Nat.cast_ofNat, ← mul_assoc]
    exact mul_le_mul_iff_left₀ hk'
  have hneg (hn0 : n ≠ 0) : neg = decide (n < 0) := by
    have ht' : 0 < t := ht.lt_of_ne fun h0 => hn0 (by rw [← h0, mul_zero, zero_mul] at hn; exact_mod_cast hn)
    have hneg : n < 0 ↔ (n : ℝ) < 0 := Int.cast_lt_zero.symm
    have htk := mul_pos ht' hk'
    cases neg <;> simp only [signUnit, hneg, hn, Bool.false_eq_true, if_false, if_true, Int.cast_one, Int.cast_neg, one_mul, neg_mul]
    · exact (decide_eq_false (not_lt.2 htk.le)).symm
    · exact (decide_eq_true (neg_neg_of_pos htk)).symm
  unfold roundedCode
  refine ⟨⟨fun hlt => ?_, fun hge => ?_, fun hn0 => ?_⟩, ?_⟩
  · have hc : ¬F.maxMag < c := fun hc => absurd (hedge.2 hc) (Nat.not_le.2 hlt)
    rw [if_neg hc]
    refine ⟨_, hF.units_withSign neg (Nat.not_lt.1 hc), fun z hz u hu => ?_⟩
    obtain ⟨-, rfl⟩ := hF.magOf_le_of_units hu
    obtain ⟨hle, heven⟩ := nearest_signed ht h neg (signOf F z) (magOf F z)
    have hdist (v : Int) : (((v * k - n).natAbs : Nat) : ℝ) = |(v : ℝ) - signUnit neg * t| * k := by
      rw [Nat.cast_natAbs, Int.cast_abs, Int.cast_sub, Int.cast_mul, hn, ← sub_mul, abs_mul, abs_of_pos hk']
    constructor
    · rw [← Nat.cast_le (α := ℝ), hdist, hdist]
      push_cast
      exact mul_le_mul_of_nonneg_right hle hk'.le
    · intro hne he
      rw [← Nat.cast_inj (R := ℝ), hdist, hdist] at he
      have heven := heven (by exact_mod_cast hne) (by push_cast at he; exact mul_right_cancel₀ hk'.ne' he)
      unfold withSign
      split
      · obtain ⟨j, hj⟩ : ∃ j, F.eb + F.mb = j + 1 := ⟨F.eb + F.mb - 1, by have := hF.one_le_mb; omega⟩
        rw [hj, pow_succ]
        omega
      · exact heven
  · have hc := hedge.1 hge
    have hn0 : n ≠ 0 := by
      rintro rfl
      have := hk.ne'
      have h3 := Nat.two_pow_pos (2 ^ F.eb - 3)
      have : 0 < (2 * Spec.maxUnits F.eb F.mb + 2 ^ (2 ^ F.eb - 3)) * k.natAbs := Nat.mul_pos (by omega) (by omega)
      omega
    rw [if_pos hc, hF.infinity_eq, hneg hn0]
  · rw [negative_eq, signOf_withSign neg hmag, hneg hn0]
  · by_cases hc : F.maxMag < c
    · rw [if_pos hc, ← hF.infinity_eq]
      unfold Spec.Exact
      rw [hF.units_infinity]
      exact ⟨fun ⟨_, hv, _⟩ => (nomatch hv), fun hle => absurd hle.1 (Nat.not_le.2 hc)⟩
    · rw [if_neg hc]
      unfold Spec.Exact
      rw [hF.units_withSign neg (Nat.not_lt.1 hc)]
      have hs : (signUnit neg : ℝ) ≠ 0 := by cases neg <;> simp [signUnit]
      have hexact : signUnit neg * magUnits F.mb c * k = n ↔ t = magUnits F.mb c := by
        rw [← Int.cast_inj (α := ℝ), hn]
        push_cast
        rw [mul_left_inj' hk'.ne', mul_right_inj' hs, eq_comm]
      simp only [Option.some.injEq, exists_eq_left', hexact, Nat.not_lt.1 hc, true_and]

/-- cvt_fp of a finite value under RNE: the code of its nearest magnitude, with NX where that differs (R141). -/
theorem Ieee.cvtFp_fin (neg : Bool) {m : Nat} (e : Int) (hm : m ≠ 0) :
    (cvtFp F .rne false false (.fin neg m e)).1 = roundedCode F neg (roundMag F neg m e .rne).1 ∧
    ((cvtFp F .rne false false (.fin neg m e)).2.getLsbD 4 = true ↔
      F.maxMag < (roundMag F neg m e .rne).1 ∨ (roundMag F neg m e .rne).2 = true) := by
  unfold cvtFp roundedCode
  simp only [if_neg hm, Bool.false_eq_true, false_and, if_false, hF.hasInf, overflowInf, Bool.not_false, Bool.and_self, if_true]
  generalize (roundMag F neg m e .rne).1 = c
  generalize (roundMag F neg m e .rne).2 = inexact
  by_cases hc : F.maxMag < c
  · rw [if_pos hc, if_pos hc]
    exact ⟨rfl, by simp only [hc, true_or, iff_true]; decide⟩
  · rw [if_neg hc, if_neg hc]
    refine ⟨rfl, ?_⟩
    simp only [hc, false_or]
    cases inexact <;> by_cases hs : c < 2 ^ F.mb <;> simp [hs, flagIf, fNX, fUF]

omit hF in
theorem cvtFp_zero (rm : Rounding) (sat fout neg : Bool) (e : Int) : cvtFp F rm sat fout (.fin neg 0 e) = (withSign F neg 0, 0#5) := rfl

/-- The conversion under RNE of a value whose significand stands for x rounds the number n / k that x makes, and sets NX where it differs. -/
theorem Ieee.cvtFp_rounds {neg : Bool} {m : Nat} {e : Int} {x : ℝ} {k n : Int} (hx : Sticky F.mb m x) (hk : 0 < k)
    (hn : (n : ℝ) = signUnit neg * (x * 2 ^ (e - minExp F)) * k) :
    let r := cvtFp F .rne false false (.fin neg m e)
    Spec.Rounds F.eb F.mb k n r.1 ∧ (r.2.getLsbD 4 = true ↔ ¬Spec.Exact F.eb F.mb k n r.1) := by
  intro r
  by_cases hm : m = 0
  · subst hm
    obtain rfl : x = 0 := by simpa using hx.resolve_right fun h => by have := h.1; omega
    rw [zero_mul] at hn
    obtain ⟨hround, hexact⟩ := hF.rounds_of_nearMag hk le_rfl hn (nearMag_zero F.mb)
    have hr : r = (roundedCode F neg 0, 0#5) := by unfold roundedCode; rw [if_neg (Nat.not_lt_zero _)]; rfl
    rw [hr, hexact]
    exact ⟨hround, by simp⟩
  · obtain ⟨hnear, hinexact⟩ := roundMag_near hF.one_le_mb neg (e := e) hm hx
    obtain ⟨hcode, hnx⟩ := hF.cvtFp_fin neg e hm
    obtain ⟨hround, hexact⟩ := hF.rounds_of_nearMag hk (mul_nonneg hx.nonneg (by positivity)) hn hnear
    rw [hcode, hnx, hexact, hinexact]
    exact ⟨hround, by rw [not_and_or, Nat.not_le]⟩

end

end Sys2Proof.Machine
end

section
/-! PROOF. The vector instructions of floating-point arithmetic and order (O9; R137, R139, R143, R185, R190, R192 to R195, R198). An operation
on finite values is exact (FVal.IsReal), or stands for its exact value with a last bit (Sticky), and its delivery rounds that once. -/

namespace Sys2Proof.Machine

/-! ## Exact operations on finite values (R139, R192) -/

/-- A significand at a lower exponent. -/
theorem cast_mul_pow2 (m : Nat) {e q : Int} (h : q ≤ e) : ((m * pow2 (e - q) : Nat) : ℝ) * 2 ^ q = m * 2 ^ e := by
  rw [Nat.cast_mul, pow2_cast (by omega), mul_assoc, ← zpow_add₀ two_ne_zero, sub_add_cancel]

theorem ite_neg_eq (neg : Bool) (u : Int) : (if neg then -u else u) = signUnit neg * u := by cases neg <;> simp [signUnit]

theorem signUnit_natAbs (t : Int) : signUnit (decide (t < 0)) * t.natAbs = t := by
  unfold signUnit
  by_cases h : t < 0
  · simp only [h, decide_true, if_true]
    omega
  · simp only [h, decide_false, Bool.false_eq_true, if_false]
    omega

/-- A sum at the lower of two exponents. -/
theorem aligned_sum (s u : Bool) (m k : Nat) (e f : Int) :
    ((signUnit s * (m * pow2 (e - min e f) : Nat) + signUnit u * (k * pow2 (f - min e f) : Nat) : Int) : ℝ) * 2 ^ min e f =
      signUnit s * m * 2 ^ e + signUnit u * k * 2 ^ f := by
  rw [mul_assoc, mul_assoc, ← cast_mul_pow2 m (min_le_left e f), ← cast_mul_pow2 k (min_le_right e f)]
  push_cast
  ring

section
variable {x y z : FVal} {a b d : ℝ}

theorem FVal.IsReal.negate (hx : x.IsReal a) : x.negate.IsReal (-a) := by
  obtain ⟨s, m, e, rfl, rfl⟩ := hx
  refine ⟨!s, m, e, rfl, ?_⟩
  rw [signUnit_not]
  push_cast
  ring

theorem addVal_isReal (rm : Rounding) (hx : x.IsReal a) (hy : y.IsReal b) : (addVal rm x y).1.IsReal (a + b) ∧ (addVal rm x y).2 = 0#5 := by
  obtain ⟨s, m, e, rfl, rfl⟩ := hx
  obtain ⟨u, k, f, rfl, rfl⟩ := hy
  unfold addVal
  dsimp only
  by_cases h0 : m = 0 ∧ k = 0
  · obtain ⟨rfl, rfl⟩ := h0
    rw [if_pos ⟨rfl, rfl⟩]
    exact ⟨⟨_, _, _, rfl, by simp⟩, rfl⟩
  · rw [if_neg h0]
    simp only [ite_neg_eq]
    rw [← aligned_sum]
    generalize (signUnit s * (m * pow2 (e - min e f) : Nat) + signUnit u * (k * pow2 (f - min e f) : Nat) : Int) = t
    by_cases ht : t = 0
    · subst ht
      rw [if_pos rfl]
      exact ⟨⟨_, _, _, rfl, by simp⟩, rfl⟩
    · rw [if_neg ht]
      refine ⟨⟨_, _, _, rfl, ?_⟩, rfl⟩
      rw [← Int.cast_natCast, ← Int.cast_mul, signUnit_natAbs]

theorem mulVal_isReal (hx : x.IsReal a) (hy : y.IsReal b) : (mulVal x y).1.IsReal (a * b) ∧ (mulVal x y).2 = 0#5 := by
  obtain ⟨s, m, e, rfl, rfl⟩ := hx
  obtain ⟨u, k, f, rfl, rfl⟩ := hy
  refine ⟨⟨s != u, m * k, e + f, rfl, ?_⟩, rfl⟩
  rw [signUnit_bne, zpow_add₀ two_ne_zero]
  push_cast
  ring

theorem fmaVal_isReal (rm : Rounding) (hx : x.IsReal a) (hy : y.IsReal b) (hz : z.IsReal d) :
    (fmaVal rm x y z).1.IsReal (a * b + d) ∧ (fmaVal rm x y z).2 = 0#5 := by
  obtain ⟨hmul, hmulf⟩ := mulVal_isReal hx hy
  obtain ⟨hadd, haddf⟩ := addVal_isReal rm hmul hz
  refine ⟨hadd, ?_⟩
  show (mulVal x y).2 ||| (addVal rm (mulVal x y).1 z).2 = 0#5
  rw [hmulf, haddf, BitVec.zero_or]

end

/-! ## NaN operands (R132) -/

theorem addVal_nan_left (rm : Rounding) (sig : Bool) (y : FVal) : (addVal rm (.nan sig) y).1 = .nan false := by cases y <;> rfl
theorem addVal_nan_right (rm : Rounding) (x : FVal) (sig : Bool) : (addVal rm x (.nan sig)).1 = .nan false := by cases x <;> rfl
theorem mulVal_nan_left (sig : Bool) (y : FVal) : (mulVal (.nan sig) y).1 = .nan false := by cases y <;> rfl
theorem mulVal_nan_right (x : FVal) (sig : Bool) : (mulVal x (.nan sig)).1 = .nan false := by cases x <;> rfl
theorem divVal_nan_left (sig : Bool) (y : FVal) : (divVal (.nan sig) y).1 = .nan false := by cases y <;> rfl
theorem divVal_nan_right (x : FVal) (sig : Bool) : (divVal x (.nan sig)).1 = .nan false := by cases x <;> rfl

theorem fmaVal_nan (rm : Rounding) {x y z : FVal} (h : (∃ sig, x = .nan sig) ∨ (∃ sig, y = .nan sig) ∨ ∃ sig, z = .nan sig) :
    (fmaVal rm x y z).1 = .nan false := by
  show (addVal rm (mulVal x y).1 z).1 = .nan false
  rcases h with ⟨sig, rfl⟩ | ⟨sig, rfl⟩ | ⟨sig, rfl⟩
  · rw [mulVal_nan_left, addVal_nan_left]
  · rw [mulVal_nan_right, addVal_nan_left]
  · rw [addVal_nan_right]

/-! ## The delivery of a result (R137, R192) -/

/-- FCTL rounds to nearest and flushes nothing. -/
theorem fctl_plain {k : Word} (h : k.extractLsb' 0 4 = 0#4) : rmOf k = .rne ∧ finOf k = false ∧ foutOf k = false := by
  have hbit (i : Nat) (hi : i < 4) : k.getLsbD i = false := by
    have hg := congrArg (fun v => v.getLsbD i) h
    simpa [hi] using hg
  have hrm : k.extractLsb' 0 2 = 0#2 := by
    refine BitVec.eq_of_getLsbD_eq fun i hi => ?_
    simp [hi, hbit i (by omega)]
  refine ⟨?_, hbit 2 (by omega), hbit 3 (by omega)⟩
  unfold rmOf
  rw [hrm]
  rfl

theorem finCode_off (F : FFmt) (x : Nat) : finCode F false x = x := rfl

theorem inVal_plain (F : FFmt) {k : Word} (h : finOf k = false) (x : Nat) : inVal F k x = valOf F x := by
  unfold inVal
  rw [h, finCode_off]

section
variable {F : FFmt}

/-- The units of a format in the number one (R131). -/
theorem Ieee.oneUnits_eq (hF : Ieee F) : (Spec.oneUnits F.eb F.mb : ℝ) = 2 ^ (-minExp F) := by
  have hbias := hF.bias_succ
  have heb : 2 ^ 1 ≤ 2 ^ (F.eb - 1) := Nat.pow_le_pow_right (by omega) (by have := hF.two_le_eb; omega)
  unfold Spec.oneUnits
  rw [Nat.cast_pow, Nat.cast_ofNat, ← zpow_natCast, show ((2 ^ (F.eb - 1) - 2 + F.mb : Nat) : Int) = -minExp F by unfold minExp; omega]

theorem Ieee.oneUnits_mul (hF : Ieee F) : (Spec.oneUnits F.eb F.mb : ℝ) * 2 ^ minExp F = 1 := by
  rw [hF.oneUnits_eq, ← zpow_add₀ two_ne_zero, neg_add_cancel, zpow_zero]

theorem oneUnits_pos (eb mb : Nat) : (0 : Int) < Spec.oneUnits eb mb := by
  unfold Spec.oneUnits
  positivity

variable (hF : Ieee F)
include hF

theorem Ieee.canon_lt : F.canon < 2 ^ (F.eb + F.mb) := by
  rw [hF.canon_eq, pow_add]
  have h1 : 2 ^ (F.mb - 1) < 2 ^ F.mb := Nat.pow_lt_pow_right (by omega) (by have := hF.one_le_mb; omega)
  have h2 : (2 ^ F.eb - 1) * 2 ^ F.mb + 2 ^ F.mb = 2 ^ F.eb * 2 ^ F.mb := by
    rw [← Nat.succ_mul, Nat.succ_eq_add_one, Nat.sub_add_cancel (Nat.two_pow_pos F.eb)]
  unfold Spec.quietNaN
  omega

theorem Ieee.cvtFp_inf (rm : Rounding) (sat fout neg : Bool) : cvtFp F rm sat fout (.inf neg) = (Spec.infinity F.eb F.mb neg, 0#5) := by
  rw [hF.infinity_eq]
  exact if_pos hF.hasInf

theorem Ieee.cvtFp_nan (rm : Rounding) (sat fout sig : Bool) : (cvtFp F rm sat fout (.nan sig)).1 = Spec.quietNaN F.eb F.mb := hF.canon_eq

/-- A converted value is a code of the format. -/
theorem Ieee.cvtFp_lt (rm : Rounding) (sat fout : Bool) (x : FVal) : (cvtFp F rm sat fout x).1 < 2 ^ (1 + F.eb + F.mb) := by
  have htop := hF.maxMag_lt
  cases x with
  | nan sig => exact hF.canon_lt.trans_le (Nat.pow_le_pow_right (by omega) (by omega))
  | inf neg =>
    rw [hF.cvtFp_inf, hF.infinity_eq]
    exact withSign_lt neg htop
  | fin neg m e =>
    unfold cvtFp
    dsimp only
    split
    · exact withSign_lt neg (Nat.two_pow_pos _)
    · split
      · exact withSign_lt neg (by split <;> omega)
      · split
        · exact withSign_lt neg (Nat.two_pow_pos _)
        · exact withSign_lt neg (by omega)

/-- The conversion under RNE of a finite value, given as a number of units n / k. -/
theorem Ieee.cvtFp_rounds_of_isReal {v : FVal} {k n : Int} (hk : 0 < k) (hv : v.IsReal (n * 2 ^ minExp F / k)) :
    let r := cvtFp F .rne false false v
    Spec.Rounds F.eb F.mb k n r.1 ∧ (r.2.getLsbD 4 = true ↔ ¬Spec.Exact F.eb F.mb k n r.1) := by
  obtain ⟨neg, m, e, rfl, hv⟩ := hv
  have hk' : (k : ℝ) ≠ 0 := by exact_mod_cast hk.ne'
  refine hF.cvtFp_rounds (.inl rfl) hk (mul_right_cancel₀ (zpow_ne_zero (minExp F) two_ne_zero) ?_)
  rw [eq_div_iff hk'] at hv
  rw [← hv, zpow_sub₀ two_ne_zero]
  field_simp

end

theorem deliver_plain (F : FFmt) {k : Word} (hk : k.extractLsb' 0 4 = 0#4) (r : FVal × FFlags) :
    deliver F k r = ((cvtFp F .rne false false r.1).1, r.2 ||| (cvtFp F .rne false false r.1).2) := by
  obtain ⟨hrm, -, hout⟩ := fctl_plain hk
  unfold deliver
  rw [hrm, hout]

/-! ## The arithmetic of a lane (R192) -/

/-- What the arithmetic of R192 makes of the codes x, y and z of a format: the canonical NaN for a NaN among the sources, and the exact result
rounded once, with NX where it differs. -/
structure ArithLane (F : FFmt) (old : Bool) (g : Int → Int → Int → Int → Int × Int) (x y z : Nat) (r : Nat × FFlags) : Prop where
  lt     : r.1 < 2 ^ (1 + F.eb + F.mb)
  nan    : Spec.isNaN F.eb F.mb x ∨ Spec.isNaN F.eb F.mb y ∨ (old = true ∧ Spec.isNaN F.eb F.mb z) → r.1 = Spec.quietNaN F.eb F.mb
  rounds : ∀ p q t, Spec.units F.eb F.mb x = some p → Spec.units F.eb F.mb y = some q →
    (if old then Spec.units F.eb F.mb z = some t else t = 0) →
    let e := g (Spec.oneUnits F.eb F.mb) p q t
    Spec.Rounds F.eb F.mb e.1 e.2 r.1 ∧ (r.2.getLsbD 4 = true ↔ ¬Spec.Exact F.eb F.mb e.1 e.2 r.1)

section
variable {F : FFmt} (hF : Ieee F) {k : Word} (hk : k.extractLsb' 0 4 = 0#4)
include hF hk

/-- The delivery of an operation's value: it is a NaN where a source is, and the exact result where all are finite. -/
theorem arithLane_deliver {old : Bool} {g : Int → Int → Int → Int → Int × Int} {x y z : Nat} {r : FVal × FFlags}
    (hnan : (∃ sig, inVal F k x = .nan sig) ∨ (∃ sig, inVal F k y = .nan sig) ∨ (old = true ∧ ∃ sig, inVal F k z = .nan sig) →
      r.1 = .nan false)
    (hfin : ∀ p q t : Int, (inVal F k x).IsReal (p * 2 ^ minExp F) → (inVal F k y).IsReal (q * 2 ^ minExp F) →
      (if old then (inVal F k z).IsReal (t * 2 ^ minExp F) else t = 0) → let e := g (Spec.oneUnits F.eb F.mb) p q t
      0 < e.1 ∧ r.1.IsReal (e.2 * 2 ^ minExp F / e.1) ∧ r.2 = 0#5) : ArithLane F old g x y z (deliver F k r) := by
  obtain ⟨-, hin, -⟩ := fctl_plain hk
  simp only [inVal_plain F hin] at hnan hfin
  rw [deliver_plain F hk]
  refine ⟨hF.cvtFp_lt .., fun h => ?_, fun p q t hp hq ht => ?_⟩
  · rw [hnan (h.imp hF.valOf_nan (Or.imp hF.valOf_nan (And.imp_right hF.valOf_nan)))]
    exact hF.canon_eq
  · have hz : if old then (valOf F z).IsReal (t * 2 ^ minExp F) else t = 0 := by
      cases old
      · exact ht
      · exact hF.valOf_isReal ht
    obtain ⟨hpos, hreal, hflags⟩ := hfin p q t (hF.valOf_isReal hp) (hF.valOf_isReal hq) hz
    dsimp only
    rw [hflags, BitVec.zero_or]
    exact hF.cvtFp_rounds_of_isReal hpos hreal

theorem opFadd_arith (x y z : Nat) : ArithLane F false (fun _ p q _ => (1, p + q)) x y z (opFadd F k x y z) := by
  refine arithLane_deliver hF hk ?_ fun p q t hx hy _ => ⟨one_pos, ?_⟩
  · rintro (⟨sig, h⟩ | ⟨sig, h⟩ | ⟨h, -⟩)
    · rw [h, addVal_nan_left]
    · rw [h, addVal_nan_right]
    · cases h
  · have hadd := addVal_isReal (rmOf k) hx hy
    rwa [← add_mul, ← Int.cast_add, ← div_one (((p + q : Int) : ℝ) * _), ← Int.cast_one] at hadd

theorem opFsub_arith (x y z : Nat) : ArithLane F false (fun _ p q _ => (1, p - q)) x y z (opFsub F k x y z) := by
  refine arithLane_deliver hF hk ?_ fun p q t hx hy _ => ⟨one_pos, ?_⟩
  · rintro (⟨sig, h⟩ | ⟨sig, h⟩ | ⟨h, -⟩)
    · rw [h, addVal_nan_left]
    · rw [h]
      exact addVal_nan_right ..
    · cases h
  · have hadd := addVal_isReal (rmOf k) hx hy.negate
    rwa [← sub_eq_add_neg, ← sub_mul, ← Int.cast_sub, ← div_one (((p - q : Int) : ℝ) * _), ← Int.cast_one] at hadd

theorem opFmul_arith (x y z : Nat) : ArithLane F false (fun one p q _ => (one, p * q)) x y z (opFmul F k x y z) := by
  refine arithLane_deliver hF hk ?_ fun p q t hx hy _ => ⟨oneUnits_pos .., ?_⟩
  · rintro (⟨sig, h⟩ | ⟨sig, h⟩ | ⟨h, -⟩)
    · rw [h, mulVal_nan_left]
    · rw [h, mulVal_nan_right]
    · cases h
  · have hone := hF.oneUnits_mul
    have hval : (p * 2 ^ minExp F * (q * 2 ^ minExp F) : ℝ) = ((p * q : Int) : ℝ) * 2 ^ minExp F / (Spec.oneUnits F.eb F.mb : Int) := by
      rw [eq_div_iff (by exact_mod_cast (oneUnits_pos F.eb F.mb).ne')]
      push_cast
      linear_combination (p * q * 2 ^ minExp F : ℝ) * hone
    rw [← hval]
    exact mulVal_isReal hx hy

omit hk in
/-- A fused sum in units: the product has the unit of the product of two. -/
theorem fma_units (p q t : Int) : (p * 2 ^ minExp F * (q * 2 ^ minExp F) + t * 2 ^ minExp F : ℝ) =
    ((p * q + t * Spec.oneUnits F.eb F.mb : Int) : ℝ) * 2 ^ minExp F / (Spec.oneUnits F.eb F.mb : Int) := by
  have hone := hF.oneUnits_mul
  rw [eq_div_iff (by exact_mod_cast (oneUnits_pos F.eb F.mb).ne')]
  push_cast
  linear_combination (p * q * 2 ^ minExp F : ℝ) * hone

theorem opFma_arith (x y z : Nat) :
    ArithLane F true (fun one p q t => (one, p * q + t * one)) x y z (opFma F k x y z) := by
  refine arithLane_deliver hF hk (fun h => fmaVal_nan _ (h.imp_right (Or.imp_right And.right))) fun p q t hx hy hz => ⟨oneUnits_pos .., ?_⟩
  rw [← fma_units hF]
  exact fmaVal_isReal (rmOf k) hx hy hz

theorem opFnma_arith (x y z : Nat) :
    ArithLane F true (fun one p q t => (one, t * one - p * q)) x y z (opFnma F k x y z) := by
  refine arithLane_deliver hF hk (fun h => fmaVal_nan _ ?_) fun p q t hx hy hz => ⟨oneUnits_pos .., ?_⟩
  · refine h.imp (fun ⟨sig, h⟩ => ⟨sig, ?_⟩) (Or.imp_right And.right)
    rw [h]
    rfl
  · have hfma := fmaVal_isReal (rmOf k) hx.negate hy hz
    rw [← neg_mul, ← Int.cast_neg, fma_units hF] at hfma
    dsimp only
    rwa [sub_eq_neg_add, ← neg_mul]

end

/-! ## Division (R198) -/

theorem le_bitLen {n m : Nat} (h : 2 ^ n ≤ m) : n + 1 ≤ bitLen m := by
  have hm : m ≠ 0 := by have := Nat.two_pow_pos n; omega
  unfold bitLen
  rw [if_neg hm]
  exact Nat.succ_le_succ ((Nat.le_log2 hm).2 h)

/-- Twice the whole part of a number, with a last bit that tells whether there is more. -/
theorem sticky_floor {mb n : Nat} {y : ℝ} {exact : Prop} [Decidable exact] (hlow : n ≤ y) (hhigh : y < n + 1) (hexact : exact ↔ y = n)
    (hlen : 2 ^ (mb + 1) ≤ n) : Sticky mb (2 * n + (if exact then 0 else 1)) (2 * y) := by
  split
  · next h =>
    rw [hexact.1 h]
    exact .inl (by push_cast; ring)
  · next h =>
    have hlt : (n : ℝ) < y := hlow.lt_of_ne fun he => h (hexact.2 he.symm)
    refine .inr ⟨by omega, le_bitLen (n := mb + 2) (by rw [pow_succ]; omega), ?_, ?_⟩ <;> push_cast <;> linarith

theorem divVal_fin {m k : Nat} (hk : k ≠ 0) (a b : Bool) (e f : Int) : divVal (.fin a m e) (.fin b k f) =
    if m = 0 then (.fin (a != b) 0 0, 0#5)
    else (.fin (a != b) (2 * (m * 2 ^ 64 / k) + (if m * 2 ^ 64 % k = 0 then 0 else 1)) (e - f - 65), 0#5) := if_neg hk

/-- A quotient, with a bit below every place of rounding that tells whether it is exact. -/
theorem divVal_sticky {mb m k : Nat} (hmb : mb ≤ 23) (hm : m ≠ 0) (hk : k ≠ 0) (hk' : k < 2 ^ (mb + 1)) (a b : Bool) (e f : Int) :
    ∃ n, divVal (.fin a m e) (.fin b k f) = (.fin (a != b) n (e - f - 65), 0#5) ∧ Sticky mb n (2 * (m * 2 ^ 64 / k)) := by
  have hkpos : 0 < k := Nat.pos_of_ne_zero hk
  have hkr : (0 : ℝ) < k := by exact_mod_cast hkpos
  have hdiv : ((m * 2 ^ 64 : Nat) : ℝ) = k * (m * 2 ^ 64 / k : Nat) + (m * 2 ^ 64 % k : Nat) := by exact_mod_cast (Nat.div_add_mod _ _).symm
  have hmod : ((m * 2 ^ 64 % k : Nat) : ℝ) < k := by exact_mod_cast Nat.mod_lt _ hkpos
  have hmod0 : (0 : ℝ) ≤ (m * 2 ^ 64 % k : Nat) := Nat.cast_nonneg _
  refine ⟨_, (divVal_fin hk a b e f).trans (if_neg hm), sticky_floor ?_ ?_ ?_ ?_⟩
  · rw [le_div_iff₀ hkr]
    push_cast at hdiv hmod hmod0 ⊢
    linarith
  · rw [div_lt_iff₀ hkr]
    push_cast at hdiv hmod hmod0 ⊢
    linarith
  · rw [div_eq_iff hkr.ne', ← Nat.cast_eq_zero (R := ℝ)]
    push_cast at hdiv hmod hmod0 ⊢
    constructor <;> intro h <;> linarith
  · rw [Nat.le_div_iff_mul_le hkpos]
    calc 2 ^ (mb + 1) * k ≤ 2 ^ (mb + 1) * 2 ^ (mb + 1) := Nat.mul_le_mul_left _ hk'.le
      _ = 2 ^ (mb + 1 + (mb + 1)) := (pow_add ..).symm
      _ ≤ 2 ^ 64 := Nat.pow_le_pow_right (by omega) (by omega)
      _ ≤ m * 2 ^ 64 := Nat.le_mul_of_pos_left _ (Nat.pos_of_ne_zero hm)

/-- What vfdiv makes of the codes x and y of a format, where y is not zero. -/
structure DivLane (F : FFmt) (x y : Nat) (r : Nat × FFlags) : Prop where
  lt     : r.1 < 2 ^ (1 + F.eb + F.mb)
  nan    : Spec.isNaN F.eb F.mb x ∨ Spec.isNaN F.eb F.mb y → r.1 = Spec.quietNaN F.eb F.mb
  rounds : ∀ p q, Spec.units F.eb F.mb x = some p → Spec.units F.eb F.mb y = some q → q ≠ 0 →
    let e := (if q < 0 then -p else p) * Spec.oneUnits F.eb F.mb
    Spec.Rounds F.eb F.mb q.natAbs e r.1 ∧ (r.2.getLsbD 4 = true ↔ ¬Spec.Exact F.eb F.mb q.natAbs e r.1)

theorem opDiv_lane {F : FFmt} (hF : Ieee F) (hmb : F.mb ≤ 23) {k : Word} (hk : k.extractLsb' 0 4 = 0#4) (x y : Nat) :
    DivLane F x y (opDiv F k x y) := by
  obtain ⟨-, hin, -⟩ := fctl_plain hk
  unfold opDiv
  rw [inVal_plain F hin, inVal_plain F hin, deliver_plain F hk]
  refine ⟨hF.cvtFp_lt .., fun h => ?_, fun p q hp hq hq0 => ?_⟩
  · have hnan : (divVal (valOf F x) (valOf F y)).1 = .nan false := by
      rcases h with h | h
      · obtain ⟨sig, hx⟩ := hF.valOf_nan h
        rw [hx, divVal_nan_left]
      · obtain ⟨sig, hy⟩ := hF.valOf_nan h
        rw [hy, divVal_nan_right]
    dsimp only
    rw [hnan]
    exact hF.cvtFp_nan ..
  · obtain ⟨m, e, hx, hpsign, hpabs, -⟩ := hF.valOf_of_units hp
    obtain ⟨j, f, hy, hqsign, hqabs, hj, -⟩ := hF.valOf_of_units hq
    have hqpos : (0 : Int) < q.natAbs := by omega
    have hj0 : j ≠ 0 := by
      rintro rfl
      have := (significand_eq_zero hqabs).1 rfl
      omega
    have hnum : (if q < 0 then -p else p) = signUnit (signOf F x != signOf F y) * p.natAbs := by
      have hneg : q < 0 ↔ signOf F y = true := by
        rw [hqsign]
        exact signUnit_mul_neg_iff _ (by omega)
      simp only [hneg]
      rw [ite_neg_eq, signUnit_bne, mul_comm (signUnit (signOf F x)), mul_assoc, ← hpsign]
    rw [hnum, hx, hy]
    dsimp only
    by_cases hm : m = 0
    · subst hm
      have hp0 : p.natAbs = 0 := (significand_eq_zero hpabs).1 rfl
      rw [divVal_fin hj0, if_pos rfl, hp0, Nat.cast_zero, mul_zero, zero_mul, BitVec.zero_or]
      exact hF.cvtFp_rounds (.inl rfl) hqpos (by simp)
    · obtain ⟨n, hdiv, hsticky⟩ := divVal_sticky hmb hm hj0 hj (signOf F x) (signOf F y) e f
      rw [hdiv, BitVec.zero_or]
      refine hF.cvtFp_rounds hsticky hqpos ?_
      have hjr : (j : ℝ) ≠ 0 := by exact_mod_cast hj0
      have hexp : (2 : ℝ) ^ (e - minExp F) * 2 ^ (-minExp F) = 2 ^ 65 * 2 ^ (e - f - 65 - minExp F) * 2 ^ (f - minExp F) := by
        rw [← zpow_natCast, ← zpow_add₀ two_ne_zero, ← zpow_add₀ two_ne_zero, ← zpow_add₀ two_ne_zero]
        congr 1
        push_cast
        ring
      simp only [Int.cast_mul, Int.cast_natCast]
      rw [hpabs, hqabs, hF.oneUnits_eq, mul_assoc, mul_assoc (m : ℝ), hexp]
      field_simp

/-! ## Lanes and their flags (R185, R187) -/

theorem mem_laneFlags {w : Nat} {p : Word} {f : Nat → FFlags} {e : Nat × FFlags} :
    e ∈ laneFlags w p f ↔ (e.1 < 256 / w ∧ activeLane p w e.1 = true) ∧ e.2 = f e.1 := by
  unfold laneFlags
  simp only [List.mem_map, List.mem_filter, List.mem_range]
  constructor
  · rintro ⟨i, hi, rfl⟩
    exact ⟨hi, rfl⟩
  · rintro ⟨hi, he⟩
    exact ⟨e.1, hi, by rw [← he]⟩

theorem inexact_laneFlags {w j : Nat} {p : Word} {f : Nat → FFlags} (hj : j < 256 / w) (hp : activeLane p w j = true) :
    Spec.inexact (laneFlags w p f) j ↔ (f j).getLsbD 4 = true := by
  unfold Spec.inexact
  simp only [mem_laneFlags]
  constructor
  · rintro ⟨fl, ⟨-, rfl⟩, h⟩
    exact h
  · intro h
    exact ⟨f j, ⟨⟨hj, hp⟩, rfl⟩, h⟩

/-- Lane j of a VL result. -/
theorem laneOf_packRange (w : Nat) (f : Nat → Nat) {j : Nat} (hj : j < 256 / w) :
    laneOf (packLanes w ((List.range (256 / w)).map f)) w j = f j % 2 ^ w := by
  rw [laneOf_packLanes _ _ _ (by rw [List.length_map, List.length_range]; exact Nat.mul_div_le 256 w),
    List.getD_eq_getElem?_getD, List.getElem?_map, List.getElem?_range hj]
  rfl

/-- The lanes of a VL instruction and their flags (R198). -/
theorem vlRes_lanes (op : FFmt → Word → Nat → Nat → Nat × FFlags) (d a b : Reg) (w : BitVec 2) (c : Core) :
    ∃ v : VReg, (vlRes op d a b w c).writes = [.v d.toNat v] ∧ ∀ j < 256 / fpWidth w,
      let r := op (ffmt (fpFmt w)) c.cr.fctl (laneOf (rdV c a.toNat) (fpWidth w) j) (laneOf (rdV c b.toNat) (fpWidth w) j)
      laneOf v (fpWidth w) j = r.1 % 2 ^ fpWidth w ∧ (Spec.inexact (vlRes op d a b w c).flags j ↔ r.2.getLsbD 4 = true) := by
  refine ⟨_, rfl, fun j hj => ⟨?_, ?_⟩⟩
  · rw [List.map_map]
    exact laneOf_packRange _ _ hj
  · unfold Spec.inexact vlRes
    simp only [List.mem_map, List.mem_zipIdx_iff_getElem?, List.getElem?_map, Prod.exists, Prod.mk.injEq]
    constructor
    · rintro ⟨fl, ⟨r, g, i, hget, rfl, rfl⟩, hbit⟩
      rw [List.getElem?_range hj, Option.map_some, Option.some.injEq] at hget
      rwa [hget]
    · intro hbit
      exact ⟨_, ⟨_, _, j, by rw [List.getElem?_range hj]; rfl, rfl, rfl⟩, hbit⟩

/-- The lanes of a lane-wise floating-point instruction and their flags (R185, R192). -/
theorem vfpRes_lanes (op : FFmt → Word → Nat → Nat → Nat → Nat × FFlags) (per : Nat) (d a b : Reg) (m : Vm) (c : Core) :
    ∃ v : VReg, (vfpRes op per d a b m c).writes = [.v d.toNat v] ∧ ∀ j < 256 / fpWidth m.w,
      let lane := fun (q : Reg) => laneOf (rdV c q.toNat) (fpWidth m.w) j
      let r := op (ffmt (fpFmt m.w)) c.cr.fctl (lane a) (lane b) (lane d)
      ((rdP c m.pred.toNat).getLsbD (fpWidth m.w / 8 * j) = false →
        laneOf v (fpWidth m.w) j = lane d ∧ ∀ e ∈ (vfpRes op per d a b m c).flags, e.1 ≠ j) ∧
      ((rdP c m.pred.toNat).getLsbD (fpWidth m.w / 8 * j) = true →
        laneOf v (fpWidth m.w) j = r.1 % 2 ^ fpWidth m.w ∧ (Spec.inexact (vfpRes op per d a b m c).flags j ↔ r.2.getLsbD 4 = true)) := by
  refine ⟨_, rfl, fun j hj => ⟨fun hoff => ⟨?_, fun e he hej => ?_⟩, fun hon => ⟨?_, inexact_laneFlags hj hon⟩⟩⟩
  · rw [laneOf_mapLanes _ _ _ _ hj]
    exact if_neg (by rw [activeLane, predOf, hoff]; exact Bool.false_ne_true)
  · obtain ⟨⟨-, hon⟩, -⟩ := mem_laneFlags.1 he
    rw [hej, activeLane, predOf, hoff] at hon
    exact Bool.false_ne_true hon
  · rw [laneOf_mapLanes _ _ _ _ hj]
    exact if_pos hon

/-- The rows of R192 name the operation of their instruction. -/
theorem arithRow_op {i : Instr} {sh : Shape} {k : PKind} {l : BitVec 4} {hold : Core → Core} {f : Core → VRes} {d a b : Reg} {m : Vm} {old : Bool}
    {g : Int → Int → Int → Int → Int × Int} (hrow : Spec.vecRow i = some (sh, k, l, hold, f)) (har : Spec.arithRow i = some (d, a, b, m, old, g)) :
    ∃ op per, f = vfpRes op per d a b m ∧
      ∀ F : FFmt, Ieee F → ∀ k : Word, k.extractLsb' 0 4 = 0#4 → ∀ x y z, ArithLane F old g x y z (op F k x y z) := by
  unfold Spec.arithRow at har
  split at har <;> cases har <;> cases hrow
  · exact ⟨_, _, rfl, fun F hF k hk => opFadd_arith hF hk⟩
  · exact ⟨_, _, rfl, fun F hF k hk => opFsub_arith hF hk⟩
  · exact ⟨_, _, rfl, fun F hF k hk => opFmul_arith hF hk⟩
  · exact ⟨_, _, rfl, fun F hF k hk => opFma_arith hF hk⟩
  · exact ⟨_, _, rfl, fun F hF k hk => opFnma_arith hF hk⟩

theorem fpFmt_mb_le (w : BitVec 2) : (ffmt (fpFmt w)).mb ≤ 23 := by
  rcases fpFmt_cases w with ⟨-, h⟩ | ⟨-, h⟩ | ⟨-, -, h⟩ <;> rw [h] <;> decide

theorem vectorArithmetic : Spec.VectorArithmetic := by
  constructor
  · intro i c sh k l hold f d a b m old g hrow har _ hk
    obtain ⟨op, per, rfl, harith⟩ := arithRow_op hrow har
    rw [fpBits_eq]
    dsimp only
    rw [← fpWidth_eq]
    obtain ⟨v, hwrites, hlanes⟩ := vfpRes_lanes op per d a b m c
    refine ⟨v, hwrites, fun j hj => ?_⟩
    obtain ⟨hoff, hon⟩ := hlanes j hj
    refine ⟨hoff, fun hactive => ?_⟩
    obtain ⟨hlane, hflag⟩ := hon hactive
    have hop := harith _ (ieee_fpFmt m.w) _ hk (laneOf (rdV c a.toNat) (fpWidth m.w) j) (laneOf (rdV c b.toNat) (fpWidth m.w) j)
      (laneOf (rdV c d.toNat) (fpWidth m.w) j)
    have hlt := hop.lt
    rw [← fpWidth_eq] at hlt
    rw [hlane, Nat.mod_eq_of_lt hlt, hflag]
    exact ⟨hop.nan, hop.rounds⟩
  · intro c sh k hold f d a b w l l' hrow _ hk
    cases hrow
    rw [fpBits_eq]
    dsimp only
    rw [← fpWidth_eq]
    obtain ⟨v, hwrites, hlanes⟩ := vlRes_lanes opDiv d a b w c
    refine ⟨v, hwrites, fun j hj => ?_⟩
    obtain ⟨hlane, hflag⟩ := hlanes j hj
    have hop := opDiv_lane (ieee_fpFmt w) (fpFmt_mb_le w) hk (laneOf (rdV c a.toNat) (fpWidth w) j) (laneOf (rdV c b.toNat) (fpWidth w) j)
    have hlt := hop.lt
    rw [← fpWidth_eq] at hlt
    rw [hlane, Nat.mod_eq_of_lt hlt, hflag]
    exact ⟨hop.nan, hop.rounds⟩

/-! ## The order of finite values (R143, R195) -/

section
variable {x y : FVal} {a b : ℝ}

theorem FVal.IsReal.isNan (hx : x.IsReal a) : x.isNan = false := by obtain ⟨s, m, e, rfl, -⟩ := hx; rfl

theorem FVal.IsReal.isZero (hx : x.IsReal a) : x.isZero = true ↔ a = 0 := by
  obtain ⟨s, m, e, rfl, rfl⟩ := hx
  have hs : (signUnit s : ℝ) ≠ 0 := by cases s <;> simp [signUnit]
  have he : (2 : ℝ) ^ e ≠ 0 := by positivity
  simp [FVal.isZero, hs, he]

theorem ltVal_isReal (hx : x.IsReal a) (hy : y.IsReal b) : ltVal x y = true ↔ a < b := by
  obtain ⟨s, m, e, rfl, rfl⟩ := hx
  obtain ⟨u, k, f, rfl, rfl⟩ := hy
  unfold ltVal
  simp only [ite_neg_eq, decide_eq_true_eq]
  set q := min e f
  rw [mul_assoc, mul_assoc, ← cast_mul_pow2 m (min_le_left e f), ← cast_mul_pow2 k (min_le_right e f), ← mul_assoc, ← mul_assoc,
    mul_lt_mul_iff_left₀ (show (0 : ℝ) < 2 ^ q by positivity)]
  exact_mod_cast Iff.rfl

theorem eqVal_isReal (hx : x.IsReal a) (hy : y.IsReal b) : eqVal x y = true ↔ a = b := by
  unfold eqVal
  simp only [hx.isNan, hy.isNan, Bool.not_false, Bool.true_and, Bool.and_eq_true, Bool.not_eq_true', ← Bool.not_eq_true, ltVal_isReal hx hy,
    ltVal_isReal hy hx, not_lt]
  exact ⟨fun h => le_antisymm h.2 h.1, fun h => ⟨h.ge, h.le⟩⟩

end

section
variable {F : FFmt} (hF : Ieee F) {x y : Nat} {p q : Int} (hp : Spec.units F.eb F.mb x = some p) (hq : Spec.units F.eb F.mb y = some q)
include hF hp hq

/-- The order of finite codes is that of their units. -/
theorem Ieee.ltVal_iff : ltVal (valOf F x) (valOf F y) = true ↔ p < q := by
  rw [ltVal_isReal (hF.valOf_isReal hp) (hF.valOf_isReal hq), mul_lt_mul_iff_left₀ (show (0 : ℝ) < 2 ^ minExp F by positivity), Int.cast_lt]

theorem Ieee.eqVal_iff : eqVal (valOf F x) (valOf F y) = true ↔ p = q := by
  rw [eqVal_isReal (hF.valOf_isReal hp) (hF.valOf_isReal hq), mul_left_inj' (show (2 : ℝ) ^ minExp F ≠ 0 by positivity), Int.cast_inj]

omit hq in
theorem Ieee.isZero_iff : (valOf F x).isZero = true ↔ p = 0 := by
  rw [(hF.valOf_isReal hp).isZero, mul_eq_zero, or_iff_left (show (2 : ℝ) ^ minExp F ≠ 0 by positivity), Int.cast_eq_zero]

/-- The lesser or the greater of two finite codes, a zero of some sign for two zeros (R143). -/
theorem Ieee.fminmax_units (big : Bool) : Spec.units F.eb F.mb (fminmax F big x y).1 = some (if big then max p q else min p q) := by
  unfold fminmax
  simp only [(hF.valOf_isReal hp).isNan, (hF.valOf_isReal hq).isNan, Bool.and_self, Bool.false_eq_true, if_false, Bool.and_eq_true,
    hF.isZero_iff hp, hF.isZero_iff hq, hF.ltVal_iff hp hq, hF.ltVal_iff hq hp]
  by_cases hzero : p = 0 ∧ q = 0
  · obtain ⟨rfl, rfl⟩ := hzero
    rw [if_pos ⟨rfl, rfl⟩, hF.units_withSign _ (Nat.zero_le _), magUnits_zero]
    simp
  · rw [if_neg hzero]
    cases big
    · by_cases hlt : q < p
      · simp [hlt, hq, min_eq_right hlt.le]
      · simp [hlt, hp, min_eq_left (not_lt.1 hlt)]
    · by_cases hlt : p < q
      · simp [hlt, hq, max_eq_right hlt.le]
      · simp [hlt, hp, max_eq_left (not_lt.1 hlt)]

theorem Ieee.fminmaxp_eq (big : Bool) : fminmaxp F big x y = fminmax F big x y := by
  unfold fminmaxp
  rw [(hF.valOf_isReal hp).isNan, (hF.valOf_isReal hq).isNan]
  rfl

end

/-- A minimum or maximum is one of its operands, a zero or the canonical NaN: it is a code of the format. -/
theorem Ieee.fminmax_lt {F : FFmt} (hF : Ieee F) (big : Bool) {x y : Nat} (hx : x < 2 ^ (1 + F.eb + F.mb)) (hy : y < 2 ^ (1 + F.eb + F.mb)) :
    (fminmax F big x y).1 < 2 ^ (1 + F.eb + F.mb) := by
  unfold fminmax
  dsimp only
  split
  · exact hF.canon_lt.trans_le (Nat.pow_le_pow_right (by omega) (by omega))
  · split
    · exact hy
    · split
      · exact hx
      · split
        · exact withSign_lt _ (Nat.two_pow_pos _)
        · split <;> split <;> assumption

/-- The rows of R193 name the operation of their instruction. -/
theorem extremeRow_op {i : Instr} {sh : Shape} {k : PKind} {l : BitVec 4} {hold : Core → Core} {f : Core → VRes} {d a b : Reg} {m : Vm}
    {g : Int → Int → Int} (hrow : Spec.vecRow i = some (sh, k, l, hold, f)) (her : Spec.extremeRow i = some (d, a, b, m, g)) :
    ∃ op big per, f = vfpRes (opMinMax op big) per d a b m ∧ (∀ p q, g p q = if big then max p q else min p q) ∧
      ∀ F : FFmt, Ieee F → ∀ x y p q, Spec.units F.eb F.mb x = some p → Spec.units F.eb F.mb y = some q → op F big x y = fminmax F big x y := by
  unfold Spec.extremeRow at her
  split at her <;> cases her <;> cases hrow
  · exact ⟨_, _, _, rfl, fun _ _ => rfl, fun _ _ _ _ _ _ _ _ => rfl⟩
  · exact ⟨_, _, _, rfl, fun _ _ => rfl, fun _ _ _ _ _ _ _ _ => rfl⟩
  · exact ⟨_, _, _, rfl, fun _ _ => rfl, fun F hF x y p q hp hq => hF.fminmaxp_eq hp hq _⟩
  · exact ⟨_, _, _, rfl, fun _ _ => rfl, fun F hF x y p q hp hq => hF.fminmaxp_eq hp hq _⟩

/-! ## The bits of a compare (R190, R195) -/

/-- A predicate is its lanes, each of w / 8 equal bits. -/
theorem packPred_fold (b n : Nat) (t : Nat → Bool) :
    (List.range n).foldl (fun acc i => if t i then acc + (2 ^ b - 1) * 2 ^ (b * i) else acc) 0 =
      packNat b ((List.range n).map fun i => if t i then 2 ^ b - 1 else 0) := by
  have hall : (2 ^ b - 1) % 2 ^ b = 2 ^ b - 1 := Nat.mod_eq_of_lt (Nat.sub_lt (Nat.two_pow_pos b) one_pos)
  have happend (l : List Nat) (x : Nat) : packNat b (l ++ [x]) = packNat b l + x % 2 ^ b * 2 ^ (b * l.length) := by
    induction l with
    | nil => simp [packNat]
    | cons y l ih =>
      show y % 2 ^ b + 2 ^ b * packNat b (l ++ [x]) = y % 2 ^ b + 2 ^ b * packNat b l + _
      rw [ih, List.length_cons, Nat.mul_succ, pow_add]
      ring
  induction n with
  | zero => rfl
  | succ n ih =>
    rw [List.range_succ, List.foldl_append, ih, List.map_append, List.map_singleton, happend, List.length_map, List.length_range]
    simp only [List.foldl_cons, List.foldl_nil]
    split
    · rw [hall]
    · rw [Nat.zero_mod, Nat.zero_mul, Nat.add_zero]

/-- Every bit of a lane of a predicate is the lane's truth (R190). -/
theorem getLsbD_packPred {w j : Nat} (hw : 0 < w / 8) (hfull : w / 8 * (256 / w) = 32) (t : Nat → Bool) (hj : j < 32) :
    (packPred w t).getLsbD j = t (j / (w / 8)) := by
  have hdm := Nat.div_add_mod j (w / 8)
  have hmod := Nat.mod_lt j hw
  have hlane : j / (w / 8) < 256 / w := (Nat.div_lt_iff_lt_mul hw).2 (by rw [Nat.mul_comm, hfull]; exact hj)
  unfold packPred word
  rw [packPred_fold, BitVec.getLsbD_ofNat, decide_eq_true hj, Bool.true_and]
  have hbits := packNat_lane (w / 8) ((List.range (256 / w)).map fun i => if t i then 2 ^ (w / 8) - 1 else 0) (j / (w / 8))
  rw [List.getD_eq_getElem?_getD, List.getElem?_map, List.getElem?_range hlane] at hbits
  have hbit := congrArg (fun v => v.testBit (j % (w / 8))) hbits
  simp only [Nat.testBit_mod_two_pow, Nat.testBit_div_two_pow, hmod, decide_true, Bool.true_and, Option.map_some, Option.getD_some] at hbit
  rw [show j % (w / 8) + w / 8 * (j / (w / 8)) = j by omega] at hbit
  rw [hbit]
  split
  · next h => rw [Nat.testBit_two_pow_sub_one, decide_eq_true hmod, h]
  · next h => rw [Nat.zero_testBit, Bool.eq_false_of_not_eq_true h]

theorem fpWidth_lanes (w : BitVec 2) : 0 < fpWidth w / 8 ∧ fpWidth w / 8 * (256 / fpWidth w) = 32 := by
  unfold fpWidth
  rcases fpFmt_cases w with ⟨-, h⟩ | ⟨-, h⟩ | ⟨-, -, h⟩ <;> rw [h] <;> decide

/-- The rows of R195 name the test of their instruction. -/
theorem orderRow_op {i : Instr} {sh : Shape} {k : PKind} {l : BitVec 4} {hold : Core → Core} {f : Core → VRes} {d a b : Reg} {m : Vm}
    {g : Int → Int → Bool} (hrow : Spec.vecRow i = some (sh, k, l, hold, f)) (hor : Spec.orderRow i = some (d, a, b, m, g)) :
    ∃ t any, f = vfcmpRes t any d a b m ∧
      ∀ F : FFmt, Ieee F → ∀ x y p q, Spec.units F.eb F.mb x = some p → Spec.units F.eb F.mb y = some q → t (valOf F x) (valOf F y) = g p q := by
  unfold Spec.orderRow at hor
  split at hor <;> cases hor <;> cases hrow
  · exact ⟨_, _, rfl, fun F hF x y p q hp hq => by rw [Bool.eq_iff_iff, hF.eqVal_iff hp hq, decide_eq_true_eq]⟩
  · exact ⟨_, _, rfl, fun F hF x y p q hp hq => by rw [Bool.eq_iff_iff, hF.ltVal_iff hp hq, decide_eq_true_eq]⟩
  · exact ⟨_, _, rfl, fun F hF x y p q hp hq => by
      rw [Bool.eq_iff_iff, Bool.or_eq_true, hF.ltVal_iff hp hq, hF.eqVal_iff hp hq, decide_eq_true_eq, le_iff_lt_or_eq]⟩
  · exact ⟨_, _, rfl, fun F hF x y p q hp hq => by rw [(hF.valOf_isReal hp).isNan, (hF.valOf_isReal hq).isNan]; rfl⟩

/-! ## The sign bit (R194) -/

/-- The lanes of an instruction that copies or classifies codes (R194, R196). -/
theorem vfcopyRes_lanes (f : FFmt → Nat → Nat) (d a : Reg) (m : Vm) (c : Core) :
    ∃ v : VReg, (vfcopyRes f d a m c).writes = [.v d.toNat v] ∧ (vfcopyRes f d a m c).flags = [] ∧ ∀ j < 256 / fpWidth m.w,
      laneOf v (fpWidth m.w) j = if (rdP c m.pred.toNat).getLsbD (fpWidth m.w / 8 * j)
        then f (ffmt (fpFmt m.w)) (laneOf (rdV c a.toNat) (fpWidth m.w) j) % 2 ^ fpWidth m.w else laneOf (rdV c d.toNat) (fpWidth m.w) j :=
  ⟨_, rfl, rfl, fun _ hj => laneOf_mapLanes _ _ _ _ hj⟩

/-- Turning the sign bit adds it, modulo the width. -/
theorem withSign_not {F : FFmt} {x : Nat} (hx : x < 2 ^ (1 + F.eb + F.mb)) :
    withSign F (!signOf F x) (magOf F x) = (x + 2 ^ (F.eb + F.mb)) % 2 ^ (1 + F.eb + F.mb) := by
  have hmag := magOf_lt (F := F) x
  have hpow : 2 ^ (1 + F.eb + F.mb) = 2 ^ (F.eb + F.mb) + 2 ^ (F.eb + F.mb) := by rw [Nat.add_assoc, Nat.add_comm, pow_succ, Nat.mul_two]
  have hsplit := withSign_sign_mag hx
  unfold withSign at hsplit ⊢
  cases hs : signOf F x
  · rw [hs, if_neg Bool.false_ne_true] at hsplit
    rw [if_pos (by rfl), Nat.mod_eq_of_lt (by omega), Nat.add_comm, hsplit]
  · rw [hs, if_pos rfl] at hsplit
    rw [if_neg (by decide), hpow, show x + 2 ^ (F.eb + F.mb) = magOf F x + (2 ^ (F.eb + F.mb) + 2 ^ (F.eb + F.mb)) by omega, Nat.add_mod_right,
      Nat.mod_eq_of_lt (by omega)]

theorem signRow_op {i : Instr} {sh : Shape} {k : PKind} {l : BitVec 4} {hold : Core → Core} {f : Core → VRes} {d a : Reg} {m : Vm}
    {g : Nat → Nat → Nat} (hrow : Spec.vecRow i = some (sh, k, l, hold, f)) (hsr : Spec.signRow i = some (d, a, m, g)) :
    ∃ h, f = vfcopyRes h d a m ∧ ∀ (F : FFmt) x, x < 2 ^ (1 + F.eb + F.mb) → h F x = g (1 + F.eb + F.mb) x ∧ h F x < 2 ^ (1 + F.eb + F.mb) := by
  unfold Spec.signRow at hsr
  split at hsr <;> cases hsr <;> cases hrow
  · refine ⟨_, rfl, fun F x hx => ⟨?_, (Nat.mod_le _ _).trans_lt hx⟩⟩
    dsimp only
    rw [Nat.add_assoc, Nat.add_sub_cancel_left]
    rfl
  · refine ⟨_, rfl, fun F x hx => ⟨?_, withSign_lt _ (magOf_lt x)⟩⟩
    dsimp only
    rw [withSign_not hx, show 1 + F.eb + F.mb - 1 = F.eb + F.mb by omega]

theorem vectorOrder : Spec.VectorOrder := by
  refine ⟨?_, ?_, ?_⟩
  · intro i c sh k l hold f d a b m g hrow her _ hin
    obtain ⟨op, big, per, rfl, hg, hop⟩ := extremeRow_op hrow her
    have hF := ieee_fpFmt m.w
    rw [fpBits_eq]
    dsimp only
    rw [← fpWidth_eq]
    obtain ⟨v, hwrites, hlanes⟩ := vfpRes_lanes (opMinMax op big) per d a b m c
    refine ⟨v, hwrites, fun j hj => ⟨fun hoff => ((hlanes j hj).1 hoff).1, fun hon p q hp hq => ?_⟩⟩
    have hx := laneOf_lt (rdV c a.toNat) (fpWidth m.w) j
    have hy := laneOf_lt (rdV c b.toNat) (fpWidth m.w) j
    have hlt := hF.fminmax_lt big (fpWidth_eq m.w ▸ hx) (fpWidth_eq m.w ▸ hy)
    rw [← fpWidth_eq] at hlt
    rw [((hlanes j hj).2 hon).1]
    unfold opMinMax
    rw [show finOf c.cr.fctl = false from hin, finCode_off, finCode_off, hop _ hF _ _ p q hp hq, Nat.mod_eq_of_lt hlt, hg,
      hF.fminmax_units hp hq]
  · intro i c sh k l hold f d a b m g hrow hor _ hin
    obtain ⟨t, any, rfl, ht⟩ := orderRow_op hrow hor
    rw [fpBits_eq]
    dsimp only
    rw [← fpWidth_eq]
    obtain ⟨hpos, hfull⟩ := fpWidth_lanes m.w
    refine ⟨_, rfl, fun j hj => ⟨fun hoff => ?_, fun hon p q hp hq => ?_⟩⟩
    · rw [getLsbD_packPred hpos hfull _ hj, activeLane, predOf, hoff, Bool.false_and]
    · rw [getLsbD_packPred hpos hfull _ hj, activeLane, predOf, hon, Bool.true_and]
      dsimp only
      rw [inVal_plain _ hin, inVal_plain _ hin]
      exact ht _ (ieee_fpFmt m.w) _ _ _ _ hp hq
  · intro i c sh k l hold f d a m g hrow hsr
    obtain ⟨h, rfl, hh⟩ := signRow_op hrow hsr
    rw [fpBits_eq]
    dsimp only
    rw [← fpWidth_eq]
    obtain ⟨v, hwrites, hflags, hlanes⟩ := vfcopyRes_lanes h d a m c
    refine ⟨v, hwrites, hflags, fun j hj => ?_⟩
    obtain ⟨hval, hlt⟩ := hh (ffmt (fpFmt m.w)) _ (fpWidth_eq m.w ▸ laneOf_lt (rdV c a.toNat) (fpWidth m.w) j)
    rw [← fpWidth_eq] at hval hlt
    rw [hlanes j hj, Nat.mod_eq_of_lt hlt, hval]

/-- Settles O9: the exact value of each operation (arithLane_deliver, opDiv_lane) is rounded once by the conversion (Ieee.cvtFp_rounds), and
the order of finite codes is that of their numbers (Ieee.fminmax_units, orderRow_op). -/
theorem vectorFloats : Obligations.VectorFloats := ⟨vectorArithmetic, vectorOrder⟩

end Sys2Proof.Machine
end

section
/-! PROOF. The reductions (O60; R150, R191, R197). Integer sums and maxima are folds over the active lanes; a floating-point reduction is a tree of
rounded sums (PairSum) or of maxima and minima that pass over NaNs (JoinOf), on lanes widened to FP32 (Widened). -/

namespace Sys2Proof.Machine

/-! ## Reductions of integer lanes (R191) -/

theorem signed_eq_sgn {w x : Nat} (hx : x < 2 ^ w) : Spec.signed w x = sgn w x := by
  unfold Spec.signed sgn intVal
  rw [Nat.mod_eq_of_lt hx]
  by_cases h : x < 2 ^ (w - 1)
  · rw [if_neg (Nat.not_le.2 h), if_pos h]
  · rw [if_pos (Nat.not_lt.1 h), if_neg h]

theorem le_sgn {w : Nat} (hw : 0 < w) (x : Nat) : -(2 ^ (w - 1) : Int) ≤ sgn w x := by
  obtain ⟨n, rfl⟩ : ∃ n, w = n + 1 := ⟨w - 1, by omega⟩
  have hpow : (2 : Int) ^ (n + 1) = 2 * 2 ^ n := by rw [pow_succ, mul_comm]
  have hpos : (0 : Int) < 2 ^ n := by positivity
  unfold sgn intVal
  rw [Nat.add_sub_cancel]
  split
  · have : (0 : Int) ≤ (x % 2 ^ (n + 1) : Nat) := Int.natCast_nonneg _
    omega
  · next h =>
    have : ((2 ^ n : Nat) : Int) ≤ (x % 2 ^ (n + 1) : Nat) := by exact_mod_cast Nat.not_lt.1 h
    push_cast at this ⊢
    omega

/-- The active lanes as signed numbers. -/
theorem map_sgn_activeLanes (w : Nat) (p : Word) (v : VReg) : (activeLanes w p v).map (sgn w) =
    ((List.range (256 / w)).filter fun j => p.getLsbD (w / 8 * j)).map fun j => Spec.signed w (laneOf v w j) := by
  unfold activeLanes
  rw [List.map_map]
  exact List.map_congr_left fun j _ => (signed_eq_sgn (laneOf_lt v w j)).symm

/-- The greatest of some numbers and a first one. -/
theorem foldl_max_spec (l : List Int) (a : Int) : (∀ y ∈ a :: l, y ≤ l.foldl max a) ∧ l.foldl max a ∈ a :: l := by
  induction l generalizing a with
  | nil => simp
  | cons b l ih =>
    obtain ⟨hle, hmem⟩ := ih (max a b)
    rw [List.foldl_cons]
    have hmax := hle (max a b) List.mem_cons_self
    refine ⟨fun y hy => ?_, ?_⟩
    · rcases List.mem_cons.1 hy with rfl | hy
      · exact (le_max_left _ _).trans hmax
      · rcases List.mem_cons.1 hy with rfl | hy
        · exact (le_max_right _ _).trans hmax
        · exact hle y (List.mem_cons_of_mem _ hy)
    · rcases List.mem_cons.1 hmem with h | h
      · rw [h]
        rcases max_choice a b with h' | h' <;> rw [h'] <;> simp
      · exact List.mem_cons_of_mem _ (List.mem_cons_of_mem _ h)

/-- The greatest of numbers that a first one bounds from below is one of them, or the first one where there are none. -/
theorem foldl_max_mem {l : List Int} {a : Int} (ha : ∀ y ∈ l, a ≤ y) : l.foldl max a ∈ l ∨ (l = [] ∧ l.foldl max a = a) := by
  obtain ⟨hle, hmem⟩ := foldl_max_spec l a
  rcases List.mem_cons.1 hmem with h | h
  · cases l with
    | nil => exact .inr ⟨rfl, rfl⟩
    | cons b l =>
      have hb := hle b (by simp)
      refine .inl ?_
      rw [h] at hb ⊢
      rw [le_antisymm (ha b List.mem_cons_self) hb]
      exact List.mem_cons_self
  · exact .inl h

/-! ## The reduction tree (R150) -/

section
variable (f : Nat → Nat → Nat × FFlags)

/-- A level of the tree joins the lanes in pairs. -/
theorem treeLevel_pairs (n : Nat) (l : List Nat) (hl : l.length = 2 * n) : (treeLevel f l).1.length = n ∧
    ∀ i < n, (treeLevel f l).1.getD i 0 = (f (l.getD (2 * i) 0) (l.getD (2 * i + 1) 0)).1 := by
  induction n generalizing l with
  | zero =>
    obtain rfl : l = [] := List.length_eq_zero_iff.1 hl
    exact ⟨rfl, fun i hi => absurd hi (Nat.not_lt_zero i)⟩
  | succ n ih =>
    match l, hl with
    | a :: b :: l, hl =>
      obtain ⟨hlen, hget⟩ := ih l (by simp only [List.length_cons] at hl; omega)
      refine ⟨congrArg Nat.succ hlen, fun i hi => ?_⟩
      cases i with
      | zero => rfl
      | succ i => exact hget i (by omega)

theorem tree_succ_fst (k : Nat) (l : List Nat) : (tree f (k + 1) l).1 = (tree f k (treeLevel f l).1).1 := rfl

/-- A level more changes nothing once one lane is left. -/
theorem tree_extra (k : Nat) (l : List Nat) (hl : l.length = 2 ^ k) : (tree f (k + 1) l).1 = (tree f k l).1 := by
  induction k generalizing l with
  | zero =>
    obtain ⟨a, rfl⟩ := List.length_eq_one_iff.1 hl
    rfl
  | succ k ih =>
    rw [tree_succ_fst, ih _ (treeLevel_pairs f (2 ^ k) l (by rw [hl, pow_succ, mul_comm])).1, ← tree_succ_fst]

/-- What joining keeps of pairs of lanes, and holds of all lanes, holds of what is left. -/
theorem tree_keeps (P : Nat → Prop) (hf : ∀ a b, P a → P b → P (f a b).1) (k : Nat) (l : List Nat) (hl : l.length = 2 ^ k)
    (hP : ∀ i < l.length, P (l.getD i 0)) : P (tree f k l).1 := by
  induction k generalizing l with
  | zero => exact hP 0 (by rw [hl]; exact one_pos)
  | succ k ih =>
    obtain ⟨hlen, hget⟩ := treeLevel_pairs f (2 ^ k) l (by rw [hl, pow_succ, mul_comm])
    refine ih _ hlen fun i hi => ?_
    rw [hlen] at hi
    rw [hget i hi]
    have hl' : l.length = 2 * 2 ^ k := by rw [hl, pow_succ, mul_comm]
    exact hf _ _ (hP _ (by omega)) (hP _ (by omega))

end

/-- The number of levels that vfredsum's lanes have: 8 or 16 lanes (R150). -/
theorem tree_lanes (f : Nat → Nat → Nat × FFlags) (w : BitVec 2) (l : List Nat) (hl : l.length = 256 / fpWidth w) :
    l.length = 2 ^ (if w = 0#2 then 3 else 4) ∧ (tree f 4 l).1 = (tree f (if w = 0#2 then 3 else 4) l).1 := by
  have h0 : w ≠ 0#2 → fpWidth w = 16 := by
    intro hw
    unfold fpWidth
    rcases fpFmt_cases w with ⟨h, -⟩ | ⟨-, h⟩ | ⟨-, -, h⟩
    · exact absurd h hw
    · rw [h]; rfl
    · rw [h]; rfl
  by_cases hw : w = 0#2
  · subst hw
    exact ⟨hl, tree_extra f 3 l hl⟩
  · rw [if_neg hw]
    rw [h0 hw] at hl
    exact ⟨hl, rfl⟩

/-! ## The sum (R150) -/

/-- A sum of zero is a negative zero for two negative zeros alone (R137). -/
theorem addVal_eq_zero {a b : Bool} {m k : Nat} {e f : Int} (h : (signUnit a * m * 2 ^ e + signUnit b * k * 2 ^ f : ℝ) = 0) :
    (addVal .rne (.fin a m e) (.fin b k f)).1 = .fin (decide (m = 0 ∧ k = 0) && a && b) 0 0 := by
  unfold addVal
  dsimp only
  by_cases h0 : m = 0 ∧ k = 0
  · rw [if_pos h0, decide_eq_true h0]
    cases a <;> cases b <;> rfl
  · rw [← aligned_sum, mul_eq_zero, or_iff_left (show (2 : ℝ) ^ min e f ≠ 0 by positivity), Int.cast_eq_zero] at h
    simp only [ite_neg_eq]
    rw [if_neg h0, if_pos h, decide_eq_false h0]
    rfl

/-- The zeros of a format. -/
theorem Ieee.eq_zero_iff {F : FFmt} (hF : Ieee F) {x : Nat} (hx : x < 2 ^ (1 + F.eb + F.mb)) {p : Int} (hp : Spec.units F.eb F.mb x = some p)
    (neg : Bool) : x = withSign F neg 0 ↔ p.natAbs = 0 ∧ signOf F x = neg := by
  obtain ⟨-, rfl⟩ := hF.magOf_le_of_units hp
  rw [signUnit_mul_natAbs, magUnits_eq_zero]
  constructor
  · intro h
    rw [h]
    exact ⟨magOf_withSign neg (Nat.two_pow_pos _), signOf_withSign neg (Nat.two_pow_pos _)⟩
  · rintro ⟨hmag, hsign⟩
    rw [← withSign_sign_mag hx, hmag, hsign]

/-- One join of vfredsum: FP32 addition to nearest. -/
theorem pairSum_addFp32 {x y : Nat} (hx : x < 2 ^ 32) (hy : y < 2 ^ 32) : Spec.PairSum x y (addFp32 x y).1 := by
  have hF := ieee_fp32
  have hadd : (addFp32 x y).1 = (cvtFp (ffmt fmtFP32) .rne false false (addVal .rne (valOf (ffmt fmtFP32) x) (valOf (ffmt fmtFP32) y)).1).1 := rfl
  rw [hadd]
  constructor
  · have hnan : Spec.isNaN 8 23 x ∨ Spec.isNaN 8 23 y → (addVal .rne (valOf (ffmt fmtFP32) x) (valOf (ffmt fmtFP32) y)).1 = .nan false := by
      rintro (h | h)
      · obtain ⟨sig, hv⟩ := hF.valOf_nan h
        rw [hv, addVal_nan_left]
      · obtain ⟨sig, hv⟩ := hF.valOf_nan h
        rw [hv, addVal_nan_right]
    intro h
    rw [hnan h]
    exact hF.cvtFp_nan ..
  · intro p q hp hq
    have hreal := (addVal_isReal .rne (hF.valOf_isReal hp) (hF.valOf_isReal hq)).1
    rw [← add_mul, ← Int.cast_add, ← div_one (((p + q : Int) : ℝ) * _), ← Int.cast_one] at hreal
    refine ⟨(hF.cvtFp_rounds_of_isReal one_pos hreal).1, fun hzero => ?_⟩
    obtain ⟨m, e, hvx, hpsign, hpabs, -⟩ := hF.valOf_of_units hp
    obtain ⟨j, f, hvy, hqsign, hqabs, -⟩ := hF.valOf_of_units hq
    have hsum : (signUnit (signOf (ffmt fmtFP32) x) * m * 2 ^ e + signUnit (signOf (ffmt fmtFP32) y) * j * 2 ^ f : ℝ) = 0 := by
      rw [real_of_units hpsign hpabs, real_of_units hqsign hqabs, ← add_mul, ← Int.cast_add, hzero, Int.cast_zero, zero_mul]
    have hnegx : x = 0x80000000 ↔ _ := hF.eq_zero_iff hx hp true
    have hnegy : y = 0x80000000 ↔ _ := hF.eq_zero_iff hy hq true
    rw [hvx, hvy, addVal_eq_zero hsum, cvtFp_zero]
    simp only [significand_eq_zero hpabs, significand_eq_zero hqabs, hnegx, hnegy]
    unfold withSign
    simp only [Bool.and_eq_true, decide_eq_true_eq, and_assoc, and_left_comm]
    rfl

theorem addFp32_lt (x y : Nat) : (addFp32 x y).1 < 2 ^ 32 := ieee_fp32.cvtFp_lt .rne false false _

/-- The lanes of vfredsum are added in the tree of R150. -/
theorem treeSum_addFp32 (k : Nat) (l : List Nat) (hl : l.length = 2 ^ k) (hlt : ∀ i < l.length, l.getD i 0 < 2 ^ 32) :
    Spec.TreeSum k l (tree addFp32 k l).1 := by
  induction k generalizing l with
  | zero =>
    obtain ⟨a, rfl⟩ := List.length_eq_one_iff.1 hl
    rfl
  | succ k ih =>
    have hl' : l.length = 2 * 2 ^ k := by rw [hl, pow_succ, mul_comm]
    obtain ⟨hlen, hget⟩ := treeLevel_pairs addFp32 (2 ^ k) l hl'
    refine ⟨(treeLevel addFp32 l).1, by rw [hlen, hl'], fun i hi => ?_, ih _ hlen fun i hi => ?_⟩ <;> rw [hlen] at hi <;> rw [hget i hi]
    · exact pairSum_addFp32 (hlt _ (by omega)) (hlt _ (by omega))
    · exact addFp32_lt ..

/-! ## Widening to FP32 (R141, R150, R202) -/

/-- A significand of the format's places at any exponent is a magnitude. -/
theorem exists_magUnits {mb m : Nat} (hm : m < 2 ^ (mb + 1)) (d : Nat) : ∃ z, magUnits mb z = m * 2 ^ d := by
  induction d generalizing m with
  | zero => exact ⟨0 * 2 ^ mb + m, magUnits_scaled hm.le (.inl rfl)⟩
  | succ d ih =>
    by_cases hfull : 2 ^ mb ≤ m
    · exact ⟨(d + 1) * 2 ^ mb + m, magUnits_scaled hm.le (.inr hfull)⟩
    · obtain ⟨z, hz⟩ := ih (m := 2 * m) (by rw [pow_succ]; omega)
      exact ⟨z, by rw [hz, pow_succ]; ring⟩

/-- A format whose numbers are numbers of FP32, its unit being 2 to the power of s of those of FP32. -/
structure Widened (F : FFmt) (s : Nat) : Prop where
  ieee  : Ieee F
  mb_le : F.mb ≤ 23
  unit  : minExp F = minExp (ffmt fmtFP32) + s
  top   : Spec.maxUnits F.eb F.mb * 2 ^ s ≤ magUnits 23 (ffmt fmtFP32).maxMag

theorem widened_fp16 : Widened (ffmt fmtFP16) 125 :=
  ⟨ieee_fp16, by decide, by decide, by rw [show magUnits 23 (ffmt fmtFP32).maxMag = _ from ieee_fp32.top_units.1]; decide⟩
theorem widened_bf16 : Widened (ffmt fmtBF16) 16 :=
  ⟨ieee_bf16, by decide, by decide, by rw [show magUnits 23 (ffmt fmtFP32).maxMag = _ from ieee_fp32.top_units.1]; decide⟩

/-- A finite code of a narrower format is the same number in FP32, with its sign. -/
theorem Widened.units {F : FFmt} {s : Nat} (hW : Widened F s) {x : Nat} {p : Int} (hp : Spec.units F.eb F.mb x = some p) :
    Spec.units 8 23 (rneFp32 (valOf F x)).1 = some (p * 2 ^ s) ∧ signOf (ffmt fmtFP32) (rneFp32 (valOf F x)).1 = signOf F x := by
  have hF := hW.ieee
  have h32 := ieee_fp32
  obtain ⟨m, e, hval, hsign, habs, hm, he⟩ := hF.valOf_of_units hp
  have hunit := hW.unit
  have hcode : ∃ z ≤ (ffmt fmtFP32).maxMag, (rneFp32 (valOf F x)).1 = withSign (ffmt fmtFP32) (signOf F x) z ∧ magUnits 23 z = p.natAbs * 2 ^ s := by
    by_cases hm0 : m = 0
    · have hp0 := (significand_eq_zero habs).1 hm0
      rw [hval, hm0]
      exact ⟨0, Nat.zero_le _, rfl, by rw [hp0]; simp⟩
    · obtain ⟨z, hz⟩ := exists_magUnits (hm.trans_le (Nat.pow_le_pow_right (by omega) (Nat.succ_le_succ hW.mb_le)))
        (e - minExp (ffmt fmtFP32)).toNat
      have ht : (m : ℝ) * 2 ^ (e - minExp (ffmt fmtFP32)) = magUnits 23 z := by
        rw [hz]
        push_cast
        rw [← zpow_natCast, Int.toNat_of_nonneg (by omega)]
      have hzp : magUnits 23 z = p.natAbs * 2 ^ s := by
        have : (magUnits 23 z : ℝ) = p.natAbs * 2 ^ s := by
          rw [← ht, habs, mul_assoc, ← zpow_natCast, ← zpow_add₀ two_ne_zero]
          congr 2
          omega
        exact_mod_cast this
      have hztop : z ≤ (ffmt fmtFP32).maxMag :=
        (magUnits_strictMono 23).le_iff_le.1 ((hzp.le.trans (Nat.mul_le_mul_right _ (hF.natAbs_le_maxUnits hp))).trans hW.top)
      obtain ⟨hnear, -⟩ := roundMag_near h32.one_le_mb (signOf F x) (e := e) hm0 (.inl rfl)
      have hc : (roundMag (ffmt fmtFP32) (signOf F x) m e .rne).1 = z := hnear.eq_of_exact ht
      refine ⟨z, hztop, ?_, hzp⟩
      rw [hval]
      show (cvtFp (ffmt fmtFP32) .rne false false _).1 = _
      rw [(h32.cvtFp_fin (signOf F x) e hm0).1, hc]
      unfold roundedCode
      rw [if_neg (Nat.not_lt.2 hztop)]
  obtain ⟨z, hztop, hcode, hz⟩ := hcode
  have hlt := h32.maxMag_lt
  rw [hcode, signOf_withSign _ (by omega)]
  refine ⟨?_, rfl⟩
  have hu := h32.units_withSign (signOf F x) hztop
  rw [show magUnits (ffmt fmtFP32).mb z = _ from hz] at hu
  rw [show Spec.units 8 23 _ = _ from hu]
  rw [Nat.cast_mul, Nat.cast_pow, Nat.cast_ofNat, ← mul_assoc, ← hsign]

theorem Widened.infinity {F : FFmt} {s : Nat} (hW : Widened F s) {x : Nat} (h : magOf F x = F.maxMag + 1) :
    (rneFp32 (valOf F x)).1 = Spec.infinity 8 23 (signOf F x) := by
  rw [hW.ieee.valOf_inf h]
  exact congrArg Prod.fst (ieee_fp32.cvtFp_inf ..)

theorem Widened.nan {F : FFmt} {s : Nat} (hW : Widened F s) {x : Nat} (h : Spec.isNaN F.eb F.mb x) :
    (rneFp32 (valOf F x)).1 = Spec.quietNaN 8 23 := by
  obtain ⟨sig, hval⟩ := hW.ieee.valOf_nan h
  rw [hval]
  exact ieee_fp32.cvtFp_nan ..

/-- The number of a code of a format with an infinity, in its units. -/
theorem Ieee.number_eq {F : FFmt} (hF : Ieee F) {f q : Nat} (hf : f ≠ 8) (hrow : Spec.fmtRow f = some (F.eb, F.mb, F.maxMag, q)) (x : Nat) :
    Spec.number f x = (Spec.units F.eb F.mb x).map fun u => (u, q) := by
  have htop := hF.maxMag_lt_magOf x
  unfold Spec.number Spec.units
  rw [if_neg hf, hrow]
  dsimp only
  rw [field_eq, show x % 2 ^ (F.eb + F.mb) = magOf F x from rfl]
  by_cases h : F.maxMag < magOf F x
  · rw [if_pos (htop.1 h), if_neg (Nat.not_le.2 h)]
    rfl
  · rw [if_neg (mt htop.2 h), if_pos (Nat.not_lt.1 h), Option.map_some]
    unfold Spec.negative
    simp only [decide_eq_true_eq]

/-- A code widened to FP32: the same number, the infinity, or the canonical NaN (R202). -/
theorem Widened.widens {F : FFmt} {f q s : Nat} (hW : Widened F s) (hf : f ≠ 8 ∧ f ≠ 3) (hrow : Spec.fmtRow f = some (F.eb, F.mb, F.maxMag, q))
    (hs : s = 149 - q) (x : Nat) : Spec.Widens f x (rneFp32 (valOf F x)).1 := by
  have hF := hW.ieee
  have hnum := hF.number_eq hf.1 hrow x
  constructor
  · intro u q' hu
    rw [hnum, Option.map_eq_some_iff] at hu
    obtain ⟨p, hp, hpq⟩ := hu
    cases hpq
    obtain ⟨hunits, hsign⟩ := hW.units hp
    refine ⟨by rw [← hs]; exact hunits, fun h => absurd h hf.1, fun eb mb top p hrow' => ?_⟩
    rw [hrow] at hrow'
    cases hrow'
    rw [negative_eq]
    exact (negative_eq (F := ffmt fmtFP32) _).trans hsign
  · intro eb mb top q' hrow' hnone
    rw [hrow] at hrow'
    cases hrow'
    rw [hnum, Option.map_eq_none_iff, hF.units_eq] at hnone
    have hgt : F.maxMag < magOf F x := by
      by_contra h
      rw [if_neg h] at hnone
      cases hnone
    rw [negative_eq]
    by_cases hinf : magOf F x = F.maxMag + 1
    · have hfrac : x % 2 ^ F.mb = 0 := by rw [fraction_eq, hinf, hF.top, Nat.mul_mod_left]
      rw [if_pos ⟨hf.2, hfrac⟩, hW.infinity hinf]
    · have hnan := (hF.isNaN_iff x).2 (by omega)
      rw [if_neg fun h => hnan.2 h.2, hW.nan hnan]

/-! ## The greatest and the least lane (R143, R197) -/

/-- A code of FP32 that is a NaN or a number. -/
def NanOrFinite (x : Nat) : Prop := Spec.isNaN 8 23 x ∨ ∃ p, Spec.units 8 23 x = some p

/-- x is not beyond y in the order of the reduction. -/
def notBeyond (big : Bool) (x y : Int) : Prop := if big then x ≤ y else y ≤ x

theorem notBeyond_rfl (big : Bool) (x : Int) : notBeyond big x x := by cases big <;> exact le_rfl

theorem notBeyond_trans {big : Bool} {x y z : Int} (hxy : notBeyond big x y) (hyz : notBeyond big y z) : notBeyond big x z := by
  cases big
  · exact le_trans hyz hxy
  · exact le_trans hxy hyz

/-- The join of the reduction. -/
def joinExtreme (big : Bool) (x y : Nat) : Nat := (fminmax (ffmt fmtFP32) big x y).1

theorem units_of_isNaN {x : Nat} (h : Spec.isNaN 8 23 x) : Spec.units 8 23 x = none := by
  have hgt := (ieee_fp32.isNaN_iff x).1 h
  exact (ieee_fp32.units_eq x).trans (if_pos (by omega))

theorem not_isNaN_of_units {x : Nat} {p : Int} (h : Spec.units 8 23 x = some p) : ¬Spec.isNaN 8 23 x := fun hn => by
  rw [units_of_isNaN hn] at h
  cases h

theorem isNaN_quietNaN : Spec.isNaN 8 23 (Spec.quietNaN 8 23) := ⟨by decide, by decide⟩

section
variable {big : Bool} {x y : Nat}

theorem joinExtreme_nan_nan (hx : Spec.isNaN 8 23 x) (hy : Spec.isNaN 8 23 y) : joinExtreme big x y = Spec.quietNaN 8 23 := by
  obtain ⟨a, ha⟩ := ieee_fp32.valOf_nan hx
  obtain ⟨b, hb⟩ := ieee_fp32.valOf_nan hy
  unfold joinExtreme fminmax
  rw [ha, hb]
  rfl

theorem joinExtreme_nan_left {q : Int} (hx : Spec.isNaN 8 23 x) (hy : Spec.units 8 23 y = some q) : joinExtreme big x y = y := by
  obtain ⟨a, ha⟩ := ieee_fp32.valOf_nan hx
  unfold joinExtreme fminmax
  simp only [ha, (ieee_fp32.valOf_isReal hy).isNan]
  rfl

theorem joinExtreme_nan_right {p : Int} (hx : Spec.units 8 23 x = some p) (hy : Spec.isNaN 8 23 y) : joinExtreme big x y = x := by
  obtain ⟨a, ha⟩ := ieee_fp32.valOf_nan hy
  unfold joinExtreme fminmax
  simp only [ha, (ieee_fp32.valOf_isReal hx).isNan]
  rfl

theorem joinExtreme_units {p q : Int} (hx : Spec.units 8 23 x = some p) (hy : Spec.units 8 23 y = some q) :
    Spec.units 8 23 (joinExtreme big x y) = some (if big then max p q else min p q) := ieee_fp32.fminmax_units hx hy big

/-- What a join of two lanes is: no further than either, one of the two, and the canonical NaN where it is a NaN. -/
structure JoinOf (big : Bool) (x y z : Nat) : Prop where
  left  : ∀ p, Spec.units 8 23 x = some p → ∃ u, Spec.units 8 23 z = some u ∧ notBeyond big p u
  right : ∀ p, Spec.units 8 23 y = some p → ∃ u, Spec.units 8 23 z = some u ∧ notBeyond big p u
  mem   : ∀ u, Spec.units 8 23 z = some u → Spec.units 8 23 x = some u ∨ Spec.units 8 23 y = some u
  plain : NanOrFinite z
  canon : Spec.isNaN 8 23 z → z = Spec.quietNaN 8 23

theorem joinExtreme_spec (hx : NanOrFinite x) (hy : NanOrFinite y) : JoinOf big x y (joinExtreme big x y) := by
  rcases hx with hx | ⟨p, hx⟩ <;> rcases hy with hy | ⟨q, hy⟩
  · rw [joinExtreme_nan_nan hx hy]
    have hnone := units_of_isNaN isNaN_quietNaN
    refine ⟨fun p hp => ?_, fun p hp => ?_, fun u hu => ?_, .inl isNaN_quietNaN, fun _ => rfl⟩
    · exact absurd hx (not_isNaN_of_units hp)
    · exact absurd hy (not_isNaN_of_units hp)
    · rw [hnone] at hu
      cases hu
  · rw [joinExtreme_nan_left hx hy]
    exact ⟨fun p hp => absurd hx (not_isNaN_of_units hp), fun p hp => ⟨p, hp, notBeyond_rfl big p⟩, fun u hu => .inr hu, .inr ⟨q, hy⟩,
      fun hn => absurd hn (not_isNaN_of_units hy)⟩
  · rw [joinExtreme_nan_right hx hy]
    exact ⟨fun p hp => ⟨p, hp, notBeyond_rfl big p⟩, fun p hp => absurd hy (not_isNaN_of_units hp), fun u hu => .inl hu, .inr ⟨p, hx⟩,
      fun hn => absurd hn (not_isNaN_of_units hx)⟩
  · have hu := joinExtreme_units (big := big) hx hy
    refine ⟨fun p' hp' => ⟨_, hu, ?_⟩, fun q' hq' => ⟨_, hu, ?_⟩, fun u hu' => ?_, .inr ⟨_, hu⟩, fun hn => absurd hn (not_isNaN_of_units hu)⟩
    · obtain rfl : p = p' := Option.some.inj (hx.symm.trans hp')
      cases big
      · exact min_le_left p q
      · exact le_max_left p q
    · obtain rfl : q = q' := Option.some.inj (hy.symm.trans hq')
      cases big
      · exact min_le_right p q
      · exact le_max_right p q
    · obtain rfl := Option.some.inj (hu.symm.trans hu')
      cases big
      · rcases min_choice p q with h | h
        · exact .inl (by simp only [Bool.false_eq_true, if_false, h]; exact hx)
        · exact .inr (by simp only [Bool.false_eq_true, if_false, h]; exact hy)
      · rcases max_choice p q with h | h
        · exact .inl (by simp only [if_true, h]; exact hx)
        · exact .inr (by simp only [if_true, h]; exact hy)

end

/-- The tree of a reduction to an extreme, by its join. -/
theorem tree_extreme (big : Bool) (k : Nat) (l : List Nat) (hl : l.length = 2 ^ k) (hplain : ∀ i < l.length, NanOrFinite (l.getD i 0)) :
    let r := (tree (fminmax (ffmt fmtFP32) big) k l).1
    (∀ i < l.length, ∀ p, Spec.units 8 23 (l.getD i 0) = some p → ∃ u, Spec.units 8 23 r = some u ∧ notBeyond big p u) ∧
    ∀ u, Spec.units 8 23 r = some u → ∃ i < l.length, Spec.units 8 23 (l.getD i 0) = some u := by
  induction k generalizing l with
  | zero =>
    obtain ⟨a, rfl⟩ := List.length_eq_one_iff.1 hl
    refine ⟨fun i hi p hp => ⟨p, ?_, notBeyond_rfl big p⟩, fun u hu => ⟨0, one_pos, hu⟩⟩
    obtain rfl : i = 0 := Nat.lt_one_iff.1 hi
    exact hp
  | succ k ih =>
    have hl' : l.length = 2 * 2 ^ k := by rw [hl, pow_succ, mul_comm]
    obtain ⟨hlen, hget⟩ := treeLevel_pairs (fminmax (ffmt fmtFP32) big) (2 ^ k) l hl'
    have hjoin (i : Nat) (hi : i < 2 ^ k) : JoinOf big (l.getD (2 * i) 0) (l.getD (2 * i + 1) 0)
        ((treeLevel (fminmax (ffmt fmtFP32) big) l).1.getD i 0) := by
      rw [hget i hi]
      exact joinExtreme_spec (hplain _ (by omega)) (hplain _ (by omega))
    obtain ⟨hbound, hmem⟩ := ih _ hlen fun i hi => (hjoin i (hlen ▸ hi)).plain
    rw [hlen] at hbound hmem
    refine ⟨fun i hi p hp => ?_, fun u hu => ?_⟩
    · have hi2 : i / 2 < 2 ^ k := by omega
      obtain ⟨u, hu, hpu⟩ : ∃ u, Spec.units 8 23 ((treeLevel (fminmax (ffmt fmtFP32) big) l).1.getD (i / 2) 0) = some u ∧ notBeyond big p u := by
        rcases Nat.mod_two_eq_zero_or_one i with h | h
        · exact (hjoin _ hi2).left p (by rw [show 2 * (i / 2) = i by omega]; exact hp)
        · exact (hjoin _ hi2).right p (by rw [show 2 * (i / 2) + 1 = i by omega]; exact hp)
      obtain ⟨v, hv, huv⟩ := hbound _ hi2 u hu
      exact ⟨v, hv, notBeyond_trans hpu huv⟩
    · obtain ⟨i, hi, hui⟩ := hmem u hu
      rcases (hjoin i hi).mem u hui with h | h
      · exact ⟨2 * i, by omega, h⟩
      · exact ⟨2 * i + 1, by omega, h⟩

/-- A reduction of two lanes or more that gives a NaN gives the canonical one. -/
theorem tree_extreme_nan (big : Bool) (k : Nat) (l : List Nat) (hl : l.length = 2 ^ (k + 1)) (hplain : ∀ i < l.length, NanOrFinite (l.getD i 0)) :
    let r := (tree (fminmax (ffmt fmtFP32) big) (k + 1) l).1
    NanOrFinite r ∧ (Spec.isNaN 8 23 r → r = Spec.quietNaN 8 23) := by
  have hl' : l.length = 2 * 2 ^ k := by rw [hl, pow_succ, mul_comm]
  obtain ⟨hlen, hget⟩ := treeLevel_pairs (fminmax (ffmt fmtFP32) big) (2 ^ k) l hl'
  have hjoin {x y : Nat} (hx : NanOrFinite x) (hy : NanOrFinite y) := joinExtreme_spec (big := big) hx hy
  rw [tree_succ_fst]
  refine tree_keeps _ (fun x => NanOrFinite x ∧ (Spec.isNaN 8 23 x → x = Spec.quietNaN 8 23))
    (fun a b ha hb => ⟨(hjoin ha.1 hb.1).plain, (hjoin ha.1 hb.1).canon⟩) k _ hlen fun i hi => ?_
  rw [hlen] at hi
  rw [hget i hi]
  have h := hjoin (hplain (2 * i) (by omega)) (hplain (2 * i + 1) (by omega))
  exact ⟨h.plain, h.canon⟩

/-! ## The floating-point reductions of an instruction (R150, R197) -/

/-- The FP32 codes that a reduction joins: the active lanes widened, gap for the others. -/
def reducedLanes (gap : Nat) (a : Reg) (m : Vm) (c : Core) : List Nat :=
  (List.range (256 / fpWidth m.w)).map fun i =>
    if activeLane (predOf c m) (fpWidth m.w) i then (widenLane (fpFmt m.w) (laneOf (rdV c a.toNat) (fpWidth m.w) i)).1 else gap

section
variable (gap : Nat) (a : Reg) (m : Vm) (c : Core)

theorem length_reducedLanes : (reducedLanes gap a m c).length = 256 / fpWidth m.w := by
  unfold reducedLanes
  rw [List.length_map, List.length_range]

theorem getD_reducedLanes {i : Nat} (hi : i < 256 / fpWidth m.w) : (reducedLanes gap a m c).getD i 0 =
    if activeLane (predOf c m) (fpWidth m.w) i then (widenLane (fpFmt m.w) (laneOf (rdV c a.toNat) (fpWidth m.w) i)).1 else gap := by
  unfold reducedLanes
  rw [List.getD_eq_getElem?_getD, List.getElem?_map, List.getElem?_range hi]
  rfl

/-- A reduction writes what its tree leaves: with no active lane, the gap that all its lanes are. -/
theorem vfredRes_writes (f : Nat → Nat → Nat × FFlags) (d : Reg) (hgap : (f gap gap).1 = gap) : (vfredRes f gap d a m c).writes =
    [sres c d (word (tree f (if m.w = 0#2 then 3 else 4) (reducedLanes gap a m c)).1)] := by
  obtain ⟨hlen, htree⟩ := tree_lanes f m.w _ (length_reducedLanes gap a m c)
  have hmap : ((List.range (256 / fpWidth m.w)).map fun i => if activeLane (predOf c m) (fpWidth m.w) i
      then widenLane (fpFmt m.w) (laneOf (rdV c a.toNat) (fpWidth m.w) i) else (gap, 0#5)).map (·.1) = reducedLanes gap a m c := by
    unfold reducedLanes
    rw [List.map_map]
    exact List.map_congr_left fun i _ => apply_ite Prod.fst _ _ _
  have hwrites : (vfredRes f gap d a m c).writes =
      [sres c d (word (if activeCount (predOf c m) (fpWidth m.w) = 0 then gap else (tree f 4 (reducedLanes gap a m c)).1))] := by
    rw [← hmap]
    rfl
  rw [hwrites, htree]
  split
  · next hnone =>
    have hoff : ∀ i < 256 / fpWidth m.w, ¬activeLane (predOf c m) (fpWidth m.w) i = true := fun i hi hon =>
      absurd hon (List.filter_eq_nil_iff.1 (List.length_eq_zero_iff.1 hnone) i (List.mem_range.2 hi))
    rw [tree_keeps f (· = gap) (fun x y hx hy => by rw [hx, hy]; exact hgap) _ _ hlen fun i hi => by
      rw [length_reducedLanes] at hi
      rw [getD_reducedLanes gap a m c hi, if_neg (hoff i hi)]]
  · rfl

end

/-- The units of FP32 in one of a format's are 2 to the power of this. -/
def unitShift (F : FFmt) : Nat := 149 - ((2 ^ (F.eb - 1) - 1) + F.mb - 1)

/-- A lane of FP32 is taken as it is, and one of a narrower format widened (R197). -/
theorem widenLane_cases (w : BitVec 2) : (w = 0#2 ∧ ∀ x, (widenLane (fpFmt w) x).1 = x) ∨
    (w ≠ 0#2 ∧ Widened (ffmt (fpFmt w)) (unitShift (ffmt (fpFmt w))) ∧ ∀ x, (widenLane (fpFmt w) x).1 = (rneFp32 (valOf (ffmt (fpFmt w)) x)).1) := by
  rcases fpFmt_cases w with ⟨hw, h⟩ | ⟨hw, h⟩ | ⟨hw, -, h⟩
  · exact .inl ⟨hw, fun x => by rw [h]; rfl⟩
  · exact .inr ⟨by rw [hw]; decide, by rw [h]; exact widened_fp16, fun x => by rw [h]; rfl⟩
  · exact .inr ⟨hw, by rw [h]; exact widened_bf16, fun x => by rw [h]; rfl⟩

/-- A lane of FP16 or BF16 widened to FP32 (R202). -/
theorem widens_lane {w : BitVec 2} (h0 : w ≠ 0#2) (hw : w.toNat < 3) (x : Nat) :
    Spec.Widens w.toNat x (rneFp32 (valOf (ffmt (fpFmt w)) x)).1 := by
  have hcases : w = 1#2 ∨ w = 2#2 := by
    revert w
    decide
  rcases hcases with rfl | rfl
  · exact widened_fp16.widens (q := 24) ⟨by decide, by decide⟩ rfl rfl x
  · exact widened_bf16.widens (q := 133) ⟨by decide, by decide⟩ rfl rfl x

section
variable (w : BitVec 2) {x : Nat}

theorem widenLane_units {p : Int} (hp : Spec.units (ffmt (fpFmt w)).eb (ffmt (fpFmt w)).mb x = some p) :
    Spec.units 8 23 (widenLane (fpFmt w) x).1 = some (p * 2 ^ unitShift (ffmt (fpFmt w))) := by
  rcases widenLane_cases w with ⟨rfl, hx⟩ | ⟨-, hW, hx⟩ <;> rw [hx]
  · rw [show unitShift (ffmt (fpFmt 0#2)) = 0 from rfl, pow_zero, mul_one]
    exact hp
  · exact (hW.units hp).1

theorem widenLane_nan (hx : Spec.isNaN (ffmt (fpFmt w)).eb (ffmt (fpFmt w)).mb x) : Spec.isNaN 8 23 (widenLane (fpFmt w) x).1 := by
  rcases widenLane_cases w with ⟨rfl, hval⟩ | ⟨-, hW, hval⟩ <;> rw [hval]
  · exact hx
  · rw [hW.nan hx]
    exact isNaN_quietNaN

theorem widenLane_lt (hx : x < 2 ^ fpWidth w) : (widenLane (fpFmt w) x).1 < 2 ^ 32 := by
  rcases widenLane_cases w with ⟨rfl, hval⟩ | ⟨-, -, hval⟩ <;> rw [hval]
  · exact hx
  · exact ieee_fp32.cvtFp_lt .rne false false _

end

theorem joinExtreme_lt (big : Bool) {x y : Nat} (hx : x < 2 ^ 32) (hy : y < 2 ^ 32) : (fminmax (ffmt fmtFP32) big x y).1 < 2 ^ 32 :=
  ieee_fp32.fminmax_lt big hx hy

section
variable (a : Reg) (m : Vm) (c : Core)

/-- The active lanes (R185). -/
def onLanes : List Nat := (List.range (256 / fpWidth m.w)).filter fun j => (rdP c m.pred.toNat).getLsbD (fpWidth m.w / 8 * j)

theorem mem_onLanes {j : Nat} : j ∈ onLanes m c ↔ j < 256 / fpWidth m.w ∧ activeLane (predOf c m) (fpWidth m.w) j = true := by
  unfold onLanes
  rw [List.mem_filter, List.mem_range]
  exact Iff.rfl

/-- The number of lane j in units of FP32, where it is finite. -/
def laneNumber (j : Nat) : Option Int :=
  (Spec.units (ffmt (fpFmt m.w)).eb (ffmt (fpFmt m.w)).mb (laneOf (rdV c a.toNat) (fpWidth m.w) j)).map
    (· * 2 ^ unitShift (ffmt (fpFmt m.w)))

/-- What lane j of the reduction stands for: its number where it is active and finite. -/
theorem units_reducedLanes {gap : Nat} (hgap : Spec.isNaN 8 23 gap)
    (hplain : ∀ j ∈ onLanes m c, Spec.isNaN (ffmt (fpFmt m.w)).eb (ffmt (fpFmt m.w)).mb (laneOf (rdV c a.toNat) (fpWidth m.w) j) ∨
      (laneNumber a m c j).isSome = true) {j : Nat} (hj : j < 256 / fpWidth m.w) :
    NanOrFinite ((reducedLanes gap a m c).getD j 0) ∧
    ∀ u, Spec.units 8 23 ((reducedLanes gap a m c).getD j 0) = some u ↔ j ∈ onLanes m c ∧ laneNumber a m c j = some u := by
  rw [getD_reducedLanes gap a m c hj]
  by_cases hon : activeLane (predOf c m) (fpWidth m.w) j = true
  · have hmem := (mem_onLanes m c).2 ⟨hj, hon⟩
    rw [if_pos hon]
    rcases hplain j hmem with hnan | hfin
    · have hwide := widenLane_nan m.w hnan
      have hnone : laneNumber a m c j = none := by
        unfold laneNumber
        rw [(ieee_fpFmt m.w).units_eq, if_pos (by have := ((ieee_fpFmt m.w).isNaN_iff _).1 hnan; omega)]
        rfl
      exact ⟨.inl hwide, fun u => by simp only [units_of_isNaN hwide, hnone, reduceCtorEq, and_false]⟩
    · obtain ⟨u, hu⟩ := Option.isSome_iff_exists.1 hfin
      obtain ⟨p, hp, rfl⟩ := Option.map_eq_some_iff.1 hu
      have hwide := widenLane_units m.w hp
      exact ⟨.inr ⟨_, hwide⟩, fun v => by rw [hwide, hu]; exact ⟨fun h => ⟨hmem, h⟩, fun h => h.2⟩⟩
  · rw [if_neg hon]
    refine ⟨.inl hgap, fun u => ?_⟩
    rw [units_of_isNaN hgap, mem_onLanes]
    exact ⟨fun h => (nomatch h), fun h => absurd h.1.2 hon⟩

/-- vfredmax and vfredmin: the canonical NaN with no finite lane, else the extreme of the finite ones (R143, R197). -/
theorem vfredExtreme (big : Bool) (d : Reg)
    (hplain : ∀ j ∈ onLanes m c, Spec.isNaN (ffmt (fpFmt m.w)).eb (ffmt (fpFmt m.w)).mb (laneOf (rdV c a.toNat) (fpWidth m.w) j) ∨
      (laneNumber a m c j).isSome = true) :
    let fin := (onLanes m c).filter fun j => (laneNumber a m c j).isSome
    ∃ b r, (vfredRes (fminmax (ffmt fmtFP32) big) 0x7FC00000 d a m c).writes = [.s d.toNat r b] ∧ (fin = [] → r = 0x7FC00000#32) ∧
      (fin ≠ [] → ∃ x, Spec.units 8 23 r.toNat = some x ∧ some x ∈ fin.map (laneNumber a m c) ∧
        ∀ j ∈ fin, ∀ y, laneNumber a m c j = some y → notBeyond big y x) := by
  intro fin
  have hgap : Spec.isNaN 8 23 0x7FC00000 := isNaN_quietNaN
  have hlane {j : Nat} (hj : j < 256 / fpWidth m.w) := units_reducedLanes a m c hgap hplain hj
  have hlength := length_reducedLanes 0x7FC00000 a m c
  obtain ⟨hlen, -⟩ := tree_lanes (fminmax (ffmt fmtFP32) big) m.w _ hlength
  refine ⟨_, _, vfredRes_writes 0x7FC00000 a m c _ d (by cases big <;> rfl), ?_⟩
  obtain ⟨k, hk⟩ : ∃ k, (if m.w = 0#2 then 3 else 4) = k + 1 := by split <;> exact ⟨_, rfl⟩
  rw [hk] at hlen ⊢
  have hplain' : ∀ i < (reducedLanes 0x7FC00000 a m c).length, NanOrFinite ((reducedLanes 0x7FC00000 a m c).getD i 0) :=
    fun i hi => (hlane (hlength ▸ hi)).1
  obtain ⟨hbound, hmem⟩ := tree_extreme big (k + 1) _ hlen hplain'
  obtain ⟨hnanfin, hcanon⟩ := tree_extreme_nan big k _ hlen hplain'
  have hlt := tree_keeps (fminmax (ffmt fmtFP32) big) (· < 2 ^ 32) (fun x y hx hy => joinExtreme_lt big hx hy) (k + 1) _ hlen fun i hi => by
    rw [hlength] at hi
    rw [getD_reducedLanes _ a m c hi]
    split
    · exact widenLane_lt m.w (laneOf_lt _ _ _)
    · decide
  rw [hlength] at hbound hmem
  generalize (tree (fminmax (ffmt fmtFP32) big) (k + 1) (reducedLanes 0x7FC00000 a m c)).1 = r at *
  have hfin {j : Nat} : j ∈ fin ↔ j < 256 / fpWidth m.w ∧ j ∈ onLanes m c ∧ ∃ y, laneNumber a m c j = some y := by
    rw [List.mem_filter, Option.isSome_iff_exists]
    exact ⟨fun h => ⟨((mem_onLanes m c).1 h.1).1, h⟩, fun h => h.2⟩
  have hword : (word r).toNat = r := by
    unfold word
    rw [BitVec.toNat_ofNat, Nat.mod_eq_of_lt hlt]
  constructor
  · intro hnil
    have hnan : Spec.isNaN 8 23 r := hnanfin.resolve_right fun ⟨u, hu⟩ => by
      obtain ⟨i, hi, hui⟩ := hmem u hu
      obtain ⟨hon, hnum⟩ := ((hlane hi).2 u).1 hui
      exact List.ne_nil_of_mem (hfin.2 ⟨hi, hon, u, hnum⟩) hnil
    rw [hcanon hnan]
    rfl
  · intro hne
    obtain ⟨j, hj⟩ := List.exists_mem_of_ne_nil _ hne
    obtain ⟨hj256, hon, y, hy⟩ := hfin.1 hj
    obtain ⟨x, hx, -⟩ := hbound j hj256 y (((hlane hj256).2 y).2 ⟨hon, hy⟩)
    rw [hword]
    refine ⟨x, hx, ?_, fun i hi z hz => ?_⟩
    · obtain ⟨i, hi, hui⟩ := hmem x hx
      obtain ⟨hon', hnum⟩ := ((hlane hi).2 x).1 hui
      exact List.mem_map.2 ⟨i, hfin.2 ⟨hi, hon', x, hnum⟩, hnum⟩
    · obtain ⟨hi256, hon', -⟩ := hfin.1 hi
      obtain ⟨u, hu, hzu⟩ := hbound i hi256 z (((hlane hi256).2 z).2 ⟨hon', hz⟩)
      rwa [← Option.some.inj (hu.symm.trans hx)]

/-- vfredsum: the sum of the tree, in which an inactive lane is a negative zero (R150, R197). -/
theorem vfredsum_tree (d : Reg) (hw : m.w.toNat < 3) : ∃ b r xs, (vfredRes addFp32 0x80000000 d a m c).writes = [.s d.toNat r b] ∧
    xs.length = 256 / fpWidth m.w ∧
    (∀ j < 256 / fpWidth m.w, if j ∈ onLanes m c
      then (if m.w = 0#2 then xs.getD j 0 = laneOf (rdV c a.toNat) (fpWidth m.w) j
        else Spec.Widens m.w.toNat (laneOf (rdV c a.toNat) (fpWidth m.w) j) (xs.getD j 0))
      else xs.getD j 0 = 0x80000000) ∧
    Spec.TreeSum (if m.w = 0#2 then 3 else 4) xs r.toNat := by
  have hlength := length_reducedLanes 0x80000000 a m c
  obtain ⟨hlen, -⟩ := tree_lanes addFp32 m.w _ hlength
  have hlt : ∀ i < (reducedLanes 0x80000000 a m c).length, (reducedLanes 0x80000000 a m c).getD i 0 < 2 ^ 32 := fun i hi => by
    rw [hlength] at hi
    rw [getD_reducedLanes _ a m c hi]
    split
    · exact widenLane_lt m.w (laneOf_lt _ _ _)
    · decide
  refine ⟨_, _, reducedLanes 0x80000000 a m c, vfredRes_writes 0x80000000 a m c addFp32 d rfl, hlength, fun j hj => ?_, ?_⟩
  · rw [getD_reducedLanes _ a m c hj]
    simp only [mem_onLanes, hj, true_and]
    by_cases hon : activeLane (predOf c m) (fpWidth m.w) j = true
    · rw [if_pos hon, if_pos hon]
      rcases widenLane_cases m.w with ⟨h0, hx⟩ | ⟨h0, hW, hx⟩
      · rw [if_pos h0, hx]
      · rw [if_neg h0, hx]
        exact widens_lane h0 hw _
    · rw [if_neg hon, if_neg hon]
  · have hsum := treeSum_addFp32 _ _ hlen hlt
    have hr := tree_keeps addFp32 (· < 2 ^ 32) (fun x y _ _ => addFp32_lt x y) _ _ hlen hlt
    unfold word
    rwa [BitVec.toNat_ofNat, Nat.mod_eq_of_lt hr]

end

/-- The active lanes of an integer reduction as signed numbers. -/
theorem signed_onLanes (a : Reg) (m : Vm) (c : Core) : (activeLanes (intWidth m.w) (predOf c m) (rdV c a.toNat)).map (sgn (intWidth m.w)) =
    ((List.range (256 / intWidth m.w)).filter fun j => (rdP c m.pred.toNat).getLsbD (intWidth m.w / 8 * j)).map
      fun j => Spec.signed (intWidth m.w) (laneOf (rdV c a.toNat) (intWidth m.w) j) := map_sgn_activeLanes ..

theorem intWidth_pos (w : BitVec 2) : 0 < intWidth w := by revert w; decide

theorem vectorReductions : Spec.VectorReductions := by
  intro i c sh k l hold f d a m hrow
  rw [fpBits_eq]
  dsimp only
  rw [← fpWidth_eq]
  refine ⟨fun hi => ?_, fun hi => ?_, fun hw hplain hi => ?_, fun hw hi => ?_⟩
  · subst hi
    cases hrow
    refine ⟨banked c d.toNat, ?_, rfl⟩
    rw [List.sum_eq_foldl, ← signed_onLanes]
    rfl
  · subst hi
    cases hrow
    have hlow : ∀ y ∈ (activeLanes (intWidth m.w) (predOf c m) (rdV c a.toNat)).map (sgn (intWidth m.w)), -(2 ^ (intWidth m.w - 1) : Int) ≤ y := by
      intro y hy
      obtain ⟨x, -, rfl⟩ := List.mem_map.1 hy
      exact le_sgn (intWidth_pos m.w) x
    refine ⟨_, redMax (intWidth m.w) ((activeLanes (intWidth m.w) (predOf c m) (rdV c a.toNat)).map (sgn (intWidth m.w))), rfl, rfl, ?_, ?_⟩
    · rw [← signed_onLanes]
      exact fun y hy => (foldl_max_spec _ _).1 y (List.mem_cons_of_mem _ hy)
    · rw [← signed_onLanes]
      exact foldl_max_mem hlow
  · rcases hi with rfl | rfl
    · cases hrow
      obtain ⟨b, r, hwrites, hnil, hne⟩ := vfredExtreme a m c true d hplain
      refine ⟨b, r, hwrites, hnil, fun h => ?_⟩
      simp only [if_true]
      exact hne h
    · cases hrow
      obtain ⟨b, r, hwrites, hnil, hne⟩ := vfredExtreme a m c false d hplain
      refine ⟨b, r, hwrites, hnil, fun h => ?_⟩
      simp only [reduceCtorEq, if_false]
      exact hne h
  · subst hi
    cases hrow
    exact vfredsum_tree a m c d hw

end Sys2Proof.Machine
end

section
/-! PROOF. The classes and the roots (O60; R196, R198). A root stands for its exact value with a last bit (Sticky), and its nearest magnitude is
the nearest root. -/

namespace Sys2Proof.Machine

/-! ## Classes (R196) -/

/-- The highest fraction bit, which tells a quiet NaN (R132). -/
theorem testBit_top_fraction {mb : Nat} (hmb : 1 ≤ mb) (x : Nat) : x.testBit (mb - 1) = decide (2 ^ (mb - 1) ≤ x % 2 ^ mb) := by
  obtain ⟨n, rfl⟩ : ∃ n, mb = n + 1 := ⟨mb - 1, by omega⟩
  have hmod := Nat.mod_lt x (Nat.two_pow_pos (n + 1))
  have hbit : (x % 2 ^ (n + 1)).testBit n = x.testBit n := by
    rw [Nat.testBit_mod_two_pow, decide_eq_true (Nat.lt_succ_self n), Bool.true_and]
  rw [Nat.add_sub_cancel, ← hbit, Nat.testBit_eq_decide_div_mod_eq, Bool.eq_iff_iff, decide_eq_true_eq, decide_eq_true_eq]
  rw [pow_succ] at hmod
  have hdiv : x % 2 ^ (n + 1) / 2 ^ n < 2 := (Nat.div_lt_iff_lt_mul (Nat.two_pow_pos n)).2 (by rw [Nat.mul_comm]; exact hmod)
  have hle : 1 ≤ x % 2 ^ (n + 1) / 2 ^ n ↔ 1 * 2 ^ n ≤ x % 2 ^ (n + 1) := Nat.le_div_iff_mul_le (Nat.two_pow_pos n)
  generalize x % 2 ^ (n + 1) / 2 ^ n = d at *
  omega

theorem Ieee.classOf_eq {F : FFmt} (hF : Ieee F) (x : Nat) : classOf F x = 2 ^ Spec.classBit F.eb F.mb x := by
  have htop := hF.maxMag_lt_magOf x
  have hzero : magOf F x / 2 ^ F.mb = 0 ↔ magOf F x < 2 ^ F.mb := Nat.div_eq_zero_iff_lt (Nat.two_pow_pos _)
  unfold classOf Spec.classBit
  rw [field_eq, fraction_eq, negative_eq]
  by_cases hle : magOf F x ≤ F.maxMag
  · obtain ⟨m, e, hval, hmag, -⟩ := valOf_fin hle
    rw [hval, if_neg (mt htop.2 (Nat.not_lt.2 hle))]
    simp only [significand_eq_zero hmag.symm, magUnits_eq_zero, isSubnormal, decide_eq_true_eq, hzero]
    by_cases h0 : magOf F x = 0
    · rw [if_pos h0, if_pos (show magOf F x < 2 ^ F.mb by rw [h0]; exact Nat.two_pow_pos _),
        if_pos (show magOf F x % 2 ^ F.mb = 0 by rw [h0, Nat.zero_mod])]
      cases signOf F x <;> rfl
    · rw [if_neg h0]
      by_cases hsub : magOf F x < 2 ^ F.mb
      · rw [if_pos ⟨Nat.pos_of_ne_zero h0, hsub⟩, if_pos hsub,
          if_neg (show ¬magOf F x % 2 ^ F.mb = 0 by rw [Nat.mod_eq_of_lt hsub]; exact h0)]
        cases signOf F x <;> rfl
      · rw [if_neg fun h => hsub h.2, if_neg hsub]
        cases signOf F x <;> rfl
  · have hgt : F.maxMag < magOf F x := Nat.not_le.1 hle
    have hfield := htop.1 hgt
    have hdiv := Nat.div_add_mod (magOf F x) (2 ^ F.mb)
    rw [hfield, Nat.mul_comm, ← hF.top] at hdiv
    rw [if_pos hfield]
    by_cases hinf : magOf F x = F.maxMag + 1
    · rw [hF.valOf_inf hinf, if_pos (by omega)]
      cases signOf F x <;> rfl
    · have hnan : valOf F x = .nan (!decide (2 ^ (F.mb - 1) ≤ magOf F x % 2 ^ F.mb)) := by
        unfold valOf
        dsimp only
        rw [if_pos hgt, if_neg fun h => hinf h.2, hF.hasInf, Bool.true_and, testBit_top_fraction hF.one_le_mb]
      rw [hnan, if_neg (by omega)]
      by_cases hquiet : 2 ^ (F.mb - 1) ≤ magOf F x % 2 ^ F.mb
      · rw [if_pos hquiet]
        simp [hquiet]
      · rw [if_neg hquiet]
        simp [hquiet]

theorem classBit_le (eb mb x : Nat) : Spec.classBit eb mb x ≤ 9 := by
  unfold Spec.classBit
  dsimp only
  split_ifs <;> decide

/-! ## Square roots (R198) -/

/-- sqrtBits is the whole part of the root. -/
theorem sqrtBits_spec (n k r : Nat) (hlow : r * r ≤ n) (hhigh : n < (r + 2 ^ k) * (r + 2 ^ k)) :
    sqrtBits n k r * sqrtBits n k r ≤ n ∧ n < (sqrtBits n k r + 1) * (sqrtBits n k r + 1) := by
  induction k generalizing r with
  | zero => exact ⟨hlow, hhigh⟩
  | succ k ih =>
    unfold sqrtBits
    split
    · next h =>
      refine ih _ h ?_
      rw [show r + 2 ^ k + 2 ^ k = r + 2 ^ (k + 1) by rw [pow_succ]; ring]
      exact hhigh
    · next h => exact ih r hlow (Nat.not_le.1 h)

theorem sqrtVal_fin {m : Nat} (hm : m ≠ 0) (e : Int) : sqrtVal (.fin false m e) =
    (.fin false (2 * sqrtBits (m * pow2 (e % 2) * 2 ^ 64) 48 0 + (if sqrtBits (m * pow2 (e % 2) * 2 ^ 64) 48 0 *
      sqrtBits (m * pow2 (e % 2) * 2 ^ 64) 48 0 = m * pow2 (e % 2) * 2 ^ 64 then 0 else 1)) ((e - e % 2) / 2 - 33), 0#5) := if_neg hm

/-- A root, with a bit below every place of rounding that tells whether it is exact. -/
theorem sqrtVal_sticky {mb m : Nat} (hmb : mb ≤ 23) (hm : m ≠ 0) (hm' : m < 2 ^ (mb + 1)) (e : Int) :
    ∃ n, sqrtVal (.fin false m e) = (.fin false n ((e - e % 2) / 2 - 33), 0#5) ∧ Sticky mb n (2 * √((m * pow2 (e % 2) * 2 ^ 64 : Nat) : ℝ)) := by
  have hodd : pow2 (e % 2) ≤ 2 ∧ 1 ≤ pow2 (e % 2) := by
    unfold pow2
    rcases Int.emod_two_eq_zero_or_one e with h | h <;> rw [h] <;> decide
  have hm24 : m < 2 ^ 24 := hm'.trans_le (Nat.pow_le_pow_right (by omega) (by omega))
  have hlow : 2 ^ 64 ≤ m * pow2 (e % 2) * 2 ^ 64 := Nat.le_mul_of_pos_left _ (Nat.mul_pos (Nat.pos_of_ne_zero hm) hodd.2)
  have hhigh : m * pow2 (e % 2) * 2 ^ 64 < 2 ^ 96 := by
    have : m * pow2 (e % 2) ≤ 2 ^ 24 * 2 := Nat.mul_le_mul hm24.le hodd.1
    omega
  refine ⟨_, sqrtVal_fin hm e, ?_⟩
  generalize m * pow2 (e % 2) * 2 ^ 64 = n at *
  obtain ⟨hle, hlt⟩ := sqrtBits_spec n 48 0 (Nat.zero_le _) (by omega)
  generalize sqrtBits n 48 0 = r at *
  have hr : 2 ^ 32 ≤ r := by
    by_contra h
    have : (r + 1) * (r + 1) ≤ 2 ^ 32 * 2 ^ 32 := Nat.mul_le_mul (by omega) (by omega)
    omega
  have hle' : ((r : ℝ) * r) ≤ n := by exact_mod_cast hle
  have hlt' : (n : ℝ) < (r + 1) * (r + 1) := by exact_mod_cast hlt
  refine sticky_floor (Real.le_sqrt_of_sq_le (by rw [sq]; exact hle')) ((Real.sqrt_lt' (by positivity)).2 (by rw [sq]; exact hlt')) ?_
    ((Nat.pow_le_pow_right (by omega) (by omega)).trans hr)
  rw [Real.sqrt_eq_iff_mul_self_eq (by positivity) (by positivity)]
  exact ⟨fun h => by exact_mod_cast h.symm, fun h => by exact_mod_cast h.symm⟩

theorem Sticky.ne_zero {mb m : Nat} {x : ℝ} (h : Sticky mb m x) (hx : 0 < x) : m ≠ 0 := by
  rintro rfl
  rcases h with h | ⟨h, -⟩
  · rw [h, Nat.cast_zero] at hx
    exact lt_irrefl _ hx
  · exact absurd h (by decide)

/-- What vfsqrt makes of a code x. -/
structure SqrtLane (F : FFmt) (x : Nat) (r : Nat × FFlags) : Prop where
  lt      : r.1 < 2 ^ (1 + F.eb + F.mb)
  nan     : Spec.isNaN F.eb F.mb x → r.1 = Spec.quietNaN F.eb F.mb
  inf     : x = Spec.infinity F.eb F.mb false → r.1 = x
  neg_inf : x = Spec.infinity F.eb F.mb true → r.1 = Spec.quietNaN F.eb F.mb
  zero    : Spec.units F.eb F.mb x = some 0 → r.1 = x
  neg     : ∀ p < 0, Spec.units F.eb F.mb x = some p → r.1 = Spec.quietNaN F.eb F.mb
  root    : ∀ p > 0, Spec.units F.eb F.mb x = some p → let q := (2 ^ (F.eb - 1) - 1) + F.mb - 1
    Spec.NearestRoot F.eb F.mb q p r.1 ∧ (r.2.getLsbD 4 = true ↔ ¬∃ u, Spec.units F.eb F.mb r.1 = some u ∧ u ^ 2 = p * 2 ^ q)

section
variable {F : FFmt} (hF : Ieee F)
include hF

theorem Ieee.minExp_eq : minExp F = -(((2 ^ (F.eb - 1) - 1) + F.mb - 1 : Nat) : Int) := by
  have := hF.bias_succ
  have := hF.one_le_mb
  unfold minExp
  omega

/-- The number one is not above the largest one. -/
theorem Ieee.one_le_maxUnits : 2 ^ ((2 ^ (F.eb - 1) - 1) + F.mb - 1) ≤ Spec.maxUnits F.eb F.mb := by
  have hmb := hF.one_le_mb
  obtain ⟨n, hn⟩ : ∃ n, F.eb = n + 2 := ⟨F.eb - 2, by have := hF.two_le_eb; omega⟩
  have hpow : 2 ^ F.eb = 2 * 2 ^ (F.eb - 1) := by rw [hn, Nat.add_succ_sub_one, pow_succ 2 (n + 1)]; ring
  have hhalf : 2 ^ 1 ≤ 2 ^ (F.eb - 1) := Nat.pow_le_pow_right (by omega) (by omega)
  have hdouble : 2 ^ (F.mb + 1) = 2 * 2 ^ F.mb := by rw [pow_succ, mul_comm]
  have hpos := Nat.two_pow_pos F.mb
  calc 2 ^ ((2 ^ (F.eb - 1) - 1) + F.mb - 1) ≤ 2 ^ (F.mb + (2 ^ F.eb - 3)) := Nat.pow_le_pow_right (by omega) (by omega)
    _ = 2 ^ F.mb * 2 ^ (2 ^ F.eb - 3) := pow_add ..
    _ ≤ (2 ^ (F.mb + 1) - 1) * 2 ^ (2 ^ F.eb - 3) := Nat.mul_le_mul_right _ (by omega)

/-- The nearest magnitude to a root is the nearest root. -/
theorem Ieee.nearestRoot_of_nearMag {t : ℝ} {c q : Nat} {p : Int} (ht : 0 ≤ t) (hsq : t ^ 2 = (p * 2 ^ q : Int))
    (h : NearMag F.mb t c) (hc : c ≤ F.maxMag) :
    Spec.NearestRoot F.eb F.mb q p (withSign F false c) ∧
    (t ≠ magUnits F.mb c ↔ ¬∃ u, Spec.units F.eb F.mb (withSign F false c) = some u ∧ u ^ 2 = p * 2 ^ q) := by
  have hunits := hF.units_withSign false hc
  rw [show signUnit false = 1 from rfl, one_mul] at hunits
  refine ⟨⟨_, hunits, Int.natCast_nonneg _, fun z hz u hu => ?_⟩, ?_⟩
  · obtain ⟨-, rfl⟩ := hF.magOf_le_of_units hu
    have hsign : signOf F z = false := Nat.testBit_lt_two_pow hz
    have hfour : (((4 * (p * 2 ^ q) : Int)) : ℝ) = (2 * t) ^ 2 := by
      rw [mul_pow, hsq]
      push_cast
      ring
    rw [hsign, show signUnit false = 1 from rfl, one_mul]
    have hmono {x y : Nat} (hxy : ((magUnits F.mb x : Nat) : Int) < magUnits F.mb y) : x < y :=
      (magUnits_strictMono F.mb).lt_iff_lt.1 (by exact_mod_cast hxy)
    constructor
    · intro hlt
      have hle := (h.lower_of_lt (hmono hlt)).1
      rw [← Int.cast_le (R := ℝ), hfour]
      push_cast
      exact pow_le_pow_left₀ (by positivity) hle 2
    · intro hlt
      have hle := (h.upper_of_lt (hmono hlt)).1
      rw [← Int.cast_le (R := ℝ), hfour]
      push_cast
      rw [add_comm (magUnits F.mb (magOf F z) : ℝ)]
      exact pow_le_pow_left₀ (by positivity) hle 2
  · rw [hunits]
    simp only [Option.some.injEq, exists_eq_left']
    rw [← Int.cast_inj (α := ℝ), ← hsq, Int.cast_pow, Int.cast_natCast, pow_left_inj₀ (by positivity) ht two_ne_zero]
    exact ne_comm

/-- The scaled root of a significand, squared. -/
theorem Ieee.sq_scaledRoot {m : Nat} {e p : Int} (hp : (p : ℝ) = m * 2 ^ (e - minExp F)) :
    (2 * √((m * pow2 (e % 2) * 2 ^ 64 : Nat) : ℝ) * 2 ^ ((e - e % 2) / 2 - 33 - minExp F)) ^ 2 =
      (p * 2 ^ ((2 ^ (F.eb - 1) - 1) + F.mb - 1) : Int) := by
  have hmin := hF.minExp_eq
  generalize (2 ^ (F.eb - 1) - 1) + F.mb - 1 = q at hmin ⊢
  rw [mul_pow, mul_pow, Real.sq_sqrt (Nat.cast_nonneg _)]
  rw [Nat.cast_mul, Nat.cast_mul, Nat.cast_pow, Nat.cast_ofNat, Int.cast_mul, Int.cast_pow, Int.cast_ofNat,
    pow2_cast (Int.emod_nonneg e two_ne_zero), hp, ← zpow_natCast, ← zpow_natCast, ← zpow_natCast, ← zpow_natCast, ← zpow_mul]
  have hexp : (2 : ℝ) ^ ((2 : Nat) : Int) * (2 ^ (e % 2) * 2 ^ ((64 : Nat) : Int)) *
      2 ^ (((e - e % 2) / 2 - 33 - minExp F) * ((2 : Nat) : Int)) = 2 ^ (e - minExp F) * 2 ^ (q : Int) := by
    rw [← zpow_add₀ two_ne_zero, ← zpow_add₀ two_ne_zero, ← zpow_add₀ two_ne_zero, ← zpow_add₀ two_ne_zero]
    congr 1
    push_cast
    omega
  linear_combination (m : ℝ) * hexp

/-- A root of a number of the format is not beyond its greatest one. -/
theorem Ieee.root_le_maxMag {t : ℝ} {c x : Nat} {p : Int} (hp0 : 0 < p) (hp : Spec.units F.eb F.mb x = some p) (ht : 0 ≤ t)
    (hsq : t ^ 2 = (p * 2 ^ ((2 ^ (F.eb - 1) - 1) + F.mb - 1) : Int)) (h : NearMag F.mb t c) : c ≤ F.maxMag := by
  have htmax : t ≤ Spec.maxUnits F.eb F.mb := by
    have hsqmax : p * 2 ^ ((2 ^ (F.eb - 1) - 1) + F.mb - 1) ≤ (Spec.maxUnits F.eb F.mb : Int) ^ 2 := by
      have hmul := Nat.mul_le_mul (hF.natAbs_le_maxUnits hp) hF.one_le_maxUnits
      rw [sq, show p = (p.natAbs : Int) by omega]
      exact_mod_cast hmul
    rw [← pow_le_pow_iff_left₀ ht (Nat.cast_nonneg _) two_ne_zero, hsq]
    exact_mod_cast hsqmax
  refine Nat.not_lt.1 fun hgt => ?_
  have hedge := (hF.maxMag_lt_iff h).1 hgt
  push_cast at hedge
  have : (0 : ℝ) < 2 ^ (2 ^ F.eb - 3) := by positivity
  linarith

theorem opSqrt_lane (hmb : F.mb ≤ 23) {k : Word} (hk : k.extractLsb' 0 4 = 0#4) {x : Nat} (hx : x < 2 ^ (1 + F.eb + F.mb)) (y : Nat) :
    SqrtLane F x (opSqrt F k x y) := by
  obtain ⟨-, hin, -⟩ := fctl_plain hk
  unfold opSqrt
  rw [inVal_plain F hin, deliver_plain F hk]
  refine ⟨hF.cvtFp_lt .., fun h => ?_, fun h => ?_, fun h => ?_, fun h => ?_, fun p hp0 h => ?_, fun p hp0 h => ?_⟩
  · obtain ⟨sig, hval⟩ := hF.valOf_nan h
    rw [hval]
    exact hF.cvtFp_nan .rne false false false
  · rw [h, hF.valOf_infinity]
    exact congrArg Prod.fst (hF.cvtFp_inf ..)
  · rw [h, hF.valOf_infinity]
    exact hF.cvtFp_nan .rne false false false
  · obtain ⟨m, e, hval, -, habs, -⟩ := hF.valOf_of_units h
    obtain rfl : m = 0 := (significand_eq_zero habs).2 rfl
    rw [hval]
    exact ((hF.eq_zero_iff hx h _).2 ⟨rfl, rfl⟩).symm
  · obtain ⟨m, e, hval, hsign, habs, -⟩ := hF.valOf_of_units h
    have hm : m ≠ 0 := fun hm => by have := (significand_eq_zero habs).1 hm; omega
    have hneg : signOf F x = true := (signUnit_mul_neg_iff _ (show p.natAbs ≠ 0 by omega)).1 (hsign ▸ hp0)
    have hnan : sqrtVal (valOf F x) = (.nan false, fNV) := by
      rw [hval, hneg]
      exact (if_neg hm).trans (if_pos rfl)
    rw [hnan]
    exact hF.cvtFp_nan .rne false false false
  · intro q
    obtain ⟨m, e, hval, hsign, habs, hm24, -⟩ := hF.valOf_of_units h
    have hm : m ≠ 0 := fun hm => by have := (significand_eq_zero habs).1 hm; omega
    have hpos : signOf F x = false := by
      have := signUnit_mul_neg_iff (signOf F x) (show p.natAbs ≠ 0 by omega)
      rw [← hsign] at this
      exact Bool.eq_false_of_not_eq_true fun ht => by have := this.2 ht; omega
    obtain ⟨n, hsqrt, hsticky⟩ := sqrtVal_sticky hmb hm hm24 e
    rw [hval, hpos, hsqrt, BitVec.zero_or]
    have hradicand : 0 < m * pow2 (e % 2) * 2 ^ 64 := Nat.mul_pos (Nat.mul_pos (Nat.pos_of_ne_zero hm) (Nat.two_pow_pos _)) (by decide)
    have hn : n ≠ 0 := hsticky.ne_zero (mul_pos two_pos (Real.sqrt_pos.2 (by exact_mod_cast hradicand)))
    obtain ⟨hnear, hinexact⟩ := roundMag_near hF.one_le_mb false (e := (e - e % 2) / 2 - 33) hn hsticky
    set t : ℝ := 2 * √((m * pow2 (e % 2) * 2 ^ 64 : Nat) : ℝ) * 2 ^ ((e - e % 2) / 2 - 33 - minExp F)
    have ht : 0 ≤ t := by positivity
    have hsq : t ^ 2 = (p * 2 ^ q : Int) := hF.sq_scaledRoot (by rw [← habs, Nat.cast_natAbs, abs_of_pos hp0])
    have hc := hF.root_le_maxMag hp0 h ht hsq hnear
    obtain ⟨hcode, hnx⟩ := hF.cvtFp_fin false ((e - e % 2) / 2 - 33) hn
    obtain ⟨hroot, hexact⟩ := hF.nearestRoot_of_nearMag ht hsq hnear hc
    have hcode' : roundedCode F false (roundMag F false n ((e - e % 2) / 2 - 33) .rne).1 =
        withSign F false (roundMag F false n ((e - e % 2) / 2 - 33) .rne).1 := by
      unfold roundedCode
      rw [if_neg (Nat.not_lt.2 hc)]
    rw [hcode, hcode', hnx, or_iff_right (Nat.not_lt.2 hc), hinexact]
    exact ⟨hroot, hexact⟩

end

end Sys2Proof.Machine
end

section
/-! PROOF. The approximations (O60; R145 to R149, R198). fin_round rounds to nearest or gives zero (finRound_spec); the operand is read as a number of
units (ReadsAs), of which each procedure makes the value that its rule asks for. -/

namespace Sys2Proof.Machine

/-! ## fin_round (R145) -/

theorem bitLen_eq {n m : Nat} (hlow : 2 ^ n ≤ m) (hhigh : m < 2 ^ (n + 1)) : bitLen m = n + 1 := by
  have hm : m ≠ 0 := by have := Nat.two_pow_pos n; omega
  unfold bitLen
  rw [if_neg hm, Nat.log2_eq_iff hm |>.2 ⟨hlow, hhigh⟩]

theorem minExp_fp32 : minExp (ffmt fmtFP32) = -149 := rfl

/-- The exponent of the last of the 24 places that fin_round keeps, and the significand of them. -/
def finQuantum (v : Nat) (e : Int) : Int := (bitLen v : Nat) + e - 24
def finSig (neg : Bool) (v : Nat) (e : Int) : Nat := (roundAt neg v e (finQuantum v e) .rne).1
def finTop (neg : Bool) (v : Nat) (e : Int) : Int := (bitLen (finSig neg v e) : Nat) - 1 + finQuantum v e

theorem finRound_fst {v : Nat} (hv : v ≠ 0) (neg : Bool) (e : Int) : (finRound neg v e).1 = withSign (ffmt fmtFP32) neg
    (if 128 ≤ finTop neg v e then (ffmt fmtFP32).maxMag + 1 else if finTop neg v e < -126 then 0
      else (finTop neg v e + 126).toNat * 2 ^ 23 + finSig neg v e * 2 ^ 24 / 2 ^ bitLen (finSig neg v e)) := by
  unfold finRound
  rw [if_neg hv]
  change (if 128 ≤ finTop neg v e then (_, fOF ||| fNX) else if finTop neg v e < -126 then (_, fUF ||| fNX) else (_, 0#5)).1 = _
  split
  · rfl
  · split <;> rfl

/-- The significand of fin_round is the nearest one of 24 places, or the next power of two. -/
theorem finSig_spec {v : Nat} (hv : v ≠ 0) (neg : Bool) (e : Int) : let t : ℝ := v * 2 ^ (e + 149)
    let g : ℝ := 2 ^ (finQuantum v e + 149)
    NearGrid t g (finSig neg v e) ∧ 2 ^ 23 * g ≤ t ∧ t ≤ 2 ^ 24 * g ∧ 2 ^ 23 ≤ finSig neg v e ∧ finSig neg v e ≤ 2 ^ 24 := by
  intro t g
  obtain ⟨hlow, hhigh, hlen⟩ := bitLen_bounds hv
  obtain ⟨hgrid, -⟩ := roundAt_near (m := v) (x := v) (e := e) (q := finQuantum v e) neg (.inl rfl)
  have ha : (0 : ℝ) < 2 ^ (e + 149) := by positivity
  have hg : (0 : ℝ) < g := by positivity
  have hscale : (2 : ℝ) ^ (finQuantum v e - e) * 2 ^ (e + 149) = g := by
    rw [← zpow_add₀ two_ne_zero]
    congr 1
    ring
  have hgrid' := hgrid.scale ha
  rw [hscale] at hgrid'
  have hmin : 2 ^ 23 * g ≤ t := by
    have hv' : (2 : ℝ) ^ (bitLen v - 1) ≤ v := by exact_mod_cast hlow
    calc 2 ^ 23 * g = 2 ^ (bitLen v - 1) * 2 ^ (e + 149) := by
          rw [← zpow_natCast, ← zpow_natCast, ← zpow_add₀ two_ne_zero, ← zpow_add₀ two_ne_zero]
          congr 1
          unfold finQuantum
          push_cast [hlen]
          omega
      _ ≤ t := mul_le_mul_of_nonneg_right hv' ha.le
  have hmax : t ≤ 2 ^ 24 * g := by
    have hv' : (v : ℝ) ≤ 2 ^ bitLen v := by exact_mod_cast hhigh.le
    calc t ≤ 2 ^ bitLen v * 2 ^ (e + 149) := mul_le_mul_of_nonneg_right hv' ha.le
      _ = 2 ^ 24 * g := by
          rw [← zpow_natCast, ← zpow_natCast, ← zpow_add₀ two_ne_zero, ← zpow_add₀ two_ne_zero]
          congr 1
          unfold finQuantum
          push_cast
          omega
  change NearGrid t g (finSig neg v e) at hgrid'
  refine ⟨hgrid', hmin, hmax, ?_, ?_⟩
  · have h : (2 * 2 ^ 23 : ℝ) ≤ 2 * finSig neg v e + 1 := le_of_mul_le_mul_right (by linarith [hgrid'.upper]) hg
    have h' : 2 * 2 ^ 23 ≤ 2 * finSig neg v e + 1 := by exact_mod_cast h
    omega
  · have h : (2 * finSig neg v e - 1 : ℝ) ≤ 2 * 2 ^ 24 := le_of_mul_le_mul_right (by linarith [hgrid'.lower]) hg
    have h' : 2 * finSig neg v e ≤ 2 * 2 ^ 24 + 1 := by exact_mod_cast (show (2 * finSig neg v e : ℝ) ≤ 2 * 2 ^ 24 + 1 by linarith)
    omega

/-- Where fin_round's significand stands: with all 24 places, or one place higher. -/
theorem finTop_cases {v : Nat} (hv : v ≠ 0) (neg : Bool) (e : Int) :
    (finSig neg v e < 2 ^ 24 ∧ finTop neg v e = 23 + finQuantum v e ∧ finSig neg v e * 2 ^ 24 / 2 ^ bitLen (finSig neg v e) = finSig neg v e) ∨
    (finSig neg v e = 2 ^ 24 ∧ finTop neg v e = 24 + finQuantum v e ∧ finSig neg v e * 2 ^ 24 / 2 ^ bitLen (finSig neg v e) = 2 ^ 23) := by
  obtain ⟨-, -, -, hlow, hhigh⟩ := finSig_spec hv neg e
  unfold finTop
  rcases hhigh.lt_or_eq with h | h
  · rw [bitLen_eq hlow h]
    exact .inl ⟨h, rfl, Nat.mul_div_cancel _ (Nat.two_pow_pos 24)⟩
  · rw [h]
    exact .inr ⟨rfl, rfl, rfl⟩

/-- The nearest magnitude to a number just below the least normal one. -/
theorem nearMag_least_normal {t : ℝ} (hlow : 2 ^ 25 - 1 ≤ 4 * t) (hhigh : t ≤ 2 ^ 23) : NearMag 23 t (2 ^ 23) := by
  have hval : (magUnits 23 (2 ^ 23) : ℝ) = 2 ^ 23 := by
    rw [show magUnits 23 (2 ^ 23) = 2 ^ 23 by decide]
    norm_num
  have hnext : (magUnits 23 (2 ^ 23 + 1) : ℝ) = 2 ^ 23 + 1 := by
    rw [show magUnits 23 (2 ^ 23 + 1) = 2 ^ 23 + 1 by decide]
    norm_num
  have hprev (b : Nat) (hb : 2 ^ 23 = b + 1) : (magUnits 23 b : ℝ) = 2 ^ 23 - 1 := by
    obtain rfl : b = 2 ^ 23 - 1 := by omega
    rw [show magUnits 23 (2 ^ 23 - 1) = 2 ^ 23 - 1 by decide]
    norm_num
  constructor
  · rw [hval, hnext]; linarith
  · intro _; decide
  · intro b hb; rw [hval, hprev b hb]; linarith
  · intro _ _ _; decide

/-- fin_round of a number whose 24 places are of FP32: the nearest code. -/
theorem finRound_of_quantum {v : Nat} (hv : v ≠ 0) (neg : Bool) {e : Int} (hq : -149 ≤ finQuantum v e) : let t : ℝ := v * 2 ^ (e + 149)
    2 ^ 25 - 1 ≤ 4 * t ∧ ∃ c, NearMag 23 t c ∧ (finRound neg v e).1 = roundedCode (ffmt fmtFP32) neg c := by
  intro t
  obtain ⟨hgrid, hmin, hmax, hlow, hhigh⟩ := finSig_spec hv neg e
  have hcases := finTop_cases hv neg e
  rw [finRound_fst hv]
  set r := finSig neg v e
  set q := finQuantum v e
  have htop : (ffmt fmtFP32).maxMag = 255 * 2 ^ 23 - 1 := rfl
  obtain ⟨d, hd⟩ : ∃ d : Nat, q + 149 = d := ⟨(q + 149).toNat, by omega⟩
  rw [hd, zpow_natCast] at hgrid hmin hmax
  obtain ⟨hnear, -⟩ := nearMag_of_nearGrid (mb := 23) (by decide) hgrid hmax (.inr hmin)
  have hone : (1 : ℝ) ≤ 2 ^ d := one_le_pow₀ one_le_two
  refine ⟨by linarith, d * 2 ^ 23 + r, hnear, ?_⟩
  unfold roundedCode
  rw [htop]
  congr 1
  rcases hcases with ⟨hlt, htopq, hsig⟩ | ⟨heq, htopq, hsig⟩
  · rw [hsig, htopq]
    by_cases hover : 254 ≤ d
    · rw [if_pos (by omega), if_pos (by omega)]
    · rw [if_neg (by omega), if_neg (by omega), if_neg (by omega)]
      omega
  · rw [hsig, htopq]
    by_cases hover : 253 ≤ d
    · rw [if_pos (by omega), if_pos (by omega)]
    · rw [if_neg (by omega), if_neg (by omega), if_neg (by omega)]
      omega

/-- A number whose nearest significand, in places finer than those of FP32, has at most 24 bits lies below the edge of fin_round. -/
theorem NearGrid.below_edge {t g : ℝ} {r : Nat} (h : NearGrid t g r) (hpos : 0 < g) (hg : g ≤ 1 / 2) (hr : r < 2 ^ 24) : 4 * t < 2 ^ 25 - 1 := by
  have hr' : (2 * r + 1 : ℝ) ≤ 2 ^ 25 - 1 := by
    have : ((2 * r + 1 + 1 : Nat) : ℝ) ≤ (2 ^ 25 : Nat) := by exact_mod_cast (show 2 * r + 1 + 1 ≤ 2 ^ 25 by omega)
    push_cast at this
    linarith
  have hprod : (2 * r + 1 : ℝ) * g ≤ (2 ^ 25 - 1) * (1 / 2) := mul_le_mul hr' hg hpos.le (by norm_num)
  refine lt_of_le_of_ne (by linarith [h.upper]) fun he => ?_
  have heq : (2 * r + 1 : ℝ) * g = 2 * t := le_antisymm (by linarith) h.upper
  have hreq : (2 ^ 25 - 1 : ℝ) ≤ 2 * r + 1 := by
    by_contra hlt
    have : (2 * r + 1 : ℝ) * g < (2 ^ 25 - 1) * (1 / 2) := mul_lt_mul (not_le.1 hlt) hg hpos (by norm_num)
    linarith
  have hodd : 2 * r + 1 + 1 = 2 ^ 25 := by exact_mod_cast (show (2 * r + 1 + 1 : ℝ) = 2 ^ 25 by linarith)
  have := h.upperEven heq.symm
  omega

/-- fin_round rounds a number to nearest, or gives a zero where it lies below the least normal one in 24 places (R145). -/
theorem finRound_cases {v : Nat} (hv : v ≠ 0) (neg : Bool) (e : Int) : let t : ℝ := v * 2 ^ (e + 149)
    (4 * t < 2 ^ 25 - 1 ∧ (finRound neg v e).1 = withSign (ffmt fmtFP32) neg 0) ∨
    (2 ^ 25 - 1 ≤ 4 * t ∧ ∃ c, NearMag 23 t c ∧ (finRound neg v e).1 = roundedCode (ffmt fmtFP32) neg c) := by
  intro t
  by_cases hq : -149 ≤ finQuantum v e
  · exact .inr (finRound_of_quantum hv neg hq)
  obtain ⟨hgrid, -, hmax, -, -⟩ := finSig_spec hv neg e
  have hcases := finTop_cases hv neg e
  rw [finRound_fst hv]
  set r := finSig neg v e
  set q := finQuantum v e
  have hgpos : (0 : ℝ) < 2 ^ (q + 149) := by positivity
  have hg (n : Int) (hn : q + 149 ≤ n) : (2 : ℝ) ^ (q + 149) ≤ 2 ^ n := zpow_le_zpow_right₀ one_le_two hn
  rcases hcases with ⟨hlt, htopq, -⟩ | ⟨heq, htopq, hsig⟩
  · refine .inl ⟨hgrid.below_edge hgpos ((hg (-1) (by omega)).trans_eq (by norm_num)) hlt, ?_⟩
    rw [if_neg (by omega), if_pos (by omega)]
  · by_cases hbelow : q < -150
    · have hquarter : (2 : ℝ) ^ (q + 149) ≤ 1 / 4 := (hg (-2) (by omega)).trans_eq (by norm_num)
      exact .inl ⟨by linarith, by rw [if_neg (by omega), if_pos (by omega)]⟩
    · have hhalf : (2 : ℝ) ^ (q + 149) = 1 / 2 := by
        rw [show q + 149 = -1 by omega]
        norm_num
      rw [hhalf] at hgrid hmax
      have hlow := hgrid.lower
      rw [heq] at hlow
      push_cast at hlow
      refine .inr ⟨by linarith, 2 ^ 23, nearMag_least_normal (by linarith) (by linarith), ?_⟩
      rw [hsig, htopq, if_neg (by omega), if_neg (by omega), show (24 + q + 126).toNat = 0 by omega]
      rfl

theorem finRound_zero (neg : Bool) (e : Int) : (finRound neg 0 e).1 = withSign (ffmt fmtFP32) neg 0 := rfl

theorem withSign_fp32_zero (neg : Bool) : withSign (ffmt fmtFP32) neg 0 = if neg then 0x80000000 else 0 := by cases neg <;> rfl

/-- fin_round of v at exponent e, as the number n / k in units of FP32 (R145). -/
theorem finRound_spec {neg : Bool} {v k n : Nat} {e : Int} (hk : 0 < k) (hn : (n : ℝ) = v * 2 ^ (e + 149) * k) :
    Spec.FinRound neg k n (finRound neg v e).1 := by
  have hk' : (0 : ℝ) < k := by exact_mod_cast hk
  have hsmall : 4 * n < (2 ^ 25 - 1) * k ↔ 4 * ((v : ℝ) * 2 ^ (e + 149)) < 2 ^ 25 - 1 := by
    rw [← Nat.cast_lt (α := ℝ)]
    push_cast
    rw [hn, ← mul_assoc, mul_lt_mul_iff_left₀ hk']
    norm_num
  have hcases : (4 * ((v : ℝ) * 2 ^ (e + 149)) < 2 ^ 25 - 1 ∧ (finRound neg v e).1 = withSign (ffmt fmtFP32) neg 0) ∨
      (2 ^ 25 - 1 ≤ 4 * ((v : ℝ) * 2 ^ (e + 149)) ∧ ∃ c, NearMag 23 ((v : ℝ) * 2 ^ (e + 149)) c ∧
        (finRound neg v e).1 = roundedCode (ffmt fmtFP32) neg c) := by
    by_cases hv : v = 0
    · subst hv
      exact .inl ⟨by norm_num, finRound_zero neg e⟩
    · exact finRound_cases hv neg e
  rcases hcases with ⟨hlt, hcode⟩ | ⟨hge, c, hnear, hcode⟩
  · refine ⟨fun _ => by rw [hcode, withSign_fp32_zero], fun h => absurd (hsmall.2 hlt) (Nat.not_lt.2 h)⟩
  · refine ⟨fun h => absurd (hsmall.1 h) (not_lt.2 hge), fun _ => ?_⟩
    rw [hcode]
    refine (ieee_fp32.rounds_of_nearMag (neg := neg) (by exact_mod_cast hk) (by positivity) ?_ hnear).1
    rw [ite_neg_eq, Int.cast_mul, Int.cast_natCast, Int.cast_natCast, hn, mul_assoc (signUnit neg : ℝ)]

theorem finRound_lt (neg : Bool) (v : Nat) (e : Int) : (finRound neg v e).1 < 2 ^ 32 := by
  have hF := ieee_fp32
  have htop := hF.maxMag_lt
  by_cases hv : v = 0
  · subst hv
    rw [finRound_zero]
    cases neg <;> decide
  · rcases finRound_cases hv neg e with ⟨-, hcode⟩ | ⟨-, c, -, hcode⟩
    · rw [hcode]
      cases neg <;> decide
    · rw [hcode]
      exact withSign_lt (F := ffmt fmtFP32) neg (by split <;> omega)

/-! ## The operand of an approximation (R145) -/

/-- The value v is the number of the FP32 code x, which is not a NaN. -/
inductive ReadsAs (x : Nat) (v : FVal) : Prop
  | inf (neg : Bool) (hx : x = Spec.infinity 8 23 neg) (hv : v = .inf neg)
  | fin (p : Int) (neg : Bool) (m : Nat) (e : Int) (hp : Spec.units 8 23 x = some p) (hv : v = .fin neg m e) (hneg : Spec.negative 8 23 x = neg)
      (hsign : p = signUnit neg * p.natAbs) (habs : (p.natAbs : ℝ) = m * 2 ^ (e + 149)) (hm : m < 2 ^ 24) (he : -149 ≤ e)

/-- A code of FP32 that is not a NaN is read as its number. -/
theorem readsAs_fp32 {x : Nat} (hx : x < 2 ^ 32) (hnan : ¬Spec.isNaN 8 23 x) : ReadsAs x (valOf (ffmt fmtFP32) x) := by
  have hF := ieee_fp32
  by_cases hle : magOf (ffmt fmtFP32) x ≤ (ffmt fmtFP32).maxMag
  · have hp : Spec.units 8 23 x = some _ := (hF.units_eq x).trans (if_neg (Nat.not_lt.2 hle))
    obtain ⟨m, e, hval, hsign, habs, hm, he⟩ := hF.valOf_of_units hp
    exact .fin _ _ m e hp hval (negative_eq (F := ffmt fmtFP32) x) hsign habs hm he
  · have hinf : magOf (ffmt fmtFP32) x = (ffmt fmtFP32).maxMag + 1 := by
      have := mt (hF.isNaN_iff x).2 hnan
      omega
    refine .inf (signOf (ffmt fmtFP32) x) ?_ (hF.valOf_inf hinf)
    have hcode : Spec.infinity 8 23 _ = _ := hF.infinity_eq (signOf (ffmt fmtFP32) x)
    rw [hcode, ← hinf]
    exact (withSign_sign_mag hx).symm

/-- A code of a narrower format that is not a NaN is read as the number of the FP32 code that it widens to. -/
theorem Widened.readsAs {F : FFmt} {s : Nat} (hW : Widened F s) {x : Nat} (hnan : ¬Spec.isNaN F.eb F.mb x) :
    ReadsAs (rneFp32 (valOf F x)).1 (valOf F x) := by
  have hF := hW.ieee
  by_cases hle : magOf F x ≤ F.maxMag
  · have hp := (hF.units_eq x).trans (if_neg (Nat.not_lt.2 hle))
    obtain ⟨m, e, hval, hsign, habs, hm, he⟩ := hF.valOf_of_units hp
    obtain ⟨hunits, hneg⟩ := hW.units hp
    have hunit := hW.unit
    rw [minExp_fp32] at hunit
    refine .fin _ _ m e hunits hval ((negative_eq (F := ffmt fmtFP32) _).trans hneg) ?_ ?_
      (hm.trans_le (Nat.pow_le_pow_right (by omega) (Nat.succ_le_succ hW.mb_le))) (by omega)
    · rw [Int.natAbs_mul, Int.natAbs_pow, Nat.cast_mul, ← mul_assoc, ← hsign]
      rfl
    · rw [Int.natAbs_mul, Int.natAbs_pow, Nat.cast_mul, habs, mul_assoc, Nat.cast_pow, show ((Int.natAbs 2 : Nat) : ℝ) = 2 from rfl,
        ← zpow_natCast, ← zpow_add₀ two_ne_zero]
      congr 2
      omega
  · have hinf : magOf F x = F.maxMag + 1 := by
      have := mt (hF.isNaN_iff x).2 hnan
      omega
    exact .inf (signOf F x) (hW.infinity hinf) (hF.valOf_inf hinf)

theorem infinity_fp32_inj {a b : Bool} (h : Spec.infinity 8 23 a = Spec.infinity 8 23 b) : a = b := by
  revert h
  cases a <;> cases b <;> decide

theorem units_infinity_fp32 (neg : Bool) : Spec.units 8 23 (Spec.infinity 8 23 neg) = none := ieee_fp32.units_infinity neg

theorem ne_infinity_of_units {x : Nat} {p : Int} (h : Spec.units 8 23 x = some p) (neg : Bool) : x ≠ Spec.infinity 8 23 neg := by
  rintro rfl
  rw [units_infinity_fp32] at h
  cases h

/-- A number and its significand, as natural numbers. -/
theorem natAbs_eq_mul_pow {m P : Nat} {e : Int} (he : -149 ≤ e) (hP : (P : ℝ) = m * 2 ^ (e + 149)) : P = m * 2 ^ (e + 149).toNat := by
  rw [← Nat.cast_inj (R := ℝ), hP]
  push_cast
  rw [← zpow_natCast, Int.toNat_of_nonneg (by omega)]

/-- unpack of R145: the 24-bit significand and the exponent of the leading bit. -/
theorem unpackM_eq {m P : Nat} {e : Int} (hm0 : m ≠ 0) (hm : m < 2 ^ 24) (he : -149 ≤ e) (hP : (P : ℝ) = m * 2 ^ (e + 149)) :
    unpackM m e = (P * 2 ^ 23 / 2 ^ Nat.log2 P, (Nat.log2 P : Int) - 149) := by
  have hPn := natAbs_eq_mul_pow he hP
  set j := (e + 149).toNat
  have hlog : Nat.log2 P = Nat.log2 m + j := by
    rw [Nat.log2_eq_iff (by rw [hPn]; exact Nat.mul_ne_zero hm0 (Nat.two_pow_pos j).ne'), hPn]
    constructor
    · rw [pow_add]
      exact Nat.mul_le_mul_right _ (Nat.log2_self_le hm0)
    · rw [show Nat.log2 m + j + 1 = Nat.log2 m + 1 + j by omega, pow_add]
      exact Nat.mul_lt_mul_of_pos_right Nat.lt_log2_self (Nat.two_pow_pos j)
  have hlen : Nat.log2 m < 24 := (Nat.log2_lt hm0).2 hm
  unfold unpackM bitLen
  rw [if_neg hm0, hlog]
  refine Prod.ext ?_ ?_
  · show m * 2 ^ (24 - (Nat.log2 m + 1)) = P * 2 ^ 23 / 2 ^ (Nat.log2 m + j)
    rw [hPn, show m * 2 ^ j * 2 ^ 23 = m * 2 ^ (24 - (Nat.log2 m + 1)) * 2 ^ (Nat.log2 m + j) by
      rw [mul_assoc, ← pow_add, mul_assoc, ← pow_add]
      congr 2
      omega]
    exact (Nat.mul_div_cancel _ (Nat.two_pow_pos _)).symm
  · show e - ((24 - (Nat.log2 m + 1) : Nat) : Int) + 23 = ((Nat.log2 m + j : Nat) : Int) - 149
    omega

/-- A power of two with an exponent that may be negative, as a fraction. -/
theorem two_pow_toNat (z : Int) : (2 : ℝ) ^ z.toNat = 2 ^ z * 2 ^ (-z).toNat := by
  rw [← zpow_natCast, ← zpow_natCast, ← zpow_add₀ two_ne_zero]
  congr 1
  omega

/-- fin_round of y at exponent e, in units of FP32. -/
theorem finRound_scaled (neg : Bool) (y : Nat) {z e : Int} (h : e + 149 = z) :
    Spec.FinRound neg (2 ^ (-z).toNat) (y * 2 ^ z.toNat) (finRound neg y e).1 := by
  refine finRound_spec (Nat.two_pow_pos _) ?_
  rw [h, Nat.cast_mul, mul_assoc, Nat.cast_pow, Nat.cast_pow, Nat.cast_ofNat, two_pow_toNat z]

/-! ## The procedures (R146 to R149) -/

/-- One step of R146. -/
def rcpStep (M y : Nat) : Nat := y * (2 ^ 31 - M * y / 2 ^ 23) / 2 ^ 30

theorem rcpProc_eq (neg : Bool) (M : Nat) (e : Int) :
    rcpProc neg M e = finRound neg (rcpStep M (rcpStep M (rcTable.getD (M / 2 ^ 19 % 16) 0 * 2 ^ 14))) (-30 - e) := rfl

theorem rcpIs_iff (neg : Bool) {P M : Nat} (hM : P * 2 ^ 23 / 2 ^ Nat.log2 P = M) (r : Nat) :
    Spec.RcpIs neg P r ↔ Spec.FinRound neg (2 ^ (Nat.log2 P - 268))
      (rcpStep M (rcpStep M ((2 ^ 22 / (33 + 2 * (M / 2 ^ 19 % 16)) + 1) / 2 * 2 ^ 14)) * 2 ^ (268 - Nat.log2 P)) r := by
  subst hM
  exact Iff.rfl

theorem rcTable_eq : ∀ i < 16, rcTable.getD i 0 = (2 ^ 22 / (33 + 2 * i) + 1) / 2 := by decide

/-- R146, of a number of P units. -/
theorem rcpProc_spec (neg : Bool) (P : Nat) : Spec.RcpIs neg P (rcpProc neg (P * 2 ^ 23 / 2 ^ Nat.log2 P) ((Nat.log2 P : Int) - 149)).1 := by
  rw [rcpIs_iff neg rfl, rcpProc_eq, ← rcTable_eq _ (Nat.mod_lt _ (by decide)), show Nat.log2 P - 268 = (-(268 - (Nat.log2 P : Int))).toNat by omega,
    show 268 - Nat.log2 P = (268 - (Nat.log2 P : Int)).toNat by omega]
  exact finRound_scaled neg _ (by ring)

/-- One step of R147. -/
def rsqStep (M y : Nat) : Nat := y * (3 * 2 ^ 30 - M * (y * y / 2 ^ 30) / 2 ^ 23) / 2 ^ 31

theorem rsqProc_eq {M M2 : Nat} {e : Int} (hM : (if e % 2 = 1 then 2 * M else M) = M2) :
    rsqProc M e =
      finRound false (rsqStep M2 (rsqStep M2 (rsTable.getD (8 * (e % 2).toNat + M / 2 ^ 20 % 8) 0 * 2 ^ 14))) (-30 - (e - e % 2) / 2) := by
  subst hM
  rfl

theorem rsqIs_iff {P M odd : Nat} (hM : P * 2 ^ 23 / 2 ^ Nat.log2 P = M) (hodd : (Nat.log2 P + 1) % 2 = odd) (r : Nat) :
    Spec.RsqIs P r ↔ Spec.FinRound false 1 (rsqStep (M * 2 ^ odd) (rsqStep (M * 2 ^ odd) (rsTable.getD (8 * odd + M / 2 ^ 20 % 8) 0 * 2 ^ 14)) *
      2 ^ (119 - ((Nat.log2 P : Int) - 149 - odd) / 2).toNat) r := by
  subst hM hodd
  exact Iff.rfl

/-- R147, of a number of P units that FP32 has. -/
theorem rsqProc_spec {P : Nat} (hP : Nat.log2 P < 277) :
    Spec.RsqIs P (rsqProc (P * 2 ^ 23 / 2 ^ Nat.log2 P) ((Nat.log2 P : Int) - 149)).1 := by
  have ho : (Nat.log2 P + 1) % 2 < 2 := Nat.mod_lt _ (by decide)
  have hmod : ((Nat.log2 P : Int) - 149) % 2 = ((Nat.log2 P + 1) % 2 : Nat) := by omega
  rw [rsqIs_iff rfl rfl]
  generalize P * 2 ^ 23 / 2 ^ Nat.log2 P = M
  generalize (Nat.log2 P + 1) % 2 = odd at ho hmod ⊢
  have hM : (if ((Nat.log2 P : Int) - 149) % 2 = 1 then 2 * M else M) = M * 2 ^ odd := by
    rw [hmod]
    rcases Nat.lt_succ_iff_lt_or_eq.1 ho with h | rfl
    · rw [Nat.lt_one_iff.1 h, if_neg (by decide), pow_zero, mul_one]
    · rw [if_pos (by decide), pow_one, mul_comm]
  rw [rsqProc_eq hM, hmod, Int.toNat_natCast]
  generalize rsqStep (M * 2 ^ odd) (rsqStep (M * 2 ^ odd) (rsTable.getD (8 * odd + M / 2 ^ 20 % 8) 0 * 2 ^ 14)) = y
  have hscaled := finRound_scaled false y (e := -30 - ((Nat.log2 P : Int) - 149 - odd) / 2)
    (z := 119 - ((Nat.log2 P : Int) - 149 - odd) / 2) (by ring)
  rwa [show (-(119 - ((Nat.log2 P : Int) - 149 - odd) / 2)).toNat = 0 by omega, pow_zero] at hscaled

/-- The fixed-point argument of R148. -/
theorem exp2_argument {neg : Bool} {m : Nat} {e p : Int} (he : -149 ≤ e) (hsign : p = signUnit neg * p.natAbs)
    (habs : (p.natAbs : ℝ) = m * 2 ^ (e + 149)) :
    (if 0 ≤ e + 24 then (if neg then -(m : Int) else m) * pow2 (e + 24) else (if neg then -(m : Int) else m) / (pow2 (-(e + 24)) : Int)) =
      p / 2 ^ 125 := by
  have hP := natAbs_eq_mul_pow he habs
  have hp : p = signUnit neg * m * 2 ^ (e + 149).toNat := by
    rw [hsign, hP]
    push_cast
    ring
  rw [ite_neg_eq, hp]
  unfold pow2
  by_cases h : 0 ≤ e + 24
  · rw [if_pos h, show (e + 149).toNat = (e + 24).toNat + 125 by omega, pow_add, ← mul_assoc, Int.mul_ediv_cancel _ (by positivity)]
    push_cast
    rfl
  · rw [if_neg h]
    obtain ⟨j, hj⟩ : ∃ j : Nat, (e + 149).toNat = j := ⟨_, rfl⟩
    have h125 : (2 : Int) ^ 125 = 2 ^ (-(e + 24)).toNat * 2 ^ j := by
      rw [← pow_add]
      congr 1
      omega
    rw [hj, h125, Int.mul_ediv_mul_of_pos_left _ _ (by positivity)]
    push_cast
    rfl

/-- The polynomial of R148. -/
def exp2Poly (q : Nat) : Nat := 2 ^ 30 + (744261118 + (257941248 + 59597083 * q / 2 ^ 30) * q / 2 ^ 30) * q / 2 ^ 30

/-- The value of R148 for a fraction f of 24 bits. -/
def exp2Value (f : Nat) : Nat := t2Table.getD (f / 2 ^ 21) 0 * exp2Poly (f % 2 ^ 21 * 2 ^ 6) / 2 ^ 30

theorem exp2Proc_eq {neg : Bool} {m f : Nat} {e X : Int} (hX : (if 0 ≤ e + 24 then (if neg then -(m : Int) else m) * pow2 (e + 24)
      else (if neg then -(m : Int) else m) / (pow2 (-(e + 24)) : Int)) = X) (hf : (X % 2 ^ 24).toNat = f) :
    exp2Proc neg m e = finRound false (t2Table.getD (f / 2 ^ 21 % 8) 0 * exp2Poly (f % 2 ^ 21 * 2 ^ 6) / 2 ^ 30) (X / 2 ^ 24 - 30) := by
  subst hX hf
  rfl

theorem exp2Is_iff {p n : Int} (hn : p / 2 ^ 125 / 2 ^ 24 + 119 = n) (r : Nat) :
    Spec.Exp2Is p r ↔ Spec.FinRound false (2 ^ (-n).toNat) (exp2Value (p / 2 ^ 125 % 2 ^ 24).toNat * 2 ^ n.toNat) r := by
  subst hn
  exact Iff.rfl

/-- R148, of a number of p units. -/
theorem exp2Proc_spec {neg : Bool} {m : Nat} {e p : Int} (he : -149 ≤ e) (hsign : p = signUnit neg * p.natAbs)
    (habs : (p.natAbs : ℝ) = m * 2 ^ (e + 149)) : Spec.Exp2Is p (exp2Proc neg m e).1 := by
  rw [exp2Is_iff rfl, exp2Proc_eq (exp2_argument he hsign habs) rfl]
  have hf : (p / 2 ^ 125 % 2 ^ 24).toNat / 2 ^ 21 % 8 = (p / 2 ^ 125 % 2 ^ 24).toNat / 2 ^ 21 := by omega
  rw [hf]
  exact finRound_scaled false (exp2Value (p / 2 ^ 125 % 2 ^ 24).toNat) (z := p / 2 ^ 125 / 2 ^ 24 + 119) (e := p / 2 ^ 125 / 2 ^ 24 - 30) (by ring)

/-- The fixed-point logarithm of R149 from its exponent, its table entry and its argument. -/
def log2Sum (e g z : Int) : Int :=
  e * 2 ^ 46 + g * 2 ^ 16 + (6196328019 + (-3098164009 + (2065442673 + -1549082005 * z / 2 ^ 46) * z / 2 ^ 46) * z / 2 ^ 46) * z / 2 ^ 32

theorem log2Proc_eq {M j : Nat} {e S : Int} (hj : M / 2 ^ 20 % 8 = j)
    (hS : log2Sum (if 6 ≤ j then e + 1 else e) (if 6 ≤ j then 0 else (lgTable.getD j 0 : Nat))
      (if 6 ≤ j then (M * 2 ^ 22 : Nat) - 2 ^ 46 else (M * ibTable.getD j 0 / 2 ^ 7 : Nat) - 2 ^ 46) = S) :
    log2Proc M e = if S = 0 then (0, 0#5) else finRound (decide (S < 0)) S.natAbs (-46) := by
  subst hj hS
  rfl

theorem log2Is_iff {P j : Nat} {m s : Int} (hm : ((P * 2 ^ 23 / 2 ^ Nat.log2 P : Nat) : Int) = m) (hj : (m / 2 ^ 20 % 8).toNat = j)
    (hs : log2Sum ((Nat.log2 P : Int) - 149 + if 6 ≤ j then 1 else 0)
      (if 6 ≤ j then 0 else [0, 182455581, 345667660, 493310944, 628098702, 752091421].getD j 0)
      (if 6 ≤ j then m * 2 ^ 22 - 2 ^ 46
        else m * [1073741824, 954437177, 858993459, 780903145, 715827883, 660764199].getD j 0 / 2 ^ 7 - 2 ^ 46) = s) (r : Nat) :
    Spec.Log2Is P r ↔ if s = 0 then r = 0 else Spec.FinRound (decide (s < 0)) 1 (s.natAbs * 2 ^ 103) r := by
  subst hm hj hs
  exact Iff.rfl

theorem lgTable_cast : ∀ j < 6, ((lgTable.getD j 0 : Nat) : Int) = [0, 182455581, 345667660, 493310944, 628098702, 752091421].getD j 0 := by decide
theorem ibTable_cast : ∀ j < 6, ((ibTable.getD j 0 : Nat) : Int) =
    [1073741824, 954437177, 858993459, 780903145, 715827883, 660764199].getD j 0 := by decide

/-- R149, of a number of P units. -/
theorem log2Proc_spec (P : Nat) : Spec.Log2Is P (log2Proc (P * 2 ^ 23 / 2 ^ Nat.log2 P) ((Nat.log2 P : Int) - 149)).1 := by
  obtain ⟨M, hM⟩ : ∃ M, P * 2 ^ 23 / 2 ^ Nat.log2 P = M := ⟨_, rfl⟩
  have hmod : ((M : Int) / 2 ^ 20 % 8).toNat = M / 2 ^ 20 % 8 := by omega
  rw [log2Is_iff (congrArg Nat.cast hM) hmod rfl, hM, log2Proc_eq rfl rfl]
  generalize M / 2 ^ 20 % 8 = j
  have hE : ((Nat.log2 P : Int) - 149 + if 6 ≤ j then 1 else 0) = if 6 ≤ j then (Nat.log2 P : Int) - 149 + 1 else (Nat.log2 P : Int) - 149 := by
    split
    · rfl
    · rw [add_zero]
  have hL : (if 6 ≤ j then (0 : Int) else [0, 182455581, 345667660, 493310944, 628098702, 752091421].getD j 0) =
      if 6 ≤ j then 0 else ((lgTable.getD j 0 : Nat) : Int) := by
    split
    · rfl
    · next h => exact (lgTable_cast j (Nat.not_le.1 h)).symm
  have hZ : (if 6 ≤ j then (M : Int) * 2 ^ 22 - 2 ^ 46
        else (M : Int) * [1073741824, 954437177, 858993459, 780903145, 715827883, 660764199].getD j 0 / 2 ^ 7 - 2 ^ 46) =
      if 6 ≤ j then ((M * 2 ^ 22 : Nat) : Int) - 2 ^ 46 else ((M * ibTable.getD j 0 / 2 ^ 7 : Nat) : Int) - 2 ^ 46 := by
    split
    · push_cast
      rfl
    · next h =>
      rw [← ibTable_cast j (Nat.not_le.1 h)]
      push_cast
      rfl
  rw [hE, hL, hZ]
  generalize log2Sum _ _ _ = S
  by_cases hS : S = 0
  · rw [if_pos hS, if_pos hS]
  · rw [if_neg hS, if_neg hS]
    exact finRound_scaled (decide (S < 0)) S.natAbs (z := 103) (by decide)

/-! ## The approximations of a value (R145) -/

theorem canon_fp32 : (ffmt fmtFP32).canon = Spec.quietNaN 8 23 := by decide

theorem approx_nan (t : Approx) (sig : Bool) : (approx t (.nan sig)).1 = Spec.quietNaN 8 23 := by
  rw [← canon_fp32]
  rfl

theorem approx_zero (t : Approx) (neg : Bool) (e : Int) : approx t (.fin neg 0 e) = approx t (.fin neg 0 0) := by
  unfold approx
  exact (if_pos rfl).trans (if_pos rfl).symm

theorem approx_rcp_fin {m : Nat} (hm : m ≠ 0) (neg : Bool) (e : Int) :
    approx .rcp (.fin neg m e) = rcpProc neg (unpackM m e).1 (unpackM m e).2 := if_neg hm

theorem approx_rsq_fin {m : Nat} (hm : m ≠ 0) (neg : Bool) (e : Int) : approx .rsq (.fin neg m e) =
    if neg then ((ffmt fmtFP32).canon, fNV) else rsqProc (unpackM m e).1 (unpackM m e).2 := if_neg hm

theorem approx_exp2_fin {m : Nat} (hm : m ≠ 0) (neg : Bool) (e : Int) : approx .exp2 (.fin neg m e) =
    if 7 ≤ (unpackM m e).2 then
      if neg then (0, fUF ||| fNX) else (withSign (ffmt fmtFP32) false ((ffmt fmtFP32).maxMag + 1), fOF ||| fNX)
    else exp2Proc neg m e := if_neg hm

theorem approx_log2_fin {m : Nat} (hm : m ≠ 0) (neg : Bool) (e : Int) : approx .log2 (.fin neg m e) =
    if neg then ((ffmt fmtFP32).canon, fNV) else log2Proc (unpackM m e).1 (unpackM m e).2 := if_neg hm

theorem approx_lt (t : Approx) (v : FVal) : (approx t v).1 < 2 ^ 32 := by
  cases v with
  | nan sig => exact (by decide : 0x7FC00000 < 2 ^ 32)
  | inf neg => cases t <;> cases neg <;> decide
  | fin neg m e =>
    by_cases hm : m = 0
    · subst hm
      rw [approx_zero]
      cases t <;> cases neg <;> decide
    · cases t with
      | rcp =>
        rw [approx_rcp_fin hm]
        exact finRound_lt ..
      | rsq =>
        rw [approx_rsq_fin hm]
        split
        · decide
        · exact finRound_lt ..
      | exp2 =>
        rw [approx_exp2_fin hm]
        split
        · split <;> decide
        · exact finRound_lt ..
      | log2 =>
        rw [approx_log2_fin hm]
        split
        · decide
        · rw [log2Proc_eq rfl rfl]
          generalize log2Sum _ _ _ = S
          split
          · decide
          · exact finRound_lt ..

/-- What R145 asks of an approximation of the FP32 code x: something where x is infinite, and something where it is a number. -/
theorem approx_of_reads {x : Nat} {v : FVal} (h : ReadsAs x v) {infinite : Bool → Prop} {finite : Int → Prop}
    (hinf : ∀ neg, v = .inf neg → infinite neg)
    (hfin : ∀ p neg m e, Spec.units 8 23 x = some p → v = .fin neg m e → Spec.negative 8 23 x = neg → p = signUnit neg * p.natAbs →
      (p.natAbs : ℝ) = m * 2 ^ (e + 149) → m < 2 ^ 24 → -149 ≤ e → finite p) :
    (∀ neg, x = Spec.infinity 8 23 neg → infinite neg) ∧ ∀ p, Spec.units 8 23 x = some p → finite p := by
  cases h with
  | inf neg hx hv =>
    refine ⟨fun neg' hx' => ?_, fun p hp => absurd hx (ne_infinity_of_units hp neg)⟩
    obtain rfl := infinity_fp32_inj (hx.symm.trans hx')
    exact hinf _ hv
  | fin p neg m e hp hv hneg hsign habs hm he =>
    refine ⟨fun neg' hx' => absurd hx' (ne_infinity_of_units hp neg'), fun p' hp' => ?_⟩
    obtain rfl : p = p' := Option.some.inj (hp.symm.trans hp')
    exact hfin p neg m e hp hv hneg hsign habs hm he

/-- The same, one sign at a time. -/
theorem approx_of_reads_signs {x : Nat} {v : FVal} (h : ReadsAs x v) {infinite : Bool → Prop} {finite : Int → Prop}
    (hinf : ∀ neg, v = .inf neg → infinite neg)
    (hfin : ∀ p neg m e, Spec.units 8 23 x = some p → v = .fin neg m e → Spec.negative 8 23 x = neg → p = signUnit neg * p.natAbs →
      (p.natAbs : ℝ) = m * 2 ^ (e + 149) → m < 2 ^ 24 → -149 ≤ e → finite p) :
    (x = Spec.infinity 8 23 false → infinite false) ∧ (x = Spec.infinity 8 23 true → infinite true) ∧
      ∀ p, Spec.units 8 23 x = some p → finite p := by
  obtain ⟨hinf', hfin'⟩ := approx_of_reads h hinf hfin
  exact ⟨hinf' false, hinf' true, hfin'⟩

theorem log2_lt_of_lt_mul {m a b : Nat} (hm : m ≠ 0) (h : m < 2 ^ a * 2 ^ b) : Nat.log2 m < a + b :=
  (Nat.log2_lt hm).2 (by rwa [pow_add])

theorem log2_lt_of_units {x : Nat} {p : Int} (hp : Spec.units 8 23 x = some p) (hp0 : p.natAbs ≠ 0) : Nat.log2 p.natAbs < 277 :=
  log2_lt_of_lt_mul (a := 24) (b := 253) hp0
    ((ieee_fp32.natAbs_le_maxUnits hp).trans_lt (Nat.mul_lt_mul_of_pos_right (by decide) (Nat.two_pow_pos 253)))

theorem infinity_fp32 (neg : Bool) : withSign (ffmt fmtFP32) neg ((ffmt fmtFP32).maxMag + 1) = Spec.infinity 8 23 neg :=
  (ieee_fp32.infinity_eq neg).symm

theorem decide_neg_of_sign {p : Int} {neg : Bool} (hsign : p = signUnit neg * p.natAbs) (hp0 : p.natAbs ≠ 0) : decide (p < 0) = neg := by
  rw [hsign, Bool.eq_iff_iff, decide_eq_true_eq]
  exact signUnit_mul_neg_iff neg hp0

section
variable {x : Nat} {v : FVal} (h : ReadsAs x v)
include h

/-- vfrcpa (R145, R146). -/
theorem approx_rcp_spec : (∀ neg, x = Spec.infinity 8 23 neg → (approx .rcp v).1 = if neg then 0x80000000 else 0) ∧
    ∀ p, Spec.units 8 23 x = some p → (p = 0 → (approx .rcp v).1 = Spec.infinity 8 23 (Spec.negative 8 23 x)) ∧
      (p ≠ 0 → Spec.RcpIs (decide (p < 0)) p.natAbs (approx .rcp v).1) := by
  refine approx_of_reads h (fun neg hv => ?_) fun p neg m e hp hv hneg hsign habs hm he => ⟨fun h0 => ?_, fun h0 => ?_⟩
  · rw [hv]
    exact withSign_fp32_zero neg
  · obtain rfl : m = 0 := (significand_eq_zero habs).2 (Int.natAbs_eq_zero.2 h0)
    rw [hv, hneg, ← infinity_fp32]
    rfl
  · have hp0 : p.natAbs ≠ 0 := Int.natAbs_ne_zero.2 h0
    have hm0 : m ≠ 0 := mt (significand_eq_zero habs).1 hp0
    rw [decide_neg_of_sign hsign hp0, hv, approx_rcp_fin hm0, unpackM_eq hm0 hm he habs]
    exact rcpProc_spec neg _

/-- vfrsqa (R145, R147). -/
theorem approx_rsq_spec : (x = Spec.infinity 8 23 false → (approx .rsq v).1 = 0) ∧
    (x = Spec.infinity 8 23 true → (approx .rsq v).1 = Spec.quietNaN 8 23) ∧
    ∀ p, Spec.units 8 23 x = some p → (p = 0 → (approx .rsq v).1 = Spec.infinity 8 23 (Spec.negative 8 23 x)) ∧
      (p < 0 → (approx .rsq v).1 = Spec.quietNaN 8 23) ∧ (0 < p → Spec.RsqIs p.natAbs (approx .rsq v).1) := by
  refine approx_of_reads_signs h (infinite := fun neg => (approx .rsq v).1 = if neg then Spec.quietNaN 8 23 else 0)
    (fun neg hv => by rw [hv]; cases neg <;> rfl) fun p neg m e hp hv hneg hsign habs hm he => ⟨fun h0 => ?_, fun h0 => ?_, fun h0 => ?_⟩
  · obtain rfl : m = 0 := (significand_eq_zero habs).2 (Int.natAbs_eq_zero.2 h0)
    rw [hv, hneg, ← infinity_fp32]
    rfl
  · have hp0 : p.natAbs ≠ 0 := by omega
    have hm0 : m ≠ 0 := mt (significand_eq_zero habs).1 hp0
    rw [hv, approx_rsq_fin hm0, ← decide_neg_of_sign hsign hp0, if_pos (decide_eq_true h0)]
    exact canon_fp32
  · have hp0 : p.natAbs ≠ 0 := by omega
    have hm0 : m ≠ 0 := mt (significand_eq_zero habs).1 hp0
    rw [hv, approx_rsq_fin hm0, ← decide_neg_of_sign hsign hp0, if_neg (by rw [decide_eq_true_eq]; omega), unpackM_eq hm0 hm he habs]
    exact rsqProc_spec (log2_lt_of_units hp hp0)

/-- vexp2a (R145, R148). -/
theorem approx_exp2_spec : (x = Spec.infinity 8 23 false → (approx .exp2 v).1 = Spec.infinity 8 23 false) ∧
    (x = Spec.infinity 8 23 true → (approx .exp2 v).1 = 0) ∧
    ∀ p, Spec.units 8 23 x = some p → (p = 0 → (approx .exp2 v).1 = 0x3F800000) ∧
      (2 ^ 156 ≤ p → (approx .exp2 v).1 = Spec.infinity 8 23 false) ∧ (p ≤ -(2 ^ 156) → (approx .exp2 v).1 = 0) ∧
      (p ≠ 0 → -(2 ^ 156) < p → p < 2 ^ 156 → Spec.Exp2Is p (approx .exp2 v).1) := by
  refine approx_of_reads_signs h (infinite := fun neg => (approx .exp2 v).1 = if neg then 0 else Spec.infinity 8 23 false)
    (fun neg hv => by rw [hv, ← infinity_fp32]; cases neg <;> rfl) fun p neg m e hp hv hneg hsign habs hm he => ?_
  rw [hv]
  by_cases h0 : p = 0
  · obtain rfl : m = 0 := (significand_eq_zero habs).2 (Int.natAbs_eq_zero.2 h0)
    subst h0
    exact ⟨fun _ => rfl, fun h => absurd h (by decide), fun h => absurd h (by decide), fun h => absurd rfl h⟩
  · have hp0 : p.natAbs ≠ 0 := Int.natAbs_ne_zero.2 h0
    have hm0 : m ≠ 0 := mt (significand_eq_zero habs).1 hp0
    have hbig : 7 ≤ (Nat.log2 p.natAbs : Int) - 149 ↔ 2 ^ 156 ≤ p.natAbs := by
      rw [← Nat.le_log2 hp0]
      omega
    rw [approx_exp2_fin hm0, unpackM_eq hm0 hm he habs]
    simp only [hbig, ← decide_neg_of_sign hsign hp0, decide_eq_true_eq, infinity_fp32]
    refine ⟨fun h => absurd h h0, fun h => ?_, fun h => ?_, fun _ hlow hhigh => ?_⟩
    · rw [if_pos (by omega), if_neg (by omega)]
    · rw [if_pos (by omega), if_pos (by omega)]
    · rw [if_neg (by omega), decide_neg_of_sign hsign hp0]
      exact exp2Proc_spec he hsign habs

/-- vlog2a (R145, R149). -/
theorem approx_log2_spec : (x = Spec.infinity 8 23 false → (approx .log2 v).1 = Spec.infinity 8 23 false) ∧
    (x = Spec.infinity 8 23 true → (approx .log2 v).1 = Spec.quietNaN 8 23) ∧
    ∀ p, Spec.units 8 23 x = some p → (p = 0 → (approx .log2 v).1 = Spec.infinity 8 23 true) ∧
      (p < 0 → (approx .log2 v).1 = Spec.quietNaN 8 23) ∧ (0 < p → Spec.Log2Is p.natAbs (approx .log2 v).1) := by
  refine approx_of_reads_signs h (infinite := fun neg => (approx .log2 v).1 = if neg then Spec.quietNaN 8 23 else Spec.infinity 8 23 false)
    (fun neg hv => by rw [hv, ← infinity_fp32]; cases neg <;> rfl)
    fun p neg m e hp hv hneg hsign habs hm he => ⟨fun h0 => ?_, fun h0 => ?_, fun h0 => ?_⟩
  · obtain rfl : m = 0 := (significand_eq_zero habs).2 (Int.natAbs_eq_zero.2 h0)
    rw [hv, ← infinity_fp32]
    rfl
  · have hp0 : p.natAbs ≠ 0 := by omega
    have hm0 : m ≠ 0 := mt (significand_eq_zero habs).1 hp0
    rw [hv, approx_log2_fin hm0, ← decide_neg_of_sign hsign hp0, if_pos (decide_eq_true h0)]
    exact canon_fp32
  · have hp0 : p.natAbs ≠ 0 := by omega
    have hm0 : m ≠ 0 := mt (significand_eq_zero habs).1 hp0
    rw [hv, approx_log2_fin hm0, ← decide_neg_of_sign hsign hp0, if_neg (by rw [decide_eq_true_eq]; omega), unpackM_eq hm0 hm he habs]
    exact log2Proc_spec _

end

/-- The rows of R198 name the approximation of their instruction, and its results are those of their procedures. -/
theorem approxRow_op {i : Instr} {sh : Shape} {k : PKind} {l : BitVec 4} {hold : Core → Core} {f : Core → VRes} {d a : Reg} {w : BitVec 2}
    {g : Nat → Nat → Prop} (hrow : Spec.vecRow i = some (sh, k, l, hold, f)) (har : Spec.approxRow i = some (d, a, w, g)) :
    ∃ t, f = vlRes (opApprox t (fpFmt w)) d a a w ∧ ∀ x v, ReadsAs x v → g x (approx t v).1 := by
  unfold Spec.approxRow at har
  split at har <;> cases har <;> cases hrow
  · exact ⟨_, rfl, fun x v h => approx_rcp_spec h⟩
  · exact ⟨_, rfl, fun x v h => approx_rsq_spec h⟩
  · exact ⟨_, rfl, fun x v h => approx_exp2_spec h⟩
  · exact ⟨_, rfl, fun x v h => approx_log2_spec h⟩

end Sys2Proof.Machine
end

section
/-! PROOF. The values of the lane-wise instructions, and the Gaussian samples (O60; R153, R154, R196, R198, R199). A mix of words is the mix of their
numbers, and a sample is its sum of bytes, scaled and rounded once. -/

namespace Sys2Proof.Machine

/-! ## The lanes of the approximations, the classes and the roots (R196, R198) -/

/-- The rounding of an FP32 code into a narrower format (R141, R198). -/
theorem Widened.narrows {F : FFmt} {s q : Nat} (hW : Widened F s) (hq : 149 - q = s) (x : Nat) :
    Spec.Narrows F.eb F.mb q x (cvtFp F .rne false false (valOf (ffmt fmtFP32) x)).1 := by
  have hF := hW.ieee
  refine ⟨fun h => ?_, fun neg h => ?_, fun u hu => ⟨?_, fun h0 => ?_⟩⟩
  · obtain ⟨sig, hx⟩ := ieee_fp32.valOf_nan h
    rw [hx]
    exact hF.cvtFp_nan ..
  · rw [h, show valOf (ffmt fmtFP32) (Spec.infinity 8 23 neg) = .inf neg from ieee_fp32.valOf_infinity neg, hF.cvtFp_inf]
  · refine (hF.cvtFp_rounds_of_isReal (by positivity) ?_).1
    have hunit : (u : ℝ) * 2 ^ minExp F / ((2 ^ (149 - q) : Int) : ℝ) = u * 2 ^ minExp (ffmt fmtFP32) := by
      rw [hq, hW.unit, zpow_add₀ two_ne_zero, zpow_natCast]
      push_cast
      field_simp
    rw [hunit]
    exact ieee_fp32.valOf_isReal hu
  · obtain ⟨m, e, hval, -, habs, -⟩ := ieee_fp32.valOf_of_units hu
    obtain rfl : m = 0 := (significand_eq_zero habs).2 (Int.natAbs_eq_zero.2 h0)
    have hneg : Spec.negative 8 23 x = signOf (ffmt fmtFP32) x := negative_eq (F := ffmt fmtFP32) x
    rw [hval, cvtFp_zero, hneg]
    cases signOf (ffmt fmtFP32) x <;> rfl

/-- What an approximation makes of a lane of FP32, and of a narrower one. -/
theorem opApprox_fp32 (t : Approx) {k : Word} (hk : k.extractLsb' 0 4 = 0#4) (F : FFmt) (x y : Nat) :
    opApprox t fmtFP32 F k x y = approx t (valOf F x) := by
  obtain ⟨-, hin, -⟩ := fctl_plain hk
  unfold opApprox
  rw [inVal_plain F hin]
  rfl

theorem opApprox_narrow (t : Approx) {fmt : Nat} (hfmt : fmt ≠ fmtFP32) {k : Word} (hk : k.extractLsb' 0 4 = 0#4) (F : FFmt) (x y : Nat) :
    (opApprox t fmt F k x y).1 = (cvtFp F .rne false false (valOf (ffmt fmtFP32) (approx t (valOf F x)).1)).1 := by
  obtain ⟨-, hin, -⟩ := fctl_plain hk
  unfold opApprox
  rw [inVal_plain F hin]
  simp only [if_neg hfmt]

theorem narrow_format : ∀ w : BitVec 2, w ≠ 0#2 → fpFmt w ≠ fmtFP32 ∧ 149 - (if w = 1#2 then 24 else 133) = unitShift (ffmt (fpFmt w)) := by
  decide

/-- What an approximation with the results g makes of a code x of the format of W. -/
structure ApproxLane (g : Nat → Nat → Prop) (w : BitVec 2) (x r : Nat) : Prop where
  lt     : r < 2 ^ (1 + (ffmt (fpFmt w)).eb + (ffmt (fpFmt w)).mb)
  nan    : Spec.isNaN (ffmt (fpFmt w)).eb (ffmt (fpFmt w)).mb x → r = Spec.quietNaN (ffmt (fpFmt w)).eb (ffmt (fpFmt w)).mb
  single : w = 0#2 → ¬Spec.isNaN (ffmt (fpFmt w)).eb (ffmt (fpFmt w)).mb x → g x r
  narrow : w ≠ 0#2 → ¬Spec.isNaN (ffmt (fpFmt w)).eb (ffmt (fpFmt w)).mb x → ∃ x' r', Spec.Widens w.toNat x x' ∧ g x' r' ∧
    Spec.Narrows (ffmt (fpFmt w)).eb (ffmt (fpFmt w)).mb (if w = 1#2 then 24 else 133) r' r

theorem opApprox_lane {t : Approx} {g : Nat → Nat → Prop} (hg : ∀ x v, ReadsAs x v → g x (approx t v).1) {w : BitVec 2} (hw : w.toNat < 3)
    {k : Word} (hk : k.extractLsb' 0 4 = 0#4) {x : Nat} (hx : x < 2 ^ (1 + (ffmt (fpFmt w)).eb + (ffmt (fpFmt w)).mb)) (y : Nat) :
    ApproxLane g w x (opApprox t (fpFmt w) (ffmt (fpFmt w)) k x y).1 := by
  rcases widenLane_cases w with ⟨rfl, -⟩ | ⟨h0, hW, -⟩
  · rw [show fpFmt 0#2 = fmtFP32 from rfl, opApprox_fp32 t hk]
    refine ⟨approx_lt t _, fun h => ?_, fun _ h => hg _ _ (readsAs_fp32 hx h), fun h => absurd rfl h⟩
    obtain ⟨sig, hval⟩ := ieee_fp32.valOf_nan h
    rw [show fpFmt 0#2 = fmtFP32 from rfl, hval]
    exact approx_nan t sig
  · have hF := hW.ieee
    obtain ⟨hfmt, hq⟩ := narrow_format w h0
    rw [opApprox_narrow t hfmt hk]
    refine ⟨hF.cvtFp_lt .., fun h => ?_, fun h => absurd h h0, fun _ h => ⟨_, _, widens_lane h0 hw x, hg _ _ (hW.readsAs h), hW.narrows hq _⟩⟩
    obtain ⟨sig, hval⟩ := hF.valOf_nan h
    rw [hval, approx_nan]
    exact (hW.narrows hq _).1 isNaN_quietNaN

/-- The bit of a class is one of a lane (R196). -/
theorem two_pow_classBit_lt (eb mb x : Nat) (w : BitVec 2) : 2 ^ Spec.classBit eb mb x < 2 ^ fpWidth w := by
  have hwidth : 9 < fpWidth w := by
    revert w
    decide
  exact Nat.pow_lt_pow_right (by omega) ((classBit_le eb mb x).trans_lt hwidth)

/-! ## The Gaussian generator (R153, R154, R199) -/

theorem toNat_rotateLeft_eq (x : Word) {k : Nat} (hk : k < 32) : (x.rotateLeft k).toNat = Spec.rotl k x.toNat := by
  have hx : x.toNat < 2 ^ (32 - k) * 2 ^ k := by
    rw [← pow_add, Nat.sub_add_cancel hk.le]
    exact x.isLt
  have hhigh : x.toNat / 2 ^ (32 - k) < 2 ^ k := Nat.div_lt_of_lt_mul hx
  unfold Spec.rotl
  have hlow : x.toNat * 2 ^ k % 2 ^ 32 = (x.toNat % 2 ^ (32 - k)) <<< k := by
    rw [Nat.shiftLeft_eq, ← Nat.mul_mod_mul_right, ← pow_add, Nat.sub_add_cancel hk.le]
  have hsum : x.toNat * 2 ^ k % 2 ^ 32 + x.toNat / 2 ^ (32 - k) < 2 ^ 32 := by
    calc x.toNat * 2 ^ k % 2 ^ 32 + x.toNat / 2 ^ (32 - k) < (x.toNat % 2 ^ (32 - k) + 1) * 2 ^ k := by
          rw [hlow, Nat.shiftLeft_eq, Nat.succ_mul]
          exact Nat.add_lt_add_left hhigh _
      _ ≤ 2 ^ (32 - k) * 2 ^ k := Nat.mul_le_mul_right _ (Nat.mod_lt _ (Nat.two_pow_pos _))
      _ = 2 ^ 32 := by rw [← pow_add, Nat.sub_add_cancel hk.le]
  rw [BitVec.toNat_rotateLeft, Nat.mod_eq_of_lt hk, Nat.shiftRight_eq_div_pow, Nat.shiftLeft_eq, hlow, ← Nat.shiftLeft_add_eq_or_of_lt hhigh, ← hlow,
    ← Nat.mod_eq_of_lt hsum, Nat.mod_add_mod]

/-- The four words of a mix as numbers. -/
def Mix.nats (x : Mix) : Nat × Nat × Nat × Nat := (x.a.toNat, x.b.toNat, x.c.toNat, x.d.toNat)

/-- A round of mix with its constant k, on words and on their numbers. -/
def mixWith (k : Word) (x : Mix) : Mix :=
  let a := x.a + x.b + k
  let d := (x.d ^^^ a).rotateLeft 16
  let c := x.c + d
  let b := (x.b ^^^ c).rotateLeft 12
  let a := a + b
  let d := (d ^^^ a).rotateLeft 8
  let c := c + d
  { a := a, b := (b ^^^ c).rotateLeft 7, c := c, d := d }

def mixWithNat (k : Nat) (x : Nat × Nat × Nat × Nat) : Nat × Nat × Nat × Nat :=
  let a := (x.1 + x.2.1 + k) % 2 ^ 32
  let d := Spec.rotl 16 (x.2.2.2 ^^^ a)
  let c := (x.2.2.1 + d) % 2 ^ 32
  let b := Spec.rotl 12 (x.2.1 ^^^ c)
  let a := (a + b) % 2 ^ 32
  let d := Spec.rotl 8 (d ^^^ a)
  let c := (c + d) % 2 ^ 32
  (a, Spec.rotl 7 (b ^^^ c), c, d)

theorem mixRound_eq (r : Nat) (x : Mix) : mixRound r x = mixWith (word ((r + 1) * 0x9E3779B9)) x := rfl

theorem mixStep_eq (r : Nat) (x : Nat × Nat × Nat × Nat) : Spec.mixStep r x = mixWithNat ((r + 1) * 0x9E3779B9) x := rfl

theorem nats_mixWith (k : Nat) (x : Mix) : (mixWith (word k) x).nats = mixWithNat k x.nats := by
  unfold mixWith mixWithNat Mix.nats word
  simp only [BitVec.toNat_add, BitVec.toNat_xor, toNat_rotateLeft_eq _ (show 16 < 32 by decide), toNat_rotateLeft_eq _ (show 12 < 32 by decide),
    toNat_rotateLeft_eq _ (show 8 < 32 by decide), toNat_rotateLeft_eq _ (show 7 < 32 by decide), BitVec.toNat_ofNat, Nat.add_mod_mod,
    Nat.mod_add_mod]

theorem nats_foldl_mixRound (l : List Nat) (x : Mix) :
    (l.foldl (fun x r => mixRound r x) x).nats = l.foldl (fun x r => Spec.mixStep r x) x.nats := by
  induction l generalizing x with
  | nil => rfl
  | cons r l ih => rw [List.foldl_cons, ih, mixRound_eq, nats_mixWith, ← mixStep_eq, List.foldl_cons]

theorem toNat_append_halves (stream memb : BitVec 16) : (stream ++ memb).toNat = memb.toNat + 65536 * stream.toNat := by
  rw [BitVec.toNat_append, ← Nat.shiftLeft_add_eq_or_of_lt memb.isLt, Nat.shiftLeft_eq]
  ring

/-- The sum of the four bytes of a word, as a number. -/
def byteTotal (n : Nat) : Nat := n % 256 + n / 256 % 256 + n / 65536 % 256 + n / 16777216

/-- B of R154 of the four words after the rounds. -/
def mixTotal (lo hi idx : Nat) (x : Nat × Nat × Nat × Nat) : Nat :=
  ([(x.1 + idx) % 2 ^ 32, x.2.1, (x.2.2.1 + lo) % 2 ^ 32, (x.2.2.2 + hi) % 2 ^ 32].map byteTotal).sum

theorem gaussSum_eq (lo hi memb stream idx : Nat) : Spec.gaussSum lo hi memb stream idx =
    mixTotal lo hi idx ((List.range 8).foldl (fun x r => Spec.mixStep r x) (idx, memb + 65536 * stream, lo, hi)) := rfl

/-- mix of R153 from the words after its rounds. -/
def mixEnd (lo hi idx : Word) (x : Mix) : Mix := { a := x.a + idx, b := x.b, c := x.c + lo, d := x.d + hi }

theorem mix_eq (lo hi : Word) (memb stream : BitVec 16) (idx : Word) : mix lo hi memb stream idx =
    mixEnd lo hi idx ((List.range 8).foldl (fun x r => mixRound r x) { a := idx, b := stream ++ memb, c := lo, d := hi }) := rfl

/-- The sum of the sixteen bytes of the mixed words. -/
def mixBytes (x : Mix) : Nat := byteSum x.a + byteSum x.b + byteSum x.c + byteSum x.d

theorem mixBytes_mixEnd (lo hi idx : Word) (x : Mix) : mixBytes (mixEnd lo hi idx x) = mixTotal lo.toNat hi.toNat idx.toNat x.nats := by
  unfold mixBytes mixEnd mixTotal Mix.nats byteSum byteTotal
  simp only [BitVec.toNat_add, List.map_cons, List.map_nil, List.sum_cons, List.sum_nil]
  omega

/-- The bytes of the mix of R153 sum to B of R154. -/
theorem mixBytes_mix (lo hi : Word) (memb stream : BitVec 16) (idx : Word) :
    mixBytes (mix lo hi memb stream idx) = Spec.gaussSum lo.toNat hi.toNat memb.toNat stream.toNat idx.toNat := by
  rw [mix_eq, mixBytes_mixEnd, nats_foldl_mixRound, gaussSum_eq, ← toNat_append_halves]
  rfl

/-- The value of an integer. -/
theorem ofInt_isReal (n : Int) : (ofInt n).IsReal n :=
  ⟨_, _, _, rfl, by rw [zpow_zero, mul_one, ← Int.cast_natCast, ← Int.cast_mul, signUnit_natAbs]⟩

/-- The sample of R154 for a sum b of bytes; K is the value of its constant. -/
def gaussOf (K : FVal) (b : Int) : Nat := (rneFp32 (mulVal (ofInt (b - 2040)) K).1).1

theorem gauss_eq (lo hi : Word) (memb stream : BitVec 16) (idx : Word) :
    gauss lo hi memb stream idx = gaussOf (valOf (ffmt fmtFP32) 0x3B5DB446) (mixBytes (mix lo hi memb stream idx) : Nat) := rfl

theorem gaussOf_lt (K : FVal) (b : Int) : gaussOf K b < 2 ^ 32 := ieee_fp32.cvtFp_lt .rne false false _

theorem gaussOf_rounds {K : FVal} {k : Int} (hK : K.IsReal (k * 2 ^ minExp (ffmt fmtFP32))) (b : Int) :
    Spec.Rounds 8 23 1 ((b - 2040) * k) (gaussOf K b) := by
  refine (ieee_fp32.cvtFp_rounds_of_isReal one_pos ?_).1
  rw [Int.cast_mul, Int.cast_one, div_one, mul_assoc]
  exact (mulVal_isReal (ofInt_isReal (b - 2040)) hK).1

/-- A sample of R154. -/
theorem gauss_spec (lo hi : Word) (memb stream : BitVec 16) (idx : Word) :
    Spec.GaussIs lo.toNat hi.toNat memb.toNat stream.toNat idx.toNat (gauss lo hi memb stream idx) := by
  rw [gauss_eq, mixBytes_mix]
  exact ⟨fun h => by rw [h]; rfl, fun k hk => gaussOf_rounds (ieee_fp32.valOf_isReal hk) _⟩

/-- The lanes of vgauss (R199). -/
theorem vgaussRes_lanes (d a b : Reg) (c : Core) : ∃ v : VReg, (vgaussRes d a b c).writes = [.v d.toNat v] ∧ (vgaussRes d a b c).flags = [] ∧
    ∀ j < 8, laneOf v 32 j = gauss c.cr.seedlo c.cr.seedhi (c.cr.memb.extractLsb' 0 16) ((rdS c b.toNat).extractLsb' 0 16)
      (word (laneOf (rdV c a.toNat) 32 j)) := by
  refine ⟨_, rfl, rfl, fun j hj => (laneOf_packRange 32 _ hj).trans (Nat.mod_eq_of_lt ?_)⟩
  rw [gauss_eq]
  exact gaussOf_lt ..

theorem laneOf_lt_format (v : VReg) (w : BitVec 2) (j : Nat) : laneOf v (fpWidth w) j < 2 ^ (1 + (ffmt (fpFmt w)).eb + (ffmt (fpFmt w)).mb) :=
  (laneOf_lt v (fpWidth w) j).trans_eq (congrArg _ (fpWidth_eq w))

theorem vectorFunctions : Spec.VectorFunctions := by
  refine ⟨?_, ?_, ?_, ?_⟩
  · intro c sh k l hold f d a m hrow _
    cases hrow
    rw [fpBits_eq]
    dsimp only
    rw [← fpWidth_eq]
    obtain ⟨v, hwrites, hflags, hlanes⟩ := vfcopyRes_lanes classOf d a m c
    refine ⟨v, hwrites, hflags, fun j hj => ?_⟩
    rw [hlanes j hj, (ieee_fpFmt m.w).classOf_eq, Nat.mod_eq_of_lt (two_pow_classBit_lt ..)]
  · intro c sh k hold f d a w l l' hrow _ hk
    cases hrow
    rw [fpBits_eq]
    dsimp only
    rw [← fpWidth_eq]
    obtain ⟨v, hwrites, hlanes⟩ := vlRes_lanes opSqrt d a a w c
    refine ⟨v, hwrites, fun j hj => ?_⟩
    obtain ⟨hlane, hflag⟩ := hlanes j hj
    have hop := opSqrt_lane (ieee_fpFmt w) (fpFmt_mb_le w) hk (laneOf_lt_format (rdV c a.toNat) w j)
      (laneOf (rdV c a.toNat) (fpWidth w) j)
    have hlt := hop.lt
    rw [← fpWidth_eq] at hlt
    rw [hlane, Nat.mod_eq_of_lt hlt, hflag]
    exact ⟨hop.nan, hop.inf, hop.neg_inf, fun p hp => ⟨fun h => hop.zero (h ▸ hp), fun h => hop.neg p h hp, fun h => hop.root p h hp⟩⟩
  · intro i c sh k hold f d a w l g hrow har hw hk
    obtain ⟨t, rfl, hg⟩ := approxRow_op hrow har
    rw [fpBits_eq]
    dsimp only
    rw [← fpWidth_eq]
    obtain ⟨v, hwrites, hlanes⟩ := vlRes_lanes (opApprox t (fpFmt w)) d a a w c
    refine ⟨v, hwrites, fun j hj => ?_⟩
    have hop := opApprox_lane hg hw hk (laneOf_lt_format (rdV c a.toNat) w j) (laneOf (rdV c a.toNat) (fpWidth w) j)
    have hlt := hop.lt
    rw [← fpWidth_eq] at hlt
    rw [(hlanes j hj).1, Nat.mod_eq_of_lt hlt]
    exact ⟨hop.nan, hop.single, hop.narrow⟩
  · intro c sh k hold f d a b l l' hrow
    cases hrow
    obtain ⟨v, hwrites, hflags, hlanes⟩ := vgaussRes_lanes d a b c
    refine ⟨v, hwrites, hflags, fun j hj => ?_⟩
    have hword : (word (laneOf (rdV c a.toNat) 32 j)).toNat = laneOf (rdV c a.toNat) 32 j := by
      unfold word
      rw [BitVec.toNat_ofNat, Nat.mod_eq_of_lt (laneOf_lt ..)]
    have hspec := gauss_spec c.cr.seedlo c.cr.seedhi (c.cr.memb.extractLsb' 0 16) ((rdS c b.toNat).extractLsb' 0 16)
      (word (laneOf (rdV c a.toNat) 32 j))
    rwa [hword, BitVec.extractLsb'_toNat, BitVec.extractLsb'_toNat, Nat.shiftRight_zero, Nat.shiftRight_zero, ← hlanes j hj] at hspec

/-- Settles O60: the reductions fold their active lanes in a tree of maxima, minima or rounded sums; a class is one bit; the root and the
procedures of the approximations are rounded as their rules say, and once more into a 16-bit lane; a sample is the rounded sum of the mix. -/
theorem vectorValues : Obligations.VectorValues := ⟨vectorReductions, vectorFunctions⟩

end Sys2Proof.Machine
end

section
/-! PROOF. The layout accesses (O11, O12; R161 to R181, R295, R352, R353). An access is its guards, in the order of R175, and the state that
its effect leaves (accAfter). The guards are cut in two: those on the way to the trackers of its granules (accApproach), and the rest. The
effect is cut into what it notes of the reply and the phase, the metadata, and the bytes. -/

namespace Sys2Proof.Machine

/-! ## The guards of an access (R175) -/

theorem firstGuard_append_pass {l : List Guard} (h : ∀ g ∈ l, g = .pass) (l' : List Guard) : firstGuard (l ++ l') = firstGuard l' := by
  induction l with
  | nil => rfl
  | cons g l ih =>
    obtain rfl := h g List.mem_cons_self
    exact ih fun g hg => h g (List.mem_cons_of_mem _ hg)

/-- The guards of an access up to the trackers of its granules. -/
def accApproach (A : Spec.Acc) (s : State) (E : Env) : List Guard :=
  [Guard.ofTrap (accNondet E A.k (A.entry E) (A.home E)),
   homeGuard E (A.home E),
   Guard.ofTrap (if A.k.isPlain then markGuard s E (A.entry E) (A.home E) (A.locs E) else none),
   Guard.ofTrap (accLock s E A.k (A.entry E) (A.home E) (A.locs E)),
   Guard.ofTrap (pageGuard E.x (A.home E) (A.locs E) (A.entry E).width),
   if A.k.load && A.k.checks (remoteHome E.n (A.home E)) (A.entry E).tkt then phaseGuard E (A.entry E) (A.home E) else .pass]

/-- The guards that follow: the trackers of its granules (R295), its conflict words (R171), its metadata (R167 to R170), its poison (R353). -/
def accTicketGuard (A : Spec.Acc) (s : State) (E : Env) : Guard :=
  if A.k = .ld then ticketGuard s E (A.entry E) (A.home E) (A.locs E) else .pass

def accConflictGuard (A : Spec.Acc) (s : State) (E : Env) : Guard :=
  Guard.ofTrap (if A.k.checks (remoteHome E.n (A.home E)) (A.entry E).tkt then
    conflictGuard s E (A.entry E) (A.home E) (A.locs E) (!A.k.load) else none)

def accMetaGuard (A : Spec.Acc) (s : State) (E : Env) : Guard :=
  metaGuard s E A.k (A.entry E) (gransAt (A.entry E) (A.home E) (A.locs E)) (accVersion E A.k A.b)

def accPoisonGuard (A : Spec.Acc) (s : State) (E : Env) : Guard :=
  Guard.ofTrap (if A.k.load then poisonGuard s E (A.entry E) (A.home E) (A.locs E) else none)

section
variable {A : Spec.Acc} {s : State} {E : Env} {t : Task} {x : Ctx} {u : Run} {r : TrapReq}

theorem accBody_layout (he : taskEnv s s.cur = some (t, x, u)) (hE : E = Spec.env s t x u)
    (h : accLayout E A.k (A.entry E) (accCoords E A.k A.vec (A.entry E) A.a A.b) = some r) :
    accBody A.k A.vec A.d A.a A.b A.h A.l s = .trap r := by
  unfold accBody
  rw [withEnv_eq E he hE]
  unfold Spec.Acc.entry at h
  simp only [h]

/-- An access whose layout is right meets its guards, and then takes effect. -/
theorem accBody_guarded (he : taskEnv s s.cur = some (t, x, u)) (hE : E = Spec.env s t x u)
    (h : accLayout E A.k (A.entry E) (accCoords E A.k A.vec (A.entry E) A.a A.b) = none) :
    accBody A.k A.vec A.d A.a A.b A.h A.l s =
      guarded s (firstGuard (accApproach A s E ++ [accTicketGuard A s E, accConflictGuard A s E, accMetaGuard A s E, accPoisonGuard A s E]))
        (accEffect s E A.k A.vec (A.entry E) (A.home E) A.d (A.locs E) (accVersion E A.k A.b) A.l) := by
  unfold accBody
  rw [withEnv_eq E he hE]
  unfold Spec.Acc.entry at h
  simp only [h]
  rfl

theorem phaseGuard_pass {e : Entry} {h : Home}
    (hp : ∀ q p, h = .slice q → carried E e (remoteHome E.n h) = some (p, true) → reached (releaseOf E.x e.group) p = true) :
    phaseGuard E e h = .pass := by
  unfold phaseGuard
  split
  next q =>
    split
    next p hc => rw [if_pos (hp q p rfl hc)]
    next => rfl
  next => rfl

/-- Of the loads only a plain one concerns conflict words. -/
theorem ld_of_checks {k : AccKind} {remote tkt : Bool} (hl : k.load = true) (hc : k.checks remote tkt = true) :
    k = .ld ∧ (remote = true ∨ tkt = true) := by
  cases k with
  | ld => exact ⟨rfl, Bool.or_eq_true_iff.1 hc⟩
  | ldFe | ldV => cases hc
  | st | stFe | stV => cases hl

theorem accApproach_pass (h : Spec.AccBefore s A E) : ∀ g ∈ accApproach A s E, g = .pass := by
  obtain ⟨-, hallowed, harrived, hmark, hlock, hmapped, hphase⟩ := h
  have hmark : (if A.k.isPlain then markGuard s E (A.entry E) (A.home E) (A.locs E) else none) = none := by
    split
    next hp => exact hmark hp
    next => rfl
  have hphase : (if A.k.load && A.k.checks (remoteHome E.n (A.home E)) (A.entry E).tkt then phaseGuard E (A.entry E) (A.home E) else .pass) =
      .pass := by
    split
    next hc =>
      obtain ⟨hl, hc⟩ := Bool.and_eq_true_iff.1 hc
      obtain ⟨hk, hc⟩ := ld_of_checks hl hc
      exact phaseGuard_pass fun q p hh hp => hphase q p hk hh hc hp
    next => rfl
  simp only [accApproach, List.forall_mem_cons, hallowed, hlock, hmapped, hmark, hphase, homeGuard_pass harrived, Guard.ofTrap, true_and]
  exact nofun

theorem accTicketGuard_pass (h : Spec.AccReached s A E) : accTicketGuard A s E = .pass := by
  unfold accTicketGuard
  split
  next hk => exact h.tickets hk
  next => rfl

theorem accConflictGuard_pass (h : A.k.checks (remoteHome E.n (A.home E)) (A.entry E).tkt = true →
    conflictGuard s E (A.entry E) (A.home E) (A.locs E) (!A.k.load) = none) : accConflictGuard A s E = .pass := by
  unfold accConflictGuard
  split
  next hc => rw [h hc]; rfl
  next => rfl

/-- A granule of the version that is asked for is neither behind nor past it (R168). -/
theorem verDist_eq_zero {g v : Nat} (h : versionOf s g = v % 128) : verDist s g v = 0 := by
  unfold verDist
  omega

theorem isPast_eq_false {g v : Nat} (h : verDist s g v = 0 ∨ 64 ≤ verDist s g v) : isPast s v g = false := by
  unfold isPast
  exact decide_eq_false (by omega)

theorem metaGuard_ldV {e : Entry} {grans : List Nat} {v : Nat} (h : ∀ g ∈ grans, versionOf s g = v % 128) :
    metaGuard s E .ldV e grans v = .pass := by
  have hbehind : grans.any (isBehind s v) = false := List.any_eq_false.2 fun g hg => by simp [isBehind, verDist_eq_zero (h g hg)]
  have hpast : grans.find? (isPast s v) = none :=
    List.find?_eq_none.2 fun g hg => by simp [isPast_eq_false (.inl (verDist_eq_zero (h g hg)))]
  simp only [metaGuard, hbehind, hpast, Bool.false_eq_true, if_false]

/-- A store with a version meets granules of that version, or ones behind it that every reader has reclaimed (R170). -/
theorem metaGuard_stV {e : Entry} {grans : List Nat} {v : Nat}
    (h : ∀ g ∈ grans, versionOf s g = v % 128 ∨ (64 ≤ verDist s g v ∧ reclaimed E.x e.num (v + 127) = true)) :
    metaGuard s E .stV e grans v = .pass := by
  have hpast : grans.find? (isPast s v) = none :=
    List.find?_eq_none.2 fun g hg => by simp [isPast_eq_false ((h g hg).imp verDist_eq_zero And.left)]
  have hbehind : ¬(grans.any (isBehind s v) && !reclaimed E.x e.num (v + 127)) = true := by
    rw [Bool.and_eq_true, Bool.not_eq_true']
    rintro ⟨hb, hr⟩
    obtain ⟨g, hg, hgb⟩ := List.any_eq_true.1 hb
    have hd : 64 ≤ verDist s g v := of_decide_eq_true hgb
    rcases h g hg with hv | ⟨-, hr'⟩
    · rw [verDist_eq_zero hv] at hd
      omega
    · exact Bool.false_ne_true (hr.symm.trans hr')
  simp only [metaGuard, hpast, hbehind, Bool.false_eq_true, if_false]

theorem accMetaGuard_pass (h : Spec.metaReady s A E) : accMetaGuard A s E = .pass := by
  unfold Spec.metaReady at h
  unfold accMetaGuard
  split at h
  next hk => rw [hk]; rfl
  next hk => rw [hk]; rfl
  next hk => rw [hk]; rfl
  next hk => rw [hk]; exact if_pos (List.all_eq_true.2 h)
  next hk => rw [hk]; exact if_pos (List.all_eq_true.2 fun g hg => by simp [h g hg])
  next hk => rw [hk] at h ⊢; exact metaGuard_ldV h
  next hk => rw [hk] at h ⊢; exact metaGuard_stV h

theorem accPoisonGuard_pass (h : A.k.load = true → poisonGuard s E (A.entry E) (A.home E) (A.locs E) = none) : accPoisonGuard A s E = .pass := by
  unfold accPoisonGuard
  split
  next hl => rw [h hl]; rfl
  next => rfl

/-- An access that nothing stands in the way of takes effect. -/
theorem accBody_free (he : taskEnv s s.cur = some (t, x, u)) (hE : E = Spec.env s t x u) (h : Spec.AccFree s A E) :
    accBody A.k A.vec A.d A.a A.b A.h A.l s =
      accEffect s E A.k A.vec (A.entry E) (A.home E) A.d (A.locs E) (accVersion E A.k A.b) A.l := by
  rw [accBody_guarded he hE h.layout, firstGuard_append_pass (accApproach_pass h.toAccBefore), accTicketGuard_pass h.toAccReached,
    accConflictGuard_pass h.conflict, accMetaGuard_pass h.ready, accPoisonGuard_pass h.clean]
  rfl

end

/-! ## What an access leaves (R171, R167 to R170, R353) -/

/-- What the reply and the phase of an access leave (R171, R405). -/
def accNoted (A : Spec.Acc) (s : State) (E : Env) : State :=
  if A.k.checks (remoteHome E.n (A.home E)) (A.entry E).tkt then
    stampAccess (noteHome s E.n (A.home E)) E (A.entry E) (A.home E) (A.locs E) (!A.k.load)
  else noteHome s E.n (A.home E)

/-- The same with the metadata of its granules. -/
def accMarked (A : Spec.Acc) (s : State) (E : Env) : State :=
  metaEffect (accNoted A s E) A.k (gransAt (A.entry E) (A.home E) (A.locs E)) (accVersion E A.k A.b)

/-- The codes of a store, one for each element, and the bytes that they leave. -/
def accCodes (A : Spec.Acc) (E : Env) : List Nat := storeCodes E A.vec (A.entry E) A.d (A.locs E).length
def accStored (A : Spec.Acc) (s : State) (E : Env) : State :=
  ((A.locs E).zip (accCodes A E)).foldl (fun s p => writeElem s E.t.ctx E.x (A.entry E) (A.home E) p.1 p.2) (accMarked A s E)

/-- The state that an access leaves, before its result is pending. -/
def accAfter (A : Spec.Acc) (s : State) (E : Env) : State :=
  if A.k.load then openRows (accMarked A s E) E.t.ctx ((A.locs E).flatMap (elemPlaces E.x (A.entry E) (A.home E)))
  else clearPoison (accStored A s E) (A.entry E) (A.home E) (A.locs E)

section
variable (A : Spec.Acc) (s : State) (E : Env)

/-- The reply's delay does not touch what elements read. -/
theorem readElem_noteHome (n : Nat) (h : Home) : readElem (noteHome s n h) = readElem s := by
  obtain ⟨cores, fresh, hn⟩ := noteHome_only s n h
  rw [hn]
  rfl

theorem accEffect_eq : accEffect s E A.k A.vec (A.entry E) (A.home E) A.d (A.locs E) (accVersion E A.k A.b) A.l =
    longRes (accAfter A s E) A.l (if A.k.load then [A.result s E] else []) := by
  unfold accEffect
  simp only [readElem_noteHome]
  unfold accAfter
  split <;> rfl

theorem accNoted_only : ∃ fresh conf, accNoted A s E = { s with cores := (noteHome s E.n (A.home E)).cores, fresh := fresh, conf := conf } := by
  obtain ⟨cores, fresh, hn⟩ := noteHome_only s E.n (A.home E)
  unfold accNoted
  split
  · obtain ⟨conf, hs⟩ := stampAccess_only (noteHome s E.n (A.home E)) E (A.entry E) (A.home E) (A.locs E) (!A.k.load)
    rw [hs, hn]
    exact ⟨_, _, rfl⟩
  · rw [hn]
    exact ⟨_, _, rfl⟩

theorem accMarked_only : ∃ gmeta, accMarked A s E = { accNoted A s E with gmeta := gmeta } := metaEffect_only _ _ _ _

theorem accStored_only : ∃ m : Stored, accStored A s E = (accMarked A s E).withStored m := writeElems_only ..

variable {A}

theorem accAfter_load (h : A.k.load = true) : ∃ rows, accAfter A s E = { accMarked A s E with rowOpen := rows } := by
  unfold accAfter
  rw [if_pos h]
  exact openRows_only _ _ id _

theorem accAfter_store (h : A.k.load = false) : accAfter A s E = clearPoison (accStored A s E) (A.entry E) (A.home E) (A.locs E) := by
  unfold accAfter
  rw [h]
  rfl

variable (A)

/-- What comes after the metadata concerns bytes, poison and open rows only. -/
theorem accAfter_marked : ∃ (m : Stored) (poison : List Nat) (rows : Table Nat), accAfter A s E =
    { (accMarked A s E).withStored m with poison := poison, rowOpen := rows } := by
  cases hl : A.k.load with
  | true =>
    obtain ⟨rows, ha⟩ := accAfter_load s E hl
    rw [ha]
    exact ⟨((accMarked A s E).slice, (accMarked A s E).dram, (accMarked A s E).host, (accMarked A s E).counting), _, _, rfl⟩
  | false =>
    obtain ⟨m, hs⟩ := accStored_only A s E
    obtain ⟨p, hp⟩ := clearPoison_only (accStored A s E) (A.entry E) (A.home E) (A.locs E)
    rw [accAfter_store s E hl, hp, hs]
    exact ⟨m, p, _, rfl⟩

/-- Bytes, conflict words, metadata, poison and open rows apart, an access leaves the state as the reply's delay does. -/
theorem accAfter_only : ∃ (m : Stored) (fresh : Nat) (conf : Table Word) (gmeta : Memory) (poison : List Nat) (rows : Table Nat), accAfter A s E =
    { s.withStored m with
      cores := (noteHome s E.n (A.home E)).cores, fresh := fresh, conf := conf, gmeta := gmeta, poison := poison, rowOpen := rows } := by
  obtain ⟨fresh, conf, hn⟩ := accNoted_only A s E
  obtain ⟨gmeta, hm⟩ := accMarked_only A s E
  obtain ⟨m, poison, rows, ha⟩ := accAfter_marked A s E
  rw [ha, hm, hn]
  exact ⟨_, _, _, _, _, _, rfl⟩

theorem cur_accAfter : (accAfter A s E).cur = s.cur := by
  obtain ⟨_, _, _, _, _, _, h⟩ := accAfter_only A s E
  rw [h]

theorem caddy_accAfter : (accAfter A s E).caddy = s.caddy := by
  obtain ⟨_, _, _, _, _, _, h⟩ := accAfter_only A s E
  rw [h]

theorem dpoison_accAfter : (accAfter A s E).dpoison = s.dpoison := by
  obtain ⟨_, _, _, _, _, _, h⟩ := accAfter_only A s E
  rw [h]

theorem sameCore_accAfter (n : Nat) : Spec.sameCore (coreAt s n) (coreAt (accAfter A s E) n) := by
  obtain ⟨_, _, _, _, _, _, h⟩ := accAfter_only A s E
  rw [h]
  exact coreAt_noteHome s E.n (A.home E) n

end

/-! ## The sixteen instructions (R180, R181) -/

theorem exec_access {i : Instr} {A : Spec.Acc} (h : Spec.accRow i = some A) (s : State) :
    exec i s = issue i (accShape A.k A.vec A.d A.a A.b A.h) (accBody A.k A.vec A.d A.a A.b A.h A.l) s := by
  cases i
  case ld | st | ldFe | ldFeClr | stFe | stFeForce | ldV | stV | vld | vst | vldFe | vldFeClr | vstFe | vstFeForce | vldV | vstV =>
    cases h
    rfl
  all_goals cases h

section
variable {i : Instr} {A : Spec.Acc} {s s1 : State} {t : Task} {x : Ctx} {u : Run}
variable (hrow : Spec.accRow i = some A) (hi : Issues i (accShape A.k A.vec A.d A.a A.b A.h) s s1) (he : taskEnv s1 s.cur = some (t, x, u))
include hrow hi he

/-- An access that nothing stands in the way of leaves what accAfter says, with the result of a load pending. -/
theorem access_free (hf : Spec.AccFree s1 A (Spec.env s1 t x u)) :
    exec i s = .next (moveOn s1 (pend (accAfter A s1 (Spec.env s1 t x u)) s.cur .long A.l
      (if A.k.load then [A.result s1 (Spec.env s1 t x u)] else []) 0#5 []) s.cur 4) := by
  rw [exec_access hrow]
  rw [← go_cur hi] at he ⊢
  refine issue_moves hi rfl ?_
  rw [accBody_free he rfl hf, accEffect_eq, longRes, cur_accAfter]

theorem access_layout {r : TrapReq} (h : accLayout (Spec.env s1 t x u) A.k (A.entry (Spec.env s1 t x u))
    (accCoords (Spec.env s1 t x u) A.k A.vec (A.entry (Spec.env s1 t x u)) A.a A.b) = some r) : exec i s = .next (takeTrap s1 s.cur r) := by
  rw [exec_access hrow]
  rw [← go_cur hi] at he
  exact issue_traps hi (accBody_layout he rfl h)

/-- An access that has come to the trackers of its granules traps as the first of the other guards says. -/
theorem access_traps {r : TrapReq} (hb : Spec.AccBefore s1 A (Spec.env s1 t x u))
    (hg : firstGuard [accTicketGuard A s1 (Spec.env s1 t x u), accConflictGuard A s1 (Spec.env s1 t x u), accMetaGuard A s1 (Spec.env s1 t x u),
      accPoisonGuard A s1 (Spec.env s1 t x u)] = .trap r) : exec i s = .next (takeTrap s1 s.cur r) := by
  rw [exec_access hrow]
  rw [← go_cur hi] at he
  refine issue_traps hi ?_
  rw [accBody_guarded he rfl hb.layout, firstGuard_append_pass (accApproach_pass hb), hg]
  rfl

end

theorem accessCompletes : Spec.AccessCompletes := by
  intro i A s s1 t x u hrow hi he hf
  exact ⟨accAfter A s1 (Spec.env s1 t x u), access_free hrow hi he hf, fun n => sameCore_accAfter A s1 _ n⟩

theorem accessLayoutTrap : Spec.AccessLayoutTrap := by
  intro i A s s1 t x u r hrow hi he h
  exact ⟨layoutCheck_cause h, access_layout hrow hi he h⟩

/-- Settles O11: an access whose guards pass takes effect (accBody_free, accEffect_eq), and LAYOUT is looked at first (accBody_layout). -/
theorem accessesComplete : Obligations.AccessesComplete := ⟨accessCompletes, accessLayoutTrap⟩

end Sys2Proof.Machine
end

section
/-! PROOF. What a layout access changes in memory (O12; R161, R167 to R172, R178, R352, R353). A fold of updates is said once
(foldl_update): a key that is listed has been updated, any other is as it was. -/

namespace Sys2Proof.Machine

/-! ## Folds of updates of listed keys -/

/-- What is read at a key after the updates of a list of keys: an update of a key concerns no other, and is the same when it is made again. -/
theorem foldl_update {σ β : Type} {read : σ → Nat → β} {upd : σ → Nat → σ} {g : β → β} (hsame : ∀ s k, read (upd s k) k = g (read s k))
    (hother : ∀ s k j, j ≠ k → read (upd s k) j = read s j) (hagain : ∀ b, g (g b) = g b) (l : List Nat) (s : σ) (j : Nat) :
    read (l.foldl upd s) j = if j ∈ l then g (read s j) else read s j := by
  induction l generalizing s with
  | nil => rfl
  | cons k l ih =>
    rw [List.foldl_cons, ih]
    by_cases hjk : j = k
    · subst hjk
      simp only [List.mem_cons, true_or, if_true, hsame, hagain, ite_self]
    · simp only [List.mem_cons, hjk, false_or, hother s k j hjk]

/-- A conflict word with a half stamped (R171). -/
def stamped (write : Bool) (st : BitVec 16) (w : Word) : Word := if write then st ++ rstOf w else wstOf w ++ st

theorem wstOf_append (a b : BitVec 16) : wstOf (a ++ b) = a := BitVec.extractLsb'_append_eq_left

theorem rstOf_append (a b : BitVec 16) : rstOf (a ++ b) = b := BitVec.extractLsb'_append_eq_right

theorem stamped_again (write : Bool) (st : BitVec 16) (w : Word) : stamped write st (stamped write st w) = stamped write st w := by
  cases write with
  | true => exact congrArg (st ++ ·) (rstOf_append _ _)
  | false => exact congrArg (· ++ st) (wstOf_append _ _)

theorem conf_stampLines (s : State) (lines : List Nat) (write : Bool) (st : BitVec 16) (k : Nat) :
    sget 0#32 (stampLines s lines write st).conf k = if k ∈ lines then stamped write st (sget 0#32 s.conf k) else sget 0#32 s.conf k :=
  foldl_update (read := fun (s : State) k => sget 0#32 s.conf k) (fun _ _ => sget_sset_same ..) (fun _ _ _ h => sget_sset_other _ _ _ h)
    (stamped_again write st) lines s k

/-- A metadata byte with its full bit, or its version, as given (R166 to R168). -/
def withFull (b : Bool) (m : Byte) : Byte := if b then m ||| 0x80#8 else m &&& 0x7F#8
def withVersion (v : Nat) (m : Byte) : Byte := (m &&& 0x80#8) ||| BitVec.ofNat 8 (v % 128)

theorem withFull_spec (b : Bool) (m : Byte) : (withFull b m).getLsbD 7 = b ∧ (withFull b m).toNat % 128 = m.toNat % 128 := by
  revert b m
  decide

theorem withFull_again (b : Bool) (m : Byte) : withFull b (withFull b m) = withFull b m := by
  revert b m
  decide

theorem withVersion_spec (v : Nat) (m : Byte) :
    (withVersion v m).toNat % 2 ^ 7 = v % 2 ^ 7 ∧ (withVersion v m).getLsbD 7 = m.getLsbD 7 := by
  have hv : v % 128 < 2 ^ 7 := Nat.mod_lt _ (by decide)
  have hbit : (BitVec.ofNat 8 (v % 128)).getLsbD 7 = false := by
    rw [BitVec.getLsbD_ofNat, Nat.testBit_lt_two_pow hv, Bool.and_false]
  constructor
  · have hlow : (0x80#8).toNat % 2 ^ 7 = 0 := rfl
    have hof : (BitVec.ofNat 8 (v % 128)).toNat % 2 ^ 7 = v % 2 ^ 7 := by
      rw [BitVec.toNat_ofNat]
      omega
    rw [withVersion, BitVec.toNat_or, BitVec.toNat_and, Nat.or_mod_two_pow, Nat.and_mod_two_pow, hlow, hof, Nat.and_zero, Nat.zero_or]
  · rw [withVersion, BitVec.getLsbD_or, BitVec.getLsbD_and, hbit, Bool.or_false]
    exact Bool.and_true _

theorem withVersion_again (v : Nat) (m : Byte) : withVersion v (withVersion v m) = withVersion v m := by
  ext i hi
  simp only [withVersion, BitVec.getElem_or, BitVec.getElem_and]
  cases m[i] <;> cases (0x80#8)[i] <;> cases (BitVec.ofNat 8 (v % 128))[i] <;> rfl

theorem gmeta_setFull (s : State) (grans : List Nat) (b : Bool) (g : Nat) :
    (setFull s grans b).gmeta.read g = if g ∈ grans then withFull b (s.gmeta.read g) else s.gmeta.read g :=
  foldl_update (read := fun (s : State) g => s.gmeta.read g) (fun _ _ => Memory.read_write_same ..)
    (fun _ _ _ h => Memory.read_write_other _ _ h) (withFull_again b) grans s g

theorem gmeta_setVersion (s : State) (grans : List Nat) (v : Nat) (g : Nat) :
    (setVersion s grans v).gmeta.read g = if g ∈ grans then withVersion v (s.gmeta.read g) else s.gmeta.read g :=
  foldl_update (read := fun (s : State) g => s.gmeta.read g) (fun _ _ => Memory.read_write_same ..)
    (fun _ _ _ h => Memory.read_write_other _ _ h) (withVersion_again v) grans s g

/-! ## Bytes -/

/-- The memories that stores reach, as Spec.keyOf numbers them. -/
def memAt (s : State) : Nat → Memory
  | 1 => s.slice
  | 2 => s.dram
  | 3 => s.host
  | _ => []

theorem memAt_writePlace {p : Place} {q a : Nat} (h : Spec.keyOf p = some (q, a)) (s : State) (b : Byte) (m : Nat) :
    memAt (writePlace s p b) m = if m = q then (memAt s m).write a b else memAt s m := by
  cases p with
  | slice | dram | host =>
    cases h
    obtain _ | _ | _ | _ | m := m <;> rfl
  | caddy | none => cases h

theorem writePlace_no_key {p : Place} (h : Spec.keyOf p = none) (s : State) (b : Byte) : writePlace s p b = s := by
  cases p with
  | slice | dram | host => cases h
  | caddy | none => rfl

theorem memAt_writePlace_other {p : Place} {m k : Nat} (h : Spec.keyOf p ≠ some (m, k)) (s : State) (b : Byte) :
    (memAt (writePlace s p b) m).read k = (memAt s m).read k := by
  cases hp : Spec.keyOf p with
  | none => rw [writePlace_no_key hp]
  | some e =>
    obtain ⟨q, a⟩ := e
    rw [memAt_writePlace hp]
    split
    next hq =>
      subst hq
      exact Memory.read_write_other _ _ fun hk => h (hk ▸ hp)
    next => rfl

theorem memAt_testCounts (s : State) : memAt (testCounts s) = memAt s := rfl

/-- A byte that is none of an element's is as it was. -/
theorem memAt_writeElem_other {x : Ctx} {e : Entry} {h : Home} {a m k : Nat}
    (hk : ∀ b ∈ elemBytes a e.width, Spec.keyOf (placeOf x e h b) ≠ some (m, k)) (s : State) (c v : Nat) :
    (memAt (writeElem s c x e h a v) m).read k = (memAt s m).read k := by
  rw [writeElem, memAt_testCounts]
  exact List.foldlRecOn _ _ (motive := fun t => (memAt t m).read k = (memAt s m).read k) rfl
    fun t ht b hb => (memAt_writePlace_other (hk b hb) t _).trans ht

theorem mem_elemBytes_iff {a w b : Nat} : b ∈ elemBytes a w ↔ firstByte a ≤ b ∧ b ≤ firstByte a + (lastByte a w - firstByte a) := by
  simp only [elemBytes, List.mem_map, List.mem_range]
  constructor
  · rintro ⟨i, hi, rfl⟩
    omega
  · intro h
    exact ⟨b - firstByte a, by omega, by omega⟩

/-- The bytes of a slice after an element is written: those of the element mixed with its code, the others as they were. -/
theorem slice_writeAt (s : State) (core w v : Nat) {p : Nat} (hp : bankpOk p = true) (a b : Nat) :
    (writeAt s core p a w v).slice.read (sliceKey core (physOff p b)) =
      if b ∈ elemBytes a w then mixByte (s.slice.read (sliceKey core (physOff p b))) a w v b
      else s.slice.read (sliceKey core (physOff p b)) := by
  have hinj : ∀ {b c : Nat}, sliceKey core (physOff p b) = sliceKey core (physOff p c) → b = c := fun h =>
    physOff_inj hp (Nat.add_left_cancel h)
  obtain ⟨hin, hout⟩ := foldl_mix (fun b => sliceKey core (physOff p b)) a w v _ (nodup_elemBytes a w) (fun b _ c _ h => hinj h) s.slice
  rw [writeAt_only]
  split
  next hb => exact hin b hb
  next hb => exact hout _ fun c hc h => hb (hinj h ▸ hc)

/-- An element keeps its code when one that does not overlap it is written. -/
theorem readAt_writeAt_apart (s : State) (core v : Nat) {p a b w : Nat} (hp : bankpOk p = true) (hw : 0 < w) (h : a + w ≤ b ∨ b + w ≤ a) :
    readAt (writeAt s core p b w v) core p a w = readAt s core p a w := by
  refine Nat.eq_of_testBit_eq fun i => ?_
  rw [readAt, readAt, testBit_readBits _ _ _ _ hw, testBit_readBits _ _ _ _ hw]
  by_cases hi : i < w
  · congr 1
    rw [slice_writeAt s core w v hp]
    split
    · have hbit : 8 * ((a + i) / 8) + (a + i) % 8 = a + i := Nat.div_add_mod _ _
      rw [getLsbD_mixByte _ _ _ _ _ _ (Nat.mod_lt _ (by decide)), hbit, if_neg (by omega)]
    · rfl
  · simp [hi]

/-- The elements that a list of pairs of an address and a code writes. -/
def writeAll (s : State) (core p w : Nat) (l : List (Nat × Nat)) : State := l.foldl (fun s e => writeAt s core p e.1 w e.2) s

/-- Elements that do not overlap hold their codes once all are written. -/
theorem readAt_writeAll {p w : Nat} (hp : bankpOk p = true) (hw : 0 < w) (core : Nat) {l : List (Nat × Nat)}
    (hl : (l.map Prod.fst).Pairwise fun a b => a + w ≤ b ∨ b + w ≤ a) (s : State) :
    ∀ e ∈ l, readAt (writeAll s core p w l) core p e.1 w = e.2 % 2 ^ w := by
  induction l generalizing s with
  | nil => exact nofun
  | cons d l ih =>
    rw [List.map_cons, List.pairwise_cons] at hl
    obtain ⟨hd, hl⟩ := hl
    intro e he
    rw [writeAll, List.foldl_cons]
    rcases List.mem_cons.1 he with rfl | he
    · have hkeep : readAt (writeAll (writeAt s core p e.1 w e.2) core p w l) core p e.1 w =
          readAt (writeAt s core p e.1 w e.2) core p e.1 w :=
        List.foldlRecOn l _ (motive := fun t => readAt t core p e.1 w = _) rfl fun t ht b hb =>
          (readAt_writeAt_apart t core b.2 hp hw (hd b.1 (List.mem_map_of_mem hb))).trans ht
      exact hkeep.trans (writeAt_spec s core p e.1 w e.2 hp hw).1
    · exact ih hl _ e he

theorem fmtWidth_pos (f : Nat) : 0 < fmtWidth f := by
  unfold fmtWidth
  repeat' split
  all_goals decide

/-! ## Poison (R352, R353) -/

/-- The elements of w bits at these bit addresses replace every bit of the granule of slice offsets 16 g to 16 g + 15. -/
def WholeGran (locs : List Nat) (w g : Nat) : Prop := ∀ j < 128, ∃ a ∈ locs, a ≤ 128 * g + j ∧ 128 * g + j < a + w

theorem wholeGran_iff {locs : List Nat} {w g : Nat} :
    WholeGran locs w g ↔ (List.range 128).all (fun j => coversBit locs w (128 * g + j)) = true := by
  simp [WholeGran, coversBit]

/-- A granule that elements replace is one that they touch. -/
theorem WholeGran.touched {locs : List Nat} {w g : Nat} (h : WholeGran locs w g) : g ∈ (elemsBytes locs w).map (· / 16) := by
  obtain ⟨a, ha, hle, hlt⟩ := h 0 (by decide)
  refine List.mem_map.2 ⟨16 * g, List.mem_flatMap.2 ⟨a, ha, mem_elemBytes_iff.2 ?_⟩, by omega⟩
  unfold firstByte lastByte
  omega

theorem mem_clearPoison {s : State} {e : Entry} {core k : Nat} {locs : List Nat} :
    k ∈ (clearPoison s e (.slice core) locs).poison ↔
      k ∈ s.poison ∧ ∀ g, WholeGran locs e.width g → granKey core (physOff e.bankp (16 * g)) ≠ k := by
  have hwhole : ∀ g, g ∈ ((elemsBytes locs e.width).map (· / 16)).eraseDups.filter (fun g =>
      (List.range 128).all fun j => coversBit locs e.width (128 * g + j)) ↔ WholeGran locs e.width g := fun g => by
    rw [List.mem_filter, List.mem_eraseDups, ← wholeGran_iff]
    exact ⟨And.right, fun h => ⟨h.touched, h⟩⟩
  unfold clearPoison
  dsimp only
  split
  next hnil => simp [hnil]
  next =>
    simp only [List.mem_filter, Bool.not_eq_true', ← Bool.not_eq_true, List.contains_iff_mem, List.mem_map, hwhole, not_exists, not_and, ne_eq]

theorem foldl_min_eq {l : List Nat} {w m : Nat} (hm : m ∈ w :: l) (hle : ∀ k ∈ w :: l, m ≤ k) : l.foldl min w = m := by
  have h : (w :: l).min? = some m := List.min?_eq_some_iff.2 ⟨hm, hle⟩
  rw [List.min?_cons'] at h
  exact Option.some.inj h

/-- A load of a slice reports the lowest poisoned granule that it touches. -/
theorem poisonGuard_slice {s : State} {E : Env} {e : Entry} {core b : Nat} {locs : List Nat} (hb : b ∈ elemsBytes locs e.width)
    (hp : granKey core (physOff e.bankp b) ∈ s.poison)
    (hmin : ∀ k ∈ elemsBytes locs e.width, granKey core (physOff e.bankp k) ∈ s.poison → b / 16 ≤ k / 16) :
    poisonGuard s E e (.slice core) locs = some (poisonTrap e.num 0 (b / 16)) := by
  have hbyte : ∀ k, poisonedByte s E.t.ctx E.x e (.slice core) k =
      if granKey core (physOff e.bankp k) ∈ s.poison then some (k / 16) else none := fun k => by
    simp only [poisonedByte, placeOf, List.contains_iff_mem]
  have hmem : ∀ m, m ∈ (elemsBytes locs e.width).filterMap (poisonedByte s E.t.ctx E.x e (.slice core)) ↔
      ∃ k ∈ elemsBytes locs e.width, granKey core (physOff e.bankp k) ∈ s.poison ∧ k / 16 = m := fun m => by
    simp [List.mem_filterMap, hbyte]
  have hin := (hmem (b / 16)).2 ⟨b, hb, hp, rfl⟩
  unfold poisonGuard
  rw [if_neg fun h => absurd (h.1 ▸ hp) List.not_mem_nil]
  split
  next h => rw [h] at hin; exact absurd hin List.not_mem_nil
  next w l h =>
    have hlow : l.foldl min w = b / 16 := foldl_min_eq (h ▸ hin) fun m hm => by
      obtain ⟨k, hk, hkp, rfl⟩ := (hmem m).1 (h ▸ hm)
      exact hmin k hk hkp
    rw [hlow]

/-! ## Conflict words (R171, R178) -/

theorem stampAccess_slice {E : Env} {e : Entry} {q : Nat} {p : BitVec 16} {b : Bool}
    (hc : carried E e (remoteHome E.n (.slice q)) = some (p, b)) (s : State) (locs : List Nat) (write : Bool) :
    stampAccess s E e (.slice q) locs write = stampLines s (linesOf e q locs) write (stampOf p) := by
  unfold stampAccess
  simp only [hc]

theorem conflictGuard_slice {E : Env} {e : Entry} {q : Nat} {p : BitVec 16} {b : Bool}
    (hc : carried E e (remoteHome E.n (.slice q)) = some (p, b)) (s : State) (locs : List Nat) (write : Bool) :
    conflictGuard s E e (.slice q) locs write =
      (conflictByte s e q locs write (stampOf p)).map (conflictTrap e.num (if write then 1 else 0)) := by
  unfold conflictGuard
  simp only [hc]

theorem mem_linesOf {e : Entry} {q k : Nat} {locs : List Nat} :
    k ∈ linesOf e q locs ↔ ∃ b ∈ elemsBytes locs e.width, lineKey q (physOff e.bankp b) = k := by
  rw [linesOf, List.mem_eraseDups, elemsBytes, ← List.map_flatMap, List.mem_map]

/-! ## What an access leaves, part by part -/

/-- What an access makes of the metadata byte of a granule (R167 to R170). -/
def newMeta (k : AccKind) (v : Nat) (m : Byte) : Byte :=
  match k with
  | .ldFe true => withFull false m
  | .stFe _ => withFull true m
  | .stV => withVersion v m
  | .ld | .st | .ldFe false | .ldV => m

section
variable {r s : State} {g : Nat}

theorem full_of_read {b : Bool} (h : r.gmeta.read g = withFull b (s.gmeta.read g)) : fullBit r g = b ∧ versionOf r g = versionOf s g :=
  ⟨(congrArg (·.getLsbD 7) h).trans (withFull_spec _ _).1, (congrArg (·.toNat % 128) h).trans (withFull_spec _ _).2⟩

theorem version_of_read {v : Nat} (h : r.gmeta.read g = withVersion v (s.gmeta.read g)) :
    versionOf r g = v % 128 ∧ fullBit r g = fullBit s g :=
  ⟨(congrArg (·.toNat % 128) h).trans (withVersion_spec _ _).1, (congrArg (·.getLsbD 7) h).trans (withVersion_spec _ _).2⟩

end

theorem gmeta_metaEffect (s : State) (k : AccKind) (grans : List Nat) (v g : Nat) :
    (metaEffect s k grans v).gmeta.read g = if g ∈ grans then newMeta k v (s.gmeta.read g) else s.gmeta.read g := by
  match k with
  | .ldFe true => exact gmeta_setFull s grans false g
  | .stFe _ => exact gmeta_setFull s grans true g
  | .stV => exact gmeta_setVersion s grans v g
  | .ld | .st | .ldFe false | .ldV => exact (ite_self _).symm

/-- The accesses that leave the metadata. -/
theorem metaEffect_same {k : AccKind} (h : k = .ld ∨ k = .st ∨ k = .ldFe false ∨ k = .ldV) (s : State) (grans : List Nat) (v : Nat) :
    metaEffect s k grans v = s := by
  rcases h with rfl | rfl | rfl | rfl <;> rfl

section
variable (A : Spec.Acc) (s : State) (E : Env)

theorem gmeta_accAfter : (accAfter A s E).gmeta = (accMarked A s E).gmeta := by
  obtain ⟨m, poison, rows, ha⟩ := accAfter_marked A s E
  rw [ha]

theorem conf_accAfter : (accAfter A s E).conf = (accNoted A s E).conf := by
  obtain ⟨gmeta, hm⟩ := accMarked_only A s E
  obtain ⟨m, poison, rows, ha⟩ := accAfter_marked A s E
  rw [ha, hm]

theorem gmeta_accNoted : (accNoted A s E).gmeta = s.gmeta := by
  obtain ⟨fresh, conf, hn⟩ := accNoted_only A s E
  rw [hn]

/-- The granules of an access take their new metadata bytes, and no others change. -/
theorem gmeta_accAfter_read (g : Nat) : (accAfter A s E).gmeta.read g =
    if g ∈ gransAt (A.entry E) (A.home E) (A.locs E) then newMeta A.k (accVersion E A.k A.b) (s.gmeta.read g) else s.gmeta.read g := by
  rw [gmeta_accAfter, accMarked, gmeta_metaEffect, gmeta_accNoted]

theorem memAt_accMarked : memAt (accMarked A s E) = memAt s := by
  obtain ⟨gmeta, hm⟩ := accMarked_only A s E
  obtain ⟨fresh, conf, hn⟩ := accNoted_only A s E
  rw [hm, hn]
  rfl

theorem poison_accMarked : (accMarked A s E).poison = s.poison := by
  obtain ⟨gmeta, hm⟩ := accMarked_only A s E
  obtain ⟨fresh, conf, hn⟩ := accNoted_only A s E
  rw [hm, hn]

variable {A}

theorem memAt_accAfter_load (h : A.k.load = true) : memAt (accAfter A s E) = memAt s := by
  obtain ⟨rows, ha⟩ := accAfter_load s E h
  rw [ha, ← memAt_accMarked A s E]
  rfl

theorem memAt_accAfter_store (h : A.k.load = false) : memAt (accAfter A s E) = memAt (accStored A s E) := by
  obtain ⟨p, hp⟩ := clearPoison_only (accStored A s E) (A.entry E) (A.home E) (A.locs E)
  rw [accAfter_store s E h, hp]
  rfl

theorem poison_accAfter_load (h : A.k.load = true) : (accAfter A s E).poison = s.poison := by
  obtain ⟨rows, ha⟩ := accAfter_load s E h
  rw [ha]
  exact poison_accMarked A s E

theorem poison_accStored : (accStored A s E).poison = s.poison := by
  obtain ⟨m, hs⟩ := accStored_only A s E
  rw [hs]
  exact poison_accMarked A s E

/-- A byte that no element of an access touches is as it was. -/
theorem memAt_accAfter_untouched {m k : Nat} (h : ¬A.touches E m k) : (memAt (accAfter A s E) m).read k = (memAt s m).read k := by
  cases hl : A.k.load with
  | true => rw [memAt_accAfter_load s E hl]
  | false =>
    rw [memAt_accAfter_store s E hl, ← memAt_accMarked A s E]
    refine List.foldlRecOn _ _ (motive := fun t => (memAt t m).read k = _) rfl fun t ht e he => ?_
    exact (memAt_writeElem_other (fun b hb hk => h ⟨e.1, (List.of_mem_zip he).1, b, hb, hk⟩) t _ _).trans ht

/-- Elements of a store to a slice that do not overlap hold their codes. -/
theorem readElem_accAfter {q : Nat} (hl : A.k.load = false) (hok : bankpOk (A.entry E).bankp = true) (hh : A.home E = .slice q)
    (hlen : (accCodes A E).length = (A.locs E).length)
    (hapart : (A.locs E).Pairwise fun a b => a + (A.entry E).width ≤ b ∨ b + (A.entry E).width ≤ a) (c : Nat) (x : Ctx)
    {j : Nat} (hj : j < (A.locs E).length) :
    readElem (accAfter A s E) c x (A.entry E) (.slice q) ((A.locs E).getD j 0) = (accCodes A E).getD j 0 % 2 ^ (A.entry E).width := by
  have hall : accStored A s E = writeAll (accMarked A s E) q (A.entry E).bankp (A.entry E).width ((A.locs E).zip (accCodes A E)) := by
    unfold accStored
    rw [hh]
    rfl
  have hslice : (accAfter A s E).slice = (accStored A s E).slice := congrFun (memAt_accAfter_store s E hl) 1
  have hfst : ((A.locs E).zip (accCodes A E)).map Prod.fst = A.locs E := List.map_fst_zip hlen.ge
  have hmem : ((A.locs E).getD j 0, (accCodes A E).getD j 0) ∈ (A.locs E).zip (accCodes A E) := by
    have hj' : j < (accCodes A E).length := hlen ▸ hj
    rw [List.getD_eq_getElem _ _ hj, List.getD_eq_getElem _ _ hj', List.mem_iff_getElem]
    exact ⟨j, by rw [List.length_zip]; omega, List.getElem_zip⟩
  rw [readElem_slice, readAt, hslice, hall]
  exact readAt_writeAll hok (fmtWidth_pos _) q (hfst.symm ▸ hapart) _ _ hmem

end

/-! ## The statements -/

section
variable {A : Spec.Acc} {E : Env}

theorem length_accCodes_vec (h : A.vec = true) : (accCodes A E).length = (A.locs E).length := by
  simp [accCodes, storeCodes, h]

theorem accCodes_vec (h : A.vec = true) {j : Nat} (hj : j < (A.locs E).length) :
    (accCodes A E).getD j 0 = laneOf (rdV E.c A.d.toNat) (laneWidth (A.entry E).width) j := by
  simp [accCodes, storeCodes, h, hj]

theorem accCodes_scalar (h : A.vec = false) : accCodes A E = [(rdS E.c A.d.toNat).toNat] := by
  simp [accCodes, storeCodes, h]

/-- A scalar access has one element. -/
theorem locs_scalar (h : A.vec = false) : ∃ a, A.locs E = [a] := by
  simp [Spec.Acc.locs, accCoords, h]

end

theorem accessBytes : Spec.AccessMemory := by
  intro i A s s1 r t x u hrow hi he hf hr
  rw [access_free hrow hi he hf] at hr
  obtain rfl := Host.Outcome.next.inj hr
  rw [← go_cur hi]
  have hmeta := gmeta_accAfter_read A s1 (Spec.env s1 t x u)
  have hsame := gmeta_accNoted A s1 (Spec.env s1 t x u)
  have hok : bankpOk (A.entry (Spec.env s1 t x u)).bankp = true := bankpOk_of_entryOk (entryOk_of_layout hf.layout)
  refine ⟨fun hl => ?_, fun k hk => memAt_accAfter_untouched s1 _ hk, fun k hk => memAt_accAfter_untouched s1 _ hk,
    fun k hk => memAt_accAfter_untouched s1 _ hk, fun hl hv k hh a ha => ?_, fun hl hv k hh hpw j hj => ?_, fun hk => ?_,
    ⟨fun g hg => ⟨fun hk => ?_, fun b hk => ?_, fun hk => ?_⟩, fun g hg => ?_⟩, ?_, ?_⟩
  · have hm := memAt_accAfter_load s1 (Spec.env s1 t x u) hl
    exact ⟨congrFun hm 1, congrFun hm 2, congrFun hm 3, poison_accAfter_load s1 _ hl⟩
  · obtain ⟨a', hlocs⟩ := locs_scalar (E := Spec.env s1 t x u) hv
    have hcodes := accCodes_scalar (E := Spec.env s1 t x u) hv
    have hread := readElem_accAfter s1 (Spec.env s1 t x u) hl hok hh (by rw [hlocs, hcodes]; rfl) (by rw [hlocs]; exact List.pairwise_singleton _ _)
      t.ctx x (j := 0) (by rw [hlocs]; exact Nat.one_pos)
    rw [hlocs] at ha hread
    rw [hcodes] at hread
    rw [List.mem_singleton.1 ha]
    exact hread
  · exact (readElem_accAfter s1 _ hl hok hh (length_accCodes_vec hv) hpw t.ctx x hj).trans (by rw [accCodes_vec hv hj]; rfl)
  · rw [← metaEffect_same hk (accNoted A s1 (Spec.env s1 t x u)) (gransAt _ _ _) (accVersion _ A.k A.b)] at hsame
    exact (gmeta_accAfter A s1 _).trans hsame
  · exact full_of_read ((hmeta g).trans (by rw [if_pos hg, hk]; rfl))
  · exact full_of_read ((hmeta g).trans (by rw [if_pos hg, hk]; rfl))
  · have hv : (rdS (coreAt s1 s1.cur) A.b.toNat).toNat / 2 ^ 25 % 128 = (rdS (coreAt s1 s1.cur) A.b.toNat).toNat / 2 ^ 25 := by omega
    obtain ⟨hversion, hfull⟩ := version_of_read ((hmeta g).trans (by rw [if_pos hg, hk]; rfl))
    exact ⟨hversion.trans hv, hfull⟩
  · exact (hmeta g).trans (if_neg hg)
  · exact caddy_accAfter A s1 (Spec.env s1 t x u)
  · exact dpoison_accAfter A s1 (Spec.env s1 t x u)

section
variable {A : Spec.Acc} {s : State} {E : Env} {q : Nat}

/-- The first byte whose line forbids the access, in the half that Spec.Acc.half names. -/
theorem conflictByte_half (st : BitVec 16) : conflictByte s (A.entry E) q (A.locs E) (!A.k.load) st =
    (A.bytes E).find? (fun b => decide (A.half (sget 0#32 s.conf (A.line E q b)) = st)) := by
  unfold conflictByte Spec.Acc.half
  cases A.k.load <;> rfl

/-- The conflict words that an access with a stamp leaves. -/
theorem conf_accAfter_stamped {st : BitVec 16} (h : A.stamp E q st) (k : Nat) : sget 0#32 (accAfter A s E).conf k =
    if ∃ b ∈ A.bytes E, A.line E q b = k then stamped (!A.k.load) st (sget 0#32 s.conf k) else sget 0#32 s.conf k := by
  obtain ⟨hh, hc, p, b, hp, rfl⟩ := h
  obtain ⟨cores, fresh, hn⟩ := noteHome_only s E.n (A.home E)
  rw [hh] at hp
  rw [conf_accAfter, accNoted, if_pos hc, hn, hh, stampAccess_slice hp, conf_stampLines]
  simp only [mem_linesOf]
  rfl

end

theorem accessConflicts : Spec.AccessConflicts := by
  intro i A s s1 t x u q st hrow hi he E word_ hstamp
  refine ⟨fun hf b hb => ?_, fun r hf hr => ?_⟩
  · obtain ⟨hh, hc, p, m, hp, rfl⟩ := hstamp
    rw [hh] at hp
    refine access_traps hrow hi he hf.toAccBefore ?_
    rw [accTicketGuard_pass hf, accConflictGuard, if_pos hc, hh, conflictGuard_slice hp, conflictByte_half]
    have hb : (A.bytes E).find? (fun b => decide (A.half (sget 0#32 s1.conf (A.line E q b)) = stampOf p)) = some b := hb
    rw [hb]
    cases A.k.load <;> rfl
  · rw [access_free hrow hi he hf] at hr
    obtain rfl := Host.Outcome.next.inj hr
    have hconf := conf_accAfter_stamped (s := s1) hstamp
    refine ⟨fun b hb => (hconf _).trans ?_, fun k hk => (hconf k).trans (if_neg fun ⟨b, hb, he⟩ => hk b hb he)⟩
    rw [if_pos ⟨b, hb, rfl⟩]
    cases A.k.load <;> rfl

theorem accessPoison : Spec.AccessPoison := by
  intro i A s s1 t x u q hrow hi he E hh
  refine ⟨fun hl hf hc hm b hb hp hmin => ?_, fun r hl hf hr => ?_⟩
  · refine access_traps hrow hi he hf.toAccBefore ?_
    rw [accTicketGuard_pass hf, accConflictGuard_pass (by rwa [hl]), accMetaGuard_pass hm, accPoisonGuard, if_pos hl, hh, poisonGuard_slice hb hp hmin]
    simp only [poisonTrap, Nat.zero_mul, Nat.add_zero]
    rfl
  · rw [access_free hrow hi he hf] at hr
    obtain rfl := Host.Outcome.next.inj hr
    have hpoison : ∀ k, k ∈ (accAfter A s1 E).poison ↔
        k ∈ s1.poison ∧ ∀ g, A.whole E g → granKey q (physOff (A.entry E).bankp (16 * g)) ≠ k := fun k => by
      rw [accAfter_store s1 E hl, hh, mem_clearPoison, poison_accStored]
      rfl
    exact ⟨fun g hg hk => ((hpoison _).1 hk).2 g hg rfl, fun k hk => (hpoison k).trans (and_iff_left hk)⟩

/-- Settles O12: the bytes (memAt_accAfter_untouched, readElem_accAfter), the metadata (gmeta_accAfter_read), the conflict words
(conf_accAfter_stamped) and the poison (mem_clearPoison) that an access leaves, and the guards of CONFLICT and POISON. -/
theorem accessMemory : Obligations.AccessMemory := ⟨accessBytes, accessConflicts, accessPoison⟩

end Sys2Proof.Machine
end

section
/-! PROOF. Layout control and reclaim (O13; R169, R182, R183). -/

namespace Sys2Proof.Machine

section
variable {s s1 : State} {d a b h : Reg} {w l : BitVec 4} {t : Task} {x : Ctx} {u : Run}

theorem layRdBody_reads (he : taskEnv s s.cur = some (t, x, u)) : layRdBody d w h l s =
    longRes s l [sres (coreAt s s.cur) d ((handleEntry (Spec.env s t x u) h.toNat).w w.toNat)] := by
  rw [layRdBody, withEnv_eq (Spec.env s t x u) he rfl]
  rfl

/-- A coordinate is out of range where one below the rank is not below its extent. -/
theorem outOfRange_eq_none_iff {e : Entry} {cs : List Nat} : outOfRange e cs = none ↔ ∀ k < e.rank, cs.getD k 0 < e.ext k := by
  simp [outOfRange]

theorem laySelBody_index (he : taskEnv s s.cur = some (t, x, u))
    (hok : entryOk (Spec.env s t x u) (handleEntry (Spec.env s t x u) h.toNat) = true) : laySelBody d a b h l s =
      longRes s l [sres (coreAt s s.cur) d
        (let e := handleEntry (Spec.env s t x u) h.toNat
         let c := coreAt s s.cur
         let cs := coordsOf e (rdS c a.toNat).toNat (rdS c b.toNat).toNat c.cr.coord2.toNat c.cr.coord3.toNat
         if ∀ k < e.rank, cs.getD k 0 < e.ext k then canonical e cs else 0xFFFFFFFF#32)] := by
  rw [laySelBody, withEnv_eq (Spec.env s t x u) he rfl]
  simp only [hok, Bool.true_eq_false, if_false, outOfRange_eq_none_iff]
  rfl

end

theorem layoutControl : Spec.LayoutControl := by
  intro s s1 d a b h w l t x u he
  refine ⟨fun hi => ?_, fun hi => ?_, fun hi hok => ?_⟩
  · rw [← go_cur hi] at he ⊢
    exact issue_moves hi rfl (layRdBody_reads he)
  · rw [← go_cur hi]
    exact issue_moves hi rfl rfl
  · rw [← go_cur hi] at he ⊢
    exact issue_moves hi rfl (laySelBody_index he hok)

/-- An entry with a version, of a home that its partition has, has no LAYOUT cause for a reclaim (R169). -/
theorem entryCause_eq_none {E : Env} {f : Form} {e : Entry} (hok : entryOk E e = true) (hflags : f.flags e = none)
    (hhome : homeOf E.x E.n e ≠ .bad) (hreach : f.reach (homeOf E.x E.n e) = none) (hfmts : f.fmts = none) : entryCause E f e = none := by
  simp only [entryCause, hok, hflags, hhome, hreach, hfmts, Bool.true_eq_false, if_false]

/-- The next version, by a reader that has not reclaimed it (R169). -/
theorem reclaimStep_next {k : RTracker} {m v readers : Nat} (hm : m ∉ k.rmask) (hv : (v + 128 - k.rver % 128) % 128 = 1) :
    reclaimStep k m v readers = .goes
      (if (insertNat m k.rmask).length = readers then { rver := (k.rver + 1) % 128, rmask := [] } else { k with rmask := insertNat m k.rmask }) := by
  have hc : k.rmask.contains m = false := Bool.eq_false_of_not_eq_true (mt List.contains_iff_mem.1 hm)
  simp only [reclaimStep, hv, hc, if_true, Bool.false_eq_true, if_false]

/-- A reclaim whose tracker is near, or has been reached, does what the tracker's step says (R164, R169). -/
theorem reclaimBody_goes {s : State} {a h : Reg} {l : BitVec 4} {t : Task} {x : Ctx} {u : Run} {E : Env} {m : Nat} {k : RTracker}
    (he : taskEnv s s.cur = some (t, x, u)) (hE : E = Spec.env s t x u) {e : Entry} (hent : e = handleEntry E h.toNat)
    (hcause : entryCause E { flags := fun e => if e.ver then none else some 0x02, reach := fun _ => none } e = none)
    (hmember : groupIndex E.x e.group E.prel = some m) (hreader : m < e.readers)
    (hnear : clusterOf (logical E.x e.prod) = clusterOf E.n ∨ atHome E.c = true)
    (hstep : reclaimStep (rtrackOf E.x e.num) m ((rdS E.c a.toNat).toNat % 128) e.readers = .goes k) :
    reclaimBody a h l s = longRes (updCtx s E.t.ctx (fun x => { x with rtrack := tset x.rtrack e.num k })) l [] := by
  have hat : ¬(clusterOf (logical E.x e.prod) ≠ clusterOf E.n ∧ atHome E.c = false) := fun ⟨hne, hat⟩ =>
    hnear.elim hne fun hn => Bool.false_ne_true (hat.symm.trans hn)
  subst hent
  rw [reclaimBody, withEnv_eq E he hE]
  simp only [hcause, hmember, Nat.not_le.2 hreader, hat, hstep, if_false]

theorem reclaimCompletes : Spec.ReclaimCompletes := by
  intro s s1 a h l t x u m he hi E e k hok hver hhome hmember hreader hnear hm hv
  rw [← go_cur hi] at he hhome hmember hnear ⊢
  have hcause : entryCause E { flags := fun e => if e.ver then none else some 0x02, reach := fun _ => none } e = none :=
    entryCause_eq_none hok (if_pos hver) hhome rfl rfl
  refine issue_moves hi rfl ?_
  rw [reclaimBody_goes he rfl rfl hcause hmember hreader hnear (reclaimStep_next hm hv), longRes, updCtx_cur]
  rfl

/-- Settles O13: lay.rd and lay.wr by their bodies, lay.sel by the range of its coordinates (outOfRange_eq_none_iff), reclaim by the
tracker's step (reclaimStep_next). -/
theorem layoutInstructions : Obligations.LayoutInstructions := ⟨layoutControl, reclaimCompletes⟩

end Sys2Proof.Machine
end

section
/-! PROOF. Barriers (O18; R300 to R304). -/

namespace Sys2Proof.Machine

/-! ## Groups -/

theorem withGroup_eq {s : State} {g : BitVec 2} {f : Env → Nat → Body} {t : Task} {x : Ctx} {u : Run} {k : Nat}
    (he : taskEnv s s.cur = some (t, x, u)) (hk : Spec.groupReg (coreAt s s.cur) g = some k) :
    withGroup s g f = f (Spec.env s t x u) k := by
  unfold Spec.groupReg at hk
  dsimp only at hk
  rw [withGroup, withEnv_eq (Spec.env s t x u) he rfl]
  split at hk
  next hv =>
    obtain rfl := Option.some.inj hk
    exact if_pos hv
  next => cases hk

/-- The release count of a group is that of its run (R300). -/
theorem grunOf_g (x : Ctx) (k : Nat) : (grunOf x k).g = releaseOf x k := by
  unfold grunOf releaseOf tgetD
  cases tget x.gruns k <;> rfl

theorem nextFault_eq_none {c : Core} {f : AFault → Bool} (h : ∀ a ∈ c.afaults, f a = false) : nextFault c f = none := by
  have hnil : c.afaults.filter f = [] := List.filter_eq_nil_iff.2 fun a ha => by simp [h a ha]
  rw [nextFault, hnil]
  rfl

section
variable {s : State} {E : Env} {k : Nat}

/-- An arrive with no command or fault of its group due, in the phase of the group, is counted (R300, R301). -/
theorem arriveOn_counts (hcmds : ∀ e ∈ E.c.cmds, e.2.group ≠ some k) (hfaults : ∀ f ∈ E.c.afaults, f.group ≠ some k)
    (hphase : phaseOf E.x k E.prel = releaseOf E.x k) (go : State → Body) :
    arriveOn s E k go = go (countArrive (finishStores s E.n) E k) := by
  have hnone : E.c.cmds.any (fun e => decide (e.2.group = some k)) = false := List.any_eq_false.2 fun e he => by simp [hcmds e he]
  have hfault : nextFault E.c (fun f => decide (f.group = some k)) = none := nextFault_eq_none fun f hf => by simp [hfaults f hf]
  have hg : phaseOf E.x k E.prel = (grunOf E.x k).g := hphase.trans (grunOf_g E.x k).symm
  unfold arriveOn
  simp only [hnone, hfault, Bool.false_eq_true, if_false]
  exact if_pos hg

theorem cur_countArrive (s : State) (E : Env) (k : Nat) : (countArrive s E k).cur = s.cur := updCtx_cur ..

theorem reached_of {g p : BitVec 16} (h : (g - p).toNat < 2 ^ 15) : reached g p = true := decide_eq_true h

end

theorem barriersComplete : Spec.BarriersComplete := by
  intro s s1 d a g l t x u k he hk E
  refine ⟨fun hi hcmds hfaults hphase => ?_, fun hi hrel => ?_, fun hi harr hrel => ?_, fun hi => ?_⟩
  · rw [← go_cur hi] at he hk hphase ⊢
    refine issue_moves hi rfl ?_
    rw [barArrBody, withGroup_eq he hk, arriveOn_counts hcmds hfaults hphase, longRes, cur_countArrive]
    rfl
  · rw [← go_cur hi] at he hk ⊢
    refine issue_moves hi rfl ?_
    rw [barWaitBody, withGroup_eq he hk]
    exact if_pos (reached_of hrel)
  · rw [← go_cur hi] at he hk hrel ⊢
    refine issue_moves hi rfl ?_
    rw [barSyncBody, withGroup_eq he hk]
    rw [if_pos (List.contains_iff_mem.2 harr), syncWait]
    exact if_pos (reached_of hrel)
  · rw [← go_cur hi] at he hk ⊢
    refine issue_moves hi rfl ?_
    rw [barPhaseBody, withGroup_eq he hk]
    rfl

/-! ## The release (R300) -/

/-- A sweep changes conflict words only (R173). -/
theorem sweepRegion_only (s : State) (e : Entry) (core : Nat) (st : BitVec 16) : ∃ conf, sweepRegion s e core st = { s with conf := conf } :=
  foldl_only (fun s c => { s with conf := c }) (fun _ _ _ => rfl) _ (fun _ _ => ⟨_, rfl⟩) (fun s => ⟨s.conf, rfl⟩) _ _

theorem sweepCore_only (s : State) (E : Env) (g : Nat) (st : BitVec 16) : ∃ conf, sweepCore s E g st = { s with conf := conf } := by
  refine foldl_only (fun s c => { s with conf := c }) (fun _ _ _ => rfl) _ (fun s k => ?_) (fun s => ⟨s.conf, rfl⟩) _ _
  dsimp only
  split
  · split
    · exact sweepRegion_only ..
    · exact ⟨s.conf, rfl⟩
  · exact ⟨s.conf, rfl⟩

theorem sweep_only (s : State) (c : Nat) (x : Ctx) (g : Nat) (st : BitVec 16) : ∃ conf, sweep s c x g st = { s with conf := conf } :=
  foldl_only (fun s c => { s with conf := c }) (fun _ _ _ => rfl) _
    (fun s _ => foldl_only (fun s c => { s with conf := c }) (fun _ _ _ => rfl) _ (fun _ _ => sweepCore_only ..) (fun s => ⟨s.conf, rfl⟩) _ s)
    (fun s => ⟨s.conf, rfl⟩) _ _

section
variable {s : State} {c g : Nat} {x : Ctx} {r : GroupRun} (hx : ctxAt s c = some x) (hr : tget x.gruns g = some r)
include hx hr

/-- A full group of a context that moves is released: conflict words and its context apart nothing changes. -/
theorem releaseBarrier_full (hfull : r.arrived.length = gCount (groupWord x g 1)) (hm : moving x = true) :
    ∃ conf, releaseBarrier s c g =
      setCtx { s with conf := conf } c { x with gruns := tset x.gruns g { g := r.g + 1#16, arrived := [] } } := by
  obtain ⟨conf, hconf⟩ : ∃ conf, (if r.g + 1#16 = 0x8000#16 ∨ r.g + 1#16 = 0#16 then sweep s c x g (r.g + 1#16) else s) =
      { s with conf := conf } := by
    split
    · exact sweep_only ..
    · exact ⟨s.conf, rfl⟩
  have hx' : ctxAt { s with conf := conf } c = some x := hx
  refine ⟨conf, ?_⟩
  unfold releaseBarrier
  simp only [hx, hr, hfull, hm, decide_true, Bool.and_self, if_true, hconf, updCtx, hx']

theorem releaseBarrier_still (h : r.arrived.length ≠ gCount (groupWord x g 1) ∨ moving x = false) : releaseBarrier s c g = s := by
  unfold releaseBarrier
  simp only [hx, hr]
  refine if_neg fun hc => ?_
  obtain ⟨hfull, hm⟩ := Bool.and_eq_true_iff.1 hc
  rcases h with h | h
  · exact h (of_decide_eq_true hfull)
  · rw [h] at hm
    cases hm

end

theorem barrierRelease : Spec.BarrierRelease := by
  intro s x r hx hr
  refine ⟨fun hfull hm => ?_, fun h => congrArg Host.Outcome.next (releaseBarrier_still hx hr h)⟩
  obtain ⟨conf, h⟩ := releaseBarrier_full hx hr hfull hm
  refine ⟨_, _, congrArg Host.Outcome.next h, tget_tset_same .., tget_tset_same .., rfl, rfl⟩

/-- Settles O18: the bodies with the group that their register names (withGroup_eq, arriveOn_counts), and the release of a full group
(releaseBarrier_full, releaseBarrier_still). -/
theorem barriers : Obligations.Barriers := ⟨barriersComplete, barrierRelease⟩

end Sys2Proof.Machine
end

section
/-! PROOF. Waits that end, results that arrive and the watchdogs of waits (O46; R95, R96, R164 to R170, R230, R294 to R298, R310, R328, R357,
R386). A step that ends a wait runs the instruction again as a move of its core would (resume_runs), once its row's budget is over
(waitStep_ends). -/

namespace Sys2Proof.Machine

/-! ## Trying an instruction again -/

section
variable {s : State} {n : Nat} {ks : List WaitKind} {w : Waiting}

theorem waitsIn_of (hw : (coreAt s n).wait = some w) (hk : w.kind ∈ ks) : waitsIn s n ks = true := by
  simp [waitsIn, hw, hk]

theorem waitsIn_eq_false (h : ∀ w, (coreAt s n).wait = some w → w.kind ∉ ks) : waitsIn s n ks = false := by
  unfold waitsIn
  split
  next w hw => simp [h w hw]
  next => rfl

theorem resume_still (h : ∀ w, (coreAt s n).wait = some w → w.kind ∉ ks) : resume ks s n = .next s := by
  rw [resume, waitsIn_eq_false h]
  rfl

/-- The instructions that may wait are tried again with their meanings. -/
theorem waitExec_eq_exec {j : Instr} (h : Spec.mayWait j = true) (s : State) : waitExec j s = exec j s := by
  cases j
  case ld | st | ldFe | ldFeClr | stFe | stFeForce | ldV | stV | vld | vst | vldFe | vldFeClr | vstFe | vstFeForce | vldV
      | vstV | reclaim | amoAdd | amoAnd | amoOr | amoXor | amoMin | amoMax | amoSwap | amoCas | amoIncb | amoIncw | amoDecnz
      | amoAddlim | tamoFadd | tamoFmax | tamoFmin | tamoOr | tamoSkip | tfence | annAmoAdd | annAmoAnd | annAmoOr
      | annAmoXor | annAmoMin | annAmoMax | annAmoSwap | annLd | waitCnt | mtxLock | mtxUnlock | copyLaunch | gatherLaunch
      | exchangeLaunch | msgSend | msgSret | mxFill | mxFillCol | mxAcld | mxAcst | prmOpen | prmRedeem | prmRedeemT
      | optCard | optLdr | optWait => rfl
  all_goals cases h

variable {j : Instr} {code : Word}

theorem coreAgain_runs (h : Spec.AtInstr { s with cur := n } n j code) (run : Instr → State → Out) :
    coreAgain run s n = run j { s with cur := n } := by
  obtain ⟨hfree, hruns, hnothing, halone, hfetched, hdecoded⟩ := h
  have htrap : (coreAt s n).trap.isSome = false := by rw [show (coreAt s n).trap = none from hfree]; rfl
  have hrun : runFetched run { s with cur := n } n = run j { s with cur := n } := runFetched_instr hruns hfetched hdecoded
  simp only [coreAgain, htrap, hruns, hnothing, halone, hrun, Bool.false_eq_true, Bool.true_eq_false, if_false]

/-- A core that waits in one of the ways of a step, at the boundary before its instruction, runs it again; the core that moves stays. -/
theorem resume_runs (hw : (coreAt s n).wait = some w) (hk : w.kind ∈ ks) (h : Spec.AtInstr { s with cur := n } n j code)
    (hj : Spec.mayWait j = true) {t : State} (ht : exec j { s with cur := n } = .next t) : resume ks s n = .next { t with cur := s.cur } := by
  rw [resume, waitsIn_of hw hk, coreAgain_runs h, waitExec_eq_exec hj, ht]
  rfl

end

/-! ## The rows of the steps -/

/-- A step that ends waits: those in the ways ks of core n, once they have lasted the budget. -/
def waitStep (ks : List WaitKind) (budget : Option (Core → Word)) (s : State) (n : Nat) : Out :=
  if budget.all (overBudget s n ks) then resume ks s n else .next s

theorem exec_waitRow {i : Instr} {ks : List WaitKind} {budget : Option (Core → Word)} (h : Spec.waitRow i = some (ks, budget)) {s : State}
    (harr : i = .ticketArrival → s.input.arr = none) : exec i s = waitStep ks budget s s.input.who := by
  cases i
  case ticketArrival =>
    cases h
    simp only [exec, execTicketArrival, harr rfl]
    rfl
  case homeBankAccess | ticketRetry | mutexRetry | fullEmptyWaitEnd | versionWaitEnd | reclaimWaitEnd | phaseWaitEnd | lockWaitEnd
      | ticketGap | tfenceGapExpiry | tktLoadGapExpiry | optWaitGapExpiry | sendStall =>
    cases h
    rfl
  all_goals cases h

section
variable {s : State} {n : Nat} {ks : List WaitKind} {budget : Option (Core → Word)}

theorem waitStep_still (h : ∀ w, (coreAt s n).wait = some w → w.kind ∉ ks ∨ ∃ b, budget = some b ∧ w.cycles < (b (coreAt s n)).toNat) :
    waitStep ks budget s n = .next s := by
  cases budget with
  | none => exact resume_still fun w hw => (h w hw).resolve_right nofun
  | some b =>
    have hover : overBudget s n ks b = false := overBudget_eq_false fun w hw => (h w hw).imp_right fun ⟨b', hb, hlt⟩ => by
      rwa [Option.some.inj hb]
    rw [waitStep, Option.all_some, hover]
    rfl

theorem waitStep_ends {w : Waiting} {j : Instr} {code : Word} (hw : (coreAt s n).wait = some w) (hk : w.kind ∈ ks)
    (hb : ∀ b, budget = some b → (b (coreAt s n)).toNat ≤ w.cycles) (h : Spec.AtInstr { s with cur := n } n j code)
    (hj : Spec.mayWait j = true) {t : State} (ht : exec j { s with cur := n } = .next t) :
    waitStep ks budget s n = .next { t with cur := s.cur } := by
  have hall : budget.all (overBudget s n ks) = true := by
    cases budget with
    | none => rfl
    | some b => exact overBudget_of hw hk (hb b rfl)
  rw [waitStep, if_pos hall, resume_runs hw hk h hj ht]

end

theorem waitEnds_spec : Spec.WaitEnds := by
  intro i ks budget s hrow harr n s0
  rw [exec_waitRow hrow harr]
  refine ⟨waitStep_still, fun w j code hw hk hb h hj => ?_⟩
  obtain ⟨t, ht⟩ := goesOn_exec j s0
  exact ⟨t, ht, waitStep_ends hw hk hb h hj ht⟩

/-! ## Results that arrive (R95, R96, R268) -/

theorem exec_completionRow {i : Instr} {kind : PKind} (h : Spec.completionRow i = some kind) (s : State) :
    exec i s = .next (updCore s s.input.who (completeFirst fun p => decide (p.kind = kind))) := by
  cases i
  case interlockedResult | instructionCompletion | gangMmaCompletion =>
    cases h
    rfl
  all_goals cases h

section
variable {c : Core} {kind : PKind}

theorem completeFirst_writes {k : Nat} {p : Pending} (hk : c.inflight.findIdx? (fun p => decide (p.kind = kind) && !p.done) = some k)
    (hp : c.inflight[k]? = some p) :
    completeFirst (fun p => decide (p.kind = kind)) c = prune { finish c p with inflight := c.inflight.set k { p with done := true } } := by
  simp only [completeFirst, hk, hp]

theorem completeFirst_none (h : ∀ p ∈ c.inflight, p.kind = kind → p.done = true) : completeFirst (fun p => decide (p.kind = kind)) c = c := by
  have hnone : c.inflight.findIdx? (fun p => decide (p.kind = kind) && !p.done) = none :=
    List.findIdx?_eq_none_iff.2 fun p hp => by
      by_cases hk : p.kind = kind
      · simp [h p hp hk]
      · simp [hk]
  simp only [completeFirst, hnone]

end

theorem resultsArrive : Spec.ResultsArrive := by
  intro i kind s hrow c
  refine ⟨_, exec_completionRow hrow s, fun m hm => coreAt_updCore_other _ _ hm, rfl, sameMemory_rfl s, fun k p hk hp => ?_, fun h => ?_⟩
  · rw [coreAt_updCore, completeFirst_writes hk hp]
    exact ⟨⟨fun _ => rfl, fun _ => rfl, fun _ => rfl⟩, rfl, rfl⟩
  · rw [coreAt_updCore]
    exact completeFirst_none h

/-! ## Watchdogs (R294, R295, R297, R298, R328, R357, R386) -/

theorem gapDue_of {c : Core} {w : Waiting} {k : WaitKind} (hw : c.wait = some w) (hk : w.kind = k) (hb : c.cr.tfwd.toNat ≤ w.cycles) :
    gapDue c k = true := by
  simp [gapDue, hw, hk, hb]

theorem atHome_of_ticket {c : Core} {w : Waiting} (hw : c.wait = some w) (hk : w.kind = .ticket) : atHome c = true := by
  simp [atHome, hw, hk]

/-- The wait of a core and the budgets of its watchdogs are as before its needed results were written. -/
theorem wait_of_issues {j : Instr} {sh : Shape} {s s1 : State} (hi : Issues j sh s s1) : (coreAt s1 s1.cur).wait = (coreAt s s.cur).wait ∧
    (coreAt s1 s1.cur).cr.tfwd = (coreAt s s.cur).cr.tfwd ∧ (coreAt s1 s1.cur).cr.swd = (coreAt s s.cur).cr.swd := by
  obtain ⟨_, _, _, _, _, _, _, _, _, _, _, _, hk⟩ := completed_completeNeeded (sh.atLevel (coreAt s s.cur)) (coreAt s s.cur)
  rw [go_cur hi, go_state hi, coreAt_updCore, hk]
  exact ⟨rfl, rfl, rfl⟩

/-! ### A ticketed update that is refused -/

theorem exec_ticketRow {j : Instr} {op : TOp} {fmts : Option (List Nat)} {d a h : Reg} {l : BitVec 4}
    (hrow : Spec.ticketRow j = some (op, fmts, d, a, h, l)) (s : State) :
    exec j s = issue j (amoPair d a h) (tamoBody op fmts d a h l) s := by
  cases j
  case tamoFadd | tamoFmax | tamoFmin | tamoOr | tamoSkip =>
    cases hrow
    rfl
  all_goals cases hrow

/-- The phase that a ticketed update carries is a member's (R295). -/
theorem ticketPhase_some {E : Env} {p : Spot} {k : BitVec 16} (h : ticketPhase E p = some k) :
    carried E p.e (remoteHome E.n p.home) = some (k, true) := by
  unfold ticketPhase at h
  split at h
  next hc => rw [hc, Option.some.inj h]
  next => cases h

section
variable {s : State} {t : Task} {x : Ctx} {u : Run} {E : Env} (he : taskEnv s s.cur = some (t, x, u)) (hE : E = Spec.env s t x u)
include he hE

theorem tamoBody_gap {op : TOp} {fmts : Option (List Nat)} {d a h : Reg} {p : Spot} (hp : spotOf E (ticketForm fmts) h a = .inr p)
    (hmembers : E.x.det = true → bothMembers E p.e p.home = true) (hhome : atHome E.c = true)
    (hlock : lockGuard s E p.e p.home [p.a] true = none)
    (hphase : ∀ k, carried E p.e (remoteHome E.n p.home) = some (k, true) → conflictByte s p.e p.core [p.a] true (stampOf k) = none)
    (hround : field (rdS E.c (d.toNat + 1)) 15 0 < p.e.round) (harr : arrive s (Spec.arrival E op d p) = .refused)
    (hdue : gapDue E.c .ticket = true) (l : BitVec 4) : tamoBody op fmts d a h l s = .trap (gapTrap s p.e p.gran) := by
  have hallowed : (E.x.det && !bothMembers E p.e p.home) = false := by
    cases hd : E.x.det with
    | true => rw [hmembers hd]; rfl
    | false => rfl
  rw [tamoBody, withEnv_eq E he hE, withSpot_eq _ hp]
  unfold Spec.arrival at harr
  cases hp : ticketPhase E p with
  | none =>
    simp only [hallowed, hlock, homeGuard_pass fun _ => hhome, harr, hdue, Nat.not_le.2 hround, Guard.ofTrap, firstGuard, guarded,
      Bool.false_eq_true, if_false, if_true]
  | some k =>
    simp only [hallowed, hlock, hphase k (ticketPhase_some hp), homeGuard_pass fun _ => hhome, harr, hdue, Nat.not_le.2 hround,
      Guard.ofTrap, firstGuard, guarded, Option.map_none, Bool.false_eq_true, if_false, if_true]

end

/-! ### A fence of tickets that granules hold back -/

theorem lowestGran_least (e : Entry) {l : List Nat} (hl : l ≠ []) :
    ∃ h ∈ l, lowestGran e l = some h ∧ ∀ k ∈ l, logGran e.bankp (h % 2 ^ 17) ≤ logGran e.bankp (k % 2 ^ 17) := by
  induction l with
  | nil => exact absurd rfl hl
  | cons g l ih =>
    by_cases hnil : l = []
    · subst hnil
      exact ⟨g, List.mem_cons_self, rfl, fun k hk => by rw [List.mem_singleton.1 hk]⟩
    · obtain ⟨h, hh, heq, hle⟩ := ih hnil
      simp only [lowestGran, heq]
      split
      next hlt =>
        refine ⟨h, List.mem_cons_of_mem _ hh, rfl, fun k hk => ?_⟩
        rcases List.mem_cons.1 hk with rfl | hk
        · exact hlt.le
        · exact hle k hk
      next hge =>
        refine ⟨g, List.mem_cons_self, rfl, fun k hk => ?_⟩
        rcases List.mem_cons.1 hk with rfl | hk
        · exact le_rfl
        · exact (Nat.not_lt.1 hge).trans (hle k hk)

/-- The only lowest key of a list. -/
theorem lowestGran_eq {e : Entry} {l : List Nat} {g : Nat} (hg : g ∈ l)
    (hlow : ∀ k ∈ l, k ≠ g → logGran e.bankp (g % 2 ^ 17) < logGran e.bankp (k % 2 ^ 17)) : lowestGran e l = some g := by
  obtain ⟨h, hh, heq, hle⟩ := lowestGran_least e (List.ne_nil_of_mem hg)
  by_cases hgh : h = g
  · rw [heq, hgh]
  · exact absurd (hlow h hh hgh) (Nat.not_lt.2 (hle g hg))

theorem trackerOf_iff {s : State} {core g : Nat} : (∃ k, trackerOf s core g = some k) ↔ ∃ k ∈ (coreAt s core).trackers, k.gran = g := by
  rw [← Option.isSome_iff_exists, trackerOf, List.find?_isSome]
  simp only [decide_eq_true_eq]

theorem anyHeld_iff {s : State} {core g : Nat} : anyHeld s core g = true ↔ ∃ k ∈ (coreAt s core).rob, k.gran = g := by
  simp [anyHeld]

/-- The keys that hold a fence back are those of the granules that do (R297). -/
theorem mem_fenceHolds {s : State} {e : Entry} {core q k : Nat} :
    k ∈ fenceHolds s e core q ↔ ∃ g, Spec.holdsBack s e core q g ∧ 2 ^ 17 * core + g = k := by
  unfold fenceHolds Spec.holdsBack
  simp only [List.mem_map, List.mem_filter, List.mem_eraseDups, List.mem_append, Bool.and_eq_true, Bool.not_eq_true', decide_eq_false_iff_not,
    trackerOf_iff, anyHeld_iff]

section
variable {s : State} {t : Task} {x : Ctx} {u : Run} {E : Env} (he : taskEnv s s.cur = some (t, x, u)) (hE : E = Spec.env s t x u)
include he hE

theorem tfenceBody_gap {h a : Reg} {e : Entry} {core g : Nat} (hent : e = handleEntry E h.toNat) (hok : entryOk E e = true)
    (htkt : e.tkt = true) (hhome : homeOf E.x E.n e = .slice core)
    (hlow : lowestGran e (fenceHolds s e core ((rdS E.c a.toNat).toNat % 256)) = some g) (hdue : gapDue E.c .tfence = true) :
    tfenceBody h a s = .trap (gapTrap s e g) := by
  have hcause : entryCause E (ticketForm none) e = none :=
    entryCause_eq_none hok (if_pos htkt) (by rw [hhome]; exact nofun) (by rw [hhome]; rfl) rfl
  subst hent
  rw [tfenceBody, withEnv_eq E he hE]
  simp only [hcause, hhome, hlow, hdue, if_true]

/-! ### A wait for a card that is held, and a message that is refused -/

theorem optWaitBody_gap {d a : Reg} {id : Word} {p : Promise} (hid : id = rdS E.c a.toNat) (hcard : id.toNat % 4 = 3) (hpos : 0 < id.toNat / 4)
    (hissued : id.toNat / 4 ≤ E.c.seq) (hrecent : E.c.seq < id.toNat / 4 + 64) (hnone : ∀ q ∈ cardsOf s E.n, q.ref.xid ≠ id)
    (hheld : heldCard (optAt E.x (clusterOf E.n)) E.n id = some p) (hdue : gapDue E.c .heldCard = true) (l : BitVec 4) :
    optWaitBody d a l s = .trap (promiseTicket .ticketGap p.we (regionAt (optAt E.x (clusterOf E.n)) p.we).cur) := by
  have hzero : id ≠ 0#32 := by
    rintro rfl
    cases hcard
  have hknown : ¬(id.toNat % 4 ≠ 3 ∨ id.toNat / 4 = 0 ∨ E.c.seq < id.toNat / 4 ∨ 64 ≤ E.c.seq - id.toNat / 4) := by omega
  have hqueued : (cardsOf s E.n).any (fun k => decide (k.ref.xid = id)) = false := List.any_eq_false.2 fun q hq => by simp [hnone q hq]
  subst hid
  rw [optWaitBody, withEnv_eq E he hE]
  simp only [hzero, hknown, hqueued, hheld, hdue, Bool.false_eq_true, if_false, if_true]

theorem msgSendBody_stall {d a : Reg} {r : Word} {hops : Nat} {w : Waiting} (hr : r = rdS E.c a.toNat) (hvalid : validRank E.x r = true)
    (hlocal : rankMod r = moduleId E.x → behind s E.t.ctx (ownRank E.x E.prel) r s.packets.length = false ∧ storeMessage s E.t.ctx
      { src := ownRank E.x E.prel, dst := r, seq := sendSeq E.x (ownRank E.x E.prel) r, body := .msg (rdV E.c d.toNat), kept := true } = .refused)
    (hreply : E.c.reply = some (.answered .refused hops)) (hw : E.c.wait = some w) (hk : w.kind = .send) (hb : E.c.cr.swd.toNat ≤ w.cycles)
    (l : BitVec 4) : msgSendBody d a l s = .trap { cause := .sendStall, info := r } := by
  have hrefused : refusedSend s E r = .trap { cause := .sendStall, info := r } := by
    simp only [refusedSend, hw]
    exact if_pos ⟨.inl hk, hb⟩
  subst hr
  rw [msgSendBody, withEnv_eq E he hE]
  simp only [hvalid, hreply, Bool.true_eq_false, if_false]
  split
  next hhere =>
    obtain ⟨hbehind, hstore⟩ := hlocal (of_decide_eq_true hhere)
    simp only [localSend, hbehind, hstore, Bool.false_eq_true, false_and, if_false]
    exact hrefused
  next => exact hrefused

end

/-! ### The statement -/

/-- A watchdog of a wait that has lasted its budget raises what its instruction, tried again, raises. -/
theorem watchdog_raises {i j : Instr} {k : WaitKind} {b : Core → Word} (hrow : Spec.waitRow i = some ([k], some b)) {s s1 : State}
    {w : Waiting} {code : Word} {r : TrapReq} (hw : (coreAt s s.input.who).wait = some w) (hk : w.kind = k)
    (hb : (b (coreAt s s.input.who)).toNat ≤ w.cycles) (h : Spec.AtInstr { s with cur := s.input.who } s.input.who j code)
    (hj : Spec.mayWait j = true) (ht : exec j { s with cur := s.input.who } = .next (takeTrap s1 s.input.who r)) :
    exec i s = .next { takeTrap s1 s.input.who r with cur := s.cur } := by
  have hi : i ≠ .ticketArrival := by
    rintro rfl
    cases hrow
  rw [exec_waitRow hrow fun h => absurd h hi]
  exact waitStep_ends hw (List.mem_singleton.2 hk) (fun b' hb' => Option.some.inj hb' ▸ hb) h hj ht

theorem mayWait_of_ticketRow {j : Instr} {q} (h : Spec.ticketRow j = some q) : Spec.mayWait j = true := by
  simp [Spec.mayWait, h]

theorem mayWait_of_accRow {j : Instr} {A : Spec.Acc} (h : Spec.accRow j = some A) : Spec.mayWait j = true := by
  simp [Spec.mayWait, h]

theorem watchdogTraps : Spec.WatchdogTraps := by
  intro j code s s1 t x u w n s0 traps h he hw E late
  have hgap {sh : Shape} {k : WaitKind} (hi : Issues j sh s0 s1) (hk : w.kind = k) (hlate : late) : gapDue E.c k = true := by
    obtain ⟨hwait, htfwd, -⟩ := wait_of_issues hi
    exact gapDue_of (hwait.trans hw) hk ((congrArg BitVec.toNat htfwd).trans_le hlate)
  have henv {sh : Shape} (hi : Issues j sh s0 s1) : taskEnv s1 s1.cur = some (t, x, u) := by
    rw [go_cur hi]
    exact he
  refine ⟨?_, ?_, ?_, ?_, ?_⟩
  · intro op fmts d a h' l p hrow hi hp hmembers hlock hphase hround harr hk hlate
    obtain ⟨hwait, -, -⟩ := wait_of_issues hi
    have hhome : atHome E.c = true := atHome_of_ticket (hwait.trans hw) hk
    refine watchdog_raises rfl hw hk hlate h (mayWait_of_ticketRow hrow) ((exec_ticketRow hrow s0).trans ?_)
    exact issue_traps hi (tamoBody_gap (henv hi) rfl hp hmembers hhome hlock hphase hround harr (hgap hi hk hlate) l)
  · rintro a h' core g rfl hi e q hok htkt hhome hg hhold hlow htracked hrob hk hlate
    have hsmall : ∀ k, Spec.holdsBack s1 e core q k → k < 2 ^ 17 := by
      rintro k ⟨hk | hk, -⟩
      · obtain ⟨i, hi, rfl⟩ := trackerOf_iff.1 hk
        exact htracked i hi
      · obtain ⟨i, hi, rfl⟩ := anyHeld_iff.1 hk
        exact hrob i hi
    have hleast : lowestGran e (fenceHolds s1 e core q) = some (2 ^ 17 * core + g) := by
      refine lowestGran_eq (mem_fenceHolds.2 ⟨g, hhold, rfl⟩) fun key hkey hne => ?_
      obtain ⟨k, hk, rfl⟩ := mem_fenceHolds.1 hkey
      rw [Nat.mul_add_mod, Nat.mul_add_mod, Nat.mod_eq_of_lt hg, Nat.mod_eq_of_lt (hsmall k hk)]
      exact hlow k (hsmall k hk) hk fun hkg => hne (by rw [hkg])
    have hhome : homeOf E.x E.n e = .slice core := by
      show homeOf x s1.cur e = .slice core
      rw [go_cur hi]
      exact hhome
    exact watchdog_raises rfl hw hk hlate h rfl
      (issue_traps hi (tfenceBody_gap (henv hi) rfl rfl hok htkt hhome hleast (hgap hi hk hlate)))
  · intro A q g hrow hld hi hbefore hhome htkt hchecked hg hk hlate
    have htickets : accTicketGuard A s1 E = .trap (gapTrap s1 (A.entry E) g) := by
      have hcheck : ((A.entry E).tkt && (E.x.det || (A.entry E).chk)) = true := by
        rw [htkt, Bool.true_and, Bool.or_eq_true]
        exact hchecked
      rw [accTicketGuard, if_pos hld, hhome]
      simp only [ticketGuard, hcheck, hg, hgap hi hk hlate, if_true]
    refine watchdog_raises rfl hw hk hlate h (mayWait_of_accRow hrow) ?_
    exact access_traps hrow hi he hbefore (by rw [htickets]; rfl)
  · rintro d a l p rfl hi id o hcard hpos hissued hrecent hnone hheld hk hlate
    have hn : E.n = n := go_cur hi
    refine watchdog_raises rfl hw hk hlate h rfl (issue_traps hi ?_)
    exact (optWaitBody_gap (henv hi) rfl rfl hcard hpos hissued hrecent (hn ▸ hnone) (by rw [hn]; exact hheld) (hgap hi hk hlate) l).trans
      (by rw [hn]; rfl)
  · rintro d a l hops rfl hi hvalid hlocal hreply hk hlate
    have hn : E.n = n := go_cur hi
    obtain ⟨hwait, -, hswd⟩ := wait_of_issues hi
    refine watchdog_raises rfl hw hk hlate h rfl (issue_traps hi ?_)
    refine msgSendBody_stall (henv hi) rfl rfl hvalid (fun hr => ?_) hreply (hwait.trans hw) hk ((congrArg BitVec.toNat hswd).trans_le hlate) l
    rw [Env.prel, hn]
    exact hlocal hr

/-- Settles O46: the steps that end waits run their instruction again (exec_waitRow, waitStep_ends), completion steps write the oldest result
(completeFirst_writes), and each watchdog's instruction then traps (watchdog_raises). -/
theorem waitEnds : Obligations.WaitEnds := ⟨waitEnds_spec, resultsArrive, watchdogTraps⟩

end Sys2Proof.Machine
end
